-- ==== Sys2Proof/Word.lean ====
section
/-! DEFINITION. The word types of the module: 64-bit registers (R10), bytes, 512-bit memory words (R192)
and 128-bit strokes (R114). -/

namespace Sys2Proof

/-- A register, a timestamp TS64 or any other 64-bit quantity (R10, R46). -/
abbrev Word := BitVec 64

/-- One byte of memory or of a message. -/
abbrev Byte := BitVec 8

/-- One 64-byte word of an MU bank, a stream or a buffer (R192). -/
abbrev Line := BitVec 512

/-- One operand transfer train: the words an operand carries, in transfer order. -/
abbrev Words := List Line

end Sys2Proof
end

