-- ==== Sys2Proof/Payload.lean ====
section
/-! DEFINITION. What arrives at the module with a command: message headers and bodies, host data, sensor readings.
A command of the opcode table names an event at the module's edge or inside it; the data that the event brings is an
operand of the command, as plain data. -/

namespace Sys2Proof

/-- The header of a message (R461) without TYPE and LEN, which the row of the table and the body give. -/
structure Hdr where
  /-- FLAGS [7:4], STATUS of a response (R464). -/
  status : Nat
  /-- FLAGS [0], END. -/
  fin : Bool
  /-- Destination module index. -/
  dst : Nat
  /-- Source module index. -/
  src : Nat
  /-- Rack-wide partition tag. -/
  ptag : Nat
  /-- Bits [15:0] of the epoch. -/
  epoch : Nat
  /-- Transaction number. -/
  txn : Nat
  deriving DecidableEq, Repr

/-- A message (R461): TYPE, header and body. -/
structure Msg where
  typ : Nat
  hdr : Hdr
  body : List Byte
  deriving DecidableEq, Repr

/-- What the power controller measures in one control interval (R510), and the free choices of its control law:
the supply it aims at and the firings its pacer grants (R512), which the manual bounds and does not fix. -/
structure PowerSample where
  /-- Input voltage in 10 mV. -/
  vIn : Nat
  /-- Input current in 0.1 A. -/
  iIn : Nat
  /-- Input power in W. -/
  pIn : Nat
  /-- Hottest junction of each fabric die, in degrees C. -/
  dies : List Nat
  /-- Hottest hub junction. -/
  hub : Nat
  /-- Temperature of each of the 32 HBM stacks. -/
  hbm : List Nat
  /-- Input power over some 1 ms exceeded L + 1 %. -/
  exceeded : Bool
  /-- Supply code the control law aims at. -/
  supply : Nat
  /-- CU firings that the pacer grants for the next interval. -/
  refill : Nat
  deriving DecidableEq, Repr

/-- What the signature checks of a firmware bank find, at start-up and at the end of an update (R530, R579): the digest of the
Umeisk key that an image's signature verifies under, none where it verifies under no key. -/
structure BankCheck where
  /-- Signer of the boot image. -/
  boot : Option Nat
  /-- Signer of the runtime image. -/
  run : Option Nat
  deriving DecidableEq, Repr

/-- Parameters of a secured session (R529). -/
structure SessionReq where
  /-- The requester's Diffie-Hellman share and random data. -/
  exchange : List Byte
  /-- Endpoint: 0 I3C, 1 CXL VDM, 2 DOE mailbox. -/
  endpoint : Nat
  deriving DecidableEq, Repr

-- Assumption log 120 (DEDUCED).
/-- What the channel controllers and the translation layer find while they read shards of an edition (R383, R387): the
pages that turn out uncorrectable, by shard and plane; bytes that decoded to another value than was written, by shard,
offset and value; stripe records whose tag is found altered, by stripe and tag; the pages that decoded only after read
retries, by shard and number of retries, 9 for a soft-bit read. A shard is numbered 10 times its stripe plus its place in
the stripe. -/
structure FlashRead where
  ue : List (Nat × Nat)
  altered : List (Nat × Nat × Byte)
  tags : List (Nat × Nat)
  retried : List (Nat × Nat)
  deriving DecidableEq, Repr

/-- What the host programs when it enumerates the device (R414 to R416, R426): the HDM decoder's base, MSI-X enable and
masked vectors. -/
structure HostConfig where
  base : Option Nat
  msixOn : Bool
  masked : List Nat
  /-- Address and data of the 64 entries of the MSI-X table (R415). -/
  table : List (Word × BitVec 32)
  deriving DecidableEq, Repr

end Sys2Proof
end

