-- ==== Sys2Proof/Syntax.lean ====
section
/-! DEFINITION. The commands of the module: one constructor for each row of the opcode table, in its order. A command is
an access, an event on a pin or link, a message that arrives, or one move of an engine of the module; its operands are
what the event brings. Where an operand names a site it is the site's number in the module, `p` a partition, `port` an
optical port, `e` an engine of a memory unit, `ep` a management endpoint. -/

namespace Sys2Proof

inductive Instr where
  /-- REGISTER_WRITE (R12): A host or management write to a register that has no row of its own takes effect by its
    access code: RW at once, RWS into the staged copy, W1C clears, reserved bits ignored. -/
  | registerWrite (addr width : Nat) (data : Word) (block : Option (List Byte))
  /-- COMMIT_GO (R33): A COMMIT write with GO = 1 and no commit pending copies the staged copy into the pending copy
    and shows RESULT = PENDING with the written TOKEN. -/
  | commitGo (base token : Nat)
  /-- COMMIT_CANCEL (R37): A COMMIT write with CANCEL = 1 abandons the pending commit, sets RESULT = ABANDONED and
    sets DONE. -/
  | commitCancel (base : Nat)
  /-- COMMIT_BOUNDARY (R34): At the block's quiescent boundary the module runs the consistency checks over the pending
    copy and either applies it at one point or rejects it. -/
  | commitBoundary (base : Nat)
  /-- D2D_LINK_TRAINING (R29): Once a die's periphery domain is usable, the module trains its UCIe link with lane
    repair and runs it degraded if one module cannot be repaired. -/
  | d2dLinkTraining (die : Nat) (mod0 mod1 : Bool) (repaired : Nat)
  /-- D2D_LINK_DOWN (R29): A UCIe link to a fabric die goes down, so hub traffic for the die waits and accesses to its
    blocks complete without effect. -/
  | d2dLinkDown (die : Nat)
  /-- D2D_RETRAIN_DONE (R29): A retraining attempt of a downed UCIe link ends, is counted in D2D_RETRAINS and releases
    the waiting hub traffic if it succeeds. -/
  | d2dRetrainDone (die : Nat) (mod0 mod1 : Bool) (repaired : Nat)
  /-- MEM_LINK_DOWN (R30): A die-edge memory link goes down and is retrained within 1 ms while hatch requests that
    need it wait. -/
  | memLinkDown (edge : Nat)
  /-- REF_LOST (R52): The time reference in use stops or leaves its lock range, and the module moves to ALT or to
    holdover without a step in any TS64. -/
  | refLost
  /-- REF_RESTORED (R52): The named reference has been present and stable for 1 ms, and the module locks back to it
    without a step. -/
  | refRestored
  /-- PPS_IN_EDGE (R59): A rising edge of PPS_IN latches the partition time of every configured partition into its
    PPS_LATCH. -/
  | ppsInEdge
  /-- TIME_EXCHANGE_TIMER (R54): Every 2^24 ticks a module that is not the lead starts a time exchange with its
    parent. -/
  | timeExchangeTimer (p : Nat)
  /-- TIME_REQ (R477): A received TIME_REQ is stamped at arrival and answered with TIME_RSP carrying T1, T2 and T3. -/
  | timeReq (port : Nat) (h : Hdr) (body : List Byte)
  /-- TIME_RSP (R54): A received TIME_RSP completes an exchange: the child computes its offset error and slews, or
    loads the offset directly on the first exchange. -/
  | timeRsp (port : Nat) (h : Hdr) (body : List Byte)
  /-- SNAP_AT_WRITE (R60): A write of SNAP_AT on the lead arms a snapshot at time T and broadcasts it, or is refused
    with LATE, FAR, BUSY or NOT_LEAD. -/
  | snapAtWrite (p : Nat) (t : Word)
  /-- SNAPSHOT_ARM_RECEIVE (R70): The lead's snapshot broadcast reaches another module of the partition and sets its
    SNAP_STATUS to ARMED. -/
  | snapshotArmReceive (p : Nat) (t : Word) (seq : Nat)
  /-- SNAPSHOT_LATCH (R62): At the first event boundary at or after T, and no later than T + 64 ticks, each unit
    latches its counters into its shadows. -/
  | snapshotLatch (site : Nat)
  /-- OPERAND_ARRIVAL (R82): An operand arrives at a CU input port and is stored in the match store, or the port holds
    its handshake while the store is full. -/
  | operandArrival (site slot : Nat)
  /-- END_OF_STREAM_FIRING (R161): A trigger entry whose named ports all hold markers of its context fires in end-of-
    stream form and sends only the markers of its family. -/
  | endOfStreamFiring (site : Nat)
  /-- NOP (R115): A NOP stroke consumes the matched operands and does nothing else. -/
  | nop (site : Nat)
  /-- MOVE (R134): MOVE copies source A to the destination and widens it exactly. -/
  | move (site : Nat)
  /-- MATRIX (R136): MATRIX applies one rank update of an activation column and weight rows, with an optional stipple
    merge, to an accumulator bank. -/
  | matrix (site : Nat)
  /-- ACC_ZERO (R141): ACC ZERO sets an accumulator row or bank to +0.0. -/
  | accZero (site : Nat)
  /-- ACC_READ (R141): ACC READ sends or stores an accumulator row as 64 FP32 lanes. -/
  | accRead (site : Nat)
  /-- ACC_ADD (R141): ACC ADD adds source A lane-wise into an accumulator row. -/
  | accAdd (site : Nat)
  /-- ACC_LOAD (R141): ACC LOAD overwrites an accumulator row with source A. -/
  | accLoad (site : Nat)
  /-- VADD (R143): VEC VADD adds two FP32 lane vectors. -/
  | vadd (site : Nat)
  /-- VSUB (R143): VEC VSUB subtracts source B from source A lane-wise. -/
  | vsub (site : Nat)
  /-- VMUL (R143): VEC VMUL multiplies two lane vectors. -/
  | vmul (site : Nat)
  /-- VFMA (R143): VEC VFMA forms a × b plus the old destination with one rounding. -/
  | vfma (site : Nat)
  /-- VMIN (R143): VEC VMIN takes the lane-wise minimum. -/
  | vmin (site : Nat)
  /-- VMAX (R143): VEC VMAX takes the lane-wise maximum. -/
  | vmax (site : Nat)
  /-- VCMP (R143): VEC VCMP writes 1.0 or 0.0 per lane by the comparison that CMP selects. -/
  | vcmp (site : Nat)
  /-- VSEL (R143): VEC VSEL selects b or IMM per lane by whether a is non-zero. -/
  | vsel (site : Nat)
  /-- VEXP2 (R143): VEC VEXP2 computes 2^a at 16 lanes per stage. -/
  | vexp2 (site : Nat)
  /-- VLOG2 (R143): VEC VLOG2 computes log2 a at 16 lanes per stage. -/
  | vlog2 (site : Nat)
  /-- VRCP (R143): VEC VRCP computes 1/a at 16 lanes per stage. -/
  | vrcp (site : Nat)
  /-- VRSQ (R143): VEC VRSQ computes 1/sqrt(a) at 16 lanes per stage. -/
  | vrsq (site : Nat)
  /-- VABS (R143): VEC VABS takes the absolute value per lane. -/
  | vabs (site : Nat)
  /-- VNEG (R143): VEC VNEG negates each lane. -/
  | vneg (site : Nat)
  /-- VMOV (R143): VEC VMOV copies source A lanes. -/
  | vmov (site : Nat)
  /-- RED_SUM (R144): RED SUM reduces a row or accumulator columns by addition. -/
  | redSum (site : Nat)
  /-- RED_MAX (R144): RED MAX reduces a row or accumulator columns to the maximum. -/
  | redMax (site : Nat)
  /-- RED_MIN (R144): RED MIN reduces a row or accumulator columns to the minimum. -/
  | redMin (site : Nat)
  /-- RED_SUMSQ (R144): RED SUMSQ reduces a row or accumulator columns to the sum of squares. -/
  | redSumsq (site : Nat)
  /-- PACK (R145): PACK scales, rounds and encodes FP32 lanes into FMT_D, computing block scales for MX results. -/
  | pack (site : Nat)
  /-- STEER (R146): A CU STEER stroke sends the data operand on the routes that its paired control token selects. -/
  | steer (site : Nat)
  /-- MERGE (R147): A CU MERGE stroke forwards one input of its group to the destination ports in firing order. -/
  | merge (site : Nat)
  /-- TAG_ACTION (R148): TAG in mode ACTION forwards source A with the tag that TAG_ACT makes. -/
  | tagAction (site : Nat)
  /-- TAG_SET (R148): TAG in mode SET forwards source A with the iteration given in LOW. -/
  | tagSet (site : Nat)
  /-- TAG_DATA (R148): TAG in mode DATA forwards source A with the iteration taken from bytes 0–1 of source B. -/
  | tagData (site : Nat)
  /-- SEND (R149): SEND forwards source A to the destination ports. -/
  | send (site : Nat)
  /-- SEND_EOS_AFTER (R149): SEND with EOS_AFTER sends the operand and then a marker with the next iteration. -/
  | sendEosAfter (site : Nat)
  /-- SEND_EOS_ONLY (R149): SEND with EOS_ONLY sends only an end-of-stream marker carrying the output tag. -/
  | sendEosOnly (site : Nat)
  /-- SYNC_WAIT (R151): SYNC WAIT holds in S0 until a neighbouring MU semaphore can give COUNT. -/
  | syncWait (site : Nat)
  /-- SYNC_SIGNAL (R151): SYNC SIGNAL adds COUNT to a neighbouring MU semaphore after all earlier strokes have
    finished. -/
  | syncSignal (site : Nat)
  /-- SEMAPHORE_GRANT (R213): A waiter at the head of a semaphore is granted once the value covers its count, and the
    count is subtracted. -/
  | semaphoreGrant (site sem : Nat)
  /-- CLAIM (R152): A CLAIM stroke sends a claim request to a dispenser word and awaits the response on RESP. -/
  | claim (site : Nat)
  /-- ARM (R152): A CLAIM stroke with SUB = ARM sends a new limit, and optionally a reset, to a dispenser word. -/
  | arm (site : Nat)
  /-- RETIRE (R154): A RETIRE stroke sends a retire request to a dispenser word and produces no response. -/
  | retire (site : Nat)
  /-- DISPENSER_CLAIM (R222): The atomic unit applies a claim to a dispenser word, handing out NEXT or answering
    EXHAUSTED. -/
  | dispenserClaim (site bank : Nat)
  /-- DISPENSER_ARM (R222): The atomic unit applies an arm to a dispenser word if every claim is retired, otherwise it
    answers BUSY. -/
  | dispenserArm (site bank : Nat)
  /-- DISPENSER_RETIRE (R222): The atomic unit adds one to RETIRED, or counts RETIRE_EXCESS with PLATE_DEFECT. -/
  | dispenserRetire (site bank : Nat)
  /-- ROUTE_SELECT (R156): ROUTE SELECT merges one block of router scores into a token's candidate list of at most CAP
    experts. -/
  | routeSelect (site : Nat)
  /-- ROUTE_DISPATCH (R157): ROUTE DISPATCH sends a route word followed by a token chunk on its single port. -/
  | routeDispatch (site : Nat)
  /-- APPEND (R158): APPEND encodes a key or value chunk in the page format and sends it behind a header toward the
    append path. -/
  | append (site : Nat)
  /-- SCORE_RMAX (R159): SCORE RMAX forms the running row maximum of scores. -/
  | scoreRmax (site : Nat)
  /-- SCORE_EXPD (R159): SCORE EXPD forms 2^(a − m) for 64 lanes. -/
  | scoreExpd (site : Nat)
  /-- SCORE_RSUM (R159): SCORE RSUM adds a row of probabilities into a running sum. -/
  | scoreRsum (site : Nat)
  /-- SCORE_MERGE (R160): SCORE MERGE combines two attention partials and their (m, l) pairs. -/
  | scoreMerge (site : Nat)
  /-- SLOT_TRANSFER (R91): A link's sender visits a slot in rotation and sends one transfer when the slot has one
    waiting and holds a credit. -/
  | slotTransfer (site port : Nat)
  /-- CREDIT_RETURN (R90): A transfer leaves a slot's receiver FIFO, and the receiver returns a credit to the sender. -/
  | creditReturn (site port slot : Nat)
  /-- STEER_ENTRY_ARRIVAL (R97): A control token or data transfer reaches an SU steering entry and waits in its
    reserve, or pairs with its partner and leaves by the token's routes. -/
  | steerEntryArrival (site n input : Nat)
  /-- STEER_ENTRY_EOS (R99): An end-of-stream marker reaches a steering entry's control or data input and releases,
    discards or closes the context. -/
  | steerEntryEos (site n input : Nat)
  /-- MERGE_ENTRY_FORWARD (R100): An SU merging entry forwards the next operand in ARRIVAL or TAG_ORDER mode, or its
    final marker once every input has ended. -/
  | mergeEntryForward (site n : Nat)
  /-- QUEUE_TRANSFER (R211): A transfer enters a queue whose FIFO is full and is diverted into the bank ring, or
    spilled to HBM, and is delivered in acceptance order. -/
  | queueTransfer (site e : Nat)
  /-- BANK_GRANT (R194): A bank grants its next waiting requester in round-robin order and performs the access. -/
  | bankGrant (site bank : Nat)
  /-- HATCH_READ_OPERAND (R585): A hatch engine issues the read of its next operand once the destination or the read
    buffer has room, or writes a margin without reading. -/
  | hatchReadOperand (site e : Nat)
  /-- HBM_READ_RESPONSE (R362): Data of an HBM, tile-cache, remote or spill read arrives at the MU and is sent on in
    visiting order. -/
  | hbmReadResponse (site e : Nat)
  /-- WRITE_STREAM_OPERAND (R210): A WRITE stream takes an operand from its slot and stores it at the position that
    its iteration number gives. -/
  | writeStreamOperand (site e : Nat)
  /-- REARM_WORD (R209): A re-arm word or end-of-stream marker arrives on ARM_SLOT, so a persistent descriptor starts
    a new pass or closes. -/
  | rearmWord (site e : Nat)
  /-- MU_ARM_WRITE (R209): A host write of SITE.MU_ARM_e re-arms a persistent descriptor of engine e with a new base. -/
  | muArmWrite (site e : Nat) (w : Word)
  /-- APPEND_ARRIVAL (R311): An append header and operand reach an append unit, which writes it into its page or
    discards it. -/
  | appendArrival (site : Nat)
  /-- STALL_WATCH_EXPIRE (R107): No unit of the partition makes progress for the plate's stall limit, so the stall
    watch raises a fabric-stall fault. -/
  | stallWatchExpire (p : Nat)
  /-- SNPINV (R420): A SnpInv of a tail line is answered at once, drops the copy and wakes the serving engine for that
    partition. -/
  | snpinv (addr : Nat)
  /-- SNPDATA (R420): A SnpData of a tail line is answered at once and leaves the Shared copy in place. -/
  | snpdata (addr : Nat)
  /-- SNPCUR (R420): A SnpCur of a tail line is answered at once and leaves the Shared copy in place. -/
  | snpcur (addr : Nat)
  /-- TAIL_LINE_READ (R420): The RdShared of a tail line returns TAIL, and the module starts fetching entries NEXT to
    TAIL − 1. -/
  | tailLineRead (p tail : Nat)
  /-- LEDGER_ENTRY_FETCH (R261): A ledger entry is read once and checked for PHASE, KIND and counts before it waits
    for admission. -/
  | ledgerEntryFetch (p : Nat) (raw : Option (BitVec 2048))
  /-- SCHEDULER_CHOOSE (R280): The scheduler admits the next ready entry among all partitions by deficit round robin
    and checks its edition's residency. -/
  | schedulerChoose
  /-- BATCH_DELIVERY (R273): The serving engine checks the shapes and records, opens frames, and delivers the shape
    words and the batch to the fabric. -/
  | batchDelivery (p : Nat) (batch : Option (List Byte))
  /-- SWAP_OUT (R318): A page of a swapped frame has been written encrypted to the host swap area, and its reference
    is dropped. -/
  | swapOut (p : Nat)
  /-- PLATE_LOAD_START (R242): The serving engine starts loading a plate into a partition's back store when a row or
    the next step needs it. -/
  | plateLoadStart (p : Nat)
  /-- PLATE_LOAD_COMPLETE (R244): A plate load reads its last die region, and the plate becomes valid in the back
    store or is refused. -/
  | plateLoadComplete (p : Nat)
  /-- PLATE_FLIP (R246): After the running section drains and the plate is loaded, the partition exchanges its front
    and back stores and enters the new section. -/
  | plateFlip (p : Nat)
  /-- SECTION_SWITCH (R229): After a drain or batch delivery the module enters the next section of the same plate,
    discards uncarried operands and binds shapes. -/
  | sectionSwitch (p : Nat)
  /-- SECTION_DRAIN (R228): Every engine, pipeline and queue of the partition empties, so the running section has
    drained. -/
  | sectionDrain (p : Nat)
  /-- STEP_COMPLETE (R274): After the last section drains or the outcome is decided, the module writes output records
    and the completion entry. -/
  | stepComplete (p : Nat)
  /-- OPEN (R260): The OPEN control operation makes a FREE sequence ACTIVE with its edition, stipple set, namespace
    and group. -/
  | openSeq (p : Nat)
  /-- PARK (R260): The PARK control operation makes an ACTIVE sequence PARKED. -/
  | park (p : Nat)
  /-- RESUME (R270): The RESUME control operation makes a PARKED sequence ACTIVE, or brings a SWAPPED sequence's pages
    back from host memory. -/
  | resume (p : Nat) (blobs : Option (List (List Byte)))
  /-- CLOSE (R260): The CLOSE control operation releases every page reference of the sequence and makes it CLOSED. -/
  | close (p : Nat)
  /-- LOOKUP (R285): The LOOKUP control operation walks the prefix directory and maps the hit blocks' frames into the
    new sequence. -/
  | lookup (p : Nat) (tokens : Option (List Nat))
  /-- SEQUENCE_RELEASE_COMPLETE (R260): The release of a CLOSED sequence ends, and its entry becomes FREE. -/
  | sequenceReleaseComplete (seq : Nat)
  /-- NSKEY_APPLY (R288): A write of NSKEY_CTL with GO = 1 applies a namespace key and starts invalidating that
    namespace's directory entries. -/
  | nskeyApply (p : Nat) (w : Word)
  /-- NSKEY_INVALIDATION_DONE (R288): The invalidation of a namespace's directory entries ends, and its CLEARING bit
    clears. -/
  | nskeyInvalidationDone (p ns : Nat)
  /-- SEQ_SEL_CAPTURE (R291): A write of SEQ_SEL captures the selected sequence-table entry for SEQ_DATA reads. -/
  | seqSelCapture (w : Word)
  /-- CANDIDATE_LIST_ARRIVAL (R333): A token's candidate list reaches the expert dispatcher on local output slot 6 of
    a dispatch site. -/
  | candidateListArrival (site : Nat)
  /-- DISPATCH_LAYER_DECIDE (R335): When every dispatch site has ended a layer's input, the dispatcher decides its
    choices and sends route words and weight lists. -/
  | dispatchLayerDecide (p : Nat) (mode : Nat) (entries : List Nat)
  /-- DISPATCH (R469): A received DISPATCH message delivers the route word and token chunk on local input slot 5 of
    each addressed dispatch site. -/
  | dispatch (port : Nat) (h : Hdr) (body : List Byte)
  /-- DISPATCH_END (R470): A DISPATCH with FLAGS.END arrives, and once END is held from every module the destination
    sends its end-of-stream markers. -/
  | dispatchEnd (port : Nat) (h : Hdr) (body : List Byte)
  /-- SCRUB_BURST (R373): At least every SCRUB_CTL.INTERVAL the base die reads one 4 KiB tile and writes corrected
    codewords back. -/
  | scrubBurst (die stack : Nat)
  /-- TARGETED_REFRESH (R374): A row reaches THRESHOLD activations, and the base die refreshes its neighbour rows and
    resets its count. -/
  | targetedRefresh (row : Nat)
  /-- ROW_REMAP (R375): A row needs 8 corrections within one scrub pass and is copied to a spare row of its bank. -/
  | rowRemap (die stack channel place : Nat)
  /-- PAGE_ZEROED (R367): The base die finishes zeroing a DIRTY page, which becomes FREE. -/
  | pageZeroed (pool : Bool) (n : Nat)
  /-- TAG_SEL_CAPTURE (R379): A write of TAG_SEL captures the owner tag of a page-tile into TAG_DATA. -/
  | tagSelCapture (die : Nat) (w : Word)
  /-- INSTALL (R401): INSTALL reads, verifies and writes an edition package from host memory into the flash library. -/
  | install (pkg : Option (List Byte)) (c0 : Nat)
  /-- DELETE (R398): DELETE removes a STORED edition and erases its blocks in the background. -/
  | delete
  /-- STAGE (R403): STAGE reads an edition's stripes from flash and fills its SHARED page-tiles until it is RESIDENT. -/
  | stage (r : FlashRead)
  /-- EVICT (R399): EVICT makes a resident edition's page-tiles DIRTY and abandons any STAGE of it. -/
  | evict
  /-- SET_STAGE (R408): SET_STAGE checks a stipple set and fills it into HBM. -/
  | setStage (r : FlashRead)
  /-- SET_EVICT (R408): SET_EVICT removes a resident stipple set unless a step names it. -/
  | setEvict
  /-- REPAIR (R409): REPAIR reads a resident page-tile again from flash into a fresh page and retires the old one. -/
  | repair (r : FlashRead)
  /-- CMD_ACK (R399): A write of CMD_ACK removes the oldest result from the FLASH result FIFO. -/
  | cmdAck
  /-- BLOCK_RELOCATION (R388): A flash block reaches its read limit, or needs deep decoding in scrub, and is copied to
    a newly erased block. -/
  | blockRelocation (channel die block : Nat) (programFailed eraseFailed : Bool) (rs : List (Nat × FlashRead))
  /-- RETENTION_SCRUB (R389): The retention scrub reads the programmed pages of the library once in each SCRUB_DAYS
    period. -/
  | retentionScrub (rs : List (Nat × FlashRead))
  /-- CHANNEL_OUT_OF_SERVICE (R391): A flash channel fails or is disabled, so the module marks it out and starts
    rebuilding its shards. -/
  | channelOutOfService (channel : Nat)
  /-- CHANNEL_REBUILD_DONE (R391): The rebuild of every shard of an out-of-service channel ends. -/
  | channelRebuildDone (channel : Nat)
  /-- FLASH_RETRAINING (R382): After a temperature change of 20 °C the channel controllers repeat ZQ, DCC and DQ
    training. -/
  | flashRetraining
  /-- HOST_LINK_TRAINED (R413): The CXL link finishes training at a supported width and rate, or stays down with
    LINK_ERR.NARROW. -/
  | hostLinkTrained (width speed : Nat) (flit256 lopt : Bool) (cfg : HostConfig)
  /-- LINK_LEAVES_L0 (R437): The host link leaves L0, and the module holds fetches and completion writes. -/
  | linkLeavesL0
  /-- LINK_RETURNS_L0 (R437): The host link returns to L0, and the module writes held completions and rereads enabled
    tail lines. -/
  | linkReturnsL0
  /-- HOST_PORT_RESET (R438): A hot reset, function-level reset, CXL reset or HOST_PERST_N disables every ledger and
    drops tail lines and held completions. -/
  | hostPortReset
  /-- HOST_MEM_READ (R416): A host CXL.mem read of a partition window is served, or has no effect and counts in
    HDM_MISS. -/
  | hostMemRead (off : Nat) (cacheable : Bool)
  /-- HOST_MEM_WRITE (R416): A host CXL.mem write of a partition window is stored, or is discarded and counts in
    HDM_MISS. -/
  | hostMemWrite (off : Nat) (data : Line)
  /-- BRING_IN (R429): An access reaches a movable page-tile that is out, and the module brings it in from its backing
    slot, evicting another if needed. -/
  | bringIn (p tile : Nat) (blob : List Byte)
  /-- IDE_FAILURE (R440): An IDE integrity failure is handled in containment mode and sets LINK_ERR.IDE_FAIL. -/
  | ideFailure (stream : Nat)
  /-- DOE_DISCOVERY (R441): A DOE Discovery request is answered on the DOE mailbox. -/
  | doeDiscovery (index : Nat)
  /-- TABLE_ACCESS (R441): A DOE Table Access request returns the CDAT. -/
  | tableAccess
  /-- IDE_KM (R440): IDE_KM over a secured SPDM session programs the IDE keys of the host port. -/
  | ideKm (session stream : Nat) (key : List Byte) (go : Bool)
  /-- LASER_INPUT_LOST (R446): A laser input of an engine fails, so its LOST bit and a LINK record are written, and
    all ports go DOWN if both fail. -/
  | laserInputLost (engine : Nat) (inputB : Bool)
  /-- RINGS_LOCKED (R467): A port's rings lock, and the port moves from LOCK to TRAIN. -/
  | ringsLocked (port : Nat)
  /-- PORT_TRAINED (R467): A port aligns its lanes and exchanges LINK_ID and enters UP, or HALF with 4 to 7 healthy
    wavelengths. -/
  | portTrained (port healthy : Nat)
  /-- PORT_TRAIN_TIMEOUT (R467): Training of a port does not succeed within 5 ms, and the port enters DOWN. -/
  | portTrainTimeout (port : Nat)
  /-- PORT_DOWN_RETRY (R467): Every 100 ms a DOWN port attempts training again. -/
  | portDownRetry (port : Nat)
  /-- WAVELENGTH_FAIL (R467): A wavelength loses lock or exceeds its error target, and the spare takes its lane or the
    port retrains. -/
  | wavelengthFail (port wave : Nat)
  /-- LOSS_OF_SIGNAL (R467): Signal is lost on every lane of a port, and it retrains. -/
  | lossOfSignal (port : Nat)
  /-- FLIT_RECEIVE (R453): A flit arrives and is accepted in order, or discarded with a NAK that starts a replay at
    the partner. -/
  | flitReceive (port : Nat) (flit : List Byte) (cws : List Nat)
  /-- ACK_TIMER (R452): A port sends an acknowledgement at least once every 1 µs. -/
  | ackTimer (port : Nat)
  /-- REPLAY_TIMEOUT (R454): 20 µs without progress of ACK, or eight sends of one flit, makes the transmitter retrain
    the port. -/
  | replayTimeout (port : Nat)
  /-- LINK_ID (R462): A received LINK_ID records the partner's identity, port and delays in the PEER registers. -/
  | linkId (port : Nat) (body : List Byte)
  /-- AUDIT_PERIOD (R472): Every AUDIT_PERIOD the transmitter takes the next wavelength in service and sends AUDIT
    START. -/
  | auditPeriod (port : Nat)
  /-- AUDIT_START (R472): An AUDIT START makes the receiver move the lane to the spare and answer SWITCH_OUT. -/
  | auditStart (port wave : Nat)
  /-- SWITCH_OUT (R472): An AUDIT SWITCH_OUT frees the audited wavelength to run PRBS31Q. -/
  | switchOut (port wave : Nat)
  /-- AUDIT_DWELL_END (R472): AUDIT_DWELL passes, and the receiver reports TEST_END with the result. -/
  | auditDwellEnd (port bits errs : Nat)
  /-- TEST_END (R472): An AUDIT TEST_END returns the lane on PASS, or marks the wavelength failed on FAIL. -/
  | testEnd (port wave result : Nat)
  /-- SWITCH_BACK (R472): An AUDIT SWITCH_BACK returns the lane to its wavelength and frees the spare. -/
  | switchBack (port wave : Nat)
  /-- MESSAGE_FORWARD (R459): A message for another module is forwarded on the port that the route table names. -/
  | messageForward (port typ : Nat) (h : Hdr) (body : List Byte)
  /-- STEP_DESC (R476): A received STEP_DESC gives a member the lead's ledger entry to run its share of. -/
  | stepDesc (port : Nat) (h : Hdr) (body : List Byte)
  /-- STEP_DATA (R476): A received STEP_DATA gives a member the batch records and token IDs of a step. -/
  | stepData (port : Nat) (h : Hdr) (body : List Byte)
  /-- STEP_DONE (R476): A received STEP_DONE part gives the lead a member's record statuses, and the END part
    completes that member's share. -/
  | stepDone (port : Nat) (h : Hdr) (body : List Byte)
  /-- HIST (R476): A received HIST block is added into the lead's router histogram. -/
  | hist (port : Nat) (h : Hdr) (body : List Byte)
  /-- STEP_ABORT (R476): A received STEP_ABORT ends the step by steps 2 to 5 of R108 with its code. -/
  | stepAbort (port : Nat) (h : Hdr) (body : List Byte)
  /-- RD_REQ (R465): A received RD_REQ is performed as a hub path acting for the partition and answered with RD_RSP. -/
  | rdReq (port : Nat) (h : Hdr) (body : List Byte)
  /-- RD_RSP (R465): A received RD_RSP delivers remote read data to the requesting hatch. -/
  | rdRsp (port : Nat) (h : Hdr) (body : List Byte)
  /-- WR_REQ (R465): A received WR_REQ writes partition memory and is answered with WR_ACK. -/
  | wrReq (port : Nat) (h : Hdr) (body : List Byte)
  /-- WR_ACK (R465): A received WR_ACK marks a remote write as accepted. -/
  | wrAck (port : Nat) (h : Hdr) (body : List Byte)
  /-- BANK_WR (R216): A received BANK_WR is written into a receive window, signals FULL and is acknowledged, or is
    held or refused by the credit rules. -/
  | bankWr (port : Nat) (h : Hdr) (body : List Byte)
  /-- BANK_ACK (R465): A received BANK_ACK marks words accepted and returns credits to the sender's remote window. -/
  | bankAck (port : Nat) (h : Hdr) (body : List Byte)
  /-- ATOM_ADD (R219): An atomic ADD adds to a 64-bit word, wrapping, and returns the old value. -/
  | atomAdd (port : Nat) (h : Hdr) (body : List Byte)
  /-- ATOM_MAX (R219): An atomic MAX stores the unsigned maximum and returns the old value. -/
  | atomMax (port : Nat) (h : Hdr) (body : List Byte)
  /-- ATOM_MIN (R219): An atomic MIN stores the unsigned minimum and returns the old value. -/
  | atomMin (port : Nat) (h : Hdr) (body : List Byte)
  /-- ATOM_AND (R219): An atomic AND stores the bitwise AND and returns the old value. -/
  | atomAnd (port : Nat) (h : Hdr) (body : List Byte)
  /-- ATOM_OR (R219): An atomic OR stores the bitwise OR and returns the old value. -/
  | atomOr (port : Nat) (h : Hdr) (body : List Byte)
  /-- ATOM_SWAP (R219): An atomic SWAP stores the operand and returns the old value. -/
  | atomSwap (port : Nat) (h : Hdr) (body : List Byte)
  /-- ATOM_CAS (R219): An atomic CAS stores the new value if the word equals the compare value and returns the old
    value. -/
  | atomCas (port : Nat) (h : Hdr) (body : List Byte)
  /-- ATOM_FADD (R219): An atomic FADD adds an FP32 value with round-to-nearest-even and returns the old value. -/
  | atomFadd (port : Nat) (h : Hdr) (body : List Byte)
  /-- ATOM_RSP (R466): A received ATOM_RSP marks an atomic request as accepted and returns the old value to firmware
    requesters. -/
  | atomRsp (port : Nat) (h : Hdr) (body : List Byte)
  /-- COLL_DATA (R474): A received COLL_DATA adds a child's words into the node going up, or stores and forwards the
    result going down. -/
  | collData (port : Nat) (h : Hdr) (body : List Byte)
  /-- COLL_END (R474): A received COLL_END closes a child's contribution going up, or ends the round going down. -/
  | collEnd (port : Nat) (h : Hdr) (body : List Byte)
  /-- PARTNER_SILENT (R496): No message arrives from a member for 2^21 ticks while a request to it is outstanding, so
    the share aborts with LINK_LOST and a report is sent. -/
  | partnerSilent (p m : Nat)
  /-- FAULT (R497): A received fault report is merged into the suppression table or forwarded toward the lead. -/
  | fault (port : Nat) (h : Hdr) (body : List Byte)
  /-- FAULT_WINDOW_CLOSE (R497): A suppression window of 2^24 ticks closes and forwards one summary report if counts
    were added. -/
  | faultWindowClose (p slot : Nat)
  /-- LEAD_FAULT_WINDOW_CLOSE (R499): At the later of the lead's 2^25-tick window end and confirmation end, the lead
    emits one fault record. -/
  | leadFaultWindowClose (p slot : Nat)
  /-- EMITTED_ENTRY_EXPIRE (R499): 2^28 ticks after emission the lead frees the emitted entry. -/
  | emittedEntryExpire (p slot : Nat)
  /-- CONFIRMATION_TIMEOUT (R500): A confirmation TIME_REQ to the suspect goes unanswered for 2^20 ticks, so the lead
    retries or ends confirmation as SILENT. -/
  | confirmationTimeout (p slot : Nat)
  /-- FAULT_ACK (R502): A write of FAULT_ACK removes the oldest record from the partition's FAULT_REC queue. -/
  | faultAck (p : Nat)
  /-- EPOCH_SET (R493): A write of PART.EPOCH_SET aborts the firing step with EPOCH and sets the new epoch and lead,
    or is refused. -/
  | epochSet (p : Nat) (w : Word)
  /-- KILL (R537): A write of PART.KILL with CONFIRM = 0x4B4C, or an applied FORMED = 0 commit, halts, zeroes and
    releases the partition. -/
  | kill (p : Nat) (w : Word)
  /-- CONTROL_INTERVAL (R510): Every 20 µs the power controller measures input and junctions and sets fabric supplies,
    pacer and thresholds for the next interval. -/
  | controlInterval (m : PowerSample)
  /-- PWR_BRAKE_N_ASSERT (R515): PWR_BRAKE_N is asserted, brake cause PIN arises and input power falls to BRAKE_LEVEL
    within 20 µs. -/
  | pwrBrakeNAssert
  /-- PWR_BRAKE_N_RELEASE (R514): PWR_BRAKE_N is released, and brake cause PIN clears. -/
  | pwrBrakeNRelease
  /-- UNDERVOLT (R514): The 10 µs average of the input falls below 40 V, and brake cause UNDERVOLT arises. -/
  | undervolt
  /-- UNDERVOLT_CLEAR (R514): The input stays at or above 41 V for 1 ms, and UNDERVOLT clears. -/
  | undervoltClear
  /-- CAPDROP_CLEAR (R511): 100 µs after L reaches BRAKE_LEVEL, CAPDROP clears and L moves toward LIMIT. -/
  | capdropClear
  /-- FLOW_OK_N_RELEASE (R521): FLOW_OK_N is released, and brake cause FLOW holds within 100 µs. -/
  | flowOkNRelease
  /-- FLOW_OK_N_RESTORED (R514): FLOW_OK_N has been asserted for 1 s, and FLOW clears. -/
  | flowOkNRestored
  /-- FLOW_JUNCTION_SAMPLE (R521): Every 1 ms under FLOW the controller samples junctions and parks the module on a
    rise of 3 °C. -/
  | flowJunctionSample (temps : List Nat)
  /-- HOT (R522): A fabric or hub junction passes 105 °C, and brake cause HOT arises. -/
  | hot
  /-- HOT_CLEAR (R514): Every junction is at or below 100 °C, and HOT clears. -/
  | hotClear
  /-- HARDWARE_TRIP (R518): A junction passes 115 °C, and a comparator switches off every switched domain within 10
    µs. -/
  | hardwareTrip (source junction : Nat)
  /-- CONTROLLED_STOP (R517): The input falls below 30 V, or below 36 V for 2 ms, and the module halts, writes its
    records and switches its domains off. -/
  | controlledStop (trigger : Nat)
  /-- HEARTBEAT (R520): A rack manager heartbeat is answered with PWR_STATUS and SUPPLY and clears HB_LOST. -/
  | heartbeat (ep seq : Nat)
  /-- HEARTBEAT_LOST (R520): 10 s pass without a heartbeat, so the module sets HB_LOST and limits itself to SAFE_CAP. -/
  | heartbeatLost
  /-- DOMAIN_USABLE (R508): A domain switched on becomes usable within its bound and holds reset values. -/
  | domainUsable (d : Nat) (codes : List Nat)
  /-- TAKE_OWNERSHIP (R533): TAKE_OWNERSHIP installs the owner public key, or is refused with OWNED. -/
  | takeOwnership (via : Option Nat) (token : Nat) (block : Option (List Byte))
  /-- ENROL (R533): ENROL places a signed publisher key in a slot. -/
  | enrol (via : Option Nat) (token : Nat) (block : Option (List Byte))
  /-- REVOKE (R533): REVOKE clears a publisher slot. -/
  | revoke (via : Option Nat) (token : Nat) (block : Option (List Byte))
  /-- RELEASE (R533): RELEASE clears the owner slot and all publisher slots. -/
  | release (via : Option Nat) (token : Nat) (block : Option (List Byte))
  /-- SVN_COMMIT (R531): SVN_COMMIT blows anti-rollback fuses up to its argument, or completes with SVN_RANGE. -/
  | svnCommit (via : Option Nat) (token : Nat) (block : Option (List Byte))
  /-- TRNG_HEALTH_FAIL (R527): A TRNG health test fails, so SEAL.TRNG_FAIL is set and no key is generated. -/
  | trngHealthFail
  /-- DEBUG_SET (R542): DBG_CTL with SET = 1 stores the partition's debug credential, or is refused. -/
  | debugSet (p : Nat)
  /-- DEBUG_UNLOCK (R542): DBG_CTL with UNLOCK = 1 compares the credential and unlocks debug reads, or counts a
    failure. -/
  | debugUnlock (p : Nat)
  /-- DEBUG_LOCK (R542): DBG_CTL with LOCK = 1 locks the partition's debug access. -/
  | debugLock (p : Nat)
  /-- DEBUG_ADDR_SELECT (R542): A write of DBG_ADDR reads the selected word of an unlocked partition's site for
    DBG_DATA, or sets OUTSIDE. -/
  | debugAddrSelect (p : Nat) (w : Word)
  /-- BLACK_BOX_WRITE (R555): The writer writes the record at the head of its queue to its MRAM slot, and to the
    first-fault area if enabled. -/
  | blackBoxWrite
  /-- OVERFLOW (R555): Once the full record queue has room again, the writer writes an OVERFLOW record with the count
    of discarded records. -/
  | overflow
  /-- BLACK_BOX_READ_SELECT (R557): A write of RD_SEL selects a ring or first-fault slot for RD_DATA and RD_STATUS. -/
  | blackBoxReadSelect (w : Word)
  /-- CLEAR (R561): A write of CLR with GO = 1 clears the ring, and optionally the first-fault area, by moving
    OLDEST_SEQ. -/
  | clear (token : Nat) (block : Option (List Byte))
  /-- READ (R558): The vendor READ command returns up to 16 black-box records. -/
  | read (ep area start count : Nat)
  /-- STATE (R558): The vendor STATE command returns BB_STATE, HEAD_SEQ, OLDEST_SEQ and LOST. -/
  | state (ep : Nat)
  /-- REG_READ (R569): The vendor REG_READ command returns a 64-bit register of a permitted block. -/
  | regRead (ep off : Nat)
  /-- REG_WRITE (R569): The vendor REG_WRITE command writes a 64-bit register of a permitted block. -/
  | regWrite (ep off : Nat) (value : Word) (block : Option (List Byte))
  /-- SET_ENDPOINT_ID (R567): MCTP Set Endpoint ID gives an endpoint its EID. -/
  | setEndpointId (ep eid : Nat)
  /-- GET_ENDPOINT_ID (R568): MCTP Get Endpoint ID returns the endpoint's EID. -/
  | getEndpointId (ep : Nat)
  /-- GET_MCTP_VERSION_SUPPORT (R568): MCTP Get MCTP Version Support returns the supported versions. -/
  | getMctpVersionSupport (ep : Nat)
  /-- GET_MESSAGE_TYPE_SUPPORT (R568): MCTP Get Message Type Support returns the supported message types. -/
  | getMessageTypeSupport (ep : Nat)
  /-- GET_VENDOR_DEFINED_MESSAGE_SUPPORT (R568): MCTP Get Vendor Defined Message Support returns the vendor message
    support. -/
  | getVendorDefinedMessageSupport (ep : Nat)
  /-- I3C_DYNAMIC_ADDRESS (R567): ENTDAA or SETDASA gives the I3C target its dynamic address. -/
  | i3cDynamicAddress (addr : Nat)
  /-- GET_SENSOR_READING (R568): A PLDM type 2 sensor request returns a numeric or state sensor value. -/
  | getSensorReading (ep n : Nat)
  /-- SET_EVENT_RECEIVER (R568): PLDM SetEventReceiver names the receiver of platform event messages. -/
  | setEventReceiver (ep eid : Nat)
  /-- GET_CERTIFICATE (R529): SPDM GET_CERTIFICATE returns the slot 0 certificate chain. -/
  | getCertificate (ep off len : Nat)
  /-- CHALLENGE (R529): SPDM CHALLENGE is answered with a response signed by alias 2. -/
  | challenge (ep : Nat) (nonce : List Byte)
  /-- GET_MEASUREMENTS (R529): SPDM GET_MEASUREMENTS returns the signed measurement blocks. -/
  | getMeasurements (ep index : Nat) (nonce : List Byte)
  /-- KEY_EXCHANGE (R529): SPDM KEY_EXCHANGE opens one of up to 4 secured sessions. -/
  | keyExchange (r : SessionReq)
  /-- KEY_UPDATE (R529): SPDM KEY_UPDATE refreshes the keys of a secured session. -/
  | keyUpdate (ep session : Nat)
  /-- REQUEST_UPDATE (R578): PLDM RequestUpdate starts a firmware update, or is refused with ALREADY_IN_UPDATE_MODE. -/
  | requestUpdate (ep : Nat)
  /-- FIRMWARE_DATA (R579): A 4 KiB transfer of update data is written into the inactive bank. -/
  | firmwareData (data : List Byte)
  /-- VERIFY_COMPLETE (R579): At VerifyComplete the module checks each component by R530 and reports the result. -/
  | verifyComplete (ep : Nat) (release : Nat × Nat × Nat) (svn1 svn2 : Nat) (check : BankCheck)
  /-- ACTIVATE_FIRMWARE (R579): ActivateFirmware makes the updated bank pending for the next start-up, or restarts at
    once in recovery. -/
  | activateFirmware (ep : Nat) (selfContained : Bool)
  /-- GET_FIRMWARE_PARAMETERS (R578): PLDM GetFirmwareParameters returns the active and pending releases. -/
  | getFirmwareParameters (ep : Nat)
  /-- MOD_RESET_N_ASSERT (R571): MOD_RESET_N asserted for at least 10 µs halts the module and switches its domains off
    until release. -/
  | modResetNAssert
  /-- START_UP (R573): Power good or reset release starts the boot ROM, black-box mount, firmware verification and
    management. -/
  | startUp (a b : BankCheck)
  /-- MAIN_INPUT_STABLE (R573): With the main input at 42 V for 100 ms and reset released, the power controller
    switches on the domains and start-up reaches READY. -/
  | mainInputStable (training edgeFail dies : List Nat) (trngOk : Bool)
  /-- MEM_LINK_RETRAIN_DONE (R30): Retraining of a die-edge memory link that went down ends, and the hatch requests
    that waited for it proceed. -/
  | memLinkRetrainDone (edge : Nat)
  /-- LASER_INPUT_RESTORED (R446): A lost laser input of an optical engine returns within its power range, setting
    LASER_A_OK or LASER_B_OK again. -/
  | laserInputRestored (engine : Nat) (inputB : Bool)
  /-- PER_BANK_REFRESH (R357): The base die's per-bank refresh interval runs out, so it refreshes rows, holds the bank
    up to 400 ns and resets the rows' activation counts. -/
  | perBankRefresh (rows : List Nat)
  /-- HBM_WRITE_ACKNOWLEDGE (R362): The base die acknowledges a posted HBM write, which then counts as accepted for
    the section drain. -/
  | hbmWriteAcknowledge (site e : Nat)
  /-- REFERENCE_LOCKED (R72): The time base locks to a newly selected or start-up reference within 100 µs and sets
    TIME.STATUS.LOCKED with IN_USE. -/
  | referenceLocked
  /-- ALL_POWER_LOST (R556): Main input and AUX_12V are both lost without a controlled stop, and the writer completes
    the record in progress on hold-up before the always-on domain ends. -/
  | allPowerLost
  /-- SPDM_HEARTBEAT (R529): An SPDM HEARTBEAT request keeps a secured session alive under the HBEAT capability. -/
  | spdmHeartbeat (ep session : Nat)
  deriving DecidableEq, Repr

end Sys2Proof
end

