-- ==== Sys2Proof/Decode.lean ====
section
/-! DEFINITION. The commands that a word spells. The rows of the opcode table carry no bits: a command is an event of the
module, not an encoded instruction, so no word spells one. The encodings that the manual does give, of registers,
strokes, descriptors, records and messages, are read by the commands' meanings. -/

namespace Sys2Proof

-- Assumption log 7 (DESIGN CHOICE).
/-- The command that a word of the table's bits spells: none, since no row of the table gives bits. -/
def decodeTableWord (_nbits _w : Nat) : Option Instr := none

end Sys2Proof
end

