-- ==== Sys2Proof/Machine/RegMap.lean ====
section
/-! DEFINITION. The register map of BAR0 (R25): one name for each register row of the block chapters, with its
address, its repetitions, the writable bits by access code (R12) and its reset value (R16), and one name for each
field of its field map. -/

namespace Sys2Proof

/-- One row of a block chapter's register table. -/
structure RegSpec where
  /-- BAR0 address of the first instance. -/
  addr : Nat
  /-- Stride and count of each repetition, the widest stride first. -/
  dims : List (Nat × Nat)
  /-- Bits of access code RW. -/
  rw : Nat
  /-- Bits of access code RWS. -/
  rws : Nat
  /-- Bits of access code W1C. -/
  w1c : Nat
  /-- The register is WO. -/
  wo : Bool
  /-- Reset value; zero where it comes from position, fuses or the MRAM, which the view of the register supplies. -/
  rst : Nat
  deriving DecidableEq, Repr

/-- The registers of BAR0, block by block. -/
inductive Rg where
  | hubD2d
  | hubD2dRetrains
  | hubEdge
  | timeNow
  | timeRef
  | timeStatus
  | timeCommit
  | timeCommitStatus
  | timePnow
  | timePsync
  | timeSnapAt
  | timeSnapStatus
  | timeTraceBase
  | timeTraceCtl
  | timeTracePtr
  | timeTraceDrop
  | timePpsLatch
  | timeWallTs
  | timeWallNs
  | siteId
  | siteCtl
  | siteState
  | siteStallTs
  | siteFirings
  | siteStall
  | siteMatchHwm
  | siteQgrow
  | siteSpills
  | siteBankConflict
  | siteOrphans
  | siteSuXfer
  | siteSuStall
  | siteShadow
  | siteShadowTs
  | siteShadowSeq
  | siteCommit
  | siteCommitStatus
  | siteOwnerMiss
  | siteCreditViol
  | siteSemOverflow
  | siteRetireExcess
  | siteMuBankOwn
  | siteEngine
  | siteMuArm
  | siteCredit
  | siteSem
  | partPlateCtl
  | partPlateState
  | partPlateEdition
  | partLoadRefuse
  | partRefuseEdition
  | partDefect
  | partProofHit
  | partProofTs
  | partGuard
  | partGuardValue
  | partPlateLoads
  | partPlateFlips
  | partPlateTimes
  | serveSched
  | serveSchedState
  | serveSeqSel
  | serveSeqData
  | servePfxHit
  | servePfxMiss
  | servePfxVerifyFail
  | servePfxInsert
  | servePfxEvict
  | serveCommit
  | serveCommitStatus
  | serveShare
  | serveSeqRange
  | servePresult
  | serveDeficit
  | serveCharged
  | serveEntries
  | serveLedgerState
  | serveNskeyLo
  | serveNskeyHi
  | serveNskeyCtl
  | serveNskeyState
  | servePool
  | serveKvCtl
  | servePoolState
  | servePoolUse
  | serveSwapOut
  | serveSwapIn
  | servePreempts
  | serveDrops
  | serveVictims
  | serveAgeEvicts
  | serveKvFormatFails
  | serveAppendDiscards
  | serveAppendDefects
  | serveReclaimTicks
  | serveExpertTbl
  | serveVwin
  | serveVtable
  | serveDispatchState
  | serveDispChoices
  | serveDispFiltered
  | serveDispDeferred
  | serveDispDropped
  | serveDispUnplaced
  | serveDispDefects
  | servePlaceErrors
  | hbmId
  | hbmScrubCtl
  | hbmRdistCtl
  | hbmTcCtl
  | hbmTcHits
  | hbmTcMisses
  | hbmTagSel
  | hbmTagData
  | hbmTagFaults
  | hbmTagFaultLog
  | hbmDirtyPages
  | hbmCommit
  | hbmCommitStatus
  | hbmStackStatus
  | hbmCeCount
  | hbmUeCount
  | hbmUeLog
  | hbmUeAddr
  | hbmRdistRefresh
  | hbmDirtyTiles
  | hbmScrubPass
  | flashLibState
  | flashChanOut
  | flashLibFree
  | flashPolicy
  | flashChanDisable
  | flashCmdArg0
  | flashCmdArg1
  | flashCmd
  | flashCmdQueue
  | flashCmdResult
  | flashCmdAck
  | flashEdsel
  | flashEdinfo0
  | flashEdinfo1
  | flashShardRebuilds
  | flashDigestFails
  | flashUe
  | flashRelocations
  | flashBlocksRetired
  | flashCommit
  | flashCommitStatus
  | flashChStatus
  | flashChCe
  | flashChUe
  | hostLinkStatus
  | hostLinkErr
  | hostHdmMiss
  | hostBisnpLines
  | hostSfUse
  | hostComplDropped
  | hostCommit
  | hostCommitStatus
  | hostLedgerCtl
  | hostLedgerBase
  | hostRingBase
  | hostTailAddr
  | hostSwapBase
  | hostSwapSlots
  | hostBackBase
  | hostSwapState
  | hostSeg
  | hostSegHbm
  | hostMigIn
  | hostMigOut
  | hostMigWait
  | hostMovableOut
  | opticEngId
  | opticEngStatus
  | opticMsgTx
  | opticMsgRx
  | opticMsgDiscard
  | opticMsgForward
  | opticCommit
  | opticCommitStatus
  | opticPortCtl
  | opticPortState
  | opticLaneMap
  | opticPeer0
  | opticPeer1
  | opticPeerPort
  | opticPortDelay
  | opticFecCw
  | opticFecSym
  | opticFecTail
  | opticFecUe
  | opticCrcErr
  | opticReplays
  | opticRetrains
  | opticPrbsBits
  | opticPrbsErr
  | partCells
  | partId
  | partEpoch
  | partEpochSet
  | partStatus
  | partFaultRec
  | partFaultAck
  | partFaultQueue
  | partFaultSent
  | partFaultMerged
  | partFaultOverflow
  | partFaultLate
  | partSilentPartners
  | partMembers
  | partCommit
  | partCommitStatus
  | partRoute
  | powerPwrStatus
  | powerCap
  | powerBrakeCfg
  | powerFabricVmax
  | powerDomainEn
  | powerDomainOn
  | powerSupply
  | powerTemp0
  | powerTemp1
  | powerDomainV0
  | powerDomainV1
  | powerEvents
  | powerHeartbeat
  | powerBrakes
  | powerParks
  | powerPacedTicks
  | powerCommit
  | powerCommitStatus
  | sealSvnState
  | sealStatus
  | sealNonce
  | sealCmdAddr
  | sealCmd
  | sealCmdStatus
  | sealPolicy
  | sealPubSel
  | sealPubId0
  | sealPubId1
  | sealCommit
  | sealCommitStatus
  | partKill
  | partKillState
  | partDbgCredLo
  | partDbgCredHi
  | partDbgCtl
  | partDbgState
  | partDbgAddr
  | partDbgData
  | bboxBbState
  | bboxBbCtl
  | bboxHeadSeq
  | bboxOldestSeq
  | bboxLost
  | bboxRdSel
  | bboxRdData
  | bboxRdStatus
  | bboxClrAddr
  | bboxClr
  | bboxClrStatus
  | bboxCommit
  | bboxCommitStatus
  | hubId
  | hubBoot
  | hubFw
  | hubAlert
  | hubDomainMiss
  deriving DecidableEq, Repr

/-- The register table row of each register. -/
def Rg.spec : Rg → RegSpec
  | .hubD2d => ⟨0x200, [(8, 8)], 0x0, 0x0, 0x2000000000000000, false, 0x0⟩
  | .hubD2dRetrains => ⟨0x240, [(8, 8)], 0x0, 0x0, 0x0, false, 0x0⟩
  | .hubEdge => ⟨0x280, [(8, 10)], 0x0, 0x0, 0x4000000000000000, false, 0x0⟩
  | .timeNow => ⟨0x10000, [], 0x0, 0x0, 0x0, false, 0x0⟩
  | .timeRef => ⟨0x10008, [], 0x0, 0xffff, 0x0, false, 0xff80⟩
  | .timeStatus => ⟨0x10010, [], 0x0, 0x0, 0xc, false, 0x80000000⟩
  | .timeCommit => ⟨0x10ff0, [], 0x0, 0x0, 0x0, true, 0x0⟩
  | .timeCommitStatus => ⟨0x10ff8, [], 0x0, 0x0, 0x3, false, 0x0⟩
  | .timePnow => ⟨0x11000, [(128, 32)], 0x0, 0x0, 0x0, false, 0x0⟩
  | .timePsync => ⟨0x11008, [(128, 32)], 0x0, 0x0, 0x1000000000000000, false, 0x0⟩
  | .timeSnapAt => ⟨0x11010, [(128, 32)], 0xffffffffffffffff, 0x0, 0x0, false, 0x0⟩
  | .timeSnapStatus => ⟨0x11018, [(128, 32)], 0x0, 0x0, 0x0, false, 0x0⟩
  | .timeTraceBase => ⟨0x11020, [(128, 32)], 0x0, 0xffffffffffffffff, 0x0, false, 0x0⟩
  | .timeTraceCtl => ⟨0x11028, [(128, 32)], 0x0, 0xc000ffffffffffff, 0x0, false, 0x0⟩
  | .timeTracePtr => ⟨0x11030, [(128, 32)], 0x0, 0x0, 0x0, false, 0x0⟩
  | .timeTraceDrop => ⟨0x11038, [(128, 32)], 0x0, 0x0, 0x0, false, 0x0⟩
  | .timePpsLatch => ⟨0x11040, [(128, 32)], 0x0, 0x0, 0x0, false, 0x0⟩
  | .timeWallTs => ⟨0x11048, [(128, 32)], 0xffffffffffffffff, 0x0, 0x0, false, 0x0⟩
  | .timeWallNs => ⟨0x11050, [(128, 32)], 0xffffffffffffffff, 0x0, 0x0, false, 0x0⟩
  | .siteId => ⟨0x8000000, [(4096, 6144)], 0x0, 0x0, 0x0, false, 0x0⟩
  | .siteCtl => ⟨0x8000008, [(4096, 6144)], 0x0, 0x3, 0x0, false, 0x0⟩
  | .siteState => ⟨0x8000010, [(4096, 6144)], 0x0, 0x0, 0xc, false, 0x0⟩
  | .siteStallTs => ⟨0x8000018, [(4096, 6144)], 0x0, 0x0, 0x0, false, 0x0⟩
  | .siteFirings => ⟨0x8000100, [(4096, 6144)], 0x0, 0x0, 0x0, false, 0x0⟩
  | .siteStall => ⟨0x8000108, [(4096, 6144), (8, 8)], 0x0, 0x0, 0x0, false, 0x0⟩
  | .siteMatchHwm => ⟨0x8000148, [(4096, 6144)], 0x0, 0x0, 0x0, false, 0x0⟩
  | .siteQgrow => ⟨0x8000150, [(4096, 6144)], 0x0, 0x0, 0x0, false, 0x0⟩
  | .siteSpills => ⟨0x8000158, [(4096, 6144)], 0x0, 0x0, 0x0, false, 0x0⟩
  | .siteBankConflict => ⟨0x8000160, [(4096, 6144)], 0x0, 0x0, 0x0, false, 0x0⟩
  | .siteOrphans => ⟨0x8000168, [(4096, 6144)], 0x0, 0x0, 0x0, false, 0x0⟩
  | .siteSuXfer => ⟨0x8000170, [(4096, 6144), (8, 5)], 0x0, 0x0, 0x0, false, 0x0⟩
  | .siteSuStall => ⟨0x8000198, [(4096, 6144)], 0x0, 0x0, 0x0, false, 0x0⟩
  | .siteShadow => ⟨0x8000200, [(4096, 6144), (8, 20)], 0x0, 0x0, 0x0, false, 0x0⟩
  | .siteShadowTs => ⟨0x80002f0, [(4096, 6144)], 0x0, 0x0, 0x0, false, 0x0⟩
  | .siteShadowSeq => ⟨0x80002f8, [(4096, 6144)], 0x0, 0x0, 0x0, false, 0x0⟩
  | .siteCommit => ⟨0x8000ff0, [(4096, 6144)], 0x0, 0x0, 0x0, true, 0x0⟩
  | .siteCommitStatus => ⟨0x8000ff8, [(4096, 6144)], 0x0, 0x0, 0x3, false, 0x0⟩
  | .siteOwnerMiss => ⟨0x8000300, [(4096, 6144)], 0x0, 0x0, 0x0, false, 0x0⟩
  | .siteCreditViol => ⟨0x8000308, [(4096, 6144)], 0x0, 0x0, 0x0, false, 0x0⟩
  | .siteSemOverflow => ⟨0x8000310, [(4096, 6144)], 0x0, 0x0, 0x0, false, 0x0⟩
  | .siteRetireExcess => ⟨0x8000318, [(4096, 6144)], 0x0, 0x0, 0x0, false, 0x0⟩
  | .siteMuBankOwn => ⟨0x8000400, [(4096, 6144)], 0x0, 0xffffffffffffffff, 0x0, false, 0x0⟩
  | .siteEngine => ⟨0x8000410, [(4096, 6144), (8, 4)], 0x0, 0x0, 0x0, false, 0x0⟩
  | .siteMuArm => ⟨0x8000440, [(4096, 6144), (8, 4)], 0x0, 0x0, 0x0, true, 0x0⟩
  | .siteCredit => ⟨0x8000480, [(4096, 6144), (8, 4)], 0x0, 0x0, 0x0, false, 0x0⟩
  | .siteSem => ⟨0x8000800, [(4096, 6144), (8, 64)], 0x0, 0x0, 0x0, false, 0x0⟩
  | .partPlateCtl => ⟨0x4002000, [(65536, 32)], 0x0, 0x8000ffff00000000, 0x0, false, 0x0⟩
  | .partPlateState => ⟨0x4002008, [(65536, 32)], 0x0, 0x0, 0x0, false, 0x0⟩
  | .partPlateEdition => ⟨0x4002010, [(65536, 32)], 0x0, 0x0, 0x0, false, 0x0⟩
  | .partLoadRefuse => ⟨0x4002018, [(65536, 32)], 0x0, 0x0, 0x8000000000000000, false, 0x0⟩
  | .partRefuseEdition => ⟨0x4002020, [(65536, 32)], 0x0, 0x0, 0x0, false, 0x0⟩
  | .partDefect => ⟨0x4002028, [(65536, 32)], 0x0, 0x0, 0x8000000000000000, false, 0x0⟩
  | .partProofHit => ⟨0x4002030, [(65536, 32)], 0x0, 0x0, 0x8000000000000000, false, 0x0⟩
  | .partProofTs => ⟨0x4002038, [(65536, 32)], 0x0, 0x0, 0x0, false, 0x0⟩
  | .partGuard => ⟨0x4002040, [(65536, 32)], 0x0, 0x0, 0x8000000000000000, false, 0x0⟩
  | .partGuardValue => ⟨0x4002048, [(65536, 32)], 0x0, 0x0, 0x0, false, 0x0⟩
  | .partPlateLoads => ⟨0x4002050, [(65536, 32)], 0x0, 0x0, 0x0, false, 0x0⟩
  | .partPlateFlips => ⟨0x4002058, [(65536, 32)], 0x0, 0x0, 0x0, false, 0x0⟩
  | .partPlateTimes => ⟨0x4002060, [(65536, 32)], 0x0, 0x0, 0x0, false, 0x0⟩
  | .serveSched => ⟨0x3000000, [], 0x0, 0xffff, 0x0, false, 0x100⟩
  | .serveSchedState => ⟨0x3000008, [], 0x0, 0x0, 0x0, false, 0x0⟩
  | .serveSeqSel => ⟨0x3000010, [], 0x3ffff, 0x0, 0x0, false, 0x0⟩
  | .serveSeqData => ⟨0x3000018, [(8, 4)], 0x0, 0x0, 0x0, false, 0x0⟩
  | .servePfxHit => ⟨0x3000040, [], 0x0, 0x0, 0x0, false, 0x0⟩
  | .servePfxMiss => ⟨0x3000048, [], 0x0, 0x0, 0x0, false, 0x0⟩
  | .servePfxVerifyFail => ⟨0x3000050, [], 0x0, 0x0, 0x0, false, 0x0⟩
  | .servePfxInsert => ⟨0x3000058, [], 0x0, 0x0, 0x0, false, 0x0⟩
  | .servePfxEvict => ⟨0x3000060, [], 0x0, 0x0, 0x0, false, 0x0⟩
  | .serveCommit => ⟨0x3000ff0, [], 0x0, 0x0, 0x0, true, 0x0⟩
  | .serveCommitStatus => ⟨0x3000ff8, [], 0x0, 0x0, 0x3, false, 0x0⟩
  | .serveShare => ⟨0x3001000, [(256, 32)], 0x0, 0xffff, 0x0, false, 0x1⟩
  | .serveSeqRange => ⟨0x3001008, [(256, 32)], 0x0, 0x7ffff0003ffff, 0x0, false, 0x0⟩
  | .servePresult => ⟨0x3001010, [(256, 32)], 0x0, 0x3fff1fff, 0x0, false, 0x0⟩
  | .serveDeficit => ⟨0x3001018, [(256, 32)], 0x0, 0x0, 0x0, false, 0x0⟩
  | .serveCharged => ⟨0x3001020, [(256, 32)], 0x0, 0x0, 0x0, false, 0x0⟩
  | .serveEntries => ⟨0x3001028, [(256, 32)], 0x0, 0x0, 0x0, false, 0x0⟩
  | .serveLedgerState => ⟨0x3001030, [(256, 32)], 0x0, 0x0, 0x0, false, 0x0⟩
  | .serveNskeyLo => ⟨0x3001038, [(256, 32)], 0x0, 0x0, 0x0, true, 0x0⟩
  | .serveNskeyHi => ⟨0x3001040, [(256, 32)], 0x0, 0x0, 0x0, true, 0x0⟩
  | .serveNskeyCtl => ⟨0x3001048, [(256, 32)], 0x0, 0x0, 0x0, true, 0x0⟩
  | .serveNskeyState => ⟨0x3001050, [(256, 32)], 0x0, 0x0, 0x0, false, 0x0⟩
  | .servePool => ⟨0x3004000, [(128, 32)], 0x0, 0xffffffff0fffffff, 0x0, false, 0x0⟩
  | .serveKvCtl => ⟨0x3004008, [(128, 32)], 0x0, 0x800000000000000f, 0x0, false, 0x0⟩
  | .servePoolState => ⟨0x3004010, [(128, 32)], 0x0, 0x0, 0x0, false, 0x0⟩
  | .servePoolUse => ⟨0x3004018, [(128, 32)], 0x0, 0x0, 0x0, false, 0x0⟩
  | .serveSwapOut => ⟨0x3004020, [(128, 32)], 0x0, 0x0, 0x0, false, 0x0⟩
  | .serveSwapIn => ⟨0x3004028, [(128, 32)], 0x0, 0x0, 0x0, false, 0x0⟩
  | .servePreempts => ⟨0x3004030, [(128, 32)], 0x0, 0x0, 0x0, false, 0x0⟩
  | .serveDrops => ⟨0x3004038, [(128, 32)], 0x0, 0x0, 0x0, false, 0x0⟩
  | .serveVictims => ⟨0x3004040, [(128, 32)], 0x0, 0x0, 0x0, false, 0x0⟩
  | .serveAgeEvicts => ⟨0x3004048, [(128, 32)], 0x0, 0x0, 0x0, false, 0x0⟩
  | .serveKvFormatFails => ⟨0x3004050, [(128, 32)], 0x0, 0x0, 0x0, false, 0x0⟩
  | .serveAppendDiscards => ⟨0x3004058, [(128, 32)], 0x0, 0x0, 0x0, false, 0x0⟩
  | .serveAppendDefects => ⟨0x3004060, [(128, 32)], 0x0, 0x0, 0x0, false, 0x0⟩
  | .serveReclaimTicks => ⟨0x3004068, [(128, 32)], 0x0, 0x0, 0x0, false, 0x0⟩
  | .serveExpertTbl => ⟨0x3006000, [(128, 32)], 0x0, 0xfffffffffffff001, 0x0, false, 0x0⟩
  | .serveVwin => ⟨0x3006008, [(128, 32)], 0x0, 0x8000000000000fff, 0x0, false, 0x0⟩
  | .serveVtable => ⟨0x3006010, [(128, 32)], 0x0, 0x800000003fff1fff, 0x0, false, 0x0⟩
  | .serveDispatchState => ⟨0x3006018, [(128, 32)], 0x0, 0x0, 0x0, false, 0x0⟩
  | .serveDispChoices => ⟨0x3006020, [(128, 32)], 0x0, 0x0, 0x0, false, 0x0⟩
  | .serveDispFiltered => ⟨0x3006028, [(128, 32)], 0x0, 0x0, 0x0, false, 0x0⟩
  | .serveDispDeferred => ⟨0x3006030, [(128, 32)], 0x0, 0x0, 0x0, false, 0x0⟩
  | .serveDispDropped => ⟨0x3006038, [(128, 32)], 0x0, 0x0, 0x0, false, 0x0⟩
  | .serveDispUnplaced => ⟨0x3006040, [(128, 32)], 0x0, 0x0, 0x0, false, 0x0⟩
  | .serveDispDefects => ⟨0x3006048, [(128, 32)], 0x0, 0x0, 0x0, false, 0x0⟩
  | .servePlaceErrors => ⟨0x3006050, [(128, 32)], 0x0, 0x0, 0x0, false, 0x0⟩
  | .hbmId => ⟨0x1000000, [(1048576, 8)], 0x0, 0x0, 0x0, false, 0x0⟩
  | .hbmScrubCtl => ⟨0x1000008, [(1048576, 8)], 0x0, 0xffff, 0x0, false, 0x9c4⟩
  | .hbmRdistCtl => ⟨0x1000010, [(1048576, 8)], 0x0, 0x3ffff, 0x0, false, 0x20800⟩
  | .hbmTcCtl => ⟨0x1000018, [(1048576, 8)], 0x0, 0x1, 0x0, false, 0x0⟩
  | .hbmTcHits => ⟨0x1000020, [(1048576, 8)], 0x0, 0x0, 0x0, false, 0x0⟩
  | .hbmTcMisses => ⟨0x1000028, [(1048576, 8)], 0x0, 0x0, 0x0, false, 0x0⟩
  | .hbmTagSel => ⟨0x1000030, [(1048576, 8)], 0x7fffff, 0x0, 0x0, false, 0x0⟩
  | .hbmTagData => ⟨0x1000038, [(1048576, 8)], 0x0, 0x0, 0x0, false, 0x0⟩
  | .hbmTagFaults => ⟨0x1000040, [(1048576, 8)], 0x0, 0x0, 0x0, false, 0x0⟩
  | .hbmTagFaultLog => ⟨0x1000048, [(1048576, 8)], 0x0, 0x0, 0x8000000000000000, false, 0x0⟩
  | .hbmDirtyPages => ⟨0x1000050, [(1048576, 8)], 0x0, 0x0, 0x0, false, 0x0⟩
  | .hbmCommit => ⟨0x1000ff0, [(1048576, 8)], 0x0, 0x0, 0x0, true, 0x0⟩
  | .hbmCommitStatus => ⟨0x1000ff8, [(1048576, 8)], 0x0, 0x0, 0x3, false, 0x0⟩
  | .hbmStackStatus => ⟨0x1001000, [(1048576, 8), (256, 4)], 0x0, 0x0, 0x1000000000000000, false, 0x0⟩
  | .hbmCeCount => ⟨0x1001008, [(1048576, 8), (256, 4)], 0x0, 0x0, 0x0, false, 0x0⟩
  | .hbmUeCount => ⟨0x1001010, [(1048576, 8), (256, 4)], 0x0, 0x0, 0x0, false, 0x0⟩
  | .hbmUeLog => ⟨0x1001018, [(1048576, 8), (256, 4)], 0x0, 0x0, 0x8000000000000000, false, 0x0⟩
  | .hbmUeAddr => ⟨0x1001020, [(1048576, 8), (256, 4)], 0x0, 0x0, 0x0, false, 0x0⟩
  | .hbmRdistRefresh => ⟨0x1001028, [(1048576, 8), (256, 4)], 0x0, 0x0, 0x0, false, 0x0⟩
  | .hbmDirtyTiles => ⟨0x1001030, [(1048576, 8), (256, 4)], 0x0, 0x0, 0x0, false, 0x0⟩
  | .hbmScrubPass => ⟨0x1001038, [(1048576, 8), (256, 4)], 0x0, 0x0, 0x0, false, 0x0⟩
  | .flashLibState => ⟨0x200000, [], 0x0, 0x0, 0x0, false, 0x0⟩
  | .flashChanOut => ⟨0x200008, [], 0x0, 0x0, 0x0, false, 0x0⟩
  | .flashLibFree => ⟨0x200010, [], 0x0, 0x0, 0x0, false, 0x0⟩
  | .flashPolicy => ⟨0x200018, [], 0x0, 0xffffff, 0x0, false, 0xa7864⟩
  | .flashChanDisable => ⟨0x200020, [], 0x0, 0xffffffffffffffff, 0x0, false, 0x0⟩
  | .flashCmdArg0 => ⟨0x200030, [], 0xffffffffffffffff, 0x0, 0x0, false, 0x0⟩
  | .flashCmdArg1 => ⟨0x200038, [], 0xffffffffffffffff, 0x0, 0x0, false, 0x0⟩
  | .flashCmd => ⟨0x200040, [], 0x0, 0x0, 0x0, true, 0x0⟩
  | .flashCmdQueue => ⟨0x200048, [], 0x0, 0x0, 0x8000000000000000, false, 0x0⟩
  | .flashCmdResult => ⟨0x200050, [], 0x0, 0x0, 0x0, false, 0x0⟩
  | .flashCmdAck => ⟨0x200058, [], 0x0, 0x0, 0x0, true, 0x0⟩
  | .flashEdsel => ⟨0x200060, [], 0x3ff, 0x0, 0x0, false, 0x0⟩
  | .flashEdinfo0 => ⟨0x200068, [], 0x0, 0x0, 0x0, false, 0x0⟩
  | .flashEdinfo1 => ⟨0x200070, [], 0x0, 0x0, 0x0, false, 0x0⟩
  | .flashShardRebuilds => ⟨0x200100, [], 0x0, 0x0, 0x0, false, 0x0⟩
  | .flashDigestFails => ⟨0x200108, [], 0x0, 0x0, 0x0, false, 0x0⟩
  | .flashUe => ⟨0x200110, [], 0x0, 0x0, 0x0, false, 0x0⟩
  | .flashRelocations => ⟨0x200118, [], 0x0, 0x0, 0x0, false, 0x0⟩
  | .flashBlocksRetired => ⟨0x200120, [], 0x0, 0x0, 0x0, false, 0x0⟩
  | .flashCommit => ⟨0x200ff0, [], 0x0, 0x0, 0x0, true, 0x0⟩
  | .flashCommitStatus => ⟨0x200ff8, [], 0x0, 0x0, 0x3, false, 0x0⟩
  | .flashChStatus => ⟨0x201000, [(32, 64)], 0x0, 0x0, 0x0, false, 0x0⟩
  | .flashChCe => ⟨0x201008, [(32, 64)], 0x0, 0x0, 0x0, false, 0x0⟩
  | .flashChUe => ⟨0x201010, [(32, 64)], 0x0, 0x0, 0x0, false, 0x0⟩
  | .hostLinkStatus => ⟨0x100000, [], 0x0, 0x0, 0x0, false, 0x0⟩
  | .hostLinkErr => ⟨0x100008, [], 0x0, 0x0, 0x1f, false, 0x0⟩
  | .hostHdmMiss => ⟨0x100010, [], 0x0, 0x0, 0x0, false, 0x0⟩
  | .hostBisnpLines => ⟨0x100018, [], 0x0, 0x0, 0x0, false, 0x0⟩
  | .hostSfUse => ⟨0x100020, [], 0x0, 0x0, 0x0, false, 0x0⟩
  | .hostComplDropped => ⟨0x100028, [], 0x0, 0x0, 0x0, false, 0x0⟩
  | .hostCommit => ⟨0x100ff0, [], 0x0, 0x0, 0x0, true, 0x0⟩
  | .hostCommitStatus => ⟨0x100ff8, [], 0x0, 0x0, 0x3, false, 0x0⟩
  | .hostLedgerCtl => ⟨0x101000, [(256, 32)], 0x0, 0xc000000000000000, 0x0, false, 0x0⟩
  | .hostLedgerBase => ⟨0x101008, [(256, 32)], 0x0, 0xfffffffffffff, 0x0, false, 0x0⟩
  | .hostRingBase => ⟨0x101010, [(256, 32)], 0x0, 0xfffffffffffff, 0x0, false, 0x0⟩
  | .hostTailAddr => ⟨0x101018, [(256, 32)], 0x0, 0xfffffffffffff, 0x0, false, 0x0⟩
  | .hostSwapBase => ⟨0x101020, [(256, 32)], 0x0, 0xfffffffffffff, 0x0, false, 0x0⟩
  | .hostSwapSlots => ⟨0x101028, [(256, 32)], 0x0, 0x7ffffff, 0x0, false, 0x0⟩
  | .hostBackBase => ⟨0x101030, [(256, 32)], 0x0, 0xfffffffffffff, 0x0, false, 0x0⟩
  | .hostSwapState => ⟨0x101038, [(256, 32)], 0x0, 0x0, 0x0, false, 0x0⟩
  | .hostSeg => ⟨0x101040, [(256, 32), (8, 8)], 0x0, 0xffffffff0fffffff, 0x0, false, 0x0⟩
  | .hostSegHbm => ⟨0x101080, [(256, 32), (8, 8)], 0x0, 0x7ffffff, 0x0, false, 0x0⟩
  | .hostMigIn => ⟨0x1010c0, [(256, 32)], 0x0, 0x0, 0x0, false, 0x0⟩
  | .hostMigOut => ⟨0x1010c8, [(256, 32)], 0x0, 0x0, 0x0, false, 0x0⟩
  | .hostMigWait => ⟨0x1010d0, [(256, 32)], 0x0, 0x0, 0x0, false, 0x0⟩
  | .hostMovableOut => ⟨0x1010d8, [(256, 32)], 0x0, 0x0, 0x0, false, 0x0⟩
  | .opticEngId => ⟨0x2000000, [(65536, 16)], 0x0, 0x0, 0x0, false, 0x0⟩
  | .opticEngStatus => ⟨0x2000008, [(65536, 16)], 0x0, 0x0, 0xc, false, 0x0⟩
  | .opticMsgTx => ⟨0x2000010, [(65536, 16)], 0x0, 0x0, 0x0, false, 0x0⟩
  | .opticMsgRx => ⟨0x2000018, [(65536, 16)], 0x0, 0x0, 0x0, false, 0x0⟩
  | .opticMsgDiscard => ⟨0x2000020, [(65536, 16)], 0x0, 0x0, 0x0, false, 0x0⟩
  | .opticMsgForward => ⟨0x2000028, [(65536, 16)], 0x0, 0x0, 0x0, false, 0x0⟩
  | .opticCommit => ⟨0x2000ff0, [(65536, 16)], 0x0, 0x0, 0x0, true, 0x0⟩
  | .opticCommitStatus => ⟨0x2000ff8, [(65536, 16)], 0x0, 0x0, 0x3, false, 0x0⟩
  | .opticPortCtl => ⟨0x2001000, [(65536, 16), (256, 8)], 0x0, 0xf0ffff0000000000, 0x0, false, 0x3c0a0000000000⟩
  | .opticPortState => ⟨0x2001008, [(65536, 16), (256, 8)], 0x0, 0x0, 0xc00000000000000, false, 0x0⟩
  | .opticLaneMap => ⟨0x2001010, [(65536, 16), (256, 8)], 0x0, 0x0, 0x0, false, 0x876543210⟩
  | .opticPeer0 => ⟨0x2001018, [(65536, 16), (256, 8)], 0x0, 0x0, 0x0, false, 0x0⟩
  | .opticPeer1 => ⟨0x2001020, [(65536, 16), (256, 8)], 0x0, 0x0, 0x0, false, 0x0⟩
  | .opticPeerPort => ⟨0x2001028, [(65536, 16), (256, 8)], 0x0, 0x0, 0x0, false, 0x0⟩
  | .opticPortDelay => ⟨0x2001030, [(65536, 16), (256, 8)], 0x0, 0x0, 0x0, false, 0x0⟩
  | .opticFecCw => ⟨0x2001038, [(65536, 16), (256, 8)], 0x0, 0x0, 0x0, false, 0x0⟩
  | .opticFecSym => ⟨0x2001040, [(65536, 16), (256, 8)], 0x0, 0x0, 0x0, false, 0x0⟩
  | .opticFecTail => ⟨0x2001048, [(65536, 16), (256, 8)], 0x0, 0x0, 0x0, false, 0x0⟩
  | .opticFecUe => ⟨0x2001050, [(65536, 16), (256, 8)], 0x0, 0x0, 0x0, false, 0x0⟩
  | .opticCrcErr => ⟨0x2001058, [(65536, 16), (256, 8)], 0x0, 0x0, 0x0, false, 0x0⟩
  | .opticReplays => ⟨0x2001060, [(65536, 16), (256, 8)], 0x0, 0x0, 0x0, false, 0x0⟩
  | .opticRetrains => ⟨0x2001068, [(65536, 16), (256, 8)], 0x0, 0x0, 0x0, false, 0x0⟩
  | .opticPrbsBits => ⟨0x2001070, [(65536, 16), (256, 8)], 0x0, 0x0, 0x0, false, 0x0⟩
  | .opticPrbsErr => ⟨0x2001078, [(65536, 16), (256, 8), (8, 9)], 0x0, 0x0, 0x0, false, 0x0⟩
  | .partCells => ⟨0x4000000, [(65536, 32)], 0x0, 0x8000000000ff070f, 0x0, false, 0x0⟩
  | .partId => ⟨0x4000008, [(65536, 32)], 0x0, 0xffff000fff000fff, 0x0, false, 0x0⟩
  | .partEpoch => ⟨0x4000010, [(65536, 32)], 0x0, 0x0, 0x0, false, 0x0⟩
  | .partEpochSet => ⟨0x4000018, [(65536, 32)], 0x0, 0x0, 0x0, true, 0x0⟩
  | .partStatus => ⟨0x4000020, [(65536, 32)], 0x0, 0x0, 0x3000000000000000, false, 0x0⟩
  | .partFaultRec => ⟨0x4000030, [(65536, 32), (8, 4)], 0x0, 0x0, 0x0, false, 0x0⟩
  | .partFaultAck => ⟨0x4000050, [(65536, 32)], 0x0, 0x0, 0x0, true, 0x0⟩
  | .partFaultQueue => ⟨0x4000058, [(65536, 32)], 0x0, 0x0, 0x8000000000000000, false, 0x0⟩
  | .partFaultSent => ⟨0x4000060, [(65536, 32)], 0x0, 0x0, 0x0, false, 0x0⟩
  | .partFaultMerged => ⟨0x4000068, [(65536, 32)], 0x0, 0x0, 0x0, false, 0x0⟩
  | .partFaultOverflow => ⟨0x4000070, [(65536, 32)], 0x0, 0x0, 0x0, false, 0x0⟩
  | .partFaultLate => ⟨0x4000078, [(65536, 32)], 0x0, 0x0, 0x0, false, 0x0⟩
  | .partSilentPartners => ⟨0x4000080, [(65536, 32)], 0x0, 0x0, 0x0, false, 0x0⟩
  | .partMembers => ⟨0x4000800, [(65536, 32), (8, 64)], 0x0, 0xffffffffffffffff, 0x0, false, 0x0⟩
  | .partCommit => ⟨0x4000ff0, [(65536, 32)], 0x0, 0x0, 0x0, true, 0x0⟩
  | .partCommitStatus => ⟨0x4000ff8, [(65536, 32)], 0x0, 0x0, 0x3, false, 0x0⟩
  | .partRoute => ⟨0x4001000, [(65536, 32), (8, 512)], 0x0, 0xffffffffffffffff, 0x0, false, 0x0⟩
  | .powerPwrStatus => ⟨0x20000, [], 0x0, 0x0, 0x0, false, 0x0⟩
  | .powerCap => ⟨0x20008, [], 0x0, 0xffff000003ff, 0x0, false, 0x398⟩
  | .powerBrakeCfg => ⟨0x20010, [], 0x0, 0x800003ff03ff03ff, 0x0, false, 0x25800fa012c⟩
  | .powerFabricVmax => ⟨0x20018, [], 0x0, 0xff, 0x0, false, 0x3c⟩
  | .powerDomainEn => ⟨0x20020, [], 0x0, 0xffffffffffffffff, 0x0, false, 0x0⟩
  | .powerDomainOn => ⟨0x20028, [], 0x0, 0x0, 0x0, false, 0x0⟩
  | .powerSupply => ⟨0x20030, [], 0x0, 0x0, 0x0, false, 0x0⟩
  | .powerTemp0 => ⟨0x20038, [], 0x0, 0x0, 0x0, false, 0x0⟩
  | .powerTemp1 => ⟨0x20040, [], 0x0, 0x0, 0x0, false, 0x0⟩
  | .powerDomainV0 => ⟨0x20048, [], 0x0, 0x0, 0x0, false, 0x0⟩
  | .powerDomainV1 => ⟨0x20050, [], 0x0, 0x0, 0x0, false, 0x0⟩
  | .powerEvents => ⟨0x20058, [], 0x0, 0x0, 0x1ff, false, 0x0⟩
  | .powerHeartbeat => ⟨0x20060, [], 0x0, 0x0, 0x0, false, 0x0⟩
  | .powerBrakes => ⟨0x20068, [], 0x0, 0x0, 0x0, false, 0x0⟩
  | .powerParks => ⟨0x20070, [], 0x0, 0x0, 0x0, false, 0x0⟩
  | .powerPacedTicks => ⟨0x20078, [], 0x0, 0x0, 0x0, false, 0x0⟩
  | .powerCommit => ⟨0x20ff0, [], 0x0, 0x0, 0x0, true, 0x0⟩
  | .powerCommitStatus => ⟨0x20ff8, [], 0x0, 0x0, 0x3, false, 0x0⟩
  | .sealSvnState => ⟨0x30000, [], 0x0, 0x0, 0x0, false, 0x0⟩
  | .sealStatus => ⟨0x30008, [], 0x0, 0x0, 0x0, false, 0x0⟩
  | .sealNonce => ⟨0x30010, [], 0x0, 0x0, 0x0, false, 0x0⟩
  | .sealCmdAddr => ⟨0x30018, [], 0xfffffffffffff, 0x0, 0x0, false, 0x0⟩
  | .sealCmd => ⟨0x30020, [], 0x0, 0x0, 0x0, true, 0x0⟩
  | .sealCmdStatus => ⟨0x30028, [], 0x0, 0x0, 0x5, false, 0x0⟩
  | .sealPolicy => ⟨0x30030, [], 0x0, 0x3, 0x0, false, 0x2⟩
  | .sealPubSel => ⟨0x30038, [], 0xf, 0x0, 0x0, false, 0x0⟩
  | .sealPubId0 => ⟨0x30040, [], 0x0, 0x0, 0x0, false, 0x0⟩
  | .sealPubId1 => ⟨0x30048, [], 0x0, 0x0, 0x0, false, 0x0⟩
  | .sealCommit => ⟨0x30ff0, [], 0x0, 0x0, 0x0, true, 0x0⟩
  | .sealCommitStatus => ⟨0x30ff8, [], 0x0, 0x0, 0x3, false, 0x0⟩
  | .partKill => ⟨0x4003000, [(65536, 32)], 0x0, 0x0, 0x0, true, 0x0⟩
  | .partKillState => ⟨0x4003008, [(65536, 32)], 0x0, 0x0, 0x0, false, 0x0⟩
  | .partDbgCredLo => ⟨0x4003010, [(65536, 32)], 0x0, 0x0, 0x0, true, 0x0⟩
  | .partDbgCredHi => ⟨0x4003018, [(65536, 32)], 0x0, 0x0, 0x0, true, 0x0⟩
  | .partDbgCtl => ⟨0x4003020, [(65536, 32)], 0x0, 0x0, 0x0, true, 0x0⟩
  | .partDbgState => ⟨0x4003028, [(65536, 32)], 0x0, 0x0, 0x1800000000000000, false, 0x0⟩
  | .partDbgAddr => ⟨0x4003030, [(65536, 32)], 0xc0001fff00003fff, 0x0, 0x0, false, 0x0⟩
  | .partDbgData => ⟨0x4003038, [(65536, 32), (8, 8)], 0x0, 0x0, 0x0, false, 0x0⟩
  | .bboxBbState => ⟨0x40000, [], 0x0, 0x0, 0x0, false, 0x0⟩
  | .bboxBbCtl => ⟨0x40008, [], 0x0, 0x1fe, 0x0, false, 0x1fe⟩
  | .bboxHeadSeq => ⟨0x40010, [], 0x0, 0x0, 0x0, false, 0x0⟩
  | .bboxOldestSeq => ⟨0x40018, [], 0x0, 0x0, 0x0, false, 0x0⟩
  | .bboxLost => ⟨0x40020, [], 0x0, 0x0, 0x0, false, 0x0⟩
  | .bboxRdSel => ⟨0x40028, [], 0x8000ffffffffffff, 0x0, 0x0, false, 0x0⟩
  | .bboxRdData => ⟨0x40030, [(8, 8)], 0x0, 0x0, 0x0, false, 0x0⟩
  | .bboxRdStatus => ⟨0x40070, [], 0x0, 0x0, 0x0, false, 0x0⟩
  | .bboxClrAddr => ⟨0x40078, [], 0xfffffffffffff, 0x0, 0x0, false, 0x0⟩
  | .bboxClr => ⟨0x40080, [], 0x0, 0x0, 0x0, true, 0x0⟩
  | .bboxClrStatus => ⟨0x40088, [], 0x0, 0x0, 0x1, false, 0x0⟩
  | .bboxCommit => ⟨0x40ff0, [], 0x0, 0x0, 0x0, true, 0x0⟩
  | .bboxCommitStatus => ⟨0x40ff8, [], 0x0, 0x0, 0x3, false, 0x0⟩
  | .hubId => ⟨0x0, [], 0x0, 0x0, 0x0, false, 0x0⟩
  | .hubBoot => ⟨0x8, [], 0x0, 0x0, 0x0, false, 0x0⟩
  | .hubFw => ⟨0x10, [], 0x0, 0x0, 0x0, false, 0x0⟩
  | .hubAlert => ⟨0x18, [], 0x3f00, 0x0, 0x3f, false, 0x3f00⟩
  | .hubDomainMiss => ⟨0x100, [], 0x0, 0x0, 0x8000000000000000, false, 0x0⟩

/-- Part 0 of the list of registers. -/
def Rg.all0 : List Rg :=
  [Rg.hubD2d, Rg.hubD2dRetrains, Rg.hubEdge, Rg.timeNow, Rg.timeRef, Rg.timeStatus, Rg.timeCommit, Rg.timeCommitStatus, Rg.timePnow, Rg.timePsync, Rg.timeSnapAt, Rg.timeSnapStatus, Rg.timeTraceBase, Rg.timeTraceCtl, Rg.timeTracePtr, Rg.timeTraceDrop, Rg.timePpsLatch, Rg.timeWallTs, Rg.timeWallNs, Rg.siteId, Rg.siteCtl, Rg.siteState, Rg.siteStallTs, Rg.siteFirings, Rg.siteStall, Rg.siteMatchHwm, Rg.siteQgrow, Rg.siteSpills, Rg.siteBankConflict, Rg.siteOrphans]
/-- Part 1 of the list of registers. -/
def Rg.all1 : List Rg :=
  [Rg.siteSuXfer, Rg.siteSuStall, Rg.siteShadow, Rg.siteShadowTs, Rg.siteShadowSeq, Rg.siteCommit, Rg.siteCommitStatus, Rg.siteOwnerMiss, Rg.siteCreditViol, Rg.siteSemOverflow, Rg.siteRetireExcess, Rg.siteMuBankOwn, Rg.siteEngine, Rg.siteMuArm, Rg.siteCredit, Rg.siteSem, Rg.partPlateCtl, Rg.partPlateState, Rg.partPlateEdition, Rg.partLoadRefuse, Rg.partRefuseEdition, Rg.partDefect, Rg.partProofHit, Rg.partProofTs, Rg.partGuard, Rg.partGuardValue, Rg.partPlateLoads, Rg.partPlateFlips, Rg.partPlateTimes, Rg.serveSched]
/-- Part 2 of the list of registers. -/
def Rg.all2 : List Rg :=
  [Rg.serveSchedState, Rg.serveSeqSel, Rg.serveSeqData, Rg.servePfxHit, Rg.servePfxMiss, Rg.servePfxVerifyFail, Rg.servePfxInsert, Rg.servePfxEvict, Rg.serveCommit, Rg.serveCommitStatus, Rg.serveShare, Rg.serveSeqRange, Rg.servePresult, Rg.serveDeficit, Rg.serveCharged, Rg.serveEntries, Rg.serveLedgerState, Rg.serveNskeyLo, Rg.serveNskeyHi, Rg.serveNskeyCtl, Rg.serveNskeyState, Rg.servePool, Rg.serveKvCtl, Rg.servePoolState, Rg.servePoolUse, Rg.serveSwapOut, Rg.serveSwapIn, Rg.servePreempts, Rg.serveDrops, Rg.serveVictims]
/-- Part 3 of the list of registers. -/
def Rg.all3 : List Rg :=
  [Rg.serveAgeEvicts, Rg.serveKvFormatFails, Rg.serveAppendDiscards, Rg.serveAppendDefects, Rg.serveReclaimTicks, Rg.serveExpertTbl, Rg.serveVwin, Rg.serveVtable, Rg.serveDispatchState, Rg.serveDispChoices, Rg.serveDispFiltered, Rg.serveDispDeferred, Rg.serveDispDropped, Rg.serveDispUnplaced, Rg.serveDispDefects, Rg.servePlaceErrors, Rg.hbmId, Rg.hbmScrubCtl, Rg.hbmRdistCtl, Rg.hbmTcCtl, Rg.hbmTcHits, Rg.hbmTcMisses, Rg.hbmTagSel, Rg.hbmTagData, Rg.hbmTagFaults, Rg.hbmTagFaultLog, Rg.hbmDirtyPages, Rg.hbmCommit, Rg.hbmCommitStatus, Rg.hbmStackStatus]
/-- Part 4 of the list of registers. -/
def Rg.all4 : List Rg :=
  [Rg.hbmCeCount, Rg.hbmUeCount, Rg.hbmUeLog, Rg.hbmUeAddr, Rg.hbmRdistRefresh, Rg.hbmDirtyTiles, Rg.hbmScrubPass, Rg.flashLibState, Rg.flashChanOut, Rg.flashLibFree, Rg.flashPolicy, Rg.flashChanDisable, Rg.flashCmdArg0, Rg.flashCmdArg1, Rg.flashCmd, Rg.flashCmdQueue, Rg.flashCmdResult, Rg.flashCmdAck, Rg.flashEdsel, Rg.flashEdinfo0, Rg.flashEdinfo1, Rg.flashShardRebuilds, Rg.flashDigestFails, Rg.flashUe, Rg.flashRelocations, Rg.flashBlocksRetired, Rg.flashCommit, Rg.flashCommitStatus, Rg.flashChStatus, Rg.flashChCe]
/-- Part 5 of the list of registers. -/
def Rg.all5 : List Rg :=
  [Rg.flashChUe, Rg.hostLinkStatus, Rg.hostLinkErr, Rg.hostHdmMiss, Rg.hostBisnpLines, Rg.hostSfUse, Rg.hostComplDropped, Rg.hostCommit, Rg.hostCommitStatus, Rg.hostLedgerCtl, Rg.hostLedgerBase, Rg.hostRingBase, Rg.hostTailAddr, Rg.hostSwapBase, Rg.hostSwapSlots, Rg.hostBackBase, Rg.hostSwapState, Rg.hostSeg, Rg.hostSegHbm, Rg.hostMigIn, Rg.hostMigOut, Rg.hostMigWait, Rg.hostMovableOut, Rg.opticEngId, Rg.opticEngStatus, Rg.opticMsgTx, Rg.opticMsgRx, Rg.opticMsgDiscard, Rg.opticMsgForward, Rg.opticCommit]
/-- Part 6 of the list of registers. -/
def Rg.all6 : List Rg :=
  [Rg.opticCommitStatus, Rg.opticPortCtl, Rg.opticPortState, Rg.opticLaneMap, Rg.opticPeer0, Rg.opticPeer1, Rg.opticPeerPort, Rg.opticPortDelay, Rg.opticFecCw, Rg.opticFecSym, Rg.opticFecTail, Rg.opticFecUe, Rg.opticCrcErr, Rg.opticReplays, Rg.opticRetrains, Rg.opticPrbsBits, Rg.opticPrbsErr, Rg.partCells, Rg.partId, Rg.partEpoch, Rg.partEpochSet, Rg.partStatus, Rg.partFaultRec, Rg.partFaultAck, Rg.partFaultQueue, Rg.partFaultSent, Rg.partFaultMerged, Rg.partFaultOverflow, Rg.partFaultLate, Rg.partSilentPartners]
/-- Part 7 of the list of registers. -/
def Rg.all7 : List Rg :=
  [Rg.partMembers, Rg.partCommit, Rg.partCommitStatus, Rg.partRoute, Rg.powerPwrStatus, Rg.powerCap, Rg.powerBrakeCfg, Rg.powerFabricVmax, Rg.powerDomainEn, Rg.powerDomainOn, Rg.powerSupply, Rg.powerTemp0, Rg.powerTemp1, Rg.powerDomainV0, Rg.powerDomainV1, Rg.powerEvents, Rg.powerHeartbeat, Rg.powerBrakes, Rg.powerParks, Rg.powerPacedTicks, Rg.powerCommit, Rg.powerCommitStatus, Rg.sealSvnState, Rg.sealStatus, Rg.sealNonce, Rg.sealCmdAddr, Rg.sealCmd, Rg.sealCmdStatus, Rg.sealPolicy, Rg.sealPubSel]
/-- Part 8 of the list of registers. -/
def Rg.all8 : List Rg :=
  [Rg.sealPubId0, Rg.sealPubId1, Rg.sealCommit, Rg.sealCommitStatus, Rg.partKill, Rg.partKillState, Rg.partDbgCredLo, Rg.partDbgCredHi, Rg.partDbgCtl, Rg.partDbgState, Rg.partDbgAddr, Rg.partDbgData, Rg.bboxBbState, Rg.bboxBbCtl, Rg.bboxHeadSeq, Rg.bboxOldestSeq, Rg.bboxLost, Rg.bboxRdSel, Rg.bboxRdData, Rg.bboxRdStatus, Rg.bboxClrAddr, Rg.bboxClr, Rg.bboxClrStatus, Rg.bboxCommit, Rg.bboxCommitStatus, Rg.hubId, Rg.hubBoot, Rg.hubFw, Rg.hubAlert, Rg.hubDomainMiss]
/-- Every register, in the order of the register tables. -/
def Rg.all : List Rg :=
  List.flatten [Rg.all0, Rg.all1, Rg.all2, Rg.all3, Rg.all4, Rg.all5, Rg.all6, Rg.all7, Rg.all8]

/-- The registers whose reset value is not zero (R16). -/
def Rg.withReset : List Rg := [.timeRef, .timeStatus, .serveSched, .serveShare, .hbmScrubCtl, .hbmRdistCtl, .flashPolicy, .opticPortCtl, .opticLaneMap, .powerCap, .powerBrakeCfg, .powerFabricVmax, .sealPolicy, .bboxBbCtl, .hubAlert]

/-- A field of a register: the register and its bit range. -/
structure Fld where
  /-- The register that holds the field. -/
  reg : Rg
  /-- Highest bit. -/
  hi : Nat
  /-- Lowest bit. -/
  lo : Nat
  deriving DecidableEq, Repr

/-- HUB.D2D_k.UP -/
abbrev Fld.hubD2dUp : Fld := ⟨.hubD2d, 63, 63⟩
/-- HUB.D2D_k.DEGRADED -/
abbrev Fld.hubD2dDegraded : Fld := ⟨.hubD2d, 62, 62⟩
/-- HUB.D2D_k.WENT_DOWN -/
abbrev Fld.hubD2dWentDown : Fld := ⟨.hubD2d, 61, 61⟩
/-- HUB.D2D_k.REPAIRED -/
abbrev Fld.hubD2dRepaired : Fld := ⟨.hubD2d, 47, 40⟩
/-- HUB.EDGE_n.MEM_UP -/
abbrev Fld.hubEdgeMemUp : Fld := ⟨.hubEdge, 63, 63⟩
/-- HUB.EDGE_n.MEM_WENT_DOWN -/
abbrev Fld.hubEdgeMemWentDown : Fld := ⟨.hubEdge, 62, 62⟩
/-- HUB.EDGE_n.SW_FAIL -/
abbrev Fld.hubEdgeSwFail : Fld := ⟨.hubEdge, 31, 0⟩
/-- TIME.REF.ALT -/
abbrev Fld.timeRefAlt : Fld := ⟨.timeRef, 15, 8⟩
/-- TIME.REF.SRC -/
abbrev Fld.timeRefSrc : Fld := ⟨.timeRef, 7, 0⟩
/-- TIME.STATUS.IN_USE -/
abbrev Fld.timeStatusInUse : Fld := ⟨.timeStatus, 31, 24⟩
/-- TIME.STATUS.REF_SWITCH -/
abbrev Fld.timeStatusRefSwitch : Fld := ⟨.timeStatus, 3, 3⟩
/-- TIME.STATUS.REF_LOST -/
abbrev Fld.timeStatusRefLost : Fld := ⟨.timeStatus, 2, 2⟩
/-- TIME.STATUS.HOLDOVER -/
abbrev Fld.timeStatusHoldover : Fld := ⟨.timeStatus, 1, 1⟩
/-- TIME.STATUS.LOCKED -/
abbrev Fld.timeStatusLocked : Fld := ⟨.timeStatus, 0, 0⟩
/-- TIME.COMMIT.TOKEN -/
abbrev Fld.timeCommitToken : Fld := ⟨.timeCommit, 31, 16⟩
/-- TIME.COMMIT.CANCEL -/
abbrev Fld.timeCommitCancel : Fld := ⟨.timeCommit, 1, 1⟩
/-- TIME.COMMIT.GO -/
abbrev Fld.timeCommitGo : Fld := ⟨.timeCommit, 0, 0⟩
/-- TIME.COMMIT_STATUS.CHECK -/
abbrev Fld.timeCommitStatusCheck : Fld := ⟨.timeCommitStatus, 47, 32⟩
/-- TIME.COMMIT_STATUS.TOKEN -/
abbrev Fld.timeCommitStatusToken : Fld := ⟨.timeCommitStatus, 31, 16⟩
/-- TIME.COMMIT_STATUS.RESULT -/
abbrev Fld.timeCommitStatusResult : Fld := ⟨.timeCommitStatus, 10, 8⟩
/-- TIME.COMMIT_STATUS.LOST -/
abbrev Fld.timeCommitStatusLost : Fld := ⟨.timeCommitStatus, 1, 1⟩
/-- TIME.COMMIT_STATUS.DONE -/
abbrev Fld.timeCommitStatusDone : Fld := ⟨.timeCommitStatus, 0, 0⟩
/-- TIME.PSYNC.SYNCED -/
abbrev Fld.timePsyncSynced : Fld := ⟨.timePsync, 63, 63⟩
/-- TIME.PSYNC.LEAD -/
abbrev Fld.timePsyncLead : Fld := ⟨.timePsync, 62, 62⟩
/-- TIME.PSYNC.HOLDOVER -/
abbrev Fld.timePsyncHoldover : Fld := ⟨.timePsync, 61, 61⟩
/-- TIME.PSYNC.OUT_OF_BOUND -/
abbrev Fld.timePsyncOutOfBound : Fld := ⟨.timePsync, 60, 60⟩
/-- TIME.PSYNC.HOPS -/
abbrev Fld.timePsyncHops : Fld := ⟨.timePsync, 39, 32⟩
/-- TIME.PSYNC.OFFSET_ERR -/
abbrev Fld.timePsyncOffsetErr : Fld := ⟨.timePsync, 15, 0⟩
/-- TIME.SNAP_STATUS.SEQ -/
abbrev Fld.timeSnapStatusSeq : Fld := ⟨.timeSnapStatus, 63, 32⟩
/-- TIME.SNAP_STATUS.PENDING -/
abbrev Fld.timeSnapStatusPending : Fld := ⟨.timeSnapStatus, 3, 3⟩
/-- TIME.SNAP_STATUS.STATE -/
abbrev Fld.timeSnapStatusState : Fld := ⟨.timeSnapStatus, 2, 0⟩
/-- TIME.TRACE_CTL.ENABLE -/
abbrev Fld.timeTraceCtlEnable : Fld := ⟨.timeTraceCtl, 63, 63⟩
/-- TIME.TRACE_CTL.MODE -/
abbrev Fld.timeTraceCtlMode : Fld := ⟨.timeTraceCtl, 62, 62⟩
/-- TIME.TRACE_CTL.SIZE -/
abbrev Fld.timeTraceCtlSize : Fld := ⟨.timeTraceCtl, 47, 32⟩
/-- TIME.TRACE_CTL.MASK -/
abbrev Fld.timeTraceCtlMask : Fld := ⟨.timeTraceCtl, 31, 0⟩
/-- TIME.TRACE_PTR.FULL -/
abbrev Fld.timeTracePtrFull : Fld := ⟨.timeTracePtr, 63, 63⟩
/-- TIME.TRACE_PTR.WRAPPED -/
abbrev Fld.timeTracePtrWrapped : Fld := ⟨.timeTracePtr, 62, 62⟩
/-- TIME.TRACE_PTR.NEXT -/
abbrev Fld.timeTracePtrNext : Fld := ⟨.timeTracePtr, 31, 0⟩
/-- TIME.TRACE_DROP.COUNT -/
abbrev Fld.timeTraceDropCount : Fld := ⟨.timeTraceDrop, 47, 0⟩
/-- SITE.ID.KIND -/
abbrev Fld.siteIdKind : Fld := ⟨.siteId, 30, 30⟩
/-- SITE.ID.OWNED -/
abbrev Fld.siteIdOwned : Fld := ⟨.siteId, 29, 29⟩
/-- SITE.ID.PART -/
abbrev Fld.siteIdPart : Fld := ⟨.siteId, 28, 24⟩
/-- SITE.ID.CELL -/
abbrev Fld.siteIdCell : Fld := ⟨.siteId, 22, 16⟩
/-- SITE.ID.DIE -/
abbrev Fld.siteIdDie : Fld := ⟨.siteId, 15, 13⟩
/-- SITE.ID.Y -/
abbrev Fld.siteIdY : Fld := ⟨.siteId, 12, 7⟩
/-- SITE.ID.X -/
abbrev Fld.siteIdX : Fld := ⟨.siteId, 6, 0⟩
/-- SITE.CTL.TRACE_EN -/
abbrev Fld.siteCtlTraceEn : Fld := ⟨.siteCtl, 1, 1⟩
/-- SITE.CTL.OFFLINE -/
abbrev Fld.siteCtlOffline : Fld := ⟨.siteCtl, 0, 0⟩
/-- SITE.STATE.STALLED -/
abbrev Fld.siteStateStalled : Fld := ⟨.siteState, 7, 7⟩
/-- SITE.STATE.CAUSE -/
abbrev Fld.siteStateCause : Fld := ⟨.siteState, 6, 4⟩
/-- SITE.STATE.ORPHAN_SEEN -/
abbrev Fld.siteStateOrphanSeen : Fld := ⟨.siteState, 3, 3⟩
/-- SITE.STATE.MATCH_FULL -/
abbrev Fld.siteStateMatchFull : Fld := ⟨.siteState, 2, 2⟩
/-- SITE.STATE.OFFLINE_ACTIVE -/
abbrev Fld.siteStateOfflineActive : Fld := ⟨.siteState, 1, 1⟩
/-- SITE.STATE.WORK -/
abbrev Fld.siteStateWork : Fld := ⟨.siteState, 0, 0⟩
/-- SITE.MATCH_HWM.PORT -/
abbrev Fld.siteMatchHwmPort : Fld := ⟨.siteMatchHwm, 9, 8⟩
/-- SITE.MATCH_HWM.HWM -/
abbrev Fld.siteMatchHwmHwm : Fld := ⟨.siteMatchHwm, 5, 0⟩
/-- SITE.SHADOW_SEQ.SEQ -/
abbrev Fld.siteShadowSeqSeq : Fld := ⟨.siteShadowSeq, 31, 0⟩
/-- SITE.COMMIT.TOKEN -/
abbrev Fld.siteCommitToken : Fld := ⟨.siteCommit, 31, 16⟩
/-- SITE.COMMIT.CANCEL -/
abbrev Fld.siteCommitCancel : Fld := ⟨.siteCommit, 1, 1⟩
/-- SITE.COMMIT.GO -/
abbrev Fld.siteCommitGo : Fld := ⟨.siteCommit, 0, 0⟩
/-- SITE.COMMIT_STATUS.CHECK -/
abbrev Fld.siteCommitStatusCheck : Fld := ⟨.siteCommitStatus, 47, 32⟩
/-- SITE.COMMIT_STATUS.TOKEN -/
abbrev Fld.siteCommitStatusToken : Fld := ⟨.siteCommitStatus, 31, 16⟩
/-- SITE.COMMIT_STATUS.RESULT -/
abbrev Fld.siteCommitStatusResult : Fld := ⟨.siteCommitStatus, 10, 8⟩
/-- SITE.COMMIT_STATUS.LOST -/
abbrev Fld.siteCommitStatusLost : Fld := ⟨.siteCommitStatus, 1, 1⟩
/-- SITE.COMMIT_STATUS.DONE -/
abbrev Fld.siteCommitStatusDone : Fld := ⟨.siteCommitStatus, 0, 0⟩
/-- SITE.ENGINE_e.ACTIVE -/
abbrev Fld.siteEngineActive : Fld := ⟨.siteEngine, 63, 63⟩
/-- SITE.ENGINE_e.ARM_WAIT -/
abbrev Fld.siteEngineArmWait : Fld := ⟨.siteEngine, 62, 62⟩
/-- SITE.ENGINE_e.CAUSE -/
abbrev Fld.siteEngineCause : Fld := ⟨.siteEngine, 61, 59⟩
/-- SITE.ENGINE_e.DESC -/
abbrev Fld.siteEngineDesc : Fld := ⟨.siteEngine, 58, 52⟩
/-- SITE.ENGINE_e.ITER -/
abbrev Fld.siteEngineIter : Fld := ⟨.siteEngine, 51, 36⟩
/-- SITE.ENGINE_e.OUTSTANDING -/
abbrev Fld.siteEngineOutstanding : Fld := ⟨.siteEngine, 5, 0⟩
/-- SITE.CREDIT_w.MODULE -/
abbrev Fld.siteCreditModule : Fld := ⟨.siteCredit, 63, 52⟩
/-- SITE.CREDIT_w.VALID -/
abbrev Fld.siteCreditValid : Fld := ⟨.siteCredit, 51, 51⟩
/-- SITE.CREDIT_w.CREDITS -/
abbrev Fld.siteCreditCredits : Fld := ⟨.siteCredit, 19, 0⟩
/-- SITE.SEM_s.WAITERS -/
abbrev Fld.siteSemWaiters : Fld := ⟨.siteSem, 27, 20⟩
/-- SITE.SEM_s.VALUE -/
abbrev Fld.siteSemValue : Fld := ⟨.siteSem, 19, 0⟩
/-- PART.PLATE_CTL.PROOF -/
abbrev Fld.partPlateCtlProof : Fld := ⟨.partPlateCtl, 63, 63⟩
/-- PART.PLATE_CTL.SPILL_RSV -/
abbrev Fld.partPlateCtlSpillRsv : Fld := ⟨.partPlateCtl, 47, 32⟩
/-- PART.PLATE_STATE.FRONT_VALID -/
abbrev Fld.partPlateStateFrontValid : Fld := ⟨.partPlateState, 63, 63⟩
/-- PART.PLATE_STATE.FRONT_PLATE -/
abbrev Fld.partPlateStateFrontPlate : Fld := ⟨.partPlateState, 62, 60⟩
/-- PART.PLATE_STATE.BACK_VALID -/
abbrev Fld.partPlateStateBackValid : Fld := ⟨.partPlateState, 59, 59⟩
/-- PART.PLATE_STATE.BACK_PLATE -/
abbrev Fld.partPlateStateBackPlate : Fld := ⟨.partPlateState, 58, 56⟩
/-- PART.PLATE_STATE.LOADING -/
abbrev Fld.partPlateStateLoading : Fld := ⟨.partPlateState, 55, 55⟩
/-- PART.PLATE_STATE.PHASE -/
abbrev Fld.partPlateStatePhase : Fld := ⟨.partPlateState, 54, 53⟩
/-- PART.PLATE_STATE.SECTION -/
abbrev Fld.partPlateStateSection : Fld := ⟨.partPlateState, 52, 47⟩
/-- PART.PLATE_STATE.ROW -/
abbrev Fld.partPlateStateRow : Fld := ⟨.partPlateState, 46, 41⟩
/-- PART.PLATE_EDITION.BACK -/
abbrev Fld.partPlateEditionBack : Fld := ⟨.partPlateEdition, 63, 32⟩
/-- PART.PLATE_EDITION.FRONT -/
abbrev Fld.partPlateEditionFront : Fld := ⟨.partPlateEdition, 31, 0⟩
/-- PART.LOAD_REFUSE.VALID -/
abbrev Fld.partLoadRefuseValid : Fld := ⟨.partLoadRefuse, 63, 63⟩
/-- PART.LOAD_REFUSE.KIND -/
abbrev Fld.partLoadRefuseKind : Fld := ⟨.partLoadRefuse, 62, 60⟩
/-- PART.LOAD_REFUSE.PLATE -/
abbrev Fld.partLoadRefusePlate : Fld := ⟨.partLoadRefuse, 59, 57⟩
/-- PART.LOAD_REFUSE.CHECK -/
abbrev Fld.partLoadRefuseCheck : Fld := ⟨.partLoadRefuse, 47, 40⟩
/-- PART.LOAD_REFUSE.INDEX -/
abbrev Fld.partLoadRefuseIndex : Fld := ⟨.partLoadRefuse, 31, 16⟩
/-- PART.LOAD_REFUSE.SITE -/
abbrev Fld.partLoadRefuseSite : Fld := ⟨.partLoadRefuse, 12, 0⟩
/-- PART.REFUSE_EDITION.EDITION -/
abbrev Fld.partRefuseEditionEdition : Fld := ⟨.partRefuseEdition, 31, 0⟩
/-- PART.DEFECT.VALID -/
abbrev Fld.partDefectValid : Fld := ⟨.partDefect, 63, 63⟩
/-- PART.DEFECT.MEANING -/
abbrev Fld.partDefectMeaning : Fld := ⟨.partDefect, 62, 61⟩
/-- PART.DEFECT.LEDGER -/
abbrev Fld.partDefectLedger : Fld := ⟨.partDefect, 11, 0⟩
/-- PART.PROOF_HIT.VALID -/
abbrev Fld.partProofHitValid : Fld := ⟨.partProofHit, 63, 63⟩
/-- PART.PROOF_HIT.CAUSE -/
abbrev Fld.partProofHitCause : Fld := ⟨.partProofHit, 62, 59⟩
/-- PART.PROOF_HIT.SITE -/
abbrev Fld.partProofHitSite : Fld := ⟨.partProofHit, 12, 0⟩
/-- PART.GUARD.VALID -/
abbrev Fld.partGuardValid : Fld := ⟨.partGuard, 63, 63⟩
/-- PART.GUARD.UNMAPPED -/
abbrev Fld.partGuardUnmapped : Fld := ⟨.partGuard, 62, 62⟩
/-- PART.GUARD.ROW -/
abbrev Fld.partGuardRow : Fld := ⟨.partGuard, 53, 48⟩
/-- PART.GUARD.SECTION_WORD -/
abbrev Fld.partGuardSectionWord : Fld := ⟨.partGuard, 47, 44⟩
/-- PART.GUARD.STEP_WORD -/
abbrev Fld.partGuardStepWord : Fld := ⟨.partGuard, 43, 40⟩
/-- PART.GUARD.MAX -/
abbrev Fld.partGuardMax : Fld := ⟨.partGuard, 15, 0⟩
/-- PART.GUARD_VALUE.VALUE -/
abbrev Fld.partGuardValueValue : Fld := ⟨.partGuardValue, 31, 0⟩
/-- PART.PLATE_TIMES.FLIP -/
abbrev Fld.partPlateTimesFlip : Fld := ⟨.partPlateTimes, 63, 32⟩
/-- PART.PLATE_TIMES.LOAD -/
abbrev Fld.partPlateTimesLoad : Fld := ⟨.partPlateTimes, 31, 0⟩
/-- SERVE.SCHED.QUANTUM -/
abbrev Fld.serveSchedQuantum : Fld := ⟨.serveSched, 15, 0⟩
/-- SERVE.SCHED_STATE.READY -/
abbrev Fld.serveSchedStateReady : Fld := ⟨.serveSchedState, 63, 32⟩
/-- SERVE.SCHED_STATE.LAST -/
abbrev Fld.serveSchedStateLast : Fld := ⟨.serveSchedState, 4, 0⟩
/-- SERVE.SEQ_SEL.SEQ -/
abbrev Fld.serveSeqSelSeq : Fld := ⟨.serveSeqSel, 17, 0⟩
/-- SERVE.COMMIT.TOKEN -/
abbrev Fld.serveCommitToken : Fld := ⟨.serveCommit, 31, 16⟩
/-- SERVE.COMMIT.CANCEL -/
abbrev Fld.serveCommitCancel : Fld := ⟨.serveCommit, 1, 1⟩
/-- SERVE.COMMIT.GO -/
abbrev Fld.serveCommitGo : Fld := ⟨.serveCommit, 0, 0⟩
/-- SERVE.COMMIT_STATUS.CHECK -/
abbrev Fld.serveCommitStatusCheck : Fld := ⟨.serveCommitStatus, 47, 32⟩
/-- SERVE.COMMIT_STATUS.TOKEN -/
abbrev Fld.serveCommitStatusToken : Fld := ⟨.serveCommitStatus, 31, 16⟩
/-- SERVE.COMMIT_STATUS.RESULT -/
abbrev Fld.serveCommitStatusResult : Fld := ⟨.serveCommitStatus, 10, 8⟩
/-- SERVE.COMMIT_STATUS.LOST -/
abbrev Fld.serveCommitStatusLost : Fld := ⟨.serveCommitStatus, 1, 1⟩
/-- SERVE.COMMIT_STATUS.DONE -/
abbrev Fld.serveCommitStatusDone : Fld := ⟨.serveCommitStatus, 0, 0⟩
/-- SERVE.SHARE.WEIGHT -/
abbrev Fld.serveShareWeight : Fld := ⟨.serveShare, 15, 0⟩
/-- SERVE.SEQ_RANGE.COUNT -/
abbrev Fld.serveSeqRangeCount : Fld := ⟨.serveSeqRange, 50, 32⟩
/-- SERVE.SEQ_RANGE.BASE -/
abbrev Fld.serveSeqRangeBase : Fld := ⟨.serveSeqRange, 17, 0⟩
/-- SERVE.PRESULT.WORD -/
abbrev Fld.servePresultWord : Fld := ⟨.servePresult, 29, 16⟩
/-- SERVE.PRESULT.SITE -/
abbrev Fld.servePresultSite : Fld := ⟨.servePresult, 12, 0⟩
/-- SERVE.LEDGER_STATE.FIRING -/
abbrev Fld.serveLedgerStateFiring : Fld := ⟨.serveLedgerState, 63, 63⟩
/-- SERVE.LEDGER_STATE.ADMITTED -/
abbrev Fld.serveLedgerStateAdmitted : Fld := ⟨.serveLedgerState, 62, 62⟩
/-- SERVE.LEDGER_STATE.CURRENT -/
abbrev Fld.serveLedgerStateCurrent : Fld := ⟨.serveLedgerState, 43, 32⟩
/-- SERVE.LEDGER_STATE.LAP -/
abbrev Fld.serveLedgerStateLap : Fld := ⟨.serveLedgerState, 12, 12⟩
/-- SERVE.LEDGER_STATE.NEXT -/
abbrev Fld.serveLedgerStateNext : Fld := ⟨.serveLedgerState, 11, 0⟩
/-- SERVE.NSKEY_CTL.GO -/
abbrev Fld.serveNskeyCtlGo : Fld := ⟨.serveNskeyCtl, 63, 63⟩
/-- SERVE.NSKEY_CTL.NS -/
abbrev Fld.serveNskeyCtlNs : Fld := ⟨.serveNskeyCtl, 3, 0⟩
/-- SERVE.NSKEY_STATE.CLEARING -/
abbrev Fld.serveNskeyStateClearing : Fld := ⟨.serveNskeyState, 31, 16⟩
/-- SERVE.NSKEY_STATE.KEYED -/
abbrev Fld.serveNskeyStateKeyed : Fld := ⟨.serveNskeyState, 15, 0⟩
/-- SERVE.POOL.PAGES -/
abbrev Fld.servePoolPages : Fld := ⟨.servePool, 63, 32⟩
/-- SERVE.POOL.BASE -/
abbrev Fld.servePoolBase : Fld := ⟨.servePool, 27, 0⟩
/-- SERVE.KV_CTL.LN7 -/
abbrev Fld.serveKvCtlLn7 : Fld := ⟨.serveKvCtl, 63, 63⟩
/-- SERVE.KV_CTL.PAGE_FMT -/
abbrev Fld.serveKvCtlPageFmt : Fld := ⟨.serveKvCtl, 3, 0⟩
/-- SERVE.POOL_STATE.FREE -/
abbrev Fld.servePoolStateFree : Fld := ⟨.servePoolState, 63, 32⟩
/-- SERVE.POOL_STATE.DIRTY -/
abbrev Fld.servePoolStateDirty : Fld := ⟨.servePoolState, 31, 0⟩
/-- SERVE.POOL_USE.USABLE -/
abbrev Fld.servePoolUseUsable : Fld := ⟨.servePoolUse, 63, 32⟩
/-- SERVE.POOL_USE.DIR_ONLY -/
abbrev Fld.servePoolUseDirOnly : Fld := ⟨.servePoolUse, 31, 0⟩
/-- SERVE.EXPERT_TBL.MODULE -/
abbrev Fld.serveExpertTblModule : Fld := ⟨.serveExpertTbl, 63, 52⟩
/-- SERVE.EXPERT_TBL.ADDR -/
abbrev Fld.serveExpertTblAddr : Fld := ⟨.serveExpertTbl, 51, 12⟩
/-- SERVE.EXPERT_TBL.ENABLE -/
abbrev Fld.serveExpertTblEnable : Fld := ⟨.serveExpertTbl, 0, 0⟩
/-- SERVE.VWIN.ENABLE -/
abbrev Fld.serveVwinEnable : Fld := ⟨.serveVwin, 63, 63⟩
/-- SERVE.VWIN.BASE -/
abbrev Fld.serveVwinBase : Fld := ⟨.serveVwin, 11, 0⟩
/-- SERVE.VTABLE.ENABLE -/
abbrev Fld.serveVtableEnable : Fld := ⟨.serveVtable, 63, 63⟩
/-- SERVE.VTABLE.WORD -/
abbrev Fld.serveVtableWord : Fld := ⟨.serveVtable, 29, 16⟩
/-- SERVE.VTABLE.SITE -/
abbrev Fld.serveVtableSite : Fld := ⟨.serveVtable, 12, 0⟩
/-- SERVE.DISPATCH_STATE.BUSY -/
abbrev Fld.serveDispatchStateBusy : Fld := ⟨.serveDispatchState, 63, 63⟩
/-- SERVE.DISPATCH_STATE.DEFER_PASS -/
abbrev Fld.serveDispatchStateDeferPass : Fld := ⟨.serveDispatchState, 62, 62⟩
/-- SERVE.DISPATCH_STATE.RLAYER -/
abbrev Fld.serveDispatchStateRlayer : Fld := ⟨.serveDispatchState, 15, 8⟩
/-- SERVE.DISPATCH_STATE.LAYER -/
abbrev Fld.serveDispatchStateLayer : Fld := ⟨.serveDispatchState, 7, 0⟩
/-- HBM.HBM_ID.MAX_THRESHOLD -/
abbrev Fld.hbmIdMaxThreshold : Fld := ⟨.hbmId, 15, 0⟩
/-- HBM.HBM_ID.DIE -/
abbrev Fld.hbmIdDie : Fld := ⟨.hbmId, 18, 16⟩
/-- HBM.SCRUB_CTL.INTERVAL -/
abbrev Fld.hbmScrubCtlInterval : Fld := ⟨.hbmScrubCtl, 15, 0⟩
/-- HBM.RDIST_CTL.RADIUS -/
abbrev Fld.hbmRdistCtlRadius : Fld := ⟨.hbmRdistCtl, 17, 16⟩
/-- HBM.RDIST_CTL.THRESHOLD -/
abbrev Fld.hbmRdistCtlThreshold : Fld := ⟨.hbmRdistCtl, 15, 0⟩
/-- HBM.TC_CTL.BYPASS -/
abbrev Fld.hbmTcCtlBypass : Fld := ⟨.hbmTcCtl, 0, 0⟩
/-- HBM.TAG_SEL.PAGE -/
abbrev Fld.hbmTagSelPage : Fld := ⟨.hbmTagSel, 22, 0⟩
/-- HBM.TAG_DATA.TAG -/
abbrev Fld.hbmTagDataTag : Fld := ⟨.hbmTagData, 15, 0⟩
/-- HBM.TAG_FAULT_LOG.VALID -/
abbrev Fld.hbmTagFaultLogValid : Fld := ⟨.hbmTagFaultLog, 63, 63⟩
/-- HBM.TAG_FAULT_LOG.WRITE -/
abbrev Fld.hbmTagFaultLogWrite : Fld := ⟨.hbmTagFaultLog, 62, 62⟩
/-- HBM.TAG_FAULT_LOG.PART -/
abbrev Fld.hbmTagFaultLogPart : Fld := ⟨.hbmTagFaultLog, 61, 57⟩
/-- HBM.TAG_FAULT_LOG.KIND -/
abbrev Fld.hbmTagFaultLogKind : Fld := ⟨.hbmTagFaultLog, 56, 55⟩
/-- HBM.TAG_FAULT_LOG.SITE -/
abbrev Fld.hbmTagFaultLogSite : Fld := ⟨.hbmTagFaultLog, 54, 42⟩
/-- HBM.TAG_FAULT_LOG.ADDR -/
abbrev Fld.hbmTagFaultLogAddr : Fld := ⟨.hbmTagFaultLog, 41, 0⟩
/-- HBM.DIRTY_PAGES.PAGES -/
abbrev Fld.hbmDirtyPagesPages : Fld := ⟨.hbmDirtyPages, 23, 0⟩
/-- HBM.COMMIT.TOKEN -/
abbrev Fld.hbmCommitToken : Fld := ⟨.hbmCommit, 31, 16⟩
/-- HBM.COMMIT.CANCEL -/
abbrev Fld.hbmCommitCancel : Fld := ⟨.hbmCommit, 1, 1⟩
/-- HBM.COMMIT.GO -/
abbrev Fld.hbmCommitGo : Fld := ⟨.hbmCommit, 0, 0⟩
/-- HBM.COMMIT_STATUS.CHECK -/
abbrev Fld.hbmCommitStatusCheck : Fld := ⟨.hbmCommitStatus, 47, 32⟩
/-- HBM.COMMIT_STATUS.TOKEN -/
abbrev Fld.hbmCommitStatusToken : Fld := ⟨.hbmCommitStatus, 31, 16⟩
/-- HBM.COMMIT_STATUS.RESULT -/
abbrev Fld.hbmCommitStatusResult : Fld := ⟨.hbmCommitStatus, 10, 8⟩
/-- HBM.COMMIT_STATUS.LOST -/
abbrev Fld.hbmCommitStatusLost : Fld := ⟨.hbmCommitStatus, 1, 1⟩
/-- HBM.COMMIT_STATUS.DONE -/
abbrev Fld.hbmCommitStatusDone : Fld := ⟨.hbmCommitStatus, 0, 0⟩
/-- HBM.STACK_STATUS.TRAINED -/
abbrev Fld.hbmStackStatusTrained : Fld := ⟨.hbmStackStatus, 63, 63⟩
/-- HBM.STACK_STATUS.SLOW -/
abbrev Fld.hbmStackStatusSlow : Fld := ⟨.hbmStackStatus, 62, 62⟩
/-- HBM.STACK_STATUS.HOT -/
abbrev Fld.hbmStackStatusHot : Fld := ⟨.hbmStackStatus, 61, 61⟩
/-- HBM.STACK_STATUS.SPARES_OUT -/
abbrev Fld.hbmStackStatusSparesOut : Fld := ⟨.hbmStackStatus, 60, 60⟩
/-- HBM.STACK_STATUS.TEMP -/
abbrev Fld.hbmStackStatusTemp : Fld := ⟨.hbmStackStatus, 7, 0⟩
/-- HBM.UE_LOG.VALID -/
abbrev Fld.hbmUeLogValid : Fld := ⟨.hbmUeLog, 63, 63⟩
/-- HBM.UE_LOG.SOURCE -/
abbrev Fld.hbmUeLogSource : Fld := ⟨.hbmUeLog, 62, 60⟩
/-- HBM.UE_LOG.PART -/
abbrev Fld.hbmUeLogPart : Fld := ⟨.hbmUeLog, 59, 55⟩
/-- HBM.UE_LOG.SYMBOLS -/
abbrev Fld.hbmUeLogSymbols : Fld := ⟨.hbmUeLog, 7, 0⟩
/-- HBM.UE_ADDR.ADDR -/
abbrev Fld.hbmUeAddrAddr : Fld := ⟨.hbmUeAddr, 41, 0⟩
/-- HBM.DIRTY_TILES.TILES -/
abbrev Fld.hbmDirtyTilesTiles : Fld := ⟨.hbmDirtyTiles, 25, 0⟩
/-- FLASH.LIB_STATE.READY -/
abbrev Fld.flashLibStateReady : Fld := ⟨.flashLibState, 63, 63⟩
/-- FLASH.LIB_STATE.RESIDENT -/
abbrev Fld.flashLibStateResident : Fld := ⟨.flashLibState, 26, 16⟩
/-- FLASH.LIB_STATE.INSTALLED -/
abbrev Fld.flashLibStateInstalled : Fld := ⟨.flashLibState, 10, 0⟩
/-- FLASH.LIB_FREE.FREE -/
abbrev Fld.flashLibFreeFree : Fld := ⟨.flashLibFree, 40, 0⟩
/-- FLASH.FLASH_POLICY.REBUILD_SHARE -/
abbrev Fld.flashPolicyRebuildShare : Fld := ⟨.flashPolicy, 23, 16⟩
/-- FLASH.FLASH_POLICY.SCRUB_DAYS -/
abbrev Fld.flashPolicyScrubDays : Fld := ⟨.flashPolicy, 15, 10⟩
/-- FLASH.FLASH_POLICY.READ_LIMIT -/
abbrev Fld.flashPolicyReadLimit : Fld := ⟨.flashPolicy, 9, 0⟩
/-- FLASH.CMD.TOKEN -/
abbrev Fld.flashCmdToken : Fld := ⟨.flashCmd, 63, 48⟩
/-- FLASH.CMD.OP -/
abbrev Fld.flashCmdOp : Fld := ⟨.flashCmd, 3, 0⟩
/-- FLASH.CMD_QUEUE.OVERFLOW -/
abbrev Fld.flashCmdQueueOverflow : Fld := ⟨.flashCmdQueue, 63, 63⟩
/-- FLASH.CMD_QUEUE.RESULTS -/
abbrev Fld.flashCmdQueueResults : Fld := ⟨.flashCmdQueue, 11, 8⟩
/-- FLASH.CMD_QUEUE.FULL -/
abbrev Fld.flashCmdQueueFull : Fld := ⟨.flashCmdQueue, 7, 7⟩
/-- FLASH.CMD_QUEUE.RUNNING -/
abbrev Fld.flashCmdQueueRunning : Fld := ⟨.flashCmdQueue, 6, 5⟩
/-- FLASH.CMD_QUEUE.QUEUED -/
abbrev Fld.flashCmdQueueQueued : Fld := ⟨.flashCmdQueue, 3, 0⟩
/-- FLASH.CMD_RESULT.TOKEN -/
abbrev Fld.flashCmdResultToken : Fld := ⟨.flashCmdResult, 63, 48⟩
/-- FLASH.CMD_RESULT.RESULT -/
abbrev Fld.flashCmdResultResult : Fld := ⟨.flashCmdResult, 47, 40⟩
/-- FLASH.CMD_RESULT.OP -/
abbrev Fld.flashCmdResultOp : Fld := ⟨.flashCmdResult, 39, 36⟩
/-- FLASH.CMD_RESULT.VALID -/
abbrev Fld.flashCmdResultValid : Fld := ⟨.flashCmdResult, 35, 35⟩
/-- FLASH.CMD_RESULT.DETAIL -/
abbrev Fld.flashCmdResultDetail : Fld := ⟨.flashCmdResult, 31, 0⟩
/-- FLASH.EDSEL.SLOT -/
abbrev Fld.flashEdselSlot : Fld := ⟨.flashEdsel, 9, 0⟩
/-- FLASH.EDINFO0.REVISION -/
abbrev Fld.flashEdinfo0Revision : Fld := ⟨.flashEdinfo0, 63, 32⟩
/-- FLASH.EDINFO0.EDITION -/
abbrev Fld.flashEdinfo0Edition : Fld := ⟨.flashEdinfo0, 31, 0⟩
/-- FLASH.EDINFO1.STATE -/
abbrev Fld.flashEdinfo1State : Fld := ⟨.flashEdinfo1, 63, 61⟩
/-- FLASH.EDINFO1.DEGRADED -/
abbrev Fld.flashEdinfo1Degraded : Fld := ⟨.flashEdinfo1, 60, 60⟩
/-- FLASH.EDINFO1.SETS -/
abbrev Fld.flashEdinfo1Sets : Fld := ⟨.flashEdinfo1, 53, 40⟩
/-- FLASH.EDINFO1.PAGES -/
abbrev Fld.flashEdinfo1Pages : Fld := ⟨.flashEdinfo1, 26, 0⟩
/-- FLASH.COMMIT.TOKEN -/
abbrev Fld.flashCommitToken : Fld := ⟨.flashCommit, 31, 16⟩
/-- FLASH.COMMIT.CANCEL -/
abbrev Fld.flashCommitCancel : Fld := ⟨.flashCommit, 1, 1⟩
/-- FLASH.COMMIT.GO -/
abbrev Fld.flashCommitGo : Fld := ⟨.flashCommit, 0, 0⟩
/-- FLASH.COMMIT_STATUS.CHECK -/
abbrev Fld.flashCommitStatusCheck : Fld := ⟨.flashCommitStatus, 47, 32⟩
/-- FLASH.COMMIT_STATUS.TOKEN -/
abbrev Fld.flashCommitStatusToken : Fld := ⟨.flashCommitStatus, 31, 16⟩
/-- FLASH.COMMIT_STATUS.RESULT -/
abbrev Fld.flashCommitStatusResult : Fld := ⟨.flashCommitStatus, 10, 8⟩
/-- FLASH.COMMIT_STATUS.LOST -/
abbrev Fld.flashCommitStatusLost : Fld := ⟨.flashCommitStatus, 1, 1⟩
/-- FLASH.COMMIT_STATUS.DONE -/
abbrev Fld.flashCommitStatusDone : Fld := ⟨.flashCommitStatus, 0, 0⟩
/-- FLASH.CH_STATUS.OUT -/
abbrev Fld.flashChStatusOut : Fld := ⟨.flashChStatus, 63, 63⟩
/-- FLASH.CH_STATUS.DISABLED -/
abbrev Fld.flashChStatusDisabled : Fld := ⟨.flashChStatus, 62, 62⟩
/-- FLASH.CH_STATUS.REBUILDING -/
abbrev Fld.flashChStatusRebuilding : Fld := ⟨.flashChStatus, 61, 61⟩
/-- FLASH.CH_STATUS.DIES_OK -/
abbrev Fld.flashChStatusDiesOk : Fld := ⟨.flashChStatus, 7, 0⟩
/-- HOST.LINK_STATUS.UP -/
abbrev Fld.hostLinkStatusUp : Fld := ⟨.hostLinkStatus, 63, 63⟩
/-- HOST.LINK_STATUS.IDE_IO -/
abbrev Fld.hostLinkStatusIdeIo : Fld := ⟨.hostLinkStatus, 62, 62⟩
/-- HOST.LINK_STATUS.IDE_CM -/
abbrev Fld.hostLinkStatusIdeCm : Fld := ⟨.hostLinkStatus, 61, 61⟩
/-- HOST.LINK_STATUS.LOPT -/
abbrev Fld.hostLinkStatusLopt : Fld := ⟨.hostLinkStatus, 60, 60⟩
/-- HOST.LINK_STATUS.WIDTH -/
abbrev Fld.hostLinkStatusWidth : Fld := ⟨.hostLinkStatus, 12, 8⟩
/-- HOST.LINK_STATUS.SPEED -/
abbrev Fld.hostLinkStatusSpeed : Fld := ⟨.hostLinkStatus, 3, 0⟩
/-- HOST.LINK_ERR.RESET_SEEN -/
abbrev Fld.hostLinkErrResetSeen : Fld := ⟨.hostLinkErr, 4, 4⟩
/-- HOST.LINK_ERR.IDE_FAIL -/
abbrev Fld.hostLinkErrIdeFail : Fld := ⟨.hostLinkErr, 3, 3⟩
/-- HOST.LINK_ERR.READ_FAIL -/
abbrev Fld.hostLinkErrReadFail : Fld := ⟨.hostLinkErr, 2, 2⟩
/-- HOST.LINK_ERR.DOWN -/
abbrev Fld.hostLinkErrDown : Fld := ⟨.hostLinkErr, 1, 1⟩
/-- HOST.LINK_ERR.NARROW -/
abbrev Fld.hostLinkErrNarrow : Fld := ⟨.hostLinkErr, 0, 0⟩
/-- HOST.SF_USE.ENTRIES -/
abbrev Fld.hostSfUseEntries : Fld := ⟨.hostSfUse, 18, 0⟩
/-- HOST.COMMIT.TOKEN -/
abbrev Fld.hostCommitToken : Fld := ⟨.hostCommit, 31, 16⟩
/-- HOST.COMMIT.CANCEL -/
abbrev Fld.hostCommitCancel : Fld := ⟨.hostCommit, 1, 1⟩
/-- HOST.COMMIT.GO -/
abbrev Fld.hostCommitGo : Fld := ⟨.hostCommit, 0, 0⟩
/-- HOST.COMMIT_STATUS.CHECK -/
abbrev Fld.hostCommitStatusCheck : Fld := ⟨.hostCommitStatus, 47, 32⟩
/-- HOST.COMMIT_STATUS.TOKEN -/
abbrev Fld.hostCommitStatusToken : Fld := ⟨.hostCommitStatus, 31, 16⟩
/-- HOST.COMMIT_STATUS.RESULT -/
abbrev Fld.hostCommitStatusResult : Fld := ⟨.hostCommitStatus, 10, 8⟩
/-- HOST.COMMIT_STATUS.LOST -/
abbrev Fld.hostCommitStatusLost : Fld := ⟨.hostCommitStatus, 1, 1⟩
/-- HOST.COMMIT_STATUS.DONE -/
abbrev Fld.hostCommitStatusDone : Fld := ⟨.hostCommitStatus, 0, 0⟩
/-- HOST.LEDGER_CTL.ENABLE -/
abbrev Fld.hostLedgerCtlEnable : Fld := ⟨.hostLedgerCtl, 63, 63⟩
/-- HOST.LEDGER_CTL.IRQ_EN -/
abbrev Fld.hostLedgerCtlIrqEn : Fld := ⟨.hostLedgerCtl, 62, 62⟩
/-- HOST.LEDGER_BASE.ADDR -/
abbrev Fld.hostLedgerBaseAddr : Fld := ⟨.hostLedgerBase, 51, 0⟩
/-- HOST.RING_BASE.ADDR -/
abbrev Fld.hostRingBaseAddr : Fld := ⟨.hostRingBase, 51, 0⟩
/-- HOST.TAIL_ADDR.ADDR -/
abbrev Fld.hostTailAddrAddr : Fld := ⟨.hostTailAddr, 51, 0⟩
/-- HOST.SWAP_BASE.ADDR -/
abbrev Fld.hostSwapBaseAddr : Fld := ⟨.hostSwapBase, 51, 0⟩
/-- HOST.SWAP_SLOTS.S -/
abbrev Fld.hostSwapSlotsS : Fld := ⟨.hostSwapSlots, 26, 0⟩
/-- HOST.BACK_BASE.ADDR -/
abbrev Fld.hostBackBaseAddr : Fld := ⟨.hostBackBase, 51, 0⟩
/-- HOST.SWAP_STATE.SLOTS_USED -/
abbrev Fld.hostSwapStateSlotsUsed : Fld := ⟨.hostSwapState, 58, 32⟩
/-- HOST.SWAP_STATE.FRAMES -/
abbrev Fld.hostSwapStateFrames : Fld := ⟨.hostSwapState, 26, 0⟩
/-- HOST.SEG_n.VALID -/
abbrev Fld.hostSegValid : Fld := ⟨.hostSeg, 63, 63⟩
/-- HOST.SEG_n.PIN -/
abbrev Fld.hostSegPin : Fld := ⟨.hostSeg, 62, 62⟩
/-- HOST.SEG_n.DIE -/
abbrev Fld.hostSegDie : Fld := ⟨.hostSeg, 61, 59⟩
/-- HOST.SEG_n.PAGES -/
abbrev Fld.hostSegPages : Fld := ⟨.hostSeg, 58, 32⟩
/-- HOST.SEG_n.BASE -/
abbrev Fld.hostSegBase : Fld := ⟨.hostSeg, 27, 0⟩
/-- HOST.SEG_HBM_n.HBM -/
abbrev Fld.hostSegHbmHbm : Fld := ⟨.hostSegHbm, 26, 0⟩
/-- HOST.MOVABLE_OUT.TILES -/
abbrev Fld.hostMovableOutTiles : Fld := ⟨.hostMovableOut, 26, 0⟩
/-- OPTIC.ENG_ID.ENGINE -/
abbrev Fld.opticEngIdEngine : Fld := ⟨.opticEngId, 3, 0⟩
/-- OPTIC.ENG_ID.DIE -/
abbrev Fld.opticEngIdDie : Fld := ⟨.opticEngId, 6, 4⟩
/-- OPTIC.ENG_STATUS.LASER_B_LOST -/
abbrev Fld.opticEngStatusLaserBLost : Fld := ⟨.opticEngStatus, 3, 3⟩
/-- OPTIC.ENG_STATUS.LASER_A_LOST -/
abbrev Fld.opticEngStatusLaserALost : Fld := ⟨.opticEngStatus, 2, 2⟩
/-- OPTIC.ENG_STATUS.LASER_B_OK -/
abbrev Fld.opticEngStatusLaserBOk : Fld := ⟨.opticEngStatus, 1, 1⟩
/-- OPTIC.ENG_STATUS.LASER_A_OK -/
abbrev Fld.opticEngStatusLaserAOk : Fld := ⟨.opticEngStatus, 0, 0⟩
/-- OPTIC.COMMIT.TOKEN -/
abbrev Fld.opticCommitToken : Fld := ⟨.opticCommit, 31, 16⟩
/-- OPTIC.COMMIT.CANCEL -/
abbrev Fld.opticCommitCancel : Fld := ⟨.opticCommit, 1, 1⟩
/-- OPTIC.COMMIT.GO -/
abbrev Fld.opticCommitGo : Fld := ⟨.opticCommit, 0, 0⟩
/-- OPTIC.COMMIT_STATUS.CHECK -/
abbrev Fld.opticCommitStatusCheck : Fld := ⟨.opticCommitStatus, 47, 32⟩
/-- OPTIC.COMMIT_STATUS.TOKEN -/
abbrev Fld.opticCommitStatusToken : Fld := ⟨.opticCommitStatus, 31, 16⟩
/-- OPTIC.COMMIT_STATUS.RESULT -/
abbrev Fld.opticCommitStatusResult : Fld := ⟨.opticCommitStatus, 10, 8⟩
/-- OPTIC.COMMIT_STATUS.LOST -/
abbrev Fld.opticCommitStatusLost : Fld := ⟨.opticCommitStatus, 1, 1⟩
/-- OPTIC.COMMIT_STATUS.DONE -/
abbrev Fld.opticCommitStatusDone : Fld := ⟨.opticCommitStatus, 0, 0⟩
/-- OPTIC.PORT_CTL.ENABLE -/
abbrev Fld.opticPortCtlEnable : Fld := ⟨.opticPortCtl, 63, 63⟩
/-- OPTIC.PORT_CTL.TEST -/
abbrev Fld.opticPortCtlTest : Fld := ⟨.opticPortCtl, 62, 61⟩
/-- OPTIC.PORT_CTL.AUDIT_EN -/
abbrev Fld.opticPortCtlAuditEn : Fld := ⟨.opticPortCtl, 60, 60⟩
/-- OPTIC.PORT_CTL.AUDIT_PERIOD -/
abbrev Fld.opticPortCtlAuditPeriod : Fld := ⟨.opticPortCtl, 55, 48⟩
/-- OPTIC.PORT_CTL.AUDIT_DWELL -/
abbrev Fld.opticPortCtlAuditDwell : Fld := ⟨.opticPortCtl, 47, 40⟩
/-- OPTIC.PORT_STATE.STATE -/
abbrev Fld.opticPortStateState : Fld := ⟨.opticPortState, 63, 61⟩
/-- OPTIC.PORT_STATE.SPARE_USED -/
abbrev Fld.opticPortStateSpareUsed : Fld := ⟨.opticPortState, 60, 60⟩
/-- OPTIC.PORT_STATE.AUDIT_FAIL -/
abbrev Fld.opticPortStateAuditFail : Fld := ⟨.opticPortState, 59, 59⟩
/-- OPTIC.PORT_STATE.WENT_DOWN -/
abbrev Fld.opticPortStateWentDown : Fld := ⟨.opticPortState, 58, 58⟩
/-- OPTIC.PORT_STATE.LANES -/
abbrev Fld.opticPortStateLanes : Fld := ⟨.opticPortState, 51, 48⟩
/-- OPTIC.LANE_MAP.FAILED -/
abbrev Fld.opticLaneMapFailed : Fld := ⟨.opticLaneMap, 44, 36⟩
/-- OPTIC.LANE_MAP.SPARE -/
abbrev Fld.opticLaneMapSpare : Fld := ⟨.opticLaneMap, 35, 32⟩
/-- OPTIC.PEER_PORT.VALID -/
abbrev Fld.opticPeerPortValid : Fld := ⟨.opticPeerPort, 63, 63⟩
/-- OPTIC.PEER_PORT.TX_DELAY -/
abbrev Fld.opticPeerPortTxDelay : Fld := ⟨.opticPeerPort, 47, 32⟩
/-- OPTIC.PEER_PORT.RX_DELAY -/
abbrev Fld.opticPeerPortRxDelay : Fld := ⟨.opticPeerPort, 31, 16⟩
/-- OPTIC.PEER_PORT.PORT -/
abbrev Fld.opticPeerPortPort : Fld := ⟨.opticPeerPort, 6, 0⟩
/-- OPTIC.PORT_DELAY.TX -/
abbrev Fld.opticPortDelayTx : Fld := ⟨.opticPortDelay, 31, 16⟩
/-- OPTIC.PORT_DELAY.RX -/
abbrev Fld.opticPortDelayRx : Fld := ⟨.opticPortDelay, 15, 0⟩
/-- PART.PART_CELLS.FORMED -/
abbrev Fld.partCellsFormed : Fld := ⟨.partCells, 63, 63⟩
/-- PART.PART_CELLS.CH -/
abbrev Fld.partCellsCh : Fld := ⟨.partCells, 23, 21⟩
/-- PART.PART_CELLS.CW -/
abbrev Fld.partCellsCw : Fld := ⟨.partCells, 20, 16⟩
/-- PART.PART_CELLS.CY -/
abbrev Fld.partCellsCy : Fld := ⟨.partCells, 10, 8⟩
/-- PART.PART_CELLS.CX -/
abbrev Fld.partCellsCx : Fld := ⟨.partCells, 3, 0⟩
/-- PART.PART_ID.PTAG -/
abbrev Fld.partIdPtag : Fld := ⟨.partId, 63, 48⟩
/-- PART.PART_ID.LEAD -/
abbrev Fld.partIdLead : Fld := ⟨.partId, 35, 24⟩
/-- PART.PART_ID.COORD -/
abbrev Fld.partIdCoord : Fld := ⟨.partId, 11, 0⟩
/-- PART.EPOCH.EPOCH -/
abbrev Fld.partEpochEpoch : Fld := ⟨.partEpoch, 31, 0⟩
/-- PART.EPOCH_SET.EPOCH -/
abbrev Fld.partEpochSetEpoch : Fld := ⟨.partEpochSet, 63, 32⟩
/-- PART.EPOCH_SET.LEAD -/
abbrev Fld.partEpochSetLead : Fld := ⟨.partEpochSet, 11, 0⟩
/-- PART.PART_STATUS.ACTIVE -/
abbrev Fld.partStatusActive : Fld := ⟨.partStatus, 63, 63⟩
/-- PART.PART_STATUS.IS_LEAD -/
abbrev Fld.partStatusIsLead : Fld := ⟨.partStatus, 62, 62⟩
/-- PART.PART_STATUS.EPOCH_REFUSED -/
abbrev Fld.partStatusEpochRefused : Fld := ⟨.partStatus, 61, 61⟩
/-- PART.PART_STATUS.PARENT_SKIP -/
abbrev Fld.partStatusParentSkip : Fld := ⟨.partStatus, 60, 60⟩
/-- PART.PART_STATUS.DEPTH -/
abbrev Fld.partStatusDepth : Fld := ⟨.partStatus, 51, 48⟩
/-- PART.PART_STATUS.PARENT -/
abbrev Fld.partStatusParent : Fld := ⟨.partStatus, 11, 0⟩
/-- PART.FAULT_QUEUE.LOST -/
abbrev Fld.partFaultQueueLost : Fld := ⟨.partFaultQueue, 63, 63⟩
/-- PART.FAULT_QUEUE.RECORDS -/
abbrev Fld.partFaultQueueRecords : Fld := ⟨.partFaultQueue, 4, 0⟩
/-- PART.COMMIT.TOKEN -/
abbrev Fld.partCommitToken : Fld := ⟨.partCommit, 31, 16⟩
/-- PART.COMMIT.CANCEL -/
abbrev Fld.partCommitCancel : Fld := ⟨.partCommit, 1, 1⟩
/-- PART.COMMIT.GO -/
abbrev Fld.partCommitGo : Fld := ⟨.partCommit, 0, 0⟩
/-- PART.COMMIT_STATUS.CHECK -/
abbrev Fld.partCommitStatusCheck : Fld := ⟨.partCommitStatus, 47, 32⟩
/-- PART.COMMIT_STATUS.TOKEN -/
abbrev Fld.partCommitStatusToken : Fld := ⟨.partCommitStatus, 31, 16⟩
/-- PART.COMMIT_STATUS.RESULT -/
abbrev Fld.partCommitStatusResult : Fld := ⟨.partCommitStatus, 10, 8⟩
/-- PART.COMMIT_STATUS.LOST -/
abbrev Fld.partCommitStatusLost : Fld := ⟨.partCommitStatus, 1, 1⟩
/-- PART.COMMIT_STATUS.DONE -/
abbrev Fld.partCommitStatusDone : Fld := ⟨.partCommitStatus, 0, 0⟩
/-- POWER.PWR_STATUS.STATE -/
abbrev Fld.powerPwrStatusState : Fld := ⟨.powerPwrStatus, 63, 61⟩
/-- POWER.PWR_STATUS.BRAKE_CAUSES -/
abbrev Fld.powerPwrStatusBrakeCauses : Fld := ⟨.powerPwrStatus, 60, 56⟩
/-- POWER.PWR_STATUS.PARK_CAUSES -/
abbrev Fld.powerPwrStatusParkCauses : Fld := ⟨.powerPwrStatus, 55, 54⟩
/-- POWER.PWR_STATUS.HB_LOST -/
abbrev Fld.powerPwrStatusHbLost : Fld := ⟨.powerPwrStatus, 53, 53⟩
/-- POWER.PWR_STATUS.CLIMBING -/
abbrev Fld.powerPwrStatusClimbing : Fld := ⟨.powerPwrStatus, 52, 52⟩
/-- POWER.PWR_STATUS.LIMIT_NOW -/
abbrev Fld.powerPwrStatusLimitNow : Fld := ⟨.powerPwrStatus, 41, 32⟩
/-- POWER.CAP.RAMP -/
abbrev Fld.powerCapRamp : Fld := ⟨.powerCap, 47, 32⟩
/-- POWER.CAP.LIMIT -/
abbrev Fld.powerCapLimit : Fld := ⟨.powerCap, 9, 0⟩
/-- POWER.BRAKE_CFG.PARK_DARK -/
abbrev Fld.powerBrakeCfgParkDark : Fld := ⟨.powerBrakeCfg, 63, 63⟩
/-- POWER.BRAKE_CFG.SAFE_CAP -/
abbrev Fld.powerBrakeCfgSafeCap : Fld := ⟨.powerBrakeCfg, 41, 32⟩
/-- POWER.BRAKE_CFG.PARK_BELOW -/
abbrev Fld.powerBrakeCfgParkBelow : Fld := ⟨.powerBrakeCfg, 25, 16⟩
/-- POWER.BRAKE_CFG.BRAKE_LEVEL -/
abbrev Fld.powerBrakeCfgBrakeLevel : Fld := ⟨.powerBrakeCfg, 9, 0⟩
/-- POWER.FABRIC_VMAX.CODE -/
abbrev Fld.powerFabricVmaxCode : Fld := ⟨.powerFabricVmax, 7, 0⟩
/-- POWER.SUPPLY.V_IN -/
abbrev Fld.powerSupplyVIn : Fld := ⟨.powerSupply, 63, 48⟩
/-- POWER.SUPPLY.I_IN -/
abbrev Fld.powerSupplyIIn : Fld := ⟨.powerSupply, 47, 32⟩
/-- POWER.SUPPLY.P_IN -/
abbrev Fld.powerSupplyPIn : Fld := ⟨.powerSupply, 15, 0⟩
/-- POWER.TEMP1.HUB -/
abbrev Fld.powerTemp1Hub : Fld := ⟨.powerTemp1, 7, 0⟩
/-- POWER.TEMP1.HBM -/
abbrev Fld.powerTemp1Hbm : Fld := ⟨.powerTemp1, 15, 8⟩
/-- POWER.EVENTS.OVER_LIMIT -/
abbrev Fld.powerEventsOverLimit : Fld := ⟨.powerEvents, 8, 8⟩
/-- POWER.EVENTS.HB_LOST -/
abbrev Fld.powerEventsHbLost : Fld := ⟨.powerEvents, 7, 7⟩
/-- POWER.EVENTS.PARK -/
abbrev Fld.powerEventsPark : Fld := ⟨.powerEvents, 6, 6⟩
/-- POWER.EVENTS.THROTTLE -/
abbrev Fld.powerEventsThrottle : Fld := ⟨.powerEvents, 5, 5⟩
/-- POWER.EVENTS.HOT -/
abbrev Fld.powerEventsHot : Fld := ⟨.powerEvents, 4, 4⟩
/-- POWER.EVENTS.FLOW -/
abbrev Fld.powerEventsFlow : Fld := ⟨.powerEvents, 3, 3⟩
/-- POWER.EVENTS.CAPDROP -/
abbrev Fld.powerEventsCapdrop : Fld := ⟨.powerEvents, 2, 2⟩
/-- POWER.EVENTS.UNDERVOLT -/
abbrev Fld.powerEventsUndervolt : Fld := ⟨.powerEvents, 1, 1⟩
/-- POWER.EVENTS.PIN -/
abbrev Fld.powerEventsPin : Fld := ⟨.powerEvents, 0, 0⟩
/-- POWER.HEARTBEAT.MS -/
abbrev Fld.powerHeartbeatMs : Fld := ⟨.powerHeartbeat, 31, 0⟩
/-- POWER.COMMIT.TOKEN -/
abbrev Fld.powerCommitToken : Fld := ⟨.powerCommit, 31, 16⟩
/-- POWER.COMMIT.CANCEL -/
abbrev Fld.powerCommitCancel : Fld := ⟨.powerCommit, 1, 1⟩
/-- POWER.COMMIT.GO -/
abbrev Fld.powerCommitGo : Fld := ⟨.powerCommit, 0, 0⟩
/-- POWER.COMMIT_STATUS.CHECK -/
abbrev Fld.powerCommitStatusCheck : Fld := ⟨.powerCommitStatus, 47, 32⟩
/-- POWER.COMMIT_STATUS.TOKEN -/
abbrev Fld.powerCommitStatusToken : Fld := ⟨.powerCommitStatus, 31, 16⟩
/-- POWER.COMMIT_STATUS.RESULT -/
abbrev Fld.powerCommitStatusResult : Fld := ⟨.powerCommitStatus, 10, 8⟩
/-- POWER.COMMIT_STATUS.LOST -/
abbrev Fld.powerCommitStatusLost : Fld := ⟨.powerCommitStatus, 1, 1⟩
/-- POWER.COMMIT_STATUS.DONE -/
abbrev Fld.powerCommitStatusDone : Fld := ⟨.powerCommitStatus, 0, 0⟩
/-- SEAL.SVN_STATE.COUNT -/
abbrev Fld.sealSvnStateCount : Fld := ⟨.sealSvnState, 40, 32⟩
/-- SEAL.SVN_STATE.SVN2 -/
abbrev Fld.sealSvnStateSvn2 : Fld := ⟨.sealSvnState, 23, 16⟩
/-- SEAL.SVN_STATE.SVN1 -/
abbrev Fld.sealSvnStateSvn1 : Fld := ⟨.sealSvnState, 7, 0⟩
/-- SEAL.SEAL_STATUS.OWNED -/
abbrev Fld.sealStatusOwned : Fld := ⟨.sealStatus, 63, 63⟩
/-- SEAL.SEAL_STATUS.TRNG_FAIL -/
abbrev Fld.sealStatusTrngFail : Fld := ⟨.sealStatus, 62, 62⟩
/-- SEAL.SEAL_STATUS.PRIMARY_REVOKED -/
abbrev Fld.sealStatusPrimaryRevoked : Fld := ⟨.sealStatus, 61, 61⟩
/-- SEAL.SEAL_STATUS.SLOTS -/
abbrev Fld.sealStatusSlots : Fld := ⟨.sealStatus, 15, 0⟩
/-- SEAL.CMD_ADDR.ADDR -/
abbrev Fld.sealCmdAddrAddr : Fld := ⟨.sealCmdAddr, 51, 0⟩
/-- SEAL.CMD_STATUS.TOKEN -/
abbrev Fld.sealCmdStatusToken : Fld := ⟨.sealCmdStatus, 63, 48⟩
/-- SEAL.CMD_STATUS.RESULT -/
abbrev Fld.sealCmdStatusResult : Fld := ⟨.sealCmdStatus, 11, 8⟩
/-- SEAL.CMD_STATUS.LOST -/
abbrev Fld.sealCmdStatusLost : Fld := ⟨.sealCmdStatus, 2, 2⟩
/-- SEAL.CMD_STATUS.BUSY -/
abbrev Fld.sealCmdStatusBusy : Fld := ⟨.sealCmdStatus, 1, 1⟩
/-- SEAL.CMD_STATUS.DONE -/
abbrev Fld.sealCmdStatusDone : Fld := ⟨.sealCmdStatus, 0, 0⟩
/-- SEAL.POLICY.SPDM_MCTP -/
abbrev Fld.sealPolicySpdmMctp : Fld := ⟨.sealPolicy, 1, 1⟩
/-- SEAL.POLICY.DEBUG_EN -/
abbrev Fld.sealPolicyDebugEn : Fld := ⟨.sealPolicy, 0, 0⟩
/-- SEAL.PUB_SEL.SLOT -/
abbrev Fld.sealPubSelSlot : Fld := ⟨.sealPubSel, 3, 0⟩
/-- SEAL.COMMIT.TOKEN -/
abbrev Fld.sealCommitToken : Fld := ⟨.sealCommit, 31, 16⟩
/-- SEAL.COMMIT.CANCEL -/
abbrev Fld.sealCommitCancel : Fld := ⟨.sealCommit, 1, 1⟩
/-- SEAL.COMMIT.GO -/
abbrev Fld.sealCommitGo : Fld := ⟨.sealCommit, 0, 0⟩
/-- SEAL.COMMIT_STATUS.CHECK -/
abbrev Fld.sealCommitStatusCheck : Fld := ⟨.sealCommitStatus, 47, 32⟩
/-- SEAL.COMMIT_STATUS.TOKEN -/
abbrev Fld.sealCommitStatusToken : Fld := ⟨.sealCommitStatus, 31, 16⟩
/-- SEAL.COMMIT_STATUS.RESULT -/
abbrev Fld.sealCommitStatusResult : Fld := ⟨.sealCommitStatus, 10, 8⟩
/-- SEAL.COMMIT_STATUS.LOST -/
abbrev Fld.sealCommitStatusLost : Fld := ⟨.sealCommitStatus, 1, 1⟩
/-- SEAL.COMMIT_STATUS.DONE -/
abbrev Fld.sealCommitStatusDone : Fld := ⟨.sealCommitStatus, 0, 0⟩
/-- PART.KILL_STATE.PHASE -/
abbrev Fld.partKillStatePhase : Fld := ⟨.partKillState, 63, 62⟩
/-- PART.KILL_STATE.DIRTY -/
abbrev Fld.partKillStateDirty : Fld := ⟨.partKillState, 26, 0⟩
/-- PART.DBG_STATE.CRED_SET -/
abbrev Fld.partDbgStateCredSet : Fld := ⟨.partDbgState, 63, 63⟩
/-- PART.DBG_STATE.UNLOCKED -/
abbrev Fld.partDbgStateUnlocked : Fld := ⟨.partDbgState, 62, 62⟩
/-- PART.DBG_STATE.LOCKED_OUT -/
abbrev Fld.partDbgStateLockedOut : Fld := ⟨.partDbgState, 61, 61⟩
/-- PART.DBG_STATE.REFUSED -/
abbrev Fld.partDbgStateRefused : Fld := ⟨.partDbgState, 60, 60⟩
/-- PART.DBG_STATE.OUTSIDE -/
abbrev Fld.partDbgStateOutside : Fld := ⟨.partDbgState, 59, 59⟩
/-- PART.DBG_STATE.FAILS -/
abbrev Fld.partDbgStateFails : Fld := ⟨.partDbgState, 3, 0⟩
/-- PART.DBG_ADDR.SPACE -/
abbrev Fld.partDbgAddrSpace : Fld := ⟨.partDbgAddr, 63, 62⟩
/-- PART.DBG_ADDR.SITE -/
abbrev Fld.partDbgAddrSite : Fld := ⟨.partDbgAddr, 44, 32⟩
/-- PART.DBG_ADDR.INDEX -/
abbrev Fld.partDbgAddrIndex : Fld := ⟨.partDbgAddr, 13, 0⟩
/-- BBOX.BB_STATE.READY -/
abbrev Fld.bboxBbStateReady : Fld := ⟨.bboxBbState, 63, 63⟩
/-- BBOX.BB_STATE.FF_FULL -/
abbrev Fld.bboxBbStateFfFull : Fld := ⟨.bboxBbState, 62, 62⟩
/-- BBOX.BB_STATE.CLEARING -/
abbrev Fld.bboxBbStateClearing : Fld := ⟨.bboxBbState, 61, 61⟩
/-- BBOX.BB_STATE.FF_COUNT -/
abbrev Fld.bboxBbStateFfCount : Fld := ⟨.bboxBbState, 12, 0⟩
/-- BBOX.BB_CTL.FF_MASK -/
abbrev Fld.bboxBbCtlFfMask : Fld := ⟨.bboxBbCtl, 8, 1⟩
/-- BBOX.HEAD_SEQ.SEQ -/
abbrev Fld.bboxHeadSeqSeq : Fld := ⟨.bboxHeadSeq, 47, 0⟩
/-- BBOX.OLDEST_SEQ.SEQ -/
abbrev Fld.bboxOldestSeqSeq : Fld := ⟨.bboxOldestSeq, 47, 0⟩
/-- BBOX.RD_SEL.AREA -/
abbrev Fld.bboxRdSelArea : Fld := ⟨.bboxRdSel, 63, 63⟩
/-- BBOX.RD_SEL.INDEX -/
abbrev Fld.bboxRdSelIndex : Fld := ⟨.bboxRdSel, 47, 0⟩
/-- BBOX.RD_STATUS.VALID -/
abbrev Fld.bboxRdStatusValid : Fld := ⟨.bboxRdStatus, 63, 63⟩
/-- BBOX.RD_STATUS.CRC_BAD -/
abbrev Fld.bboxRdStatusCrcBad : Fld := ⟨.bboxRdStatus, 62, 62⟩
/-- BBOX.RD_STATUS.ABSENT -/
abbrev Fld.bboxRdStatusAbsent : Fld := ⟨.bboxRdStatus, 61, 61⟩
/-- BBOX.CLR_ADDR.ADDR -/
abbrev Fld.bboxClrAddrAddr : Fld := ⟨.bboxClrAddr, 51, 0⟩
/-- BBOX.CLR_STATUS.TOKEN -/
abbrev Fld.bboxClrStatusToken : Fld := ⟨.bboxClrStatus, 63, 48⟩
/-- BBOX.CLR_STATUS.RESULT -/
abbrev Fld.bboxClrStatusResult : Fld := ⟨.bboxClrStatus, 11, 8⟩
/-- BBOX.CLR_STATUS.BUSY -/
abbrev Fld.bboxClrStatusBusy : Fld := ⟨.bboxClrStatus, 1, 1⟩
/-- BBOX.CLR_STATUS.DONE -/
abbrev Fld.bboxClrStatusDone : Fld := ⟨.bboxClrStatus, 0, 0⟩
/-- BBOX.COMMIT.TOKEN -/
abbrev Fld.bboxCommitToken : Fld := ⟨.bboxCommit, 31, 16⟩
/-- BBOX.COMMIT.CANCEL -/
abbrev Fld.bboxCommitCancel : Fld := ⟨.bboxCommit, 1, 1⟩
/-- BBOX.COMMIT.GO -/
abbrev Fld.bboxCommitGo : Fld := ⟨.bboxCommit, 0, 0⟩
/-- BBOX.COMMIT_STATUS.CHECK -/
abbrev Fld.bboxCommitStatusCheck : Fld := ⟨.bboxCommitStatus, 47, 32⟩
/-- BBOX.COMMIT_STATUS.TOKEN -/
abbrev Fld.bboxCommitStatusToken : Fld := ⟨.bboxCommitStatus, 31, 16⟩
/-- BBOX.COMMIT_STATUS.RESULT -/
abbrev Fld.bboxCommitStatusResult : Fld := ⟨.bboxCommitStatus, 10, 8⟩
/-- BBOX.COMMIT_STATUS.LOST -/
abbrev Fld.bboxCommitStatusLost : Fld := ⟨.bboxCommitStatus, 1, 1⟩
/-- BBOX.COMMIT_STATUS.DONE -/
abbrev Fld.bboxCommitStatusDone : Fld := ⟨.bboxCommitStatus, 0, 0⟩
/-- HUB.ID.ENTERPRISE -/
abbrev Fld.hubIdEnterprise : Fld := ⟨.hubId, 63, 32⟩
/-- HUB.ID.STEPPING -/
abbrev Fld.hubIdStepping : Fld := ⟨.hubId, 15, 8⟩
/-- HUB.BOOT.STAGE -/
abbrev Fld.hubBootStage : Fld := ⟨.hubBoot, 63, 60⟩
/-- HUB.BOOT.BANK -/
abbrev Fld.hubBootBank : Fld := ⟨.hubBoot, 59, 59⟩
/-- HUB.BOOT.FALLBACK -/
abbrev Fld.hubBootFallback : Fld := ⟨.hubBoot, 58, 58⟩
/-- HUB.BOOT.RESET_CAUSE -/
abbrev Fld.hubBootResetCause : Fld := ⟨.hubBoot, 57, 56⟩
/-- HUB.BOOT.HBM_FAIL -/
abbrev Fld.hubBootHbmFail : Fld := ⟨.hubBoot, 47, 40⟩
/-- HUB.BOOT.READY_MS -/
abbrev Fld.hubBootReadyMs : Fld := ⟨.hubBoot, 31, 0⟩
/-- HUB.FW.MAJOR -/
abbrev Fld.hubFwMajor : Fld := ⟨.hubFw, 47, 40⟩
/-- HUB.FW.MINOR -/
abbrev Fld.hubFwMinor : Fld := ⟨.hubFw, 39, 32⟩
/-- HUB.FW.PATCH -/
abbrev Fld.hubFwPatch : Fld := ⟨.hubFw, 31, 16⟩
/-- HUB.FW.PENDING -/
abbrev Fld.hubFwPending : Fld := ⟨.hubFw, 15, 15⟩
/-- HUB.ALERT.EN -/
abbrev Fld.hubAlertEn : Fld := ⟨.hubAlert, 13, 8⟩
/-- HUB.ALERT.BOOT -/
abbrev Fld.hubAlertBoot : Fld := ⟨.hubAlert, 5, 5⟩
/-- HUB.ALERT.LINK -/
abbrev Fld.hubAlertLink : Fld := ⟨.hubAlert, 4, 4⟩
/-- HUB.ALERT.FLASH -/
abbrev Fld.hubAlertFlash : Fld := ⟨.hubAlert, 3, 3⟩
/-- HUB.ALERT.HBM -/
abbrev Fld.hubAlertHbm : Fld := ⟨.hubAlert, 2, 2⟩
/-- HUB.ALERT.FAULT -/
abbrev Fld.hubAlertFault : Fld := ⟨.hubAlert, 1, 1⟩
/-- HUB.ALERT.POWER -/
abbrev Fld.hubAlertPower : Fld := ⟨.hubAlert, 0, 0⟩
/-- HUB.DOMAIN_MISS.VALID -/
abbrev Fld.hubDomainMissValid : Fld := ⟨.hubDomainMiss, 63, 63⟩
/-- HUB.DOMAIN_MISS.DOMAIN -/
abbrev Fld.hubDomainMissDomain : Fld := ⟨.hubDomainMiss, 55, 48⟩
/-- HUB.DOMAIN_MISS.COUNT -/
abbrev Fld.hubDomainMissCount : Fld := ⟨.hubDomainMiss, 47, 32⟩
/-- HUB.DOMAIN_MISS.ADDR -/
abbrev Fld.hubDomainMissAddr : Fld := ⟨.hubDomainMiss, 27, 0⟩

end Sys2Proof
end

