-- ==== Sys2Proof/Machine/Bits.lean ====
section
/-! DEFINITION. Bit ranges (R7), little-endian byte lists (R8), and the checksums the module computes:
CRC-32C (R450, R551). -/

namespace Sys2Proof

/-- The number in bits hi to lo of a natural number (R7). -/
def bitsOf (n hi lo : Nat) : Nat := (n >>> lo) % 2 ^ (hi + 1 - lo)

/-- One bit of a natural number. -/
def bitOf (n i : Nat) : Bool := n.testBit i

/-- The mask of a bit range in a register. -/
def rangeMask (hi lo : Nat) : Word := BitVec.ofNat 64 (2 ^ (hi + 1 - lo) - 1) <<< lo

/-- The number in bits hi to lo of a register (R7). -/
def getBits (w : Word) (hi lo : Nat) : Nat := ((w >>> lo) &&& BitVec.ofNat 64 (2 ^ (hi + 1 - lo) - 1)).toNat

/-- A register with bits hi to lo replaced by a number, taken modulo the width of the range (R7). -/
def putBits (w : Word) (hi lo n : Nat) : Word :=
  (w &&& ~~~(rangeMask hi lo)) ||| ((BitVec.ofNat 64 (n % 2 ^ (hi + 1 - lo))) <<< lo)

/-- The value of a field in its register's word. -/
def Fld.get (f : Fld) (w : Word) : Nat := getBits w f.hi f.lo

/-- The register's word with a field replaced. -/
def Fld.put (f : Fld) (w : Word) (n : Nat) : Word := putBits w f.hi f.lo n

/-- A Boolean as a number. -/
def bit01 (b : Bool) : Nat := if b then 1 else 0

/-- The number a little-endian byte list spells (R8). -/
def leNat : List Byte → Nat
  | [] => 0
  | b :: t => b.toNat + 256 * leNat t

/-- A number as a given count of little-endian bytes (R8). -/
def leBytes : Nat → Nat → List Byte
  | 0, _ => []
  | k + 1, n => BitVec.ofNat 8 n :: leBytes k (n / 256)

/-- The number in `len` bytes of a structure from byte `off` on; absent bytes read as zero (R8). -/
def leAt (bs : List Byte) (off len : Nat) : Nat := leNat ((bs.drop off).take len)

/-- One step of the reflected CRC-32C register for one bit. -/
def crcBit (c : Nat) : Nat := if c % 2 = 1 then (c / 2) ^^^ 0x82F63B78 else c / 2

/-- The CRC-32C register after one byte. -/
def crcByte (c : Nat) (b : Byte) : Nat :=
  crcBit (crcBit (crcBit (crcBit (crcBit (crcBit (crcBit (crcBit (c ^^^ b.toNat))))))))

/-- CRC-32C: initial value of all ones, reflected input and output, final inversion (R450). -/
def crc32c (bs : List Byte) : Nat := (bs.foldl crcByte 0xFFFFFFFF) ^^^ 0xFFFFFFFF

/-- Two's complement reading of the low n bits of a number. -/
def toSigned (n x : Nat) : Int :=
  if x % 2 ^ n < 2 ^ (n - 1) then Int.ofNat (x % 2 ^ n) else Int.ofNat (x % 2 ^ n) - Int.ofNat (2 ^ n)

/-- Two's complement encoding of an integer in n bits, saturating at both ends. -/
def satSigned (n : Nat) (x : Int) : Nat :=
  let top : Int := Int.ofNat (2 ^ (n - 1))
  let y := if top ≤ x then top - 1 else if x < -top then -top else x
  (y % Int.ofNat (2 ^ n)).toNat

/-- Adds with saturation at an upper bound. -/
def satAdd (a b top : Nat) : Nat := min (a + b) top

/-- Division rounded up. -/
def ceilDiv (a b : Nat) : Nat := (a + b - 1) / b

/-- Updates the element of a list at an index; an index past the end changes nothing. -/
def setAt {α : Type} (l : List α) (i : Nat) (v : α) : List α := l.set i v

end Sys2Proof
end

