-- ==== Sys2Proof/Config.lean ====
section
/-! DEFINITION. What an implementation fixes and what the manual leaves open. Every constant here is opaque: nothing
in Lean can evaluate it, so a statement about the model holds for every value (assumption log 3, 4). -/

namespace Sys2Proof

-- Assumption log 3 (DESIGN CHOICE).
/-- A fresh 64-bit value that the manual leaves open, by the free-value counter of State. -/
opaque Config.freeWord : Nat → Word

-- Assumption log 3 (DESIGN CHOICE), 122 (DESIGN CHOICE), 191 (DESIGN CHOICE).
/-- A fresh number that the manual leaves open, by the free-value counter of State. -/
opaque Config.freeNat : Nat → Nat

-- Assumption log 3 (DESIGN CHOICE), 4 (DESIGN CHOICE).
/-- The output of the true random number generator (R526), by the free-value counter of State. -/
opaque Config.trng : Nat → Nat

-- Assumption log 5 (DESIGN CHOICE).
/-- The choice that a unit makes within an error bound, by operation and operand codes. One firing is deterministic
(R185), so it is a function of the operands. -/
opaque Config.choice : Nat → List Nat → Nat

/-- HUB.ID: the enterprise number in its fuses (R582). -/
opaque Config.enterprise : BitVec 32

-- Assumption log 206 (DEDUCED).
/-- What the host writes back at the n-th recall of a line: none where its copy is not modified (R431). -/
opaque Config.hostCopy : Nat → Option Line

-- Assumption log 109 (DEDUCED).
/-- The bank of a row within its channel (R374, R375): a row is named by the number of its tile. -/
opaque Config.bankOf : Nat → Nat

/-- The transmit and receive delays in the fuses of an optical port (R479). -/
opaque Config.portDelay : Nat → Word

-- Assumption log 4 (DESIGN CHOICE).
/-- The unique device secret, 384 bits (R527). -/
opaque Config.uds : List Byte

-- Assumption log 4 (DESIGN CHOICE).
/-- ECDSA signing by the alias key that is derived from a compound device identifier (R528, R529). -/
opaque Config.aliasSign : Nat → List Byte → List Byte

/-- AES-256-GCM tag of a stripe record under the library key (R387). -/
opaque Config.libraryTag : List Byte → Nat

/-- The identity digest of this module: first 16 bytes of SHA-384 of its device identity public key (R462). -/
opaque Config.identity : List Byte

/-- The certificate chain that SPDM slot 0 serves, from the root CA to alias 2 (R528), by the compound device identifiers of layers
1 and 2 and by the digest and SVN that each alias certificate carries. -/
opaque Config.certChain : Nat → Nat → List Byte → List Byte

/-- The fused digests of Umeisk's primary and reserve signing keys (R530). -/
opaque Config.primaryKey : Nat
opaque Config.reserveKey : Nat

-- Assumption log 207 (DESIGN CHOICE).
/-- The command byte of the vendor-defined message that carries a fault record to the rack manager (R499, R569). -/
opaque Config.faultCommand : Byte

/-- SHA-384 of the boot ROM (R529, measurement 1). -/
opaque Config.romDigest : Nat

end Sys2Proof
end

