-- ==== Sys2Proof/Machine/Tab.lean ====
section
/-! DEFINITION. Sparse tables in one canonical form: a list of key and value pairs with strictly rising keys, in
which no entry holds what an unlisted key reads as. Registers, sites, partitions, sequences, owner tags and memory
are tables; the default of a key is an argument of every operation. -/

namespace Sys2Proof

/-- A sparse table by key. -/
abbrev Tab (α : Type) := List (Nat × α)

/-- The value at a key: the listed one, else the default of the key. -/
def tabGet {α : Type} (d : Nat → α) : Tab α → Nat → α
  | [], k => d k
  | (j, v) :: t, k => if k = j then v else tabGet d t k

/-- Inserts a value at a key, keeping keys rising. -/
def tabIns {α : Type} : Tab α → Nat → α → Tab α
  | [], k, v => [(k, v)]
  | (j, w) :: t, k, v =>
    if k < j then (k, v) :: (j, w) :: t
    else if k = j then (k, v) :: t
    else (j, w) :: tabIns t k v

/-- Removes a key's entries. -/
def tabDel {α : Type} : Tab α → Nat → Tab α
  | [], _ => []
  | (j, w) :: t, k => if k = j then tabDel t k else (j, w) :: tabDel t k

/-- Stores a value at a key; storing the default removes the entry. -/
def tabSet {α : Type} [DecidableEq α] (d : Nat → α) (t : Tab α) (k : Nat) (v : α) : Tab α :=
  if v = d k then tabDel t k else tabIns t k v

/-- The keys rise strictly. -/
def tabSorted {α : Type} : Tab α → Bool
  | [] => true
  | (_, _) :: [] => true
  | (j, _) :: (k, w) :: t => decide (j < k) && tabSorted ((k, w) :: t)

/-- The canonical form: keys rise strictly and no entry equals the default of its key. -/
def tabWf {α : Type} [DecidableEq α] (d : Nat → α) (t : Tab α) : Bool :=
  tabSorted t && t.all (fun e => decide (e.2 ≠ d e.1))

/-- Restores every key of a range to its default. -/
def tabClear {α : Type} (t : Tab α) (lo hi : Nat) : Tab α :=
  t.filter (fun e => !(decide (lo ≤ e.1) && decide (e.1 < hi)))

/-- The entries of a range. -/
def tabSlice {α : Type} (t : Tab α) (lo hi : Nat) : Tab α :=
  t.filter (fun e => decide (lo ≤ e.1) && decide (e.1 < hi))

/-- Replaces the entries of a range by those of another table. -/
def tabReplace {α : Type} (t u : Tab α) (lo hi : Nat) : Tab α :=
  t.filter (fun e => decide (e.1 < lo)) ++ tabSlice u lo hi ++ t.filter (fun e => decide (hi ≤ e.1))

/-- The lowest number below a bound that meets a test. -/
def firstBelow (n : Nat) (p : Nat → Bool) : Option Nat := (List.range n).find? p

end Sys2Proof
end

