-- ==== Sys2Proof/Machine/StateHub.lean ====
section
/-! DEFINITION. The state of the hub die and of the module's edges outside the registers: outputs, time base,
fault table, black box, seal unit, power controller, management, optical ports and host port. -/

namespace Sys2Proof.Machine

open Sys2Proof

/-- What the module emits, newest last in State.out. -/
inductive Out where
  /-- A message handed to a port's transmitter (R461). -/
  | msg (port : Nat) (m : Msg)
  /-- The 256 bytes of a flit that leaves a port (R450): a data flit, again in a replay, or an idle flit that carries an
  acknowledgement (R452, R453). -/
  | flit (port : Nat) (bytes : List Byte)
  /-- A write of a whole line of 64 bytes into host memory: ItoMWr (R424). -/
  | hostWrite (addr : Nat) (data : List Byte)
  /-- A write of a part of a line: WrCur with the byte enables of these bytes (R424). -/
  | hostPart (addr : Nat) (data : List Byte)
  /-- A read of host memory: RdShared for a tail line, RdCurr otherwise (R414). -/
  | hostRead (addr len : Nat) (shared : Bool)
  /-- The answer to a snoop: the line and whether a Shared copy stays (R420). -/
  | snoopRsp (line : Nat) (keeps : Bool)
  /-- BISnpInv of a host-held line of HDM (R431). -/
  | backInvalidate (line : Nat)
  /-- The response to a host CXL.mem read (R416, R372). -/
  | memData (data : List Byte) (poison : Bool)
  /-- The completion of a host CXL.mem write. -/
  | memDone
  /-- An MSI-X message (R425). -/
  | msix (vector : Nat)
  /-- An MCTP message of the module: endpoint, message type, bytes (R568). -/
  | mctp (endpoint typ : Nat) (body : List Byte)
  /-- An I3C in-band interrupt with its mandatory data byte (R567). -/
  | ibi (data : Nat)
  /-- An SPDM response: endpoint, request code, bytes (R529). -/
  | spdm (endpoint code : Nat) (body : List Byte)
  /-- A DOE mailbox response (R441). -/
  | doe (body : List Byte)
  /-- The lead's snapshot broadcast to a member: T and its sequence number (R60). -/
  | snapArm (part dst at_ seq : Nat)
  deriving DecidableEq, Repr

/-- Bytes written into host memory, cut into lines: whole ones and parts (R424). -/
def writeOut : Nat → Nat → List Byte → List Out
  | 0, _, _ => []
  | n + 1, a, bs =>
    if bs.isEmpty then []
    else
      let c := bs.take (64 - a % 64)
      (if c.length = 64 then .hostWrite a c else .hostPart a c) :: writeOut n (a + c.length) (bs.drop (64 - a % 64))

-- Assumption log 214 (DESIGN CHOICE).
/-- The writes of some bytes into host memory (R424). -/
def hostWrites (a : Nat) (bs : List Byte) : List Out := writeOut bs.length a bs

/-- A host access, or another hub access, that waits for a page-tile, a link or a die (R29, R429). -/
structure HubReq where
  part : Nat
  addr : Nat
  /-- Empty for a read of 64 bytes. -/
  data : List Byte
  /-- A read asks for a cacheable state. -/
  cache : Bool
  deriving DecidableEq, Repr

/-- One partition's time line (R47, R54 to R63). -/
structure PTime where
  /-- Partition time minus module time, modulo 2^64. -/
  offset : Word
  /-- Offset error still to be slewed away, in ticks. -/
  slew : Int
  /-- Ticks before the next slew step may come (R49). -/
  phase : Nat
  /-- Exchanges failed in a row (R57). -/
  fails : Nat
  /-- T1 of the exchange in flight. -/
  t1 : Option Nat
  /-- Armed snapshot: T and its sequence number. -/
  snap : Option (Nat × Nat)
  /-- Sites that have latched the armed snapshot. -/
  latched : List Nat
  /-- Sites whose event boundary has come, with its partition time: they latch when that instant has ended (R62). -/
  latching : List (Nat × Nat)
  deriving DecidableEq, Repr

/-- A partition's time line before its first formation. -/
def PTime.reset : PTime := ⟨0, 0, 0, 0, none, none, [], []⟩

/-- A trace record waiting in a die's trace queue (R64, R66): the partition and the 32 bytes. -/
structure TraceRec where
  part : Nat
  bits : BitVec 256
  deriving DecidableEq, Repr

/-- The key of a fault report (R497). -/
structure FaultKey where
  suspect : Nat
  loc : Nat
  cls : Nat
  deriving DecidableEq, Repr

/-- An entry of the suppression table (R497), or of the lead's table (R499). -/
structure FaultEntry where
  key : FaultKey
  count : Nat
  ts : Nat
  /-- Counts added since the entry opened. -/
  added : Nat
  /-- Lead: the merge window has ended. -/
  windowDone : Bool
  /-- Lead: confirmation has ended, with its CONFIRM code; none while it runs. -/
  confirm : Option Nat
  /-- Lead: TIME_REQs sent for confirmation. -/
  tries : Nat
  /-- Lead: the record has been emitted. -/
  emitted : Bool
  deriving DecidableEq, Repr

/-- A request to another module that waits for its response (R465, R466): destination, transaction, message type,
requesting site and engine, and an operand of the requester. -/
structure Request where
  dst : Nat
  txn : Nat
  typ : Nat
  site : Nat
  engine : Nat
  info : Nat
  deriving DecidableEq, Repr

/-- A fault record (R501). -/
structure FaultRec where
  key : FaultKey
  confirm : Nat
  firstTs : Nat
  count : Nat
  epoch : Nat
  emitTs : Nat
  deriving DecidableEq, Repr

/-- The black box (R547 to R562). -/
structure BBox where
  /-- Records that wait for the writer, each with whether its class was enabled for the first-fault area when it
  entered (R563). -/
  queue : List (Line × Bool)
  /-- Records discarded since the last OVERFLOW record (R555). -/
  lostNow : Nat
  /-- SEQ of the next record (R548). -/
  nextSeq : Nat
  /-- The MRAM by slot number (R547); unlisted slots are as manufactured, all zero. -/
  mram : Tab Line
  /-- SEQ of the newest record written, plus one; 0 with none. -/
  head : Nat
  /-- OLDEST_SEQ after the last clear. -/
  cleared : Nat
  /-- First-fault slots used. -/
  ffCount : Nat
  /-- The copy of the saved head that is written next is the second one. -/
  saveB : Bool
  /-- Boot count. -/
  boots : Nat
  deriving DecidableEq, Repr

-- Assumption log 157 (DESIGN CHOICE).
/-- The black box as manufactured. -/
def BBox.reset : BBox := ⟨[], 0, 0, [], 0, 0, 0, false, 0⟩

/-- A publisher slot of the seal unit (R533): key bytes and KEY_ID. -/
structure PubSlot where
  key : List Byte
  keyId : Nat
  deriving DecidableEq, Repr

/-- The seal unit (R526 to R533). -/
structure Seal where
  /-- Blown anti-rollback fuses. -/
  fused : Nat
  /-- The fuse that revokes the primary signing key is blown. -/
  primaryRevoked : Bool
  owner : Option (List Byte)
  /-- The 16 publisher slots. -/
  pubs : List (Option PubSlot)
  nonce : Nat
  trngFail : Bool
  /-- Swap keys of the partitions by number of the partition. -/
  swapKeys : Tab Nat
  deriving DecidableEq, Repr

-- Assumption log 157 (DESIGN CHOICE).
/-- The seal unit at shipment. -/
def Seal.reset : Seal := ⟨0, false, none, List.replicate 16 none, 0, false, []⟩

/-- Debug credential state of a partition (R542). -/
structure Debug where
  /-- DBG_CRED_LO and DBG_CRED_HI as last written. -/
  lo : Word
  hi : Word
  stored : Option (BitVec 128)
  unlocked : Bool
  fails : Nat
  /-- The word that DBG_ADDR selected. -/
  data : Line
  deriving DecidableEq, Repr

/-- Debug state at formation. -/
def Debug.reset : Debug := ⟨0, 0, none, false, 0, 0⟩

/-- The power controller outside its registers (R509 to R522). -/
structure Power where
  /-- Effective limit L, in W. -/
  limit : Nat
  /-- A falling ramp of the cap: L at its start, its end, its length and the time gone, in us (R511). -/
  ramp : Option (Nat × Nat × Nat × Nat)
  /-- Junctions at the start of a FLOW brake (R521). -/
  flowTemps : List Nat
  /-- Junctions as last measured: eight dies, hub. -/
  temps : List Nat
  /-- Dies whose supply is lowered since they passed 95 degrees C (R522). -/
  throttled : List Nat
  /-- Dies that have cooled since and whose supply still rises in steps (R522). -/
  cooling : List Nat
  /-- Time of the last heartbeat, in module time ticks. -/
  hbAt : Nat
  /-- The retention supply is held (R516). -/
  retention : Bool
  /-- Module reset pin asserted (R571). -/
  inReset : Bool
  /-- Trip: the pin was asserted while every junction lay below 90 degrees C (R514). -/
  tripCleared : Bool
  /-- Lowest input voltage since start-up, in 10 mV. -/
  vMin : Nat
  /-- The pacer runs at zero rate: it granted no firing for this control interval while the brake holds (R512). -/
  zeroRate : Bool
  /-- The start of a control interval: no time has passed since the last one began (R39). -/
  boundary : Bool
  deriving DecidableEq, Repr

/-- The power controller before start-up. -/
def Power.reset : Power := ⟨9200, none, [], [], [], [], 0, false, false, false, 0xFFFF, false, false⟩

/-- A firmware bank (R578). -/
structure FwBank where
  valid : Bool
  /-- Release major, minor, patch. -/
  release : Nat × Nat × Nat
  svn1 : Nat
  svn2 : Nat
  digest1 : Nat
  digest2 : Nat
  deriving DecidableEq, Repr

-- Assumption log 157 (DESIGN CHOICE).
/-- A bank that holds no update: release 4.0.0 as the line begins (R1). -/
def FwBank.reset : FwBank := ⟨true, (4, 0, 0), 0, 0, 0, 0⟩

/-- Management: endpoints, sessions, update (R567 to R580). -/
structure Mgmt where
  /-- EIDs of the I3C and the CXL endpoint. -/
  eidI3c : Option Nat
  eidCxl : Option Nat
  /-- I3C dynamic address. -/
  i3cAddr : Option Nat
  /-- Event receiver named by SetEventReceiver: endpoint and EID. -/
  receiver : Option (Nat × Nat)
  /-- Open secured sessions: session number, key generation and endpoint (R529). -/
  sessions : List (Nat × Nat × Nat)
  bankA : FwBank
  bankB : FwBank
  /-- Bank B runs. -/
  runB : Bool
  /-- An update is in progress: the bytes written to the inactive bank. -/
  update : Option (List Byte)
  /-- Endpoint of its update agent. -/
  agent : Nat
  /-- The update has passed VerifyComplete. -/
  verified : Bool
  /-- The inactive bank waits for the next start-up. -/
  pendingBank : Bool
  /-- Module time at which start-up step 1 began. -/
  startAt : Nat
  /-- Reset cause of the next start-up: 0 power-on, 1 pin, 2 after STOP, 3 after TRIP. -/
  cause : Nat
  deriving DecidableEq, Repr

/-- Management at first power. -/
def Mgmt.reset : Mgmt :=
  ⟨none, none, none, none, [], FwBank.reset, FwBank.reset, false, none, 0, false, false, 0, 0⟩

/-- A data flit kept for replay (R453). -/
structure KeptFlit where
  seq : Nat
  vc : Nat
  ptag : Nat
  dst : Nat
  payload : List Byte
  /-- Times sent. -/
  sends : Nat
  deriving DecidableEq, Repr

/-- One optical port's link layer and lane audit (R450 to R472). -/
structure Port where
  /-- SEQ of the last data flit accepted. -/
  rxSeq : Nat
  /-- Discarding until SEQ = ACK + 1 (R453). -/
  naking : Bool
  /-- Data flits received since an acknowledgement was sent. -/
  unacked : Nat
  /-- SEQ of the next new data flit. -/
  txSeq : Nat
  kept : List KeptFlit
  /-- Data flits that wait for credits or for the replay window, in the order of their messages; they have no SEQ yet. -/
  waiting : List KeptFlit
  /-- Credits by VC. -/
  credits : List Nat
  /-- Flit buffers freed by VC, running totals modulo 256. -/
  freed : List Nat
  /-- Totals last taken from the partner. -/
  partner : List Nat
  /-- Bytes not yet taken of each flit buffered, by VC. -/
  rx : List (List Nat)
  /-- Bytes still to come of the message in progress, by VC. -/
  rxLeft : List Nat
  /-- Audit as transmitter: the wavelength and its phase: 0 START sent, 1 under test, 2 returning. -/
  audit : Option (Nat × Nat)
  /-- Next wavelength to audit. -/
  auditNext : Nat
  /-- Audit stopped until a commit of PORT_CTL. -/
  auditStop : Bool
  /-- Audit as receiver: the wavelength under test. -/
  auditRx : Option Nat
  /-- Half flits still to come of the codeword in hand, and whether it is uncorrectable (R448, R449). -/
  cwLeft : Nat
  cwBad : Bool
  /-- The partner's LINK_ID has arrived since the port entered TRAIN (R467). -/
  linkId : Bool
  deriving DecidableEq, Repr

/-- A dark port: buffers of 96, 96, 192 and 32 flits at the partner (R456). -/
def Port.reset : Port :=
  ⟨0xFFF, false, 0, 0, [], [], [96, 96, 192, 32], [0, 0, 0, 0], [0, 0, 0, 0], [[], [], [], []], [0, 0, 0, 0],
    none, 0, false, none, 0, false, false⟩

/-- The host port outside its registers (R413 to R442). -/
structure HostPort where
  /-- The decoder base programmed by the host (R416). -/
  hdmBase : Option Nat
  /-- Lines of HDM that the host holds, oldest first (R431). -/
  filter : List Nat
  /-- MSI-X enabled by the host. -/
  msixOn : Bool
  /-- Masked vectors. -/
  masked : List Nat
  /-- Pending bits. -/
  msixPend : List Nat
  /-- Address and data of the entries of the MSI-X table in BAR2 (R415). -/
  msixTable : List (Word × BitVec 32)
  /-- LINK_ERR bits whose vector-35 message waits (R584). -/
  linkErrWait : List Nat
  /-- Bits of R583 set out of L0 whose message waits: register address and bit. -/
  hbmWait : List (Nat × Nat)
  /-- Completions held while the link is out of L0 (R437): partition, their writes by address with the completion entry
  last, and whether the vector follows. -/
  held : List (Nat × List (Nat × List Byte) × Bool)
  /-- IDE keys by stream: 0 CXL.io, 1 CXL.cachemem. -/
  ideKeys : List (Nat × List Byte)
  deriving DecidableEq, Repr

/-- The host port after reset. -/
def HostPort.reset : HostPort := ⟨none, [], true, [], [], [], [], [], [], []⟩

end Sys2Proof.Machine
end

