-- ==== Sys2Proof/Machine/StateFabric.lean ====
section
/-! DEFINITION. The state of one fabric site: compute unit, switch unit and memory unit (R73 to R104, R192 to R222). -/

namespace Sys2Proof.Machine

open Sys2Proof

/-- One 64-byte transfer with its sideband (R79). -/
structure Xfer where
  tag : Nat
  last : Bool
  eos : Bool
  /-- The format mark of R305: 16 plus a format code where valid, else 0. -/
  mark : Nat
  data : Line
  deriving DecidableEq, Repr

/-- An operand, or an end-of-stream marker with no words (R80, R81). -/
structure Operand where
  tag : Nat
  eos : Bool
  mark : Nat
  words : Words
  deriving DecidableEq, Repr

/-- The compute unit of a site (R79). -/
structure Cu where
  /-- The four match stores, oldest operand first. -/
  stores : List (List Operand)
  abuf : Tab Line
  wbuf : Tab Line
  /-- Accumulator rows of 64 FP32 lanes, keyed 64 times bank plus row. -/
  acc : Tab (BitVec 2048)
  /-- Issue counts of the trigger entries (R128). -/
  issue : Tab Nat
  /-- Inputs ended and highest iteration of the four merge groups (R147). -/
  merge : List (Nat × Nat)
  /-- The 64 rounding generators (R178). -/
  lfsr : List Nat
  /-- A SYNC WAIT holds S0: the MU's site and the semaphore (R151). -/
  waiting : Option (Nat × Nat)
  /-- Trigger entries that have fired in end-of-stream form in this section (R228). -/
  ended : List Nat
  /-- Markers delivered to the match stores in this section: port and context (R105). -/
  arrived : List (Nat × Nat)
  /-- The append table (R309): page formats by token slot, and KSCALE and VSCALE by twice the layer plus the half. -/
  kvFmts : Tab Nat
  kvScales : Tab Nat
  deriving DecidableEq, Repr

-- Assumption log 10 (DESIGN CHOICE).
def Cu.reset : Cu := ⟨[[], [], [], []], [], [], [], [], List.replicate 4 (0, 0), List.replicate 64 1, none, [], [], [], []⟩

/-- What waits in the reserve of a steering or merging entry (R97, R100). -/
structure SteerItem where
  /-- Input of the entry: 0 control and 1 data for steering, 0 to 3 for merging. -/
  input : Nat
  x : Xfer
  deriving DecidableEq, Repr

/-- A steering or merging entry's state (R95 to R100). -/
structure SteerState where
  items : List SteerItem
  /-- Pairs that wait to leave, oldest first: route mask, for merging plus 16 times one more than the input, and the first
  transfer. -/
  pairs : List (Nat × Xfer)
  /-- The operand in passage: its input and, for steering, its route mask. -/
  passing : Option (Nat × Nat)
  /-- Markers seen: input and tag. -/
  ends : List (Nat × Nat)
  /-- The transfer that waits on each output: port times 8 plus slot. -/
  outq : List (Nat × Xfer)
  deriving DecidableEq, Repr

def SteerState.reset : SteerState := ⟨[], [], none, [], []⟩

/-- The switch unit of a site (R88 to R94). Ports: 0 north, 1 east, 2 south, 3 west, 4 local. A key is 8 times port plus
slot. -/
structure Su where
  /-- Receiver FIFOs of its inputs, each transfer with its arrival number. -/
  fifo : Tab (List (Nat × Xfer))
  /-- Transfers that have arrived at the unit's FIFOs so far. -/
  arrivals : Nat
  /-- The unit's receiver FIFOs by local output slot. -/
  ufifo : Tab (List Xfer)
  /-- Credits of the sending ends by output key; the unit's own sending end has keys 40 to 47; 8 at reset (R90). -/
  credits : Tab Nat
  /-- Credits that a receiver has freed and not yet returned, by input key; keys 40 to 47 are the unit's FIFOs. -/
  owed : Tab Nat
  /-- The slot that each link visits next (R91). -/
  turn : Tab Nat
  /-- Branches that have taken the head of a fanned-out input slot (R89), by input key. -/
  taken : Tab (List Nat)
  steer : List SteerState
  deriving DecidableEq, Repr

-- Assumption log 10 (DESIGN CHOICE).
def Su.reset : Su := ⟨[], 0, [], [], [], [], [], List.replicate 4 SteerState.reset⟩

/-! ### Memory unit (R192 to R222) -/

/-- A request that waits at a bank (R194): the requester, 4 to 7 for the hatch engines and 9 for the host debug path, the
word, the data of a write, and whether its wait has counted as a strict conflict. -/
structure BankReq where
  who : Nat
  word : Nat
  wdata : Option Line
  strict : Bool
  counted : Bool
  deriving DecidableEq, Repr

/-- The operand that an engine moves between its port and the banks (R585): position, tag, mark, and its words with
what the banks have answered; for a write the words still to be written. -/
structure BankOp where
  write : Bool
  pos : Nat
  opd : Operand
  words : List (Nat × Option Line)
  deriving DecidableEq, Repr

/-- A read request of an engine (R200, R585): the operands it covers, address, bytes, and the data once it has come.
A request to another module carries its transaction number. -/
structure ReadReq where
  addr : Nat
  len : Nat
  txn : Option Nat
  /-- Operands of the request: position, words, mark, margin lanes. -/
  ops : List (Nat × Nat × Nat)
  data : Option (List Byte)
  deriving DecidableEq, Repr

/-- A write of an engine that memory has not accepted yet (R228): kind 0 HBM, 1 remote partition address, 2 remote bank,
3 atomic, 9 accepted; address; data; transaction of a remote one. -/
structure PostedWrite where
  kind : Nat
  addr : Nat
  data : Words
  txn : Nat
  pos : Nat
  deriving DecidableEq, Repr

/-- A hatch engine (R201 to R214). -/
structure Engine where
  /-- Its entry for the section, 0 while idle. -/
  entry : Word
  desc : Nat
  active : Bool
  /-- BASE of the pass. -/
  base : Nat
  /-- Positions of the pass visited so far. -/
  pos : Nat
  /-- Operands of earlier passes. -/
  before : Nat
  /-- Operands sent by the stream. -/
  sent : Nat
  /-- Iterations of SYNC_LVL waited for, a wait in the queue, and iterations signalled. -/
  waited : Nat
  waiting : Bool
  signalled : Nat
  /-- WRITE: positions stored above the lowest one not stored, and that lowest one. -/
  stored : List Nat
  low : Nat
  /-- WRITE and QUEUE: the marker has arrived. -/
  ended : Bool
  bank : Option BankOp
  reads : List ReadReq
  posted : List PostedWrite
  /-- One-word re-arm buffer: a new BASE, or none for a closing marker. -/
  arm : Option (Option Nat)
  /-- Re-arm words that wait for the buffer in arrival order: a host word, or none for the word on the slot (R209). -/
  armQ : List (Option Nat)
  /-- The stream waits for a re-arm word (R209). -/
  armWait : Bool
  /-- The stream closes after the pass. -/
  closing : Bool
  /-- QUEUE: the sidebands of the transfers in the bank ring and of those in the HBM extension, oldest first; their data
  lie in the bank and in the extension's pages (R211). -/
  ring : List Xfer
  ext : List Xfer
  /-- QUEUE: transfers written to the HBM extension so far. -/
  extPos : Nat
  deriving DecidableEq, Repr

def Engine.reset : Engine :=
  ⟨0, 0, false, 0, 0, 0, 0, 0, false, 0, [], 0, false, none, [], [], none, [], false, false, [], [], 0⟩

/-- An operation in a bank's atomic queue (R194, R220). Kinds: 0 to 7 the atomics of R219 in the order of R462; 8 CLAIM,
9 ARM, 10 RETIRE, 11 a word of a remote bank write. -/
structure AtomOp where
  kind : Nat
  /-- Byte address in the unit. -/
  addr : Nat
  x : Nat
  y : Nat
  /-- Where the answer goes: 0 nowhere, 1 a compute unit's input port (site and port), 2 another module (partition,
  module and transaction), 3 an engine of this module that waits for it. -/
  dest : Nat
  a : Nat
  b : Nat
  c : Nat
  /-- Tag of the response and EOS_EXH. -/
  tag : Nat
  eosExh : Bool
  /-- The word of a remote bank write. -/
  data : Line
  deriving DecidableEq, Repr

/-- A remote bank write that is not written whole yet (R216, R217): sender and transaction, the window of its first word,
the words to be accepted, those not written yet, the status of the acknowledgement so far, and the words that wait for free
space of their window or for room in their bank's queue. -/
structure HeldWrite where
  /-- The port it came on and the length of its body, whose buffers it keeps until it is written (R465). -/
  port : Nat
  len : Nat
  part : Nat
  src : Nat
  txn : Nat
  win : Nat
  total : Nat
  left : Nat
  status : Nat
  words : List (Nat × Line)
  deriving DecidableEq, Repr

/-- A write of the append unit that HBM has not accepted yet (R308): partition address, data, and with the last write of an
operand the key of its operand slot. -/
structure AppendWrite where
  addr : Nat
  data : List Byte
  key : Option Nat
  deriving DecidableEq, Repr

/-- A memory unit. -/
structure Mu where
  /-- The banks by word address (R192). -/
  words : Tab Line
  sems : Tab Nat
  /-- Waiters by semaphore: requester (0 to 3 the compute unit on that side, 4 to 7 an engine) and count. -/
  waiters : Tab (List (Nat × Nat))
  engines : List Engine
  reqs : List BankReq
  /-- The requester granted last, by bank. -/
  last : Tab Nat
  /-- Atomic queues by bank. -/
  atoms : Tab (List AtomOp)
  /-- Credits of the remote windows, and free counts of the receive windows. -/
  credits : List Nat
  freeWords : List Nat
  held : List HeldWrite
  appends : List AppendWrite
  /-- The stream of the append unit is open in the section (R105, R308). -/
  appending : Bool
  deriving DecidableEq, Repr

def Mu.reset : Mu :=
  ⟨[], [], [], List.replicate 4 Engine.reset, [], [], [], [0, 0, 0, 0], [0, 0, 0, 0], [], [], false⟩

/-! ### Site -/

/-- A site image (R225, R238): what one store of a site holds. -/
structure SiteImg where
  /-- Strokes by index; unlisted ones are NOP. -/
  strokes : Tab (BitVec 128)
  trig : Tab Nat
  /-- Slot table entries by output key. -/
  slots : Tab Nat
  steer : Tab Nat
  localIn : Nat
  owners : Word
  strict : Nat
  sems : Tab Nat
  /-- Remote and receive windows. -/
  rwin : Tab Nat
  xwin : Tab Nat
  /-- Engine entries by 4 times section plus engine. -/
  entries : Tab Word
  descs : Tab (BitVec 256)
  /-- Strokes or descriptors present. -/
  count : Nat
  deriving DecidableEq, Repr

def SiteImg.reset : SiteImg := ⟨[], [], [], [], 0, 0, 0, [], [], [], [], [], 0⟩

/-- A site: its units and its two stores. -/
structure Site where
  cu : Cu
  su : Su
  mu : Mu
  front : SiteImg
  back : SiteImg
  /-- Partition time from which the ticks of the unit's stall count for its current cause; none before the stall has
  lasted a tick (R105). -/
  since : Option Nat
  /-- The transfer or stroke ready to go has found no room at its output since the unit's last progress (R106). -/
  full : Bool
  deriving DecidableEq, Repr

-- Assumption log 10 (DESIGN CHOICE).
def Site.reset : Site := ⟨Cu.reset, Su.reset, Mu.reset, SiteImg.reset, SiteImg.reset, none, false⟩

end Sys2Proof.Machine
end

