-- ==== Sys2Proof/Machine/StateServe.lean ====
section
/-! DEFINITION. The state of the HBM tier, the flash library and the serving engine (R225 to R412). -/

namespace Sys2Proof.Machine

open Sys2Proof

/-! ### HBM (R357 to R378) -/

/-- The HBM of the module. Addresses are module HBM addresses (R359). -/
structure Hbm where
  /-- User data by byte, and the firmware regions from 2^42 on; unlisted bytes are zero. -/
  cells : List (Nat × Byte)
  /-- Symbols of the stored codewords that differ from the code's (R368): position from 0 to 71 and difference. -/
  errs : Tab (List (Nat × Nat))
  /-- Owner tags by page-tile; unlisted ones are FREE. -/
  tags : Tab Nat
  /-- DIRTY page-tiles in the order in which they became so (R367). -/
  dirty : List Nat
  /-- Tile cache sets, keyed 1,024 times die plus set: tiles held with their 4 KiB in their VIEW, most recent first (R376). -/
  cache : Tab (List (Nat × List Byte))
  /-- Activations since the last refresh, by row, which is the tile's number (R374). -/
  acts : Tab Nat
  /-- Rows that await their targeted refresh, with the activations of their bank since (R374). -/
  due : List (Nat × Nat)
  /-- Corrections by row in the scrub pass (R375). -/
  fixes : Tab Nat
  /-- Spare rows used, keyed by stack and bank (R375). -/
  spares : Tab Nat
  /-- Next tile that each stack's scrub reads (R373). -/
  scrubAt : Tab Nat
  /-- Module time of the last MEMORY record of a codeword (R372). -/
  logged : Tab Nat
  /-- Where a DIRTY page-tile of a movable segment returns: partition times 8 plus segment (R429). -/
  returns : Tab (Option Nat)
  deriving DecidableEq, Repr

def Hbm.reset : Hbm := ⟨[], [], [], [], [], [], [], [], [], [], [], []⟩

/-! ### Flash library (R381 to R410) -/

/-- A stripe record (R387): the locations of the ten shards and the first 16 bytes of their SHA-384 digests, 2^31 and zero
for a shard that is not written, and the tag of these bytes under the library key. -/
structure StripeRecord where
  locs : List Nat
  digests : List Nat
  tag : Nat
  deriving DecidableEq, Repr

/-- A library slot (R397). States: 0 ABSENT, 1 INSTALLING, 2 STORED, 3 STAGING, 4 RESIDENT. -/
structure Edition where
  id : Nat
  state : Nat
  degraded : Bool
  /-- The manifest of the edition. -/
  manifest : List Byte
  /-- Data shards, and the first channel of stripe 0 (R386). -/
  shards : Nat
  c0 : Nat
  /-- The stripe records, one for each stripe that is written (R387). -/
  records : List StripeRecord
  /-- Where the edition's next shard goes on a channel: a page of a block that it has begun, or 0 modulo 1,024 where it
  needs a new block. -/
  next : Tab Nat
  /-- Residency: module page by edition page. -/
  pages : Tab Nat
  /-- Resident sets with their module pages, in order. -/
  sets : Tab (List Nat)
  deriving DecidableEq, Repr

def Edition.reset : Edition := ⟨0, 0, false, [], 0, 0, [], [], [], []⟩

/-- A command of the library (R398). -/
structure FlashCmd where
  op : Nat
  token : Nat
  arg0 : Word
  arg1 : Word
  deriving DecidableEq, Repr

/-- The flash library. A shard fills one page of each of the four planes of a die, so that the four planes' blocks of one
number, and their pages of one number, go together (R381, R385): a block is 2^15 times channel plus 2^12 times die plus
number, and a location is 1,024 times block plus page. -/
structure Flash where
  slots : Tab Edition
  /-- What the locations hold: none where erased, the bytes that are not zero where programmed. -/
  pages : Tab (Option (Tab Byte))
  /-- Uncorrectable pages: location and plane (R383). -/
  dead : List (Nat × Nat)
  /-- Blocks with a page that needed soft-bit decoding or more than 4 retries in the scrub (R389). -/
  worn : List Nat
  /-- Factory bad blocks (R390). -/
  factory : List Nat
  queue : List FlashCmd
  /-- Commands that run: at most one of each class. -/
  running : List FlashCmd
  /-- Results: command, code, DETAIL. -/
  results : List (FlashCmd × Nat × Nat)
  /-- Page reads since the block was programmed, and erase counts (R388, R390). -/
  reads : Tab Nat
  erases : Tab Nat
  retired : List Nat
  /-- Channels that failed, and those whose rebuild runs. -/
  failed : List Nat
  rebuilding : List Nat
  /-- Dies that answered at the mount, by channel (R411). -/
  dies : Tab Nat
  /-- Free user space used, in page-tiles. -/
  used : Nat
  deriving DecidableEq, Repr

def Flash.reset : Flash := ⟨[], [], [], [], [], [], [], [], [], [], [], [], [], [], 0⟩

/-! ### Serving engine (R258 to R356) -/

/-- A sequence-table entry (R259). States: 0 FREE, 1 ACTIVE, 2 PARKED, 3 SWAPPED, 4 RECOMPUTE, 5 CLOSED. -/
structure Seq where
  chain : Nat
  length : Nat
  edition : Nat
  lastTs : Nat
  pfx : Bool
  vset : Nat
  pgroup : Nat
  ns : Nat
  part : Nat
  state : Nat
  deriving DecidableEq, Repr

def Seq.reset : Seq := ⟨0, 0, 0, 0, false, 0, 0, 0, 0, 0⟩

/-- A prefix-directory entry (R282). -/
structure DirEntry where
  age : Nat
  ns : Nat
  part : Nat
  frame : Nat
  hash : Nat
  deriving DecidableEq, Repr

/-- A page header (R298). States: 0 FREE, 1 DIRTY, 2 OPEN, 3 FULL. -/
structure PageHdr where
  layer : Nat
  fmt : Nat
  state : Nat
  kscale : Nat
  vscale : Nat
  refs : Nat
  age : Nat
  seq : Nat
  /-- The token IDs of a layer-0 page; the header shows their bits [23:0] (R298, R312). -/
  tokens : List Nat
  deriving DecidableEq, Repr

def PageHdr.reset : PageHdr := ⟨0, 0, 0, 0, 0, 0, 0, 0, []⟩

/-- A batch record as the step carries it (R265, R266). -/
structure Rec where
  seq : Nat
  pos : Nat
  ntok : Nat
  publish : Bool
  rst : Bool
  sample : Bool
  grouped : Bool
  vgroup : Nat
  reserved : Bool
  /-- First token slot. -/
  slot : Nat
  /-- LENGTH at delivery. -/
  len : Nat
  status : Nat
  excluded : Bool
  deriving DecidableEq, Repr

/-- A ledger entry that the module has fetched (R261): its index, its 256 bytes, and the status that the checks of the
fetch gave it with its DETAIL, 0 where it passed. -/
structure Entry where
  idx : Nat
  raw : BitVec 2048
  status : Nat
  detail : Word
  deriving DecidableEq, Repr

/-- A member's share of a step as the lead holds it (R476): module, status, DETAIL, CHARGE, record statuses, END seen. -/
structure Share where
  module_ : Nat
  status : Nat
  detail : Word
  charge : Nat
  records : List (Nat × Nat)
  fin : Bool
  deriving DecidableEq, Repr

/-- A step that is admitted, fires, or waits for its completion. -/
structure Step where
  entry : Entry
  /-- This module leads the partition at the admission, and so writes the completion (R484, R493). -/
  lead : Bool
  /-- Partition time of admission. -/
  start : Nat
  /-- Status code and DETAIL of an outcome already decided, and the time of the decision. -/
  outcome : Option (Nat × Word)
  ended : Nat
  proof : Bool
  /-- The step carries the PLATE_DEFECT warning. -/
  warned : Bool
  records : List Rec
  tokens : List Nat
  /-- Batch bytes received so far by a member. -/
  batch : List Byte
  /-- Checks 6 to 15 are done; the batch is delivered. -/
  checked : Bool
  delivered : Bool
  /-- Record whose pages are being gathered, whether its gathering has reached step 2 of R316, and the partition time at which the
  gathering began (R323). -/
  gather : Nat
  reclaim : Bool
  gatherAt : Nat
  /-- The site of the first operand that the flip into the step's first section discarded (R230, R254). -/
  flipOrphan : Option Nat
  /-- KV_CTL as the delivery found it: LN7 mode, and the format of new frames (R324). -/
  ln7 : Bool
  pageFmt : Nat
  /-- Rows of the run: plate and section. -/
  rows : List (Nat × Nat)
  /-- Current row, once the first section has been entered; the last section has drained. -/
  row : Option Nat
  drained : Bool
  charge : Nat
  /-- Partition time from which CU firing ticks are counted. -/
  mark : Nat
  /-- Histogram by 512 times routed layer plus expert: counts packed as in R344. -/
  hist : Tab Nat
  layers : Nat
  dropped : Nat
  deferred : Nat
  /-- Operand slots that appends have written: keyed by token slot, layer, half and slot in the position. -/
  appended : List Nat
  /-- Those whose writes HBM has accepted (R304, R308). -/
  landed : List Nat
  shares : List Share
  /-- The failing status that a record had first, of those of several modules (R276, R476). -/
  first : Tab Nat
  /-- CONTROL: results so far. -/
  results : List Nat
  /-- CONTROL: blocks of a LOOKUP already walked. -/
  posn : Nat
  /-- The unit whose stall was the first when an abort halted the step (R278). -/
  stuck : Option Nat
  deriving DecidableEq, Repr

/-- A step at admission. -/
def Step.new (e : Entry) (lead : Bool) (t : Nat) : Step :=
  ⟨e, lead, t, none, 0, false, false, [], [], [], false, false, 0, false, 0, none, false, 0, [], none, false, 0, t, [], 0, 0, 0, [], [], [], [], [], 0, none⟩

/-- A section entry of a plate (R235). -/
structure Section where
  carry : Nat
  /-- Shape-map entries 0 to 14. -/
  shapes : List Nat
  deriving DecidableEq, Repr

/-- The plate-wide part of a store (R232 to R236). -/
structure Plate where
  edition : Nat
  plate : Nat
  stall : Nat
  sections : List Section
  /-- SPILL of the eight dies. -/
  spill : List Nat
  deriving DecidableEq, Repr

/-- The expert dispatcher's work for a partition (R333 to R339, R469, R470). -/
structure Disp where
  /-- Candidate lists of the layer: token slot, site, list. -/
  lists : List (Nat × Nat × List (Nat × Nat))
  /-- Sites that have ended the layer's input. -/
  ended : List Nat
  /-- Routed layers decided in the step. -/
  layer : Nat
  /-- The place of the layer among those of all partitions whose input has ended and that have not been decided, from 1 on; 0
  while the input has not ended (R347). -/
  turn : Nat
  /-- Operands that wait to enter an SU: site, local input slot, operand. -/
  owed : List (Nat × Nat × Operand)
  /-- Pairs delivered: keyed by site, layer and pass. -/
  pairs : Tab Nat
  /-- Modules whose END has arrived, keyed by layer and pass. -/
  ends : Tab (List Nat)
  /-- Route words to be dispatched that have not left yet, keyed by layer and pass. -/
  due : Tab Nat
  deriving DecidableEq, Repr

def Disp.reset : Disp := ⟨[], [], 0, 0, [], [], [], []⟩

/-- A node of a collective round (R473 to R475). -/
structure Coll where
  key : Nat
  /-- Words of the node by word offset: 16 FP32 lanes or raw bytes. -/
  words : Tab Line
  /-- Word offsets written by this module's section. -/
  own : List Nat
  /-- The module has closed its contribution; END UP has been sent. -/
  closed : Bool
  sentUp : Bool
  /-- Children whose END UP has arrived. -/
  ends : List Nat
  /-- The result by word offset, and whether the round has ended. -/
  result : Tab Line
  down : Bool
  deriving DecidableEq, Repr

/-- A plate load in progress (R242): edition, plate, the ledger index and admission time of the step that asked for it, and the
load's start. -/
structure Load where
  edition : Nat
  plate : Nat
  step : Nat × Nat
  start : Nat
  deriving DecidableEq, Repr

end Sys2Proof.Machine
end

