-- ==== Sys2Proof/Machine/State.lean ====
section
/-! DEFINITION. State: everything the manual gives the module, as plain data. -/

namespace Sys2Proof.Machine

open Sys2Proof

/-- Why a step stops. No command of the table stops: the manual gives each one an effect, so the type has the one
reason that no command raises and that keeps the type inhabited. -/
inductive Fault where
  /-- Raised by no command; safe. -/
  | none
  deriving DecidableEq, Repr

/-- Why a command has no meaning. -/
inductive Refusal where
  /-- The command has no meaning in this model yet: raised by its arm of exec; safe. -/
  | notModelled (mnemonic : String)
  deriving DecidableEq, Repr

/-- The registers of BAR0 by address (R10, R32): the copy that host reads of RO, RW and W1C fields see, and the
active, staged and pending copies of RWS fields. -/
structure Regs where
  val : Tab Word
  act : Tab Word
  stg : Tab Word
  pnd : Tab Word
  deriving DecidableEq, Repr

/-- One partition instance. -/
structure Part where
  time : PTime
  faults : List FaultEntry
  faultQ : List FaultRec
  dbg : Debug
  /-- Requests to other modules without a response yet. -/
  reqs : List Request
  /-- Firings that the pacer's bucket holds (R512). -/
  tokens : Nat
  /-- TAIL of the line that the module holds Shared; none without a copy (R418). -/
  tail : Option Nat
  /-- The engine is awake for the tail line; a pending wake is held (R420, R421). -/
  awake : Bool
  wake : Bool
  /-- A fetch in progress, up to this TAIL (R420). -/
  fetchTo : Option Nat
  fetched : List Entry
  /-- STEP_DATA of entries that are not admitted yet, by ledger index: no order holds between it and STEP_DESC (R458). -/
  early : Tab (List Byte)
  admitted : Option Step
  firing : Option Step
  /-- The two stores' plates and a load in progress. -/
  front : Option Plate
  back : Option Plate
  load : Option Load
  /-- The pool pages of the front plate's queue extensions, by 128 times site plus descriptor; none while the front plate has no
  extension pages (R246, R253). -/
  extended : Option (Tab (List Nat))
  /-- End of the switch or flip that is in progress, in partition time (R227, R229, R246). -/
  hold : Option Nat
  /-- Partition time of the last progress of a unit (R107). -/
  progress : Nat
  deficit : Int
  /-- Namespace keys by namespace (R288). -/
  keys : Tab (Option Nat)
  /-- Page headers by pool page and frame-table entries: pages by layer (R298, R300). -/
  pages : Tab PageHdr
  frames : Tab (List Nat)
  /-- Free swap slots and records are those not listed (R433): slots in use, and records in use with their slots. -/
  swapSlots : List Nat
  swapFrames : Tab (List Nat)
  /-- Bits [31:24] of the token IDs of a swapped block, by record, where some are not zero: the header copy does not hold them
  (R312). -/
  swapHigh : Tab (List Nat)
  /-- Pages of swapped frames that have still to be written to host memory: pool page and swap slot, in order. -/
  swapping : List (Nat × Nat)
  /-- DIRTY pool pages in the order of their release (R317). -/
  zeroQ : List Nat
  /-- Module page by partition page in HBM (R427), ages of movable page-tiles, pages of the segments' reservations. -/
  map : Tab (Option Nat)
  ages : Tab Nat
  reserve : Tab (List Nat)
  disp : Disp
  colls : List Coll
  /-- A kill is under way: page-tiles still to be zeroed (R537). -/
  dying : List Nat
  /-- Pool pages that the spill reserve sets aside (R253). -/
  spill : List Nat
  /-- The host has written the partition's trace fields since the last COMMIT that carried them; such a COMMIT waits for its boundary
(R67). -/
  traceSet : Bool
  traceGo : Bool
  /-- What the variant window shows (R353): the edition and the sets of the 64 groups of the step entered last. -/
  window : Option (Nat × List (Option Nat))
  deriving DecidableEq, Repr

/-- A partition before its first formation. -/
def Part.reset : Part :=
  ⟨PTime.reset, [], [], Debug.reset, [], 65536, none, false, false, none, [], [], none, none, none, none, none, none, none, 0, 0,
    [], [], [], [], [], [], [], [], [], [], [], Disp.reset, [], [], [], false, false, none⟩

/-- The module. -/
structure State where
  pending : List Instr
  out : List Out
  /-- Module time (R46). -/
  now : Word
  /-- Free values used so far (assumption log 3); the model's own field. -/
  free : Nat
  regs : Regs
  parts : Tab Part
  sites : Tab Site
  hbm : Hbm
  flash : Flash
  seqs : Tab Seq
  /-- Block lists, keyed 1,024 times sequence plus block (R301). -/
  blocks : Tab Nat
  /-- The prefix directory, keyed 8 times set plus way (R282). -/
  dir : Tab (Option DirEntry)
  /-- Trace queues by die and SEQ by source (R64, R66). -/
  traceQ : Tab (List TraceRec)
  traceSeq : Tab Nat
  hubWait : List HubReq
  /-- Reads and writes of other modules that wait for a page-tile or for a die's link, with their port (R29, R429, R465). -/
  hubMsgs : List (Nat × Msg)
  /-- Messages of the hub that wait for the link to the die of their port (R18, R29). -/
  hubOut : List (Nat × Msg)
  /-- Transfers of the swap path in the order of request (R434), by partition: a swap-out's slot, 2^32 plus the sequence of a swap-in, 2^33
  plus the page-tile of a migration. One that is no longer wanted is passed over. -/
  swapPath : List (Nat × Nat)
  bbox : BBox
  sealUnit : Seal
  power : Power
  mgmt : Mgmt
  ports : Tab Port
  host : HostPort
  deriving DecidableEq, Repr

/-- The module right after power is first applied and before start-up: registers and stores at the values of their
tables, memory with nothing listed, the queue of commands empty. -/
def State.reset : State :=
  { pending := [], out := [], now := 0, free := 0, regs := ⟨[], [], [], []⟩, parts := [], sites := [],
    hbm := Hbm.reset, flash := Flash.reset, seqs := [], blocks := [], dir := [], traceQ := [], traceSeq := [],
    hubWait := [], hubMsgs := [], hubOut := [], swapPath := [], bbox := BBox.reset, sealUnit := Seal.reset, power := Power.reset, mgmt := Mgmt.reset, ports := [],
    host := HostPort.reset }

end Sys2Proof.Machine
end

