-- ==== Sys2Proof/Machine/Ops.lean ====
section
/-! DEFINITION. The named operations over registers, outputs, interrupts, partitions, the black box, fault reports and
messages that every family of commands shares. -/

namespace Sys2Proof

/-- The BAR0 address of a register: its first instance plus the strides of its indices (R25). -/
def Rg.at (r : Rg) (ix : List Nat) : Nat :=
  r.spec.addr + (List.zipWith (fun d i => d.1 * i) r.spec.dims ix).foldl (· + ·) 0

/-- The indices that an offset within a repeated register spells, widest stride first. -/
def locateDims : List (Nat × Nat) → Nat → Option (List Nat)
  | [], d => if d = 0 then some [] else none
  | (st, c) :: t, d => if d / st < c then (locateDims t (d % st)).map (d / st :: ·) else none

/-- The indices of a register at an address, where the address is one of its instances. -/
def Rg.locate (r : Rg) (a : Nat) : Option (List Nat) :=
  if a < r.spec.addr then none else locateDims r.spec.dims (a - r.spec.addr)

/-- The register at an address among some registers. -/
def locateIn : List Rg → Nat → Option (Rg × List Nat)
  | [], _ => none
  | r :: t, a => match r.locate a with
    | some ix => some (r, ix)
    | none => locateIn t a

/-- The register at a BAR0 address (R26). -/
def regAt (a : Nat) : Option (Rg × List Nat) := locateIn Rg.all a

/-- The reset value at an address of fields that are not RWS (R16). -/
def valReset (a : Nat) : Word :=
  match locateIn Rg.withReset a with
  | some (r, _) => BitVec.ofNat 64 r.spec.rst &&& ~~~(BitVec.ofNat 64 r.spec.rws)
  | none => 0

/-- The reset value at an address of RWS fields, in all three copies (R16, R32). -/
def rwsReset (a : Nat) : Word :=
  match locateIn Rg.withReset a with
  | some (r, _) => BitVec.ofNat 64 r.spec.rst &&& BitVec.ofNat 64 r.spec.rws
  | none => 0

end Sys2Proof

namespace Sys2Proof.Machine

open Sys2Proof

/-! ### Field updates -/

/-- Replaces the power controller's state. -/
def State.setPower (s : State) (x : Power) : State := { s with power := x }

/-- Replaces the host port's state. -/
def State.setHost (s : State) (x : HostPort) : State := { s with host := x }

/-- Replaces the management state. -/
def State.setMgmt (s : State) (x : Mgmt) : State := { s with mgmt := x }

/-- Replaces the seal unit's state. -/
def State.setSeal (s : State) (x : Seal) : State := { s with sealUnit := x }

/-- Replaces the black box. -/
def State.setBBox (s : State) (x : BBox) : State := { s with bbox := x }

/-- Replaces the HBM. -/
def State.setHbm (s : State) (x : Hbm) : State := { s with hbm := x }

/-- Replaces the flash library. -/
def State.setFlash (s : State) (x : Flash) : State := { s with flash := x }

/-- Replaces the sequence table. -/
def State.setSeqs (s : State) (x : Tab Seq) : State := { s with seqs := x }

/-- Replaces the block lists. -/
def State.setBlocks (s : State) (x : Tab Nat) : State := { s with blocks := x }

/-- Replaces the prefix directory. -/
def State.setDir (s : State) (x : Tab (Option DirEntry)) : State := { s with dir := x }

/-- Replaces the registers. -/
def State.setRegs (s : State) (x : Regs) : State := { s with regs := x }

/-- Replaces the trace queues. -/
def State.setTraceQ (s : State) (x : Tab (List TraceRec)) : State := { s with traceQ := x }

-- Assumption log 11 (DESIGN CHOICE).
/-- Appends outputs. -/
def State.emits (s : State) (o : List Out) : State := { s with out := s.out ++ o }

/-! ### Registers -/

/-- The stored word of RO, RW and W1C fields. -/
def State.rv (s : State) (r : Rg) (ix : List Nat) : Word := tabGet valReset s.regs.val (r.at ix)

/-- The active copy of RWS fields (R32). -/
def State.ra (s : State) (r : Rg) (ix : List Nat) : Word := tabGet rwsReset s.regs.act (r.at ix)

/-- The staged copy of RWS fields (R32). -/
def State.rs (s : State) (r : Rg) (ix : List Nat) : Word := tabGet rwsReset s.regs.stg (r.at ix)

/-- The pending copy of RWS fields (R32). -/
def State.rp (s : State) (r : Rg) (ix : List Nat) : Word := tabGet rwsReset s.regs.pnd (r.at ix)

/-- Stores the word of RO, RW and W1C fields. -/
def State.setv (s : State) (r : Rg) (ix : List Nat) (w : Word) : State :=
  s.setRegs { s.regs with val := tabSet valReset s.regs.val (r.at ix) w }

/-- Stores the staged copy. -/
def State.sets (s : State) (r : Rg) (ix : List Nat) (w : Word) : State :=
  s.setRegs { s.regs with stg := tabSet rwsReset s.regs.stg (r.at ix) w }

/-- Stores the active, staged and pending copies at once (R13). -/
def State.setAll (s : State) (r : Rg) (ix : List Nat) (w : Word) : State :=
  s.setRegs { s.regs with
      act := tabSet rwsReset s.regs.act (r.at ix) w
      stg := tabSet rwsReset s.regs.stg (r.at ix) w
      pnd := tabSet rwsReset s.regs.pnd (r.at ix) w }

/-- A field of RO, RW or W1C access. -/
def State.fv (s : State) (f : Fld) (ix : List Nat) : Nat := f.get (s.rv f.reg ix)

/-- The active copy of an RWS field. -/
def State.fa (s : State) (f : Fld) (ix : List Nat) : Nat := f.get (s.ra f.reg ix)

/-- The pending copy of an RWS field. -/
def State.fp (s : State) (f : Fld) (ix : List Nat) : Nat := f.get (s.rp f.reg ix)

/-- Sets a field of RO, RW or W1C access. -/
def State.setf (s : State) (f : Fld) (ix : List Nat) (n : Nat) : State :=
  s.setv f.reg ix (f.put (s.rv f.reg ix) n)

/-- A counter register, 48 bits, wraps (R110). -/
def State.bump (s : State) (r : Rg) (ix : List Nat) (k : Nat) : State :=
  s.setv r ix (BitVec.ofNat 64 (((s.rv r ix).toNat + k) % 2 ^ 48))

/-- Restores every register of an address range to its reset values, in every copy. -/
def State.resetRange (s : State) (lo hi : Nat) : State :=
  s.setRegs ⟨tabClear s.regs.val lo hi, tabClear s.regs.act lo hi, tabClear s.regs.stg lo hi,
    tabClear s.regs.pnd lo hi⟩

/-- A fresh number for a value the manual leaves open: the counter of State, advanced. -/
def State.fresh (s : State) : State := { s with free := s.free + 1 }

/-! ### Outputs and interrupts -/

-- Assumption log 11 (DESIGN CHOICE).
/-- Emits one output. -/
def State.emit (s : State) (o : Out) : State := s.emits [o]

/-- The host link is in L0. -/
def State.linkUp (s : State) : Bool := s.fv .hostLinkStatusUp [] == 1

-- Assumption log 125 (PRESUMED), 126 (DEDUCED).
/-- Sends an MSI-X vector, or keeps its pending bit while masked, disabled or out of L0 (R425, R426). -/
def State.msix (s : State) (v : Nat) : State :=
  if s.linkUp && s.host.msixOn && !s.host.masked.contains v then s.emit (.msix v)
  else if s.host.msixPend.contains v then s
  else s.setHost { s.host with msixPend := s.host.msixPend ++ [v] }

-- Assumption log 153 (DEDUCED).
/-- ALERT_N is asserted: an enabled source of HUB.ALERT is set (R582). -/
def State.alertAsserted (s : State) : Bool :=
  getBits (s.rv .hubAlert []) 5 0 &&& getBits (s.rv .hubAlert []) 13 8 != 0

-- Assumption log 153 (DEDUCED).
/-- Sets a source of HUB.ALERT and raises the in-band interrupt when ALERT_N newly asserts (R567, R582). -/
def State.alert (s : State) (f : Fld) : State :=
  let t := s.setf f [] 1
  if t.alertAsserted && !s.alertAsserted then t.emit (.ibi 1) else t

/-- Sets a bit of POWER.EVENTS: MSI-X vector 33 and the POWER alert (R524, R582). -/
def State.powerEvent (s : State) (f : Fld) : State := ((s.setf f [] 1).alert .hubAlertPower).msix 33

/-- Sends vector 35 for a LINK_ERR bit, or keeps it waiting for L0 and MSI-X (R584). -/
def State.linkErr (s : State) (f : Fld) : State :=
  if s.fv f [] = 1 then s
  else
    let t := s.setf f [] 1
    if t.linkUp && t.host.msixOn then t.msix 35
    else t.setHost { t.host with linkErrWait := t.host.linkErrWait.filter (fun b => b != f.lo) ++ [f.lo] }

/-- An event message to the receiver that SetEventReceiver named (R568). -/
def State.platformEvent (s : State) (sensor value : Nat) : State :=
  match s.mgmt.receiver with
  | some (ep, eid) => s.emit (.mctp ep 1 (leBytes 1 eid ++ leBytes 1 sensor ++ leBytes 1 value))
  | none => s

/-- Sets HUB.BOOT.STAGE, with its alert and its state-sensor event (R568, R582). -/
def State.setStage (s : State) (n : Nat) : State :=
  if s.fv .hubBootStage [] = n then s
  else ((s.setf .hubBootStage [] n).alert .hubAlertBoot).platformEvent 2 n

/-! ### Partitions -/

/-- A partition instance. -/
def State.part (s : State) (p : Nat) : Part := tabGet (fun _ => Part.reset) s.parts p

/-- Stores a partition instance. -/
def State.setPart (s : State) (p : Nat) (x : Part) : State :=
  { s with parts := tabSet (fun _ => Part.reset) s.parts p x }

-- Assumption log 24 (DESIGN CHOICE).
/-- Changes the time line of a partition. -/
def State.setTime (s : State) (p : Nat) (x : PTime) : State := s.setPart p { s.part p with time := x }

/-- The partition is formed: PART_STATUS.ACTIVE (R483, R536). -/
def State.formed (s : State) (p : Nat) : Bool := decide (p < 32) && s.fv .partStatusActive [p] == 1

/-- The module leads the partition. -/
def State.isLead (s : State) (p : Nat) : Bool := s.fv .partStatusIsLead [p] == 1

/-- The module's index in the partition (R481). -/
def State.coord (s : State) (p : Nat) : Nat := s.fa .partIdCoord [p]

/-- The partition's lead. -/
def State.lead (s : State) (p : Nat) : Nat := s.fa .partIdLead [p]

/-- The partition's tag. -/
def State.ptag (s : State) (p : Nat) : Nat := s.fa .partIdPtag [p]

/-- The partition's epoch. -/
def State.epoch (s : State) (p : Nat) : Nat := s.fv .partEpochEpoch [p]

/-- A module index is a member (R482). -/
def State.isMember (s : State) (p m : Nat) : Bool := (s.ra .partMembers [p, m / 64]).toNat.testBit (m % 64)

/-- The members of the partition, ascending. -/
def State.members (s : State) (p : Nat) : List Nat :=
  (List.range 64).flatMap (fun k =>
    let w := (s.ra .partMembers [p, k]).toNat
    (List.range 64).filterMap (fun j => if w.testBit j then some (64 * k + j) else none))

/-- The partition has members besides this module. -/
def State.spans (s : State) (p : Nat) : Bool := (s.members p).any (fun m => m != s.coord p)

/-- Partition time (R47). -/
def State.pnow (s : State) (p : Nat) : Nat := (s.now + (s.part p).time.offset).toNat

/-- The formed partition with a tag, lowest number first. -/
def State.partOfTag (s : State) (tag : Nat) : Option Nat := firstBelow 32 (fun p => s.formed p && s.ptag p == tag)

/-- The active rectangle of a partition, in cells: CX, CY, CW, CH (R502). -/
def State.rect (s : State) (p : Nat) : Nat × Nat × Nat × Nat :=
  (s.fa .partCellsCx [p], s.fa .partCellsCy [p], s.fa .partCellsCw [p], s.fa .partCellsCh [p])

/-- A site index lies in a rectangle of cells of 8 by 8 sites. -/
def inRect (r : Nat × Nat × Nat × Nat) (site : Nat) : Bool :=
  let cx := site % 128 / 8
  let cy := site / 128 / 8
  decide (site < 6144) && decide (r.1 ≤ cx) && decide (cx < r.1 + r.2.2.1) && decide (r.2.1 ≤ cy) &&
    decide (cy < r.2.1 + r.2.2.2)

/-- The partition that owns a site: SITE.ID.OWNED and PART (R110). -/
def State.ownerOf (s : State) (site : Nat) : Option Nat :=
  if s.fv .siteIdOwned [site] = 1 then some (s.fv .siteIdPart [site]) else none

/-- The sites of a rectangle of cells, row by row. -/
def rectSites (r : Nat × Nat × Nat × Nat) : List Nat :=
  (List.range (8 * r.2.2.2)).flatMap (fun y =>
    (List.range (8 * r.2.2.1)).map (fun x => (8 * r.2.1 + y) * 128 + (8 * r.1 + x)))

/-- The sites of a partition, in ascending index. -/
def State.sitesOf (s : State) (p : Nat) : List Nat :=
  (rectSites (s.rect p)).filter (fun i => s.ownerOf i == some p)

/-- The fabric die of a site: columns of 32, rows of 24 (R19). -/
def dieOf (site : Nat) : Nat := site % 128 / 32 + 4 * (site / 128 / 24)

/-- The fabric half-die domain of a site (R507). -/
def domainOfSite (site : Nat) : Nat := 2 * dieOf site + (if site % 128 % 32 < 16 then 0 else 1)

/-- A domain is powered and usable (R508). -/
def State.domainOn (s : State) (d : Nat) : Bool := (s.rv .powerDomainOn []).toNat.testBit d

/-- The UCIe link of a fabric die carries hub traffic: the die's periphery domain is on and the link is UP (R18, R29). -/
def State.dieUp (s : State) (die : Nat) : Bool :=
  decide (die < 8) && s.domainOn (16 + die) && s.fv .hubD2dUp [die] == 1

/-- The fabric dies that a rectangle of cells covers. -/
def diesOf (r : Nat × Nat × Nat × Nat) : List Nat :=
  (List.range 8).filter (fun k =>
    decide (4 * (k % 4) < r.1 + r.2.2.1) && decide (r.1 < 4 * (k % 4) + 4) &&
      decide (3 * (k / 4) < r.2.1 + r.2.2.2) && decide (r.2.1 < 3 * (k / 4) + 3))

-- Assumption log 182 (DEDUCED).
/-- Hub traffic reaches every fabric die of a partition (R18, R29). -/
def State.diesUp (s : State) (p : Nat) : Bool := (diesOf (s.rect p)).all s.dieUp

/-- The edges on the way of a memory request from a die to another one: along the row first, then to the other row
(R361). -/
def memPath (a b : Nat) : List Nat :=
  ((List.range (max (a % 4) (b % 4) - min (a % 4) (b % 4))).map (fun i => 3 * (a / 4) + min (a % 4) (b % 4) + i)) ++
    (if a / 4 = b / 4 then [] else [6 + b % 4])

/-- The memory links between two dies carry a request and its response (R30, R361). -/
def State.memUp (s : State) (a b : Nat) : Bool := (memPath a b).all (fun e => s.fv .hubEdgeMemUp [e] == 1)

/-- The module state of R514: 0 RUN, 1 BRAKE, 2 PARK, 3 STOP, 4 TRIP. -/
def State.powerState (s : State) : Nat := s.fv .powerPwrStatusState []

/-! ### Sites -/

/-- A site's units and stores. -/
def State.site (s : State) (i : Nat) : Site := tabGet (fun _ => Site.reset) s.sites i

/-- Stores a site's units and stores. -/
def State.setSite (s : State) (i : Nat) (x : Site) : State :=
  { s with sites := tabSet (fun _ => Site.reset) s.sites i x }

/-- Stores a site's compute unit. -/
def State.setCu (s : State) (i : Nat) (x : Cu) : State := s.setSite i { s.site i with cu := x }

/-- Stores a site's switch unit. -/
def State.setSu (s : State) (i : Nat) (x : Su) : State := s.setSite i { s.site i with su := x }

/-- Stores a site's memory unit. -/
def State.setMu (s : State) (i : Nat) (x : Mu) : State := s.setSite i { s.site i with mu := x }

/-- The site holds a memory unit: x + y is odd (R73). -/
def isMu (site : Nat) : Bool := (site % 128 + site / 128) % 2 == 1

/-- The neighbour of a site: 0 north, 1 east, 2 south, 3 west (R73); none off the array. -/
def neighbour (site d : Nat) : Option Nat :=
  let x := site % 128
  let y := site / 128
  match d with
  | 0 => if y = 0 then none else some (site - 128)
  | 1 => if x = 127 then none else some (site + 1)
  | 2 => if y = 47 then none else some (site + 128)
  | _ => if x = 0 then none else some (site - 1)

/-- The direction of the return path. -/
def opposite (d : Nat) : Nat := (d + 2) % 4

/-- The switch link between a site and its neighbour in a direction lies within a die, or has passed its start-up
self-test (R28, R30): bit i of SW_FAIL is the link at position i along the die edge. -/
def State.switchLink (s : State) (site d : Nat) : Bool :=
  match neighbour site d with
  | none => false
  | some n =>
    let a := min (dieOf site) (dieOf n)
    if dieOf site = dieOf n then true
    else if d % 2 = 1 then !(s.fv .hubEdgeSwFail [3 * (a / 4) + a % 4]).testBit (site / 128 % 24)
    else !(s.fv .hubEdgeSwFail [6 + a % 4]).testBit (site % 128 % 32)

/-! ### Missed accesses (R27, R29) -/

/-- The switched domain that holds a register; none for the always-on blocks (R20, R25, R507). -/
def domainOfAddr (a : Nat) : Option Nat :=
  if 0x8000000 ≤ a ∧ a < 0x9800000 then some (domainOfSite ((a - 0x8000000) / 0x1000))
  else if 0x1000000 ≤ a ∧ a < 0x1800000 then some (16 + (a - 0x1000000) / 0x100000)
  else if 0x2000000 ≤ a ∧ a < 0x2100000 then some (24 + (a - 0x2000000) / 0x10000)
  else if 0x100000 ≤ a ∧ a < 0x200000 then some 40
  else if 0x200000 ≤ a ∧ a < 0x300000 then some 41
  else none

-- Assumption log 17 (DEDUCED).
/-- The fabric die that holds a register block (R17). -/
def dieOfAddr (a : Nat) : Option Nat :=
  if 0x8000000 ≤ a ∧ a < 0x9800000 then some (dieOf ((a - 0x8000000) / 0x1000))
  else if 0x1000000 ≤ a ∧ a < 0x1800000 then some ((a - 0x1000000) / 0x100000)
  else if 0x2000000 ≤ a ∧ a < 0x2100000 then some ((a - 0x2000000) / 0x10000 / 2)
  else none

-- Assumption log 17 (DEDUCED).
/-- The domain that an access misses: the block's own domain while it is off, else the periphery domain of a die whose link
to the hub is down (R27, R29). -/
def State.missed (s : State) (a : Nat) : Option Nat :=
  match domainOfAddr a with
  | none => none
  | some d =>
    if s.domainOn d = false then some d
    else match dieOfAddr a with
      | some k => if s.fv .hubD2dUp [k] = 1 then none else some (16 + k)
      | none => none

-- Assumption log 17 (DEDUCED).
/-- Records a missed access in HUB.DOMAIN_MISS (R27). -/
def State.noteMiss (s : State) (a d : Nat) : State :=
  if s.fv .hubDomainMissValid [] = 1 then
    s.setf .hubDomainMissCount [] (satAdd (s.fv .hubDomainMissCount []) 1 0xFFFF)
  else s.setv .hubDomainMiss [] (BitVec.ofNat 64 (2 ^ 63 + d % 256 * 2 ^ 48 + 2 ^ 32 + a % 2 ^ 28))

/-- The base dies of a die's stacks are in self refresh: the module is parked or stopped, or the periphery domain is off; scrub,
refresh management and tile commands pause (R357, R516). -/
def State.selfRefresh (s : State) (die : Nat) : Bool := !s.domainOn (16 + die) || decide (2 ≤ s.powerState)

/-! ### Black box (R547 to R555) -/

/-- A payload from fields: byte offset, length, value. -/
def payloadOf (l : List (Nat × Nat × Nat)) : Nat :=
  l.foldl (fun a f => a + (f.2.2 % 256 ^ f.2.1) * 256 ^ f.1) 0

/-- A record of 64 bytes with its CRC (R551). -/
def bbRecord (ts wall seq boot typ cls flags payload : Nat) : Line :=
  let body := ts % 2 ^ 64 + (wall % 2 ^ 64) * 2 ^ 64 + (seq % 2 ^ 48) * 2 ^ 128 + (boot % 2 ^ 16) * 2 ^ 176 +
    (typ % 256) * 2 ^ 192 + (cls % 256) * 2 ^ 200 + (flags % 256) * 2 ^ 208 + (payload % 2 ^ 256) * 2 ^ 224
  BitVec.ofNat 512 (body + crc32c (leBytes 60 body) * 2 ^ 480)

-- Assumption log 188 (DESIGN CHOICE).
/-- WALL of a record of a partition: the wall-clock mapping, zero while both registers hold zero (R59, R551). A fraction of a
nanosecond is rounded down. -/
def State.wall (s : State) (p ts : Nat) : Nat :=
  let wts := (s.rv .timeWallTs [p]).toNat
  let wns := (s.rv .timeWallNs [p]).toNat
  if wts = 0 ∧ wns = 0 then 0
  else ((Int.ofNat wns + (Int.ofNat ts - Int.ofNat wts) / 16) % Int.ofNat (2 ^ 64)).toNat

-- Assumption log 161 (DEDUCED).
/-- Puts a record in the writer's queue, or counts it as lost where the queue is full (R555). -/
def State.bbPut (s : State) (p : Option Nat) (typ cls payload : Nat) : State :=
  if s.bbox.queue.length < 512 then
    let ts := match p with | some q => s.pnow q | none => s.now.toNat
    let wl := match p with | some q => s.wall q ts | none => 0
    let fl := match p with | some q => 128 + q % 32 | none => 0
    let r := bbRecord ts wl s.bbox.nextSeq s.bbox.boots typ cls fl payload
    let ff := decide (cls ≠ 0) && (s.ra .bboxBbCtl []).toNat.testBit cls
    s.setBBox { s.bbox with queue := s.bbox.queue ++ [(r, ff)], nextSeq := s.bbox.nextSeq + 1 }
  else
    let t := s.bump .bboxLost [] 1
    t.setBBox { t.bbox with lostNow := t.bbox.lostNow + 1 }

end Sys2Proof.Machine
end

