-- ==== Sys2Proof/Machine/Messages.lean ====
section
/-! DEFINITION. Sending, receiving, checking and forwarding messages, and the port's transmitter (R450 to R464). -/

namespace Sys2Proof.Machine

open Sys2Proof

/-- The virtual channel of a message type: 0 REQ, 1 RSP, 2 COLL, 3 MGMT (R462). -/
def vcOf (typ : Nat) : Nat :=
  if typ ∈ [0x07, 0x10, 0x12, 0x14, 0x16] then 0
  else if typ ∈ [0x11, 0x13, 0x15, 0x17] then 1
  else if typ ∈ [0x20, 0x21, 0x22] then 2
  else 3

/-- The bytes of a message: header, body, zeros to a multiple of 4 (R461). -/
def msgBytes (m : Msg) : List Byte :=
  leBytes 1 m.typ ++ leBytes 1 (m.hdr.status % 16 * 16 + bit01 m.hdr.fin) ++ leBytes 2 m.body.length ++
    leBytes 2 m.hdr.dst ++ leBytes 2 m.hdr.src ++ leBytes 2 m.hdr.ptag ++ leBytes 2 m.hdr.epoch ++
    leBytes 4 m.hdr.txn ++ m.body ++ List.replicate ((4 - m.body.length % 4) % 4) 0

/-- The length of a message on the fibre. -/
def msgLen (body : Nat) : Nat := 16 + (body + 3) / 4 * 4

/-- The port numbered as in R444: engine e drives 8e to 8e + 7. -/
def portIx (port : Nat) : List Nat := [port / 8, port % 8]

/-- A port's link layer. -/
def State.port (s : State) (q : Nat) : Port := tabGet (fun _ => Port.reset) s.ports q

/-- Stores a port's link layer. -/
def State.setPort (s : State) (q : Nat) (x : Port) : State :=
  { s with ports := tabSet (fun _ => Port.reset) s.ports q x }

/-- The state of a port: 0 DARK, 1 LOCK, 2 TRAIN, 3 UP, 4 HALF, 5 TEST, 6 DOWN. -/
def State.portState (s : State) (q : Nat) : Nat := s.fv .opticPortStateState (portIx q)

/-- The port carries flits: UP or HALF. -/
def State.portUp (s : State) (q : Nat) : Bool := s.portState q == 3 || s.portState q == 4

-- Assumption log 133 (DEDUCED).
/-- Cuts bytes into flit payloads of 244 bytes, the last one padded (R450, R451). -/
def flitCut : Nat → List Byte → List (List Byte)
  | 0, _ => []
  | _, [] => []
  | k + 1, bs => (bs.take 244 ++ List.replicate (244 - bs.length) 0) :: flitCut k (bs.drop 244)

-- Assumption log 133 (DEDUCED).
/-- The data flits of a message, still without SEQ. -/
def msgFlits (m : Msg) : List KeptFlit :=
  (flitCut 32 (msgBytes m)).map (fun c => ⟨0, vcOf m.typ, m.hdr.ptag, m.hdr.dst, c, 0⟩)

/-- The 256 bytes of a flit (R450): header, payload, CRC-32C. The header carries the port's ACK, NAK and CREDITS (R452, R453). -/
def Port.flit (x : Port) (idle : Bool) (seq vc : Nat) (payload : List Byte) : List Byte :=
  let credits := (List.range 4).foldl (fun n v => n + x.freed.getD v 0 % 256 * 2 ^ (8 * v)) 0
  let hdr := seq % 4096 * 2 ^ 52 + x.rxSeq % 4096 * 2 ^ 40 + bit01 x.naking * 2 ^ 39 + bit01 idle * 2 ^ 38 + vc % 4 * 2 ^ 36 + credits
  let body := leBytes 8 hdr ++ (payload ++ List.replicate 244 0).take 244
  body ++ leBytes 4 (crc32c body)

/-- A kept flit as it leaves the port. -/
def Port.dataFlit (x : Port) (f : KeptFlit) : List Byte := x.flit false f.seq f.vc f.payload

/-- Sends an idle flit, which carries the acknowledgement and the credits (R452, R453). -/
def State.sendIdle (s : State) (q : Nat) : State :=
  (s.setPort q { s.port q with unacked := 0 }).emit (.flit q ((s.port q).flit true 0 0 []))

-- Assumption log 133 (DEDUCED), 137 (DEDUCED).
/-- The waiting flits that can leave, in the order of each VC: they take their SEQ, spend a credit and are kept, up to 512
(R453, R456). The answer is the port, the flits sent and those that still wait. -/
def pumpWaiting : List KeptFlit → Port → List KeptFlit → List KeptFlit → Port × List KeptFlit × List KeptFlit
  | [], x, o, w => (x, o, w)
  | f :: t, x, o, w =>
    if w.all (fun e => e.vc != f.vc) && decide (0 < x.credits.getD f.vc 0) && decide (x.kept.length < 512) then
      let g := { f with seq := x.txSeq, sends := 1 }
      pumpWaiting t { x with kept := x.kept ++ [g], txSeq := (x.txSeq + 1) % 4096,
                             credits := x.credits.set f.vc (x.credits.getD f.vc 0 - 1) } (o ++ [g]) w
    else pumpWaiting t x o (w ++ [f])

-- Assumption log 137 (DEDUCED).
/-- Lets a port's transmitter send what it can, where the port carries flits; with 512 flits kept it sends an idle flit
(R453). -/
def State.pump (s : State) (q : Nat) : State :=
  if s.portUp q then
    match pumpWaiting (s.port q).waiting (s.port q) [] [] with
    | (y, o, w) =>
      let t := (s.setPort q { y with waiting := w, unacked := if o.isEmpty then y.unacked else 0 }).emits
        (o.map (fun f => Out.flit q (y.dataFlit f)))
      if !w.isEmpty && decide (512 ≤ y.kept.length) then t.sendIdle q else t
  else s

-- Assumption log 31 (DESIGN CHOICE).
/-- The port that a partition's route table names for a module (R486). -/
def State.route (s : State) (p m : Nat) : Option Nat :=
  let w := (s.ra .partRoute [p, m / 8]).toNat
  let b := w >>> (8 * (m % 8))
  if b.testBit 7 then some (b % 128) else none

-- Assumption log 31 (DESIGN CHOICE).
/-- Hands a message to a port's transmitter and counts it in MSG_TX. -/
def State.sendOn (s : State) (q : Nat) (m : Msg) : State :=
  let x := s.port q
  let t := (s.setPort q { x with waiting := x.waiting ++ msgFlits m }).emit (.msg q m)
  (t.bump .opticMsgTx [q / 8] 1).pump q

-- Assumption log 195 (DEDUCED).
/-- A message of the hub's serving engine and fault combining, which crosses the link to the die of its port (R18). -/
def hubMessage (typ : Nat) : Bool := decide (5 ≤ typ) && decide (typ ≤ 10)

-- Assumption log 195 (DEDUCED).
/-- Hands a message to a port; one of the hub waits while the link to the port's die is down, behind those that wait already (R18,
R29). -/
def State.sendVia (s : State) (q : Nat) (m : Msg) : State :=
  if hubMessage m.typ && (!s.dieUp (q / 16) || s.hubOut.any (fun e => e.1 == q)) then { s with hubOut := s.hubOut ++ [(q, m)] }
  else s.sendOn q m

-- Assumption log 195 (DEDUCED).
/-- The messages of the hub whose die's link carries traffic again leave, in order (R29). -/
def State.flushHub (s : State) : State :=
  s.hubOut.foldl (fun t e => t.sendVia e.1 e.2) { s with hubOut := [] }

/-- Sends a message of a partition toward its destination: by the route, or without a port to the module itself
(R486). Port number 128 in an output is the module's own message unit. A destination without a route is unreachable,
and the message is lost. -/
def State.send (s : State) (p typ dst : Nat) (fin : Bool) (status txn : Nat) (body : List Byte) : State :=
  let h : Hdr := { status := status, fin := fin, dst := dst, src := s.coord p, ptag := s.ptag p,
                   epoch := s.epoch p % 2 ^ 16, txn := txn }
  let m : Msg := { typ := typ, hdr := h, body := body }
  if dst = s.coord p then s.emit (.msg 128 m)
  else match s.route p dst with
    | some q => s.sendVia q m
    | none => s

/-- The next transaction number: taken from the free-value counter, which the answer echoes (R461). -/
def State.txn (s : State) : Nat := s.free % 2 ^ 32

/-- Takes a message's bytes out of the receive buffer of its port and VC and frees the flits they fill (R456). -/
def takeBytes : List Nat → Nat → Nat × List Nat
  | [], _ => (0, [])
  | b :: t, n => if b ≤ n then ((takeBytes t (n - b)).1 + 1, (takeBytes t (n - b)).2) else (0, (b - n) :: t)

/-- Frees the buffers of a port that a message of a VC fills. -/
def State.freeRx (s : State) (q typ body : Nat) : State :=
  if q < 128 then
    let x := s.port q
    let vc := vcOf typ
    let r := takeBytes (x.rx.getD vc []) (msgLen body)
    s.setPort q { x with rx := x.rx.set vc r.2, freed := x.freed.set vc ((x.freed.getD vc 0 + r.1) % 256) }
  else s

/-- A message received on a port counts in MSG_RX. -/
def State.countRx (s : State) (q : Nat) : State := if q < 128 then s.bump .opticMsgRx [q / 8] 1 else s

/-- A consumer takes a message from a port: counted in MSG_RX, buffers freed. -/
def State.consume (s : State) (q typ body : Nat) : State := (s.freeRx q typ body).countRx q

/-- Counts a discarded message at the engine it came through (R463). -/
def State.discardMsg (s : State) (q : Nat) : State := s.bump .opticMsgDiscard [(q % 128) / 8] 1

/-- What the checks of R463 say of a message. -/
inductive Accept where
  /-- The message belongs to this formed partition and epoch. -/
  | ok (p : Nat)
  /-- Its epoch differs: a request is answered STALE, every other message is discarded. -/
  | stale (p : Nat)
  /-- Discarded and counted. -/
  | bad
  deriving DecidableEq, Repr

/-- The checks of R463 on a message addressed to this module. -/
def State.accept (s : State) (h : Hdr) : Accept :=
  match s.partOfTag h.ptag with
  | none => .bad
  | some p =>
    if h.dst ≠ s.coord p ∨ s.isMember p h.src = false then .bad
    else if h.epoch ≠ s.epoch p % 2 ^ 16 then .stale p
    else .ok p

-- Assumption log 134 (DEDUCED).
/-- Receives a message that is no request: consumes it and runs its meaning where the checks of R463 accept it. -/
def State.receive (s : State) (q typ : Nat) (h : Hdr) (body : List Byte) (f : State → Nat → State) : State :=
  let t := s.consume q typ body.length
  match t.accept h with
  | .ok p => f t p
  | _ => t.discardMsg q

-- Assumption log 134 (DEDUCED).
/-- Receives a request of R463: an old epoch is answered with STATUS 5 (STALE). -/
def State.receiveReq (s : State) (q typ rsp : Nat) (h : Hdr) (body : List Byte) (f : State → Nat → State) : State :=
  let t := s.consume q typ body.length
  match t.accept h with
  | .ok p => f t p
  | .stale p => t.send p rsp h.src false 5 h.txn []
  | .bad => t.discardMsg q

/-- Receives a request that keeps its receive buffers until it is done (R217, R465): the meaning frees them. -/
def State.receiveKept (s : State) (q typ rsp : Nat) (h : Hdr) (body : List Byte) (f : State → Nat → State) : State :=
  let t := s.countRx q
  match t.accept h with
  | .ok p => f t p
  | .stale p => (t.freeRx q typ body.length).send p rsp h.src false 5 h.txn []
  | .bad => (t.freeRx q typ body.length).discardMsg q

end Sys2Proof.Machine
end

