-- ==== Sys2Proof/Machine/Faults.lean ====
section
/-! DEFINITION. The combining tree (R488), fault reports (R496 to R501) and black-box records that report (R554). -/

namespace Sys2Proof.Machine

open Sys2Proof

/-- The relative index of a module to a lead (R488). -/
def relIndex (m l : Nat) : Nat :=
  (m % 16 + 16 - l % 16) % 16 + 16 * ((m / 16 % 16 + 16 - l / 16 % 16) % 16) +
    256 * ((m / 256 % 16 + 16 - l / 256 % 16) % 16)

/-- The module of a relative index (R488). -/
def absIndex (r l : Nat) : Nat :=
  (r % 16 + l % 16) % 16 + 16 * ((r / 16 % 16 + l / 16 % 16) % 16) + 256 * ((r / 256 % 16 + l / 256 % 16) % 16)

/-- A number with its highest set bit cleared. -/
def clearTop (r : Nat) : Nat := if r = 0 then 0 else r - 2 ^ Nat.log2 r

/-- The candidate parents of a relative index, nearest first, down to the lead. -/
def candidates : Nat → Nat → List Nat
  | 0, _ => []
  | k + 1, r => if r = 0 then [] else clearTop r :: candidates k (clearTop r)

/-- The ancestors of a module that are members, its parent first and the lead last (R488). -/
def State.ancestorsOf (s : State) (p m : Nat) : List Nat :=
  let l := s.lead p
  ((candidates 13 (relIndex m l)).map (fun r => absIndex r l)).filter (fun a => a = l || s.isMember p a)

/-- This module's ancestors. -/
def State.ancestors (s : State) (p : Nat) : List Nat := s.ancestorsOf p (s.coord p)

/-- The members whose parent on the combining tree this module is (R488). -/
def State.treeChildren (s : State) (p : Nat) : List Nat :=
  (s.members p).filter (fun m => m ≠ s.coord p && (s.ancestorsOf p m).head? == some (s.coord p))

-- Assumption log 144 (DEDUCED).
/-- Writes PARENT, DEPTH and IS_LEAD of PART_STATUS, and LEAD and HOPS of PSYNC (R488, R493). -/
def State.setTree (s : State) (p : Nat) : State :=
  let anc := s.ancestors p
  let own := s.coord p
  let t := s.setf .partStatusParent [p] (anc.headD own)
  let t := t.setf .partStatusDepth [p] anc.length
  let t := t.setf .partStatusIsLead [p] (bit01 (own = s.lead p))
  let t := t.setf .timePsyncLead [p] (bit01 (own = s.lead p))
  t.setf .timePsyncHops [p] anc.length

/-- The body of a FAULT message (R462). -/
def faultBody (k : FaultKey) (count ts : Nat) : List Byte :=
  leBytes 2 k.suspect ++ leBytes 2 k.loc ++ leBytes 1 k.cls ++ [0, 0, 0] ++ leBytes 8 ts ++ leBytes 4 count

/-- The 32 bytes of a fault record as a number (R501). -/
def FaultRec.pack (r : FaultRec) : Nat :=
  payloadOf [(0, 2, r.key.suspect), (2, 2, r.key.loc), (4, 1, r.key.cls), (5, 1, r.confirm), (8, 8, r.firstTs),
    (16, 4, min r.count (2 ^ 32 - 1)), (20, 4, r.epoch), (24, 8, r.emitTs)]

-- Assumption log 207 (DESIGN CHOICE).
/-- Emits one fault record: FAULT_REC queue, black box and rack manager over management (R499, R569). -/
def State.emitFault (s : State) (p : Nat) (k : FaultKey) (confirm ts count : Nat) : State :=
  let r : FaultRec := ⟨k, confirm, ts, count, s.epoch p, s.pnow p⟩
  let x := s.part p
  let t := if x.faultQ.length < 16 then (s.setPart p { x with faultQ := x.faultQ ++ [r] }).alert .hubAlertFault
           else s.setf .partFaultQueueLost [p] 1
  (t.bbPut (some p) 0x60 k.cls r.pack).emit (.mctp 0 0x7F
    ([0x7F] ++ leBytes 4 Config.enterprise.toNat ++ [Config.faultCommand] ++ leBytes 32 r.pack))

/-- Sends a report or summary toward the lead: to the parent, or past a suspect or unreachable ancestor (R498). -/
def State.forwardFault (s : State) (p : Nat) (k : FaultKey) (count ts : Nat) : State :=
  let anc := s.ancestors p
  let usable := fun m => m ≠ k.suspect && (match s.route p m with | some q => s.portUp q | none => false)
  match anc.find? usable with
  | some m =>
    let t := if anc.head? = some m then s else s.setf .partStatusParentSkip [p] 1
    (t.send p 0x05 m false 0 t.txn (faultBody k count ts)).bump .partFaultSent [p] 1
  | none =>
    if anc.getLast? = some k.suspect then s.emitFault p k 0 ts count
    else s

/-- The entry of a key in a table. -/
def findFault (l : List FaultEntry) (k : FaultKey) : Option FaultEntry := l.find? (fun e => e.key = k)

/-- Replaces the entry of a key. -/
def putFault (l : List FaultEntry) (e : FaultEntry) : List FaultEntry :=
  l.map (fun x => if x.key = e.key then e else x)

/-- Sends a confirmation TIME_REQ to a suspect (R500). -/
def State.confirmReq (s : State) (p m : Nat) : State :=
  s.send p 0x03 m false 0 s.txn (leBytes 8 (s.pnow p))

/-- A module handles a report from itself or a child: R497, or R499 at the lead. -/
def State.faultIn (s : State) (p : Nat) (k : FaultKey) (count ts : Nat) : State :=
  let x := s.part p
  match findFault x.faults k with
  | some e =>
    if e.emitted then s.bump .partFaultLate [p] 1
    else
      let e' := { e with ts := min e.ts ts, added := e.added + count }
      (s.setPart p { x with faults := putFault x.faults e' }).bump .partFaultMerged [p] 1
  | none =>
    if s.isLead p then
      if x.faults.length < 64 then
        let self := decide (k.suspect = s.coord p)
        let e : FaultEntry := ⟨k, count, ts, 0, false, if self then some 0 else none, if self then 0 else 1, false⟩
        let t := s.setPart p { x with faults := x.faults ++ [e] }
        if self then t else t.confirmReq p k.suspect
      else (s.emitFault p k 0 ts count).bump .partFaultOverflow [p] 1
    else if x.faults.length < 64 then
      let e : FaultEntry := ⟨k, count, ts, 0, false, none, 0, false⟩
      (s.setPart p { x with faults := x.faults ++ [e] }).forwardFault p k count ts
    else (s.forwardFault p k count ts).bump .partFaultOverflow [p] 1

/-- Emits the record of an entry of the lead's table once its window and its confirmation have both ended (R499). -/
def State.tryEmit (s : State) (p : Nat) (k : FaultKey) : State :=
  let x := s.part p
  match findFault x.faults k with
  | some e =>
    match e.windowDone && !e.emitted, e.confirm with
    | true, some c =>
      (s.setPart p { x with faults := putFault x.faults { e with emitted := true } }).emitFault p k c e.ts
        (e.count + e.added)
    | _, _ => s
  | none => s

/-- Ends the confirmation of every open entry about a suspect with ALIVE (R500). -/
def State.confirmAlive (s : State) (p m : Nat) : State :=
  let x := s.part p
  let hit := x.faults.filter (fun e => e.key.suspect = m && e.confirm.isNone)
  let t := s.setPart p { x with faults := x.faults.map (fun e =>
    if e.key.suspect = m && e.confirm.isNone then { e with confirm := some 1 } else e) }
  hit.foldl (fun u e => u.tryEmit p e.key) t

/-- WHERE of a whole module, a site, a port (R496). -/
def whereModule : Nat := 0
def whereSite (site : Nat) : Nat := 0x4000 + site % 8192
def wherePort (port : Nat) : Nat := 0x8000 + port % 128

/-- A black-box record, and for a fault of a partition the report of R554 with its WHERE. -/
def State.bbWriteAt (s : State) (p : Option Nat) (typ cls payload loc : Nat) : State :=
  let t := s.bbPut p typ cls payload
  match p with
  | some q =>
    if cls ≠ 0 ∧ typ ≠ 0x60 ∧ s.formed q then t.faultIn q ⟨s.coord q, loc, cls⟩ 1 (s.pnow q) else t
  | none => t

/-- A black-box record whose report names the whole module. -/
def State.bbWrite (s : State) (p : Option Nat) (typ cls payload : Nat) : State :=
  s.bbWriteAt p typ cls payload whereModule

/-- A PARTITION black-box record (R553): 1 FORM, 2 BORDER, 3 EPOCH, 4 KILL, 5 SCRUBBED. -/
def State.partRecord (s : State) (p event : Nat) : State :=
  let r := s.rect p
  s.bbWrite (some p) 0x04 0 (payloadOf [(0, 1, event), (1, 1, r.1), (2, 1, r.2.1), (3, 1, r.2.2.1), (4, 1, r.2.2.2),
    (6, 2, s.lead p), (8, 4, s.epoch p), (12, 2, s.coord p), (14, 2, s.ptag p)])

end Sys2Proof.Machine
end

