-- ==== Sys2Proof/Machine/Abort.lean ====
section
/-! DEFINITION. Traces and stalls, and ending a step before its last section drains (R64 to R67, R105, R106, R108, R109,
R278, R476, R468). -/

namespace Sys2Proof.Machine

open Sys2Proof

/-- Status codes of R289. -/
abbrev Status.ok : Nat := 0x0000
abbrev Status.shapeOver : Nat := 0x0101
abbrev Status.entryInvalid : Nat := 0x0102
abbrev Status.kvFormat : Nat := 0x0201
abbrev Status.seqSwapped : Nat := 0x0202
abbrev Status.seqRecompute : Nat := 0x0203
abbrev Status.deferLimit : Nat := 0x0301
abbrev Status.linkLost : Nat := 0x0401
abbrev Status.epoch : Nat := 0x0402
abbrev Status.editionLost : Nat := 0x0501
abbrev Status.notResident : Nat := 0x0502
abbrev Status.hbmUncorrectable : Nat := 0x0601
abbrev Status.fabricStall : Nat := 0x0701
abbrev Status.plateDefect : Nat := 0x0702
abbrev Status.creditViolation : Nat := 0x0703
abbrev Status.powerPark : Nat := 0x0801
abbrev Status.killed : Nat := 0x0901

/-! ### Traces (R64 to R67) -/

-- Assumption log 53 (DEDUCED).
/-- A trace record of a site's unit: 0 CU, 1 MU, 2 SU; the TYPE's MASK bit and the enables of the site and the partition
decide whether it is produced (R66, R110). -/
def State.trace (s : State) (p site unit typ payload : Nat) : State :=
  let ctl := (s.ra .timeTraceCtl [p]).toNat
  if ctl.testBit 63 && ctl.testBit (typ / 8) && s.fa .siteCtlTraceEn [site] == 1 then
    let key := unit * 8192 + site
    let seq := tabGet (fun _ => 0) s.traceSeq key
    let r := s.pnow p + site * 2 ^ 64 + unit * 2 ^ 77 + (typ % 256) * 2 ^ 80 + (p % 32) * 2 ^ 88 + seq * 2 ^ 96 +
      s.coord p * 2 ^ 112 + (payload % 2 ^ 128) * 2 ^ 128
    let d := dieOf site
    let q := tabGet (fun _ => []) s.traceQ d
    let t := { s with traceSeq := tabSet (fun _ => 0) s.traceSeq key ((seq + 1) % 2 ^ 16) }
    if q.length < 4096 then
      { t with traceQ := tabSet (fun _ => []) t.traceQ d (q ++ [⟨p, BitVec.ofNat 256 r⟩]) }
    else t.setf .timeTraceDropCount [p] (satAdd (s.fv .timeTraceDropCount [p]) 1 (2 ^ 48 - 1))
  else s

/-! ### Stalls (R105 to R107) -/

-- Assumption log 53 (DEDUCED).
/-- Unit code of a site's own unit. -/
def unitOf (site : Nat) : Nat := bit01 (isMu site)

/-- Adds the ticks of a site's stall since its last stamp to the counter of the cause they count for (R105). -/
def State.countStall (s : State) (p site : Nat) : State :=
  match (s.site site).since with
  | some t => s.bump .siteStall [site, s.fv .siteStateCause [site]] (s.pnow p - t)
  | none => s

-- Assumption log 28 (DEDUCED), 166 (DEDUCED).
/-- Ends the stall of a site's unit at this time (R105); one that has lasted no tick leaves no trace. -/
def State.endStall (s : State) (p site : Nat) : State :=
  if s.fv .siteStateStalled [site] = 1 then
    let c := s.fv .siteStateCause [site]
    let t := (s.countStall p site).setf .siteStateStalled [site] 0
    let t := t.setSite site { t.site site with since := none, full := false }
    if (s.site site).since.isSome then t.trace p site (unitOf site) 0x09 c else t
  else s

-- Assumption log 28 (DEDUCED), 166 (DEDUCED).
/-- Begins a stall of a unit that has work (R105): STALL_TS takes the first stamp. Its cause shows with its first tick. -/
def State.beginStall (s : State) (p site : Nat) : State :=
  if s.fv .siteStateWork [site] = 1 then
    (s.setf .siteStateStalled [site] 1).setv .siteStallTs [site] (BitVec.ofNat 64 (s.pnow p))
  else s

-- Assumption log 28 (DEDUCED).
/-- The cause of a unit's stall as it stands at this tick (R105, R106). A stall that begins to count is traced with it;
where it changes, the ticks so far count for the cause before, and STALL_TS keeps the first stamp. -/
def State.recause (s : State) (p site cause : Nat) : State :=
  if s.fv .siteStateStalled [site] = 1 then
    let stamp : State → State := fun t => t.setSite site { t.site site with since := some (s.pnow p) }
    match (s.site site).since with
    | none => (stamp (s.setf .siteStateCause [site] cause)).trace p site (unitOf site) 0x08 cause
    | some _ =>
      if s.fv .siteStateCause [site] = cause then s
      else stamp ((s.countStall p site).setf .siteStateCause [site] cause)
  else s

/-- The transfer or stroke that a unit has ready to go finds no room at its output (R106). -/
def State.outputFull (s : State) (site : Nat) : State := s.setSite site { s.site site with full := true }

/-! ### Ending a step -/

/-- A field of a ledger entry: bytes `off` to `off + len - 1`, little-endian (R264). -/
def Entry.field (e : Entry) (off len : Nat) : Nat := bitsOf e.raw.toNat (8 * (off + len) - 1) (8 * off)

/-- KIND of an entry names operations of its own, not a step (R263). -/
def Entry.isControl (e : Entry) : Bool := e.field 0 2 / 2 % 8 == 1

/-- Compute units of a partition that have work (R105). -/
def State.workers (s : State) (p : Nat) : Nat :=
  ((s.sitesOf p).filter (fun i => !isMu i && s.fv .siteStateWork [i] == 1)).length

/-- Adds the CU firing ticks since the last count to the firing step's charge (R279). -/
def State.chargeUp (s : State) (p : Nat) : State :=
  match (s.part p).firing with
  | some x =>
    let t := s.pnow p
    s.setPart p { s.part p with firing := some { x with charge := x.charge + (t - x.mark) * s.workers p, mark := t } }
  | none => s

/-- An engine without work: what an abort or a section's end leaves of it. -/
def Engine.idle (e : Engine) : Engine := { Engine.reset with desc := e.desc }

/-- A site after steps 2 and 3 of R108: match stores, steer buffers, slot FIFOs, requests and queue extensions are
empty; banks, buffers, accumulators and stores stand. -/
def Site.halt (x : Site) : Site :=
  { x with
    cu := { x.cu with stores := [[], [], [], []], waiting := none, ended := [], arrived := [] }
    su := { Su.reset with turn := x.su.turn, arrivals := x.su.arrivals }
    mu := { x.mu with engines := x.mu.engines.map Engine.idle, waiters := [], reqs := x.mu.reqs.filter (fun r => r.who == 9), atoms := [], held := [],
                      appends := [], appending := false }
    since := none
    full := false }

-- Assumption log 78 (DEDUCED).
/-- The unit of a partition whose current stall began first. -/
def State.firstStall (s : State) (p : Nat) : Option Nat :=
  ((s.sitesOf p).filter (fun i => s.fv .siteStateStalled [i] == 1)).foldl (fun a i =>
    match a with
    | none => some i
    | some j => if (s.rv .siteStallTs [i]).toNat < (s.rv .siteStallTs [j]).toNat then some i else some j) none

-- Assumption log 78 (DEDUCED).
/-- Steps 2 and 3 of R108: halts the partition's units, whose stalls end with their work (R105), and empties
them, releases the HBM extension pages, and discards the dispatcher's decisions and collective rounds of the step (R348). -/
def State.haltFabric (s : State) (p : Nat) : State :=
  let t := (s.sitesOf p).foldl (fun u i =>
    let v := (u.site i).mu.held.foldl (fun w h => w.freeRx h.port 0x14 h.len) (u.endStall p i)
    (v.setSite i (v.site i).halt).setf .siteStateWork [i] 0) s
  t.setPart p { t.part p with extended := none, hold := none, disp := Disp.reset, colls := [], reqs := [] }

/-- A cause of abort decides a step's outcome at an instant: none stands yet, or it is a FABRIC_STALL at the instant of a
PLATE_DEFECT (R109). -/
def Step.takes (x : Step) (code at_ : Nat) : Bool :=
  match x.outcome with
  | none => true
  | some o => code == Status.fabricStall && o.1 == Status.plateDefect && x.ended == at_

/-- Gives a step its outcome; the first cause in the partition's event order stands (R109). -/
def Step.decide (x : Step) (code : Nat) (detail : Word) (at_ : Nat) : Step :=
  if x.takes code at_ then { x with outcome := some (code, detail), ended := at_ } else x

/-- A CONTROL entry completes with a code (R289). -/
def controlCode (code : Nat) : Bool := code == Status.epoch || code == Status.powerPark || code == Status.killed

/-- The body of STEP_ABORT (R462). -/
def abortBody (ledger code : Nat) (detail : Word) : List Byte :=
  leBytes 2 ledger ++ leBytes 2 code ++ [0, 0, 0, 0] ++ leBytes 8 detail.toNat

/-- The other members of a partition. -/
def State.others (s : State) (p : Nat) : List Nat := (s.members p).filter (fun m => m ≠ s.coord p)

/-- Reports an abort: a member to the lead, the lead to every other module (R468, R476). -/
def State.sendAbort (s : State) (p ledger code : Nat) (detail : Word) : State :=
  if s.isLead p then
    (s.others p).foldl (fun t m => t.send p 0x0A m false 0 t.txn (abortBody ledger code detail)) s
  else s.send p 0x0A (s.lead p) false 0 s.txn (abortBody ledger code detail)

-- Assumption log 78 (DEDUCED).
/-- Aborts the firing step by steps 2 to 5 of R108 with a code; nothing happens without one. The unit that stalled first is noted before
the halt ends the stalls, for a FABRIC_STALL of the same instant (R278). -/
def State.abortFiring (s : State) (p code : Nat) (detail : Word) : State :=
  match (s.part p).firing with
  | none => s
  | some x =>
    let t := if x.outcome.isSome then s else (s.chargeUp p).haltFabric p
    let y := (t.part p).firing.getD x
    let y := if x.outcome.isSome then y else { y with stuck := s.firstStall p }
    t.setPart p { t.part p with firing := some (y.decide code detail (s.pnow p)) }

/-- Gives an outcome to the entry that is admitted and does not fire yet; a CONTROL entry takes only a code of its own
(R289). -/
def State.abortAdmitted (s : State) (p code : Nat) (detail : Word) : State :=
  match (s.part p).admitted with
  | none => s
  | some x =>
    if x.entry.isControl && !controlCode code then s
    else s.setPart p { s.part p with admitted := some (x.decide code detail (s.pnow p)) }

-- Assumption log 135 (DEDUCED).
/-- Aborts the firing and the admitted step, and reports each of them where asked (R468). -/
def State.abortSteps (s : State) (p code : Nat) (detail : Word) (report : Bool) : State :=
  let t := (s.abortFiring p code detail).abortAdmitted p code detail
  if report && s.spans p then
    ((s.part p).firing.toList ++ (s.part p).admitted.toList).foldl (fun u x => u.sendAbort p x.entry.idx code detail) t
  else t

/-- Aborts the step of one ledger entry, firing or admitted (R278, R476). -/
def State.abortEntry (s : State) (p idx code : Nat) (detail : Word) : State :=
  if (s.part p).firing.any (fun x => x.entry.idx == idx) then s.abortFiring p code detail
  else if (s.part p).admitted.any (fun x => x.entry.idx == idx) then s.abortAdmitted p code detail
  else s

/-- Aborts the firing step for a cause within the fabric, and reports it in a partition of several modules (R278). -/
def State.abortRun (s : State) (p code : Nat) (detail : Word) : State :=
  match (s.part p).firing with
  | none => s
  | some x =>
    if x.takes code (s.pnow p) then
      let t := s.abortFiring p code detail
      if s.spans p then t.sendAbort p x.entry.idx code detail else t
    else s

-- Assumption log 135 (DEDUCED).
/-- A link of the partition is lost (R468): LINK_LOST naming the partner, and a FAULT report of class LINK. -/
def State.linkLost (s : State) (p partner port : Nat) : State :=
  (s.abortSteps p Status.linkLost (BitVec.ofNat 64 partner) true).faultIn p ⟨s.coord p, wherePort port, 1⟩ 1 (s.pnow p)

-- Assumption log 135 (DEDUCED).
/-- Sends a message of a step; a route whose port is neither UP nor HALF loses the link (R468, R487). -/
def State.sendStep (s : State) (p typ dst : Nat) (fin : Bool) (txn : Nat) (body : List Byte) : State :=
  match s.route p dst with
  | some q => if dst = s.coord p || s.portUp q then s.send p typ dst fin 0 txn body else s.linkLost p dst q
  | none => s.send p typ dst fin 0 txn body

end Sys2Proof.Machine
end

