-- ==== Sys2Proof/Machine/Fabric.lean ====
section
/-! DEFINITION. What the fabric's units share: firing and work, stalls, traces, defects and proof mode, operands and
transfers, match stores, credits (R64 to R67, R79 to R94, R105 to R107, R254, R255). -/

namespace Sys2Proof.Machine

open Sys2Proof

/-! ### Entries -/

/-- The edition of a step (R264). -/
def Step.edition (x : Step) : Nat := x.entry.field 4 4

/-- A step shape word (R264). -/
def Step.shape (x : Step) (n : Nat) : Nat := x.entry.field (64 + 4 * n) 4

/-- VARIANT of a group: the set, where VALID (R264). -/
def Step.variant (x : Step) (g : Nat) : Option Nat :=
  let v := x.entry.field (128 + 2 * g) 2
  if v.testBit 15 then some (v % 8192) else none

/-! ### Firing -/

/-- PHASE of PLATE_STATE (R256): 0 IDLE, 1 FIRING, 2 BETWEEN, 3 ENTRY. -/
def State.phase (s : State) (p : Nat) : Nat := s.fv .partPlateStatePhase [p]

/-- A step of the partition fires (R227): a section runs, or the switch or flip into it is in progress; and no outcome
stands. -/
def State.stepFires (s : State) (p : Nat) : Bool :=
  (s.phase p == 1 || (s.part p).hold.isSome) &&
    (match (s.part p).firing with
     | some x => x.outcome.isNone
     | none => false)

/-- The units of a partition operate: a section of its step runs, and neither park nor an entry holds them. -/
def State.firingNow (s : State) (p : Nat) : Bool :=
  s.phase p == 1 && decide (s.powerState < 2) && s.stepFires p

/-- The partition whose firing step a site works for. -/
def State.worksFor (s : State) (site : Nat) : Option Nat :=
  match s.ownerOf site with
  | some p => if s.firingNow p then some p else none
  | none => none

/-- The partition for which a memory unit's atomic unit acts: its owner, in a section and between sections and steps alike, unless an
entry or a flip holds the partition or the module is parked (R194, R220, R227). -/
def State.atomFor (s : State) (site : Nat) : Option Nat :=
  match s.ownerOf site with
  | some p => if (s.part p).hold.isNone && decide (s.powerState < 2) then some p else none
  | none => none

/-! ### Progress (R105 to R107) -/

-- Assumption log 202 (DEDUCED).
/-- A unit makes progress (R107), with some firings, or transfers of its streams, that FIRINGS counts (R110). It stalls again from this
instant on. -/
def State.progressBy (s : State) (p site n : Nat) : State :=
  let t := ((s.endStall p site).bump .siteFirings [site] n).beginStall p site
  t.setPart p { t.part p with progress := t.pnow p }

-- Assumption log 166 (DEDUCED).
/-- A unit makes progress (R107): a firing, an atomic operation or one transfer (R110). -/
def State.progress (s : State) (p site : Nat) : State := s.progressBy p site 1

/-- Gives work to a unit, or takes it away (R105). -/
def State.work (s : State) (p site : Nat) (on : Bool) : State :=
  if on then ((s.endStall p site).setf .siteStateWork [site] 1).beginStall p site
  else (s.endStall p site).setf .siteStateWork [site] 0

/-! ### Defects and proof mode (R254, R255) -/

/-- Records the first proof-mode failure (R255). -/
def State.proofHit (s : State) (p site cause : Nat) : State :=
  if s.fv .partProofHitValid [p] = 1 then s
  else
    (((s.setf .partProofHitValid [p] 1).setf .partProofHitCause [p] cause).setf .partProofHitSite [p] site).setv
      .partProofTs [p] (BitVec.ofNat 64 (s.pnow p))

/-- A check of R254 that outside proof mode is the PLATE_DEFECT warning: marks the firing step, or in proof mode aborts
it with PLATE_DEFECT and DETAIL PROOF_ABORT. -/
def State.plateDefect (s : State) (p site cause : Nat) : State :=
  match (s.part p).firing with
  | none => s
  | some x =>
    if x.outcome.isSome then s
    else if x.proof then (s.proofHit p site cause).abortRun p Status.plateDefect 2
    else s.setPart p { s.part p with firing := some { x with warned := true } }

-- Assumption log 65 (DEDUCED).
/-- A data operand is discarded without partner (R86): counted at the site, seen in STATE, and a defect. -/
def State.orphan (s : State) (p site : Nat) : State :=
  ((s.bump .siteOrphans [site] 1).setf .siteStateOrphanSeen [site] 1).plateDefect p site 5

/-- A write or atomic without ownership (R195): discarded, counted in OWNER_MISS, and a defect. -/
def State.ownerMiss (s : State) (p site : Nat) : State := (s.bump .siteOwnerMiss [site] 1).plateDefect p site 6

/-! ### Operands and transfers (R79 to R81) -/

/-- The context and the iteration of a tag (R80). -/
def tagCtx (t : Nat) : Nat := t / 65536 % 16
def tagIter (t : Nat) : Nat := t % 65536
def mkTag (ctx iter : Nat) : Nat := ctx % 16 * 65536 + iter % 65536

-- Assumption log 34 (DEDUCED).
/-- An end-of-stream marker (R81). -/
def marker (tag : Nat) : Operand := ⟨tag, true, 0, []⟩

/-- The transfers of an operand, the last one with LAST; a marker is one transfer without data. -/
def xfersOf (o : Operand) : List Xfer :=
  if o.eos then [⟨o.tag, true, true, 0, 0⟩]
  else match o.words with
    | [] => [⟨o.tag, true, false, o.mark, 0⟩]
    | ws => ws.zipIdx.map (fun w => ⟨o.tag, decide (w.2 + 1 = ws.length), false, o.mark, w.1⟩)

/-- The operand at the head of a FIFO and what follows it; none while its last transfer is missing. -/
def headOperand : List Xfer → Option (Operand × List Xfer)
  | [] => none
  | x :: t =>
    if x.last then some (⟨x.tag, x.eos, x.mark, if x.eos then [] else [x.data]⟩, t)
    else match headOperand t with
      | some (o, r) => some (⟨x.tag, false, x.mark, x.data :: o.words⟩, r)
      | none => none

/-! ### The units' sides of the switch unit (R88 to R90, R238) -/

/-- Key of a slot: 8 times port plus slot; the unit's own sending end is port 5. -/
def slotKey (port slot : Nat) : Nat := 8 * port + slot

/-- Credits of a sending end (R90). -/
def Su.credit (u : Su) (k : Nat) : Nat := tabGet (fun _ => 8) u.credits k

/-- Changes the credits of a sending end. -/
def Su.setCredit (u : Su) (k n : Nat) : Su := { u with credits := tabSet (fun _ => 8) u.credits k n }

/-- The transfers that a receiver FIFO of the switch unit holds. -/
def Su.inq (u : Su) (k : Nat) : List (Nat × Xfer) := tabGet (fun _ => []) u.fifo k

/-- Stores a receiver FIFO. -/
def Su.setInq (u : Su) (k : Nat) (l : List (Nat × Xfer)) : Su := { u with fifo := tabSet (fun _ => []) u.fifo k l }

/-- The transfers that the unit's FIFO of a local output slot holds. -/
def Su.outFifo (u : Su) (slot : Nat) : List Xfer := tabGet (fun _ => []) u.ufifo slot

/-- Stores the unit's FIFO of a local output slot. -/
def Su.setOutFifo (u : Su) (slot : Nat) (l : List Xfer) : Su := { u with ufifo := tabSet (fun _ => []) u.ufifo slot l }

/-- Records freed places of a receiver, whose credits go back later. -/
def Su.owe (u : Su) (k n : Nat) : Su :=
  { u with owed := tabSet (fun _ => 0) u.owed k (tabGet (fun _ => 0) u.owed k + n) }

/-- Transfers enter the switch unit on an input slot. -/
def Su.push (u : Su) (k : Nat) (xs : List Xfer) : Su :=
  { u.setInq k (u.inq k ++ xs.zipIdx.map (fun x => (u.arrivals + x.2, x.1))) with arrivals := u.arrivals + xs.length }

/-- The unit takes transfers from the head of its FIFO of a local output slot (R90). -/
def Su.take (u : Su) (slot : Nat) (rest : List Xfer) : Su :=
  (u.setOutFifo slot rest).owe (slotKey 5 slot) ((u.outFifo slot).length - rest.length)

-- Assumption log 30 (DEDUCED).
/-- The unit's transfers enter the switch unit on a local input slot, each for one credit (R90, R199). -/
def State.enterSu (s : State) (site slot : Nat) (xs : List Xfer) : State :=
  let u := (s.site site).su
  let k := slotKey 5 slot
  s.setSu site ((u.setCredit k (u.credit k - xs.length)).push (slotKey 4 slot) xs)

/-- The local input slots that carry a CU output port (R238). -/
def SiteImg.slotsOfPort (m : SiteImg) (port : Nat) : List Nat :=
  (List.range 8).filter (fun l => bitsOf m.localIn (4 * l + 3) (4 * l) == port + 1)

/-- The CU input port that a local output slot feeds (R239), where the slot is in use. -/
def SiteImg.cuPort (m : SiteImg) (slot : Nat) : Nat := bitsOf (tabGet (fun _ => 0) m.slots (32 + slot)) 8 7

/-! ### Match stores (R82) and the streams that they receive (R105, R130) -/

abbrev trigPorts (e : Nat) : List Nat := (List.range 4).filter (fun p => bitOf e (27 + p))
abbrev trigCtx (e : Nat) : Nat := bitsOf e 26 23
abbrev trigStroke (e : Nat) : Nat := bitsOf e 22 14
abbrev trigValid (e : Nat) : Bool := bitOf e 31

/-- Every stream that the valid trigger entries of an image name has delivered a marker to its match store (R105). -/
def SiteImg.streamsIn (m : SiteImg) (arrived : List (Nat × Nat)) : Bool :=
  m.trig.all (fun e => !trigValid e.2 || (trigPorts e.2).all (fun q => arrived.contains (q, trigCtx e.2)))

/-- The markers that wait in the match stores: port and context. -/
def Cu.markers (c : Cu) : List (Nat × Nat) :=
  c.stores.zipIdx.flatMap (fun l => (l.1.filter (·.eos)).map (fun o => (l.2, tagCtx o.tag)))

/-- Operands of a match store. -/
def Cu.store (c : Cu) (port : Nat) : List Operand := c.stores.getD port []

/-- Entries of a match store that a neighbouring MU's engines have reserved for operands they are reading from banks
(R585). -/
def State.reserved (s : State) (site port : Nat) : Nat :=
  match neighbour site port with
  | none => 0
  | some m =>
    let img := (s.site m).front
    ((s.site m).mu.engines.filter (fun e =>
      match e.bank with
      | some b => !b.write && bitsOf (tabGet (fun _ => 0) img.descs e.desc).toNat 216 213 == opposite port
      | none => false)).length

/-- Free entries of a match store (R82). -/
def State.matchFree (s : State) (site port : Nat) : Nat :=
  32 - ((s.site site).cu.store port).length - s.reserved site port

/-- An operand is stored in a match store, with MATCH_HWM and MATCH_FULL (R82, R110). -/
def State.storeOperand (s : State) (site port : Nat) (o : Operand) : State :=
  let c := (s.site site).cu
  let l := c.store port ++ [o]
  let t := s.setCu site { c with stores := c.stores.set port l }
  let t := if t.fv .siteMatchHwmHwm [site] < l.length then
      (t.setf .siteMatchHwmHwm [site] l.length).setf .siteMatchHwmPort [site] port else t
  if l.length = 32 then t.setf .siteStateMatchFull [site] 1 else t

-- Assumption log 26 (DEDUCED).
/-- A marker has been delivered to a match store. The compute unit has no work left in the section once every stream that
its entries name has delivered its marker (R105). -/
def State.markerArrived (s : State) (site port ctx : Nat) : State :=
  let c := (s.site site).cu
  if c.arrived.contains (port, ctx) then s
  else
    let l := c.arrived ++ [(port, ctx)]
    let t := s.setCu site { c with arrived := l }
    match t.worksFor site with
    | some p => if (t.site site).front.streamsIn l then (t.chargeUp p).work p site false else t
    | none => t

/-- An operand or a marker is delivered to a compute unit's input port (R82, R105). -/
def State.deliverTo (s : State) (site port : Nat) (o : Operand) : State :=
  let t := s.storeOperand site port o
  if o.eos then t.markerArrived site port (tagCtx o.tag) else t

end Sys2Proof.Machine
end

