-- ==== Sys2Proof/Machine/Flags.lean ====
section
/-! DEFINITION. Numeric formats and arithmetic (R165 to R191): exact values, decoding, single rounding into every
format, block scales, margins, and the bounded functions. The module has no flags beside its results (R173). Lanes are
numbers: the code of an element in its format. -/

namespace Sys2Proof

/-- A value: not a number, an infinity, or sign, mantissa and exponent of a dyadic; zero keeps its sign (R166). -/
inductive Num where
  | nan
  | inf (neg : Bool)
  | fin (neg : Bool) (m : Nat) (e : Int)
  deriving DecidableEq, Repr

/-- A floating-point element format (R165). -/
structure Fmt where
  ebits : Nat
  mbits : Nat
  bias : Nat
  /-- ±∞ and NaN in the top exponent, as IEEE 754. -/
  ieee : Bool
  /-- NaN at S.1111.111 only. -/
  topNan : Bool
  deriving DecidableEq, Repr

abbrev fp32 : Fmt := ⟨8, 23, 127, true, false⟩
abbrev bf16 : Fmt := ⟨8, 7, 127, true, false⟩
abbrev fp16 : Fmt := ⟨5, 10, 15, true, false⟩
abbrev e4m3 : Fmt := ⟨4, 3, 7, false, true⟩
abbrev e5m2 : Fmt := ⟨5, 2, 15, true, false⟩
abbrev e2m3 : Fmt := ⟨2, 3, 1, false, false⟩
abbrev e3m2 : Fmt := ⟨3, 2, 3, false, false⟩
abbrev e2m1 : Fmt := ⟨2, 1, 1, false, false⟩

/-- Width of an element code. -/
def Fmt.width (f : Fmt) : Nat := 1 + f.ebits + f.mbits

/-- The canonical NaN (R167); zero where the format has none (R177). -/
def Fmt.nan (f : Fmt) : Nat :=
  if f.ieee then (2 ^ f.ebits - 1) * 2 ^ f.mbits + 2 ^ (f.mbits - 1)
  else if f.topNan then 2 ^ (f.ebits + f.mbits) - 1 else 0

/-- The largest finite code, without sign. -/
def Fmt.maxCode (f : Fmt) : Nat :=
  if f.ieee then (2 ^ f.ebits - 1) * 2 ^ f.mbits - 1
  else if f.topNan then 2 ^ (f.ebits + f.mbits) - 2 else 2 ^ (f.ebits + f.mbits) - 1

/-- The sign bit. -/
def Fmt.sign (f : Fmt) (neg : Bool) : Nat := if neg then 2 ^ (f.ebits + f.mbits) else 0

/-- The value of an element code (R165, R166). -/
def Fmt.decode (f : Fmt) (c : Nat) : Num :=
  let neg := c.testBit (f.ebits + f.mbits)
  let a := c % 2 ^ (f.ebits + f.mbits)
  let ex := a / 2 ^ f.mbits
  let man := a % 2 ^ f.mbits
  if f.ieee && ex == 2 ^ f.ebits - 1 then (if man = 0 then .inf neg else .nan)
  else if f.topNan && a == 2 ^ (f.ebits + f.mbits) - 1 then .nan
  else if ex = 0 then .fin neg man (1 - Int.ofNat f.bias - Int.ofNat f.mbits)
  else .fin neg (2 ^ f.mbits + man) (Int.ofNat ex - Int.ofNat f.bias - Int.ofNat f.mbits)

/-- How a value is rounded (R175): 0 nearest even, 1 stochastic with 16 random bits, 2 toward zero. -/
structure Rnd where
  mode : Nat
  bits : Nat
  deriving DecidableEq, Repr

abbrev rne : Rnd := ⟨0, 0⟩
abbrev rtz : Rnd := ⟨2, 0⟩

/-- A magnitude m shifted right by k bits and rounded (R175, R178). -/
def roundShift (r : Rnd) (m k : Nat) : Nat :=
  let q := m / 2 ^ k
  let rem := m % 2 ^ k
  let up :=
    if r.mode = 0 then decide (2 * rem > 2 ^ k) || (decide (2 * rem = 2 ^ k ∧ k ≠ 0) && q % 2 == 1)
    else if r.mode = 1 then decide (rem * 2 ^ 16 / 2 ^ k + r.bits ≥ 2 ^ 16)
    else false
  if up then q + 1 else q

/-- An integer exponent's distance as a natural number, zero when negative. -/
def natOf (x : Int) : Nat := x.toNat

/-- Rounds sign, mantissa and exponent into a format once, saturating or by the format's overflow rule (R175, R176,
R179). -/
def Fmt.round (f : Fmt) (r : Rnd) (sat neg : Bool) (m : Nat) (e : Int) : Nat :=
  if m = 0 then f.sign neg
  else
    let low : Int := 1 - Int.ofNat f.bias - Int.ofNat f.mbits
    let q := max low (Int.ofNat (Nat.log2 m) + e - Int.ofNat f.mbits)
    let man := if q ≤ e then m * 2 ^ natOf (e - q) else roundShift r m (natOf (q - e))
    let code := if man < 2 ^ f.mbits then man
      else natOf (q - low) * 2 ^ f.mbits + man
    if code ≤ f.maxCode then f.sign neg + code
    else if sat || r.mode == 2 || !(f.ieee || f.topNan) then f.sign neg + f.maxCode
    else if f.ieee then f.sign neg + (2 ^ f.ebits - 1) * 2 ^ f.mbits
    else f.nan

/-- Encodes a value with one rounding (R175 to R177, R179). -/
def Fmt.encode (f : Fmt) (r : Rnd) (sat : Bool) : Num → Nat
  | .nan => f.nan
  | .inf neg =>
    if sat || r.mode == 2 || !(f.ieee || f.topNan) then f.sign neg + f.maxCode
    else if f.ieee then f.sign neg + (2 ^ f.ebits - 1) * 2 ^ f.mbits else f.nan
  | .fin neg m e => f.round r sat neg m e

/-- FP32 keeps an infinity that a narrowing would saturate: arithmetic results round to nearest even with the IEEE
overflow rule. -/
def toFp32 : Num → Nat
  | .inf neg => fp32.sign neg + 0x7F800000
  | n => fp32.encode rne false n

/-- The value of an FP32 lane. -/
def ofFp32 (c : Nat) : Num := fp32.decode c

/-! ### Exact arithmetic -/

/-- A dyadic with its sign as an integer at a common exponent. -/
def signedAt (neg : Bool) (m : Nat) (e lo : Int) : Int :=
  let x := Int.ofNat (m * 2 ^ natOf (e - lo))
  if neg then -x else x

/-- The lowest exponent of some finite values. -/
def lowExp (l : List Num) (d : Int) : Int :=
  l.foldl (fun a n => match n with | .fin _ _ e => min a e | _ => a) d

/-- The exact sum of values (R172, R173): NaN and infinities as IEEE 754; a zero sum is -0 only where every term
is -0. -/
def numSum (l : List Num) : Num :=
  if l.any (fun n => n == .nan) then .nan
  else
    let pos := l.any (fun n => n == .inf false)
    let neg := l.any (fun n => n == .inf true)
    if pos && neg then .nan
    else if pos then .inf false
    else if neg then .inf true
    else
      let lo := lowExp l 0
      let s := l.foldl (fun (a : Int) n => match n with | .fin g m e => a + signedAt g m e lo | _ => a) 0
      if s = 0 then
        .fin (!l.isEmpty && l.all (fun n => match n with | .fin g m _ => g && m == 0 | _ => false)) 0 0
      else .fin (decide (s < 0)) s.natAbs lo

/-- The exact product (R172). -/
def numMul : Num → Num → Num
  | .nan, _ => .nan
  | _, .nan => .nan
  | .inf a, .inf b => .inf (a != b)
  | .inf a, .fin b m _ => if m = 0 then .nan else .inf (a != b)
  | .fin a m _, .inf b => if m = 0 then .nan else .inf (a != b)
  | .fin a m e, .fin b n k => .fin (a != b) (m * n) (e + k)

/-- Negation. -/
def numNeg : Num → Num
  | .nan => .nan
  | .inf a => .inf (!a)
  | .fin a m e => .fin (!a) m e

/-- Absolute value. -/
def numAbs : Num → Num
  | .nan => .nan
  | .inf _ => .inf false
  | .fin _ m e => .fin false m e

/-- The sign of a value is set. -/
def numSign : Num → Bool
  | .nan => false
  | .inf a => a
  | .fin a _ _ => a

/-- The value is zero. -/
def numZero : Num → Bool
  | .fin _ m _ => m == 0
  | _ => false

/-- Strictly less, for values that are not NaN. -/
def numLt : Num → Num → Bool
  | .nan, _ => false
  | _, .nan => false
  | .inf a, .inf b => a && !b
  | .inf a, .fin _ _ _ => a
  | .fin _ _ _, .inf b => !b
  | .fin a m e, .fin b n k =>
    let lo := min e k
    decide (signedAt a m e lo < signedAt b n k lo)

/-- Equal in value, for values that are not NaN; +0 equals -0. -/
def numEq (x y : Num) : Bool := x != .nan && y != .nan && !numLt x y && !numLt y x

/-- The maximum (R187): NaN with any NaN, +0 above -0. -/
def numMax (x y : Num) : Num :=
  if x == .nan || y == .nan then .nan
  else if numLt x y then y
  else if numLt y x then x
  else if numZero x && numSign x then y else x

/-- The minimum (R187): NaN with any NaN, -0 below +0. -/
def numMin (x y : Num) : Num :=
  if x == .nan || y == .nan then .nan
  else if numLt x y then x
  else if numLt y x then y
  else if numZero x && numSign y then y else x

/-- A two's-complement code of a width, as a value times 2^e. -/
def intNum (width c : Nat) (e : Int) : Num :=
  let x := toSigned width c
  .fin (decide (x < 0)) x.natAbs e

/-- Rounds a value to an integer (R175, R176): NaN is 0 (R177), an infinity has no integer. -/
def toInteger (r : Rnd) : Num → Option Int
  | .nan => some 0
  | .inf _ => none
  | .fin neg m e =>
    let x := if 0 ≤ e then m * 2 ^ natOf e else roundShift r m (natOf (-e))
    some (if neg then -(Int.ofNat x) else Int.ofNat x)

/-- Clamps an integer into a two's-complement width and encodes it (R176). -/
def clampInt (width : Nat) (x : Int) : Nat := satSigned width x

/-- Rounds and encodes into an integer format, with the zero point added after rounding (R145, R176). -/
def encodeInt (width : Nat) (r : Rnd) (zp : Int) (v : Num) : Nat :=
  match toInteger r v, v with
  | some x, _ => clampInt width (x + zp)
  | none, .inf true => 2 ^ (width - 1)
  | none, _ => 2 ^ (width - 1) - 1

/-! ### Formats by code (R123) -/

/-- The floating-point element format of a code, where it has one. -/
def fmtOf (c : Nat) : Option Fmt :=
  match c with
  | 0x0 => some fp32 | 0x1 => some bf16 | 0x2 => some fp16
  | 0x3 => some e4m3 | 0x4 => some e5m2 | 0x5 => some e4m3 | 0x6 => some e5m2
  | 0x7 => some e2m3 | 0x8 => some e3m2 | 0x9 => some e2m1 | 0xD => some e2m1
  | _ => none

/-- A block-scaled format. -/
def isMx (c : Nat) : Bool := decide (5 ≤ c) && decide (c ≤ 0xA)

/-- An integer format with zero points. -/
def isInt (c : Nat) : Bool := c == 0xB || c == 0xC

/-- Bits of an element (R123). -/
def fmtBits (c : Nat) : Nat :=
  match c with
  | 0x0 => 32 | 0xE => 32 | 0x1 => 16 | 0x2 => 16
  | 0x7 => 6 | 0x8 => 6 | 0x9 => 4 | 0xC => 4 | 0xD => 4
  | _ => 8

/-- The MATRIX class of a format: 4, 8 or 16 bits; 32 where it has none (R123). -/
def fmtClass (c : Nat) : Nat :=
  match c with
  | 0x1 => 16 | 0x2 => 16 | 0x9 => 4 | 0xC => 4 | 0xD => 4 | 0x0 => 32 | 0xE => 32 | 0xF => 32
  | _ => 8

/-- The value of an element code without its block scale (R165). -/
def elemNum (fmt c : Nat) : Num :=
  match fmtOf fmt with
  | some f => f.decode (c % 2 ^ f.width)
  | none =>
    if fmt = 0xA then intNum 8 c (-6)
    else if fmt = 0xB then intNum 8 c 0
    else if fmt = 0xC then intNum 4 c 0
    else .fin false c 0

/-- A value times an E8M0 scale code (R168, R169). -/
def scaleNum (v : Num) (code : Nat) : Num :=
  if code = 0xFF then .nan
  else match v with
    | .fin n m e => .fin n m (e + Int.ofNat code - 127)
    | x => x

/-- Data transfers of an operand of 64 elements (R124). -/
def dataXfers (fmt : Nat) : Nat :=
  match fmt with
  | 0x0 => 4 | 0xE => 4 | 0x1 => 2 | 0x2 => 2 | _ => 1

/-- Transfers of an operand, its scale transfer included (R124). -/
def opXfers (fmt : Nat) : Nat := dataXfers fmt + bit01 (isMx fmt)

/-- The elements of a bit string, `bits` wide, lowest first (R124). -/
def elemsOf (bits n x : Nat) : List Nat := (List.range n).map (fun i => (x >>> (bits * i)) % 2 ^ bits)

/-- Packs element codes, lowest first. -/
def packElems (bits : Nat) (l : List Nat) : Nat :=
  (l.zipIdx).foldl (fun a e => a + (e.1 % 2 ^ bits) * 2 ^ (bits * e.2)) 0

/-- The words of an operand as one number. -/
def wordsNat (ws : Words) : Nat := (ws.zipIdx).foldl (fun a e => a + e.1.toNat * 2 ^ (512 * e.2)) 0

/-- A number as a count of words. -/
def natWords (n x : Nat) : Words := (List.range n).map (fun i => BitVec.ofNat 512 (x >>> (512 * i)))

/-- The 64 values of an operand in a format, widened exactly (R124, R169, R171): missing bytes read as zero (R126). -/
def operandNums (fmt : Nat) (ws : Words) : List Num :=
  let d := dataXfers fmt
  let codes := elemsOf (fmtBits fmt) 64 (wordsNat (ws.take d))
  if isMx fmt then
    let sc := (ws.getD d 0).toNat
    codes.zipIdx.map (fun e => scaleNum (elemNum fmt e.1) ((sc >>> (8 * (e.2 / 32))) % 256))
  else codes.map (elemNum fmt)

/-- The 64 FP32 lanes of an operand; a MX value beyond the FP32 range becomes an infinity (R171). UINT32 passes as
data. -/
def operandLanes (fmt : Nat) (ws : Words) : List Nat :=
  if fmt = 0xE then elemsOf 32 64 (wordsNat ws) else (operandNums fmt ws).map toFp32

/-- FP32 lanes as an operand of four transfers. -/
def laneWords (l : List Nat) : Words := natWords 4 (packElems 32 l)

/-- E of the block-scale rule (R180). -/
def mxE (fmt : Nat) : Int :=
  match fmt with
  | 0x5 => 8 | 0x6 => 15 | 0x7 => 2 | 0x8 => 4 | 0x9 => 2 | _ => 0

/-- The scale code and X of a block (R180); none where a value is NaN or an infinity. -/
def blockScale (fmt : Nat) (l : List Num) : Option (Nat × Int) :=
  if l.any (fun v => match v with | .fin _ _ _ => false | _ => true) then none
  else
    let mx := l.foldl (fun a v => numMax a (numAbs v)) (.fin false 0 0)
    match mx with
    | .fin _ 0 _ => some (0, -127)
    | .fin _ m e =>
      let x := max (-127) (min 127 (Int.ofNat (Nat.log2 m) + e - mxE fmt))
      some ((x + 127).toNat, x)
    | _ => none

/-- Encodes one value into an element format, without block scale (R175 to R179). -/
def encodeElem (fmt : Nat) (r : Rnd) (sat : Bool) (zp : Int) (v : Num) : Nat :=
  match fmtOf fmt with
  | some f => f.encode r (sat || isMx fmt) v
  | none =>
    if fmt = 0xA then encodeInt 8 r 0 (match v with | .fin n m e => .fin n m (e + 6) | x => x)
    else if fmt = 0xB then encodeInt 8 r zp v
    else if fmt = 0xC then encodeInt 4 r zp v
    else 0

/-- Encodes a block of 32 values with its scale (R180): the scale code and the element codes. -/
def encodeBlock (fmt : Nat) (rs : List Rnd) (l : List Num) : Nat × List Nat :=
  match blockScale fmt l with
  | none => (0xFF, l.map (fun _ => 0))
  | some (sc, x) =>
    (sc, (l.zip rs).map (fun e => match e.1 with
      | .fin n m k => if sc = 0 ∧ m = 0 then encodeElem fmt rtz true 0 (.fin n 0 0)
                      else encodeElem fmt e.2 true 0 (.fin n m (k - x))
      | _ => 0))

/-- Encodes 64 values as an operand of a format: data transfers, then the scale transfer (R124, R145, R180). -/
def encodeOperand (fmt : Nat) (rs : List Rnd) (sat : Bool) (zp : Int) (l : List Num) : Words :=
  if isMx fmt then
    let a := encodeBlock fmt (rs.take 32) (l.take 32)
    let b := encodeBlock fmt (rs.drop 32) (l.drop 32)
    natWords 1 (packElems (fmtBits fmt) (a.2 ++ b.2)) ++ natWords 1 (a.1 + 256 * b.1)
  else
    natWords (dataXfers fmt) (packElems (fmtBits fmt) ((l.zip rs).map (fun e => encodeElem fmt e.2 sat zp e.1)))

-- Assumption log 36 (DEDUCED).
/-- Widens an operand into another format exactly, or passes it unchanged (R125). -/
def widen (fa fd : Nat) (ws : Words) : Words :=
  if fa = fd then ws else encodeOperand fd (List.replicate 64 rne) false 0 (operandNums fa ws)

/-! ### Stochastic rounding (R178) -/

-- Assumption log 45 (DEDUCED).
/-- One advance of the generator with taps 32, 22, 2 and 1: the bit shifted out and the next state. -/
def lfsrStep (x : Nat) : Nat × Nat :=
  let fb := (x.testBit 31 != x.testBit 21) != (x.testBit 1 != x.testBit 0)
  (bit01 (x.testBit 31), (2 * x) % 2 ^ 32 + bit01 fb)

-- Assumption log 45 (DEDUCED).
/-- Sixteen advances: the 16 fresh bits, first bit highest, and the next state. -/
def lfsr16 (x : Nat) : Nat × Nat :=
  (List.range 16).foldl (fun a _ => (2 * a.1 + (lfsrStep a.2).1, (lfsrStep a.2).2)) (0, x)

/-! ### Functions with error bounds (R186 to R190) -/

/-- The whole part of the square root, digit by digit. -/
def isqrt : Nat → Nat → Nat → Nat
  | 0, _, r => r
  | k + 1, n, r => let t := r + 2 ^ k; if t * t ≤ n then isqrt k n t else isqrt k n r

/-- 2^(f / 2^w) in fixed point with 96 fraction bits, by successive square roots of 2. -/
def exp2Frac : Nat → Nat → Nat → Nat → Nat
  | 0, _, _, acc => acc
  | k + 1, f, root, acc =>
    let r := isqrt 200 (root * 2 ^ 96) 0
    exp2Frac k f r (if f.testBit k then acc * r / 2 ^ 96 else acc)

-- Assumption log 46 (DEDUCED).
/-- 2^v of a finite value as a dyadic with 96 fraction bits, from below; none where it is out of every range. -/
def exp2Num (neg : Bool) (m : Nat) (e : Int) : Option (Nat × Int) :=
  let x := if neg then -(Int.ofNat m) else Int.ofNat m
  let w : Nat := natOf (-e)
  let big : Int := if 0 ≤ e then x * Int.ofNat (2 ^ min (natOf e) 16) else x / Int.ofNat (2 ^ w)
  let frac := if 0 ≤ e then 0 else (x % Int.ofNat (2 ^ w)).toNat
  let fr := if 64 < w then frac / 2 ^ (w - 64) else frac * 2 ^ (64 - w)
  if big > 200 ∨ big < -200 then none
  else some (exp2Frac 64 fr (2 * 2 ^ 96) (2 ^ 96), big - 96)

/-- log2 of a mantissa in [1, 2) with 96 fraction bits: 64 fraction bits of the result, by repeated squaring. -/
def log2Frac : Nat → Nat → Nat → Nat
  | 0, _, acc => acc
  | k + 1, x, acc =>
    let y := x * x / 2 ^ 96
    if y ≥ 2 ^ 97 then log2Frac k (y / 2) (2 * acc + 1) else log2Frac k y (2 * acc)

/-- A code moved by some units in the last place, kept within the positive finite codes and infinity. -/
def nudge (code : Nat) (k : Int) : Nat :=
  let s := code / 2 ^ 31 * 2 ^ 31
  s + (min 0x7F800000 (max 0 (Int.ofNat (code % 2 ^ 31) + k).toNat))

-- Assumption log 5 (DESIGN CHOICE).
/-- A value within 2 units in the last place of the exact one: any code from one below its truncation to two above (R186). A unit is the
finer of those of the exact value and of the result, so two above is too far where the next code is a power of two, and one below where
the truncation is one and the exact value lies more than half a unit above it. -/
def within2 (op : Nat) (args : List Nat) (n : Num) : Nat :=
  let lo := fp32.encode rtz false n
  let c := Config.choice op args % 4
  let far := (c == 3 && decide (2 ^ 23 ≤ lo % 2 ^ 31) && lo % 2 ^ 23 == 2 ^ 23 - 1) ||
    (c == 0 && decide (2 ^ 24 ≤ lo % 2 ^ 31) && lo % 2 ^ 23 == 0 && fp32.encode rne false n != lo)
  nudge lo (if far then 0 else Int.ofNat c - 1)

-- Assumption log 46 (DEDUCED).
/-- VEXP2 (R143, R186, R187). Results beyond the FP32 range are infinite, and those of at most 2^-150 round to zero (the
note after R182). -/
def vexp2 (op : Nat) (v : Num) (args : List Nat) : Nat :=
  match v with
  | .nan => fp32.nan
  | .inf neg => if neg then 0 else 0x7F800000
  | .fin neg m e =>
    if m = 0 then within2 op args (.fin false 1 0)
    else match exp2Num neg m e with
      | none => if neg then 0 else 0x7F800000
      | some (q, k) => if k + 96 ≥ 128 then 0x7F800000
        else if k + 96 < -150 ∨ (k + 96 = -150 ∧ q = 2 ^ 96) then 0
        else within2 op args (.fin false q k)

/-- VLOG2 (R143, R186, R187): near 1 the bound is absolute, 2^-22. -/
def vlog2 (a : Nat) : Nat :=
  match ofFp32 a with
  | .nan => fp32.nan
  | .inf neg => if neg then fp32.nan else 0x7F800000
  | .fin neg m e =>
    if m = 0 then 0xFF800000
    else if neg then fp32.nan
    else
      let l := Nat.log2 m
      let fr := log2Frac 64 (m * 2 ^ 96 / 2 ^ l) 0
      let x := (Int.ofNat l + e) * Int.ofNat (2 ^ 64) + Int.ofNat fr
      if x.natAbs < 2 ^ 44 then
        let y := x + (Int.ofNat (Config.choice 9 [a] % 2047) - 1023) * Int.ofNat (2 ^ 32)
        fp32.round rne false (decide (y < 0)) y.natAbs (-64)
      else within2 9 [a] (.fin (decide (x < 0)) x.natAbs (-64))

-- Assumption log 5 (DESIGN CHOICE), 212 (DESIGN CHOICE).
/-- A value within 1 unit in the last place of a positive or negative quotient (R186): its truncation or the next
code, and the one before where the quotient is exact. The manual leaves open what a quotient beyond the FP32 range gives: the model rounds
it toward zero to the largest finite code first, and so answers that code, the one below it or infinity. -/
def within1 (op : Nat) (args : List Nat) (neg : Bool) (m : Nat) (e : Int) (exact : Bool) : Nat :=
  let lo := fp32.round rtz false neg m e
  if exact then nudge lo (Int.ofNat (Config.choice op args % 3) - 1)
  else nudge lo (Int.ofNat (Config.choice op args % 2))

-- Assumption log 212 (DESIGN CHOICE).
/-- VRCP (R143, R186, R187). The reciprocal of an operand below 2^-128 lies beyond the range, for which the manual states no result: the
model answers as within1 says. -/
def vrcp (a : Nat) : Nat :=
  match ofFp32 a with
  | .nan => fp32.nan
  | .inf neg => fp32.sign neg
  | .fin neg m e =>
    if m = 0 then fp32.sign neg + 0x7F800000
    else
      let q := 2 ^ 200 / m
      within1 10 [a] neg q (-200 - e) (decide (q * m = 2 ^ 200))

/-- VRSQ (R143, R186, R187). -/
def vrsq (a : Nat) : Nat :=
  match ofFp32 a with
  | .nan => fp32.nan
  | .inf neg => if neg then fp32.nan else 0
  | .fin neg m e =>
    if m = 0 then fp32.sign neg + 0x7F800000
    else if neg then fp32.nan
    else
      let k : Nat := if e % 2 = 0 then 0 else 1
      let n := 2 ^ 200 / (m * 2 ^ k)
      let q := isqrt 128 n 0
      within1 11 [a] false q (-100 - (e - Int.ofNat k) / 2) (decide (q * q * (m * 2 ^ k) = 2 ^ 200))

-- Assumption log 47 (DEDUCED).
/-- The sum of terms by a fixed tree whose order the manual does not give: any FP32 value within gamma_n of the sum of
magnitudes of the exact sum; where the opaque choice is not within it, the correctly rounded sum (R189). A zero is negative
only where every term is, whatever the order (R166). -/
def boundedSum (op n : Nat) (args : List Nat) (l : List Num) : Nat :=
  match numSum l with
  | .fin neg m e =>
    let c := Config.choice op args % 2 ^ 32
    match ofFp32 c, numSum (l.map numAbs) with
    | .fin cn cm ce, .fin _ am ae =>
      let lo := min (min e ce) ae
      let d := (signedAt neg m e lo - signedAt cn cm ce lo).natAbs
      if d * (2 ^ 24 - n) ≤ n * (signedAt false am ae lo).natAbs then
        (if cm = 0 then fp32.sign (l.all (fun v => numZero v && numSign v)) else c)
      else toFp32 (.fin neg m e)
    | _, _ => toFp32 (.fin neg m e)
  | x => toFp32 x

/-! ### Margins (R181 to R183) -/

/-- The most negative finite code, the -infinity code and the +infinity code of a format (R182). -/
def marginCode (fmt kind const : Nat) : Nat :=
  if kind = 0 then 0
  else if kind = 1 then const % 2 ^ (if fmt = 0xC then 4 else 8)
  else if kind = 5 then const % 2 ^ fmtBits fmt
  else match fmtOf fmt with
    | some f =>
      if kind = 2 then f.sign true + f.maxCode
      else if kind = 3 then f.sign true + (if f.ieee then f.maxCode + 1 else f.maxCode)
      else (if f.ieee then f.maxCode + 1 else f.maxCode)
    | none =>
      let w := fmtBits fmt
      if kind = 4 then 2 ^ (w - 1) - 1 else 2 ^ (w - 1)

/-- The scale of a margin block (R183). -/
def marginScale (kind : Nat) : Nat := if kind = 0 then 0x00 else if kind = 5 then 0x7F else 0xFE

end Sys2Proof
end

