-- ==== Sys2Proof/Machine/Reed.lean ====
section
/-! DEFINITION. The Reed-Solomon codes over GF(2⁸) of the base dies and of the flash stripes (R368, R369, R385). Symbols are
numbers below 256; a polynomial is the list of its coefficients, constant first. -/

namespace Sys2Proof

/-- Multiplication by α, a root of x⁸ + x⁴ + x³ + x² + 1 (R368). -/
def gfAlpha (a : Nat) : Nat := if a < 128 then 2 * a else (2 * a) ^^^ 0x11D

/-- The product of two symbols. -/
def gfMul (a b : Nat) : Nat :=
  ((List.range 8).foldl (fun (r : Nat × Nat) i => (if b.testBit i then r.1 ^^^ r.2 else r.1, gfAlpha r.2)) (0, a)).1

/-- A power of α; the multiplicative group has 255 elements. -/
def gfExp (n : Nat) : Nat := (List.range (n % 255)).foldl (fun a _ => gfAlpha a) 1

/-- The inverse of a symbol, zero for zero: its 254th power. -/
def gfInv (a : Nat) : Nat := (List.range 7).foldl (fun (r : Nat × Nat) _ =>
  (gfMul r.1 (gfMul r.2 r.2), gfMul r.2 r.2)) (1, a) |>.1

/-- A polynomial at a point. -/
def gfEval (p : List Nat) (x : Nat) : Nat := p.foldr (fun c r => c ^^^ gfMul r x) 0

/-- The sum of two polynomials. -/
def gfAdd (p q : List Nat) : List Nat :=
  (List.range (max p.length q.length)).map (fun i => p.getD i 0 ^^^ q.getD i 0)

/-- The product of two polynomials. -/
def gfProd (p q : List Nat) : List Nat :=
  p.zipIdx.foldl (fun r c => gfAdd r (List.replicate c.2 0 ++ q.map (gfMul c.1))) []

/-- The syndromes of a word: its values at α⁰ to αⁿ⁻¹. The last symbol of a word is the constant coefficient. -/
def rsSyndromes (n : Nat) (word : List Nat) : List Nat := (List.range n).map (fun j => gfEval word.reverse (gfExp j))

/-- The generator polynomial with roots α⁰ to αⁿ⁻¹ (R368). -/
def rsGenerator (n : Nat) : List Nat := (List.range n).foldl (fun g j => gfProd g [gfExp j, 1]) [1]

/-- The n check symbols of a list of data symbols: the remainder of the data times xⁿ by the generator polynomial. -/
def rsCheck (n : Nat) (data : List Nat) : List Nat :=
  let g := ((rsGenerator n).take n).reverse
  data.foldl (fun (r : List Nat) c =>
    let k := c ^^^ r.getD 0 0
    List.zipWith (· ^^^ ·) (r.drop 1 ++ [0]) (g.map (gfMul k))) (List.replicate n 0)

/-- A word with symbols added at positions. -/
def rsAdd (word : List Nat) (e : List (Nat × Nat)) : List Nat :=
  word.zipIdx.map (fun c => e.foldl (fun a h => if h.1 = c.2 then a ^^^ h.2 else a) c.1)

/-- The decoder's register while it looks for the error locator: locator, older locator, length, shift and the discrepancy
of the older one. -/
structure RsReg where
  loc : List Nat
  old : List Nat
  len : Nat
  shift : Nat
  disc : Nat
  deriving DecidableEq, Repr

-- Assumption log 2 (DESIGN CHOICE).
/-- One step of the search for the shortest locator that explains the first syndromes. -/
def RsReg.step (syn : List Nat) (r : RsReg) (n : Nat) : RsReg :=
  let d := (List.range r.len).foldl (fun a i => a ^^^ gfMul (r.loc.getD (i + 1) 0) (syn.getD (n - 1 - i) 0)) (syn.getD n 0)
  let next := gfAdd r.loc (List.replicate r.shift 0 ++ r.old.map (gfMul (gfMul d (gfInv r.disc))))
  if d = 0 then { r with shift := r.shift + 1 }
  else if 2 * r.len ≤ n then ⟨next, r.loc, n + 1 - r.len, 1, d⟩
  else { r with loc := next, shift := r.shift + 1 }

-- Assumption log 108 (DEDUCED).
/-- What a decoder of n syndromes finds for a word: no more than n/2 symbols to correct, as positions in the word and values
to add, or none where no such pattern explains the syndromes (R369). -/
def rsFind (n : Nat) (word : List Nat) : Option (List (Nat × Nat)) :=
  let syn := rsSyndromes n word
  if syn.all (· == 0) then some []
  else
    let r := (List.range n).foldl (RsReg.step syn) ⟨[1], [1], 0, 1, 1⟩
    let omega := (gfProd syn r.loc).take n
    let slope := r.loc.zipIdx.flatMap (fun c => if c.2 = 0 then [] else [if c.2 % 2 = 1 then c.1 else 0])
    let hits := (List.range word.length).filterMap (fun i =>
      let x := gfExp (word.length - 1 - i)
      let y := gfInv x
      if gfEval r.loc y = 0 then some (i, gfMul x (gfMul (gfEval omega y) (gfInv (gfEval slope y)))) else none)
    if 2 * r.len ≤ n ∧ hits.length = r.len ∧ (rsSyndromes n (rsAdd word hits)).all (· == 0) then some hits else none

/-- The symbols of a word of a code with two check symbols whose symbols at up to two known positions are missing (R385):
those of the word that holds the rest. -/
def rsErase (word : List Nat) (gone : List Nat) : List Nat :=
  let w := word.zipIdx.map (fun c => if gone.contains c.2 then 0 else c.1)
  let s := rsSyndromes 2 w
  let at_ : Nat → Nat := fun i => gfExp (word.length - 1 - i)
  match gone with
  | [i] => rsAdd w [(i, s.getD 0 0)]
  | [i, j] =>
    let y := gfMul (s.getD 1 0 ^^^ gfMul (s.getD 0 0) (at_ i)) (gfInv (at_ i ^^^ at_ j))
    rsAdd w [(i, s.getD 0 0 ^^^ y), (j, y)]
  | _ => w

end Sys2Proof
end

