-- ==== Sys2Proof/Machine/Hbm.lean ====
section
/-! DEFINITION. HBM: bytes, owner tags, Reed-Solomon codewords, tile cache, the partition address range above it, and the
base dies' own work (R357 to R380, R353, R407, R427 to R431). -/

namespace Sys2Proof.Machine

open Sys2Proof

/-! ### Bytes (R359, R370) -/

/-- What an unlisted byte of HBM reads as. -/
abbrev hbmZero : Nat → Byte := fun _ => 0

-- Assumption log 9 (DESIGN CHOICE).
/-- A byte of HBM. -/
def Hbm.byte (h : Hbm) (a : Nat) : Byte := tabGet hbmZero h.cells a

/-- Consecutive bytes of HBM. -/
def Hbm.bytes (h : Hbm) (a n : Nat) : List Byte := (List.range n).map (fun i => h.byte (a + i))

/-- Stores bytes; the canonical form of the cells is kept. -/
def putBytes : List (Nat × Byte) → Nat → List Byte → List (Nat × Byte)
  | m, _, [] => m
  | m, a, b :: t => putBytes (tabSet hbmZero m a b) (a + 1) t

/-- Writes one whole codeword, which replaces it with its check symbols (R370). -/
def Hbm.putLine (h : Hbm) (a : Nat) (bs : List Byte) : Hbm :=
  { h with cells := putBytes h.cells (a / 64 * 64) ((bs ++ List.replicate 64 0).take 64),
           errs := tabSet (fun _ => []) h.errs (a / 64) [] }

/-- The symbols of the codeword at an address that differ from the code's. -/
def Hbm.flaws (h : Hbm) (a : Nat) : List (Nat × Nat) := tabGet (fun _ => []) h.errs (a / 64)

-- Assumption log 108 (DEDUCED).
/-- The 72 symbols of the codeword at an address as HBM holds them: 64 data symbols and 8 check symbols (R358, R368). -/
def Hbm.stored (h : Hbm) (a : Nat) : List Nat :=
  let d := (h.bytes (a / 64 * 64) 64).map (·.toNat)
  rsAdd (d ++ rsCheck 8 d) (h.flaws a)

-- Assumption log 108 (DEDUCED).
/-- What the decoder finds in the codeword at an address: the symbols to correct, at most 4, or none where it flags the
codeword as uncorrectable (R369). -/
def Hbm.found (h : Hbm) (a : Nat) : Option (List (Nat × Nat)) :=
  if h.flaws a = [] then some [] else rsFind 8 (h.stored a)

/-- The 64 bytes that a read of the codeword at an address delivers, corrected; zeros stand for an uncorrectable one, which the
module never passes on (R369, R371). -/
def Hbm.word (h : Hbm) (a : Nat) : List Byte :=
  if h.flaws a = [] then h.bytes (a / 64 * 64) 64
  else match h.found a with
    | some e => ((rsAdd (h.stored a) e).take 64).map (BitVec.ofNat 8)
    | none => List.replicate 64 0

/-- A byte of HBM as a read delivers it. -/
def Hbm.good (h : Hbm) (a : Nat) : Byte := if h.flaws a = [] then h.byte a else (h.word a).getD (a % 64) 0

/-! ### Owner tags (R363 to R366) -/

/-- The owner tag of a page-tile. -/
def Hbm.tag (h : Hbm) (page : Nat) : Nat := tabGet (fun _ => 0) h.tags page

/-- KIND of a tag: 0 FREE, 1 DIRTY, 2 OWNED, 3 SHARED. -/
def tagKind (t : Nat) : Nat := t / 2 ^ 14 % 4

/-- The tag OWNED by a partition. -/
def ownedTag (p : Nat) : Nat := 2 * 2 ^ 14 + p

/-- The tag SHARED with a VIEW. -/
def sharedTag (view : Nat) : Nat := 3 * 2 ^ 14 + view % 4 * 2 ^ 12

/-- The base die permits an access of a unit of a partition, or of a hub path acting for it (R364). -/
def tagAllows (t p : Nat) (write : Bool) : Bool :=
  (tagKind t == 2 && t % 32 == p) || (tagKind t == 3 && !write)

-- Assumption log 112 (DESIGN CHOICE).
/-- The stack of a module address: die, local stack (R359). The firmware regions of 64 MiB a stack stand from 2^42 on, stack by
stack (R358). -/
def stackOf (a : Nat) : List Nat :=
  if a < 2 ^ 42 then [a / 2 ^ 39 % 8, a / 2 ^ 12 % 4] else [a / 2 ^ 28 % 8, a / 2 ^ 26 % 4]

/-- The die of a row, which is named by its tile (R359). -/
def dieOfRow (row : Nat) : Nat := (stackOf (row * 4096)).getD 0 0

/-- The die of a page-tile. -/
def dieOfPage (page : Nat) : Nat := page / 2 ^ 23 % 8

/-- Counts the DIRTY page-tiles of a page's die and its stacks' DIRTY tiles (R379). -/
def State.dirtyCount (s : State) (page : Nat) : State :=
  let d := dieOfPage page
  let n := (s.hbm.dirty.filter (fun q => dieOfPage q == d)).length
  (List.range 4).foldl (fun t k => t.setf .hbmDirtyTilesTiles [d, k] (4 * n)) (s.setf .hbmDirtyPagesPages [d] n)

-- Assumption log 187 (DEDUCED).
/-- The paths along which firmware moves a tag: FREE to OWNED or SHARED, OWNED or SHARED to DIRTY (R366). -/
def tagPath (old new : Nat) : Bool :=
  if tagKind old = 0 then decide (2 ≤ tagKind new) else decide (2 ≤ tagKind old) && tagKind new == 1

/-- Moves an owner tag along a path of R366, and along no other; a page that becomes DIRTY joins its die's zeroing queue, and
its tile-cache lines go first (R366, R367, R377). -/
def State.setTag (s : State) (page tag : Nat) : State :=
  let h := s.hbm
  if !tagPath (h.tag page) tag then s
  else if tagKind tag = 1 then
    let h := { h with tags := tabSet (fun _ => 0) h.tags page tag
                      cache := h.cache.map (fun e => (e.1, e.2.filter (fun n => n.1 / 16 != page)))
                      dirty := h.dirty ++ [page] }
    (s.setHbm h).dirtyCount page
  else s.setHbm { h with tags := tabSet (fun _ => 0) h.tags page tag }

/-- Makes page-tiles DIRTY. -/
def State.dirtyAll (s : State) (pages : List Nat) : State := pages.foldl (fun t q => t.setTag q (2 ^ 14)) s

/-- FREE page-tiles of a die that no list reserves, lowest first, at most n, from tile `i` on. -/
def freePages (h : Hbm) (busy : List Nat) (die : Nat) : Nat → Nat → Nat → List Nat
  | 0, _, _ => []
  | _, 0, _ => []
  | fuel + 1, n + 1, i =>
    let q := die * 2 ^ 23 + i
    if i ≥ 2 ^ 23 then []
    else if h.tag q = 0 && !busy.contains q then q :: freePages h busy die fuel n (i + 1)
    else freePages h busy die fuel (n + 1) (i + 1)

/-- The page-tiles that a running STAGE has reserved; they stay FREE until they are filled (R403). -/
def Flash.staging (f : Flash) : List Nat :=
  f.slots.flatMap (fun e => if e.2.state = 3 then e.2.pages.map (·.2) else [])

/-- A stack of the die failed training: no page-tile of it ever becomes FREE, and its tile cache stays bypassed (R574). -/
def State.hbmFail (s : State) (die : Nat) : Bool := (s.fv .hubBootHbmFail []).testBit die

/-- The lowest n FREE page-tiles of a die, where it has them: every listed tag and reservation is searched past. A die
whose periphery domain is off, or with a stack that failed training, has none (R574). -/
def State.takeFree (s : State) (die n : Nat) : Option (List Nat) :=
  let busy := s.flash.staging
  let l := freePages s.hbm busy die (n + s.hbm.tags.length + busy.length) n 0
  if n = 0 then some []
  else if s.domainOn (16 + die) && !(s.hbmFail die) && l.length == n then some l
  else none

/-- Vector 34 for a bit newly set; out of L0 each event waits with its bit (R583). -/
def State.hbmVector (s : State) (f : Fld) (ix : List Nat) : State :=
  if s.linkUp then s.msix 34 else s.setHost { s.host with hbmWait := s.host.hbmWait.filter (fun e => e != (f.reg.at ix, f.lo)) ++ [(f.reg.at ix, f.lo)] }

/-- The HBM alert and vector 34 for a log newly valid (R582, R583). -/
def State.hbmEvent (s : State) (wasSet : Bool) (f : Fld) (ix : List Nat) : State :=
  if wasSet then s else (s.alert .hubAlertHbm).hbmVector f ix

/-- An access that the tag does not permit (R365): counted, the first one logged, a SECURITY record; for a step a write
without ownership. Site 0x1FFF stands for hub paths. -/
def State.tagFault (s : State) (p site a : Nat) (write : Bool) : State :=
  let d := a / 2 ^ 39 % 8
  let k := tagKind (s.hbm.tag (a / 65536))
  let t := s.bump .hbmTagFaults [d] 1
  let was := t.fv .hbmTagFaultLogValid [d] == 1
  let t := if was then t else
    t.setv .hbmTagFaultLog [d] (BitVec.ofNat 64 (2 ^ 63 + bit01 write * 2 ^ 62 + p % 32 * 2 ^ 57 + k * 2 ^ 55 +
      site % 8192 * 2 ^ 42 + a % 2 ^ 42))
  let t := t.hbmEvent was .hbmTagFaultLogValid [d]
  let t := t.bbWriteAt (some p) 0x32 7 (payloadOf [(0, 8, a), (8, 1, bit01 write), (9, 1, k), (10, 2, site)])
    (if site = 0x1FFF then whereModule else whereSite site)
  if site = 0x1FFF then t else t.plateDefect p site 6

/-! ### Reads and writes by module address -/

/-- The ticks of one second (R46). -/
abbrev tickPerSecond : Nat := 16000000000

-- Assumption log 110 (DEDUCED).
/-- An uncorrectable codeword is read (R372): counted, the first one logged, a MEMORY record but for repeats within
1 s. -/
def State.logUe (s : State) (p : Option Nat) (src a : Nat) : State :=
  let ix := stackOf a
  let t := s.bump .hbmUeCount ix 1
  let was := t.fv .hbmUeLogValid ix == 1
  let t := if was then t else
    (t.setv .hbmUeLog ix (BitVec.ofNat 64 (2 ^ 63 + src * 2 ^ 60 + (if src = 3 then 0 else p.getD 0 % 32) * 2 ^ 55 + 0xFF))).setv .hbmUeAddr ix
      (BitVec.ofNat 64 (a % 2 ^ 42))
  let t := t.hbmEvent was .hbmUeLogValid ix
  let cw := a / 64
  let seen := tabGet (fun _ => 0) t.hbm.logged cw
  if seen ≠ 0 ∧ t.now.toNat < seen + tickPerSecond then t
  else
    let t := t.setHbm { t.hbm with logged := tabSet (fun _ => 0) t.hbm.logged cw (t.now.toNat + 1) }
    t.bbWrite p 0x30 3 (payloadOf [(0, 8, a / 64 * 64), (8, 1, ix.getD 0 0 * 4 + ix.getD 1 0), (9, 1, src),
      (10, 1, 0xFF)])

-- Assumption log 205 (DEDUCED).
/-- The tag of a page-tile as TAG_DATA shows it: on a die whose training failed one without an owner is DIRTY, for it never becomes FREE
(R366, R574). -/
def State.shownTag (s : State) (page : Nat) : Nat :=
  if s.hbmFail (dieOfPage page) && tagKind (s.hbm.tag page) == 0 then 2 ^ 14 else s.hbm.tag page

-- Assumption log 109 (DEDUCED).
/-- The rows on each side of a row of its stack, at a distance of up to RADIUS places in the channel (R359, R374). -/
def nearRows (row radius : Nat) : List Nat :=
  let step := if row < 2 ^ 30 then 128 else 32
  let region : Nat → Nat := fun r => if r < 2 ^ 30 then r / 2 ^ 27 else 8 + (r - 2 ^ 30) / 2 ^ 14
  (List.range radius).flatMap (fun i =>
    let k := step * (i + 1)
    (if region (row + k) = region row then [row + k] else []) ++
      (if k ≤ row ∧ region (row - k) = region row then [row - k] else []))

/-- A regular or targeted refresh of rows sets their counts to zero (R374). -/
def Hbm.refreshed (h : Hbm) (rows : List Nat) : Hbm :=
  { h with acts := rows.foldl (fun c r => tabSet (fun _ => 0) c r 0) h.acts }

/-- The base die refreshes the RADIUS rows on each side of a row, which awaits it no longer (R374): one targeted refresh. -/
def State.refreshNear (s : State) (row : Nat) : State :=
  let h := s.hbm.refreshed (row :: nearRows row (s.fa .hbmRdistCtlRadius [dieOfRow row]))
  (s.setHbm { h with due := h.due.filter (fun e => e.1 != row) }).bump .hbmRdistRefresh (stackOf (row * 4096)) 1

-- Assumption log 112 (DESIGN CHOICE).
/-- The channel of a row within its stack (R359). -/
def channelOfRow (row : Nat) : Nat := if row < 2 ^ 30 then row / 4 % 32 else row % 32

-- Assumption log 109 (DEDUCED).
/-- Two rows lie in the same bank of the same channel (R359). -/
def sameBank (r q : Nat) : Bool :=
  stackOf (r * 4096) == stackOf (q * 4096) && channelOfRow r == channelOfRow q && Config.bankOf r == Config.bankOf q

/-- A row is activated (R374): its count rises, at THRESHOLD it awaits its targeted refresh, and a row that has waited through 63
further activations of its bank has it before the next one. -/
def State.activate (s : State) (a : Nat) : State :=
  let n := a / 4096
  let late := s.hbm.due.filter (fun e => 63 ≤ e.2 && sameBank e.1 n)
  let t := late.foldl (fun u e => u.refreshNear e.1) s
  let c := tabGet (fun _ => 0) t.hbm.acts n + 1
  let due := t.hbm.due.map (fun e => if sameBank e.1 n then (e.1, e.2 + 1) else e)
  let fresh := decide (t.fa .hbmRdistCtlThreshold [dieOfRow n] ≤ c) && !due.any (fun e => e.1 == n)
  t.setHbm { t.hbm with acts := tabSet (fun _ => 0) t.hbm.acts n c
                        due := if fresh then due ++ [(n, 0)] else due }

/-- Every row of some tiles is activated, as a scrub, a fill, a zeroing or a copy does. -/
def State.activateAll (s : State) (tiles : List Nat) : State := tiles.foldl (fun t a => t.activate a) s

/-- The 16 tiles of a page-tile (R360). -/
def pageTiles (page : Nat) : List Nat := (List.range 16).map (fun i => page * 65536 + 4096 * i)

/-- Places a tile first in its set of the tile cache (R376). -/
def touchSet (l : List (Nat × List Byte)) (n : Nat × List Byte) : List (Nat × List Byte) :=
  (n :: l.filter (fun m => m.1 != n.1)).take 16

-- Assumption log 101 (DEDUCED).
/-- Element i of a 4 KiB tile, `bits` wide, lowest first. -/
def Hbm.element (h : Hbm) (tile bits i : Nat) : Nat :=
  let b := (h.good (tile + bits * i / 8)).toNat + 256 * (h.good (tile + bits * i / 8 + 1)).toNat
  (b >>> (bits * i % 8)) % 2 ^ bits

-- Assumption log 99 (DEDUCED).
/-- The 64 bytes that a page delivers for the line at an address: of a transposed VIEW, row j of the delivered tile is
column j of the stored one (R378). -/
def Hbm.deliver (h : Hbm) (a : Nat) : List Byte :=
  let v := h.tag (a / 65536) / 2 ^ 12 % 4
  if tagKind (h.tag (a / 65536)) = 3 ∧ v ≠ 0 then
    let bits := 2 ^ (v + 1)
    let cols := 512 / bits
    let tile := a / 4096 * 4096
    let first := a % 4096 / 64 * 64 * 8 / bits
    let x := packElems bits ((List.range (512 / bits)).map (fun i =>
      let k := first + i
      h.element tile bits (k % 64 * cols + k / 64)))
    leBytes 64 x
  else h.word a

-- Assumption log 99 (DEDUCED).
/-- The codewords that a line of a read rests on: of a transposed page the whole tile, read with the first line. -/
def Hbm.codewords (h : Hbm) (a : Nat) (first : Bool) : List Nat :=
  if tagKind (h.tag (a / 65536)) = 3 ∧ h.tag (a / 65536) / 2 ^ 12 % 4 ≠ 0 then
    (if first then (List.range 64).map (fun i => a / 4096 * 4096 + 64 * i) else [])
  else [a]

-- Assumption log 99 (DEDUCED).
/-- Corrections, counted by stack and by row, and uncorrectable codewords of a read (R369, R372, R375): the state and the first
uncorrectable codeword. -/
def State.checkWords (s : State) (p : Option Nat) (src : Nat) : List Nat → State × Option Nat
  | [] => (s, none)
  | c :: t =>
    match s.hbm.found c with
    | some [] => s.checkWords p src t
    | some _ =>
      let u := s.bump .hbmCeCount (stackOf c) 1
      (u.setHbm { u.hbm with
        fixes := tabSet (fun _ => 0) u.hbm.fixes (c / 4096) (tabGet (fun _ => 0) u.hbm.fixes (c / 4096) + 1) }).checkWords
        p src t
    | none =>
      let r := (s.logUe p src c).checkWords p src t
      (r.1, some c)

/-- The lines of a tile, in address order. -/
def tileLines (a : Nat) : List Nat := (List.range 64).map (fun i => a / 4096 * 4096 + 64 * i)

/-- The set of the tile cache that an address falls in, as its key (R376). -/
def cacheKey (a : Nat) : Nat := a / 2 ^ 39 % 8 * 1024 + a / 4096 % 2 ^ 27 % 1024

/-- The tile cache of a die is bypassed: by TC_CTL, or because the die's training failed (R376, R574). -/
def State.cacheOff (s : State) (die : Nat) : Bool := s.fa .hbmTcCtlBypass [die] == 1 || s.hbmFail die

/-- The line of the tile cache that holds the tile of an address, where there is one (R376). -/
def State.cached (s : State) (a : Nat) : Option (List Byte) :=
  if s.cacheOff (a / 2 ^ 39 % 8) then none
  else ((tabGet (fun _ => []) s.hbm.cache (cacheKey a)).find? (fun l => l.1 == a / 4096)).map (·.2)

-- Assumption log 77 (DEDUCED).
/-- Puts a tile with its contents first in its set of the tile cache. -/
def State.keepTile (s : State) (a : Nat) (bs : List Byte) : State :=
  s.setHbm { s.hbm with cache := tabSet (fun _ => []) s.hbm.cache (cacheKey a)
                                   (touchSet (tabGet (fun _ => []) s.hbm.cache (cacheKey a)) (a / 4096, bs)) }

-- Assumption log 77 (DEDUCED).
/-- A line of a read of a SHARED page, `first` within its tile (R376, R377): a hit reads no HBM; a miss fills the whole
tile, in its VIEW, and reports that fill's uncorrectable codewords, and a fill with one leaves no line (DEDUCED from R371); a cache that
is bypassed misses and fills nothing. -/
def State.sharedRead (s : State) (p src a : Nat) (first : Bool) : State × Option Nat :=
  let d := a / 2 ^ 39 % 8
  if s.cacheOff d then
    let r := s.checkWords (some p) src (s.hbm.codewords a first)
    (if first then (r.1.bump .hbmTcMisses [d] 1).activate a else r.1, r.2)
  else if !first then (s, none)
  else match s.cached a with
    | some bs => ((s.keepTile a bs).bump .hbmTcHits [d] 1, none)
    | none =>
      let r := s.checkWords (some p) src (tileLines a)
      let t := (r.1.bump .hbmTcMisses [d] 1).activate a
      match r.2 with
      | none => (t.keepTile a ((tileLines a).flatMap t.hbm.deliver), none)
      | some c => (t, some c)

/-- The 64 bytes that a read of a SHARED page gives: those of its line of the tile cache, else those of HBM (R376). -/
def State.sharedBytes (s : State) (a : Nat) : List Byte :=
  match s.cached a with
  | some bs => (bs.drop (a % 4096 / 64 * 64)).take 64
  | none => s.hbm.deliver a

/-- What a read gives: the bytes, the lowest uncorrectable codeword, the first module address that a tag refused, and whether it
reached an address without content. -/
structure ReadRes where
  data : List Byte
  ue : Option Nat
  denied : Option Nat
  shut : Bool
  deriving DecidableEq, Repr

-- Assumption log 77 (DEDUCED).
/-- A read of 64 bytes by a unit of a partition, or by a hub path acting for it (R364 to R378). -/
def State.readLine (s : State) (p src a : Nat) (first : Bool) : State × ReadRes :=
  let t := s.hbm.tag (a / 65536)
  if tagAllows t p false then
    let lead := first || a % 4096 == 0
    let r : State × Option Nat :=
      if tagKind t = 3 then s.sharedRead p src a lead
      else
        let r := s.checkWords (some p) src (s.hbm.codewords a lead)
        (if lead then r.1.activate a else r.1, r.2)
    (r.1, ⟨if tagKind t = 3 then r.1.sharedBytes a else s.hbm.deliver a, r.2, none, false⟩)
  else (s, ⟨List.replicate 64 0, none, some a, false⟩)

/-- A write of one codeword by a unit of a partition, or by a hub path acting for it, where the tag permits it. -/
def State.writeLine (s : State) (a : Nat) (bs : List Byte) (first : Bool) : State :=
  let t := if first then s.activate a else s
  t.setHbm (t.hbm.putLine a bs)

/-! ### The partition address range (R353, R407, R427, R466, R473) -/

/-- Where a partition address leads. -/
inductive Place where
  /-- A module HBM address. -/
  | hbm (a : Nat)
  /-- A movable page-tile that is out in host memory (R429). -/
  | gone (tile : Nat)
  /-- The collective aperture, with its offset (R473). -/
  | coll (off : Nat)
  /-- The atomic aperture (R466). -/
  | atomic
  /-- A group or set of the variant window that reads as empty records (R353). -/
  | empty
  /-- No content: reads give zeros, and writes are discarded, with OWNER_MISS. -/
  | shut
  deriving DecidableEq, Repr

/-- The library slot that holds an edition (R397). -/
def State.slotOf (s : State) (id : Nat) : Option Nat :=
  (s.flash.slots.find? (fun e => e.2.id == id && e.2.state != 0)).map (·.1)

/-- A library slot. -/
def Flash.slot (f : Flash) (n : Nat) : Edition := tabGet (fun _ => Edition.reset) f.slots n

/-- The edition with an ID, where it is RESIDENT. -/
def State.resident (s : State) (id : Nat) : Option Edition :=
  match s.slotOf id with
  | some n => if (s.flash.slot n).state = 4 then some (s.flash.slot n) else none
  | none => none

/-- VSPAN of an edition: TILES × 1 KiB rounded up to 64 KiB (R351). -/
def Edition.vspan (e : Edition) : Nat := ceilDiv (leAt e.manifest 0x100 4 * 1024) 65536 * 65536

-- Assumption log 100 (DEDUCED).
/-- The module address of an edition address of the edition that a step names (R407). -/
def Edition.place (e : Edition) (a : Nat) : Option Nat :=
  let m := tabGet (fun _ => 2 ^ 26) e.pages (a / 65536)
  if m < 2 ^ 26 then some (m * 65536 + a % 65536) else none

/-- A segment register of a partition (R427): PAGES, BASE, DIE, PIN, HBM, where VALID. -/
def State.segment (s : State) (p n : Nat) : Option (Nat × Nat × Nat × Bool × Nat) :=
  if s.fa .hostSegValid [p, n] = 1 then
    some (s.fa .hostSegPages [p, n], s.fa .hostSegBase [p, n], s.fa .hostSegDie [p, n], s.fa .hostSegPin [p, n] == 1,
      s.fa .hostSegHbmHbm [p, n])
  else none

/-- The segment of a formed partition that holds a page-tile of partition address. -/
def State.segmentOf (s : State) (p tile : Nat) : Option Nat :=
  firstBelow 8 (fun n => s.formed p && (match s.segment p n with
    | some (pages, base, _) => decide (base ≤ tile) && decide (tile < base + pages)
    | none => false))

/-- An address of the variant window, as its offset (R353). -/
def State.variantOffset (s : State) (p a : Nat) : Option Nat :=
  if s.fa .serveVwinEnable [p] = 1 then
    let base := s.fa .serveVwinBase [p] * 2 ^ 32
    if base ≤ a ∧ a < base + 2 ^ 32 then some (a - base) else none
  else none

/-- Where an offset of the variant window leads: the window shows the groups of the step whose first section was entered
last (R353). -/
def State.variantPlace (s : State) (p off : Nat) : Place :=
  match (s.part p).window with
  | none => .empty
  | some x => match s.resident x.1 with
    | none => .empty
    | some e =>
      if e.vspan = 0 then .empty
      else match x.2.getD (off / e.vspan) none with
        | none => .empty
        | some k =>
          let pages := tabGet (fun _ => []) e.sets k
          match pages[(off % e.vspan) / 65536]? with
          | some m => if off / e.vspan < 64 then .hbm (m * 65536 + off % 65536) else .shut
          | none => .empty

-- Assumption log 100 (DEDUCED).
/-- Where an address of a partition's range leads (R353, R407, R427, R466, R473). -/
def State.place (s : State) (p a : Nat) : Place :=
  if a ≥ 2 ^ 44 then .shut
  else if a ≥ 0xE0000000000 then (if a < 0xE0100000000 then .atomic else .shut)
  else if a ≥ 0xD0000000000 then .coll (a % 2 ^ 40)
  else if a ≥ 0xC0000000000 then .shut
  else if a ≥ 0x80000000000 then
    match (s.part p).firing with
    | none => .shut
    | some x => match s.resident x.edition with
      | none => .shut
      | some e => match e.place (a - 0x80000000000) with
        | some m => .hbm m
        | none => .shut
  else match s.variantOffset p a with
    | some off => s.variantPlace p off
    | none => match s.segmentOf p (a / 65536) with
      | none => .shut
      | some _ => match tabGet (fun _ => none) (s.part p).map (a / 65536) with
        | some m => .hbm (m * 65536 + a % 65536)
        | none => .gone (a / 65536)

-- Assumption log 100 (DEDUCED).
/-- The first page-tile of a range of lines that is out. -/
def State.absent (s : State) (p : Nat) : Nat → Nat → Option Nat
  | 0, _ => none
  | n + 1, a => match s.place p a with
    | .gone tile => some tile
    | _ => s.absent p n (a + 64)

/-- The HDM line of a partition address (R416). -/
def hdmLine (p a : Nat) : Nat := p * 2 ^ 38 + a / 64

-- Assumption log 206 (DEDUCED).
/-- The host answers the recall of a line: where its copy was modified it first writes it back (R431), as it could with a write of its
own. Which lines the host has modified, and to what, is its own affair: a free value. -/
def State.takeBack (s : State) (line : Nat) : State :=
  let p := line / 2 ^ 38
  let t := { s with free := s.free + 1 }
  match Config.hostCopy s.free, s.place p (line % 2 ^ 38 * 64) with
  | some x, .hbm m => if tagAllows (s.hbm.tag (m / 65536)) p true then t.writeLine m (leBytes 64 x.toNat) true else t
  | _, _ => t

/-- Recalls host-held lines with BISnpInv, taking what the host writes back first (R431). -/
def State.recall (s : State) (f : Nat → Bool) : State :=
  let hit := s.host.filter.filter f
  let keep := s.host.filter.filter (fun l => !f l)
  let t := (s.setHost { s.host with filter := keep }).emits (hit.map (fun l => Out.backInvalidate l))
  let t := (t.bump .hostBisnpLines [] hit.length).setf .hostSfUseEntries [] keep.length
  hit.foldl State.takeBack t

/-- Recalls every line of a partition. -/
def State.recallPart (s : State) (p : Nat) : State := s.recall (fun l => l / 2 ^ 38 == p)

/-- The age of a movable page-tile at an access (R429): the first access of each period sets it. -/
def State.touchAge (s : State) (p tile : Nat) : State :=
  match s.segmentOf p tile with
  | some n => match s.segment p n with
    | some (_, _, _, false, _) =>
      let age := s.pnow p / 2 ^ 24 % 2 ^ 16
      s.setPart p { s.part p with ages := tabSet (fun _ => 0) (s.part p).ages tile age }
    | _ => s
  | none => s

-- Assumption log 88 (DEDUCED), 98 (DESIGN CHOICE).
/-- A page header as its 128 bytes (R298). -/
def PageHdr.pack (h : PageHdr) (p : Nat) : Nat :=
  let toks := (h.tokens.take 32).zipIdx.foldl (fun a t => a + t.1 % 2 ^ 24 * 2 ^ (24 * t.2)) 0
  h.layer % 256 * 2 ^ 1016 + h.fmt % 16 * 2 ^ 1012 + h.state % 4 * 2 ^ 1010 + p % 32 * 2 ^ 1005 +
    h.kscale % 256 * 2 ^ 992 + h.vscale % 256 * 2 ^ 984 + h.refs % 2 ^ 24 * 2 ^ 960 + h.age % 2 ^ 16 * 2 ^ 944 +
    h.seq % 2 ^ 18 * 2 ^ 926 + toks

-- Assumption log 98 (DESIGN CHOICE).
/-- What a line of a pool's reservation holds (R296, R298, R300): two to a header, then the entries of the frame table. The
model keeps both as data of the partition, so reads of their partition addresses show them; the headers of pages that no
frame holds read as zeros, and what the slot map holds is not given. -/
def State.poolLine (s : State) (p a : Nat) : Option (List Byte) :=
  let n := s.fa .servePoolPages [p]
  let base := s.fa .servePoolBase [p] * 65536
  let off := a - base
  let heads := ceilDiv n 512 * 65536
  if n = 0 ∨ a < base ∨ heads + ceilDiv n 64 * 65536 ≤ off then none
  else
    let q := s.part p
    if off < heads then
      let h := tabGet (fun _ => PageHdr.reset) q.pages (off / 128)
      some (leBytes 64 (if h == PageHdr.reset then 0 else h.pack p / 2 ^ (512 * (off / 64 % 2))))
    else
      let l := tabGet (fun _ => []) q.frames ((off - heads) / 1024)
      let w := (off - heads) % 1024 / 4
      some (((List.range 16).map (fun i => match l[w + i]? with
        | some pg => 2 ^ 31 + pg % 2 ^ 26
        | none => 0)).flatMap (leBytes 4))

/-- The consecutive lines of partition address that one access reads. Movable page-tiles have been brought in before;
collective and atomic apertures read as zeros here. -/
def State.readLines (s : State) (p src : Nat) (first : Bool) : Nat → Nat → State × ReadRes
  | 0, _ => (s, ⟨[], none, none, false⟩)
  | n + 1, a =>
    let r : State × ReadRes := match s.place p a with
      | .hbm m =>
        let r := (s.touchAge p (a / 65536)).readLine p src m first
        (r.1, { r.2 with
          data := (if r.2.denied.isSome then none else s.poolLine p a).getD r.2.data
          ue := r.2.ue.map (fun c => a / 65536 * 65536 + c % 65536) })
      | .shut => (s, ⟨List.replicate 64 0, none, none, true⟩)
      | _ => (s, ⟨List.replicate 64 0, none, none, false⟩)
    let q := r.1.readLines p src false n (a + 64)
    (q.1, ⟨r.2.data ++ q.2.data, r.2.ue.or q.2.ue, r.2.denied.or q.2.denied, r.2.shut || q.2.shut⟩)

-- Assumption log 98 (DESIGN CHOICE), 101 (DEDUCED).
/-- One access of a unit or a hub path reads consecutive lines of partition address. A tag that refuses it is a tag fault, and an
address without content counts once in OWNER_MISS (R365, R407). -/
def State.readPart (s : State) (p site src : Nat) (n a : Nat) : State × ReadRes :=
  let r := s.readLines p src true n a
  let t := match r.2.denied with
    | some m => r.1.tagFault p site m false
    | none => r.1
  (if r.2.shut && decide (site < 6144) then t.ownerMiss p site else t, r.2)

/-- The consecutive lines of partition address that one access writes: the state, the first module address that a tag refused,
and whether a line was discarded at an address without content or in the variant window (R353, R365, R407). -/
def State.writeLines (s : State) (p : Nat) (first : Bool) : Nat → Nat → List Byte → State × Option Nat × Bool
  | 0, _, _ => (s, none, false)
  | n + 1, a, bs =>
    let r : State × Option Nat × Bool := match s.variantOffset p a, s.place p a with
      | none, .hbm m =>
        let t := (s.recall (fun l => l == hdmLine p a)).touchAge p (a / 65536)
        if tagAllows (t.hbm.tag (m / 65536)) p true then (t.writeLine m (bs.take 64) (first || m % 4096 == 0), none, false)
        else (t, some m, false)
      | _, _ => (s, none, true)
    let q := r.1.writeLines p false n (a + 64) (bs.drop 64)
    (q.1, r.2.1.or q.2.1, r.2.2 || q.2.2)

/-- One access of a unit or a hub path writes whole lines of bytes at a partition address; false where a tag refused a line. A
refused access is one tag fault, and a discarded one counts once in OWNER_MISS (R353, R365, R407). -/
def State.writePart (s : State) (p site a : Nat) (bs : List Byte) : State × Bool :=
  let r := s.writeLines p true ((bs.length + 63) / 64) a bs
  let t := match r.2.1 with
    | some m => r.1.tagFault p site m true
    | none => r.1
  (if r.2.2 && decide (site < 6144) then t.ownerMiss p site else t, r.2.1.isNone)

/-! ### The base dies' own work (R357, R366, R367, R373 to R375) -/

/-- The page of a movable segment's reservation that has been zeroed returns to it (R429). -/
def State.returnPage (s : State) (page : Nat) : State :=
  match tabGet (fun _ => none) s.hbm.returns page with
  | some k =>
    let t := s.setHbm { s.hbm with returns := tabSet (fun _ => none) s.hbm.returns page none }
    let p := k / 8
    let l := tabGet (fun _ => []) (t.part p).reserve (k % 8)
    (t.setPart p { t.part p with reserve := tabSet (fun _ => []) (t.part p).reserve (k % 8) (l ++ [page]) }).setTag page
      (ownedTag p)
  | none => s

/-- The last DIRTY page-tile of a kill is FREE: KILL_STATE becomes IDLE, with its record (R537, R553). -/
def State.scrubbed (s : State) (page : Nat) : State :=
  (List.range 32).foldl (fun t p =>
    let x := t.part p
    if x.dying.contains page then
      let l := x.dying.filter (fun q => q != page)
      let t := (t.setPart p { x with dying := l }).setf .partKillStateDirty [p] l.length
      if l.isEmpty then
        (t.setf .partKillStatePhase [p] 0).partRecord p 5
      else t
    else t) s

/-- Zeroes a page-tile: every codeword is written as zero with valid check symbols (R367). -/
def Hbm.zeroPage (h : Hbm) (page : Nat) : Hbm :=
  { h with cells := tabClear h.cells (page * 65536) (page * 65536 + 65536)
           errs := tabClear h.errs (page * 1024) (page * 1024 + 1024)
           tags := tabSet (fun _ => 0) h.tags page 0
           dirty := h.dirty.erase page }

/-- The base dies finish zeroing the oldest DIRTY page-tile of a die, which becomes FREE (R367); none in self refresh. -/
def State.zeroed (s : State) (die : Nat) : State :=
  match s.hbm.dirty.find? (fun q => dieOfPage q == die) with
  | none => s
  | some q =>
    if s.selfRefresh die then s
    else
      let t := s.activateAll (pageTiles q)
      (((t.setHbm (t.hbm.zeroPage q)).dirtyCount q).scrubbed q).returnPage q

-- Assumption log 112 (DESIGN CHOICE).
/-- The tile with a number within a stack (R359): 2^25 of user data, then the 2^14 of the firmware region (R358). -/
def tileOf (die stack t : Nat) : Nat :=
  if t < 2 ^ 25 then die * 2 ^ 39 + (4 * t + stack) * 4096
  else 2 ^ 42 + (4 * die + stack) * 2 ^ 26 + (t - 2 ^ 25) * 4096

/-- The base die writes the corrected codewords of a tile back; uncorrectable ones stay as they are (R373). -/
def Hbm.mend (h : Hbm) (tile : Nat) : Hbm :=
  (tileLines tile).foldl (fun g c => match g.found c with
    | some (e :: l) => g.putLine c (((rsAdd (g.stored c) (e :: l)).take 64).map (BitVec.ofNat 8))
    | _ => g) h

/-- SCRUB_BURST: the base die reads one tile of its stack's user data or firmware region, writes corrected codewords back, and
logs uncorrectable ones, in a page that a partition owns with its time; FREE and DIRTY pages are skipped, and nothing happens
in self refresh (R48, R357, R373). The end of a pass starts the counts of corrections again (R375). -/
def execScrubBurst (die stack : Nat) (s : State) : Host.Outcome State Fault Refusal :=
  let k := 4 * (die % 8) + stack % 4
  let t := tabGet (fun _ => 0) s.hbm.scrubAt k
  let a := tileOf (die % 8) (stack % 4) t
  let tag := s.hbm.tag (a / 65536)
  if s.selfRefresh (die % 8) then .next s
  else
    let u := if t < 2 ^ 25 ∧ tagKind tag < 2 then s else
      let r := ((s.activate a).checkWords (if t < 2 ^ 25 ∧ tagKind tag = 2 then some (tag % 32) else none) 3 (tileLines a)).1
      r.setHbm (r.hbm.mend a)
    let done := decide (t + 1 = 2 ^ 25 + 2 ^ 14)
    let v := u.setHbm { u.hbm with
      scrubAt := tabSet (fun _ => 0) u.hbm.scrubAt k (if done then 0 else t + 1)
      fixes := if done then u.hbm.fixes.filter (fun e => stackOf (e.1 * 4096) != [die % 8, stack % 4]) else u.hbm.fixes }
    .next (if done then v.setv .hbmScrubPass [die % 8, stack % 4] v.now else v)

/-- TARGETED_REFRESH: a row at THRESHOLD activations, or one that reached it and awaits its targeted refresh, has its neighbours refreshed, and its count and theirs are zero; none in
self refresh (R357, R374). -/
def execTargetedRefresh (row : Nat) (s : State) : Host.Outcome State Fault Refusal :=
  if (tabGet (fun _ => 0) s.hbm.acts row < s.fa .hbmRdistCtlThreshold [dieOfRow row] ∧ !s.hbm.due.any (fun e => e.1 == row)) ∨
      s.selfRefresh (dieOfRow row) then .next s
  else .next (s.refreshNear row)

/-- PER_BANK_REFRESH: a regular refresh of rows sets their counts to zero; the base die gives none in self refresh (R357,
R374). -/
def execPerBankRefresh (rows : List Nat) (s : State) : Host.Outcome State Fault Refusal :=
  .next (s.setHbm (s.hbm.refreshed (rows.filter (fun r => !s.selfRefresh (dieOfRow r)))))

/-- The row at a place of a channel of a stack: tile 32 times the place plus the channel (R359). -/
def rowAt (die stack channel place : Nat) : Nat := tileOf die stack (32 * place + channel) / 4096

/-- ROW_REMAP: a row that needed 8 corrections within the scrub pass is copied, corrected, to a spare row of its bank; the bank
that uses its last spare sets SPARES_OUT with a MEMORY record (R375). -/
def execRowRemap (die stack channel place : Nat) (s : State) : Host.Outcome State Fault Refusal :=
  let row := rowAt (die % 8) (stack % 4) (channel % 32) place
  let ix := stackOf (row * 4096)
  let st := 4 * ix.getD 0 0 + ix.getD 1 0
  let bank := Config.bankOf row % 1024
  let k := (st * 32 + channelOfRow row) * 1024 + bank
  let n := tabGet (fun _ => 0) s.hbm.spares k
  if tabGet (fun _ => 0) s.hbm.fixes row < 8 ∨ n ≥ 32 ∨ s.selfRefresh (dieOfRow row) then .next s
  else
    let t := s.activate (row * 4096)
    let t := t.setHbm { t.hbm.mend (row * 4096) with
      spares := tabSet (fun _ => 0) t.hbm.spares k (n + 1)
      fixes := tabSet (fun _ => 0) t.hbm.fixes row 0
      acts := tabSet (fun _ => 0) t.hbm.acts row 0
      due := t.hbm.due.filter (fun e => e.1 != row) }
    if n + 1 < 32 then .next t
    else
      let was := t.fv .hbmStackStatusSparesOut ix == 1
      let t := t.setf .hbmStackStatusSparesOut ix 1
      let t := if was then t else t.hbmVector .hbmStackStatusSparesOut ix
      .next (t.bbWrite none 0x31 3 (payloadOf [(0, 1, st), (1, 1, channelOfRow row), (2, 1, bank % 256)]))

/-- TAG_SEL_CAPTURE: a write of TAG_SEL captures the tag of a page-tile of the die (R366, R379); a write that misses the die has
no other effect than its record (R27, R29). -/
def execTagSelCapture (die : Nat) (w : Word) (s : State) : Host.Outcome State Fault Refusal :=
  let d := die % 8
  let page := w.toNat % 2 ^ 23
  match s.missed (Rg.hbmTagSel.at [d]) with
  | some m => .next (s.noteMiss (Rg.hbmTagSel.at [d]) m)
  | none =>
    let t := s.setf .hbmTagSelPage [d] page
    .next (t.setf .hbmTagDataTag [d] (t.shownTag (d * 2 ^ 23 + page)))

end Sys2Proof.Machine
end

