-- ==== Sys2Proof/Machine/Operands.lean ====
section
/-! DEFINITION. The operand forms of strokes and what a firing does around its family's effect: matching, retention,
length mismatches, tags, issue counts, outputs and traces (R82 to R87, R113 to R131, R161, R164). -/

namespace Sys2Proof.Machine

open Sys2Proof

/-! ### The stroke word (R113, R116, R118, R119, R122, R127) -/

/-- A stroke as a number. -/
abbrev Stroke := Nat

abbrev Stroke.opcode (w : Stroke) : Nat := bitsOf w 127 120
abbrev Stroke.zacc (w : Stroke) : Bool := bitOf w 116
abbrev Stroke.fence (w : Stroke) : Bool := bitOf w 115
abbrev Stroke.traced (w : Stroke) : Bool := bitOf w 114
abbrev Stroke.srcA (w : Stroke) : Nat := bitsOf w 111 96
abbrev Stroke.srcB (w : Stroke) : Nat := bitsOf w 95 80
abbrev Stroke.dst (w : Stroke) : Nat := bitsOf w 79 64
abbrev Stroke.fmtA (w : Stroke) : Nat := bitsOf w 63 60
abbrev Stroke.fmtB (w : Stroke) : Nat := bitsOf w 59 56
abbrev Stroke.fmtD (w : Stroke) : Nat := bitsOf w 55 52
abbrev Stroke.tagAct (w : Stroke) : Nat := bitsOf w 47 40

/-- A field of LOW. -/
abbrev Stroke.low (w : Stroke) (hi lo : Nat) : Nat := bitsOf w hi lo

/-- KIND of a descriptor. -/
abbrev descKind (d : Nat) : Nat := d / 2 ^ 13 % 8

/-- The sub-operation that the family's field names (R141 to R159). -/
def Stroke.sub (w : Stroke) : Nat :=
  match w.opcode with
  | 0x20 => w.low 39 36
  | 0x30 => w.low 39 35
  | 0x40 => w.low 39 37
  | 0x70 => w.low 39 38
  | 0x80 => if w.low 39 39 = 1 then 1 else if w.low 38 38 = 1 then 2 else 0
  | 0x90 => w.low 39 38
  | 0xA0 => w.low 39 38
  | 0xB0 => w.low 39 38
  | 0xD0 => w.low 39 37
  | _ => 0

/-- Opcode and sub-operation as one number. -/
def Stroke.kind (w : Stroke) : Nat := 64 * w.opcode + w.sub

/-- The input ports that a stroke reads with the format code of each: descriptors, and ML_A and ML_B of SCORE MERGE
(R118, R121, R159). The code 16 stands for a fixed one-transfer form. -/
def Stroke.reads (w : Stroke) : List (Nat × Bool) :=
  (if descKind w.srcA = 1 then [(w.srcA / 2 ^ 11 % 4, false)] else []) ++
    (if descKind w.srcB = 1 then [(w.srcB / 2 ^ 11 % 4, true)] else [])

/-- The ports of ML_A and ML_B. -/
def Stroke.mlPorts (w : Stroke) : List Nat := if w.kind = 64 * 0xD0 + 3 then [w.low 36 35, w.low 34 33] else []

/-- A port's operand stays in the match store: its descriptor has RETAIN (R118). -/
def Stroke.retains (w : Stroke) (port : Nat) : Bool :=
  (descKind w.srcA == 1 && w.srcA / 2 ^ 11 % 4 == port && bitOf w.srcA 10) ||
    (descKind w.srcB == 1 && w.srcB / 2 ^ 11 % 4 == port && bitOf w.srcB 10)

/-- The class of a MATRIX stroke (R136). -/
def Stroke.class_ (w : Stroke) : Nat := max (fmtClass w.fmtA) (fmtClass w.fmtB)

/-- Bytes of one row of a weight tile (R137). -/
def rowBytes (fmt : Nat) : Nat := fmtBits fmt * 8

/-- A marked operand of MATRIX whose class is wider than the stroke's is a length mismatch (R306). -/
def Stroke.tooWide (w : Stroke) (mark : Nat) : Bool :=
  decide (w.opcode = 0x10) && decide (mark ≥ 16) && decide (w.class_ < fmtClass (mark % 16))

/-- Transfers that a stroke expects of a source (R120, R124, R126, R136, R137, R159): of a marked operand by its mark
(R306). -/
def Stroke.expects (w : Stroke) (second : Bool) (mark : Nat) : Nat :=
  let fmt := if mark ≥ 16 then mark % 16 else if second then w.fmtB else w.fmtA
  if mark ≥ 16 ∧ w.tooWide mark = false then opXfers fmt
  else match w.opcode, second with
    | 0x10, false => 1 + bit01 (isMx w.fmtA)
    | 0x10, true => ceilDiv (rowBytes w.fmtB * (if w.class_ = 4 then 2 else 1)) 64 + bit01 (isMx w.fmtB)
    | 0x60, false => 1
    | 0xB0, true => if w.sub = 0 then 2 else 1
    | 0xD0, true => if w.sub = 3 then opXfers w.fmtB else 1
    | _, _ => opXfers fmt

/-- The output tag of a firing (R127, R128). -/
def Stroke.outTag (w : Stroke) (tag issue : Nat) : Nat :=
  match w.tagAct / 64 with
  | 0 => tag
  | 1 => mkTag (tagCtx tag) (tagIter tag + w.tagAct % 64 + 1)
  | 2 => mkTag (tagCtx tag) issue
  | _ => mkTag (w.tagAct % 16) (tagIter tag)

/-! ### Trigger entries (R83 to R86, R130) -/

/-- A data operand of a context in a match store with an iteration. -/
def dataOf (ctx iter : Nat) (o : Operand) : Bool := !o.eos && tagCtx o.tag == ctx && tagIter o.tag == iter

-- Assumption log 27 (DEDUCED).
/-- The tag of the complete set that an entry takes: the oldest operand on its lowest-numbered port that has partners of
the same tag on every other named port (R83, R84). -/
def Cu.matchData (c : Cu) (e : Nat) : Option Nat :=
  match trigPorts e with
  | [] => none
  | p :: ps =>
    ((c.store p).find? (fun o => !o.eos && tagCtx o.tag == trigCtx e &&
      ps.all (fun q => (c.store q).any (dataOf (trigCtx e) (tagIter o.tag))))).map (·.tag)

-- Assumption log 27 (DEDUCED).
/-- Every named port of an entry holds a marker of its context: the tag of the one on the lowest-numbered port (R86,
R129). -/
def Cu.matchEos (c : Cu) (e : Nat) : Option Nat :=
  let isMark : Operand → Bool := fun o => o.eos && tagCtx o.tag == trigCtx e
  match trigPorts e with
  | [] => none
  | p :: ps =>
    if ps.all (fun q => (c.store q).any isMark) then ((c.store p).find? isMark).map (·.tag) else none

-- Assumption log 27 (DEDUCED).
/-- The entry that fires next: the lowest index that is eligible; its data form comes before its end-of-stream form
(R84, R86). -/
def Cu.choose (c : Cu) (m : SiteImg) : Option (Nat × Bool × Nat) :=
  (List.range 32).findSome? (fun i =>
    let e := tabGet (fun _ => 0) m.trig i
    if trigValid e then
      match c.matchData e with
      | some t => some (i, false, t)
      | none => (c.matchEos e).map (fun t => (i, true, t))
    else none)

/-- Every named port of some entry holds an operand of its context, but no complete set shares one iteration: MATCH_WAIT
(R106). -/
def Cu.matchWait (c : Cu) (m : SiteImg) : Bool :=
  m.trig.any (fun e => trigValid e.2 && !(trigPorts e.2).isEmpty &&
    (trigPorts e.2).all (fun q => (c.store q).any (fun o => tagCtx o.tag == trigCtx e.2)) &&
    (c.matchData e.2).isNone && (c.matchEos e.2).isNone)

/-- What a compute unit with work waits for (R106): SEM_WAIT, OUTPUT_FULL, MATCH_WAIT or INPUT_EMPTY. -/
def Site.cuCause (x : Site) : Nat :=
  if x.cu.waiting.isSome then 5 else if x.full then 1 else if x.cu.matchWait x.front then 2 else 0

/-! ### A firing -/

/-- What a firing knows: the site, its partition, the entry, the stroke, the tags and the matched operands by port. -/
structure Firing where
  site : Nat
  part : Nat
  entry : Nat
  w : Stroke
  tag : Nat
  outTag : Nat
  ops : List (Nat × Operand)
  deriving DecidableEq, Repr

/-- What a firing sends: output port and operand. -/
abbrev Sends := List (Nat × Operand)

/-- The operand on a port. -/
def Firing.op (f : Firing) (port : Nat) : Operand :=
  match f.ops.find? (fun e => e.1 == port) with
  | some e => e.2
  | none => ⟨f.tag, false, 0, []⟩

/-- The tag that a firing sends: TAG in mode SET takes the iteration in LOW, and in mode DATA the one in bytes 0 and 1 of
source B; else the one that TAG_ACT makes (R148). -/
def Stroke.sentTag (w : Stroke) (tag : Nat) (ops : List (Nat × Operand)) : Nat :=
  if w.kind = 64 * 0x70 + 1 then mkTag (tagCtx tag) (w.low 15 0)
  else if w.kind = 64 * 0x70 + 2 then
    match ops.find? (fun e => e.1 == w.srcB / 2 ^ 11 % 4) with
    | some e => mkTag (tagCtx tag) (e.2.words.getD 0 0).toNat
    | none => mkTag (tagCtx tag) 0
  else tag

/-- Removes the first operand that meets a test. -/
def removeFirst (t : Operand → Bool) : List Operand → List Operand
  | [] => []
  | o :: l => if t o then l else o :: removeFirst t l

/-- The match stores after the matched operands left them, but for retained ones (R84). -/
def Cu.consume (c : Cu) (w : Stroke) (e tag : Nat) : Cu :=
  { c with stores := (trigPorts e).foldl (fun l p =>
      if w.retains p then l
      else l.set p (removeFirst (dataOf (tagCtx tag) (tagIter tag)) (l.getD p []))) c.stores }

-- Assumption log 38 (DEDUCED), 61 (DEDUCED).
/-- A CU input port a length mismatch is seen on (R126, R164): traced, and a defect. -/
def State.mismatch (s : State) (f : Firing) (port : Nat) (long : Bool) : State :=
  (s.trace f.part f.site 0 0x18 (trigStroke (tabGet (fun _ => 0) (s.site f.site).front.trig f.entry) + f.entry * 2 ^ 9 +
    port * 2 ^ 14 + bit01 long * 2 ^ 16)).plateDefect f.part f.site 4

/-- Length mismatches of the operands that a stroke reads (R126). -/
def State.mismatches (s : State) (f : Firing) : State :=
  let l := f.w.reads.map (fun r => (r.1, f.w.expects r.2 (f.op r.1).mark)) ++ f.w.mlPorts.map (fun p => (p, 1))
  l.foldl (fun t r =>
    let o := f.op r.1
    if f.w.tooWide o.mark then t.mismatch f r.1 true
    else if o.words.length = r.2 then t else t.mismatch f r.1 (decide (r.2 < o.words.length))) s

/-- The transfers that outputs put on each local input slot of a site. -/
def SiteImg.slotLoads (m : SiteImg) (out : Sends) : List (Nat × List Xfer) :=
  out.flatMap (fun o => (m.slotsOfPort o.1).map (fun l => (l, xfersOf o.2)))

/-- The unit's sending end has credits for every transfer of some outputs (R90). -/
def State.roomFor (s : State) (site : Nat) (out : Sends) : Bool :=
  let x := s.site site
  let loads := x.front.slotLoads out
  (List.range 8).all (fun l =>
    decide ((loads.foldl (fun n e => if e.1 = l then n + e.2.length else n) 0) ≤ x.su.credit (slotKey 5 l)))

/-- Sends outputs on the local input slots bound to their ports, in order. -/
def State.sendOut (s : State) (site : Nat) (out : Sends) : State :=
  ((s.site site).front.slotLoads out).foldl (fun t e => t.enterSu site e.1 e.2) s

/-- The firing trace (R164). -/
def State.firingTrace (s : State) (f : Firing) (eos : Bool) : State :=
  if f.w.traced then
    s.trace f.part f.site 0 0x10 (trigStroke (tabGet (fun _ => 0) (s.site f.site).front.trig f.entry) + f.entry * 2 ^ 9 +
      f.outTag * 2 ^ 14 + bit01 eos * 2 ^ 34)
  else s

-- Assumption log 52 (DEDUCED).
/-- A compute unit that may fire: its partition's step fires, no SYNC WAIT holds S0, the pacer grants the firing
(R83, R151, R512). -/
def State.mayFire (s : State) (site : Nat) : Option Nat :=
  match s.worksFor site with
  | some p =>
    if !isMu site && (s.site site).cu.waiting.isNone && decide ((s.part p).tokens > 0) then some p else none
  | none => none

-- Assumption log 6 (DESIGN CHOICE).
/-- The data-form firing that comes next at a site, where its stroke is of a kind: the entry of R84 with its operands. -/
def State.matched (s : State) (site kind : Nat) : Option Firing :=
  match s.mayFire site with
  | none => none
  | some p =>
    let x := s.site site
    match x.cu.choose x.front with
    | some (i, false, tag) =>
      let e := tabGet (fun _ => 0) x.front.trig i
      let w : Stroke := (tabGet (fun _ => 0) x.front.strokes (trigStroke e)).toNat
      if w.kind ≠ kind then none
      else
        let ops := (trigPorts e).filterMap (fun q =>
          ((x.cu.store q).find? (dataOf (tagCtx tag) (tagIter tag))).map (fun o => (q, o)))
        some ⟨site, p, i, w, tag, w.sentTag (w.outTag tag (tabGet (fun _ => 0) x.cu.issue i)) ops, ops⟩
    | _ => none

-- Assumption log 6 (DESIGN CHOICE).
/-- The matched operands leave the match stores, the issue count advances, and length mismatches are seen. -/
def State.consumed (s : State) (f : Firing) : State :=
  let x := s.site f.site
  let c := x.cu.consume f.w (tabGet (fun _ => 0) x.front.trig f.entry) f.tag
  let c := { c with issue := tabSet (fun _ => 0) c.issue f.entry ((tabGet (fun _ => 0) c.issue f.entry + 1) % 2 ^ 16) }
  (s.setCu f.site c).mismatches f

/-- The end of a firing: its outputs enter the switch unit, it is traced and counted, and it spends a token of the
pacer. -/
def State.fired (s : State) (f : Firing) (out : Sends) : State :=
  let v := ((s.sendOut f.site out).firingTrace f false).progress f.part f.site
  v.setPart f.part { v.part f.part with tokens := (v.part f.part).tokens - 1 }

-- Assumption log 6 (DESIGN CHOICE), 52 (DEDUCED).
/-- One data-form firing of a stroke of a kind with its family's effect, which answers the state and what it sends, or
nothing where it has to wait. Where an output has no credits the stroke waits with OUTPUT_FULL. -/
def State.fire (s : State) (site kind : Nat) (effect : State → Firing → Option (State × Sends)) : State :=
  match s.matched site kind with
  | none => s
  | some f =>
    match effect (s.consumed f) f with
    | none => s.outputFull site
    | some (u, out) => if s.roomFor site out then u.fired f out else s.outputFull site

/-! ### Sources (R118, R125, R306) -/

/-- Consecutive lines of a buffer. -/
def bufLines (b : Tab Line) (line n : Nat) : Words := (List.range n).map (fun i => tabGet (fun _ => 0) b (line + i))

/-- The bytes of a buffer as a number: `n` bytes from a byte address on. -/
def bufBytes (b : Tab Line) (off n : Nat) : Nat :=
  (wordsNat (bufLines b (off / 64) (ceilDiv (off % 64 + n) 64)) >>> (8 * (off % 64))) % 2 ^ (8 * n)

-- Assumption log 9 (DESIGN CHOICE).
/-- A row of an accumulator bank: 64 FP32 lanes. -/
def Cu.accRow (c : Cu) (bank row : Nat) : List Nat := elemsOf 32 64 (tabGet (fun _ => 0) c.acc (64 * bank + row)).toNat

/-- Stores a row of an accumulator bank. -/
def Cu.setAccRow (c : Cu) (bank row : Nat) (l : List Nat) : Cu :=
  { c with acc := tabSet (fun _ => 0) c.acc (64 * bank + row) (BitVec.ofNat 2048 (packElems 32 l)) }

/-- The words of a source, as they stand, with the format they are in: a marked operand's mark (R306). -/
def State.srcWords (s : State) (f : Firing) (d fmt : Nat) : Words × Nat :=
  let c := (s.site f.site).cu
  match descKind d with
  | 1 => let o := f.op (d / 2 ^ 11 % 4); (o.words, if o.mark ≥ 16 then o.mark % 16 else fmt)
  | 2 => (bufLines c.abuf (d % 1024) (opXfers fmt), fmt)
  | 4 => (laneWords (c.accRow (d / 2 ^ 12 % 2) (d % 64)), 0)
  | _ => ([], fmt)

/-- The 64 FP32 lanes of a source; an IMM source has one constant in every lane. -/
def State.srcLanes (s : State) (f : Firing) (d fmt imm : Nat) : List Nat :=
  if descKind d = 5 then List.replicate 64 imm
  else let r := s.srcWords f d fmt; operandLanes r.2 r.1

/-- The values of a source, without a rounding. -/
def State.srcNums (s : State) (f : Firing) (d fmt : Nat) : List Num :=
  let r := s.srcWords f d fmt
  operandNums r.2 r.1

/-! ### Destinations (R119, R120) -/

/-- Stores consecutive lines of a buffer. -/
def putLines (b : Tab Line) (line : Nat) (ws : Words) : Tab Line :=
  ws.zipIdx.foldl (fun t w => tabSet (fun _ => 0) t (line + w.2) w.1) b

/-- The output ports of a PORTS destination, lowest first. -/
def dstPorts (d : Nat) : List Nat := (List.range 4).filter (fun p => descKind d == 1 && bitOf d p)

-- Assumption log 172 (DESIGN CHOICE).
/-- Writes a result of a stroke to its destination: what the ports send, or the buffer or accumulator row. -/
def State.dstWrite (s : State) (f : Firing) (ws : Words) : State × Sends :=
  let d := f.w.dst
  let c := (s.site f.site).cu
  match descKind d with
  | 1 => (s, (dstPorts d).map (fun p => (p, ⟨f.outTag, false, 0, ws⟩)))
  | 2 => (s.setCu f.site { c with abuf := putLines c.abuf (d % 1024) ws }, [])
  | 3 => (s.setCu f.site { c with wbuf := putLines c.wbuf (d % 4096) ws }, [])
  | 4 => (s.setCu f.site (c.setAccRow (d / 2 ^ 12 % 2) (d % 64) (elemsOf 32 64 (wordsNat (ws.take 4)))), [])
  | _ => (s, [])

/-- Writes FP32 lanes to the destination. -/
def State.dstLanes (s : State) (f : Firing) (l : List Nat) : Option (State × Sends) := some (s.dstWrite f (laneWords l))

/-! ### End-of-stream form (R86, R129, R161) -/

-- Assumption log 173 (DEDUCED).
/-- The output ports that a stroke's end-of-stream form sends a marker on (R161). -/
def Stroke.eosPorts (w : Stroke) : List Nat :=
  match w.opcode with
  | 0x00 => []
  | 0x90 => []
  | 0xA0 => []
  | 0xA1 => []
  | 0x10 => []
  | 0x61 => []
  | 0x60 => (List.range 4).filter (fun p => bitOf (w.low 15 12 ||| w.low 11 8 ||| w.low 7 4 ||| w.low 3 0) p)
  | _ =>
    let l := dstPorts w.dst
    if w.kind = 64 * 0xD0 + 3 ∧ ¬ l.contains (w.low 32 31) then l ++ [w.low 32 31] else l

/-- Discards the data operands of a context that wait on some ports: each is an orphan (R86). -/
def State.orphansOn (s : State) (p site ctx : Nat) (ports : List Nat) : State :=
  let c := (s.site site).cu
  let gone : Operand → Bool := fun o => !o.eos && tagCtx o.tag == ctx
  let n := ports.foldl (fun n q => n + ((c.store q).filter gone).length) 0
  let t := s.setCu site { c with stores := ports.foldl (fun l q =>
    l.set q ((l.getD q []).filter (fun o => !gone o))) c.stores }
  (List.range n).foldl (fun u _ => u.orphan p site) t

/-- What an end-of-stream firing finds waiting of its context (R86, R99): data operands are orphans; the control tokens of
a STEER go without defect. -/
def State.flushPorts (s : State) (p site ctx : Nat) (w : Stroke) (ports : List Nat) : State :=
  if w.opcode = 0x60 then
    let token := w.srcA / 2 ^ 11 % 4
    let c := (s.site site).cu
    let t := s.setCu site { c with stores := c.stores.modify token (fun l =>
      l.filter (fun o => o.eos || tagCtx o.tag != ctx)) }
    t.orphansOn p site ctx (ports.filter (fun q => q != token))
  else s.orphansOn p site ctx ports

-- Assumption log 204 (DESIGN CHOICE).
/-- END_OF_STREAM_FIRING: the entry of R84 whose named ports all hold markers of its context fires in end-of-stream
form (R86): the markers leave, data operands of the context are orphans, and markers go out by the family's row of R161.
A MERGE counts an input of its group, and at the last one sends the group's marker: the tag action on the highest input
iteration (R147). Which output tag the 0x10 record carries where the firing sends no marker (R164) the manual leaves open: the model records the
tag action on the highest iteration of the group so far. -/
def execEndOfStreamFiring (site : Nat) (s : State) : Host.Outcome State Fault Refusal :=
  match s.mayFire site with
  | none => .next s
  | some p =>
    let x := s.site site
    match x.cu.choose x.front with
    | some (i, true, tag) =>
      let e := tabGet (fun _ => 0) x.front.trig i
      let w : Stroke := (tabGet (fun _ => 0) x.front.strokes (trigStroke e)).toNat
      let ctx := trigCtx e
      let issue := tabGet (fun _ => 0) x.cu.issue i
      let outTag := w.outTag tag issue
      let stores := (trigPorts e).foldl (fun l q =>
        l.set q (removeFirst (fun o => o.eos && tagCtx o.tag == ctx) (l.getD q []))) x.cu.stores
      let c := { x.cu with stores := stores, ended := if x.cu.ended.contains i then x.cu.ended else x.cu.ended ++ [i] }
      let g := w.low 39 38
      let m := c.merge.getD g (0, 0)
      let hi := max m.2 (tagIter tag)
      let last := decide (m.1 + 1 > w.low 37 36)
      let c := if w.opcode = 0x61 then { c with merge := c.merge.set g (if last then (0, 0) else (m.1 + 1, hi)) } else c
      let sent := if w.opcode = 0x61 then w.outTag (mkTag (tagCtx tag) hi) issue else outTag
      let f : Firing := ⟨site, p, i, w, tag, sent, []⟩
      let out : Sends := if w.opcode = 0x61 then
          (if last then (dstPorts w.dst).map (fun q => (q, marker sent)) else [])
        else w.eosPorts.map (fun q => (q, marker sent))
      let resp := w.low 34 33
      if w.opcode = 0xA0 ∧ s.matchFree site resp = 0 then .next (s.outputFull site)
      else if s.roomFor site out then
        let t := (s.setCu site c).flushPorts p site ctx w (trigPorts e)
        let t := if w.opcode = 0xA0 then t.deliverTo site resp (marker sent) else t
        let t := ((t.sendOut site out).firingTrace f true).progress p site
        .next (t.setPart p { t.part p with tokens := (t.part p).tokens - 1 })
      else .next (s.outputFull site)
    | _ => .next s

/-- OPERAND_ARRIVAL: the operand at the head of a local output slot of a CU site is stored in the match store of the
port that the slot feeds, where an entry is free; its places are owed to the sender (R82, R89, R90). While the store is
full the slot returns no credit. -/
def execOperandArrival (site slot : Nat) (s : State) : Host.Outcome State Fault Refusal :=
  let x := s.site site
  let l := slot % 8
  match s.worksFor site, headOperand (x.su.outFifo l) with
  | some _, some (o, rest) =>
    let port := x.front.cuPort l
    if isMu site || s.matchFree site port == 0 then .next s
    else .next ((s.setSu site (x.su.take l rest)).deliverTo site port o)
  | _, _ => .next s

end Sys2Proof.Machine
end

