-- ==== Sys2Proof/Machine/Atomics.lean ====
section
/-! DEFINITION. Semaphores, receive windows and the atomic unit of a memory unit (R195, R213 to R222). -/

namespace Sys2Proof.Machine

open Sys2Proof

/-! ### Banks by word (R192, R195) -/

-- Assumption log 9 (DESIGN CHOICE).
/-- A word of the banks. -/
def Mu.word (m : Mu) (w : Nat) : Line := tabGet (fun _ => 0) m.words w

/-- Stores a word of the banks. -/
def Mu.setWord (m : Mu) (w : Nat) (x : Line) : Mu := { m with words := tabSet (fun _ => 0) m.words w x }

/-- The owner code of the bank of a word (R195, R196). -/
def State.bankOwner (s : State) (site w : Nat) : Nat :=
  getBits (s.ra .siteMuBankOwn [site]) (4 * (w % 16) + 3) (4 * (w % 16))

/-- The atomic unit may write a word: its bank is owned by ATOMIC or SHARED. -/
def State.atomicMay (s : State) (site w : Nat) : Bool := s.bankOwner site w == 9 || s.bankOwner site w == 15

/-! ### Receive windows (R215 to R217, R241) -/

/-- Fields of a receive window: first and last word, FULL and EMPTY semaphores, sender module; none where not VALID. -/
def recvWindow (x : Nat) : Option (Nat × Nat × Nat × Nat × Nat) :=
  if bitOf x 15 then some (bitsOf x 13 0, bitsOf x 29 16, bitsOf x 37 32, bitsOf x 45 40, bitsOf x 59 48) else none

/-- A receive window of the front image. -/
def State.window (s : State) (site n : Nat) : Option (Nat × Nat × Nat × Nat × Nat) :=
  recvWindow (tabGet (fun _ => 0) (s.site site).front.xwin n)

/-- The receive window that holds a word. -/
def State.windowOf (s : State) (site w : Nat) : Option Nat :=
  firstBelow 4 (fun n => match s.window site n with
    | some (first, last, _) => decide (first ≤ w) && decide (w ≤ last)
    | none => false)

/-- The receive window whose EMPTY semaphore this is. -/
def State.windowEmpty (s : State) (site sem : Nat) : Option Nat :=
  firstBelow 4 (fun n => match s.window site n with
    | some (_, _, _, empty, _) => empty == sem
    | none => false)

/-! ### Semaphores (R213) -/

/-- The value of a semaphore. -/
def Mu.sem (m : Mu) (k : Nat) : Nat := tabGet (fun _ => 0) m.sems k

/-- Stores a semaphore. -/
def Mu.setSem (m : Mu) (k v : Nat) : Mu := { m with sems := tabSet (fun _ => 0) m.sems k v }

/-- The waiters of a semaphore, first arrival first. -/
def Mu.queue (m : Mu) (k : Nat) : List (Nat × Nat) := tabGet (fun _ => []) m.waiters k

/-- Adds to a semaphore's value, saturating with SEM_OVERFLOW (R213). -/
def State.semAdd (s : State) (p site sem n : Nat) : State :=
  let m := (s.site site).mu
  let v := m.sem sem + n
  if v > 2 ^ 20 - 1 then
    ((s.setMu site (m.setSem sem (2 ^ 20 - 1))).bump .siteSemOverflow [site] 1).plateDefect p site 7
  else s.setMu site (m.setSem sem v)

-- Assumption log 67 (DEDUCED).
/-- BANK_ACK (R462, R465): receiving site, window, words accepted, credits returned. -/
def State.bankAck (s : State) (p dst status txn site win words credits : Nat) : State :=
  s.send p 0x15 dst false status txn
    (leBytes 2 site ++ leBytes 1 win ++ [0] ++ leBytes 4 words ++ leBytes 4 credits)

/-- The atomic queue of a bank (R220). -/
def Mu.atomQueue (m : Mu) (bank : Nat) : List AtomOp := tabGet (fun _ => []) m.atoms bank

/-- Puts an operation in its bank's queue, where it has room (R220). -/
def State.queueAtom (s : State) (site : Nat) (op : AtomOp) : Option State :=
  let m := (s.site site).mu
  let bank := op.addr / 64 % 16
  if (m.atomQueue bank).length < 16 then
    some (s.setMu site { m with atoms := tabSet (fun _ => []) m.atoms bank (m.atomQueue bank ++ [op]) })
  else none

/-- A word of a remote bank write takes a free word of its window and joins the queue of its bank; none without free space or
room (R216, R217, R220). -/
def State.takeWord (s : State) (site : Nat) (h : HeldWrite) (w : Nat × Line) : Option State :=
  match s.windowOf site w.1 with
  | none => none
  | some win =>
    let m := (s.site site).mu
    let free := m.freeWords.getD win 0
    if free = 0 then none
    else (s.setMu site { m with freeWords := m.freeWords.set win (free - 1) }).queueAtom site
      ⟨11, 64 * w.1, 0, 0, 2, h.part, h.src, h.txn, 0, false, w.2⟩

/-- The words of one remote bank write go to their banks, in order, up to the first that has to wait. -/
def State.takeWords (s : State) (site : Nat) (h : HeldWrite) : List (Nat × Line) → State × List (Nat × Line)
  | [] => (s, [])
  | w :: t => match s.takeWord site h w with
    | some u => u.takeWords site h t
    | none => (s, w :: t)

/-- The words that remote bank writes have still to bring go to their banks, oldest write first; a write whose window an older one
waits for stands behind it. -/
def State.takeHeld (s : State) (site : Nat) (shut : List Nat) : List HeldWrite → State × List HeldWrite
  | [] => (s, [])
  | h :: t =>
    let wins : List (Nat × Line) → List Nat := fun l => (l.head?.bind (fun w => s.windowOf site w.1)).toList
    let r := if (wins h.words).any shut.contains then (s, h.words) else s.takeWords site h h.words
    let q := r.1.takeHeld site (shut ++ wins r.2) t
    (q.1, { h with words := r.2 } :: q.2)

/-- Remote bank writes that wait at a site go on where they can (R216, R217, R220). -/
def State.pumpHeld (s : State) (site : Nat) : State :=
  let r := s.takeHeld site [] (s.site site).mu.held
  r.1.setMu site { (r.1.site site).mu with held := r.2 }

/-- A SIGNAL of n: added to the value, or on a window's EMPTY semaphore to its free count, with n credits returned to
the sender (R213, R216). -/
def State.semSignal (s : State) (p site sem n : Nat) : State :=
  match s.windowEmpty site sem with
  | none => s.semAdd p site sem n
  | some win =>
    let m := (s.site site).mu
    let t := s.setMu site { m with freeWords := m.freeWords.set win (m.freeWords.getD win 0 + n) }
    let t := match s.window site win with
      | some (_, _, _, _, src) => t.bankAck p src 0 0 site win 0 n
      | none => t
    t.pumpHeld site

/-- A WAIT for n: taken at once where no earlier waiter stands and the value suffices, else queued (R213). The answer
says whether it was taken. -/
def State.semWait (s : State) (site sem who n : Nat) : State × Bool :=
  let m := (s.site site).mu
  if m.queue sem = [] ∧ n ≤ m.sem sem then (s.setMu site (m.setSem sem (m.sem sem - n)), true)
  else (s.setMu site { m with waiters := tabSet (fun _ => []) m.waiters sem (m.queue sem ++ [(who, n)]) }, false)

/-- Changes an engine of a memory unit. -/
def State.setEngine (s : State) (site e : Nat) (x : Engine) : State :=
  let m := (s.site site).mu
  s.setMu site { m with engines := m.engines.set e x }

/-- An engine of a memory unit. -/
def State.engine (s : State) (site e : Nat) : Engine := (s.site site).mu.engines.getD e Engine.reset

/-- SEMAPHORE_GRANT: the waiter at the head of a semaphore's queue is granted once the value covers it (R151, R213,
R214). -/
def execSemaphoreGrant (site sem : Nat) (s : State) : Host.Outcome State Fault Refusal :=
  let k := sem % 64
  let m := (s.site site).mu
  match s.worksFor site, m.queue k with
  | some _, (who, n) :: t =>
    if m.sem k < n then .next s
    else
      let u := s.setMu site { m.setSem k (m.sem k - n) with waiters := tabSet (fun _ => []) m.waiters k t }
      if who < 4 then
        match neighbour site who with
        | some c => .next (u.setCu c { (u.site c).cu with waiting := none })
        | none => .next u
      else
        let e := u.engine site (who - 4)
        .next (u.setEngine site (who - 4) { e with waited := e.waited + 1, waiting := false })
  | _, _ => .next s

/-! ### Atomics and dispensers (R219 to R222) -/

/-- The value of an atomic operation's word after it: 64-bit operations by code, FADD on 32 bits. -/
def atomResult (kind old x y : Nat) : Nat :=
  match kind with
  | 0 => (old + x) % 2 ^ 64
  | 1 => max old (x % 2 ^ 64)
  | 2 => min old (x % 2 ^ 64)
  | 3 => old &&& (x % 2 ^ 64)
  | 4 => old ||| (x % 2 ^ 64)
  | 5 => x % 2 ^ 64
  | 6 => if old = y % 2 ^ 64 then x % 2 ^ 64 else old
  | _ => toFp32 (numSum [ofFp32 old, ofFp32 (x % 2 ^ 32)])

/-- A number of `bits` bits within a line. -/
def lineGet (l : Line) (off bits : Nat) : Nat := (l.toNat >>> off) % 2 ^ bits

/-- A line with `bits` bits replaced. -/
def linePut (l : Line) (off bits n : Nat) : Line :=
  l &&& ~~~(BitVec.ofNat 512 (2 ^ bits - 1) <<< off) ||| (BitVec.ofNat 512 (n % 2 ^ bits) <<< off)

/-- A dispenser word's fields (R221): NEXT, LIMIT, CLAIMED, RETIRED. -/
structure Dispenser where
  next : Nat
  limit : Nat
  claimed : Nat
  retired : Nat
  deriving DecidableEq, Repr

/-- The dispenser word that 128 bits hold. -/
def Dispenser.ofNat (n : Nat) : Dispenser := ⟨bitsOf n 31 0, bitsOf n 63 32, bitsOf n 95 64, bitsOf n 127 96⟩

/-- The 128 bits of a dispenser word. -/
def Dispenser.toNat (d : Dispenser) : Nat :=
  d.next % 2 ^ 32 + d.limit % 2 ^ 32 * 2 ^ 32 + d.claimed % 2 ^ 32 * 2 ^ 64 + d.retired % 2 ^ 32 * 2 ^ 96

/-- The response of the atomic unit (R153): status code 0 OK, 1 EXHAUSTED, 2 BUSY, and the index. -/
abbrev Response := Option (Nat × Nat)

-- Assumption log 55 (DESIGN CHOICE).
/-- CLAIM (R222); an EXHAUSTED response has no index of its own. -/
def Dispenser.claim (d : Dispenser) (open_ : Nat) : Dispenser × Response :=
  if d.next < d.limit then ({ d with next := d.next + 1, claimed := d.claimed + 1 }, some (0, d.next))
  else (d, some (1, open_))

/-- ARM with a new limit, and a reset of the counts where asked (R222). -/
def Dispenser.arm (d : Dispenser) (limit : Nat) (reset : Bool) : Dispenser × Response :=
  if d.claimed = d.retired then
    let e := if reset then { next := 0, limit := limit, claimed := 0, retired := 0 } else { d with limit := limit }
    (e, some (0, e.next))
  else (d, some (2, d.next))

/-- RETIRE (R222); none where nothing is left to retire. -/
def Dispenser.retire (d : Dispenser) : Option Dispenser :=
  if d.retired < d.claimed then some { d with retired := d.retired + 1 } else none

/-- The answer of an atomic operation reaches its requester (R153, R464, R466). -/
def State.atomAnswer (s : State) (op : AtomOp) (status old : Nat) : State :=
  if op.dest = 2 then s.send op.a 0x17 op.b false status op.c (if status = 0 then leBytes 8 old else [])
  else if op.dest = 3 then
    let e := s.engine op.a op.b
    s.setEngine op.a op.b { e with posted := e.posted.map (fun w => if w.txn = op.c then { w with kind := 9 } else w) }
  else s

-- Assumption log 55 (DESIGN CHOICE).
/-- A dispenser's response enters the match store of its port, as one transfer or as a marker (R153). -/
def State.dispenserAnswer (s : State) (op : AtomOp) (r : Response) : State :=
  match r with
  | none => s
  | some (st, ix) =>
    if st = 1 ∧ op.eosExh then s.deliverTo op.a op.b (marker op.tag)
    else s.deliverTo op.a op.b ⟨op.tag, false, 0, [BitVec.ofNat 512 (ix % 2 ^ 32 + st * 2 ^ 32)]⟩

/-- A word of a remote bank write has been written, or discarded without ownership; the write whose words are all done is
acknowledged, and its receive buffers are free (R195, R216, R465). -/
def State.wordDone (s : State) (p site : Nat) (op : AtomOp) (ok : Bool) : State :=
  let is : HeldWrite → Bool := fun h => h.part == op.a && h.src == op.b && h.txn == op.c
  let m := (s.site site).mu
  let l := m.held.map (fun h => if is h then { h with
      left := h.left - 1
      total := h.total - bit01 !ok
      status := if ok || h.status != 0 then h.status else 2 } else h)
  let whole : HeldWrite → Bool := fun h => is h && h.left == 0
  (l.filter whole).foldl (fun t h => (t.freeRx h.port 0x14 h.len).bankAck p h.src h.status h.txn site h.win h.total 0)
    (s.setMu site { m with held := l.filter (fun h => !whole h) })

/-- A word of a remote bank write is written and signals its window's FULL (R195, R216). -/
def State.bankWord (s : State) (p site : Nat) (op : AtomOp) : State :=
  let w := op.addr / 64
  if s.atomicMay site w then
    let t := s.setMu site ((s.site site).mu.setWord w op.data)
    let t := match (t.windowOf site w).bind (t.window site) with
      | some (_, _, full, _, _) => t.semAdd p site full 1
      | none => t
    (t.progress p site).wordDone p site op true
  else (s.ownerMiss p site).wordDone p site op false

/-- The atomic unit performs one operation on its word (R195, R216, R219 to R222). -/
def State.doAtom (s : State) (p site : Nat) (op : AtomOp) : State :=
  let w := op.addr / 64
  let m := (s.site site).mu
  if op.kind = 11 then s.bankWord p site op
  else if !s.atomicMay site w then (s.ownerMiss p site).atomAnswer op 2 0
  else if op.kind < 8 then
    let bits := if op.kind = 7 then 32 else 64
    let off := op.addr % 64 * 8 / bits * bits
    let old := lineGet (m.word w) off bits
    let t := s.setMu site (m.setWord w (linePut (m.word w) off bits (atomResult op.kind old op.x op.y)))
    (t.progress p site).atomAnswer op 0 old
  else
    let off := op.addr % 64 / 16 * 128
    let d := Dispenser.ofNat (lineGet (m.word w) off 128)
    let put : Dispenser → State := fun e => s.setMu site (m.setWord w (linePut (m.word w) off 128 e.toNat))
    if op.kind = 8 then
      let r := d.claim (Config.freeNat s.free)
      ((put r.1).fresh.progress p site).dispenserAnswer op r.2
    else if op.kind = 9 then
      let r := d.arm (op.x % 2 ^ 32) (bitOf op.x 32)
      ((put r.1).progress p site).dispenserAnswer op r.2
    else match d.retire with
      | some e => (put e).progress p site
      | none => ((s.bump .siteRetireExcess [site] 1).progress p site).plateDefect p site 8

/-- The match store that a dispenser's answer needs has no entry free. -/
def State.answerBlocked (s : State) (op : AtomOp) : Bool :=
  decide (op.dest = 1) && decide (op.kind ≠ 10) && s.matchFree op.a op.b == 0

/-- The atomic unit performs the operation at the head of a bank's queue, where it is of some kinds. -/
def State.nextAtom (s : State) (site bank : Nat) (kinds : Nat → Bool) : State :=
  let m := (s.site site).mu
  match s.atomFor site, m.atomQueue bank with
  | some p, op :: t =>
    if kinds op.kind && !s.answerBlocked op then
      (s.setMu site { m with atoms := tabSet (fun _ => []) m.atoms bank t }).doAtom p site op
    else s
  | _, _ => s

/-! ### Circuits (R88, R152) -/

/-- The slot-table entry that takes an input slot on an output key: the lowest one. -/
def SiteImg.branch (m : SiteImg) (port slot : Nat) : Option Nat :=
  firstBelow 40 (fun k =>
    let v := tabGet (fun _ => 0) m.slots k
    bitOf v 15 && bitsOf v 14 12 == port && bitsOf v 11 9 == slot)

-- Assumption log 54 (DEDUCED).
/-- The site and local output slot at the end of the circuit that an input slot of a site starts. -/
def State.circuitEnd (s : State) : Nat → Nat → Nat → Nat → Option (Nat × Nat)
  | 0, _, _, _ => none
  | fuel + 1, site, port, slot =>
    match (s.site site).front.branch port slot with
    | none => none
    | some k =>
      if k / 8 = 4 then some (site, k % 8)
      else match neighbour site (k / 8) with
        | some n => s.circuitEnd fuel n (opposite (k / 8)) (k % 8)
        | none => none

-- Assumption log 54 (DEDUCED), 176 (DESIGN CHOICE).
/-- The memory unit that a CLAIM, ARM or RETIRE reaches (R152): the neighbour in DIR, or the one at the end of the
circuit of its port. Where the circuit is longer than 256 hops or ends at no memory unit, which the manual leaves open, the request
is dropped without effect. It also leaves open which circuit is meant where the port is bound to several local slots or the circuit
fans out: the model follows the lowest slot bound, and at each switch unit the lowest output key. -/
def State.dispenserSite (s : State) (f : Firing) : Option Nat :=
  if f.w.low 37 37 = 0 then (neighbour f.site (f.w.low 36 35)).filter isMu
  else match (dstPorts f.w.dst).head? with
    | none => none
    | some port => match ((s.site f.site).front.slotsOfPort port).head? with
      | none => none
      | some l => ((s.circuitEnd 256 f.site 4 l).map (·.1)).filter isMu

-- Assumption log 54 (DEDUCED).
/-- A CU's request to a dispenser word joins the queue of its home bank; while the queue is full the stroke waits
(R153, R220). -/
def State.dispenserRequest (s : State) (f : Firing) (kind x : Nat) : Option (State × Sends) :=
  match s.dispenserSite f with
  | none => some (s, [])
  | some m =>
    let op : AtomOp := ⟨kind, 16 * f.w.low 31 16, x, 0, 1, f.site, f.w.low 34 33, 0, f.outTag, f.w.low 32 32 == 1, 0⟩
    (s.queueAtom m op).map (fun t => (t, []))

end Sys2Proof.Machine
end

