-- ==== Sys2Proof/Machine/Crypto.lean ====
section
/-! DEFINITION. The algorithms that the manual names by their standards: SHA-384 and HMAC-SHA-384 (FIPS 180-4, FIPS 198-1), ECDSA
verification on P-384 (FIPS 186-5, SP 800-186), AES-256 (FIPS 197) in XTS mode (IEEE 1619) (R436, R526 to R534). -/

namespace Sys2Proof.Machine

open Sys2Proof

/-! ### SHA-384 -/

/-- Bytes as a number, most significant first. -/
def beNat (bs : List Byte) : Nat := bs.foldl (fun a b => a * 256 + b.toNat) 0

/-- A number as n bytes, most significant first. -/
def beBytes (n x : Nat) : List Byte := (leBytes n x).reverse

/-- A 64-bit word rotated right. -/
def rotr64 (n x : Nat) : Nat := (x >>> n ||| x <<< (64 - n)) % 2 ^ 64

/-- The 80 round constants. -/
def shaK : List Nat :=
  [0x428a2f98d728ae22, 0x7137449123ef65cd, 0xb5c0fbcfec4d3b2f, 0xe9b5dba58189dbbc,
    0x3956c25bf348b538, 0x59f111f1b605d019, 0x923f82a4af194f9b, 0xab1c5ed5da6d8118,
    0xd807aa98a3030242, 0x12835b0145706fbe, 0x243185be4ee4b28c, 0x550c7dc3d5ffb4e2,
    0x72be5d74f27b896f, 0x80deb1fe3b1696b1, 0x9bdc06a725c71235, 0xc19bf174cf692694,
    0xe49b69c19ef14ad2, 0xefbe4786384f25e3, 0x0fc19dc68b8cd5b5, 0x240ca1cc77ac9c65] ++
  [0x2de92c6f592b0275, 0x4a7484aa6ea6e483, 0x5cb0a9dcbd41fbd4, 0x76f988da831153b5,
    0x983e5152ee66dfab, 0xa831c66d2db43210, 0xb00327c898fb213f, 0xbf597fc7beef0ee4,
    0xc6e00bf33da88fc2, 0xd5a79147930aa725, 0x06ca6351e003826f, 0x142929670a0e6e70,
    0x27b70a8546d22ffc, 0x2e1b21385c26c926, 0x4d2c6dfc5ac42aed, 0x53380d139d95b3df,
    0x650a73548baf63de, 0x766a0abb3c77b2a8, 0x81c2c92e47edaee6, 0x92722c851482353b] ++
  [0xa2bfe8a14cf10364, 0xa81a664bbc423001, 0xc24b8b70d0f89791, 0xc76c51a30654be30,
    0xd192e819d6ef5218, 0xd69906245565a910, 0xf40e35855771202a, 0x106aa07032bbd1b8,
    0x19a4c116b8d2d0c8, 0x1e376c085141ab53, 0x2748774cdf8eeb99, 0x34b0bcb5e19b48a8,
    0x391c0cb3c5c95a63, 0x4ed8aa4ae3418acb, 0x5b9cca4f7763e373, 0x682e6ff3d6b2b8a3,
    0x748f82ee5defb2fc, 0x78a5636f43172f60, 0x84c87814a1f0ab72, 0x8cc702081a6439ec] ++
  [0x90befffa23631e28, 0xa4506cebde82bde9, 0xbef9a3f7b2c67915, 0xc67178f2e372532b,
    0xca273eceea26619c, 0xd186b8c721c0c207, 0xeada7dd6cde0eb1e, 0xf57d4f7fee6ed178,
    0x06f067aa72176fba, 0x0a637dc5a2c898a6, 0x113f9804bef90dae, 0x1b710b35131c471b,
    0x28db77f523047d84, 0x32caab7b40c72493, 0x3c9ebe0a15c9bebc, 0x431d67c49c100d4c,
    0x4cc5d4becb3e42b6, 0x597f299cfc657e2a, 0x5fcb6fab3ad6faec, 0x6c44198c4a475817]

/-- The eight working variables. -/
structure Sha where
  a : Nat
  b : Nat
  c : Nat
  d : Nat
  e : Nat
  f : Nat
  g : Nat
  h : Nat
  deriving DecidableEq, Repr

/-- The initial hash value of SHA-384. -/
def Sha.init : Sha :=
  ⟨0xcbbb9d5dc1059ed8, 0x629a292a367cd507, 0x9159015a3070dd17, 0x152fecd8f70e5939,
    0x67332667ffc00b31, 0x8eb44a8768581511, 0xdb0c2e0d64f98fa7, 0x47b5481dbefa4fa4⟩

/-- One round with a constant and a word of the message schedule. -/
def Sha.round (v : Sha) (k w : Nat) : Sha :=
  let s1 := rotr64 14 v.e ^^^ rotr64 18 v.e ^^^ rotr64 41 v.e
  let ch := (v.e &&& v.f) ^^^ ((2 ^ 64 - 1 - v.e) &&& v.g)
  let t1 := v.h + s1 + ch + k + w
  let s0 := rotr64 28 v.a ^^^ rotr64 34 v.a ^^^ rotr64 39 v.a
  let maj := (v.a &&& v.b) ^^^ (v.a &&& v.c) ^^^ (v.b &&& v.c)
  ⟨(t1 + s0 + maj) % 2 ^ 64, v.a, v.b, v.c, (v.d + t1) % 2 ^ 64, v.e, v.f, v.g⟩

/-- The word of the message schedule that follows 16 others. -/
def shaNext (w : List Nat) : Nat :=
  let x := w.getD 1 0
  let y := w.getD 14 0
  ((rotr64 19 y ^^^ rotr64 61 y ^^^ y >>> 6) + w.getD 9 0 + (rotr64 1 x ^^^ rotr64 8 x ^^^ x >>> 7) + w.getD 0 0) % 2 ^ 64

/-- The rounds with the given constants; `w` holds the 16 words of the schedule from here on. -/
def Sha.rounds : List Nat → List Nat → Sha → Sha
  | [], _, v => v
  | k :: ks, w, v => Sha.rounds ks (w.drop 1 ++ [shaNext w]) (v.round k (w.getD 0 0))

/-- One block of 128 bytes. -/
def Sha.block (v : Sha) (bs : List Byte) : Sha :=
  let r := Sha.rounds shaK ((List.range 16).map (fun i => beNat ((bs.drop (8 * i)).take 8))) v
  let s := fun (x y : Nat) => (x + y) % 2 ^ 64
  ⟨s v.a r.a, s v.b r.b, s v.c r.c, s v.d r.d, s v.e r.e, s v.f r.f, s v.g r.g, s v.h r.h⟩

/-- Consecutive blocks. -/
def Sha.blocks : Nat → List Byte → Sha → Sha
  | 0, _, v => v
  | n + 1, bs, v => Sha.blocks n (bs.drop 128) (v.block (bs.take 128))

/-- The message padded to whole blocks: a one bit, zeros and the length in bits. -/
def shaPad (bs : List Byte) : List Byte :=
  bs ++ [0x80] ++ List.replicate ((239 - bs.length % 128) % 128) 0 ++ beBytes 16 (8 * bs.length)

/-- The 48 bytes of the digest. -/
def sha384Bytes (bs : List Byte) : List Byte :=
  let m := shaPad bs
  let v := Sha.blocks (m.length / 128) m Sha.init
  [v.a, v.b, v.c, v.d, v.e, v.f].flatMap (beBytes 8)

/-- SHA-384 of a byte list, as the number whose bytes, least significant first, are the digest (FIPS 180-4, R526). -/
@[irreducible] def sha384 (bs : List Byte) : Nat := leNat (sha384Bytes bs)

/-- HMAC-SHA-384: key and message (R528). -/
@[irreducible] def hmac384 (key msg : List Byte) : Nat :=
  let k := (if 128 < key.length then sha384Bytes key else key)
  let k := k ++ List.replicate (128 - k.length) 0
  sha384 (k.map (fun b => b ^^^ 0x5C) ++ sha384Bytes (k.map (fun b => b ^^^ 0x36) ++ msg))

/-! ### P-384 -/

/-- The field prime, the order of the base point, the coefficient b and the base point. -/
def p384P : Nat := 2 ^ 384 - 2 ^ 128 - 2 ^ 96 + 2 ^ 32 - 1
def p384N : Nat := 0xffffffffffffffffffffffffffffffffffffffffffffffffc7634d81f4372ddf581a0db248b0a77aecec196accc52973
def p384B : Nat := 0xb3312fa7e23ee7e4988e056be3f82d19181d9c6efe8141120314088f5013875ac656398d8a2ed19d2a85c8edd3ec2aef
def p384G : Nat × Nat :=
  (0xaa87ca22be8b05378eb1c71ef320ad746e1d3b628ba79b9859f741e082542a385502f25dbf55296c3a545e3872760ab7,
    0x3617de4a96262c6f5d9e98bf9292dc29f8f41dbd289a147ce9da3113b5f0b8c00a60b1ce1d7e819d7a431d7c90ea0e5f)

/-- A power modulo m, over the low bits of the exponent. -/
def powMod (m : Nat) : Nat → Nat → Nat → Nat
  | 0, _, _ => 1 % m
  | k + 1, x, e => (if e % 2 = 1 then x else 1) * powMod m k (x * x % m) (e / 2) % m

/-- The inverse modulo a prime of at most 384 bits. -/
def invMod (m x : Nat) : Nat := powMod m 384 (x % m) (m - 2)

/-- The sum of two points of the curve; none is the point at infinity. -/
def ecAdd : Option (Nat × Nat) → Option (Nat × Nat) → Option (Nat × Nat)
  | none, q => q
  | q, none => q
  | some (x, y), some (u, v) =>
    let p := p384P
    if x = u ∧ (y + v) % p = 0 then none
    else
      let l := if x = u then (3 * x * x + p - 3) * invMod p (2 * y) % p else (v + p - y) * invMod p (u + p - x) % p
      let r := (l * l + 2 * p - x - u) % p
      some (r, (l * (x + p - r) + p - y) % p)

/-- A multiple of a point, over the low bits of the factor. -/
def ecMul : Nat → Nat → Option (Nat × Nat) → Option (Nat × Nat)
  | 0, _, _ => none
  | k + 1, n, q => ecAdd (if n % 2 = 1 then q else none) (ecMul k (n / 2) (ecAdd q q))

/-- The point of a public key: X, then Y, 48 bytes each (R533). -/
def ecPoint (key : List Byte) : Nat × Nat := (beNat (key.take 48), beNat ((key.drop 48).take 48))

/-- A public key is a point of P-384 (R533, BAD_KEY). -/
@[irreducible] def onCurve (key : List Byte) : Bool :=
  let q := ecPoint key
  decide (q.1 < p384P) && decide (q.2 < p384P) && q.2 * q.2 % p384P == (q.1 * q.1 * q.1 + (p384P - 3) * q.1 + p384B) % p384P

/-- ECDSA verification on P-384 over SHA-384: public key, signed bytes, signature r followed by s (FIPS 186-5, R396, R526). -/
@[irreducible] def ecdsaVerify (key msg sig : List Byte) : Bool :=
  let r := beNat (sig.take 48)
  let t := beNat ((sig.drop 48).take 48)
  if onCurve key && decide (0 < r) && decide (r < p384N) && decide (0 < t) && decide (t < p384N) then
    let w := invMod p384N t
    let e := beNat (sha384Bytes msg)
    match ecAdd (ecMul 384 (e * w % p384N) (some p384G)) (ecMul 384 (r * w % p384N) (some (ecPoint key))) with
    | some q => q.1 % p384N == r
    | none => false
  else false

/-! ### AES-256 and XTS -/

/-- Multiplication by x in the field of AES. -/
def xtime (a : Nat) : Nat := if a < 128 then 2 * a else (2 * a) ^^^ 0x11B

/-- Multiplication in the field of AES, over the low bits of the second factor. -/
def gfMul : Nat → Nat → Nat → Nat
  | 0, _, _ => 0
  | k + 1, a, b => (if b % 2 = 1 then a else 0) ^^^ gfMul k (xtime a) (b / 2)

/-- The inverse in the field of AES, 0 for 0: the power 254. -/
def gfInv (a : Nat) : Nat :=
  let sq : Nat → Nat := fun x => gfMul 8 x x
  let a2 := sq a
  let a4 := sq a2
  let a8 := sq a4
  let a16 := sq a8
  let a32 := sq a16
  let a64 := sq a32
  let a128 := sq a64
  gfMul 8 a2 (gfMul 8 a4 (gfMul 8 a8 (gfMul 8 a16 (gfMul 8 a32 (gfMul 8 a64 a128)))))

/-- A byte rotated left. -/
def rotl8 (n x : Nat) : Nat := (x <<< n ||| x >>> (8 - n)) % 256

/-- The substitution of AES, and its inverse. -/
def aesSub (x : Nat) : Nat :=
  let b := gfInv x
  b ^^^ rotl8 1 b ^^^ rotl8 2 b ^^^ rotl8 3 b ^^^ rotl8 4 b ^^^ 0x63
def aesUnsub (x : Nat) : Nat := gfInv (rotl8 1 x ^^^ rotl8 3 x ^^^ rotl8 6 x ^^^ 0x05)

/-- The words of the key schedule, newest first. -/
def aesExpand : Nat → List (List Nat) → List (List Nat)
  | 0, ws => ws
  | n + 1, ws =>
    let i := ws.length
    let t := ws.getD 0 []
    let u := if i % 8 = 0 then
        ((t.drop 1 ++ t.take 1).map aesSub).zipIdx.map (fun x => if x.2 = 0 then x.1 ^^^ 2 ^ (i / 8 - 1) else x.1)
      else if i % 8 = 4 then t.map aesSub else t
    aesExpand n (List.zipWith (· ^^^ ·) (ws.getD 7 []) u :: ws)

/-- The 15 round keys of a key of 32 bytes. -/
def aesKeys (key : List Nat) : List (List Nat) :=
  let ws := (aesExpand 52 ((List.range 8).map (fun i => (key.drop (4 * i)).take 4)).reverse).reverse
  (List.range 15).map (fun r => ((ws.drop (4 * r)).take 4).flatten)

/-- One column of a matrix product in the field of AES. -/
def aesMix (c : List Nat) (b : List Nat) : List Nat :=
  (List.range 16).map (fun i =>
    let col := (b.drop (i / 4 * 4)).take 4
    (List.range 4).foldl (fun a k => a ^^^ gfMul 8 (col.getD k 0) (c.getD ((k + 4 - i % 4) % 4) 0)) 0)

/-- The rows of a block shifted left by their number, times `k`. -/
def aesShift (k : Nat) (b : List Nat) : List Nat := (List.range 16).map (fun i => b.getD ((i + 4 * k * (i % 4)) % 16) 0)

/-- Encrypts a block of 16 bytes (FIPS 197). -/
def aesEncrypt (keys : List (List Nat)) (b : List Nat) : List Nat :=
  let x := List.zipWith (· ^^^ ·) b (keys.getD 0 [])
  let y := ((keys.drop 1).take 13).foldl (fun v k => List.zipWith (· ^^^ ·) (aesMix [2, 3, 1, 1] (aesShift 1 (v.map aesSub))) k) x
  List.zipWith (· ^^^ ·) (aesShift 1 (y.map aesSub)) (keys.getD 14 [])

/-- Decrypts a block of 16 bytes (FIPS 197). -/
def aesDecrypt (keys : List (List Nat)) (b : List Nat) : List Nat :=
  let x := (aesShift 3 (List.zipWith (· ^^^ ·) b (keys.getD 14 []))).map aesUnsub
  let y := ((keys.drop 1).take 13).reverse.foldl (fun v k =>
    (aesShift 3 (aesMix [14, 11, 13, 9] (List.zipWith (· ^^^ ·) v k))).map aesUnsub) x
  List.zipWith (· ^^^ ·) y (keys.getD 0 [])

/-- The n bytes of a number, least significant first. -/
def numBytes (n x : Nat) : List Nat := (List.range n).map (fun i => x >>> (8 * i) % 256)

/-- The number of some bytes, least significant first. -/
def bytesNum (l : List Nat) : Nat := l.foldr (fun b a => b + 256 * a) 0

/-- The blocks of a data unit, each between two additions of the tweak, which is doubled from block to block (IEEE 1619). -/
def xtsBlocks (f : List Nat → List Nat) : Nat → Nat → List Byte → List Byte
  | 0, _, _ => []
  | n + 1, t, bs =>
    leBytes 16 (bytesNum (f (numBytes 16 (leNat (bs.take 16) ^^^ t))) ^^^ t) ++
      xtsBlocks f n (2 * t % 2 ^ 128 ^^^ (if 2 ^ 127 ≤ t then 0x87 else 0)) (bs.drop 16)

/-- The first tweak of a data unit: its number, encrypted under the second key. -/
def xtsTweak (key tweak : Nat) : Nat := bytesNum (aesEncrypt (aesKeys (numBytes 32 (key >>> 256))) (numBytes 16 tweak))

/-- AES-256-XTS encryption: the two keys, the first in the low 256 bits, the tweak and a data unit (IEEE 1619, R436). -/
@[irreducible] def xtsEncrypt (key tweak : Nat) (bs : List Byte) : List Byte :=
  xtsBlocks (aesEncrypt (aesKeys (numBytes 32 key))) ((bs.length + 15) / 16) (xtsTweak key tweak) bs

/-- AES-256-XTS decryption (IEEE 1619, R436). -/
@[irreducible] def xtsDecrypt (key tweak : Nat) (bs : List Byte) : List Byte :=
  xtsBlocks (aesDecrypt (aesKeys (numBytes 32 key))) ((bs.length + 15) / 16) (xtsTweak key tweak) bs

end Sys2Proof.Machine
end

