-- ==== Sys2Proof/Machine/BlackBox.lean ====
section
/-! DEFINITION. The black-box writer and its readout (R547 to R563). -/

namespace Sys2Proof.Machine

open Sys2Proof

/-- Ring slots and first-fault slots (R547). -/
abbrev ringSlots : Nat := 2092992
abbrev ringBase : Nat := 4160
abbrev ffBase : Nat := 64
abbrev ffSlots : Nat := 4096

/-- A slot of the MRAM; unlisted slots are as manufactured. -/
def State.slot (s : State) (i : Nat) : Line := tabGet (fun _ => 0) s.bbox.mram i

/-- SEQ of a record. -/
def recSeq (r : Line) : Nat := bitsOf r.toNat 175 128

/-- CLASS of a record. -/
def recClass (r : Line) : Nat := bitsOf r.toNat 207 200

/-- The CRC of a record holds (R551). -/
def recIntact (r : Line) : Bool := crc32c (leBytes 60 r.toNat) == bitsOf r.toNat 511 480

-- Assumption log 208 (DESIGN CHOICE).
/-- A slot of the control block: a value, and the CRC-32C over bytes 0 to 59 (R547). -/
def ctlSlot (v : Nat) : Line := BitVec.ofNat 512 (v % 2 ^ 480 + crc32c (leBytes 60 v) * 2 ^ 480)

-- Assumption log 208 (DESIGN CHOICE).
/-- Saves HEAD_SEQ into the copy of the control block, slot 0 or 1, whose turn it is (R550). -/
def BBox.save (b : BBox) : BBox :=
  { b with mram := tabSet (fun _ => 0) b.mram (bit01 b.saveB) (ctlSlot ((b.head - 1) % 2 ^ 48)), saveB := !b.saveB }

-- Assumption log 208 (DESIGN CHOICE).
/-- Writes the clear state of the control block, slot 2: OLDEST_SEQ of the last clear, and the SEQ from which on records of the
first-fault area count (R547, R561). -/
def BBox.saveClear (b : BBox) (area : Bool) : BBox :=
  let old := tabGet (fun _ => 0) b.mram 2
  let ff := if area then b.cleared else bitsOf old.toNat 95 48
  { b with mram := tabSet (fun _ => 0) b.mram 2 (ctlSlot (b.cleared % 2 ^ 48 + ff * 2 ^ 48)) }

/-- The value of a slot of the control block, where its CRC holds. -/
def BBox.ctl (b : BBox) (i : Nat) : Option Nat :=
  let r := tabGet (fun _ => 0) b.mram i
  if r != 0 && recIntact r then some r.toNat else none

/-- The valid copy with the higher value, and whether it is the first copy; zero with none (R550). -/
def BBox.savedHead (b : BBox) : Nat × Bool :=
  match (b.ctl 0).map (· % 2 ^ 48), (b.ctl 1).map (· % 2 ^ 48) with
  | some x, some y => if x < y then (y, false) else (x, true)
  | some x, none => (x, true)
  | none, some y => (y, false)
  | none, none => (0, false)

/-- The SEQ after the newest valid record among the 257 ring slots from a SEQ on (R550); 0 with none. -/
def BBox.scan (b : BBox) (from_ : Nat) : Nat :=
  (List.range 257).foldl (fun h i =>
    let r := tabGet (fun _ => 0) b.mram (ringBase + (from_ + i) % ringSlots)
    if r != 0 && recIntact r then max h (recSeq r + 1) else h) 0

/-- First-fault slots used: those in front that hold a valid record of the present fill. -/
def BBox.ffScan (b : BBox) (from_ : Nat) : Nat → Nat → Nat
  | 0, i => i
  | n + 1, i =>
    let r := tabGet (fun _ => 0) b.mram (ffBase + i)
    if r != 0 && recIntact r && decide (from_ ≤ recSeq r) then b.ffScan from_ n (i + 1) else i

/-- Mount (R550): the writer finds in the MRAM alone the newest record, what the last clear left, and the first-fault slots used. -/
def BBox.mount (b : BBox) : BBox :=
  let c := (b.ctl 2).getD 0
  let sv := b.savedHead
  let h := b.scan sv.1
  { b with queue := [], lostNow := 0, head := h, nextSeq := h, cleared := c % 2 ^ 48,
           ffCount := b.ffScan (bitsOf c 95 48) ffSlots 0, saveB := sv.2 }

/-- The lowest SEQ that the ring still holds and that was written after the last clear (R548). -/
def BBox.oldest (b : BBox) : Nat := max b.cleared (b.head - ringSlots)

/-- Shows HEAD_SEQ, OLDEST_SEQ, FF_COUNT and FF_FULL. -/
def State.showBBox (s : State) : State :=
  let b := s.bbox
  let t := s.setf .bboxHeadSeqSeq [] (b.head - 1)
  let t := t.setf .bboxOldestSeqSeq [] b.oldest
  let t := t.setf .bboxBbStateFfCount [] b.ffCount
  t.setf .bboxBbStateFfFull [] (bit01 (decide (ffSlots ≤ b.ffCount)))

/-- Writes a record to its ring slot, and to the next first-fault slot where its class is enabled and the area has
room (R548, R549, R550). -/
def BBox.write (b : BBox) (r : Line) (ff : Bool) : BBox :=
  let m := tabSet (fun _ => 0) b.mram (ringBase + recSeq r % ringSlots) r
  let copy := ff && decide (b.ffCount < ffSlots)
  let m := if copy then tabSet (fun _ => 0) m (ffBase + b.ffCount) r else m
  let c := { b with mram := m, head := max b.head (recSeq r + 1), ffCount := if copy then b.ffCount + 1 else b.ffCount }
  if (recSeq r + 1) % 256 = 0 then c.save else c

/-- The writer is mounted. -/
def State.bbReady (s : State) : Bool := s.fv .bboxBbStateReady [] == 1

/-- Writes every queued record in order (R556). -/
def State.drainBBox (s : State) : State :=
  (s.setBBox (s.bbox.queue.foldl (fun b e => b.write e.1 e.2) { s.bbox with queue := [] })).showBBox

-- Assumption log 162 (DESIGN CHOICE).
/-- BLACK_BOX_WRITE (R549, R555): writes the record at the head of the queue. -/
def execBlackBoxWrite (s : State) : Host.Outcome State Fault Refusal :=
  match s.bbReady, s.bbox.queue with
  | true, e :: t => .next ((s.setBBox ({ s.bbox with queue := t }.write e.1 e.2)).showBBox)
  | _, _ => .next s

/-- OVERFLOW (R555): once the queue has room, one OVERFLOW record carries the count of discarded records. -/
def execOverflow (s : State) : Host.Outcome State Fault Refusal :=
  if s.bbox.queue.length < 512 ∧ s.bbox.lostNow ≠ 0 then
    let n := s.bbox.lostNow
    .next ((s.setBBox { s.bbox with lostNow := 0 }).bbPut none 0x07 0 (payloadOf [(0, 8, n)]))
  else .next s

/-- The slot that an area and an index select, and RD_STATUS for it (R557, R562): VALID 63, CRC_BAD 62, ABSENT 61. -/
def State.readSlot (s : State) (ff : Bool) (i : Nat) : Line × Word :=
  let r := if ff then s.slot (ffBase + i % ffSlots) else s.slot (ringBase + i % ringSlots)
  let ok := recIntact r
  let absent := if ff then decide (s.bbox.ffCount ≤ i) else decide (i < s.bbox.oldest) || decide (s.bbox.head ≤ i)
  let valid := ok && (ff || recSeq r == i)
  (r, putBits (putBits (putBits 0 63 63 (bit01 valid)) 62 62 (bit01 (!ok))) 61 61 (bit01 absent))

/-- BLACK_BOX_READ_SELECT (R557): a write of RD_SEL; RD_DATA and RD_STATUS take the slot while READY. -/
def execBlackBoxReadSelect (w : Word) (s : State) : Host.Outcome State Fault Refusal :=
  let t := s.setv .bboxRdSel [] (putBits w 62 48 0)
  if s.bbReady then
    let r := s.readSlot (w.getLsbD 63) (getBits w 47 0)
    let t := (List.range 8).foldl (fun u n =>
      u.setv .bboxRdData [n] (BitVec.ofNat 64 (r.1.toNat >>> (64 * n)))) t
    .next (t.setv .bboxRdStatus [] r.2)
  else .next t

/-- The start-up stage: 0 ROM, 1 BOOTFW, 2 MGMT, 3 POWERING, 4 READY, 5 RECOVERY, 6 OFF. -/
def State.stage (s : State) : Nat := s.fv .hubBootStage []

-- Assumption log 159 (DEDUCED).
/-- The management controller answers: STAGE has reached MGMT, and the module is not in recovery (R573, R576). -/
def State.mgmtUp (s : State) : Bool := decide (2 ≤ s.stage) && decide (s.stage ≠ 5)

/-- The module reads a command block of 208 bytes from host memory, twice where the read fails (R533, R561). -/
def State.blockRead (s : State) (addr : Nat) (block : Option (List Byte)) : State :=
  let rd := Out.hostRead addr 208 false
  s.emits (if block.isSome then [rd] else [rd, rd])

-- Assumption log 42 (DEDUCED), 155 (DEDUCED).
/-- The signature check of a command block of R533: 0 OK, 2 BAD_SIG, 3 STALE_NONCE. With an owner the signature
covers bytes 0 to 111; without one the nonce and signature bytes are zero (R532, R561). -/
def Seal.checkBlock (u : Seal) (b : List Byte) : Nat :=
  match u.owner with
  | some k =>
    if !ecdsaVerify k (b.take 112) ((b.drop 112).take 96) then 2
    else if leAt b 8 8 ≠ u.nonce then 3 else 0
  | none => if leAt b 8 8 = 0 ∧ ((b.drop 112).take 96).all (· == 0) then 0 else 2

/-- A SEAL_CMD record (R553). -/
def State.sealRecord (s : State) (op arg result : Nat) : State :=
  s.bbPut none 0x05 0 (payloadOf [(0, 1, op), (1, 1, arg), (2, 1, result)])

-- Assumption log 155 (DEDUCED).
/-- The result of a clear (R561, R562): 0 OK, 1 BAD_OP, 2 BAD_SIG, 3 STALE_NONCE, 9 HOST_READ, 10 BUSY. -/
def State.clearResult (s : State) (block : Option (List Byte)) : Nat :=
  if s.powerState ≥ 3 ∨ s.bbReady = false then 10
  else match block with
    | none => 9
    | some b => if leAt b 0 1 ≠ 0x40 ∨ leAt b 4 1 > 1 then 1 else s.sealUnit.checkBlock b

/-- The result of a clear in CLR_STATUS: TOKEN, RESULT and DONE (R562). -/
def State.clearDone (s : State) (token res : Nat) : State :=
  s.setv .bboxClrStatus [] (putBits (putBits (putBits (s.rv .bboxClrStatus []) 63 48 token) 11 8 res) 0 0 1)

-- Assumption log 155 (DEDUCED).
/-- CLEAR (R561): the clear of a write of CLR with GO = 1 runs with the command block that it reads, none after two read errors. The
CLEARED record is written at once, ahead of the records queued, and becomes OLDEST_SEQ. -/
def execClear (token : Nat) (block : Option (List Byte)) (s : State) : Host.Outcome State Fault Refusal :=
  let res := s.clearResult block
  let arg := match block with | some b => leAt b 4 1 | none => 0
  let op := match block with | some b => if res = 10 then 0x40 else leAt b 0 1 | none => 0x40
  let t := if res = 10 then s else s.blockRead (s.fv .bboxClrAddrAddr []) block
  let t := ((t.setf .bboxClrStatusBusy [] 0).setf .bboxBbStateClearing [] 0).clearDone token res
  if res = 0 then
    let b := t.bbox
    let r := bbRecord t.now.toNat 0 b.nextSeq b.boots 0x06 0 0 (payloadOf [(0, 1, arg), (8, 6, b.nextSeq - 1)])
    let c := { b with nextSeq := b.nextSeq + 1, cleared := b.nextSeq }
    let c := c.write r false
    let c := (if arg = 1 then { c with ffCount := 0 } else c).saveClear (arg == 1)
    let t := t.setBBox c
    let t := if t.sealUnit.owner.isSome then t.setSeal { t.sealUnit with nonce := t.sealUnit.nonce + 1 } else t
    .next (t.showBBox.sealRecord 0x40 arg res)
  else .next (t.sealRecord op arg res)

/-! ### Vendor readout (R558, R569) -/

/-- A vendor-defined response: type, enterprise number, command, completion code, body (R569). -/
def State.vendorRsp (s : State) (ep cmd code : Nat) (body : List Byte) : State :=
  s.emit (.mctp ep 0x7F ([0x7F] ++ leBytes 4 Config.enterprise.toNat ++ leBytes 1 cmd ++ leBytes 1 code ++ body))

/-- READ (R558): status and bytes of up to 16 records from an area. -/
def execRead (ep area start count : Nat) (s : State) : Host.Outcome State Fault Refusal :=
  if s.bbReady = false then .next (s.vendorRsp ep 0x10 4 [])
  else if count = 0 ∨ 16 < count ∨ 1 < area then .next (s.vendorRsp ep 0x10 1 [])
  else
    let one := fun i =>
      let r := s.readSlot (area == 1) (start + i)
      leBytes 8 r.2.toNat ++ leBytes 64 r.1.toNat
    .next (s.vendorRsp ep 0x10 0 ((List.range count).flatMap one))

/-- STATE (R558): BB_STATE, HEAD_SEQ, OLDEST_SEQ and LOST. -/
def execState (ep : Nat) (s : State) : Host.Outcome State Fault Refusal :=
  .next (s.vendorRsp ep 0x11 0 (leBytes 8 (s.rv .bboxBbState []).toNat ++ leBytes 8 (s.rv .bboxHeadSeq []).toNat ++
    leBytes 8 (s.rv .bboxOldestSeq []).toNat ++ leBytes 8 (s.rv .bboxLost []).toNat))

end Sys2Proof.Machine
end

