-- ==== Sys2Proof/Machine/Strokes.lean ====
section
/-! DEFINITION. The strokes of the compute unit: NOP, MOVE, MATRIX, ACC, VEC, RED, PACK, STEER, MERGE, TAG, SEND, SYNC,
CLAIM, RETIRE, ROUTE, APPEND and SCORE (R132 to R160). Each command is one data-form firing of a stroke of that kind; the
effect is what the families' rules say, State.fire does the rest. -/

namespace Sys2Proof.Machine

open Sys2Proof

/-- An effect that always completes. -/
abbrev done (s : State) (out : Sends) : Option (State × Sends) := some (s, out)

/-- NOP: consumes the matched operands and does nothing else (R115). -/
def effNop (t : State) (_ : Firing) : Option (State × Sends) :=
  done t []

/-- One firing of a stroke of the row NOP. -/
def execNop (site : Nat) (s : State) : Host.Outcome State Fault Refusal :=
  .next (s.fire site 0 effNop)

/-! ### MOVE (R134) -/

/-- As many words as a source's format says: missing ones read as zero, surplus ones are discarded (R126). -/
def fitWords (n : Nat) (ws : Words) : Words := (ws ++ List.replicate n 0).take n

-- Assumption log 36 (DEDUCED).
/-- Source words in the destination's format: unchanged where FMT_D is the format they are in, else widened (R125, R306). -/
def State.moved (s : State) (f : Firing) (d fmt : Nat) : Words :=
  let r := s.srcWords f d fmt
  let ws := fitWords (opXfers r.2) r.1
  if f.w.fmtD = r.2 then ws else widen r.2 f.w.fmtD ws

/-- MOVE copies source A to the destination and widens it exactly (R125, R134). -/
def effMove (t : State) (f : Firing) : Option (State × Sends) :=
  some (t.dstWrite f (t.moved f f.w.srcA f.w.fmtA))

/-- One firing of a stroke of the row MOVE. -/
def execMove (site : Nat) (s : State) : Host.Outcome State Fault Refusal :=
  .next (s.fire site (64 * 0x01) effMove)

/-! ### MATRIX (R135 to R140) -/

/-- Subtracts a zero point. -/
def lessZero (v : Num) (zp : Int) : Num := if zp = 0 then v else numSum [v, .fin (decide (0 < zp)) zp.natAbs 0]

-- Assumption log 36 (DEDUCED).
/-- The values of a marked operand (R306). -/
def Stroke.marked (w : Stroke) (o : Operand) : Option (List Num) :=
  if o.mark ≥ 16 ∧ w.tooWide o.mark = false then some (operandNums (o.mark % 16) o.words) else none

-- Assumption log 38 (DEDUCED).
/-- The activation elements of a MATRIX stroke in their order: one data transfer, with one scale for each accumulator row
in MX formats, less AZP (R135, R136, R138). -/
def State.matrixA (s : State) (f : Firing) : List Num :=
  let w := f.w
  let n := if w.class_ = 4 then 128 else if w.class_ = 8 then 64 else 32
  let ws := (s.srcWords f w.srcA w.fmtA).1
  let ws := if descKind w.srcA = 2 then bufLines (s.site f.site).cu.abuf (w.srcA % 1024) (1 + bit01 (isMx w.fmtA)) else ws
  match (if descKind w.srcA = 1 then w.marked (f.op (w.srcA / 2 ^ 11 % 4)) else none) with
  | some l => l
  | none =>
    let azp : Int := if isInt w.fmtA then toSigned 8 (w.low 15 8) else 0
    (elemsOf (fmtBits w.fmtA) n (ws.getD 0 0).toNat).zipIdx.map (fun e =>
      let v := elemNum w.fmtA e.1
      if isMx w.fmtA then scaleNum v (((ws.getD 1 0).toNat >>> (8 * (e.2 % 64))) % 256) else lessZero v azp)

-- Assumption log 38 (DEDUCED).
/-- The 64 weights of row `r + k` of a MATRIX stroke, r the ROW field of a WBUF source, with block scales or zero points
(R136 to R138). -/
def State.matrixW (s : State) (f : Firing) (k : Nat) : List Num :=
  let w := f.w
  let wb := (s.site f.site).cu.wbuf
  let r := w.srcB % 64 + k
  let rb := rowBytes w.fmtB
  let port := decide (descKind w.srcB = 1)
  let ws := if port then (f.op (w.srcB / 2 ^ 11 % 4)).words else []
  match (if port then w.marked (f.op (w.srcB / 2 ^ 11 % 4)) else none) with
  | some l => if k = 0 then l else l.map (fun _ => .fin false 0 0)
  | none =>
    let rows := if w.class_ = 4 then 2 else 1
    let raw := if port then (wordsNat (ws.take (ceilDiv (rb * rows) 64)) >>> (8 * rb * k)) % 2 ^ (8 * rb)
      else bufBytes wb (w.srcB / 64 % 128 * 2048 + r * rb) rb
    let scales := if port then (ws.getD (ceilDiv (rb * rows) 64) 0).toNat
      else (tabGet (fun _ => 0) wb (w.low 27 16 + r / 32)).toNat
    let zps := (tabGet (fun _ => 0) wb (w.low 27 16)).toNat
    (elemsOf (fmtBits w.fmtB) 64 raw).zipIdx.map (fun e =>
      let v := elemNum w.fmtB e.1
      if isMx w.fmtB then scaleNum v ((scales >>> (8 * e.2)) % 256)
      else if isInt w.fmtB then lessZero v (toSigned 8 ((zps >>> (8 * e.2)) % 256))
      else v)

-- Assumption log 39 (DEDUCED).
/-- The stipple deltas of row r of the tile record, where the map marks an element (R139, R349, R350). -/
def stippleRow (x r : Nat) : List (Option Num) :=
  let map := (x >>> (64 * r)) % 2 ^ 64
  let start := (x >>> (8 * (768 + 2 * r))) % 2 ^ 16
  let fmt := (x >>> (8 * 896)) % 256
  let scale := (x >>> (8 * 897)) % 256
  (List.range 64).map (fun j =>
    if map.testBit j then
      let n := ((List.range j).filter (fun i => map.testBit i)).length
      some (scaleNum (elemNum fmt ((x >>> (8 * (512 + (start + n) % 256))) % 256)) scale)
    else none)

-- Assumption log 39 (DEDUCED).
/-- The weight terms of a row by column: the weight, and its delta where marked. -/
def State.matrixTerms (s : State) (f : Firing) (k : Nat) : List (List Num) :=
  let ws := s.matrixW f k
  if f.w.low 39 39 = 1 then
    let x := bufBytes (s.site f.site).cu.wbuf (f.w.low 38 29 * 256) 1024
    (ws.zip (stippleRow x (f.w.srcB % 64 + k))).map (fun e => e.1 :: e.2.toList)
  else ws.map (fun v => [v])

/-- One accumulator row after a rank update: one rounding of the old value and every exact product (R136, R140, R172). -/
def matrixRow (old : List Nat) (terms : List (Num × List (List Num))) : List Nat :=
  old.zipIdx.map (fun c =>
    toFp32 (numSum (ofFp32 c.1 :: terms.flatMap (fun t => (t.2.getD c.2 []).map (numMul t.1)))))

/-- MATRIX: one rank update of the destination bank (R135 to R140, R172). -/
def State.matrix (s : State) (f : Firing) : State :=
  let w := f.w
  let bank := w.dst / 2 ^ 12 % 2
  let cls := w.class_
  let a := s.matrixA f
  let zero : Num := .fin false 0 0
  let r0 := s.matrixTerms f 0
  let r1 := if cls = 4 then s.matrixTerms f 1 else []
  let c := (s.site f.site).cu
  let cleared := if w.zacc then (List.range 64).foldl (fun x i => x.setAccRow bank i []) c else c
  let half := if cls = 16 then w.low 7 7 else 0
  let rows := if cls = 16 then 32 else 64
  s.setCu f.site ((List.range rows).foldl (fun x i =>
    let terms := (a.getD i zero, r0) :: (if cls = 4 then [(a.getD (64 + i) zero, r1)] else [])
    x.setAccRow bank (32 * half + i) (matrixRow (cleared.accRow bank (32 * half + i)) terms)) cleared)

/-- MATRIX applies one rank update of an activation column and weight rows, with an optional stipple merge (R135 to
R140). -/
def effMatrix (t : State) (f : Firing) : Option (State × Sends) :=
  done (t.matrix f) []

/-- One firing of a stroke of the row MATRIX. -/
def execMatrix (site : Nat) (s : State) : Host.Outcome State Fault Refusal :=
  .next (s.fire site (64 * 0x10) effMatrix)

/-! ### ACC (R141) -/

/-- ACC ZERO sets the row or the bank to +0.0 (R141). -/
def effAccZero (t : State) (f : Firing) : Option (State × Sends) :=
  let c := (t.site f.site).cu
  let bank := f.w.dst / 2 ^ 12 % 2
  let rows := if descKind f.w.dst = 5 then List.range 64 else [f.w.dst % 64]
  done (t.setCu f.site (rows.foldl (fun x i => x.setAccRow bank i []) c)) []

/-- One firing of a stroke of the row ACC_ZERO. -/
def execAccZero (site : Nat) (s : State) : Host.Outcome State Fault Refusal :=
  .next (s.fire site (64 * 0x20) effAccZero)

/-- ACC READ sends or stores the row as 64 FP32 lanes (R141). -/
def effAccRead (t : State) (f : Firing) : Option (State × Sends) :=
  t.dstLanes f ((t.site f.site).cu.accRow (f.w.srcA / 2 ^ 12 % 2) (f.w.srcA % 64))

/-- One firing of a stroke of the row ACC_READ. -/
def execAccRead (site : Nat) (s : State) : Host.Outcome State Fault Refusal :=
  .next (s.fire site (64 * 0x20 + 1) effAccRead)

/-- ACC ADD adds source A lane-wise into the row, each lane rounded once; ZACC zeroes the row first (R116, R141,
R172). -/
def effAccAdd (t : State) (f : Firing) : Option (State × Sends) :=
  let old := (t.site f.site).cu.accRow (f.w.dst / 2 ^ 12 % 2) (f.w.dst % 64)
  let x := t.srcLanes f f.w.srcA f.w.fmtA 0
  t.dstLanes f ((old.zip x).map (fun e =>
    toFp32 (numSum [ofFp32 (if f.w.zacc then 0 else e.1), ofFp32 e.2])))

/-- One firing of a stroke of the row ACC_ADD. -/
def execAccAdd (site : Nat) (s : State) : Host.Outcome State Fault Refusal :=
  .next (s.fire site (64 * 0x20 + 2) effAccAdd)

/-- ACC LOAD overwrites the row with source A (R141). -/
def effAccLoad (t : State) (f : Firing) : Option (State × Sends) :=
  t.dstLanes f (t.srcLanes f f.w.srcA f.w.fmtA 0)

/-- One firing of a stroke of the row ACC_LOAD. -/
def execAccLoad (site : Nat) (s : State) : Host.Outcome State Fault Refusal :=
  .next (s.fire site (64 * 0x20 + 3) effAccLoad)

/-! ### VEC (R142, R143, R187) -/

/-- The lanes of source B, with lane 0 in every lane under BCAST_B (R142). -/
def State.vecB (s : State) (f : Firing) : List Nat :=
  let l := s.srcLanes f f.w.srcB f.w.fmtB (f.w.low 31 0)
  if f.w.low 34 34 = 1 then List.replicate 64 (l.getD 0 0) else l

/-- A unary VEC operation. -/
def State.vec1 (s : State) (f : Firing) (op : Nat → Nat) : Option (State × Sends) :=
  s.dstLanes f ((s.srcLanes f f.w.srcA f.w.fmtA 0).map op)

/-- A binary VEC operation. -/
def State.vec2 (s : State) (f : Firing) (op : Nat → Nat → Nat) : Option (State × Sends) :=
  s.dstLanes f (List.zipWith op (s.srcLanes f f.w.srcA f.w.fmtA 0) (s.vecB f))

/-- Kind of a VEC operation. -/
abbrev vecKind (vop : Nat) : Nat := 64 * 0x30 + vop

/-- VADD: a + b (R143). -/
def effVadd (t : State) (f : Firing) : Option (State × Sends) :=
  t.vec2 f (fun a b => toFp32 (numSum [ofFp32 a, ofFp32 b]))

/-- One firing of a stroke of the row VADD. -/
def execVadd (site : Nat) (s : State) : Host.Outcome State Fault Refusal :=
  .next (s.fire site (vecKind 0) effVadd)

/-- VSUB: a - b (R143). -/
def effVsub (t : State) (f : Firing) : Option (State × Sends) :=
  t.vec2 f (fun a b => toFp32 (numSum [ofFp32 a, numNeg (ofFp32 b)]))

/-- One firing of a stroke of the row VSUB. -/
def execVsub (site : Nat) (s : State) : Host.Outcome State Fault Refusal :=
  .next (s.fire site (vecKind 1) effVsub)

/-- VMUL: a times b (R143). -/
def effVmul (t : State) (f : Firing) : Option (State × Sends) :=
  t.vec2 f (fun a b => toFp32 (numMul (ofFp32 a) (ofFp32 b)))

/-- One firing of a stroke of the row VMUL. -/
def execVmul (site : Nat) (s : State) : Host.Outcome State Fault Refusal :=
  .next (s.fire site (vecKind 2) effVmul)

/-- The lanes that the destination of VFMA holds: four activation-buffer lines or an accumulator row (R143). -/
def State.oldDst (s : State) (f : Firing) : List Nat :=
  let c := (s.site f.site).cu
  if descKind f.w.dst = 4 then c.accRow (f.w.dst / 2 ^ 12 % 2) (f.w.dst % 64)
  else elemsOf 32 64 (wordsNat (bufLines c.abuf (f.w.dst % 1024) 4))

/-- VFMA: a times b plus the old destination, rounded once (R143). -/
def effVfma (t : State) (f : Firing) : Option (State × Sends) :=
  t.dstLanes f (List.zipWith (fun (ab : Nat × Nat) d => toFp32 (numSum [numMul (ofFp32 ab.1) (ofFp32 ab.2), ofFp32 d]))
    ((t.srcLanes f f.w.srcA f.w.fmtA 0).zip (t.vecB f)) (t.oldDst f))

/-- One firing of a stroke of the row VFMA. -/
def execVfma (site : Nat) (s : State) : Host.Outcome State Fault Refusal :=
  .next (s.fire site (vecKind 3) effVfma)

/-- VMIN: the minimum (R143, R187). -/
def effVmin (t : State) (f : Firing) : Option (State × Sends) :=
  t.vec2 f (fun a b => toFp32 (numMin (ofFp32 a) (ofFp32 b)))

/-- One firing of a stroke of the row VMIN. -/
def execVmin (site : Nat) (s : State) : Host.Outcome State Fault Refusal :=
  .next (s.fire site (vecKind 4) effVmin)

/-- VMAX: the maximum (R143, R187). -/
def effVmax (t : State) (f : Firing) : Option (State × Sends) :=
  t.vec2 f (fun a b => toFp32 (numMax (ofFp32 a) (ofFp32 b)))

/-- One firing of a stroke of the row VMAX. -/
def execVmax (site : Nat) (s : State) : Host.Outcome State Fault Refusal :=
  .next (s.fire site (vecKind 5) effVmax)

/-- The comparison that CMP selects: 0 EQ, 1 LT, 2 LE, 3 NE; with a NaN only NE holds (R142, R187). -/
def cmpHolds (cmp : Nat) (a b : Num) : Bool :=
  match cmp with
  | 0 => numEq a b
  | 1 => numLt a b
  | 2 => numLt a b || numEq a b
  | _ => !numEq a b

/-- VCMP: 1.0 where the comparison holds, else 0.0 (R143). -/
def effVcmp (t : State) (f : Firing) : Option (State × Sends) :=
  t.vec2 f (fun a b =>
    if cmpHolds (f.w.low 33 32) (ofFp32 a) (ofFp32 b) then 0x3F800000 else 0)

/-- One firing of a stroke of the row VCMP. -/
def execVcmp (site : Nat) (s : State) : Host.Outcome State Fault Refusal :=
  .next (s.fire site (vecKind 6) effVcmp)

/-- VSEL: b where a is not zero, NaN included, else IMM (R143). -/
def effVsel (t : State) (f : Firing) : Option (State × Sends) :=
  t.vec2 f (fun a b =>
    toFp32 (ofFp32 (if numZero (ofFp32 a) then f.w.low 31 0 else b)))

/-- One firing of a stroke of the row VSEL. -/
def execVsel (site : Nat) (s : State) : Host.Outcome State Fault Refusal :=
  .next (s.fire site (vecKind 7) effVsel)

/-- VEXP2: 2^a (R143, R186, R187). -/
def effVexp2 (t : State) (f : Firing) : Option (State × Sends) :=
  t.vec1 f (fun a => vexp2 8 (ofFp32 a) [a])

/-- One firing of a stroke of the row VEXP2. -/
def execVexp2 (site : Nat) (s : State) : Host.Outcome State Fault Refusal :=
  .next (s.fire site (vecKind 8) effVexp2)

/-- VLOG2: the logarithm to base 2 (R143, R186, R187). -/
def effVlog2 (t : State) (f : Firing) : Option (State × Sends) :=
  t.vec1 f vlog2

/-- One firing of a stroke of the row VLOG2. -/
def execVlog2 (site : Nat) (s : State) : Host.Outcome State Fault Refusal :=
  .next (s.fire site (vecKind 9) effVlog2)

/-- VRCP: 1 / a (R143, R186, R187). -/
def effVrcp (t : State) (f : Firing) : Option (State × Sends) :=
  t.vec1 f vrcp

/-- One firing of a stroke of the row VRCP. -/
def execVrcp (site : Nat) (s : State) : Host.Outcome State Fault Refusal :=
  .next (s.fire site (vecKind 10) effVrcp)

/-- VRSQ: the reciprocal square root (R143, R186, R187). -/
def effVrsq (t : State) (f : Firing) : Option (State × Sends) :=
  t.vec1 f vrsq

/-- One firing of a stroke of the row VRSQ. -/
def execVrsq (site : Nat) (s : State) : Host.Outcome State Fault Refusal :=
  .next (s.fire site (vecKind 11) effVrsq)

/-- VABS: the absolute value (R143). -/
def effVabs (t : State) (f : Firing) : Option (State × Sends) :=
  t.vec1 f (fun a => toFp32 (numAbs (ofFp32 a)))

/-- One firing of a stroke of the row VABS. -/
def execVabs (site : Nat) (s : State) : Host.Outcome State Fault Refusal :=
  .next (s.fire site (vecKind 12) effVabs)

/-- VNEG: -a (R143). -/
def effVneg (t : State) (f : Firing) : Option (State × Sends) :=
  t.vec1 f (fun a => toFp32 (numNeg (ofFp32 a)))

/-- One firing of a stroke of the row VNEG. -/
def execVneg (site : Nat) (s : State) : Host.Outcome State Fault Refusal :=
  .next (s.fire site (vecKind 13) effVneg)

/-- VMOV: a (R143). -/
def effVmov (t : State) (f : Firing) : Option (State × Sends) :=
  t.vec1 f (fun a => toFp32 (ofFp32 a))

/-- One firing of a stroke of the row VMOV. -/
def execVmov (site : Nat) (s : State) : Host.Outcome State Fault Refusal :=
  .next (s.fire site (vecKind 14) effVmov)

/-! ### RED (R144, R189) -/

-- Assumption log 174 (DESIGN CHOICE).
/-- The terms that a reduction combines, by result lane: 64 lanes of one row, or N + 1 rows by column, with source B's
lane last under WITH_B. -/
def State.redTerms (s : State) (f : Firing) : List (List Nat) :=
  let w := f.w
  let c := (s.site f.site).cu
  let b := s.srcLanes f w.srcB w.fmtB 0
  let withB := decide (w.low 29 29 = 1)
  let ext : Nat → List Nat := fun i => if withB then [b.getD i 0] else []
  if w.low 36 36 = 0 then [s.srcLanes f w.srcA w.fmtA 0 ++ ext 0]
  else
    let rows := (List.range (w.low 35 30 + 1)).map (fun k => c.accRow (w.srcA / 2 ^ 12 % 2) (w.srcA % 64 + k))
    (List.range 64).map (fun j => rows.map (fun r => r.getD j 0) ++ ext j)

/-- The index of gamma that bounds a reduction's error: 6 for a row, the depth of a column tree, one more with source
B (R189). -/
def Stroke.redIndex (w : Stroke) : Nat :=
  (if w.low 36 36 = 0 then 6 else Nat.clog 2 (w.low 35 30 + 1)) + w.low 29 29

-- Assumption log 47 (DEDUCED).
/-- A reduction: one value in lane 0 and zeros, or 64 columns (R144). -/
def State.reduce (s : State) (f : Firing) (op : List Nat → Nat) : Option (State × Sends) :=
  let l := (s.redTerms f).map op
  s.dstLanes f (l ++ List.replicate (64 - l.length) 0)

/-- RED SUM (R144, R189). -/
def effRedSum (t : State) (f : Firing) : Option (State × Sends) :=
  t.reduce f (fun l => boundedSum 0x40 f.w.redIndex l (l.map ofFp32))

/-- One firing of a stroke of the row RED_SUM. -/
def execRedSum (site : Nat) (s : State) : Host.Outcome State Fault Refusal :=
  .next (s.fire site (64 * 0x40) effRedSum)

/-- Folds a list of lanes by a comparison; an empty list gives zero. -/
def foldLanes (op : Num → Num → Num) (l : List Nat) : Nat :=
  match l.map ofFp32 with
  | [] => 0
  | x :: t => toFp32 (t.foldl op x)

/-- RED MAX (R144, R187). -/
def effRedMax (t : State) (f : Firing) : Option (State × Sends) :=
  t.reduce f (foldLanes numMax)

/-- One firing of a stroke of the row RED_MAX. -/
def execRedMax (site : Nat) (s : State) : Host.Outcome State Fault Refusal :=
  .next (s.fire site (64 * 0x40 + 1) effRedMax)

/-- RED MIN (R144, R187). -/
def effRedMin (t : State) (f : Firing) : Option (State × Sends) :=
  t.reduce f (foldLanes numMin)

/-- One firing of a stroke of the row RED_MIN. -/
def execRedMin (site : Nat) (s : State) : Host.Outcome State Fault Refusal :=
  .next (s.fire site (64 * 0x40 + 2) effRedMin)

/-- RED SUMSQ: squares formed exactly; source B is added as it is (R144, R189). -/
def effRedSumsq (t : State) (f : Firing) : Option (State × Sends) :=
  t.reduce f (fun l =>
    let n := if f.w.low 29 29 = 1 then l.length - 1 else l.length
    boundedSum 0x43 f.w.redIndex l ((l.take n).map (fun x => numMul (ofFp32 x) (ofFp32 x)) ++ (l.drop n).map ofFp32))

/-- One firing of a stroke of the row RED_SUMSQ. -/
def execRedSumsq (site : Nat) (s : State) : Host.Outcome State Fault Refusal :=
  .next (s.fire site (64 * 0x40 + 3) effRedSumsq)

/-! ### PACK (R145, R175 to R180) -/

/-- The roundings of 64 lanes, and the generators after them: 16 fresh bits of each lane's generator for stochastic
rounding (R178). -/
def Cu.rounds (c : Cu) (mode : Nat) : List Rnd × List Nat :=
  if mode = 1 then
    let r := c.lfsr.map lfsr16
    (r.map (fun x => ⟨1, x.1⟩), r.map (fun x => x.2))
  else (List.replicate 64 ⟨mode, 0⟩, c.lfsr)

/-- PACK scales, rounds and encodes FP32 lanes into FMT_D, with block scales for MX results (R145, R175 to R180). -/
def effPack (t : State) (f : Firing) : Option (State × Sends) :=
  let w := f.w
  let c := (t.site f.site).cu
  let r := c.rounds (w.low 39 38)
  let l := (t.srcLanes f w.srcA w.fmtA 0).map ofFp32
  let l := if w.low 36 36 = 1 then l.map (fun x => numMul x (bf16.decode (w.low 15 0))) else l
  let zp : Int := if isInt w.fmtD then toSigned 8 (w.low 23 16) else 0
  some ((t.setCu f.site { c with lfsr := r.2 }).dstWrite f (encodeOperand w.fmtD r.1 (w.low 37 37 == 1) zp l))

/-- One firing of a stroke of the row PACK. -/
def execPack (site : Nat) (s : State) : Host.Outcome State Fault Refusal :=
  .next (s.fire site (64 * 0x50) effPack)

/-! ### STEER, MERGE, TAG, SEND (R146 to R149) -/

/-- An output operand: its mark is clear (R305). -/
def outOperand (tag : Nat) (ws : Words) : Operand := ⟨tag, false, 0, ws⟩

/-- The union of the routes of STEER whose bits are set in a token (R146). -/
def Stroke.routes (w : Stroke) (token : Nat) : List Nat :=
  (List.range 4).filter (fun p => (List.range 4).any (fun n => token.testBit n && bitOf w (12 - 4 * n + p)))

-- Assumption log 37 (DEDUCED).
/-- STEER sends the data operand on the routes that its control token selects; none of them discards it without
defect (R96, R146). -/
def effSteer (t : State) (f : Firing) : Option (State × Sends) :=
  let token := ((f.op (f.w.srcA / 2 ^ 11 % 4)).words.getD 0 0).toNat
  let d := t.srcWords f f.w.srcB f.w.fmtB
  done t ((f.w.routes token).map (fun p => (p, outOperand f.outTag (fitWords (opXfers d.2) d.1))))

/-- One firing of a stroke of the row STEER. -/
def execSteer (site : Nat) (s : State) : Host.Outcome State Fault Refusal :=
  .next (s.fire site (64 * 0x60) effSteer)

/-- MERGE forwards one input of its group to the destination ports in firing order (R147). -/
def effMerge (t : State) (f : Firing) : Option (State × Sends) :=
  some (t.dstWrite f (t.moved f f.w.srcA f.w.fmtA))

/-- One firing of a stroke of the row MERGE. -/
def execMerge (site : Nat) (s : State) : Host.Outcome State Fault Refusal :=
  .next (s.fire site (64 * 0x61) effMerge)

/-- TAG in mode ACTION: the tag that TAG_ACT makes (R148). -/
def effTagAction (t : State) (f : Firing) : Option (State × Sends) :=
  some (t.dstWrite f (t.moved f f.w.srcA f.w.fmtA))

/-- One firing of a stroke of the row TAG_ACTION. -/
def execTagAction (site : Nat) (s : State) : Host.Outcome State Fault Refusal :=
  .next (s.fire site (64 * 0x70) effTagAction)

/-- TAG in mode SET: forwards source A under the iteration in LOW, which Stroke.sentTag puts in the tag (R148). -/
def effTagSet (t : State) (f : Firing) : Option (State × Sends) :=
  some (t.dstWrite f (t.moved f f.w.srcA f.w.fmtA))

/-- One firing of a stroke of the row TAG_SET. -/
def execTagSet (site : Nat) (s : State) : Host.Outcome State Fault Refusal :=
  .next (s.fire site (64 * 0x70 + 1) effTagSet)

/-- TAG in mode DATA: forwards source A under the iteration in bytes 0 and 1 of source B, which Stroke.sentTag puts in the
tag (R148). -/
def effTagData (t : State) (f : Firing) : Option (State × Sends) :=
  some (t.dstWrite f (t.moved f f.w.srcA f.w.fmtA))

/-- One firing of a stroke of the row TAG_DATA. -/
def execTagData (site : Nat) (s : State) : Host.Outcome State Fault Refusal :=
  .next (s.fire site (64 * 0x70 + 2) effTagData)

/-- SEND forwards source A to the ports of DST (R149). -/
def effSend (t : State) (f : Firing) : Option (State × Sends) :=
  some (t.dstWrite f (t.moved f f.w.srcA f.w.fmtA))

/-- One firing of a stroke of the row SEND. -/
def execSend (site : Nat) (s : State) : Host.Outcome State Fault Refusal :=
  .next (s.fire site (64 * 0x80) effSend)

/-- SEND with EOS_AFTER: the operand, then a marker with the next iteration (R149). -/
def effSendEosAfter (t : State) (f : Firing) : Option (State × Sends) :=
  let r := t.dstWrite f (t.moved f f.w.srcA f.w.fmtA)
  done r.1 (r.2 ++ (dstPorts f.w.dst).map (fun p => (p, marker (mkTag (tagCtx f.outTag) (tagIter f.outTag + 1)))))

/-- One firing of a stroke of the row SEND_EOS_AFTER. -/
def execSendEosAfter (site : Nat) (s : State) : Host.Outcome State Fault Refusal :=
  .next (s.fire site (64 * 0x80 + 1) effSendEosAfter)

/-- SEND with EOS_ONLY: only a marker that carries the output tag (R149). -/
def effSendEosOnly (t : State) (f : Firing) : Option (State × Sends) :=
  done t ((dstPorts f.w.dst).map (fun p => (p, marker f.outTag)))

/-- One firing of a stroke of the row SEND_EOS_ONLY. -/
def execSendEosOnly (site : Nat) (s : State) : Host.Outcome State Fault Refusal :=
  .next (s.fire site (64 * 0x80 + 2) effSendEosOnly)

/-! ### SYNC (R150, R151) -/

/-- The neighbouring memory unit that a stroke names in DIR. -/
def Stroke.syncMu (w : Stroke) (site : Nat) : Option Nat := (neighbour site (w.low 37 36)).filter isMu

-- Assumption log 35 (DEDUCED).
/-- SYNC WAIT: holds in S0 until the semaphore can give COUNT; the unit fires nothing meanwhile (R151, R213). -/
def effSyncWait (t : State) (f : Firing) : Option (State × Sends) :=
  match f.w.syncMu f.site with
  | none => done t []
  | some m =>
    let r := t.semWait m (f.w.low 35 30) (opposite (f.w.low 37 36)) (f.w.low 29 24 + 1)
    if r.2 then done r.1 []
    else done (r.1.setCu f.site { (r.1.site f.site).cu with waiting := some (m, f.w.low 35 30) }) []

/-- One firing of a stroke of the row SYNC_WAIT. -/
def execSyncWait (site : Nat) (s : State) : Host.Outcome State Fault Refusal :=
  .next (s.fire site (64 * 0x90) effSyncWait)

-- Assumption log 35 (DEDUCED).
/-- SYNC SIGNAL: adds COUNT to the semaphore, after every earlier stroke (R151, R213). -/
def effSyncSignal (t : State) (f : Firing) : Option (State × Sends) :=
  match f.w.syncMu f.site with
  | none => done t []
  | some m => done (t.semSignal f.part m (f.w.low 35 30) (f.w.low 29 24 + 1)) []

/-- One firing of a stroke of the row SYNC_SIGNAL. -/
def execSyncSignal (site : Nat) (s : State) : Host.Outcome State Fault Refusal :=
  .next (s.fire site (64 * 0x90 + 1) effSyncSignal)

/-! ### CLAIM and RETIRE (R152 to R154) -/

/-- CLAIM sends a claim request to a dispenser word; its response reaches RESP (R152, R153). -/
def effClaim (t : State) (f : Firing) : Option (State × Sends) :=
  t.dispenserRequest f 8 0

/-- One firing of a stroke of the row CLAIM. -/
def execClaim (site : Nat) (s : State) : Host.Outcome State Fault Refusal :=
  .next (s.fire site (64 * 0xA0) effClaim)

/-- CLAIM with SUB = ARM sends a new limit, and a reset where byte 4 bit 0 asks for it (R152, R153). -/
def effArm (t : State) (f : Firing) : Option (State × Sends) :=
  t.dispenserRequest f 9 (((f.op (f.w.srcA / 2 ^ 11 % 4)).words.getD 0 0).toNat % 2 ^ 33)

/-- One firing of a stroke of the row ARM. -/
def execArm (site : Nat) (s : State) : Host.Outcome State Fault Refusal :=
  .next (s.fire site (64 * 0xA0 + 1) effArm)

/-- RETIRE sends a retire request, without a response (R154). -/
def effRetire (t : State) (f : Firing) : Option (State × Sends) :=
  t.dispenserRequest f 10 0

/-- One firing of a stroke of the row RETIRE. -/
def execRetire (site : Nat) (s : State) : Host.Outcome State Fault Refusal :=
  .next (s.fire site (64 * 0xA1) effRetire)

/-! ### ROUTE (R155 to R157, R340, R342) -/

/-- The 16 entries of a candidate list: index and FP32 score (R156). -/
def listEntries (ws : Words) : List (Nat × Nat) :=
  (elemsOf 64 16 (wordsNat (ws.take 2))).map (fun x => (x % 2 ^ 32, x / 2 ^ 32))

/-- A candidate list of two transfers; empty entries carry index 0xFFFF_FFFF and a given score (R156, R342). -/
def listWords (l : List (Nat × Nat)) (empty : Nat) : Words :=
  natWords 2 (packElems 64 ((l ++ List.replicate 16 (0xFFFFFFFF, empty)).take 16 |>.map (fun (e : Nat × Nat) => e.1 + e.2 * 2 ^ 32)))

-- Assumption log 103 (DEDUCED).
/-- A candidate goes before another: the higher score, then the lower index (R156). -/
def candBefore (x y : Nat × Nat) : Bool :=
  numLt (ofFp32 y.2) (ofFp32 x.2) || (!numLt (ofFp32 x.2) (ofFp32 y.2) && decide (x.1 < y.1))

-- Assumption log 103 (DEDUCED).
/-- Inserts a candidate in order. -/
def candInsert (x : Nat × Nat) : List (Nat × Nat) → List (Nat × Nat)
  | [] => [x]
  | y :: t => if candBefore x y then x :: y :: t else y :: candInsert x t

/-- ROUTE SELECT merges one block of router scores into a token's candidate list of at most CAP experts (R155,
R156). -/
def effRouteSelect (t : State) (f : Firing) : Option (State × Sends) :=
  let w := f.w
  let th := bf16.decode (w.low 15 0)
  let scores := t.srcLanes f w.srcA w.fmtA 0
  let new := scores.zipIdx.filterMap (fun e =>
    let v := ofFp32 e.1
    if v != .nan && !numLt v th && th != .nan then some (64 * w.low 37 35 + e.2, e.1) else none)
  let old := if descKind w.srcB = 1 then
    (listEntries (f.op (w.srcB / 2 ^ 11 % 4)).words).filter (fun e => e.1 != 0xFFFFFFFF && ofFp32 e.2 != .nan) else []
  let l := ((old ++ new).foldl (fun a x => candInsert x a) []).take (w.low 34 31 + 1)
  some (t.dstWrite f (listWords l 0xFF800000))

/-- One firing of a stroke of the row ROUTE_SELECT. -/
def execRouteSelect (site : Nat) (s : State) : Host.Outcome State Fault Refusal :=
  .next (s.fire site (64 * 0xB0) effRouteSelect)

/-- Key of a layer and pass in the dispatcher. -/
def dispKey (layer pass : Nat) : Nat := 2 * (layer % 256) + pass % 2

/-- A module with no DISPATCH left of a layer and pass tells every module of the partition, itself included (R470). -/
def State.sendEnds (s : State) (p layer pass : Nat) : State :=
  (s.members p).foldl (fun t m => t.sendStep p 0x20 m true t.txn (leBytes 1 pass ++ leBytes 1 layer)) s

-- Assumption log 196 (DEDUCED).
/-- DISPATCH to another module is a request that is outstanding until that module's END of the layer and pass has come (R470, R496). -/
def State.awaitEnd (s : State) (p dst layer pass : Nat) : State :=
  let x := s.part p
  let r : Request := ⟨dst, 0, 0x20, layer % 256, pass % 2, 0⟩
  if dst = s.coord p ∨ (tabGet (fun _ => []) x.disp.ends (dispKey layer pass)).contains dst ∨ x.reqs.contains r then s
  else s.setPart p { x with reqs := x.reqs ++ [r] }

-- Assumption log 49 (DESIGN CHOICE).
/-- A route word with SEND and its chunk become a DISPATCH message to DEST (R341, R462); after the last one of a layer and
pass the END messages follow (R470). -/
def State.sendDispatch (s : State) (p : Nat) (word : Nat) (chunk : Words) : State :=
  if word.testBit 0 then
    let pass := word / 2 ^ 8 % 256
    let layer := word / 2 ^ 32 % 256
    let body := leBytes 1 pass ++ leBytes 1 layer ++ leBytes 2 (word / 2 ^ 16) ++ leBytes 1 (word / 2 ^ 40) ++
      [0, 0, 0] ++ leBytes 8 (word / 2 ^ 64) ++ leBytes 2 (word / 2 ^ 128) ++ List.replicate 14 0 ++
      leBytes (64 * chunk.length) (wordsNat chunk)
    let t := (s.sendStep p 0x20 (word / 2 ^ 48 % 4096) false s.txn body).awaitEnd p (word / 2 ^ 48 % 4096) layer pass
    let d := (t.part p).disp
    let k := dispKey layer pass
    let n := tabGet (fun _ => 0) d.due k
    let t := t.setPart p { t.part p with disp := { d with due := tabSet (fun _ => 0) d.due k (n - 1) } }
    if n = 1 then t.sendEnds p layer pass else t
  else s

-- Assumption log 49 (DESIGN CHOICE).
/-- ROUTE DISPATCH sends a route word and then a token chunk on its single port (R157), and the message that it builds
of them goes to DEST (R341). -/
def effRouteDispatch (t : State) (f : Firing) : Option (State × Sends) :=
  let word := fitWords 1 (f.op (f.w.srcB / 2 ^ 11 % 4)).words
  let d := t.srcWords f f.w.srcA f.w.fmtA
  let chunk := fitWords (opXfers d.2) d.1
  let u := if t.roomFor f.site ((dstPorts f.w.dst).flatMap (fun p =>
      [(p, outOperand f.outTag word), (p, outOperand f.outTag chunk)])) then
    t.sendDispatch f.part (word.getD 0 0).toNat chunk else t
  done u ((dstPorts f.w.dst).flatMap (fun p => [(p, outOperand f.outTag word), (p, outOperand f.outTag chunk)]))

/-- One firing of a stroke of the row ROUTE_DISPATCH. -/
def execRouteDispatch (site : Nat) (s : State) : Host.Outcome State Fault Refusal :=
  .next (s.fire site (64 * 0xB0 + 1) effRouteDispatch)

/-! ### APPEND (R158, R309, R310) -/

-- Assumption log 51 (DEDUCED).
/-- The record of a step that holds a token slot, with the offset of the slot in it (R266). -/
def recOf (x : Step) (slot : Nat) : Option (Rec × Nat) :=
  (x.records.find? (fun r => decide (r.slot ≤ slot) && decide (slot < r.slot + r.ntok))).map (fun r => (r, slot - r.slot))

-- Assumption log 51 (DEDUCED).
/-- The pages by layer of the frame that holds a position of a sequence. -/
def State.framePages (s : State) (p seq pos : Nat) : List Nat :=
  let e := tabGet (fun _ => 0) s.blocks (1024 * seq + pos / 32)
  if e.testBit 31 && !e.testBit 30 then tabGet (fun _ => []) (s.part p).frames (e % 2 ^ 30) else []

-- Assumption log 50 (DEDUCED), 175 (DEDUCED).
/-- APPEND encodes the operand in the page's format and sends it behind its header (R158, R309, R310). Format and scale are
those of the unit's append table; a slot without a page is sent as BF16, and the append unit discards it. -/
def effAppend (t : State) (f : Firing) : Option (State × Sends) :=
  let w := f.w
  let c := (t.site f.site).cu
  let slot := tagIter f.outTag % 16384
  let hdr := slot + w.low 38 31 * 2 ^ 16 + (w.low 30 24 + 128 * w.low 39 39) * 2 ^ 24 + w.low 23 16 * 2 ^ 32
  let fmt := if tabGet (fun _ => 0) c.kvFmts slot = 0 then 1 else tabGet (fun _ => 0) c.kvFmts slot
  let scale := tabGet (fun _ => 0) c.kvScales (2 * w.low 38 31 + w.low 39 39)
  let fp8 := decide (fmt = 3) || decide (fmt = 4)
  let l := (t.srcLanes f w.srcA w.fmtA 0).map ofFp32
  let l := if fp8 then l.map (fun v => match v with
    | .fin n m e => .fin n m (e + 127 - Int.ofNat scale)
    | x => x) else l
  let ws := encodeOperand fmt (List.replicate 64 rne) true 0 l
  done t ((dstPorts w.dst).map (fun p => (p, outOperand f.outTag (BitVec.ofNat 512 hdr :: ws))))

/-- One firing of a stroke of the row APPEND. -/
def execAppend (site : Nat) (s : State) : Host.Outcome State Fault Refusal :=
  .next (s.fire site (64 * 0xC0) effAppend)

/-! ### SCORE (R159, R160) -/

/-- The (m, l) form (R159). -/
def mlWords (m l : Nat) : Words := [BitVec.ofNat 512 (m % 2 ^ 32 + l % 2 ^ 32 * 2 ^ 32)]

/-- The m and l that the first word of a source holds. -/
def State.mlOf (s : State) (f : Firing) (d : Nat) : Nat × Nat :=
  let ws := match descKind d with
    | 1 => (f.op (d / 2 ^ 11 % 4)).words
    | 2 => bufLines (s.site f.site).cu.abuf (d % 1024) 1
    | _ => []
  let x := (ws.getD 0 0).toNat
  (x % 2 ^ 32, x / 2 ^ 32 % 2 ^ 32)

/-- SCORE RMAX: the running maximum, in the (m, l) form (R159, R187). -/
def effScoreRmax (t : State) (f : Firing) : Option (State × Sends) :=
  let a := t.srcLanes f f.w.srcA f.w.fmtA 0
  let b := if descKind f.w.srcB = 0 then [] else [(t.mlOf f f.w.srcB).1]
  some (t.dstWrite f (mlWords (foldLanes numMax (b ++ a)) 0))

/-- One firing of a stroke of the row SCORE_RMAX. -/
def execScoreRmax (site : Nat) (s : State) : Host.Outcome State Fault Refusal :=
  .next (s.fire site (64 * 0xD0) effScoreRmax)

/-- SCORE EXPD: 2^(a - b0) for 64 lanes, the difference formed exactly (R159, R186, R187). -/
def effScoreExpd (t : State) (f : Firing) : Option (State × Sends) :=
  let b := (t.mlOf f f.w.srcB).1
  t.vec1 f (fun a => vexp2 12 (numSum [ofFp32 a, numNeg (ofFp32 b)]) [a, b])

/-- One firing of a stroke of the row SCORE_EXPD. -/
def execScoreExpd (site : Nat) (s : State) : Host.Outcome State Fault Refusal :=
  .next (s.fire site (64 * 0xD0 + 1) effScoreExpd)

-- Assumption log 47 (DEDUCED).
/-- SCORE RSUM: adds a row of probabilities into a running sum (R159, R189). -/
def effScoreRsum (t : State) (f : Firing) : Option (State × Sends) :=
  let a := t.srcLanes f f.w.srcA f.w.fmtA 0
  let l := if descKind f.w.srcB = 0 then 0 else (t.mlOf f f.w.srcB).2
  some (t.dstWrite f (mlWords 0 (boundedSum 0xD2 7 (l :: a) ((l :: a).map ofFp32))))

/-- One firing of a stroke of the row SCORE_RSUM. -/
def execScoreRsum (site : Nat) (s : State) : Host.Outcome State Fault Refusal :=
  .next (s.fire site (64 * 0xD0 + 2) effScoreRsum)

-- Assumption log 48 (DESIGN CHOICE).
/-- The scale of one side of a merge: NaN where m is, 0 for m = -infinity, 1 beside an empty partial, which leaves its partner unchanged,
else 2^(m side - m) (R160). -/
def mergeScale (side other m : Nat) : Nat :=
  if ofFp32 m == .nan then fp32.nan
  else if ofFp32 side == .inf true then 0
  else if ofFp32 other == .inf true then 0x3F800000
  else vexp2 13 (numSum [ofFp32 side, numNeg (ofFp32 m)]) [side, m]

-- Assumption log 48 (DESIGN CHOICE).
/-- a times x rounded, then plus b times y, rounded once (R160, R190): the product that is rounded first is that of side a. -/
def mergeSum (a x b y : Nat) : Nat :=
  toFp32 (numSum [numMul (ofFp32 b) (ofFp32 y), ofFp32 (toFp32 (numMul (ofFp32 a) (ofFp32 x)))])

-- Assumption log 48 (DESIGN CHOICE).
/-- SCORE MERGE combines two partials and their (m, l) pairs (R159, R160). -/
def effScoreMerge (t : State) (f : Firing) : Option (State × Sends) :=
  let w := f.w
  let pair : Nat → Nat × Nat := fun port =>
    let x := ((f.op port).words.getD 0 0).toNat
    (x % 2 ^ 32, x / 2 ^ 32 % 2 ^ 32)
  let a := pair (w.low 36 35)
  let b := pair (w.low 34 33)
  let m := foldLanes numMax [a.1, b.1]
  let none_ := ofFp32 a.1 == .inf true && ofFp32 b.1 == .inf true
  let sa := if none_ then 0 else mergeScale a.1 b.1 m
  let sb := if none_ then 0 else mergeScale b.1 a.1 m
  let l := if none_ then 0 else mergeSum a.2 sa b.2 sb
  let oa := t.srcLanes f w.srcA w.fmtA 0
  let ob := t.srcLanes f w.srcB w.fmtB 0
  let o := List.zipWith (fun x y => if none_ then 0 else mergeSum x sa y sb) oa ob
  let r := t.dstWrite f (laneWords o)
  done r.1 (r.2 ++ [(w.low 32 31, outOperand f.outTag (mlWords m l))])

/-- One firing of a stroke of the row SCORE_MERGE. -/
def execScoreMerge (site : Nat) (s : State) : Host.Outcome State Fault Refusal :=
  .next (s.fire site (64 * 0xD0 + 3) effScoreMerge)

end Sys2Proof.Machine
end

