-- ==== Sys2Proof/Machine/Switch.lean ====
section
/-! DEFINITION. The switch unit: link rotation, credits, fan-out, steering and merging entries (R88 to R100, R239,
R240). -/

namespace Sys2Proof.Machine

open Sys2Proof

/-! ### Links (R76, R88 to R94) -/

/-- The port leads over a working link to a site of the same partition, or it is the local port (R30, R76). -/
def State.portOpen (s : State) (p site port : Nat) : Bool :=
  if port = 4 then true
  else match neighbour site port with
    | some n => s.ownerOf n == some p && s.switchLink site port
    | none => false

/-- The transfer at the head of an input slot, with its arrival number. -/
def Su.head (u : Su) (k : Nat) : Option (Nat × Xfer) := (u.inq k).head?

/-- The head of an input slot leaves its receiver FIFO; its place is owed to the sender (R90). -/
def Su.popHead (u : Su) (k : Nat) : Su := ((u.setInq k (u.inq k).tail).owe k 1)

/-- The output keys that an input slot feeds (R89). -/
def SiteImg.branches (m : SiteImg) (k : Nat) : List Nat :=
  (List.range 40).filter (fun o =>
    let v := tabGet (fun _ => 0) m.slots o
    bitOf v 15 && 8 * bitsOf v 14 12 + bitsOf v 11 9 == k)

/-- Where an output slot's transfer comes from. -/
inductive SlotSrc where
  /-- An input slot, by key. -/
  | input (k : Nat)
  /-- A steering or merging entry. -/
  | entry (n : Nat)
  deriving DecidableEq, Repr

/-- The transfer that waits on an output slot and its source: the head of the input slot that the slot table names,
where this branch has not taken it, or what a steering or merging entry has put there. -/
def Site.waiting (x : Site) (k : Nat) : Option (SlotSrc × Xfer) :=
  let v := tabGet (fun _ => 0) x.front.slots k
  if bitOf v 15 then
    let i := 8 * bitsOf v 14 12 + bitsOf v 11 9
    if (tabGet (fun _ => []) x.su.taken i).contains k then none
    else (x.su.head i).map (fun h => (.input i, h.2))
  else (List.range 4).findSome? (fun n =>
    (((x.su.steer.getD n SteerState.reset).outq.find? (fun e => e.1 == k)).map (fun e => (.entry n, e.2))))

/-- A branch takes the head of a fanned-out input slot, which leaves once every branch has taken it (R89). -/
def Site.takeBranch (x : Site) (i k : Nat) : Su :=
  let got := tabGet (fun _ => []) x.su.taken i ++ [k]
  if (x.front.branches i).all got.contains then
    { x.su.popHead i with taken := tabSet (fun _ => []) x.su.taken i [] }
  else { x.su with taken := tabSet (fun _ => []) x.su.taken i got }

/-! ### Steering and merging entries (R95 to R100, R240) -/

/-- A reference to a slot: its key, where valid. -/
def slotRef (b : Nat) : Option Nat := if b.testBit 7 then some (8 * (b / 16 % 8) + b % 8) else none

/-- Fields of a steer entry: TYPE where VALID, reserve, input and output references (R240). -/
def steerType (e : Nat) : Option Nat := if e.testBit 7 then some (e / 32 % 4) else none
def steerReserve (e : Nat) : Nat := e % 16 + 1
def steerIn (e n : Nat) : Option Nat := slotRef (e / 2 ^ (8 * (1 + n)) % 256)
def steerOut (e n : Nat) : Option Nat := slotRef (e / 2 ^ (8 * (5 + n)) % 256)

/-- The entry's state. -/
def Su.entry (u : Su) (n : Nat) : SteerState := u.steer.getD n SteerState.reset

/-- Changes the entry's state. -/
def Su.setEntry (u : Su) (n : Nat) (x : SteerState) : Su := { u with steer := u.steer.set n x }

/-- The output keys of the valid routes that a mask names (R96). -/
def steerRoutes (e mask : Nat) : List Nat :=
  (List.range 4).filterMap (fun n => if mask.testBit n then steerOut e n else none)

/-- Puts a transfer on some outputs of an entry, where each is free. -/
def SteerState.put (x : SteerState) (keys : List Nat) (f : Xfer) : Option SteerState :=
  if x.outq.any (fun e => keys.contains e.1) then none
  else some { x with outq := x.outq ++ keys.map (fun k => (k, f)) }

/-- One advance of an entry: the operand in passage sends its next transfer, or the oldest pair leaves (R97). -/
def Su.advance (u : Su) (e n : Nat) : Option Su :=
  let x := u.entry n
  match x.passing with
  | some (i, mask) =>
    match steerIn e i with
    | none => none
    | some k => match u.head k with
      | none => none
      | some (_, f) =>
        (x.put (steerRoutes e mask) f).map (fun y =>
          (u.popHead k).setEntry n { y with passing := if f.last then none else some (i, mask) })
  | none => match x.pairs with
    | [] => none
    | (mask, f) :: t =>
      (x.put (steerRoutes e mask) f).map (fun y =>
        u.setEntry n { y with
          pairs := t, passing := if f.last then none else some (if mask < 16 then 1 else mask / 16 - 1, mask % 16) })

-- Assumption log 34 (DEDUCED).
/-- Advances an entry as long as it can, a few transfers at most. -/
def Su.settle (u : Su) (e n : Nat) : Nat → Su
  | 0 => u
  | fuel + 1 => match u.advance e n with
    | some v => v.settle e n fuel
    | none => u

/-- Settles an entry of a site. -/
def State.steerSettle (s : State) (site n : Nat) : State :=
  let x := s.site site
  s.setSu site (x.su.settle (tabGet (fun _ => 0) x.front.steer n) n 32)

-- Assumption log 32 (DEDUCED).
/-- Some output slot has a transfer that waits for a credit (R106, R110). -/
def Site.creditWait (x : Site) : Bool :=
  (List.range 40).any (fun k => (x.waiting k).isSome && x.su.credit k == 0)

/-- SLOT_TRANSFER: the sender of a link visits its slots in rotation and sends one transfer from the first one that has
a transfer waiting and a credit (R90 to R94, R110). -/
def execSlotTransfer (site port : Nat) (s : State) : Host.Outcome State Fault Refusal :=
  match s.worksFor site with
  | none => .next s
  | some p =>
    if 4 < port ∨ s.portOpen p site port = false then .next s
    else
      let x := s.site site
      let turn := tabGet (fun _ => 0) x.su.turn port
      let ready := (List.range 8).filterMap (fun i =>
        let k := slotKey port ((turn + i) % 8)
        (x.waiting k).map (fun w => (k, w)))
      match ready.find? (fun r => decide (x.su.credit r.1 > 0)) with
      | none => .next s
      | some (k, src, f) =>
        let u := match src with
          | .input i => x.takeBranch i k
          | .entry n =>
            let y := x.su.entry n
            x.su.setEntry n { y with outq := y.outq.filter (fun e => e.1 != k) }
        let u := { u.setCredit k (u.credit k - 1) with turn := tabSet (fun _ => 0) u.turn port ((k % 8 + 1) % 8) }
        let t := (s.setSu site u).bump .siteSuXfer [site, port] 1
        let t := match src with
          | .input _ => t
          | .entry n => t.steerSettle site n
        if port = 4 then
          let v := (t.site site).su
          .next (t.setSu site (v.setOutFifo (k % 8) (v.outFifo (k % 8) ++ [f])))
        else match neighbour site port with
          | none => .next t
          | some m => .next (t.setSu m ((t.site m).su.push (slotKey (opposite port) (k % 8)) [f]))

/-! ### Steering entries (R96 to R99) -/

-- Assumption log 34 (DEDUCED).
/-- A marker of an input and context has been seen. -/
def SteerState.endedAt (x : SteerState) (input ctx : Nat) : Bool :=
  x.ends.any (fun e => e.1 == input && tagCtx e.2 == ctx)

/-- Removes the first item that meets a test. -/
def dropItem (t : SteerItem → Bool) : List SteerItem → List SteerItem
  | [] => []
  | o :: l => if t o then l else o :: dropItem t l

/-- A control token at the head of the control input (R97 to R99). -/
def Su.token (u : Su) (e n k : Nat) (f : Xfer) : Su :=
  let x := u.entry n
  let mask := f.data.toNat % 16
  if x.endedAt 1 (tagCtx f.tag) && !x.items.any (fun i => i.input == 1 && i.x.tag == f.tag) then u.popHead k
  else match x.items.find? (fun i => i.input == 1 && i.x.tag == f.tag) with
    | some i => (u.popHead k).setEntry n { x with
        items := dropItem (fun j => j.input == 1 && j.x.tag == f.tag) x.items, pairs := x.pairs ++ [(mask, i.x)] }
    | none =>
      if x.items.length + x.pairs.length < steerReserve e then
        (u.popHead k).setEntry n { x with items := x.items ++ [⟨0, f⟩] }
      else u

/-- The data input is held: an operand's first transfer waits unpaired, or its remaining transfers are still to come
(R97). -/
def SteerState.held (x : SteerState) : Bool :=
  x.passing.isSome || x.items.any (fun i => i.input == 1) || x.pairs.any (fun p => !p.2.last)

/-- The first transfer of a data operand at the head of the data input (R97 to R99); true where it is an orphan. -/
def Su.dataArrives (u : Su) (e n k : Nat) (f : Xfer) : Su × Bool :=
  let x := u.entry n
  match x.items.find? (fun i => i.input == 0 && i.x.tag == f.tag) with
  | some i => ((u.popHead k).setEntry n { x with
      items := dropItem (fun j => j.input == 0 && j.x.tag == f.tag) x.items,
      pairs := x.pairs ++ [(i.x.data.toNat % 16, f)] }, false)
  | none =>
    if x.endedAt 0 (tagCtx f.tag) then
      ((u.popHead k).setEntry n { x with passing := if f.last then none else some (1, 0) }, true)
    else if x.items.length + x.pairs.length < steerReserve e then
      ((u.popHead k).setEntry n { x with items := x.items ++ [⟨1, f⟩] }, false)
    else (u, false)

/-- STEER_ENTRY_ARRIVAL: a control token (input 0) or the first transfer of a data operand (input 1) reaches a steering
entry and waits in its reserve, or pairs with its partner and leaves by the token's routes (R96 to R99). A full reserve
holds the slot. -/
def execSteerEntryArrival (site n input : Nat) (s : State) : Host.Outcome State Fault Refusal :=
  let u := (s.site site).su
  let e := tabGet (fun _ => 0) (s.site site).front.steer n
  match s.worksFor site, steerType e, steerIn e (input % 2) with
  | some p, some 0, some k =>
    match u.head k with
    | none => .next s
    | some (_, f) =>
      if f.eos then .next s
      else if input % 2 = 0 then .next ((s.setSu site (u.token e n k f)).steerSettle site n)
      else if (u.entry n).held then .next (s.steerSettle site n)
      else
        let r := u.dataArrives e n k f
        let t := (s.setSu site r.1).steerSettle site n
        .next (if r.2 then t.orphan p site else t)
  | _, _, _ => .next s

/-- STEER_ENTRY_EOS: an end-of-stream marker reaches a steering entry's control or data input. On the data input it
releases the context's tokens; on the control input it discards the context's data as orphans; with both, one marker
leaves on every route with the data marker's iteration (R99). -/
def execSteerEntryEos (site n input : Nat) (s : State) : Host.Outcome State Fault Refusal :=
  let u := (s.site site).su
  let e := tabGet (fun _ => 0) (s.site site).front.steer n
  let i := input % 2
  match s.worksFor site, steerType e, steerIn e i with
  | some p, some 0, some k =>
    match u.head k with
    | none => .next s
    | some (_, f) =>
      let x := u.entry n
      let ctx := tagCtx f.tag
      if !f.eos then .next (s.steerSettle site n)
      else
        let gone : SteerItem → Bool := fun j => j.input != i && tagCtx j.x.tag == ctx
        let lost := x.items.filter gone
        let open_ := decide (i = 0) && lost.any (fun j => !j.x.last)
        let ends := x.ends ++ [(i, f.tag)]
        let both := (ends.any (fun j => j.1 == 0 && tagCtx j.2 == ctx)) && ends.any (fun j => j.1 == 1 && tagCtx j.2 == ctx)
        let dataTag := match ends.find? (fun j => j.1 == 1 && tagCtx j.2 == ctx) with
          | some j => j.2
          | none => f.tag
        let y := { x with
          items := x.items.filter (fun j => !gone j)
          passing := if open_ then some (1, 0) else x.passing
          ends := if both then ends.filter (fun j => tagCtx j.2 != ctx) else ends
          pairs := if both then x.pairs ++ [(15, ⟨dataTag, true, true, 0, 0⟩)] else x.pairs }
        let t := s.setSu site ((u.popHead k).setEntry n y)
        let t := if i = 0 then lost.foldl (fun v _ => v.orphan p site) t else t
        .next (t.steerSettle site n)
  | _, _, _ => .next s

/-! ### Merging entries (R100) -/

/-- The input slots of a merging entry. -/
def mergeInputs (e : Nat) : List (Nat × Nat) := (List.range 4).filterMap (fun i => (steerIn e i).map (fun k => (i, k)))

/-- The inputs of a merging entry that have not ended. -/
def Su.mergeLive (u : Su) (e n : Nat) : List (Nat × Nat) :=
  (mergeInputs e).filter (fun i => !(u.entry n).ends.any (fun d => d.1 == i.1))

/-- An operand of the input is in passage: the transfers still at the head of its slot are not another operand. -/
def SteerState.inPassage (x : SteerState) (i : Nat) : Bool :=
  x.passing.any (fun q => q.1 == i) || x.pairs.any (fun q => !q.2.last && q.1 / 16 == i + 1)

-- Assumption log 33 (DEDUCED).
/-- TAG_ORDER: the head of each live input that has none in the entry's reserve takes a place there, while one is free;
its place in the slot's FIFO is owed to the sender (R90, R100). -/
def Su.takeHeads (u : Su) (e n : Nat) : Su :=
  (u.mergeLive e n).foldl (fun v i =>
    let x := v.entry n
    if x.inPassage i.1 || x.items.any (fun d => d.input == i.1) || decide (steerReserve e ≤ x.items.length) then v
    else match v.head i.2 with
      | some (_, f) => (v.popHead i.2).setEntry n { x with items := x.items ++ [⟨i.1, f⟩] }
      | none => v) u

-- Assumption log 33 (DEDUCED).
/-- The heads that a merging entry compares: input, measure, transfer. In ARRIVAL mode they stand in the slots and are
measured by their arrival, in TAG_ORDER mode in the reserve and by their iteration. -/
def Su.mergeHeads (u : Su) (e n typ : Nat) : List (Nat × Nat × Xfer) :=
  (u.mergeLive e n).filterMap (fun i =>
    if typ = 1 then (u.head i.2).map (fun h => (i.1, h.1, h.2))
    else ((u.entry n).items.find? (fun d => d.input == i.1)).map (fun d => (i.1, tagIter d.x.tag, d.x)))

/-- The head with the least measure, lowest input first. -/
def leastHead : List (Nat × Nat × Xfer) → Option (Nat × Nat × Xfer)
  | [] => none
  | h :: t => match leastHead t with
    | none => some h
    | some g => if g.2.1 < h.2.1 then some g else some h

-- Assumption log 33 (DEDUCED).
/-- The head that a merging entry takes next: the one that arrived first, or in TAG_ORDER mode, once every live input has
one in the reserve, a marker that ends its input or the operand with the lowest iteration (R100). -/
def Su.mergeNext (u : Su) (e n typ : Nat) : Option (Nat × Nat × Xfer) :=
  let heads := u.mergeHeads e n typ
  if typ = 1 then leastHead heads
  else if heads.length < (u.mergeLive e n).length then none
  else match heads.find? (fun h => h.2.2.eos) with
    | some h => some h
    | none => leastHead heads

/-- Takes the chosen head from its slot, or from the reserve. -/
def Su.takeHead (u : Su) (e n typ i : Nat) : Su :=
  if typ = 1 then match steerIn e i with
    | some k => u.popHead k
    | none => u
  else u.setEntry n { u.entry n with items := dropItem (fun d => d.input == i) (u.entry n).items }

/-- The marker that a merging entry sends once every input has ended: the highest iteration, and the context of the
marker that ended the lowest-numbered input. -/
def mergeMarker (ends : List (Nat × Nat)) : Xfer :=
  let hi := ends.foldl (fun a e => max a (tagIter e.2)) 0
  let low := ends.foldl (fun (a : Nat × Nat) e => if e.1 < a.1 then e else a) (4, 0)
  ⟨mkTag (tagCtx low.2) hi, true, true, 0, 0⟩

/-- MERGE_ENTRY_FORWARD: a merging entry forwards the next operand in ARRIVAL or TAG_ORDER mode, never interleaving two,
or its final marker once every input has ended (R100). -/
def execMergeEntryForward (site n : Nat) (s : State) : Host.Outcome State Fault Refusal :=
  let e := tabGet (fun _ => 0) (s.site site).front.steer n
  let t := s.steerSettle site n
  match s.worksFor site, steerType e with
  | some _, some typ =>
    if typ = 0 then .next t
    else
      let u := (t.site site).su
      let u := if typ = 1 then u else u.takeHeads e n
      let t := t.setSu site u
      if (u.entry n).passing.isSome ∨ ¬ (u.entry n).pairs.isEmpty then .next t
      else match u.mergeNext e n typ with
        | none => .next t
        | some (i, _, f) =>
          let v := u.takeHead e n typ i
          let x := v.entry n
          if f.eos then
            let ends := x.ends ++ [(i, f.tag)]
            let all := (mergeInputs e).all (fun j => ends.any (fun d => d.1 == j.1))
            let y := { x with ends := if all then [] else ends
                              pairs := if all then [(1, mergeMarker ends)] else [] }
            .next ((t.setSu site (v.setEntry n y)).steerSettle site n)
          else if typ = 1 then
            .next ((t.setSu site (u.setEntry n { u.entry n with passing := some (i, 1) })).steerSettle site n)
          else
            .next ((t.setSu site (v.setEntry n { x with pairs := [(1 + 16 * (i + 1), f)] })).steerSettle site n)
  | _, _ => .next t

end Sys2Proof.Machine
end

