-- ==== Sys2Proof/Machine/KvSpace.lean ====
section
/-! DEFINITION. KV geometry, the KV space that hatches address, and margins (R181 to R183, R293 to R306). -/

namespace Sys2Proof.Machine

open Sys2Proof

/-! ### KV geometry (R293, R295) -/

/-- A field of the KV geometry record, at 0x0800 of the manifest (R293, R393). -/
def Edition.geo (e : Edition) (off len : Nat) : Nat := leAt e.manifest (0x800 + off) len

/-- LAYERS, H and C of an edition. -/
def Edition.layers (e : Edition) : Nat := e.geo 4 1 + 1
def Edition.heads (e : Edition) : Nat := e.geo 5 1 % 128 + 1
def Edition.chunks (e : Edition) : Nat := e.geo 6 1 % 16 + 1

/-- S = H × C: operand slots of one position in one half. -/
def Edition.kvSlots (e : Edition) : Nat := e.heads * e.chunks

/-- MAXPOS (R295). -/
def Edition.maxPos (e : Edition) : Nat := 32 * min 1024 (2 ^ 23 / (64 * e.kvSlots * e.layers))

/-- The append sites of a plate (R293). -/
def Edition.appendSites (e : Edition) (plate : Nat) : List Nat :=
  (List.range 64).filterMap (fun i =>
    let v := e.geo (1024 + 128 * plate + 2 * i) 2
    if v.testBit 15 then some (v % 8192) else none)

/-- Data words of an operand slot in a page (R297). -/
def pageWords (fmt : Nat) : Nat := if fmt = 1 then 2 else 1

/-- The partition address of a pool page (R296). -/
def State.poolAddr (s : State) (p page : Nat) : Nat := (s.fa .servePoolBase [p] + page) * 65536

/-- The mark of operands of a page format: FP8 pages are delivered as MXFP8 (R305). -/
def kvMark (fmt : Nat) : Nat := 16 + (if fmt = 3 then 5 else if fmt = 4 then 6 else fmt)

/-- Where an offset of the KV space leads for a batch entry of the firing step (R302 to R304). -/
inductive KvPlace where
  /-- Margin in the format of a mark. -/
  | margin (mark : Nat)
  /-- A mask operand, formed without memory. -/
  | mask (ws : Words)
  /-- The append of the operand has not been written yet; the format of its page. -/
  | wait (fmt : Nat)
  /-- A page: format, address of the data words, address of the word with the scales and its byte, page scale. -/
  | page (fmt data scales byte scale : Nat)
  deriving DecidableEq, Repr

/-- Key of an operand slot in the list of appended ones: token slot, layer, half, slot in the position. -/
def appendKey (slot layer kv r : Nat) : Nat := ((slot * 256 + layer) * 2 + kv) * 2048 + r

/-- The mask view's lanes of group g and query row q (R303). -/
def maskLanesOf (len v g q : Nat) : Words :=
  laneWords ((List.range 64).map (fun i => if 64 * g + i < min v (len + q + 1) then 0 else 0xFF800000))

-- Assumption log 200 (DESIGN CHOICE).
/-- Resolves an offset of the KV space (R302 to R305). A block number beyond a sequence's 1,024 has no frame. The mask view of an excluded
record the manual leaves open, as R304 makes its operands margin and R303 gives the mask view a form of its own: the model delivers the
lanes of R303. -/
def State.kvPlace (s : State) (p off : Nat) : KvPlace :=
  match (s.part p).firing with
  | none => .margin 16
  | some x => match s.resident x.edition with
    | none => .margin 16
    | some e =>
      let o := off % 2 ^ 24
      let slots := e.kvSlots
      let per := 64 * slots * e.layers
      let blk := o / per
      let l := o % per / (64 * slots)
      let kv := o % per / (32 * slots) % 2
      let r := o % (32 * slots)
      match x.records[off / 2 ^ 24]? with
      | none => if o ≥ 2 ^ 23 then .mask (maskLanesOf 0 0 (o / 2 ^ 14 % 512) (o % 2 ^ 14)) else .margin (kvMark (e.geo 7 1))
      | some rec_ =>
        if o ≥ 2 ^ 23 then
          .mask (maskLanesOf rec_.len (rec_.len + rec_.ntok) (o / 2 ^ 14 % 512) (o % 2 ^ 14))
        else
          let pos := 32 * blk + r / slots
          let pages := s.framePages p rec_.seq (32 * blk)
          match (if blk < 1024 then pages[l]? else none) with
          | none => .margin (kvMark (e.geo 7 1))
          | some pg =>
            let h := tabGet (fun _ => PageHdr.reset) (s.part p).pages pg
            if rec_.excluded ∨ pos ≥ rec_.len + rec_.ntok ∨ 32 * blk ≥ e.maxPos then .margin (kvMark h.fmt)
            else if pos ≥ rec_.len ∧
                ¬ ((List.range slots).all (fun i => x.landed.contains (appendKey (rec_.slot + (pos - rec_.len)) l kv i))) then
              .wait h.fmt
            else
              let half := s.poolAddr p pg + 32768 * kv
              .page h.fmt (half + 64 * (r * pageWords h.fmt)) (half + 64 * (32 * slots) + 2 * r / 64 * 64) (2 * r % 64)
                (if kv = 0 then h.kscale else h.vscale)

/-- Consecutive bytes as words. -/
def bytesWords (n : Nat) (bs : List Byte) : Words := natWords n (leNat bs)

/-! ### Margins (R181 to R183, R206) -/

/-- Bits of a scale byte's lane block of a margin operand, and the codes of all its lanes (R182, R183). -/
def marginWords (fmt kind const_ : Nat) (mtx : Bool) : Words :=
  let c := marginCode fmt kind const_
  if mtx then
    let n := if fmtClass fmt = 4 then 128 else if fmtClass fmt = 16 then 32 else 64
    natWords 1 (packElems (fmtBits fmt) (List.replicate n c)) ++
      (if isMx fmt then natWords 1 (packElems 8 (List.replicate 64 (marginScale kind))) else [])
  else
    natWords (dataXfers fmt) (packElems (fmtBits fmt) (List.replicate 64 c)) ++
      (if isMx fmt then natWords 1 (packElems 8 (List.replicate 2 (marginScale kind))) else [])

/-- Writes the margin into the lanes from a bound on (R183, R206): a block wholly outside is a margin block, a split one
keeps its scale; with MTX each excluded lane has its own scale. -/
def marginLanes (fmt kind const_ bound : Nat) (mtx : Bool) (ws : Words) : Words :=
  let c := marginCode fmt kind const_
  let bits := fmtBits fmt
  let d := if mtx then 1 else dataXfers fmt
  let n := if mtx then (if fmtClass fmt = 4 then 128 else if fmtClass fmt = 16 then 32 else 64) else 64
  let data := (elemsOf bits n (wordsNat (ws.take d))).zipIdx.map (fun e => if e.2 % 64 ≥ bound then c else e.1)
  let sc := (ws.getD d 0).toNat
  let scales := if mtx then
      (elemsOf 8 64 sc).zipIdx.map (fun e => if e.2 ≥ bound then marginScale kind else e.1)
    else (elemsOf 8 2 sc).zipIdx.map (fun e => if 32 * e.2 ≥ bound then marginScale kind else e.1)
  natWords d (packElems bits data) ++ (if isMx fmt then natWords 1 (packElems 8 scales) else [])

/-- The operand that a KVPAGE stream delivers from a page: data transfers, then the scale transfer (R305). -/
def pageOperand (fmt scale byte : Nat) (data scales : List Byte) : Words :=
  if fmt = 1 then bytesWords 2 data
  else if fmt = 3 ∨ fmt = 4 then bytesWords 1 data ++ natWords 1 (scale + 256 * scale)
  else bytesWords 1 data ++ natWords 1 (leAt scales byte 2)

end Sys2Proof.Machine
end

