-- ==== Sys2Proof/Machine/Collect.lean ====
section
/-! DEFINITION. Collectives: the aperture, rounds, the combining tree and their messages (R191, R473 to R475). -/

namespace Sys2Proof.Machine

open Sys2Proof

/-! ### Aperture and keys (R473, R474) -/

/-- OP, WIRE, GMASK and CID of an offset in the aperture, and the word offset. -/
structure CollRef where
  op : Nat
  wire : Nat
  gmask : Nat
  cid : Nat
  word : Nat
  deriving DecidableEq, Repr

/-- Reads an offset of the aperture (R473). -/
def collRef (off : Nat) : CollRef :=
  ⟨bitsOf off 39 37, bitsOf off 36 36, bitsOf off 35 24, bitsOf off 23 22, bitsOf off 21 6⟩

/-- The key of a round (R474). -/
def collKey (c : CollRef) (row ledger : Nat) : Nat :=
  c.gmask * 2 ^ 24 + c.wire * 2 ^ 23 + c.op * 2 ^ 20 + c.cid * 2 ^ 18 + row % 64 * 2 ^ 12 + ledger % 4096

/-- The fields of a key. -/
def keyRef (k : Nat) : CollRef := ⟨bitsOf k 22 20, bitsOf k 23 23, bitsOf k 35 24, bitsOf k 19 18, 0⟩

/-- The members of a round, by rank (R473). -/
def State.collMembers (s : State) (p gmask : Nat) : List Nat :=
  (s.members p).filter (fun m => m &&& gmask == s.coord p &&& gmask)

/-- This module's rank. -/
def State.collRank (s : State) (p gmask : Nat) : Nat := (s.collMembers p gmask).idxOf (s.coord p)

/-- The parent of a rank, and the children. -/
def collParent (ms : List Nat) (r : Nat) : Option Nat := if r = 0 then none else ms[(r - 1) / 16]?
def collChildren (ms : List Nat) (r : Nat) : List Nat :=
  (List.range 16).filterMap (fun i => ms[16 * r + 1 + i]?)

/-- The node of a round. -/
def State.coll (s : State) (p key : Nat) : Coll :=
  match (s.part p).colls.find? (fun c => c.key == key) with
  | some c => c
  | none => ⟨key, [], [], false, false, [], [], false⟩

/-- Stores the node of a round. -/
def State.setColl (s : State) (p : Nat) (c : Coll) : State :=
  let x := s.part p
  let l := if x.colls.any (fun d => d.key == c.key) then x.colls.map (fun d => if d.key == c.key then c else d)
    else x.colls ++ [c]
  s.setPart p { x with colls := l }

/-! ### Combining (R191, R474) -/

/-- Combines a word into a node's word: FP32 lanes by sum or maximum; GATHER keeps the first one. -/
def collCombine (op : Nat) (old new : Line) : Line :=
  if op = 2 then old
  else
    let f : Num → Num → Num := fun a b => if op = 1 then numMax a b else numSum [a, b]
    BitVec.ofNat 512 (packElems 32 (List.zipWith (fun a b => toFp32 (f (ofFp32 a) (ofFp32 b)))
      (elemsOf 32 16 old.toNat) (elemsOf 32 16 new.toNat)))

/-- The first word of a sum or maximum as the node takes it: NaNs are canonical (R167). -/
def collFirst (op : Nat) (x : Line) : Line :=
  if op = 2 then x
  else BitVec.ofNat 512 (packElems 32 ((elemsOf 32 16 x.toNat).map (fun a => toFp32 (ofFp32 a))))

/-- A word of a contribution enters a node in arrival order; false where a GATHER word has been written before. -/
def Coll.add (c : Coll) (w : Nat) (x : Line) : Coll × Bool :=
  match (c.words.find? (fun e => e.1 == w)).map (·.2) with
  | none => ({ c with words := tabIns c.words w (collFirst (keyRef c.key).op x) }, true)
  | some old => ({ c with words := tabIns c.words w (collCombine (keyRef c.key).op old x) }, decide ((keyRef c.key).op ≠ 2))

/-- A word in the wire format: FP32 lanes, BF16 lanes or raw bytes (R462, R474). -/
def wireBytes (c : CollRef) (x : Line) : List Byte :=
  if c.wire = 1 ∧ c.op ≠ 2 then
    leBytes 32 (packElems 16 ((elemsOf 32 16 x.toNat).map (fun a => bf16.encode rne false (ofFp32 a))))
  else leBytes 64 x.toNat

/-- A word from the wire format. -/
def wireWord (c : CollRef) (bs : List Byte) : Line :=
  if c.wire = 1 ∧ c.op ≠ 2 then
    BitVec.ofNat 512 (packElems 32 ((elemsOf 16 16 (leNat bs)).map (fun a => toFp32 (bf16.decode a))))
  else BitVec.ofNat 512 (leNat bs)

/-- Bytes of a word on the wire. -/
def wireLen (c : CollRef) : Nat := if c.wire = 1 ∧ c.op ≠ 2 then 32 else 64

-- Assumption log 66 (DEDUCED).
/-- Sends words of a round and the end of the direction. -/
def State.sendColl (s : State) (p key dst dir : Nat) (ws : Tab Line) (fin : Bool) : State :=
  let t := ws.foldl (fun u e => u.sendStep p 0x21 dst false u.txn
    (leBytes 8 key ++ leBytes 1 dir ++ [0, 0, 0] ++ leBytes 4 e.1 ++ wireBytes (keyRef key) e.2)) s
  if fin then t.sendStep p 0x22 dst false t.txn (leBytes 8 key ++ leBytes 1 dir) else t

-- Assumption log 66 (DEDUCED).
/-- The words that a member of rank r keeps: SCATTER keeps w mod n = r (R474). -/
def collKeeps (op n r w : Nat) : Bool := op != 3 || w % max n 1 == r

-- Assumption log 66 (DEDUCED).
/-- A node whose module has closed and whose children have ended sends its sums UP; the root ends the round and sends
the result DOWN (R474). -/
def State.collSettle (s : State) (p key : Nat) : State :=
  let c := s.coll p key
  let k := keyRef key
  let ms := s.collMembers p k.gmask
  let r := s.collRank p k.gmask
  if c.closed && !c.sentUp && (collChildren ms r).all c.ends.contains then
    let ws := c.words.map (fun e => (e.1, wireWord k (wireBytes k e.2)))
    match collParent ms r with
    | some m => (s.setColl p { c with sentUp := true }).sendColl p key m 0 c.words true
    | none =>
      let t := s.setColl p { c with sentUp := true, result := ws.filter (fun e => collKeeps k.op ms.length r e.1),
                                    down := true }
      (collChildren ms r).foldl (fun u m => u.sendColl p key m 1 ws true) t
  else s

-- Assumption log 65 (DEDUCED).
/-- A write of the aperture in a section of the firing step (R473, R474); OP 4 to 7 are discarded as orphans, and so is a
GATHER word written twice. A new round of a CID replaces the results of the earlier one (R475). -/
def State.collWrite (s : State) (p site off : Nat) (x : Line) : State :=
  let c := collRef off
  match (s.part p).firing with
  | none => s
  | some f =>
    if c.op > 3 then s.orphan p site
    else
      let key := collKey c (f.row.getD 0) f.entry.idx
      let keep := (s.part p).colls.filter (fun d => d.key == key || (keyRef d.key).cid != c.cid || !d.down)
      let t := s.setPart p { s.part p with colls := keep }
      let node := t.coll p key
      let r := node.add c.word x
      let t := t.setColl p { r.1 with own := node.own ++ [c.word] }
      if r.2 then t else t.orphan p site

-- Assumption log 194 (DEDUCED).
/-- What a read of the aperture gives: the word, or nothing while it has not arrived (R475). A round of the CID, OP, WIRE and
GMASK named comes before another one of the CID, which owns the result buffer. Results belong to the firing step: a round of another
step is not read. -/
def State.collRead (s : State) (p off : Nat) : Option Line :=
  let c := collRef off
  let l := (s.part p).colls.filter (fun d =>
    (keyRef d.key).cid == c.cid && (s.part p).firing.any (fun x => x.entry.idx == d.key % 4096))
  match (l.find? (fun d => { keyRef d.key with word := c.word } == c)).or l.head? with
  | none => none
  | some d =>
    match d.result.find? (fun e => e.1 == c.word) with
    | some e => some e.2
    | none => if d.down then some 0 else none

/-- The section of a row has drained: the module closes its contribution to the rounds of the row (R474). -/
def State.collClose (s : State) (p row : Nat) : State :=
  (s.part p).colls.foldl (fun t c =>
    if c.key / 2 ^ 12 % 64 = row % 64 ∧ ¬ c.closed then
      (t.setColl p { t.coll p c.key with closed := true }).collSettle p c.key
    else t) s

/-- The words of a COLL_DATA body from byte 16 on: word offset and word. -/
def collBody (c : CollRef) (first : Nat) : Nat → List Byte → List (Nat × Line)
  | 0, _ => []
  | n + 1, bs => if bs.length < wireLen c then []
    else (first, wireWord c (bs.take (wireLen c))) :: collBody c (first + 1) n (bs.drop (wireLen c))

-- Assumption log 65 (DEDUCED).
/-- COLL_DATA: a child's words enter the node going up; the result going down is stored and forwarded to the children
unchanged (R474). A GATHER word that comes again counts as an orphan; the manual leaves open at which site, and the model takes the
partition's lowest. -/
def execCollData (port : Nat) (h : Hdr) (body : List Byte) (s : State) : Host.Outcome State Fault Refusal :=
  .next (s.receive port 0x21 h body (fun t p =>
    let key := leAt body 0 8 % 2 ^ 36
    let k := keyRef key
    let ms := t.collMembers p k.gmask
    let r := t.collRank p k.gmask
    let ws := collBody k (leAt body 12 4) 64 (body.drop 16)
    if leAt body 8 1 % 2 = 0 then
      ws.foldl (fun u e =>
        let c := (u.coll p key).add e.1 e.2
        let v := u.setColl p c.1
        if c.2 then v else v.orphan p (((v.sitesOf p).head?).getD 0)) t
    else
      let c := t.coll p key
      let u := t.setColl p { c with result := ws.foldl (fun b e =>
        if collKeeps k.op ms.length r e.1 then tabIns b e.1 e.2 else b) c.result }
      (collChildren ms r).foldl (fun v m => v.sendColl p key m 1 ws false) u))

/-- A round of a step that fires no longer goes once its result has come DOWN (R475). -/
def State.dropRound (s : State) (p key : Nat) : State :=
  if (s.part p).firing.any (fun x => x.entry.idx == key % 4096) then s
  else s.setPart p { s.part p with colls := (s.part p).colls.filter (fun d => d.key != key) }

/-- The results of the rounds go with their step; a round that has not ended still serves the other members (R475). -/
def State.endRounds (s : State) (p idx : Nat) : State :=
  s.setPart p { s.part p with colls := (s.part p).colls.filter (fun d => d.key % 4096 != idx || !d.down) }

/-- COLL_END: a child has closed its contribution going up, or the round ends going down (R474). -/
def execCollEnd (port : Nat) (h : Hdr) (body : List Byte) (s : State) : Host.Outcome State Fault Refusal :=
  .next (s.receive port 0x22 h body (fun t p =>
    let key := leAt body 0 8 % 2 ^ 36
    let k := keyRef key
    let c := t.coll p key
    if leAt body 8 1 % 2 = 0 then
      (t.setColl p { c with ends := if c.ends.contains h.src then c.ends else c.ends ++ [h.src] }).collSettle p key
    else
      let u := (t.setColl p { c with down := true }).dropRound p key
      (collChildren (t.collMembers p k.gmask) (t.collRank p k.gmask)).foldl (fun v m => v.sendColl p key m 1 [] true) u))

end Sys2Proof.Machine
end

