-- ==== Sys2Proof/Machine/Blocks.lean ====
section
/-! DEFINITION. The commit machinery of a block: staged, pending and active copies, COMMIT_STATUS (R31 to R40), and the
checks and effect of a commit of a SITE block (R111, R112, R224). A block instance is named by its COMMIT_STATUS register
and the indices of its instance. -/

namespace Sys2Proof.Machine

open Sys2Proof

/-- The bytes of one instance of a block (R25). -/
def blkSize : Rg → Nat
  | .siteCommitStatus => 0x1000
  | .partCommitStatus => 0x10000
  | .opticCommitStatus => 0x10000
  | .hbmCommitStatus => 0x100000
  | .serveCommitStatus => 0x1000000
  | .hostCommitStatus => 0x100000
  | .flashCommitStatus => 0x100000
  | _ => 0x10000

/-- The first address of a block instance: COMMIT_STATUS lies at offset 0xFF8 (R31). -/
def blkBase (r : Rg) (ix : List Nat) : Nat := r.at ix - 0xFF8

/-- The address after a block instance. -/
def blkEnd (r : Rg) (ix : List Nat) : Nat := blkBase r ix + blkSize r

/-- RESULT of COMMIT_STATUS is PENDING. -/
def State.commitPending (s : State) (r : Rg) (ix : List Nat) : Bool := getBits (s.rv r ix) 10 8 == 1

/-- A commit leaves PENDING with a RESULT and CHECK, and sets DONE (R34); for every block but SITE a COMMIT record is
written (R553). The record of a formed partition's PART block carries the partition's time. -/
def State.commitEnd (s : State) (r : Rg) (ix : List Nat) (result check : Nat) : State :=
  let t := s.setv r ix (putBits (putBits (putBits (s.rv r ix) 47 32 check) 10 8 result) 0 0 1)
  if r = .siteCommitStatus then t
  else
    let p := if r = .partCommitStatus ∧ s.formed (ix.getD 0 0) then ix.head? else none
    t.bbWrite p 0x03 0 (payloadOf [(0, 4, blkBase r ix), (4, 2, getBits (s.rv r ix) 31 16), (6, 1, result), (8, 2, check)])

/-- A COMMIT of TIME carries the trace fields that the host has written since the last one (R67). -/
def State.carryTrace (s : State) : State :=
  (List.range 32).foldl (fun t p =>
    if (t.part p).traceSet then t.setPart p { t.part p with traceSet := false, traceGo := true } else t) s

/-- A COMMIT write with GO = 1 (R33, R37): while a commit is pending it is discarded and sets LOST. -/
def State.commitGo (s : State) (r : Rg) (ix : List Nat) (token : Nat) : State :=
  if s.commitPending r ix then s.setv r ix (putBits (s.rv r ix) 1 1 1)
  else
    let t := s.setv r ix (putBits (putBits (putBits (s.rv r ix) 47 32 0) 31 16 token) 10 8 1)
    let t := t.setRegs { t.regs with pnd := tabReplace t.regs.pnd t.regs.stg (blkBase r ix) (blkEnd r ix) }
    if r = .timeCommitStatus then t.carryTrace else t

/-- A COMMIT write with CANCEL = 1 (R37); nothing happens with no commit pending. -/
def State.commitCancel (s : State) (r : Rg) (ix : List Nat) : State :=
  if s.commitPending r ix then s.commitEnd r ix 4 0 else s

/-- The pending copy replaces the whole active copy at one point (R34). -/
def State.takePending (s : State) (r : Rg) (ix : List Nat) : State :=
  s.setRegs { s.regs with act := tabReplace s.regs.act s.regs.pnd (blkBase r ix) (blkEnd r ix) }

/-- The first of some numbered checks that fails: check number and whether it fails. -/
def firstFail (l : List (Nat × Bool)) : Option Nat := (l.find? (fun c => c.2)).map (·.1)

/-! ### SITE blocks -/

/-- A bank owner code is not used, or names a near-path compute unit off the array or out of the partition (R224). -/
def State.ownerOut (s : State) (site code : Nat) : Bool :=
  decide (1 ≤ code) && decide (code ≤ 4) && (match neighbour site (code - 1), s.ownerOf site with
    | none, _ => true
    | some m, some p => !inRect (s.rect p) m
    | some _, none => false)

-- Assumption log 181 (DEDUCED).
/-- A site image uses its site: a trigger entry, an output slot, a steer entry, an engine entry or a receive window of it is valid
(R111, R112). A plate compiled without a site holds none of them there. -/
def SiteImg.used (m : SiteImg) : Bool :=
  m.trig.any (fun e => trigValid e.2) || m.slots.any (fun e => bitOf e.2 15) || m.steer.any (fun e => bitOf e.2 7) ||
    m.entries.any (fun e => e.2.toNat.testBit 63) || m.xwin.any (fun e => bitOf e.2 15)

/-- The owning partition's front or back plate uses a site (R111). -/
def State.plateUses (s : State) (site : Nat) : Bool :=
  match s.ownerOf site with
  | some p => ((s.part p).front.isSome && (s.site site).front.used) || ((s.part p).back.isSome && (s.site site).back.used)
  | none => false

/-- The checks of a SITE commit over its pending copy (R111, R224). -/
def State.siteChecks (s : State) (site : Nat) : Option Nat :=
  let own := (List.range 16).map (fun b => getBits (s.rp .siteMuBankOwn [site]) (4 * b + 3) (4 * b))
  firstFail [(1, s.fp .siteCtlOffline [site] == 1 && s.plateUses site),
    (2, s.fp .siteCtlTraceEn [site] == 1 && (s.ownerOf site).isNone),
    (3, isMu site && own.any (fun o => decide (10 ≤ o) && decide (o < 15))),
    (4, isMu site && own.any (s.ownerOut site))]

/-- A SITE commit at its boundary (R34, R112). -/
def State.commitSite (s : State) (site : Nat) : State :=
  match s.siteChecks site with
  | some c => s.commitEnd .siteCommitStatus [site] 3 c
  | none =>
    let t := s.takePending .siteCommitStatus [site]
    (t.setf .siteStateOfflineActive [site] (t.fa .siteCtlOffline [site])).commitEnd .siteCommitStatus [site] 2 0

end Sys2Proof.Machine
end

