-- ==== Sys2Proof/Machine/Hatch.lean ====
section
/-! DEFINITION. Hatch engines: descriptors, loop nests, delivery, bank grants, READ and QUEUE streams, re-arming
(R101 to R104, R192 to R214, R585). -/

namespace Sys2Proof.Machine

open Sys2Proof

/-! ### Descriptors (R201, R202) -/

/-- A hatch descriptor as a number. -/
abbrev Desc := Nat

abbrev Desc.mconst (d : Desc) : Nat := bitsOf d 255 224
abbrev Desc.mkind (d : Desc) : Nat := bitsOf d 223 221
abbrev Desc.fmt (d : Desc) : Nat := bitsOf d 220 217
abbrev Desc.port (d : Desc) : Nat := bitsOf d 216 213
abbrev Desc.persist (d : Desc) : Bool := bitOf d 212
abbrev Desc.merge (d : Desc) : Bool := bitOf d 211
abbrev Desc.strict (d : Desc) : Bool := bitOf d 210
abbrev Desc.spill (d : Desc) : Bool := bitOf d 209
abbrev Desc.mode (d : Desc) : Nat := bitsOf d 208 207
abbrev Desc.space (d : Desc) : Nat := bitsOf d 206 205
abbrev Desc.window (d : Desc) : Nat := bitsOf d 204 203
abbrev Desc.mtx (d : Desc) : Bool := bitOf d 202
abbrev Desc.base (d : Desc) : Nat := bitsOf d 201 164
abbrev Desc.context (d : Desc) : Nat := bitsOf d 163 160
abbrev Desc.sshift (d : Desc) : Nat := bitsOf d 159 157
abbrev Desc.shapeSel (d : Desc) : Nat := bitsOf d 156 153
abbrev Desc.shapeLvl (d : Desc) : Nat := bitsOf d 152 150
abbrev Desc.pad (d : Desc) : Bool := bitOf d 149
abbrev Desc.mlvl (d : Desc) : Nat := bitsOf d 148 146
abbrev Desc.mvalid (d : Desc) : Nat := bitsOf d 145 130

/-- Counts of the six levels. -/
def Desc.counts (d : Desc) : List Nat :=
  [bitsOf d 129 120, bitsOf d 119 110, bitsOf d 95 86, bitsOf d 71 62, bitsOf d 47 38, bitsOf d 23 14].map (· + 1)

/-- Strides of levels 1 to 5 in words, scaled (R205). -/
def Desc.strides (d : Desc) : List Int :=
  let sc : Int := Int.ofNat (2 ^ d.sshift)
  [toSigned 14 (bitsOf d 109 96), toSigned 14 (bitsOf d 85 72) * sc, toSigned 14 (bitsOf d 61 48) * sc,
    toSigned 14 (bitsOf d 37 24) * sc, toSigned 14 (bitsOf d 13 0) * sc]

/-- L: words of one operand (R204); KVPAGE offsets step by one (R302). -/
def Desc.len (d : Desc) : Nat :=
  if d.space = 3 then 1 else if d.mtx then 1 + bit01 (isMx d.fmt) else opXfers d.fmt

/-- Fields of an engine entry (R201). -/
abbrev entryValid (e : Word) : Bool := e.toNat.testBit 63
abbrev entryFirst (e : Word) : Nat := getBits e 62 56
abbrev entryLast (e : Word) : Nat := getBits e 55 49
abbrev entrySync (e : Word) : Bool := e.toNat.testBit 48
abbrev entryWait (e : Word) : Nat := getBits e 47 42
abbrev entrySignal (e : Word) : Nat := getBits e 41 36
abbrev entryLevel (e : Word) : Nat := getBits e 35 33
abbrev entryArm (e : Word) : Bool := e.toNat.testBit 32
abbrev entryArmSlot (e : Word) : Nat := getBits e 31 29

/-- A descriptor of the front image of a site. -/
def State.descOf (s : State) (site n : Nat) : Desc := (tabGet (fun _ => 0) (s.site site).front.descs n).toNat

/-- The section that runs in a partition. -/
def State.sectionOf (s : State) (p : Nat) : Nat := s.fv .partPlateStateSection [p]

/-- The value of the shape word that a descriptor is bound to (R206, R207, R236); none without a binding. -/
def State.shapeOf (s : State) (p : Nat) (d : Desc) : Option Nat :=
  if d.shapeSel = 0 then none
  else match (s.part p).firing, (s.part p).front with
    | some x, some pl =>
      let m := ((pl.sections.getD (s.sectionOf p) ⟨0, []⟩).shapes).getD (d.shapeSel - 1) 0
      some (x.shape (bitsOf m 27 24))
    | _, _ => some 0

/-- The counts that a pass runs: a TRIM binding shortens its level, and a bound word of zero makes a zero-length stream
in every mode (R207). -/
def passCounts (d : Desc) (sh : Option Nat) : List Nat :=
  match sh with
  | none => d.counts
  | some v =>
    if v = 0 then [0, 1, 1, 1, 1, 1]
    else if d.shapeLvl < 6 ∧ ¬ d.pad then d.counts.set d.shapeLvl (min (d.counts.getD d.shapeLvl 1) v)
    else d.counts

/-- Operands of a pass. -/
def passTotal (cs : List Nat) : Nat := cs.foldl (· * ·) 1

/-- The loop indices of a position, level 0 first. -/
def nestIx : List Nat → Nat → List Nat
  | [], _ => []
  | c :: t, k => k % max c 1 :: nestIx t (k / max c 1)

-- Assumption log 201 (DESIGN CHOICE).
/-- The word address of a position (R205). Where a re-arm BASE takes the nest outside the range of its SPACE, which check 5 of R244 judges for
the BASE of the load only, the manual leaves the pass open: the model takes a negative address as 0, and beyond the last word it reads zeros
and stores at words that nothing else names. -/
def nestAddr (d : Desc) (base : Nat) (ix : List Nat) : Nat :=
  (Int.ofNat (base + ix.getD 0 0 * d.len) +
    (List.zipWith (fun i (st : Int) => Int.ofNat i * st) (ix.drop 1) d.strides).foldl (· + ·) 0).toNat

/-- The lane from which on an operand is margin; 64 without a lane bound (R206). -/
def laneBound (d : Desc) (sh : Option Nat) : Nat :=
  min (if d.mlvl = 6 then d.mvalid else 64)
    (match sh with
     | some v => if d.shapeLvl = 6 then v else 64
     | none => 64)

/-- A whole operand is margin (R206): its index lies beyond a bound, or all its lanes do. -/
def wholeMargin (d : Desc) (sh : Option Nat) (ix : List Nat) : Bool :=
  (decide (d.mlvl < 6) && decide (ix.getD d.mlvl 0 ≥ d.mvalid)) ||
    (match sh with
     | some v => d.pad && decide (d.shapeLvl < 6) && decide (ix.getD d.shapeLvl 0 ≥ v)
     | none => false) || laneBound d sh == 0

/-- Operands of one iteration of a level (R214). -/
def iterSize (cs : List Nat) (lvl : Nat) : Nat := max 1 (passTotal (cs.take lvl))

/-! ### Delivery (R198, R199) -/

/-- What an engine works with: its site, number, state and descriptor, and the counts of the pass. -/
structure Hatch where
  part : Nat
  site : Nat
  eng : Nat
  d : Desc
  shape : Option Nat
  cs : List Nat
  deriving DecidableEq, Repr

/-- The engine of a working memory unit, where a descriptor runs. -/
def State.hatch (s : State) (site e : Nat) : Option Hatch :=
  match s.worksFor site with
  | some p =>
    let x := s.engine site e
    if isMu site && x.active && decide (e < 4) then
      let d := s.descOf site x.desc
      let sh := s.shapeOf p d
      some ⟨p, site, e, d, sh, passCounts d sh⟩
    else none
  | none => none

/-- An engine moves to the next descriptor of its run, or finishes (R201). -/
def State.engineNext (s : State) (h : Hatch) : State :=
  let x := s.engine h.site h.eng
  if x.desc < entryLast x.entry then
    s.setEngine h.site h.eng { Engine.reset with
      entry := x.entry, desc := x.desc + 1, active := true, base := (s.descOf h.site (x.desc + 1)).base, arm := x.arm,
      armQ := x.armQ }
  else s.setEngine h.site h.eng { Engine.reset with entry := x.entry, desc := x.desc }

/-- The dispatcher still owes a site operands, or holds input of the site whose layer is not decided yet (R333). -/
def State.dispBusy (s : State) (p site : Nat) : Bool :=
  let d := (s.part p).disp
  d.owed.any (fun o => o.1 == site) || d.lists.any (fun l => l.2.1 == site) || d.ended.contains site

-- Assumption log 177 (DEDUCED).
/-- A memory unit has no work once its engines have finished, its append unit's stream has closed and the dispatcher owes it
nothing (R105, R308, R333). -/
def State.muRest (s : State) (p site : Nat) : State :=
  let m := (s.site site).mu
  if m.engines.any (fun e => e.active) || m.appending || !m.appends.isEmpty || s.dispBusy p site then s
  else s.work p site false

/-- A memory unit gains work where it has none (R105). -/
def State.muWake (s : State) (p site : Nat) : State :=
  if s.fv .siteStateWork [site] = 1 then s else s.work p site true

/-- An engine of a memory unit has finished. -/
def State.muIdle (s : State) (h : Hatch) : State := s.muRest h.part h.site

/-- The destination of a stream has room for an operand of n transfers (R585). -/
def State.roomAt (s : State) (h : Hatch) (n : Nat) : Bool :=
  if h.d.port < 4 then
    match neighbour h.site h.d.port with
    | some c => decide (s.matchFree c (opposite h.d.port) > 0)
    | none => false
  else decide (n ≤ (s.site h.site).su.credit (slotKey 5 (h.d.port - 4)))

-- Assumption log 179 (DEDUCED).
/-- The memory links carry a memory unit's requests to the dies that hold n lines of partition address, and their responses back
(R30, R361). -/
def State.linked (s : State) (p site n a : Nat) : Bool :=
  (List.range n).all (fun i => match s.place p (a + 64 * i) with
    | .hbm m => s.memUp (dieOf site) (m / 2 ^ 39 % 8)
    | _ => true)

-- Assumption log 179 (DEDUCED).
/-- Lines of partition address can be accessed now: no page-tile of them is out, and the memory links carry the request (R30,
R429). -/
def State.reachable (s : State) (p site n a : Nat) : Bool := (s.absent p n a).isNone && s.linked p site n a

/-- A posted write of an engine waits for a memory link or a page-tile (R30, R429). -/
def State.postWaits (s : State) (p site : Nat) (x : Engine) : Bool :=
  x.posted.any (fun w => w.kind == 0 && !s.reachable p site w.data.length w.addr)

/-- What the engine of a READ stream waits for (R218, R304). -/
def State.readCauses (s : State) (h : Hatch) (x : Engine) : List Nat :=
  let sem := if x.waiting || x.armWait then [5] else []
  match x.reads with
  | r :: _ =>
    (if r.data.isNone then [6] else if s.roomAt h ((r.ops.head?.map (fun o => o.2.1)).getD 1) then [] else [1]) ++ sem
  | [] =>
    let ix := nestIx h.cs x.pos
    let late := h.d.space == 3 && decide (x.pos < passTotal h.cs) && !wholeMargin h.d h.shape ix &&
      (match s.kvPlace h.part (nestAddr h.d x.base ix) with | .wait _ => true | _ => false)
    sem ++ (if x.bank.isSome then [3] else []) ++
      (if !sem.isEmpty || x.bank.isSome then [] else if late then [6]
       else if s.roomAt h (if x.pos < passTotal h.cs then h.d.len else 1) then [] else [1])

/-- What an engine waits for (R65, R218): data of a read that it must send next or HBM that takes its writes, a credit of a remote
window, a semaphore or a re-arm word, a bank grant, room at its output. -/
def State.engineCauses (s : State) (site e : Nat) : List Nat :=
  match s.hatch site e with
  | none => []
  | some h =>
    let x := s.engine site e
    let hbm := if s.postWaits h.part site x then [6] else []
    if h.d.mode = 0 then s.readCauses h x
    else if h.d.mode = 1 then
      let credit := h.d.space = 2 && bitOf x.base 37 && decide ((s.site site).mu.credits.getD h.d.window 0 = 0) &&
        (x.bank.isSome || !((s.site site).su.outFifo (h.d.port - 4)).isEmpty)
      hbm ++ (if credit then [4] else []) ++ (if x.waiting || x.armWait then [5] else []) ++
        (if x.bank.isSome && !credit then [3] else [])
    else
      hbm ++ (if x.reads.any (fun r => r.data.isNone) then [6] else []) ++ (if x.bank.isSome then [3] else []) ++
        (if (s.site site).su.credit (slotKey 5 (h.d.port - 4)) = 0 && !(x.ring.isEmpty && x.ext.isEmpty) then [1] else [])

-- Assumption log 29 (DEDUCED).
/-- The first of some causes in the order of R106. -/
def firstCause (l : List Nat) : Nat := (([7, 6, 4, 5, 3, 1, 2].find? (fun c => l.contains c)).getD 0)

-- Assumption log 29 (DEDUCED).
/-- The cause of an engine's wait: the first in the order of R106 of those that apply, else INPUT_EMPTY (R218). -/
def State.engineCause (s : State) (site e : Nat) : Nat := firstCause (s.engineCauses site e)

-- Assumption log 29 (DEDUCED), 177 (DEDUCED).
/-- The cause of a memory unit's stall: the first of R106 that applies to one of its engines, to its append unit, whose writes wait
for HBM, or to the dispatcher, whose operands wait for credits (R218, R308, R333). -/
def State.muCause (s : State) (p site : Nat) : Nat :=
  firstCause ((List.range 4).flatMap (s.engineCauses site) ++
    (if (s.site site).mu.appends.isEmpty then [] else [6]) ++
    (if (s.part p).disp.owed.any (fun o => o.1 == site) then [1] else []))

-- Assumption log 202 (DEDUCED).
/-- An operand leaves by the near path or the switch unit (R198, R199). -/
def State.deliverOp (s : State) (h : Hatch) (o : Operand) : State :=
  if h.d.port < 4 then
    match neighbour h.site h.d.port with
    | some c => (s.deliverTo c (opposite h.d.port) o).progressBy h.part h.site (xfersOf o).length
    | none => s
  else (s.enterSu h.site (h.d.port - 4) (xfersOf o)).progressBy h.part h.site (xfersOf o).length

/-- After an operand of a READ stream has left: counted, and its iteration is signalled at its end (R214). -/
def State.afterSend (s : State) (h : Hatch) : State :=
  let x := s.engine h.site h.eng
  let t := s.setEngine h.site h.eng { x with sent := x.sent + 1 }
  if entrySync x.entry && (x.sent + 1) % iterSize h.cs (entryLevel x.entry) == 0 then
    t.semSignal h.part h.site (entrySignal x.entry) 1
  else t

/-- The tag of operand k of a stream (R205). -/
def streamTag (d : Desc) (k : Nat) : Nat := mkTag d.context k

/-- What is left of a read when its first operand of n words has been sent. -/
def ReadReq.rest (r : ReadReq) (n : Nat) : List ReadReq :=
  if r.ops.length ≤ 1 then []
  else [{ r with ops := r.ops.drop 1, len := r.len - 64 * n, data := r.data.map (fun b => b.drop (64 * n)) }]

/-- Sends some of the operands at the head of an engine's read buffer whose data has come, in visiting order (R585). -/
def State.sendSome (s : State) (h : Hatch) : Nat → State
  | 0 => s
  | fuel + 1 =>
    let x := s.engine h.site h.eng
    match x.reads with
    | [] => s
    | r :: t => match r.data, r.ops with
      | some bs, (pos, n, ml) :: _ =>
        let o : Operand := ⟨streamTag h.d pos, false, ml % 32, natWords n (leNat bs)⟩
        if s.roomAt h n then
          (((s.setEngine h.site h.eng { x with reads := r.rest n ++ t }).deliverOp h o).afterSend h).sendSome h fuel
        else s
      | _, _ => s

/-- Sends every operand at the head of an engine's read buffer that can leave. -/
def State.sendReady (s : State) (h : Hatch) : State :=
  s.sendSome h ((s.engine h.site h.eng).reads.foldl (fun n r => n + r.ops.length) 0)

/-! ### The end of a pass (R209) -/

/-- The word of an engine's one-word re-arm buffer has been taken: the next of those that wait moves in, in arrival order (R209). -/
def State.takeArm (s : State) (p site e : Nat) : State :=
  let x := s.engine site e
  match x.armQ with
  | [] => s.setEngine site e { x with arm := none }
  | some b :: q => s.setEngine site e { x with arm := some (some b), armQ := q }
  | none :: q =>
    let slot := entryArmSlot x.entry
    match headOperand ((s.site site).su.outFifo slot) with
    | some (o, rest) =>
      let t := (s.setSu site ((s.site site).su.take slot rest)).progressBy p site (xfersOf o).length
      t.setEngine site e { x with arm := some (if o.eos then none else some ((o.words.getD 0 0).toNat % 2 ^ 38)), armQ := q,
                                  closing := x.closing || o.eos }
    | none => s.setEngine site e { x with arm := none, armQ := q }

-- Assumption log 59 (DEDUCED).
/-- What follows the last operand of a pass: the marker and the next descriptor, or a re-arm word (R205, R207, R209). -/
def State.endPass (s : State) (h : Hatch) : State :=
  let x := s.engine h.site h.eng
  let total := passTotal h.cs
  if x.pos < total ∨ x.bank.isSome ∨ ¬ x.reads.isEmpty then s
  else
    let close := !h.d.persist || h.shape == some 0 || x.closing || x.arm == some none
    if close then
      if s.roomAt h 1 then
        (((s.deliverOp h (marker (streamTag h.d (x.before + total)))).takeArm h.part h.site h.eng).engineNext h).muIdle h
      else s
    else match x.arm with
      | some (some b) =>
        let t := s.takeArm h.part h.site h.eng
        t.setEngine h.site h.eng { t.engine h.site h.eng with base := b, before := x.before + total, pos := 0, armWait := false }
      | _ => s.setEngine h.site h.eng { x with armWait := true }

/-! ### Banks (R193 to R197, R585) -/

-- Assumption log 69 (DEDUCED).
/-- The requests of a bank operation's words. -/
def bankReqs (h : Hatch) (ws : List (Nat × Option Line)) : List BankReq :=
  ws.map (fun w => ⟨4 + h.eng, w.1, w.2, h.d.strict, false⟩)

/-- A word that an engine may write: its bank is the engine's or SHARED (R195). -/
def State.engineMay (s : State) (site e w : Nat) : Bool := s.bankOwner site w == 5 + e || s.bankOwner site w == 15

/-- A queue that has sent its marker and holds nothing moves to its next descriptor (R211). -/
def State.endQueue (s : State) (h : Hatch) : State :=
  let x := s.engine h.site h.eng
  if x.ended && x.ring.isEmpty && x.ext.isEmpty && x.bank.isNone then (s.engineNext h).muIdle h else s

/-- The word of a queue's oldest transfer in the bank ring has been read: the transfer leaves (R104, R211). -/
def State.ringSend (s : State) (h : Hatch) (w : Line) : State :=
  let x := s.engine h.site h.eng
  match x.ring with
  | f :: t =>
    (((s.setEngine h.site h.eng { x with ring := t, bank := none }).enterSu h.site (h.d.port - 4)
      [{ f with data := w }]).progress h.part h.site).endQueue h
  | [] => s.setEngine h.site h.eng { x with bank := none }

/-- An operand of a BANK READ stream, or the oldest transfer of a bank ring, whose words have all been read is sent (R585,
R211). -/
def State.bankDone (s : State) (h : Hatch) : State :=
  let x := s.engine h.site h.eng
  match x.bank with
  | some b =>
    if !b.write && b.words.all (fun w => w.2.isSome) then
      let ws := b.words.map (fun w => w.2.getD 0)
      if h.d.mode = 2 then s.ringSend h (ws.getD 0 0)
      else
        let bound := laneBound h.d h.shape
        let ws := if bound < 64 then marginLanes h.d.fmt h.d.mkind h.d.mconst bound h.d.mtx ws else ws
        let t := s.setEngine h.site h.eng { x with bank := none }
        ((t.deliverOp h { b.opd with words := ws }).afterSend h).endPass h
    else s
  | none => s

/-- The data of a word reaches every engine's request that reads it: they leave the bank's queue. -/
def serveReads (m : Mu) (w : Nat) (x : Line) : Mu :=
  let who := (m.reqs.filter (fun r => r.word == w && r.wdata.isNone)).map (·.who)
  { m with
    reqs := m.reqs.filter (fun r => !(r.word == w && r.wdata.isNone))
    engines := m.engines.zipIdx.map (fun (e : Engine × Nat) => if who.contains (4 + e.2) then
      { e.1 with bank := e.1.bank.map (fun b => { b with words := b.words.map (fun v =>
          if v.1 == w && v.2.isNone then (w, some x) else v) }) }
      else e.1) }

/-- Every request of a stage that reads a word is served with its contents, that of the host debug path too (R193, R542). -/
def State.serveWord (s : State) (p site w : Nat) : State :=
  let m := (s.site site).mu
  let x := m.word w
  let dbg := m.reqs.any (fun r => r.who == 9 && r.word == w)
  let t := s.setMu site (serveReads m w x)
  if dbg then t.setPart p { t.part p with dbg := { (t.part p).dbg with data := x } } else t

/-- Removes the first request that meets a test. -/
def dropReq (t : BankReq → Bool) : List BankReq → List BankReq
  | [] => []
  | r :: l => if t r then l else r :: dropReq t l

-- Assumption log 69 (DEDUCED).
/-- Strict requests that wait while another requester holds the bank: each counts once (R197). -/
def State.strictWaits (s : State) (p site bank who : Nat) : State :=
  let m := (s.site site).mu
  let hit : BankReq → Bool := fun r => r.word % 16 == bank && r.who != who && r.strict && !r.counted
  let n := (m.reqs.filter hit).length
  let t := s.setMu site { m with reqs := m.reqs.map (fun r => if hit r then { r with counted := true } else r) }
  (List.range n).foldl (fun u _ => (u.bump .siteBankConflict [site] 1).plateDefect p site 0) t

-- Assumption log 63 (DEDUCED).
/-- Positions stored: the lowest one not stored moves past those stored above it. -/
def settleLow : Nat → List Nat → Nat → List Nat × Nat
  | 0, l, b => (l, b)
  | n + 1, l, b => if l.contains b then settleLow n (l.filter (fun q => q != b)) (b + 1) else (l, b)

-- Assumption log 63 (DEDUCED).
/-- A position of a WRITE stream has been written (R210, R214). -/
def State.storedAt (s : State) (h : Hatch) (pos : Nat) : State :=
  let x := s.engine h.site h.eng
  let r := settleLow (x.stored.length + 1) (x.stored ++ [pos]) x.low
  let done := r.2 / iterSize h.cs (entryLevel x.entry)
  let t := s.setEngine h.site h.eng { x with
    stored := r.1, low := max x.low r.2, signalled := if entrySync x.entry then max done x.signalled else x.signalled }
  if entrySync x.entry then
    (List.range (done - x.signalled)).foldl (fun u _ => u.semSignal h.part h.site (entrySignal x.entry) 1) t
  else t

/-- A WRITE stream ends once its marker has arrived and every write has been accepted; a persistent one runs its next
pass when every position is stored (R209, R210, R228). -/
def State.endWrite (s : State) (h : Hatch) : State :=
  let x := s.engine h.site h.eng
  if x.bank.isSome ∨ ¬ x.posted.isEmpty then s
  else if x.ended then ((s.takeArm h.part h.site h.eng).engineNext h).muIdle h
  else if h.d.persist && decide (x.low ≥ x.before + passTotal h.cs) then
    match x.arm with
    | some (some b) =>
      let t := s.takeArm h.part h.site h.eng
      t.setEngine h.site h.eng { t.engine h.site h.eng with base := b, before := x.before + passTotal h.cs, armWait := false }
    | some none => ((s.takeArm h.part h.site h.eng).engineNext h).muIdle h
    | none => s.setEngine h.site h.eng { x with armWait := true }
  else s

/-- The last word of a transfer of a queue has been written: the transfer stands in the bank ring (R101, R211). -/
def State.ringStored (s : State) (h : Hatch) (b : BankOp) : State :=
  let x := s.engine h.site h.eng
  let f : Xfer := ⟨b.opd.tag, b.pos == 1, b.opd.eos, b.opd.mark, 0⟩
  s.setEngine h.site h.eng { x with bank := none, ring := x.ring ++ [f] }

/-- A word of a WRITE stream's operand, or of a queue's transfer, is granted its bank: written where the engine owns the bank, else
discarded (R195). -/
def State.bankWrite (s : State) (p site : Nat) (r : BankReq) : State :=
  let x := r.wdata.getD 0
  let m := (s.site site).mu
  let e := r.who - 4
  let may := s.engineMay site e r.word
  let t := s.setMu site { (if may then m.setWord r.word x else m) with
    reqs := dropReq (fun q => q == r) m.reqs }
  let t := if may then t else t.ownerMiss p site
  if (t.site site).mu.reqs.any (fun q => q.who == r.who) then t
  else match t.hatch site e, (t.engine site e).bank with
    | some h, some b =>
      if !b.write then t
      else if h.d.mode = 2 then t.ringStored h b
      else ((t.setEngine site e { t.engine site e with bank := none }).storedAt h b.pos).endWrite h
    | _, _ => t

/-- Writes of a WRITE stream that have been accepted are stored at their positions, a position once all its writes have been (R210,
R228). -/
def State.reapWrites (s : State) (h : Hatch) : State :=
  let x := s.engine h.site h.eng
  match x.posted.filter (fun w => w.kind == 9) with
  | [] => s
  | got =>
    let left := x.posted.filter (fun w => w.kind != 9)
    let t := s.setEngine h.site h.eng { x with posted := left }
    let whole := (got.map (·.pos)).eraseDups.filter (fun k => !left.any (fun w => w.pos == k) && !x.bank.any (fun b => b.pos == k))
    (whole.foldl (fun u k => u.storedAt h k) t).endWrite h

/-- After a grant, every stream whose words have all come sends its operand, and accepted writes are stored. -/
def State.bankSettle (s : State) (site : Nat) : State :=
  (List.range 4).foldl (fun t e => match t.hatch site e with
    | some h => (if h.d.mode = 1 then t.reapWrites h else t.bankDone h)
    | none => t) s

/-- What a requester wants of a bank (R194): its word, and whether it writes. 4 to 7 are the hatch engines, 8 is the atomic unit and
9 the host debug path. -/
def State.bankWants (s : State) (site bank who : Nat) : Option (Nat × Bool) :=
  let m := (s.site site).mu
  if who ≠ 9 ∧ who ≠ 8 ∧ s.worksFor site = none then none
  else if who = 8 then
    match if s.atomFor site = none then [] else m.atomQueue bank with
    | op :: _ => if s.answerBlocked op then none else some (op.addr / 64, true)
    | [] => none
  else (m.reqs.find? (fun r => r.who == who && r.word % 16 == bank)).map (fun r => (r.word, r.wdata.isSome))

-- Assumption log 178 (DEDUCED), 210 (DESIGN CHOICE).
/-- The requesters that want a bank, in round-robin order after the one granted last (R194). The manual leaves open where the order
starts on a bank that has granted none: the model starts with requester 0. -/
def State.bankOrder (s : State) (site bank : Nat) : List Nat :=
  let last := tabGet (fun _ => 9) (s.site site).mu.last bank
  ((List.range 10).map (fun i => (last + 1 + i) % 10)).filter (fun w => (s.bankWants site bank w).isSome)

/-- The requester whose access the bank performs when the grant falls on one, and the word: where the grant falls on a read of a
word that another request of the stage writes, the bank performs the write (R193). -/
def State.bankActor (s : State) (site bank who : Nat) : Nat × Nat :=
  match s.bankWants site bank who with
  | some (w, false) => (((s.bankOrder site bank).find? (fun q => s.bankWants site bank q == some (w, true))).getD who, w)
  | some (w, true) => (who, w)
  | none => (who, 0)

/-- A bank grants a requester: it performs one access, and every request that reads the same word is served with it (R193 to
R197). -/
def State.bankGrant (s : State) (p site bank who : Nat) : State :=
  let a := s.bankActor site bank who
  let t := s.setMu site { (s.site site).mu with last := tabSet (fun _ => 9) (s.site site).mu.last bank who }
  let u :=
    if a.1 = 8 then (t.nextAtom site bank (fun _ => true)).pumpHeld site
    else match (t.site site).mu.reqs.find? (fun r => r.who == a.1 && r.word == a.2 && r.wdata.isSome) with
      | some r => t.bankWrite p site r
      | none => t
  ((u.serveWord p site a.2).bankSettle site).strictWaits p site bank who

/-- BANK_GRANT: a bank grants its next waiting requester in round-robin order and performs the access; every read of the
same word is served with it, and a write of the granted word goes before a read (R193 to R197). -/
def execBankGrant (site bank : Nat) (s : State) : Host.Outcome State Fault Refusal :=
  match s.ownerOf site, (s.bankOrder site (bank % 16)).head? with
  | some p, some who => .next (s.bankGrant p site (bank % 16) who)
  | _, _ => .next s

-- Assumption log 178 (DEDUCED).
/-- An access that finds no other requester at its bank is granted in the stage in which it arrives (R194). -/
def State.grantAlone (s : State) (p site bank who : Nat) : State :=
  if s.bankOrder site bank = [who] ∧ ((s.site site).mu.atomQueue bank).length ≤ 1 then s.bankGrant p site bank who else s

/-- The grant of a bank falls on its atomic unit, whose oldest operation there is of one kind (R194, R220, R222). -/
def State.atomTurn (s : State) (site bank kind : Nat) : State :=
  match s.ownerOf site, ((s.site site).mu.atomQueue bank).head? with
  | some p, some op =>
    if (s.bankOrder site bank).head? = some 8 ∧ op.kind = kind then s.bankGrant p site bank 8 else s
  | _, _ => s

/-- DISPENSER_CLAIM: the atomic unit is granted the bank and applies the claim at the head of its queue (R153, R194, R222). -/
def execDispenserClaim (site bank : Nat) (s : State) : Host.Outcome State Fault Refusal :=
  .next (s.atomTurn site (bank % 16) 8)

/-- DISPENSER_ARM: the atomic unit is granted the bank and applies the arm at the head of its queue (R153, R194, R222). -/
def execDispenserArm (site bank : Nat) (s : State) : Host.Outcome State Fault Refusal :=
  .next (s.atomTurn site (bank % 16) 9)

/-- DISPENSER_RETIRE: the atomic unit is granted the bank and applies the retire at the head of its queue (R154, R194, R222). -/
def execDispenserRetire (site bank : Nat) (s : State) : Host.Outcome State Fault Refusal :=
  .next (s.atomTurn site (bank % 16) 10)

/-! ### READ streams (R205, R206, R214, R585) -/

-- Assumption log 63 (DEDUCED).
/-- The waits of SYNC_LVL that a position needs are complete; the engine queues its next wait where they are not
(R214). -/
def State.syncWait (s : State) (h : Hatch) (k : Nat) : State × Bool :=
  let x := s.engine h.site h.eng
  if !entrySync x.entry || h.shape == some 0 then (s, true)
  else
    let need := k / iterSize h.cs (entryLevel x.entry) + 1
    if need ≤ x.waited then (s, true)
    else if x.waiting then (s, false)
    else
      let r := s.semWait h.site (entryWait x.entry) (4 + h.eng) 1
      let y := r.1.engine h.site h.eng
      if r.2 then (r.1.setEngine h.site h.eng { y with waited := y.waited + 1 }, decide (need ≤ y.waited + 1))
      else (r.1.setEngine h.site h.eng { y with waiting := true }, false)

/-- Bytes of the read buffer that an engine's requests hold or will hold (R585). -/
def bufferUse (x : Engine) : Nat := x.reads.foldl (fun a r => a + r.len) 0

/-- Requests outstanding. -/
def outstanding (x : Engine) : Nat := (x.reads.filter (fun r => r.data.isNone)).length

/-- An engine may issue a request whose response takes some bytes of the read buffer (R585). -/
def mayRequest (x : Engine) (bytes : Nat) : Bool := decide (outstanding x ≤ 31) && decide (bufferUse x + bytes ≤ 32768)

/-- Queues a read of the next operands, or finished words, and counts the positions. -/
def State.queueRead (s : State) (h : Hatch) (r : ReadReq) : State :=
  let x := s.engine h.site h.eng
  s.setEngine h.site h.eng { x with pos := x.pos + r.ops.length, reads := x.reads ++ [r] }

/-- A finished operand in the read buffer: margin or mask words. -/
def readyOp (k n mark : Nat) (ws : Words) : ReadReq := ⟨0, 0, none, [(k, n, mark)], some (leBytes (64 * n) (wordsNat ws))⟩

/-- The margin that a stream sends at a position whose operand carries some mark. -/
def marginOp (h : Hatch) (k mark : Nat) : ReadReq :=
  let ws := if mark ≥ 16 then marginWords (mark % 16) h.d.mkind h.d.mconst false
    else marginWords h.d.fmt h.d.mkind h.d.mconst h.d.mtx
  readyOp k ws.length mark ws

-- Assumption log 56 (DEDUCED).
/-- The operands that one request covers, from a position on: with MERGE = 1 every further operand of the pass whose words follow
those of the one before, within one 4 KiB-aligned block, at positions that need memory, of iterations already waited for and with
room in the buffer (R208, R214, R585). -/
def mergeRun (h : Hatch) (x : Engine) (first : Nat) : Nat → Nat → Nat
  | 0, n => n
  | fuel + 1, n =>
    let pos := x.pos + n
    let ix := nestIx h.cs pos
    let a := nestAddr h.d x.base ix
    if h.d.merge && decide (pos < passTotal h.cs) && !wholeMargin h.d h.shape ix && a == first + n * h.d.len &&
        decide ((a + h.d.len - 1) / 64 = first / 64) && mayRequest x (64 * h.d.len * (n + 1)) &&
        (!entrySync x.entry || decide ((x.before + pos) / iterSize h.cs (entryLevel x.entry) < x.waited)) then
      mergeRun h x first fuel (n + 1)
    else n

/-- The operands of a request: positions, words and marks. -/
def runOps (h : Hatch) (k n : Nat) : List (Nat × Nat × Nat) := (List.range n).map (fun i => (k + i, h.d.len, 0))

/-- The read of a REMOTE stream leaves as RD_REQ to the module of its window: of the bank aperture where BASE names it, else of a
partition address (R203, R215, R465). -/
def State.remoteRead (s : State) (h : Hatch) (k addr n : Nat) : State :=
  let win := tabGet (fun _ => 0) (s.site h.site).front.rwin h.d.window
  let dst := win % 4096
  let txn := s.txn
  let len := 64 * (n * h.d.len)
  let bytes := if bitOf (s.engine h.site h.eng).base 37 then
    2 ^ 63 + addr / 2 ^ 14 % 2 ^ 13 * 2 ^ 20 + addr % 2 ^ 14 * 64 else addr * 64
  let t := s.fresh.sendStep h.part 0x10 dst false txn (leBytes 8 bytes ++ leBytes 2 len)
  let q := t.part h.part
  let t := t.setPart h.part { q with reqs := q.reqs ++ [⟨dst, txn, 0x10, h.site, h.eng, bytes⟩] }
  t.queueRead h ⟨addr * 64, len, some txn, runOps h k n, none⟩

/-- The next operand of a BANK stream: read from its banks once the destination has room, or a margin (R206, R585). -/
def State.bankRead (s : State) (h : Hatch) (k addr : Nat) (margin : Bool) : State :=
  let x := s.engine h.site h.eng
  if x.bank.isSome || !s.roomAt h h.d.len then s
  else if margin then
    let o : Operand := ⟨streamTag h.d k, false, 0, marginWords h.d.fmt h.d.mkind h.d.mconst h.d.mtx⟩
    let u := s.setEngine h.site h.eng { x with pos := x.pos + 1 }
    ((u.deliverOp h o).afterSend h).endPass h
  else
    let ws := (List.range h.d.len).map (fun i => (addr + i, (none : Option Line)))
    let u := s.setEngine h.site h.eng { x with pos := x.pos + 1, bank := some ⟨false, k, ⟨streamTag h.d k, false, 0, []⟩, ws⟩ }
    u.setMu h.site { (u.site h.site).mu with reqs := (u.site h.site).mu.reqs ++ bankReqs h ws }

/-- Lane bounds applied to the words of an operand that came from memory or from the mask view (R206). -/
def boundWords (h : Hatch) (mark : Nat) (ws : Words) : Words :=
  let bound := laneBound h.d h.shape
  if bound < 64 then
    marginLanes (if mark ≥ 16 then mark % 16 else h.d.fmt) h.d.mkind h.d.mconst bound (mark < 16 && h.d.mtx) ws
  else ws

/-- The next operand of a KVPAGE stream: margin, a mask operand, or a request for its page words once the append unit has written
them (R206, R303 to R305, R585). -/
def State.kvRead (s : State) (h : Hatch) (k addr : Nat) (margin : Bool) : State :=
  let x := s.engine h.site h.eng
  match s.kvPlace h.part addr with
  | .margin mark => ((s.queueRead h (marginOp h k mark)).sendReady h).endPass h
  | .mask ws =>
    let r := if margin then marginOp h k 16 else readyOp k 4 16 (boundWords h 16 ws)
    ((s.queueRead h r).sendReady h).endPass h
  | .wait fmt => if margin then ((s.queueRead h (marginOp h k (kvMark fmt))).sendReady h).endPass h else s
  | .page fmt _ _ _ _ =>
    if margin then ((s.queueRead h (marginOp h k (kvMark fmt))).sendReady h).endPass h
    else
      let len := 64 * (pageWords fmt + bit01 (decide (3 ≤ fmt)))
      if mayRequest x len then s.queueRead h ⟨addr, len, none, [(k, len / 64, kvMark fmt)], none⟩ else s

-- Assumption log 56 (DEDUCED).
/-- HATCH_READ_OPERAND: an engine issues the read of its next operand, or of several that one request covers, once the destination
or the read buffer has room, or writes a margin without reading (R204 to R209, R304, R585). -/
def execHatchReadOperand (site e : Nat) (s : State) : Host.Outcome State Fault Refusal :=
  match s.hatch site e with
  | none => .next s
  | some h =>
    if h.d.mode ≠ 0 then .next s
    else
      let s := s.sendReady h
      let x := s.engine site e
      if x.pos ≥ passTotal h.cs then .next (s.endPass h)
      else
        let k := x.before + x.pos
        match s.syncWait h k with
        | (t, false) => .next t
        | (t, true) =>
          let x := t.engine site e
          let ix := nestIx h.cs x.pos
          let addr := nestAddr h.d x.base ix
          let margin := wholeMargin h.d h.shape ix
          if h.d.space = 0 then .next (t.bankRead h k addr margin)
          else if h.d.space = 3 then .next (t.kvRead h k addr margin)
          else if margin then .next (((t.queueRead h (marginOp h k 0)).sendReady h).endPass h)
          else if !mayRequest x (64 * h.d.len) then .next t
          else
            let n := max 1 (mergeRun h x addr 64 0)
            if h.d.space = 2 then .next (t.remoteRead h k addr n)
            else .next (t.queueRead h ⟨addr * 64, 64 * (n * h.d.len), none, runOps h k n, none⟩)

/-- The words of a request's operands, each with its bounds applied. -/
def boundAll (h : Hatch) : List (Nat × Nat × Nat) → Words → Words
  | [], _ => []
  | (_, n, mark) :: t, ws => boundWords h mark (ws.take n) ++ boundAll h t (ws.drop n)

-- Assumption log 56 (DEDUCED).
/-- Fills the first outstanding request that meets a test with the words of its operands, whose number a KVPAGE response gives. -/
def fillRead (h : Hatch) (t : ReadReq → Bool) (n mark : Nat) (ws : Words) : List ReadReq → List ReadReq
  | [] => []
  | r :: l => if t r && r.data.isNone then
      let ops := if h.d.space = 3 then r.ops.map (fun o => (o.1, n, mark)) else r.ops
      { r with ops := ops, len := 64 * ws.length, data := some (leBytes (64 * ws.length) (wordsNat (boundAll h ops ws))) } :: l
    else r :: fillRead h t n mark ws l

/-- The words of a finished read enter the buffer and leave in visiting order. -/
def State.readBack (s : State) (h : Hatch) (t : ReadReq → Bool) (n mark : Nat) (ws : Words) : State :=
  let x := s.engine h.site h.eng
  ((s.setEngine h.site h.eng { x with reads := fillRead h t n mark ws x.reads }).sendReady h).endPass h

/-- An uncorrectable read of a step (R372): it delivers nothing and the step aborts. -/
def State.ueAbort (s : State) (p a : Nat) : State := s.abortRun p Status.hbmUncorrectable (BitVec.ofNat 64 a)

/-- An access of a memory unit waits for a page-tile to be brought in: the oldest unanswered read or a posted write of one of its
engines (R429, R430). -/
def State.waitsIn (s : State) (p site : Nat) : Bool :=
  (List.range 4).any (fun e => match s.hatch site e with
    | none => false
    | some h =>
      let x := s.engine site e
      (h.d.space != 3 && match x.reads.find? (fun r => r.data.isNone && r.txn.isNone) with
        | some r => (s.absent p (r.len / 64) r.addr).isSome
        | none => false) ||
      (match x.posted.find? (fun w => w.kind == 0) with
        | some w => (s.absent p w.data.length w.addr).isSome
        | none => false))

/-- The partition address of a byte of a queue's HBM extension, in the pages assigned to its descriptor (R211, R246). -/
def State.extAddr (s : State) (h : Hatch) (off : Nat) : Option Nat :=
  match (s.part h.part).extended with
  | some t => ((tabGet (fun _ => []) t (128 * h.site + (s.engine h.site h.eng).desc))[off / 65536]?).map
      (fun pg => s.poolAddr h.part pg + off % 65536)
  | none => none

/-- Transfers that the HBM extension of a queue holds at most (R211). -/
def Desc.extension (d : Desc) : Nat :=
  if d.spill then (bitsOf d 119 110 + 1) * 262144 / 72 else 0

/-- The 8-byte sideband entry of a transfer (R211). -/
def sideOf (f : Xfer) : Nat := f.tag % 2 ^ 20 + bit01 f.last * 2 ^ 20 + bit01 f.eos * 2 ^ 21 + f.mark % 32 * 2 ^ 22

/-- The transfer that a line of data and a sideband entry spell. -/
def sideXfer (data : Line) (n : Nat) : Xfer := ⟨n % 2 ^ 20, bitOf n 20, bitOf n 21, bitsOf n 26 22, data⟩

/-- The oldest transfer of a queue's HBM extension, whose data has come, leaves where its slot has a credit (R104). -/
def State.extSend (s : State) (h : Hatch) : State :=
  let x := s.engine h.site h.eng
  let slot := h.d.port - 4
  match x.reads, x.ext with
  | r :: _, _ :: t => match r.data with
    | some bs =>
      if (s.site h.site).su.credit (slotKey 5 slot) = 0 then s
      else
        (((s.setEngine h.site h.eng { x with ext := t, reads := [] }).enterSu h.site slot
          [sideXfer (BitVec.ofNat 512 (leNat (bs.take 64))) (leNat (bs.drop 64))]).progress h.part h.site).endQueue h
    | none => s
  | _, _ => s

/-- The data of a queue's spill read arrives: the transfer's line and its sideband entry (R102, R200, R372). -/
def State.spillBack (s : State) (h : Hatch) : State :=
  let x := s.engine h.site h.eng
  let n := h.d.extension
  match x.reads with
  | r :: _ =>
    if r.data.isSome then s.extSend h
    else
      let i := (x.extPos - x.ext.length) % max n 1
      match s.extAddr h (64 * i), s.extAddr h (64 * n + i / 8 * 64) with
      | some a, some b =>
        if !s.reachable h.part h.site 1 a || !s.reachable h.part h.site 1 b then s
        else
          let u := s.readPart h.part h.site 0 1 a
          let v := u.1.readPart h.part h.site 0 1 b
          match u.2.ue.or v.2.ue with
          | some c => v.1.ueAbort h.part c
          | none => (v.1.setEngine h.site h.eng { v.1.engine h.site h.eng with
              reads := [{ r with data := some (u.2.data ++ (v.2.data.drop (8 * (i % 8))).take 8) }] }).extSend h
      | _, _ => s
  | [] => s

/-- The response to an engine's read of a KV page's operand: its data words and its scales (R304, R305, R372). -/
def State.kvBack (s : State) (h : Hatch) (first : ReadReq → Bool) (addr : Nat) : State :=
  match s.kvPlace h.part addr with
  | .page fmt data scales byte scale =>
    let m := pageWords fmt
    if !s.reachable h.part h.site m data || !s.reachable h.part h.site 1 scales then s
    else
      let a := s.readPart h.part h.site 0 m data
      let b := if fmt ≥ 5 then a.1.readPart h.part h.site 0 1 scales else (a.1, ⟨[], none, none, false⟩)
      match a.2.ue.or b.2.ue with
      | some c => b.1.ueAbort h.part c
      | none =>
        let ws := pageOperand fmt scale byte a.2.data b.2.data
        b.1.readBack h first ws.length (kvMark fmt) ws
  | _ => s

/-- HBM_READ_RESPONSE: the data of an engine's oldest outstanding read of HBM, tile cache, KV page or queue extension arrives, is
read as memory holds it at that instant, and is sent on in visiting order (R304, R305, R372, R475, R585). A page-tile that is out
in host memory, a memory link that is down and a collective word that has not arrived keep it waiting (R30, R429). -/
def execHbmReadResponse (site e : Nat) (s : State) : Host.Outcome State Fault Refusal :=
  match s.hatch site e with
  | none => .next s
  | some h =>
    let first : ReadReq → Bool := fun r => r.data.isNone && r.txn.isNone
    if h.d.mode = 2 then .next (s.spillBack h)
    else if h.d.mode = 1 then .next s
    else match (s.engine site e).reads.find? first with
    | none => .next ((s.sendReady h).endPass h)
    | some r =>
      if h.d.space = 3 then .next (s.kvBack h first r.addr)
      else
        let n := r.len / 64
        match s.place h.part r.addr with
        | .coll off => (match (List.range n).mapM (fun i => s.collRead h.part (off + 64 * i)) with
          | some ws => .next (s.readBack h first n 0 ws)
          | none => .next s)
        | _ =>
          if !s.reachable h.part site n r.addr then .next s
          else
            let a := s.readPart h.part site 0 n r.addr
            match a.2.ue with
            | some c => .next (a.1.ueAbort h.part c)
            | none => .next (a.1.readBack h first n 0 (bytesWords n a.2.data))

/-! ### Re-arming (R209, R223) -/

-- Assumption log 59 (DEDUCED), 60 (DEDUCED).
/-- A re-arm word or a closing marker reaches an engine's one-word buffer. -/
def State.rearm (s : State) (h : Hatch) (a : Option Nat) : State :=
  let x := s.engine h.site h.eng
  let t := s.setEngine h.site h.eng { x with arm := some a, closing := x.closing || a.isNone }
  if h.d.mode = 0 then t.endPass h else t.endWrite h

/-- REARM_WORD: a re-arm word or marker on ARM_SLOT starts a new pass of a persistent descriptor or closes it; while the
one-word buffer is full it holds the slot (R209). -/
def execRearmWord (site e : Nat) (s : State) : Host.Outcome State Fault Refusal :=
  match s.hatch site e with
  | none => .next s
  | some h =>
    let x := s.engine site e
    let slot := entryArmSlot x.entry
    match headOperand ((s.site site).su.outFifo slot) with
    | some (o, rest) =>
      if h.d.persist && entryArm x.entry && x.arm.isNone then
        let t := (s.setSu site ((s.site site).su.take slot rest)).progressBy h.part site (xfersOf o).length
        .next (t.rearm h (if o.eos then none else some ((o.words.getD 0 0).toNat % 2 ^ 38)))
      else .next s
    | none => .next s

-- Assumption log 60 (DEDUCED).
/-- MU_ARM_WRITE: a host write of SITE.MU_ARM_e re-arms a persistent descriptor with a new base (R209, R223). While the buffer is
full the word waits, behind a word that stands on the slot already, and the two are taken in arrival order. A write that misses
the site has no other effect than its record (R27). -/
def execMuArmWrite (site e : Nat) (w : Word) (s : State) : Host.Outcome State Fault Refusal :=
  match s.missed (Rg.siteMuArm.at [site, e]) with
  | some d => .next (s.noteMiss (Rg.siteMuArm.at [site, e]) d)
  | none => match s.hatch site e with
    | none => .next s
    | some h =>
      let x := s.engine site e
      let b := w.toNat % 2 ^ 38
      if !h.d.persist || !entryArm x.entry then .next s
      else if x.arm.isNone then .next (s.rearm h (some b))
      else
        let stood := (headOperand ((s.site site).su.outFifo (entryArmSlot x.entry))).isSome && !x.armQ.contains none
        .next (s.setEngine site e { x with armQ := x.armQ ++ (if stood then [none] else []) ++ [some b] })

/-! ### QUEUE mode (R101 to R104, R211) -/

/-- A check of R254 that is no defect outside proof mode. -/
def State.proofOnly (s : State) (p site cause : Nat) : State :=
  match (s.part p).firing with
  | some x => if x.proof then s.plateDefect p site cause else s
  | none => s

-- Assumption log 57 (DEDUCED).
/-- The oldest transfer of a queue's extensions sets out where its slot has a credit: its word of the bank ring is read, or its
entry in the HBM extension, once HBM has accepted its writes (R102, R104). -/
def State.queueSend (s : State) (h : Hatch) : State :=
  let x := s.engine h.site h.eng
  let slot := h.d.port - 4
  if (s.site h.site).su.credit (slotKey 5 slot) = 0 ∨ x.bank.isSome then s
  else match x.ring, x.ext with
    | f :: _, _ =>
      let ws := [(h.d.base + (x.pos - x.ring.length) % h.d.counts.getD 0 1, (none : Option Line))]
      let u := s.setEngine h.site h.eng { x with bank := some ⟨false, 0, ⟨f.tag, f.eos, f.mark, []⟩, ws⟩ }
      (u.setMu h.site { (u.site h.site).mu with reqs := (u.site h.site).mu.reqs ++ bankReqs h ws }).grantAlone h.part h.site
        ((h.d.base + (x.pos - x.ring.length) % h.d.counts.getD 0 1) % 16) (4 + h.eng)
    | [], _ :: _ =>
      if !x.reads.isEmpty then s.extSend h
      else
        let i := x.extPos - x.ext.length
        if x.posted.any (fun w => w.pos == i) then s
        else s.setEngine h.site h.eng { x with reads := [⟨i, 72, none, [(i, 1, 0)], none⟩] }
    | [], [] => s

/-- The line of sideband entries that holds the one of the newest transfer of a queue's extension, as the engine's sidebands give
it. -/
def sideLine (x : Engine) (n i : Nat) : Line :=
  let lo := x.extPos + 1 - x.ext.length
  BitVec.ofNat 512 (leNat ((List.range 8).flatMap (fun k =>
    let j := i % n / 8 * 8 + k
    let t := if j ≤ i % n then i - (i % n - j) else i + (j - i % n) - n
    leBytes 8 (if j < n ∧ lo ≤ t ∧ t ≤ i then ((x.ext[t - lo]?).map sideOf).getD 0 else 0))))

-- Assumption log 57 (DEDUCED).
/-- A transfer is written to a queue's HBM extension: its data line and its sideband entry are posted (R102, R211). -/
def State.spillWrite (s : State) (h : Hatch) (f : Xfer) : State :=
  let x := s.engine h.site h.eng
  let n := h.d.extension
  let i := x.extPos
  let y := { x with ext := x.ext ++ [{ f with data := 0 }] }
  match s.extAddr h (64 * (i % max n 1)), s.extAddr h (64 * n + i % max n 1 / 8 * 64) with
  | some a, some b =>
    ((s.setEngine h.site h.eng { y with
      extPos := i + 1
      posted := x.posted ++ [⟨0, a, [f.data], 0, i⟩, ⟨0, b, [sideLine y n i], 0, i⟩] }).bump .siteSpills [h.site] 1).proofOnly
        h.part h.site 3
  | _, _ => s

-- Assumption log 57 (DEDUCED).
/-- The transfer at the head of a queue's slot passes straight on, or is diverted into the bank ring, or is spilled to the HBM
extension, in acceptance order; with no room left the queue holds its handshake (R101 to R104, R211). -/
def State.queueTake (s : State) (h : Hatch) : State :=
  let slot := h.d.port - 4
  let x := s.engine h.site h.eng
  match (s.site h.site).su.outFifo slot with
  | [] => s
  | f :: rest =>
    let took := (s.setSu h.site ((s.site h.site).su.take slot rest)).progress h.part h.site
    let x1 := { took.engine h.site h.eng with ended := x.ended || f.eos }
    if x.ended then s
    else if x.ring.isEmpty && x.ext.isEmpty && x.bank.isNone && decide (0 < (s.site h.site).su.credit (slotKey 5 slot)) then
      ((((took.setEngine h.site h.eng x1).enterSu h.site slot [f]).progress h.part h.site).endQueue h)
    else if x.ext.isEmpty && decide (x.ring.length < h.d.counts.getD 0 1) then
      if x.bank.isSome then s
      else
        let w := h.d.base + x.pos % h.d.counts.getD 0 1
        let ws := [(w, some f.data)]
        let u := took.setEngine h.site h.eng { x1 with
          bank := some ⟨true, bit01 f.last, ⟨f.tag, f.eos, f.mark, []⟩, ws⟩, pos := x.pos + 1 }
        let u := u.setMu h.site { (u.site h.site).mu with reqs := (u.site h.site).mu.reqs ++ bankReqs h ws }
        (u.bump .siteQgrow [h.site] 1).grantAlone h.part h.site (w % 16) (4 + h.eng)
    else if x.ext.length < h.d.extension && (s.extAddr h 0).isSome then (took.setEngine h.site h.eng x1).spillWrite h f
    else s

/-- QUEUE_TRANSFER: the oldest held transfer of a queue sets out where it can; then the transfer at the head of its slot is taken
(R101 to R104, R211). Each step follows the descriptor that the engine then runs. -/
def execQueueTransfer (site e : Nat) (s : State) : Host.Outcome State Fault Refusal :=
  match s.hatch site e with
  | none => .next s
  | some h =>
    if h.d.mode ≠ 2 then .next s
    else
      let s := s.queueSend h
      match s.hatch site e with
      | none => .next s
      | some h => if h.d.mode = 2 then .next (s.queueTake h) else .next s

/-! ### Credits (R90) -/

/-- Operands of the expert dispatcher that wait at a site enter its switch unit where there are credits (R333). -/
def State.dispPump (s : State) (p : Nat) : State :=
  let r := (s.part p).disp.owed.foldl (fun (a : State × List (Nat × Nat × Operand)) o =>
    let xs := xfersOf o.2.2
    let held := a.2.any (fun q => q.1 == o.1 && q.2.1 == o.2.1)
    if !held && decide (xs.length ≤ (a.1.site o.1).su.credit (slotKey 5 o.2.1)) then
      ((a.1.enterSu o.1 o.2.1 xs).progressBy p o.1 xs.length, a.2)
    else (a.1, a.2 ++ [o])) (s, [])
  let t := r.1.setPart p { r.1.part p with disp := { (r.1.part p).disp with owed := r.2 } }
  (((s.part p).disp.owed.map (·.1)).eraseDups).foldl (fun u i => u.muRest p i) t

/-- CREDIT_RETURN: the receiver of an input slot returns a credit for a transfer that has left its FIFO (R90). Port 4
is the site's own unit as sender, port 5 the unit's receiver FIFOs. -/
def execCreditReturn (site port slot : Nat) (s : State) : Host.Outcome State Fault Refusal :=
  let k := slotKey port (slot % 8)
  let u := (s.site site).su
  let n := tabGet (fun _ => 0) u.owed k
  if n = 0 ∨ 5 < port then .next s
  else
    let t := s.setSu site { u with owed := tabSet (fun _ => 0) u.owed k (n - 1) }
    let give : Nat → Nat → State := fun i j => t.setSu i ((t.site i).su.setCredit j ((t.site i).su.credit j + 1))
    if port < 4 then
      match neighbour site port with
      | some m => .next (give m (slotKey (opposite port) (slot % 8)))
      | none => .next t
    else if port = 4 then
      let v := give site (slotKey 5 (slot % 8))
      let v := (List.range 4).foldl (fun w e => match w.hatch site e with
        | some h => if h.d.mode = 0 then (w.sendReady h).endPass h else if h.d.mode = 2 then w.queueSend h else w
        | none => w) v
      .next (match v.worksFor site with
        | some p => v.dispPump p
        | none => v)
    else .next (give site (slotKey 4 (slot % 8)))

end Sys2Proof.Machine
end

