-- ==== Sys2Proof/Machine/Illegal.lean ====
section
/-! DEFINITION. What a plate load refuses in strokes, trigger entries, engine entries and descriptors: the numbered checks
of R163 and R212. -/

namespace Sys2Proof.Machine

open Sys2Proof

/-! ### Strokes (R116 to R163) -/

/-- HOME of an opcode (R132); none where the opcode is not in the map. -/
def homeOf (op : Nat) : Option Nat :=
  match op with
  | 0x00 => some 0 | 0x01 => some 1 | 0x10 => some 2 | 0x20 => some 3 | 0x30 => some 4 | 0x40 => some 5 | 0x50 => some 6
  | 0x60 => some 6 | 0x61 => some 6 | 0x70 => some 6 | 0x80 => some 6 | 0x90 => some 0 | 0xA0 => some 6 | 0xA1 => some 6
  | 0xB0 => some 5 | 0xC0 => some 6 | 0xD0 => some 4 | _ => none

/-- Bits [12:0] of a source descriptor that must be zero (R118). -/
def srcReserved (k : Nat) : Nat :=
  match k with
  | 0 => 0x1FFF | 1 => 0x3FF | 2 => 0x1C00 | 4 => 0xFC0 | 5 => 0x1FFF | _ => 0

/-- Bits [12:0] of a destination descriptor that must be zero (R119). -/
def dstReserved (k : Nat) : Nat :=
  match k with
  | 0 => 0x1FFF | 1 => 0x1FF0 | 2 => 0x1C00 | 3 => 0x1000 | 4 => 0xFC0 | 5 => 0xFFF | _ => 0

/-- A field [hi:lo] of LOW is zero. -/
def Stroke.zero (w : Stroke) (hi lo : Nat) : Bool := w.low hi lo == 0

/-- A sub-operation value within the family's range (R141 to R159). -/
def Stroke.subLegal (w : Stroke) : Bool :=
  match w.opcode with
  | 0x20 => decide (w.low 39 36 ≤ 3)
  | 0x30 => decide (w.low 39 35 ≤ 14)
  | 0x40 => decide (w.low 39 37 ≤ 3)
  | 0x50 => decide (w.low 39 38 ≤ 2)
  | 0x70 => decide (w.low 39 38 ≤ 2)
  | 0x90 => decide (w.low 39 38 ≤ 1)
  | 0xA0 => decide (w.low 39 38 ≤ 1)
  | 0xB0 => decide (w.low 39 38 ≤ 1)
  | 0xD0 => decide (w.low 39 37 ≤ 3)
  | _ => true

/-- The bits of LOW that the stroke's family, sub-operation, mode and formats require to be zero are zero (R134 to
R159). -/
def Stroke.lowZero (w : Stroke) : Bool :=
  match w.opcode with
  | 0x01 => w.zero 39 0
  | 0x10 => w.zero 6 0 && (isInt w.fmtA || w.zero 15 8) && (w.class_ == 16 || w.zero 7 7)
  | 0x20 => w.zero 35 0
  | 0x30 => (w.sub == 6 || w.zero 33 32) && (descKind w.srcB == 5 || w.sub == 7 || w.zero 31 0)
  | 0x40 => w.zero 28 0 && (bitOf w 36 || w.zero 35 30)
  | 0x50 => w.zero 35 24 && (isInt w.fmtD || w.zero 23 16) && (bitOf w 36 || w.zero 15 0)
  | 0x60 => w.zero 39 16
  | 0x61 => w.zero 35 0
  | 0x70 => w.zero 37 16 && (w.sub == 1 || w.zero 15 0)
  | 0x80 => w.zero 37 0
  | 0x90 => w.zero 23 0
  | 0xA0 => w.zero 15 0 && (!bitOf w 37 || w.zero 36 35)
  | 0xA1 => w.zero 15 0 && (!bitOf w 37 || w.zero 36 35) && w.zero 39 38 && w.zero 34 32
  | 0xB0 => w.zero 30 16 && (w.low 39 38 == 0 || (w.zero 37 31 && w.zero 15 0))
  | 0xC0 => w.zero 15 0
  | 0xD0 => w.zero 30 0 && (w.sub == 3 || w.zero 36 31)
  | _ => true

/-- The descriptor kinds of a family (R133). -/
def kindsOf (op : Nat) : List Nat × List Nat × List Nat :=
  match op with
  | 0x01 => ([1, 2, 4], [0], [1, 2, 3, 4])
  | 0x10 => ([1, 2], [1, 3], [5])
  | 0x20 => ([0, 1, 2, 4], [0], [1, 2, 4, 5])
  | 0x30 => ([1, 2, 4], [0, 1, 2, 4, 5], [1, 2, 4])
  | 0x40 => ([1, 2, 4], [0, 1], [1, 2])
  | 0x50 => ([1, 2, 4], [0], [1, 2])
  | 0x60 => ([1], [1], [0])
  | 0x61 => ([1], [0], [1])
  | 0x70 => ([1, 2], [0, 1], [1])
  | 0x80 => ([0, 1, 2, 4], [0], [1])
  | 0xA0 => ([0, 1], [0], [0, 1])
  | 0xA1 => ([0], [0], [0, 1])
  | 0xB0 => ([1, 2], [0, 1], [1, 2])
  | 0xC0 => ([1, 2, 4], [0], [1])
  | 0xD0 => ([1, 2, 4], [0, 1, 2], [1, 2, 4])
  | _ => ([0], [0], [0])

-- Assumption log 174 (DESIGN CHOICE), 190 (DESIGN CHOICE).
/-- The refinements of a sub-operation (R141, R143, R144, R148, R149, R152, R154, R157, R159). WITH_B with SRC_B NONE and TAG
MODE ACTION with SRC_B PORT are accepted. -/
def Stroke.kindsFit (w : Stroke) : Bool :=
  let a := descKind w.srcA
  let b := descKind w.srcB
  let d := descKind w.dst
  match w.opcode with
  | 0x20 => if w.sub = 0 then a == 0 && (d == 4 || d == 5) else if w.sub = 1 then a == 4 && (d == 1 || d == 2)
            else (a == 1 || a == 2) && d == 4
  | 0x30 => (decide (w.sub < 8) == (b != 0)) && (w.sub != 3 || d == 2 || d == 4)
  | 0x40 => !bitOf w 36 || a == 4
  | 0x70 => w.sub == 0 || (b == (if w.sub = 2 then 1 else 0))
  | 0x80 => (a == 0) == bitOf w 38
  | 0xA0 => a == w.low 39 38 && d == w.low 37 37
  | 0xA1 => d == w.low 37 37
  | 0xB0 => w.sub == 0 || (b == 1 && d == 1)
  | 0xD0 => (w.sub != 1 && w.sub != 3) || b != 0
  | _ => true

/-- A format widens exactly into another, or is the same (R125). -/
def widensTo (a d : Nat) : Bool :=
  a == d || (if isMx a then d == 0 else match a with
    | 1 => d == 0
    | 2 => d == 0
    | 3 => decide (d ≤ 2)
    | 4 => decide (d ≤ 2)
    | 0xB => decide (d ≤ 2)
    | 0xC => decide (d ≤ 4) || d == 0xB
    | 0xD => decide (d ≤ 4)
    | _ => false)

-- Assumption log 37 (DEDUCED).
/-- The format fields fit the family and sub-operation (R122, R123, R125). -/
def Stroke.formatsFit (w : Stroke) : Bool :=
  let a := descKind w.srcA
  let b := descKind w.srcB
  let d := descKind w.dst
  let op := w.opcode
  let none_ := (a != 0 || w.fmtA == 0) && (b != 0 || w.fmtB == 0) && (d != 0 || w.fmtD == 0)
  let fixed := ((a != 4 && a != 5) || w.fmtA == 0) && ((b != 4 && b != 5) || w.fmtB == 0)
  let page := w.fmtA != 15 && w.fmtB != 15 && ((w.fmtD == 15) == (op == 0xC0))
  none_ && fixed && page && (match op with
    | 0x01 => widensTo w.fmtA w.fmtD
    | 0x10 => w.fmtA != 0 && w.fmtA != 14 && w.fmtB != 0 && w.fmtB != 14 && w.fmtD == 0
    | 0x50 => w.fmtA != 14 && w.fmtD != 14
    | 0x61 => widensTo w.fmtA w.fmtD
    | 0x70 => widensTo w.fmtA w.fmtD
    | 0x80 => widensTo w.fmtA w.fmtD
    | 0xA0 => w.fmtA == (if w.low 39 38 = 1 then 14 else 0) && w.fmtB == 0 && w.fmtD == 0
    | 0xA1 => w.fmtA == 0 && w.fmtB == 0 && w.fmtD == 0
    | 0xB0 => if w.sub = 0 then w.fmtA != 14 && w.fmtB == (if b = 1 then 14 else 0) && w.fmtD == 14
              else w.fmtB == 14 && w.fmtD == w.fmtA
    | 0xC0 => w.fmtA != 14
    | 0x60 => widensTo w.fmtA w.fmtD
    | 0x90 => true
    | _ => w.fmtD == 0 && w.fmtA != 14 && w.fmtB != 14)

/-- Weight tile alignment, AUX_EN and the stipple record of MATRIX (R136 to R139). -/
def Stroke.tilesFit (w : Stroke) : Bool :=
  if w.opcode ≠ 0x10 then true
  else
    let wbuf := descKind w.srcB == 3
    let step := if fmtBits w.fmtB = 16 then 4 else if fmtBits w.fmtB = 4 then 1 else 2
    let aux := isInt w.fmtB || (isMx w.fmtB && wbuf)
    (!wbuf || (w.srcB / 64 % 128 % step == 0 && (w.class_ != 4 || w.srcB % 64 % 2 == 0))) &&
      (bitOf w 28 == aux) && (!bitOf w 39 || decide (w.low 38 29 + 4 ≤ 1024))

/-- Transfers that a destination buffer takes (R120). -/
def Stroke.writes (w : Stroke) : Nat :=
  if w.kind = 64 * 0xD0 ∨ w.kind = 64 * 0xD0 + 2 then 1
  else if w.kind = 64 * 0xB0 then 2
  else opXfers w.fmtD

/-- Accesses stay within the buffers, the bank and the MU (R120, R138, R144, R221). -/
def Stroke.fits (w : Stroke) : Bool :=
  let aLen := if w.opcode = 0x10 then 1 + bit01 (isMx w.fmtA) else opXfers w.fmtA
  let aux := w.low 27 16 + (if isMx w.fmtB then w.srcB % 64 / 32 else 0)
  (descKind w.srcA != 2 || decide (w.srcA % 1024 + aLen ≤ 1024)) &&
    (descKind w.srcB != 2 || decide (w.srcB % 1024 + opXfers w.fmtB ≤ 1024)) &&
    (descKind w.dst != 2 || decide (w.dst % 1024 + w.writes ≤ 1024)) &&
    (descKind w.dst != 3 || decide (w.dst % 4096 + w.writes ≤ 4096)) &&
    (w.opcode != 0x10 || !bitOf w 28 || decide (aux < 4096)) &&
    (w.opcode != 0x40 || !bitOf w 36 || decide (w.srcA % 64 + w.low 35 30 < 64)) &&
    ((w.opcode != 0xA0 && w.opcode != 0xA1) || decide (w.low 31 16 < 49152))

/-- The output ports that a stroke names, as a mask. -/
def Stroke.outMask (w : Stroke) : Nat :=
  (if descKind w.dst = 1 then w.dst % 16 else 0) |||
    (if w.opcode = 0x60 then w.low 15 12 ||| w.low 11 8 ||| w.low 7 4 ||| w.low 3 0 else 0) |||
    (if w.kind = 64 * 0xD0 + 3 then 2 ^ w.low 32 31 else 0)

/-- What the checks of a site know of its surroundings: the near directions that stay in the partition, the bound CU
output ports as a mask, the ports of the valid trigger entries with their stroke. -/
structure CuEnv where
  near : List Nat
  bound : Nat
  named : List (Nat × List Nat)
  deriving DecidableEq, Repr

/-- Ports are named, bound and counted (R121, R133). -/
def Stroke.portsFit (w : Stroke) (env : CuEnv) (i : Nat) : Bool :=
  let need := w.reads.map (·.1) ++ w.mlPorts
  let m := w.dst % 16
  let one := w.opcode == 0xA0 || w.opcode == 0xA1 || w.opcode == 0xC0 || w.kind == 64 * 0xB0 + 1
  env.named.all (fun e => e.1 != i || need.all e.2.contains) &&
    (w.outMask &&& env.bound == w.outMask) &&
    (descKind w.dst != 1 || (m != 0 && (!one || m == 1 || m == 2 || m == 4 || m == 8)))

/-- Near-path directions of SYNC, CLAIM, ARM and RETIRE stay in the partition (R150, R152). -/
def Stroke.nearFits (w : Stroke) (env : CuEnv) : Bool :=
  if w.opcode = 0x90 then env.near.contains (w.low 37 36)
  else if w.opcode = 0xA0 ∨ w.opcode = 0xA1 then bitOf w 37 || env.near.contains (w.low 36 35)
  else true

/-- The lowest-numbered check of R163 that a stroke fails. -/
def Stroke.check (w : Stroke) (env : CuEnv) (i : Nat) : Option Nat :=
  if w = 0 then none
  else if (homeOf w.opcode).isNone then some 1
  else if homeOf w.opcode ≠ some (bitsOf w 119 117) then some 2
  else if w.opcode = 0 ∨ bitsOf w 113 112 ≠ 0 ∨ bitsOf w 51 48 ≠ 0 ∨
      w.srcA % 8192 &&& srcReserved (descKind w.srcA) ≠ 0 ∨ w.srcB % 8192 &&& srcReserved (descKind w.srcB) ≠ 0 ∨
      w.dst % 8192 &&& dstReserved (descKind w.dst) ≠ 0 ∨
      (w.tagAct / 64 % 2 = 0 ∧ w.tagAct % 64 ≠ 0) ∨ (w.tagAct / 64 = 3 ∧ w.tagAct % 64 ≥ 16) ∨
      w.lowZero = false then some 3
  else
    let k := kindsOf w.opcode
    if ¬ (k.1.contains (descKind w.srcA) && k.2.1.contains (descKind w.srcB) && k.2.2.contains (descKind w.dst)) ∨
        (w.subLegal ∧ w.kindsFit = false) then some 4
    else if w.subLegal = false ∨ (w.opcode = 0x70 ∧ w.sub ≠ 0 ∧ w.tagAct / 64 ≠ 0 ∧ w.tagAct / 64 ≠ 3) then some 5
    else if w.formatsFit = false then some 6
    else if (w.zacc ∧ w.opcode ≠ 0x10 ∧ w.kind ≠ 64 * 0x20 + 2) ∨ (w.opcode = 0x80 ∧ w.low 39 38 = 3) then some 7
    else if w.tilesFit = false then some 8
    else if w.fits = false then some 9
    else if w.portsFit env i = false then some 10
    else if w.nearFits env = false then some 11
    else none

/-- Check 12 on a trigger entry (R130, R131). -/
def trigCheck (e : Nat) : Option Nat :=
  if (if trigValid e then e % 16384 = 0 ∧ trigPorts e ≠ [] else e = 0) then none else some 12

-- Assumption log 163 (DEDUCED).
/-- The first failure of a CU part: strokes in index order, then trigger entries (R244): check and INDEX of R256. -/
def cuChecks (m : SiteImg) (env : CuEnv) : Option (Nat × Nat) :=
  match (List.range 512).findSome? (fun i =>
      (Stroke.check (tabGet (fun _ => 0) m.strokes i).toNat env i).map (fun c => (c, i))) with
  | some r => some r
  | none => (List.range 32).findSome? (fun i =>
      (trigCheck (tabGet (fun _ => 0) m.trig i)).map (fun c => (c, 2 ^ 15 + i)))

/-! ### Hatches (R181 to R183, R202 to R212) -/

/-- What the checks of an MU part know: near directions, local slots bound inward and outward, the sections with their
shape maps, the page formats that the edition allows. -/
structure MuEnv where
  near : List Nat
  slotIn : List Nat
  slotOut : List Nat
  sections : List Section
  kvAllow : List Nat
  deriving DecidableEq, Repr

/-- MKIND and MVALID fit a format (R181 to R183). -/
def Desc.marginFits (d : Desc) (fmt : Nat) : Bool :=
  decide (d.mkind ≤ 5) && (d.mkind != 1 || isInt fmt) && (d.mkind < 2 || d.mkind == 5 || fmt != 14) &&
    (!isMx fmt || d.mkind == 0 || d.mtx || d.mlvl != 6 || d.mvalid % 32 == 0)

/-- Counts and steps of the nest in words, of a QUEUE its ring (R205, R211). -/
def Desc.nest (d : Desc) : List (Nat × Int) :=
  if d.mode = 2 then [(d.counts.getD 0 1, 1)]
  else List.zip d.counts (Int.ofNat d.len :: d.strides)

/-- Words of one operand, of a QUEUE one. -/
def Desc.span (d : Desc) : Nat := if d.mode = 2 then 1 else d.len

/-- The lowest and the highest word that some corner reaches. -/
def Desc.reach (d : Desc) : Int × Int :=
  let r := d.nest.foldl (fun (a : Int × Int) e =>
    let x := e.2 * (Int.ofNat e.1 - 1)
    (a.1 + min 0 x, a.2 + max 0 x)) (Int.ofNat d.base, Int.ofNat d.base)
  (r.1, r.2 + Int.ofNat d.span - 1)

/-- Residues modulo 16 that a step reaches in at most n steps. -/
def residues (step : Int) : Nat → List Nat → List Nat
  | 0, l => l
  | n + 1, l =>
    let m := l.map (fun r => ((Int.ofNat r + step) % 16).toNat)
    residues step n ((l ++ m).eraseDups)

/-- The banks that a stream reaches. -/
def Desc.banks (d : Desc) : List Nat :=
  let l := d.nest.foldl (fun l e => residues e.2 (min (e.1 - 1) 15) l) [d.base % 16]
  residues 1 (d.span - 1) l

/-- Some corner leaves the range of its SPACE, or a writer reaches a bank that its engine may not write (R195, R203,
R212 check 5). -/
def Desc.outside (d : Desc) (owners : Word) (eng : Nat) : Bool :=
  let r := d.reach
  match d.space with
  | 0 => decide (r.1 < 0) || decide (r.2 ≥ 12288) || (d.mode != 0 && d.banks.any (fun b =>
      let o := getBits owners (4 * b + 3) (4 * b)
      o != 5 + eng && o != 15))
  | 1 => decide (r.1 < 0) || decide (r.2 ≥ 2 ^ 38)
  | 2 =>
    if d.base < 2 ^ 37 then decide (r.1 < 0) || decide (r.2 ≥ 2 ^ 38)
    else
      let lo : Int := Int.ofNat (d.base / 16384 * 16384)
      decide (r.1 < lo) || decide (r.2 ≥ lo + 12288)
  | _ =>
    let k : Int := Int.ofNat (d.base / 2 ^ 24 * 2 ^ 24)
    let half : Int := k + Int.ofNat (d.base % 2 ^ 24 / 2 ^ 23 * 2 ^ 23)
    decide (r.1 < half) || decide (r.2 ≥ half + 2 ^ 23)

-- Assumption log 71 (DEDUCED).
/-- The lowest-numbered check of R212 that a descriptor fails in the context of a section and an engine. -/
def Desc.check (d : Desc) (m : SiteImg) (env : MuEnv) (sec eng : Nat) (arm : Bool) : Option Nat :=
  let fmts := if d.fmt = 15 then env.kvAllow else [d.fmt]
  if d.mode = 3 ∨ d.port ≥ 12 ∨ d.shapeLvl = 7 ∨ (d.space ≠ 2 ∧ d.window ≠ 0) ∨ (d.space = 0 ∧ d.base ≥ 2 ^ 14) ∨
      (d.space = 3 ∧ d.base ≥ 2 ^ 36) ∨ (d.space = 2 ∧ d.base ≥ 2 ^ 37 ∧ bitsOf d.base 36 27 ≠ 0) then some 1
  else if (if d.port < 4 then d.mode ≠ 0 ∨ env.near.contains d.port = false
      else (d.mode ≠ 1 ∧ env.slotIn.contains (d.port - 4) = false) ∨
        (d.mode ≠ 0 ∧ env.slotOut.contains (d.port - 4) = false)) then some 2
  else if ¬ ((d.fmt = 15) ↔ (d.space = 3)) ∨ (d.mtx ∧ (d.fmt = 0 ∨ d.fmt = 14)) ∨
      (d.mode ≠ 2 ∧ fmts.all d.marginFits = false) then some 3
  else if (d.mode = 2 ∧ (d.space ≠ 0 ∨ d.context ≠ 0 ∨ d.fmt ≠ 0 ∨ d.mkind ≠ 0 ∨ d.mconst ≠ 0 ∨ d.mlvl ≠ 0 ∨
        d.mvalid ≠ 0 ∨ d.shapeSel ≠ 0 ∨ d.shapeLvl ≠ 0 ∨ d.pad)) ∨
      (d.mode = 1 ∧ d.space = 3) ∨ (d.spill ∧ d.mode ≠ 2) then some 4
  else if d.outside m.owners eng then some 5
  else if d.persist ∧ (arm = false ∨ d.mode = 2) then some 6
  else
    let sh := ((env.sections.getD sec ⟨0, []⟩).shapes).getD (d.shapeSel - 1) 0
    let top := if d.shapeLvl = 6 then 64 else d.counts.getD d.shapeLvl 1
    if (d.shapeSel ≠ 0 ∧ (bitOf sh 31 = false ∨ top < sh % 65536)) ∨ (d.pad ∧ d.shapeLvl = 6) then some 7
    else none

-- Assumption log 71 (DEDUCED).
/-- The lowest-numbered check that an engine entry fails: 1 for reserved bits (R201), 8 and 9 by R212. -/
def entryCheck (m : SiteImg) (e : Word) : Option Nat :=
  if ¬ entryValid e then (if e = 0 then none else some 1)
  else if getBits e 28 0 ≠ 0 then some 1
  else if entryLast e < entryFirst e ∨ m.count ≤ entryLast e then some 8
  else if entrySync e ∧ (entryWait e = entrySignal e ∨ 5 < entryLevel e ∨
      (List.range (entryLast e + 1 - entryFirst e)).any (fun i =>
        let d : Desc := (tabGet (fun _ => 0) m.descs (entryFirst e + i)).toNat
        d.counts.getD (entryLevel e) 1 == 1)) then some 9
  else none

/-- The engine entries of an image, section by section: section, engine, entry. -/
def entriesOf (m : SiteImg) (sections : Nat) : List (Nat × Nat × Word) :=
  (List.range sections).flatMap (fun s => (List.range 4).map (fun e => (s, e, tabGet (fun _ => 0) m.entries (4 * s + e))))

/-- The first failure of an MU part: engine entries, then the named descriptors in index order (R212): check and INDEX of
R256. -/
def muChecks (m : SiteImg) (env : MuEnv) : Option (Nat × Nat) :=
  let es := entriesOf m env.sections.length
  match es.findSome? (fun x => (entryCheck m x.2.2).map (fun c => (c, 2 ^ 15 + 256 * x.1 + x.2.1))) with
  | some r => some r
  | none => (List.range 128).findSome? (fun n =>
      let d : Desc := (tabGet (fun _ => 0) m.descs n).toNat
      let fails := es.filterMap (fun x =>
        if entryValid x.2.2 && decide (entryFirst x.2.2 ≤ n) && decide (n ≤ entryLast x.2.2) then
          d.check m env x.1 x.2.1 (entryArm x.2.2)
        else none)
      match fails with
      | [] => none
      | c :: t => some (t.foldl min c, n))

end Sys2Proof.Machine
end

