-- ==== Sys2Proof/Machine/Image.lean ====
section
/-! DEFINITION. The plate image as the module reads it from HBM, and the checks of a plate load (R231 to R241, R244). -/

namespace Sys2Proof.Machine

open Sys2Proof

/-! ### Objects of an edition (R392 to R395) -/

/-- The object-table entries of a manifest: TYPE, VIEW, INDEX, FIRST, PAGES and DIGEST (R395). -/
structure Extent where
  typ : Nat
  view : Nat
  index : Nat
  first : Nat
  pages : Nat
  digest : Nat
  deriving DecidableEq, Repr

/-- An object-table entry of a manifest. -/
def extentAt (m : List Byte) (i : Nat) : Extent :=
  let o := 0x2000 + 64 * i
  ⟨leAt m o 1, leAt m (o + 1) 1, leAt m (o + 2) 2, leAt m (o + 4) 4, leAt m (o + 8) 4, leAt m (o + 16) 48⟩

/-- The extents of a manifest, in object-table order. -/
def extentsOf (m : List Byte) : List Extent := (List.range (leAt m 16 4)).map (extentAt m)

/-- PLATES of an edition (R394). -/
def Edition.plates (e : Edition) : Nat := leAt e.manifest 6 1

-- Assumption log 73 (DEDUCED).
/-- The edition address at which the image of a plate begins: that of its first extent in the object table. -/
def Edition.imageBase (e : Edition) (plate : Nat) : Nat :=
  match (extentsOf e.manifest).find? (fun x => x.typ == 1 && x.index == plate) with
  | some x => x.first % 2 ^ 26 * 65536
  | none => 0

/-! ### Reading -/

/-- A reader of an image: offset from the image base and length to a little-endian number. -/
abbrev Reader := Nat → Nat → Nat

-- Assumption log 73 (DEDUCED).
/-- The edition address of an offset from an image base. -/
def imageAddr (base off : Nat) : Nat := (base + off) % 2 ^ 64

/-- Bytes of edition content as reads of HBM deliver them; bytes without a page read as zero. -/
def State.editionBytes (s : State) (e : Edition) (a n : Nat) : List Byte :=
  (List.range n).map (fun i => match e.place (a + i) with
    | some m => s.hbm.good m
    | none => 0)

/-- The reader of a plate's image. -/
def State.reader (s : State) (e : Edition) (base : Nat) : Reader :=
  fun off n => leNat (s.editionBytes e (imageAddr base off) n)

/-- A table of the values of some keys in rising order, without those that equal the default. -/
def tabOf {α : Type} [DecidableEq α] (d : α) (n : Nat) (f : Nat → α) : Tab α :=
  ((List.range n).map (fun k => (k, f k))).filter (fun e => decide (e.2 ≠ d))

/-- OFFSET, LENGTH, SPILL and the reserved bytes of a die entry (R233). -/
def dieEntry (rd : Reader) (k : Nat) : Nat × Nat × Nat × Nat :=
  let o := 0x40 + 16 * k
  (rd o 8, rd (o + 8) 4, rd (o + 12) 2, rd (o + 14) 2)

/-- SECTIONS of an image. -/
abbrev imgSections (rd : Reader) : Nat := rd 7 1

/-- A section entry (R235). -/
def sectionAt (rd : Reader) (n : Nat) : Section :=
  let o := 0x1000 + 128 * n
  ⟨rd o 2, (List.range 15).map (fun i => rd (o + 8 + 4 * i) 4)⟩

/-- A row of a run: plate and section (R234). -/
def runRow (rd : Reader) (run i : Nat) : Nat := rd (0x100 + 128 * run + 2 + 2 * i) 2

/-- The rows of a run of plate 0 (R226, R234). -/
def runRows (rd : Reader) (run : Nat) : List (Nat × Nat) :=
  (List.range (min 63 (rd (0x100 + 128 * run) 1))).map (fun i =>
    let w := runRow rd run i
    (bitsOf w 15 13, bitsOf w 12 7))

/-- The site of an entry of a die's directory (R237). -/
def dirSite (k i : Nat) : Nat := (24 * (k / 4) + i / 32) * 128 + 32 * (k % 4) + i % 32

/-- The entry of a site in its die's directory. -/
def dirIndex (site : Nat) : Nat := site / 128 % 24 * 32 + site % 128 % 32

/-- The directory entry of a site: offset of its record in the die region, length, reserved bits. -/
def dirEntry (rd : Reader) (site : Nat) : Nat × Nat × Nat :=
  let o := (dieEntry rd (dieOf site)).1 + 8 * dirIndex site
  (rd o 4, rd (o + 4) 2, rd (o + 6) 2)

/-- The offset of a site's record from the image base. -/
def recordAt (rd : Reader) (site : Nat) : Nat := (dieEntry rd (dieOf site)).1 + (dirEntry rd site).1

/-- The image of a site from its record (R238). -/
def siteImage (rd : Reader) (site : Nat) : SiteImg :=
  let o := recordAt rd site
  let mu := isMu site
  let n := rd (o + 2) 2
  let secs := imgSections rd
  { strokes := if mu then [] else tabOf 0 (min n 512) (fun i => BitVec.ofNat 128 (rd (o + 0x180 + 16 * i) 16))
    trig := if mu then [] else tabOf 0 32 (fun i => rd (o + 0x100 + 4 * i) 4)
    slots := tabOf 0 40 (fun i => rd (o + 8 + 2 * i) 2)
    steer := tabOf 0 4 (fun i => rd (o + 0x58 + 16 * i) 16)
    localIn := rd (o + 0x98) 8 % 2 ^ 32
    owners := if mu then BitVec.ofNat 64 (rd (o + 0x100) 8) else 0
    strict := if mu then rd (o + 0x108) 8 else 0
    sems := if mu then tabOf 0 64 (fun i => rd (o + 0x110 + 4 * i) 4) else []
    rwin := if mu then tabOf 0 4 (fun i => rd (o + 0x210 + 16 * i) 16) else []
    xwin := if mu then tabOf 0 4 (fun i => rd (o + 0x250 + 16 * i) 16) else []
    entries := if mu then tabOf 0 (4 * secs) (fun i => BitVec.ofNat 64 (rd (o + 0x290 + 8 * i) 8)) else []
    descs := if mu then tabOf 0 (min n 128) (fun i => BitVec.ofNat 256 (rd (o + 0xA90 + 32 * i) 32)) else []
    count := n }

/-! ### IMAGE checks (R244) -/

/-- Some of the bytes of a range are not zero. -/
def nonZero (rd : Reader) (off n : Nat) : Bool := rd off n != 0

/-- What the checks of a load rest on: the edition and plate that the load is for, PLATES of the edition, the partition's
rectangle and spill reserve, the sections of each plate of the edition, the page formats that its KV record allows. -/
structure LoadEnv where
  edition : Nat
  plate : Nat
  plates : Nat
  rect : Nat × Nat × Nat × Nat
  reserve : Nat
  sections : List Nat
  kvAllow : List Nat
  /-- Offline sites, and members of the partition. -/
  offline : List Nat
  members : List Nat
  /-- Edition pages that lie in HBM pages of the die that their address names. -/
  held : List Nat
  /-- Switch links that failed their self-test: 4 times site plus direction. -/
  broken : List Nat
  deriving DecidableEq, Repr

-- Assumption log 211 (DESIGN CHOICE).
/-- A die entry breaks R233 or R231, or lies outside the rectangle and is not zero (check 4). The manual leaves open which check refuses
a region shorter than its directory of 6,144 bytes (R237): the model counts it here. -/
def dieBad (rd : Reader) (base : Nat) (dies held : List Nat) (k : Nat) : Bool :=
  let d := dieEntry rd k
  if dies.contains k then
    let a := imageAddr base d.1
    d.2.2.2 != 0 || a % 65536 != 0 || a / 2 ^ 39 != k || (a + d.2.1 - 1) / 2 ^ 39 != k || decide (d.2.1 < 6144) ||
      !(List.range ((a + d.2.1 - 1) / 65536 + 1 - a / 65536)).all (fun i => held.contains (a / 65536 + i))
  else d != (0, 0, 0, 0)

/-- A section entry breaks R235 or R236 (check 6). -/
def sectionBad (rd : Reader) (n : Nat) : Bool :=
  let o := 0x1000 + 128 * n
  if n < imgSections rd then
    nonZero rd (o + 3) 1 || nonZero rd (o + 68) 60 ||
      (sectionAt rd n).shapes.any (fun m => bitsOf m 30 28 != 0 || bitsOf m 23 16 != 0 || (!bitOf m 31 && m != 0))
  else nonZero rd o 128

/-- A run breaks check 7. -/
def runBad (rd : Reader) (env : LoadEnv) (run : Nat) : Bool :=
  let o := 0x100 + 128 * run
  let len := rd o 1
  if run < rd 24 1 then
    decide (len < 1) || decide (63 < len) || nonZero rd (o + 1) 1 ||
      (List.range 63).any (fun i =>
        let w := runRow rd run i
        if i < len then
          w % 128 != 0 || decide (env.plates ≤ bitsOf w 15 13) ||
            decide (env.sections.getD (bitsOf w 15 13) 0 ≤ bitsOf w 12 7)
        else w != 0)
  else nonZero rd o 128

/-- HBM extension limits of a die's QUEUE descriptors that some valid engine entry names, in 256 KiB units (check 8). -/
def spillNeed (rd : Reader) (rect : Nat × Nat × Nat × Nat) (k : Nat) : Nat :=
  let sites := (rectSites rect).filter (fun i => isMu i && dieOf i == k)
  sites.foldl (fun n i =>
    let m := siteImage rd i
    let es := entriesOf m (imgSections rd)
    (List.range 128).foldl (fun n j =>
      let d : Desc := (tabGet (fun _ => 0) m.descs j).toNat
      if d.mode = 2 ∧ d.spill ∧ es.any (fun x => entryValid x.2.2 && decide (entryFirst x.2.2 ≤ j) &&
          decide (j ≤ entryLast x.2.2)) then n + bitsOf d 119 110 + 1 else n) n) 0

/-- The first IMAGE check that fails. -/
def imageCheck (rd : Reader) (base : Nat) (env : LoadEnv) : Option Nat :=
  let dies := diesOf env.rect
  let total := dies.foldl (fun n k => n + (dieEntry rd k).2.1) 16384
  let lim := rd 16 8
  if rd 0 4 ≠ 0x4C395054 ∨ rd 4 2 ≠ 1 ∨ nonZero rd 25 39 ∨ nonZero rd 0xC0 64 ∨ nonZero rd 0x900 1792 ∨
      nonZero rd 0x3000 4096 then some 1
  else if rd 8 4 ≠ env.edition ∨ rd 6 1 ≠ env.plate ∨ env.plates ≤ env.plate ∨ imgSections rd < 1 ∨
      64 < imgSections rd then some 2
  else if (rd 12 1, rd 13 1, rd 14 1, rd 15 1) ≠ env.rect then some 3
  else if (List.range 8).any (dieBad rd base dies env.held) ∨ 144 * 2 ^ 20 < total then some 4
  else if (1 ≤ lim ∧ lim < 2 ^ 16) ∨ 2 ^ 32 < lim then some 5
  else if (List.range 64).any (sectionBad rd) then some 6
  else if (if env.plate = 0 then rd 24 1 < 1 ∨ 16 < rd 24 1 ∨ (List.range 16).any (runBad rd env)
      else rd 24 1 ≠ 0 ∨ nonZero rd 0x100 2048) then some 7
  else if dies.any (fun k => decide (env.reserve < (dieEntry rd k).2.2.1) ||
      decide ((dieEntry rd k).2.2.1 < spillNeed rd env.rect k)) then some 8
  else none

/-! ### SITE checks (R244) -/

/-- The directions of a site whose neighbour lies in a rectangle (R76). -/
def nearOf (rect : Nat × Nat × Nat × Nat) (site : Nat) : List Nat :=
  (List.range 4).filter (fun d => match neighbour site d with
    | some m => inRect rect m
    | none => false)

/-- A port of the switch unit that a plate may use: an enabled link, or the local port. -/
def portUsable (near : List Nat) (p : Nat) : Bool := p == 4 || near.contains p

/-- The valid steer entries' output slots, as slot keys; two routes of one entry may name one slot (R240). -/
def steerDriven (m : SiteImg) : List Nat :=
  (List.range 4).flatMap (fun n =>
    let e := tabGet (fun _ => 0) m.steer n
    if bitOf e 7 then ((List.range 4).filterMap (fun i =>
      let r := bitsOf e (47 + 8 * i) (40 + 8 * i)
      if bitOf r 7 then some (8 * (r / 16 % 8) + r % 8) else none)).eraseDups
    else [])

-- Assumption log 72 (DEDUCED), 211 (DESIGN CHOICE).
/-- SITE check 1: the directory entry and the record's header (R231, R237, R238). The manual leaves open which check refuses a record that
overlaps the directory or runs past its region: the model counts it here. -/
def siteHeadBad (rd : Reader) (env : LoadEnv) (site : Nat) : Bool :=
  let d := dirEntry rd site
  let region := (dieEntry rd (dieOf site)).2.1
  let o := recordAt rd site
  let n := rd (o + 2) 2
  if inRect env.rect site then
    d.1 % 64 != 0 || d.2.2 != 0 || d.2.1 == 0 || decide (24576 < d.2.1) || decide (d.1 < 6144) ||
      decide (region < d.1 + d.2.1) || rd o 1 != unitOf site || nonZero rd (o + 1) 1 || nonZero rd (o + 4) 4 ||
      nonZero rd (o + 0xA0) 96 ||
      (if isMu site then decide (128 < n) || decide (d.2.1 < 0xA90 + 32 * n)
       else decide (512 < n) || decide (d.2.1 < 0x180 + 16 * n))
  else d != (0, 0, 0)

-- Assumption log 163 (DEDUCED).
/-- A slot-table entry breaks R239, R76 or R89. -/
def slotBad (m : SiteImg) (near driven : List Nat) (cu : Bool) (k : Nat) : Bool :=
  let e := tabGet (fun _ => 0) m.slots k
  let used := bitOf e 15 || driven.contains k
  bitsOf e 6 0 != 0 ||
    (bitsOf e 8 7 != 0 && !(cu && decide (32 ≤ k) && used)) ||
    decide (4 < bitsOf e 14 12) || (bitOf e 15 && (!portUsable near (k / 8) || !portUsable near (bitsOf e 14 12)))

-- Assumption log 163 (DEDUCED).
/-- A local input source does not match the site's kind (R238). -/
def sourceBad (m : SiteImg) (cu : Bool) (l : Nat) : Bool :=
  let c := bitsOf m.localIn (4 * l + 3) (4 * l)
  c != 0 && !(if cu then decide (c ≤ 4) else c == 8)

/-- A steer entry breaks R240, or its slots are used by the slot table as well. -/
def steerBad (m : SiteImg) (near : List Nat) (n : Nat) : Bool :=
  let e := tabGet (fun _ => 0) m.steer n
  let inR : Nat → Nat := fun i => bitsOf e (15 + 8 * i) (8 + 8 * i)
  let outR : Nat → Nat := fun i => bitsOf e (47 + 8 * i) (40 + 8 * i)
  let refBad : Nat → Bool := fun r => (!bitOf r 7 && r != 0) || bitOf r 3 || (bitOf r 7 && !portUsable near (r / 16 % 8))
  let refs := (List.range 4).map inR ++ (List.range 4).map outR
  let key : Nat → Nat := fun r => 8 * (r / 16 % 8) + r % 8
  if bitOf e 7 then
    bitOf e 4 || bitsOf e 6 5 == 3 || bitsOf e 127 72 != 0 || refs.any refBad ||
      (if bitsOf e 6 5 = 0 then !bitOf (inR 0) 7 || !bitOf (inR 1) 7 || inR 2 != 0 || inR 3 != 0
       else (List.range 4).all (fun i => !bitOf (inR i) 7) || !bitOf (outR 0) 7 || outR 1 != 0 || outR 2 != 0 ||
        outR 3 != 0) ||
      (List.range 4).any (fun i => bitOf (outR i) 7 && bitsOf (tabGet (fun _ => 0) m.slots (key (outR i))) 15 9 != 0) ||
      (List.range 4).any (fun i => bitOf (inR i) 7 && m.slots.any (fun s =>
        bitOf s.2 15 && bitsOf s.2 14 12 == inR i / 16 % 8 && bitsOf s.2 11 9 == inR i % 8))
  else e != 0

/-- A valid steer entry takes or drives a slot of a port whose switch link failed its self-test (R30). -/
def steerCrosses (m : SiteImg) (broken : List Nat) : Bool :=
  (List.range 4).any (fun n =>
    let e := tabGet (fun _ => 0) m.steer n
    bitOf e 7 && (List.range 4).any (fun i =>
      [bitsOf e (15 + 8 * i) (8 + 8 * i), bitsOf e (47 + 8 * i) (40 + 8 * i)].any (fun r =>
        bitOf r 7 && broken.contains (r / 16 % 8))))

/-- The reserves of the valid steer entries together (R95). -/
def steerReserves (m : SiteImg) : Nat :=
  (List.range 4).foldl (fun a n =>
    let e := tabGet (fun _ => 0) m.steer n
    if bitOf e 7 then a + bitsOf e 3 0 + 1 else a) 0

-- Assumption log 71 (DEDUCED).
/-- A window breaks R241 or R215. -/
def windowBad (m : SiteImg) (env : LoadEnv) (n : Nat) : Bool :=
  let r := tabGet (fun _ => 0) m.rwin n
  let x := tabGet (fun _ => 0) m.xwin n
  bitsOf r 14 12 != 0 || bitsOf r 31 18 != 0 || bitsOf r 127 52 != 0 ||
    (bitOf r 15 && !env.members.contains (bitsOf r 11 0)) ||
    bitOf x 14 || bitsOf x 31 30 != 0 || bitsOf x 39 38 != 0 || bitsOf x 47 46 != 0 || bitsOf x 63 60 != 0 ||
    bitsOf x 127 77 != 0 ||
    (bitOf x 15 && (decide (bitsOf x 29 16 < bitsOf x 13 0) || decide (12288 ≤ bitsOf x 29 16) ||
      !env.members.contains (bitsOf x 59 48) ||
      (List.range (min 16 (bitsOf x 29 16 + 1 - bitsOf x 13 0))).any (fun i =>
        let b := (bitsOf x 13 0 + i) % 16
        let o := getBits m.owners (4 * b + 3) (4 * b)
        o != 9 && o != 15)))

-- Assumption log 72 (DEDUCED), 181 (DEDUCED), 211 (DESIGN CHOICE).
/-- The first SITE check that fails, with INDEX of R256. A port whose switch link failed its self-test is disabled: a circuit or
steering route across it fails check 3 (R30, R76). The manual leaves open which check refuses two steer entries that drive one output slot,
which R89 forbids: the model takes check 4. -/
def siteCheck (rd : Reader) (env : LoadEnv) (site : Nat) : Option (Nat × Nat) :=
  if siteHeadBad rd env site then some (1, 0)
  else if ¬ inRect env.rect site then none
  else
    let m := siteImage rd site
    let near := nearOf env.rect site
    let cu := !isMu site
    let drv := steerDriven m
    let cut := (List.range 4).filter (fun d => env.broken.contains (4 * site + d))
    if env.offline.contains site && m.used then some (2, 0)
    else match firstBelow 40 (slotBad m (near.filter (fun d => !cut.contains d)) drv cu) with
      | some k => some (3, k)
      | none => match firstBelow 8 (sourceBad m cu) with
        | some l => some (3, 2 ^ 15 + l)
        | none =>
          if nonZero rd (recordAt rd site + 0x9C) 4 ∨ steerCrosses m cut then some (3, 0)
          else if (List.range 4).any (steerBad m near) ∨ 16 < steerReserves m ∨ ¬ drv.Nodup then some (4, 0)
          else if cu then none
          else if (List.range 4).any (windowBad m env) then some (5, 0)
          else if (List.range 16).any (fun b =>
              let o := getBits m.owners (4 * b + 3) (4 * b)
              decide (10 ≤ o) && decide (o < 15)) ∨ m.sems.any (fun v => decide (2 ^ 20 ≤ v.2)) ∨ 16 ≤ m.strict then
            some (6, 0)
          else none

/-- A slot-table entry or a steer entry of the switch unit takes a local input slot (R212, R239, R240). -/
def SiteImg.takesLocal (m : SiteImg) (l : Nat) : Bool :=
  m.slots.any (fun e => bitOf e.2 15 && bitsOf e.2 14 12 == 4 && bitsOf e.2 11 9 == l) ||
    m.steer.any (fun e => bitOf e.2 7 && (List.range 4).any (fun i =>
      let r := bitsOf e.2 (15 + 8 * i) (8 + 8 * i)
      bitOf r 7 && r / 16 % 8 == 4 && r % 8 == l))

-- Assumption log 72 (DEDUCED).
/-- The first failure of a site: KIND, CHECK, INDEX. -/
def siteFailure (rd : Reader) (env : LoadEnv) (site : Nat) : Option (Nat × Nat × Nat) :=
  match siteCheck rd env site with
  | some c => some (1, c)
  | none =>
    if ¬ inRect env.rect site then none
    else
      let m := siteImage rd site
      let near := nearOf env.rect site
      if isMu site then
        let secs := (List.range (imgSections rd)).map (sectionAt rd)
        let outs := (List.range 8).filter (fun l => bitOf (tabGet (fun _ => 0) m.slots (32 + l)) 15 ||
          (steerDriven m).contains (32 + l))
        let ins := (List.range 8).filter m.takesLocal
        (muChecks m ⟨near, ins, outs, secs, env.kvAllow⟩).map (fun c => (3, c))
      else
        let bound := (List.range 8).foldl (fun b l =>
          let c := bitsOf m.localIn (4 * l + 3) (4 * l)
          if 1 ≤ c ∧ c ≤ 4 then b ||| 2 ^ (c - 1) else b) 0
        let named := m.trig.filterMap (fun e => if trigValid e.2 then some (trigStroke e.2, trigPorts e.2) else none)
        (cuChecks m ⟨near, bound, named⟩).map (fun c => (2, c))

/-- The sites of the directories of some dies, in ascending index. -/
def dirSites (dies : List Nat) : List Nat := (List.range 6144).filter (fun i => dies.contains (dieOf i))

/-- The failure that decides a refusal: KIND, CHECK, INDEX and site (R244). -/
def loadFailure (rd : Reader) (base : Nat) (env : LoadEnv) : Option (Nat × Nat × Nat × Nat) :=
  match imageCheck rd base env with
  | some c => some (0, c, 0, 0)
  | none => (dirSites (diesOf env.rect)).findSome? (fun i =>
      (siteFailure rd env i).map (fun f => (f.1, f.2.1, f.2.2, i)))

end Sys2Proof.Machine
end

