-- ==== Sys2Proof/Machine/Remote.lean ====
section
/-! DEFINITION. WRITE streams, acknowledgements, appends, remote memory, remote bank writes and atomics by message, and
the stall watch (R107, R108, R210, R214 to R220, R308 to R311, R464 to R466). -/

namespace Sys2Proof.Machine

open Sys2Proof

/-! ### Requests to other modules (R464, R465) -/

-- Assumption log 64 (DEDUCED).
/-- What a status other than OK does to the firing step of the requester (R464). -/
def State.statusEffect (s : State) (p site status a src : Nat) : State :=
  match status with
  | 0 => s
  | 1 => s.ueAbort p a
  | 2 => s.plateDefect p site 6
  | 3 => s.abortRun p Status.creditViolation (BitVec.ofNat 64 (site % 8192 + src % 4096 * 2 ^ 16))
  | 4 => s.plateDefect p site 6
  | _ => s.abortRun p Status.epoch (BitVec.ofNat 64 (s.epoch p))

/-- Takes the request that a response answers out of the partition's list. -/
def State.takeReq (s : State) (p typ src txn : Nat) : State × Option Request :=
  let x := s.part p
  let is : Request → Bool := fun r => r.typ == typ && r.dst == src && r.txn == txn
  (s.setPart p { x with reqs := x.reqs.filter (fun r => !is r) }, x.reqs.find? is)

/-- A request with the next transaction number leaves for another module. -/
def State.sendReq (s : State) (p typ dst site eng info : Nat) (body : List Byte) : State :=
  let txn := s.txn
  let t := s.fresh.sendStep p typ dst false txn body
  let x := t.part p
  t.setPart p { x with reqs := x.reqs ++ [⟨dst, txn, typ, site, eng, info⟩] }

/-! ### Atomic requests (R219, R220, R466) -/

/-- A memory unit of a partition by site number. -/
def State.ownMu (s : State) (p site : Nat) : Bool := isMu site && s.ownerOf site == some p

-- Assumption log 62 (DEDUCED).
/-- A word stored in the atomic aperture is one atomic request: performed here, or sent to its module (R466). None where
the home bank's queue is full. -/
def State.atomicWord (s : State) (h : Hatch) (pos : Nat) (x : Line) : Option State :=
  let n := x.toNat
  let target := n % 4096
  let addr := n / 2 ^ 16 % 2 ^ 64
  let op := n / 2 ^ 80 % 256
  let a := n / 2 ^ 128 % 2 ^ 64
  let b := n / 2 ^ 192 % 2 ^ 64
  let txn := s.txn
  let e := s.engine h.site h.eng
  let posted : State := s.setEngine h.site h.eng { e with posted := e.posted ++ [⟨3, addr, [], txn, pos⟩] }
  if target ≠ s.coord h.part then
    some (posted.sendReq h.part 0x16 target h.site h.eng addr
      (leBytes 8 addr ++ leBytes 1 op ++ List.replicate 7 0 ++ leBytes 8 a ++ leBytes 8 b))
  else if !addr.testBit 63 || !s.ownMu h.part (bitsOf addr 32 20) || decide (op > 7) then
    some ((s.plateDefect h.part h.site 6).storedAt h pos)
  else posted.fresh.queueAtom (bitsOf addr 32 20) ⟨op, bitsOf addr 19 0 % 786432, a, b, 3, h.site, h.eng, txn, 0, false, 0⟩

/-! ### WRITE streams (R210, R214) -/

/-- The position of an operand: the one at or above the lowest unwritten position with the low 16 bits of its
iteration. -/
def writePos (low iter : Nat) : Nat := low + (iter + 65536 - low % 65536) % 65536

/-- Words of an operand leave through a remote window as BANK_WR, one credit each, as far as the credits go; the engine keeps the
rest (R216). -/
def State.remoteWords (s : State) (h : Hatch) (pos : Nat) (ws : List (Nat × Line)) : State :=
  let m := (s.site h.site).mu
  let c := m.credits.getD h.d.window 0
  let k := min c ws.length
  let e := s.engine h.site h.eng
  let rest := ws.drop k
  let keep : Option BankOp :=
    if rest.isEmpty then none else some ⟨true, pos, ⟨0, false, 0, []⟩, rest.map (fun w => (w.1, some w.2))⟩
  if k = 0 then s.setEngine h.site h.eng { e with bank := keep }
  else
    let a := (ws.head?.map (·.1)).getD 0
    let data := (ws.take k).map (·.2)
    let t := s.setMu h.site { m with credits := m.credits.set h.d.window (c - k) }
    let t := t.setEngine h.site h.eng { e with bank := keep, posted := e.posted ++ [⟨2, a, data, t.txn, pos⟩] }
    t.sendReq h.part 0x14 (tabGet (fun _ => 0) (s.site h.site).front.rwin h.d.window % 4096) h.site h.eng h.d.window
      (leBytes 8 (2 ^ 63 + a / 2 ^ 14 % 2 ^ 13 * 2 ^ 20 + a % 2 ^ 14 * 64) ++ leBytes (64 * k) (wordsNat data))

/-- The words that an engine still has to send through its remote window go on (R216). -/
def State.remoteMore (s : State) (h : Hatch) : State :=
  match (s.engine h.site h.eng).bank with
  | some b =>
    if h.d.mode = 1 ∧ h.d.space = 2 ∧ (s.site h.site).mu.credits.getD h.d.window 0 ≠ 0 then
      (s.remoteWords h b.pos (b.words.map (fun w => (w.1, w.2.getD 0)))).progressBy h.part h.site 0
    else s
  | none => s

-- Assumption log 62 (DEDUCED).
/-- Stores the words of an operand at its address by SPACE; none where the stream has to wait. A REMOTE stream reaches the bank
aperture where BASE names it (R203). -/
def State.storeOp (s : State) (h : Hatch) (pos addr : Nat) (ws : Words) : Option State :=
  let e := s.engine h.site h.eng
  if h.d.space = 0 then
    let l := ws.zipIdx.map (fun w => (addr + w.2, some w.1))
    let t := s.setEngine h.site h.eng { e with bank := some ⟨true, pos, ⟨0, false, 0, []⟩, l⟩ }
    some (t.setMu h.site { (t.site h.site).mu with reqs := (t.site h.site).mu.reqs ++ bankReqs h l })
  else if h.d.space = 1 then
    match s.place h.part (addr * 64) with
    | .atomic => match ws with
      | [x] => s.atomicWord h pos x
      | _ => ws.foldlM (fun t x => t.atomicWord h pos x) s
    | .coll off => some (((ws.zipIdx.foldl (fun t w => t.collWrite h.part h.site (off + 64 * w.2) w.1) s)).storedAt h pos)
    | _ => some (s.setEngine h.site h.eng { e with posted := e.posted ++ [⟨0, addr * 64, ws, 0, pos⟩] })
  else if bitOf e.base 37 then
    if (s.site h.site).mu.credits.getD h.d.window 0 = 0 then none
    else some (s.remoteWords h pos (ws.zipIdx.map (fun w => (addr + w.2, w.1))))
  else
    let t := s.setEngine h.site h.eng { e with posted := e.posted ++ [⟨1, addr * 64, ws, s.txn, pos⟩] }
    some (t.sendReq h.part 0x12 (tabGet (fun _ => 0) (s.site h.site).front.rwin h.d.window % 4096) h.site h.eng h.d.window
      (leBytes 8 (addr * 64) ++ leBytes (64 * ws.length) (wordsNat ws)))

-- Assumption log 61 (DEDUCED), 202 (DEDUCED), 203 (DESIGN CHOICE).
/-- WRITE_STREAM_OPERAND: a WRITE stream takes the operand at the head of its slot and stores it at the position that its
iteration gives; other contexts and positions beyond the nest are orphans, and a wrong length is a mismatch (R210). The
waits of its iterations come first (R214). What becomes of an operand beyond the current pass of a persistent stream the manual leaves open
(R210 speaks of the last position of the nest): the model holds it in its slot until the next pass. -/
def execWriteStreamOperand (site e : Nat) (s : State) : Host.Outcome State Fault Refusal :=
  match s.hatch site e with
  | none => .next s
  | some h =>
    let slot := h.d.port - 4
    let s := s.remoteMore h
    let x := s.engine site e
    match headOperand ((s.site site).su.outFifo slot) with
    | none => .next s
    | some (o, rest) =>
      if h.d.mode ≠ 1 ∨ x.bank.isSome ∨ x.ended then .next s
      else
        let took : State → State := fun t =>
          (t.setSu site ((t.site site).su.take slot rest)).progressBy h.part site (xfersOf o).length
        if tagCtx o.tag ≠ h.d.context then .next ((took s).orphan h.part site)
        else if o.eos then .next (((took s).setEngine site e { x with ended := true }).endWrite h)
        else
          let pos := writePos x.low (tagIter o.tag)
          let total := passTotal h.cs
          if pos ≥ x.before + total then
            (if h.d.persist && decide (0 < total) then .next s else .next ((took s).orphan h.part site))
          else match s.syncWait h pos with
            | (t, false) => .next t
            | (t, true) =>
              let n := h.d.len
              let addr := nestAddr h.d x.base (nestIx h.cs (pos - x.before))
              match t.storeOp h pos addr (fitWords n o.words) with
              | none => .next t
              | some u =>
                let u := took u
                .next (if o.words.length = n then u else
                  (u.trace h.part site 1 0x18 (slot % 4 * 2 ^ 14 + bit01 (decide (n < o.words.length)) * 2 ^ 16)).plateDefect
                    h.part site 4)

/-- The append unit writes bytes at a partition address; fewer than a line it first merges into the line that it reads, whose
uncorrectable codeword fails the step (R200, R370, R372). -/
def State.mergeWrite (s : State) (p site a : Nat) (bs : List Byte) : State :=
  if a % 64 = 0 ∧ bs.length % 64 = 0 then (s.writePart p site a bs).1
  else
    let line := a / 64 * 64
    let r := s.readPart p site 0 1 line
    match r.2.ue with
    | some c => r.1.ueAbort p c
    | none => (r.1.writePart p site line (r.2.data.take (a % 64) ++ bs ++ r.2.data.drop (a % 64 + bs.length))).1

/-- HBM accepts the oldest write of the append unit; with the last one of an operand its slot counts as written (R304, R308). -/
def State.appendLanded (s : State) (p site : Nat) (w : AppendWrite) (rest : List AppendWrite) : State :=
  let t := (s.setMu site { (s.site site).mu with appends := rest }).mergeWrite p site w.addr w.data
  let t := match (t.part p).firing, w.key with
    | some x, some k => t.setPart p { t.part p with firing := some { x with landed := x.landed ++ [k] } }
    | _, _ => t
  (t.progressBy p site 0).muRest p site

-- Assumption log 58 (DEDUCED), 179 (DEDUCED).
/-- HBM_WRITE_ACKNOWLEDGE: HBM accepts the oldest posted write of an engine, or for number 4 the oldest one of the
append unit, which then counts for the drain (R228, R308). A page-tile that is out and a memory link that is down keep it waiting
(R30, R429). -/
def execHbmWriteAcknowledge (site e : Nat) (s : State) : Host.Outcome State Fault Refusal :=
  if e = 4 then
    match s.worksFor site, (s.site site).mu.appends with
    | some p, w :: t => if s.linked p site 1 w.addr then .next (s.appendLanded p site w t) else .next s
    | _, _ => .next s
  else match s.hatch site e with
    | none => .next s
    | some h =>
      let x := s.engine site e
      match x.posted.find? (fun w => w.kind == 0) with
      | none => .next s
      | some w =>
        if !s.reachable h.part site w.data.length w.addr then .next s
        else
          let left := x.posted.erase w
          let t := s.setEngine site e { x with posted := left }
          let r := t.writePart h.part site w.addr (leBytes (64 * w.data.length) (wordsNat w.data))
          if h.d.mode = 2 then .next ((r.1.progressBy h.part site 0).queueSend h)
          else .next (((if left.any (fun v => v.pos == w.pos) then r.1 else r.1.storedAt h w.pos).progressBy h.part site 0).endWrite h)

/-! ### Appends (R308, R311) -/

/-- The append site's unit: the site is one of the front plate's APPEND_SITES (R308). -/
def State.isAppendSite (s : State) (p site : Nat) : Bool :=
  match (s.part p).front with
  | some pl => match s.resident pl.edition with
    | some e => (e.appendSites pl.plate).contains site
    | none => false
  | none => false

/-- What an append writes in its page: the data words, and the two scale bytes of its slot in an MX page (R297). -/
def State.appendWrites (s : State) (p page fmt kv r slots key : Nat) (ws : Words) : List AppendWrite :=
  let half := s.poolAddr p page + 32768 * kv
  let n := pageWords fmt
  let a := half + 64 * (r * n)
  let data := leBytes (64 * n) (wordsNat (ws.take n))
  if fmt ≥ 5 then [⟨a, data, none⟩, ⟨half + 64 * (32 * slots) + 2 * r, leBytes 2 (ws.getD n 0).toNat, some key⟩]
  else [⟨a, data, some key⟩]

-- Assumption log 51 (DEDUCED), 177 (DEDUCED).
/-- APPEND_ARRIVAL: the append unit takes a header and its operand from local output slot 7 and writes the operand into
its page, or discards it (R311). Its stream is open from its first operand in a section to its marker (R105, R308). -/
def execAppendArrival (site : Nat) (s : State) : Host.Outcome State Fault Refusal :=
  match s.worksFor site, headOperand ((s.site site).su.outFifo 7) with
  | some p, some (o, rest) =>
    if !isMu site || !s.isAppendSite p site || !(s.site site).mu.appends.isEmpty then .next s
    else
      let t := ((s.setSu site ((s.site site).su.take 7 rest)).muWake p site).progressBy p site (xfersOf o).length
      let t := t.setMu site { (t.site site).mu with appending := !o.eos }
      if o.eos then .next (t.muRest p site)
      else match (t.part p).firing with
        | none => .next t
        | some x => match t.resident x.edition with
          | none => .next t
          | some ed =>
            let hd := (o.words.getD 0 0).toNat
            let slot := hd % 2 ^ 14
            let layer := hd / 2 ^ 16 % 256
            let head := hd / 2 ^ 24 % 128
            let kv := hd / 2 ^ 31 % 2
            let chunk := hd / 2 ^ 32 % 256
            let bad := (t.bump .serveAppendDefects [p] 1).orphan p site
            match recOf x slot with
            | none => .next bad
            | some (r, off) =>
              if r.excluded then .next (t.bump .serveAppendDiscards [p] 1)
              else if layer ≥ ed.layers ∨ head ≥ ed.heads ∨ chunk ≥ ed.chunks then .next bad
              else
                let pos := r.pos + off
                let k := appendKey slot layer kv (head * ed.chunks + chunk)
                if x.appended.contains k then .next bad
                else match (t.framePages p r.seq pos)[layer]? with
                  | none => .next (t.bump .serveAppendDiscards [p] 1)
                  | some pg =>
                    let h := tabGet (fun _ => PageHdr.reset) (t.part p).pages pg
                    let rr := (pos % 32 * ed.heads + head) * ed.chunks + chunk
                    let ws := t.appendWrites p pg h.fmt kv rr ed.kvSlots k (o.words.drop 1)
                    let pages := tabSet (fun _ => PageHdr.reset) (t.part p).pages pg { h with age := t.pnow p / 2 ^ 24 % 2 ^ 16 }
                    let u := t.setPart p { t.part p with
                      pages := pages, firing := some { x with appended := x.appended ++ [k] } }
                    .next (u.setMu site { (u.site site).mu with appends := ws })
  | _, _ => .next s

/-! ### Remote memory requests and responses (R463 to R465) -/

/-- Consecutive words of a memory unit as bytes. -/
def State.muBytes (s : State) (site w n : Nat) : List Byte :=
  (List.range n).flatMap (fun i => leBytes 64 ((s.site site).mu.word (w + i)).toNat)

/-- A hub access of n lines has to wait: a page-tile is out in host memory, or the link to the HBM's die is down (R18, R29, R429). -/
def State.hubBlocked (s : State) (p n a : Nat) : Bool :=
  (s.absent p n a).isSome || [a, a + 64 * (n - 1)].any (fun b => match s.place p b with
    | .hbm m => !s.dieUp (m / 2 ^ 39 % 8)
    | _ => false)

-- Assumption log 68 (DEDUCED).
/-- A request from another module has to wait as a hub path does, behind the requests of its port that wait already (R465). -/
def State.mustWait (s : State) (q : Nat) (h : Hdr) (a n : Nat) : Bool :=
  match s.accept h with
  | .ok p => s.hubMsgs.any (fun e => e.1 == q) || (!a.testBit 63 && s.hubBlocked p n (a % 2 ^ 44))
  | _ => false

/-- Keeps a request that has to wait. -/
def State.holdMsg (s : State) (q typ : Nat) (h : Hdr) (body : List Byte) : State :=
  { s with hubMsgs := s.hubMsgs ++ [(q, ⟨typ, h, body⟩)] }

-- Assumption log 64 (DEDUCED), 68 (DEDUCED), 210 (DESIGN CHOICE).
/-- Serves an RD_REQ, or holds it. Which requester of R194 reads the banks for one that names a bank the manual leaves open: the
model reads the words outside the grant order. -/
def State.rdReq (s : State) (q : Nat) (h : Hdr) (body : List Byte) : State :=
  let a := leAt body 0 8
  let n := leAt body 8 2 / 64
  if s.mustWait q h a n then s.holdMsg q 0x10 h body
  else s.receiveReq q 0x10 0x11 h body (fun t p =>
    if a.testBit 63 then
      let site := bitsOf a 32 20
      if t.ownMu p site then t.send p 0x11 h.src false 0 h.txn (t.muBytes site (bitsOf a 19 6) n)
      else t.send p 0x11 h.src false 2 h.txn []
    else
      let r := t.readPart p 0x1FFF 0 n (a % 2 ^ 44)
      match r.2.ue, r.2.denied with
      | some _, _ => r.1.send p 0x11 h.src false 1 h.txn []
      | none, some _ => r.1.send p 0x11 h.src false 2 h.txn []
      | none, none => r.1.send p 0x11 h.src false 0 h.txn r.2.data)

/-- RD_REQ is performed as a hub path acting for the partition and answered with RD_RSP (R465). -/
def execRdReq (port : Nat) (h : Hdr) (body : List Byte) (s : State) : Host.Outcome State Fault Refusal := .next (s.rdReq port h body)

-- Assumption log 64 (DEDUCED).
/-- RD_RSP delivers remote read data to the requesting hatch, for all the operands that the request covers (R208, R464, R465). -/
def execRdRsp (port : Nat) (h : Hdr) (body : List Byte) (s : State) : Host.Outcome State Fault Refusal :=
  .next (s.receive port 0x11 h body (fun t p =>
    match t.takeReq p 0x10 h.src h.txn with
    | (u, none) => u
    | (u, some r) =>
      let u := u.statusEffect p r.site h.status r.info h.src
      match u.hatch r.site r.engine with
      | none => u
      | some x =>
        let n := match (u.engine r.site r.engine).reads.find? (fun q => q.txn == some h.txn) with
          | some q => q.len / 64
          | none => x.d.len
        let data := if h.status = 0 then body else List.replicate (64 * n) 0
        u.readBack x (fun q => q.txn == some h.txn) n 0 (bytesWords n data)))

-- Assumption log 68 (DEDUCED).
/-- Serves a WR_REQ, or holds it. -/
def State.wrReq (s : State) (q : Nat) (h : Hdr) (body : List Byte) : State :=
  let a := leAt body 0 8
  if s.mustWait q h a ((body.length - 8) / 64) then s.holdMsg q 0x12 h body
  else s.receiveReq q 0x12 0x13 h body (fun t p =>
    let r := t.writePart p 0x1FFF (a % 2 ^ 44) (body.drop 8)
    r.1.send p 0x13 h.src false (if r.2 then 0 else 2) h.txn [])

/-- WR_REQ writes partition memory as a hub path and is answered with WR_ACK (R465). -/
def execWrReq (port : Nat) (h : Hdr) (body : List Byte) (s : State) : Host.Outcome State Fault Refusal := .next (s.wrReq port h body)

/-- The requests of other modules that wait no longer are served, in order (R29, R429, R465). -/
def State.pumpMsgs (s : State) : State :=
  s.hubMsgs.foldl (fun t e => if e.2.typ = 0x10 then t.rdReq e.1 e.2.hdr e.2.body else t.wrReq e.1 e.2.hdr e.2.body)
    { s with hubMsgs := [] }

/-- A posted write with a transaction has been accepted. -/
def State.acceptWrite (s : State) (r : Request) : State :=
  match s.hatch r.site r.engine with
  | none => s
  | some h =>
    let x := s.engine r.site r.engine
    (s.setEngine r.site r.engine { x with
      posted := x.posted.map (fun w => if w.txn == r.txn && w.kind != 0 then { w with kind := 9 } else w) }).reapWrites h

/-- WR_ACK marks a remote write as accepted (R464, R465). -/
def execWrAck (port : Nat) (h : Hdr) (body : List Byte) (s : State) : Host.Outcome State Fault Refusal :=
  .next (s.receive port 0x13 h body (fun t p =>
    match t.takeReq p 0x12 h.src h.txn with
    | (u, none) => u
    | (u, some r) => (u.statusEffect p r.site h.status 0 h.src).acceptWrite r))

/-! ### Remote bank writes (R215 to R217, R465) -/

-- Assumption log 70 (DEDUCED).
/-- A word outside every receive window (R217): discarded, and the step fails in every mode. -/
def State.creditOutside (s : State) (p site src : Nat) : State :=
  let t := s.bump .siteCreditViol [site] 1
  let t := match (t.part p).firing with
    | some x => if x.proof then t.proofHit p site 2 else t
    | none => t
  t.abortRun p Status.creditViolation (BitVec.ofNat 64 (site % 8192 + src % 4096 * 2 ^ 16))

/-- A word that meets a free count of zero (R217): held and counted, a defect, and in proof mode CREDIT_VIOLATION. -/
def State.creditHeld (s : State) (p site src : Nat) : State :=
  let t := s.bump .siteCreditViol [site] 1
  match (t.part p).firing with
  | some x => if x.proof then
      (t.proofHit p site 1).abortRun p Status.creditViolation (BitVec.ofNat 64 (site % 8192 + src % 4096 * 2 ^ 16))
    else t.plateDefect p site 1
  | none => t

/-- The words of a bank write, with their word addresses. -/
def bankWords (w : Nat) : Nat → List Byte → List (Nat × Line)
  | 0, _ => []
  | n + 1, bs => if bs.isEmpty then [] else (w, BitVec.ofNat 512 (leNat (bs.take 64))) :: bankWords (w + 1) n (bs.drop 64)

-- Assumption log 70 (DEDUCED).
/-- The words of a remote bank write that lie in a receive window join the site's held writes, and go to their banks as far as their
windows and the banks' queues have room; a word that meets a free count of zero is counted (R216, R217). -/
def State.holdWords (s : State) (p site : Nat) (h : HeldWrite) : State :=
  let t := (s.setMu site { (s.site site).mu with held := (s.site site).mu.held ++ [h] }).pumpHeld site
  let wait := match (t.site site).mu.held.getLast? with
    | some q => q.words
    | none => []
  let t := (wait.filter (fun w => match t.windowOf site w.1 with
    | some win => (t.site site).mu.freeWords.getD win 0 == 0
    | none => false)).foldl (fun u _ => u.creditHeld p site h.src) t
  (h.words.take (h.words.length - wait.length)).foldl (fun u w => u.grantAlone p site (w.1 % 16) 8) t

-- Assumption log 70 (DEDUCED), 178 (DEDUCED).
/-- BANK_WR: each word takes a free word of its receive window, is written by the atomic unit and signals FULL, and the message is
acknowledged once its words are written; a word without free space is held, and the message keeps its receive buffers meanwhile; a word outside every window is discarded by the
credit rules (R195, R216, R217, R220, R465). -/
def execBankWr (port : Nat) (h : Hdr) (body : List Byte) (s : State) : Host.Outcome State Fault Refusal :=
  .next (s.receiveKept port 0x14 0x15 h body (fun t p =>
    let a := leAt body 0 8
    let site := bitsOf a 32 20
    let ws := bankWords (bitsOf a 19 6) 64 (body.drop 8)
    let inside : Nat × Line → Bool := fun w => t.ownMu p site && (t.windowOf site w.1).isSome
    let good := ws.filter inside
    let bad := ws.filter (fun w => !inside w)
    let u := bad.foldl (fun v _ => v.creditOutside p site h.src) t
    match good with
    | [] => (u.freeRx port 0x14 body.length).bankAck p h.src 3 h.txn site 0 0 0
    | w :: _ => u.holdWords p site ⟨port, body.length, p, h.src, h.txn, (t.windowOf site w.1).getD 0, good.length, good.length,
        if bad.isEmpty then 0 else 3, good⟩))

-- Assumption log 67 (DEDUCED).
/-- The site and number of the remote window that writes a receive window of a module's site. -/
def State.senderWindow (s : State) (p src site win : Nat) : Option (Nat × Nat) :=
  (s.sitesOf p).findSome? (fun i =>
    if isMu i then
      firstBelow 4 (fun n =>
        let v := tabGet (fun _ => 0) (s.site i).front.rwin n
        bitOf v 15 && bitsOf v 11 0 == src && bitsOf v 17 16 == win &&
          (s.site i).front.descs.any (fun d =>
            let d : Desc := d.2.toNat
            d.space == 2 && d.window == n && bitOf d.base 37 && bitsOf d.base 26 14 == site)) |>.map (fun n => (i, n))
    else none)

-- Assumption log 67 (DEDUCED).
/-- BANK_ACK marks words accepted and returns credits to the sender's remote window (R216, R464, R465). -/
def execBankAck (port : Nat) (h : Hdr) (body : List Byte) (s : State) : Host.Outcome State Fault Refusal :=
  .next (s.receive port 0x15 h body (fun t p =>
    let site := leAt body 0 2
    let credits := leAt body 8 4
    let t := match t.takeReq p 0x14 h.src h.txn with
      | (u, none) => u
      | (u, some r) => (u.statusEffect p (if h.status = 3 then site else r.site) h.status 0 (t.coord p)).acceptWrite r
    if credits = 0 then t
    else match t.senderWindow p h.src site (leAt body 2 1) with
      | none => t
      | some (i, n) =>
        let m := (t.site i).mu
        let u := t.setMu i { m with credits := m.credits.set n (m.credits.getD n 0 + credits) }
        (List.range 4).foldl (fun v e => match v.hatch i e with
          | some x => if x.d.window = n then v.remoteMore x else v
          | none => v) u))

/-! ### Atomics by message (R219, R220, R464, R466) -/

/-- ATOM_REQ of one operation: it joins the queue of the word's home bank and is performed when the bank is granted, at once where no
other request waits there, or it is refused by status. A full queue holds the message (R194, R220). -/
def State.atomReq (s : State) (kind port : Nat) (h : Hdr) (body : List Byte) : State :=
  let a := leAt body 0 8
  let site := bitsOf a 32 20
  let op : Nat → AtomOp := fun p =>
    ⟨kind, bitsOf a 19 0 % 786432, leAt body 16 8, leAt body 24 8, 2, p, h.src, h.txn, 0, false, 0⟩
  if leAt body 8 1 ≠ kind ∨ ((s.site site).mu.atomQueue ((op 0).addr / 64 % 16)).length ≥ 16 then s
  else s.receiveReq port 0x16 0x17 h body (fun t p =>
    if !a.testBit 63 then t.send p 0x17 h.src false 4 h.txn []
    else if !t.ownMu p site then t.send p 0x17 h.src false 2 h.txn []
    else match t.queueAtom site (op p) with
      | some u => u.grantAlone p site ((op p).addr / 64 % 16) 8
      | none => t)

/-- ATOM_ADD: 64-bit integer add, wrapping (R219). -/
def execAtomAdd (port : Nat) (h : Hdr) (body : List Byte) (s : State) : Host.Outcome State Fault Refusal :=
  .next (s.atomReq 0 port h body)

/-- ATOM_MAX: unsigned maximum (R219). -/
def execAtomMax (port : Nat) (h : Hdr) (body : List Byte) (s : State) : Host.Outcome State Fault Refusal :=
  .next (s.atomReq 1 port h body)

/-- ATOM_MIN: unsigned minimum (R219). -/
def execAtomMin (port : Nat) (h : Hdr) (body : List Byte) (s : State) : Host.Outcome State Fault Refusal :=
  .next (s.atomReq 2 port h body)

/-- ATOM_AND: bitwise (R219). -/
def execAtomAnd (port : Nat) (h : Hdr) (body : List Byte) (s : State) : Host.Outcome State Fault Refusal :=
  .next (s.atomReq 3 port h body)

/-- ATOM_OR: bitwise (R219). -/
def execAtomOr (port : Nat) (h : Hdr) (body : List Byte) (s : State) : Host.Outcome State Fault Refusal :=
  .next (s.atomReq 4 port h body)

/-- ATOM_SWAP: stores the operand (R219). -/
def execAtomSwap (port : Nat) (h : Hdr) (body : List Byte) (s : State) : Host.Outcome State Fault Refusal :=
  .next (s.atomReq 5 port h body)

/-- ATOM_CAS: stores the new value if the word equals the compare value (R219). -/
def execAtomCas (port : Nat) (h : Hdr) (body : List Byte) (s : State) : Host.Outcome State Fault Refusal :=
  .next (s.atomReq 6 port h body)

/-- ATOM_FADD: FP32 add, round to nearest even (R172, R219). -/
def execAtomFadd (port : Nat) (h : Hdr) (body : List Byte) (s : State) : Host.Outcome State Fault Refusal :=
  .next (s.atomReq 7 port h body)

/-- ATOM_RSP marks an atomic request as accepted; the old value of a stream's request is discarded (R466). -/
def execAtomRsp (port : Nat) (h : Hdr) (body : List Byte) (s : State) : Host.Outcome State Fault Refusal :=
  .next (s.receive port 0x17 h body (fun t p =>
    match t.takeReq p 0x16 h.src h.txn with
    | (u, none) => u
    | (u, some r) => (u.statusEffect p r.site h.status 0 h.src).acceptWrite r))

/-! ### The stall watch (R107, R108) -/

/-- The stall watch of a partition is armed: its step fires, or PLATE_DEFECT took it at this instant (R109), and neither park nor the
brake at zero rate suspends it (R107, R512). -/
def State.watchArmed (s : State) (p : Nat) : Bool :=
  (match (s.part p).firing with
   | some x => (s.phase p == 1 || (s.part p).hold.isSome) && x.takes Status.fabricStall (s.pnow p)
   | none => false) &&
  decide (s.powerState < 2) && !(s.power.zeroRate && s.powerState == 1)

-- Assumption log 180 (DESIGN CHOICE).
/-- STALL_WATCH_EXPIRE: no unit of a partition has made progress for the plate's stall limit; the step aborts with
FABRIC_STALL, and a record names the site whose stall began first with its cause (R107, R108). The manual leaves open which site is
named where no unit of the partition is stalled (the model names site 0 and its CAUSE), and which of two stalls of the same first
stamp (the model names the lower site index). -/
def execStallWatchExpire (p : Nat) (s : State) : Host.Outcome State Fault Refusal :=
  match (s.part p).firing, (s.part p).front with
  | some x, some pl =>
    let limit := if pl.stall = 0 then 2 ^ 24 else pl.stall
    if s.watchArmed p && decide ((s.part p).progress + limit ≤ s.pnow p) then
      let site := (if x.outcome.isSome then x.stuck else s.firstStall p).getD 0
      let cause := s.fv .siteStateCause [site]
      let rec_ := payloadOf [(0, 2, site), (2, 1, cause), (4, 2, x.entry.idx), (8, 8, (s.rv .siteStallTs [site]).toNat)]
      let t := s.abortRun p Status.fabricStall (BitVec.ofNat 64 (site + cause * 2 ^ 16))
      .next (t.bbWriteAt (some p) 0x20 2 rec_ (whereSite site))
    else .next s
  | _, _ => .next s

end Sys2Proof.Machine
end

