-- ==== Sys2Proof/Machine/Plates.lean ====
section
/-! DEFINITION. Plates at run time: loads, flips, section switches and drains (R225 to R257). -/

namespace Sys2Proof.Machine

open Sys2Proof

/-! ### What a step still needs (R242) -/

/-- The rows of a step that have not been entered yet. -/
def Step.laterRows (x : Step) : List (Nat × Nat) :=
  match x.row with
  | none => x.rows
  | some r => x.rows.drop (r + 1)

/-- The row that a step enters next. -/
def Step.nextRow (x : Step) : Option (Nat × Nat) := x.laterRows.head?

/-- The index of the row that a step enters next. -/
def Step.nextIndex (x : Step) : Nat :=
  match x.row with
  | none => 0
  | some r => r + 1

/-- A store holds a plate of an edition. -/
def holds (st : Option Plate) (edition plate : Nat) : Bool :=
  match st with
  | some q => q.edition == edition && q.plate == plate
  | none => false

-- Assumption log 76 (DEDUCED).
/-- Shows the stores in PLATE_STATE and PLATE_EDITION (R256). -/
def State.showPlates (s : State) (p : Nat) : State :=
  let x := s.part p
  let fr := x.front.getD ⟨0, 0, 0, [], []⟩
  let bk := x.back.getD ⟨0, 0, 0, [], []⟩
  let t := (s.setf .partPlateStateFrontValid [p] (bit01 x.front.isSome)).setf .partPlateStateFrontPlate [p] fr.plate
  let t := (t.setf .partPlateStateBackValid [p] (bit01 x.back.isSome)).setf .partPlateStateBackPlate [p] bk.plate
  let t := t.setf .partPlateStateLoading [p] (bit01 x.load.isSome)
  (t.setf .partPlateEditionFront [p] fr.edition).setf .partPlateEditionBack [p] bk.edition

/-- PHASE of PLATE_STATE: 0 IDLE, 1 FIRING, 2 BETWEEN, 3 ENTRY (R256). -/
def State.setPhase (s : State) (p n : Nat) : State := s.setf .partPlateStatePhase [p] n

/-! ### Loads (R242 to R245) -/

/-- What names a step while a load for it is in progress: its ledger index and the time of its admission. -/
def Step.key (x : Step) : Nat × Nat := (x.entry.idx, x.start)

/-- The load that the partition needs now: edition, plate, and the step that asks for it. -/
def State.loadWanted (s : State) (p : Nat) : Option (Nat × Nat × (Nat × Nat)) :=
  let q := s.part p
  let neither : Nat → Nat → Bool := fun e n => !holds q.front e n && !holds q.back e n
  let run : Option Step := q.firing.filter (fun x => x.outcome.isNone)
  let later := (run.map (fun x => x.laterRows.map (·.1))).getD []
  let ed := (run.map (·.edition)).getD 0
  let key := (run.map (·.key)).getD (0, 0)
  if q.load.isSome || later.any (fun n => holds q.back ed n) then none
  else match later.find? (fun n => neither ed n) with
    | some n => some (ed, n, key)
    | none => match q.admitted with
      | some y => match y.outcome, y.rows.head? with
        | none, some r => if neither y.edition r.1 then some (y.edition, r.1, y.key) else none
        | _, _ => none
      | none => none

-- Assumption log 75 (DEDUCED).
/-- The recorded refusal stands against a plate (R245). -/
def State.refused (s : State) (p edition plate : Nat) : Bool :=
  s.fv .partLoadRefuseValid [p] == 1 && s.fv .partLoadRefusePlate [p] == plate &&
    s.fv .partRefuseEditionEdition [p] == edition

-- Assumption log 75 (DEDUCED).
/-- Ends the step that a load was for without firing it, and no other step (R245). -/
def State.endLoadStep (s : State) (p : Nat) (key : Nat × Nat) (code : Nat) (detail : Word) : State :=
  if (s.part p).firing.any (fun x => x.key == key) then s.abortRun p code detail
  else if (s.part p).admitted.any (fun x => x.key == key) then
    let t := s.abortAdmitted p code detail
    if s.spans p then t.sendAbort p key.1 code detail else t
  else s

-- Assumption log 182 (DEDUCED).
/-- PLATE_LOAD_START (R242, R245): starts the load that a later row of the running step or the first row of the next step
needs; a plate whose refusal stands completes its step at once with PLATE_DEFECT. The load waits while a die of the partition is
not reached by its link (R18, R29). -/
def execPlateLoadStart (p : Nat) (s : State) : Host.Outcome State Fault Refusal :=
  match s.loadWanted p with
  | none => .next s
  | some (ed, n, key) =>
    if s.refused p ed n then .next (s.endLoadStep p key Status.plateDefect 3)
    else if !s.diesUp p then .next s
    else
      .next ((s.setPart p { s.part p with back := none, load := some ⟨ed, n, key, s.pnow p⟩ }).showPlates p)

/-- The codewords of an image, as edition addresses: the header region and the die regions (R231, R244). -/
def imageWords (rd : Reader) (base : Nat) (dies : List Nat) : List Nat :=
  (List.range 256).map (fun i => base + 64 * i) ++
    dies.flatMap (fun k =>
      let d := dieEntry rd k
      (List.range (ceilDiv d.2.1 64)).map (fun i => imageAddr base d.1 + 64 * i))

/-- Reads the codewords of an image through the tile cache (R244, R376): the state and the lowest edition address of an
uncorrectable codeword read. `last` is the tile of the word before. -/
def State.readImage (s : State) (p : Nat) (e : Edition) (last : Nat) : List Nat → State × Option Nat
  | [] => (s, none)
  | a :: t => match e.place a with
    | none => s.readImage p e last t
    | some m =>
      let r := s.sharedRead p 1 m (m / 4096 != last)
      let q := r.1.readImage p e (m / 4096) t
      match r.2.map (fun c => a / 65536 * 65536 + c % 65536), q.2 with
      | some x, some y => (q.1, some (min x y))
      | some x, none => (q.1, some x)
      | none, y => (q.1, y)

/-- What the checks of a partition's load rest on. -/
def State.loadEnv (s : State) (p : Nat) (l : Load) (e : Edition) : LoadEnv :=
  { edition := l.edition, plate := l.plate, plates := e.plates, rect := s.rect p,
    reserve := s.fa .partPlateCtlSpillRsv [p],
    sections := (List.range e.plates).map (fun n => imgSections (s.reader e (e.imageBase n))),
    kvAllow := (List.range 16).filter (fun c => bitOf (e.geo 8 2) c),
    offline := (rectSites (s.rect p)).filter (fun i => s.fa .siteCtlOffline [i] == 1),
    members := s.members p,
    held := (e.pages.filter (fun x => x.2 / 2 ^ 23 == x.1 / 2 ^ 23)).map (·.1),
    broken := (rectSites (s.rect p)).flatMap (fun i => ((List.range 4).filter (fun d => !s.switchLink i d)).map (4 * i + ·)) }

/-- Records the first refusal (R245, R256). -/
def State.recordRefusal (s : State) (p : Nat) (l : Load) (f : Nat × Nat × Nat × Nat) : State :=
  if s.fv .partLoadRefuseValid [p] = 1 then s
  else
    let t := (s.setf .partLoadRefuseValid [p] 1).setf .partLoadRefuseKind [p] f.1
    let t := (t.setf .partLoadRefusePlate [p] l.plate).setf .partLoadRefuseCheck [p] f.2.1
    let t := (t.setf .partLoadRefuseIndex [p] f.2.2.1).setf .partLoadRefuseSite [p] f.2.2.2
    t.setf .partRefuseEditionEdition [p] l.edition

/-- The plate-wide part of an image (R232 to R236). -/
def plateOf (rd : Reader) (l : Load) : Plate :=
  ⟨l.edition, l.plate, rd 16 8, (List.range (min 64 (imgSections rd))).map (sectionAt rd),
    (List.range 8).map (fun k => (dieEntry rd k).2.2.1)⟩

/-- The plate of the next row is on a store: the step is in ENTRY, else BETWEEN (R256). -/
def State.betweenPhase (s : State) (p : Nat) (x : Step) : Nat :=
  match x.nextRow with
  | some (n, _) => if holds (s.part p).front x.edition n || holds (s.part p).back x.edition n then 3 else 2
  | none => 0

/-- PHASE while the next section of the firing step has not been entered (R256). -/
def State.showBetween (s : State) (p : Nat) : State :=
  match (s.part p).firing with
  | some x => if s.phase p = 1 ∨ x.outcome.isSome ∨ !x.delivered then s else s.setPhase p (s.betweenPhase p x)
  | none => s

/-- A plate enters the back store of every site of the partition (R225), which a step that waited for it sees in PHASE (R256). -/
def State.fillBack (s : State) (p : Nat) (rd : Reader) (l : Load) : State :=
  let t := (rectSites (s.rect p)).foldl (fun u i => u.setSite i { u.site i with back := siteImage rd i }) s
  let d := (t.pnow p - l.start) % 2 ^ 32
  let t := t.setPart p { t.part p with back := some (plateOf rd l), load := none }
  (((t.bump .partPlateLoads [p] 1).setf .partPlateTimesLoad [p] d).showPlates p).showBetween p

-- Assumption log 182 (DEDUCED).
/-- PLATE_LOAD_COMPLETE (R242 to R245): the load has read its last die region: the plate becomes valid in the back store,
or the first failure refuses it. A die whose link is down holds the load (R29). -/
def execPlateLoadComplete (p : Nat) (s : State) : Host.Outcome State Fault Refusal :=
  match (s.part p).load with
  | none => .next s
  | some l => match s.resident l.edition with
    | none => .next s
    | some e =>
      if !s.diesUp p then .next s
      else
      let base := e.imageBase l.plate
      let rd := s.reader e base
      let ws := imageWords rd base (diesOf (s.rect p))
      let q := s.readImage p e (2 ^ 30) ws
      let t := q.1
      let refuse : Nat × Nat × Nat × Nat → Nat → Word → State := fun f code detail =>
        (((t.setPart p { t.part p with load := none }).showPlates p).recordRefusal p l f).endLoadStep p l.step code detail
      match q.2 with
      | some a => .next (refuse (4, 1, 0, 0) Status.hbmUncorrectable (BitVec.ofNat 64 (0x80000000000 + a)))
      | none => match loadFailure rd base (s.loadEnv p l e) with
        | some f => .next (refuse f Status.plateDefect 3)
        | none => .next (t.fillBack p rd l)

/-! ### Entering a section (R227 to R230, R246) -/

/-- Data operands of a site that a carry mask does not keep (R230). -/
def State.uncarried (s : State) (carry site : Nat) : Nat :=
  ((s.site site).cu.stores.map (fun l => (l.filter (fun o => !carry.testBit (tagCtx o.tag) && !o.eos)).length)).foldl (· + ·) 0

/-- Discards the waiting operands of the contexts that the entered section does not carry; data operands are orphans
(R230). -/
def State.dropUncarried (s : State) (p carry : Nat) : State :=
  (s.sitesOf p).foldl (fun t i =>
    let c := (t.site i).cu
    let u := t.setCu i { c with stores := c.stores.map (fun l => l.filter (fun o => carry.testBit (tagCtx o.tag))) }
    (List.range (t.uncarried carry i)).foldl (fun v _ => v.orphan p i) u) s

/-- Every semaphore of the partition takes its initial value (R213). -/
def State.initSems (s : State) (p : Nat) : State :=
  (s.sitesOf p).foldl (fun t i =>
    if isMu i then t.setMu i { (t.site i).mu with sems := (t.site i).front.sems, waiters := [] } else t) s

/-- The hatch engines of a memory unit take their entries of a section (R201, R229). -/
def State.takeEntries (s : State) (site section_ : Nat) : State :=
  let x := s.site site
  let es := (List.range 4).map (fun e =>
    let w := tabGet (fun _ => 0) x.front.entries (4 * section_ + e)
    if entryValid w then { Engine.reset with
      entry := w, desc := entryFirst w, active := true, base := (s.descOf site (entryFirst w)).base }
    else Engine.reset)
  s.setMu site { x.mu with engines := es }

/-- A field of the expert map record, at 0x1000 of the manifest (R327, R393). -/
def Edition.emap (e : Edition) (off len : Nat) : Nat := leAt e.manifest (0x1000 + off) len

/-- Routed layers of an edition; none without an expert map (R327, R394). -/
def Edition.rlayers (e : Edition) : Nat := if bitOf (leAt e.manifest 7 1) 0 then e.emap 4 1 + 1 else 0

/-- The valid dispatch sites of a plate, with their numbers (R327). -/
def Edition.dispatchSites (e : Edition) (plate : Nat) : List (Nat × Nat) :=
  if e.rlayers = 0 then [] else
    (List.range 8).filterMap (fun i =>
      let v := e.emap (8 + 16 * plate + 2 * i) 2
      if v.testBit 15 then some (i, v % 8192) else none)

/-- The dispatch sites of the front plate. -/
def State.frontDispatch (s : State) (p : Nat) : List (Nat × Nat) :=
  match (s.part p).front with
  | some pl => match s.resident pl.edition with
    | some e => e.dispatchSites pl.plate
    | none => []
  | none => []

/-- Every dispatch site of the front plate has ended the layer's input (R334). -/
def State.layerEnded (s : State) (p : Nat) : Bool :=
  let l := s.frontDispatch p
  !l.isEmpty && l.all (fun i => (s.part p).disp.ended.contains i.2)

-- Assumption log 26 (DEDUCED).
/-- A unit has something to do in a section that is entered (R105): a memory unit whose engines run or
that the dispatcher still owes operands (R333), a compute unit some of whose
streams have still to deliver their marker. -/
def State.hasWork (s : State) (p site : Nat) : Bool :=
  if isMu site then (s.site site).mu.engines.any (fun e => e.active) || s.dispBusy p site
  else (s.site site).front.trig.any (fun e => trigValid e.2) && !(s.site site).front.streamsIn (s.site site).cu.arrived

/-- The die of a pool page, by its segment. -/
def State.poolDie (s : State) (p pg : Nat) : Option Nat :=
  let tile := s.fa .servePoolBase [p] + pg
  match s.segmentOf p tile with
  | some n => (s.segment p n).map (fun g => g.2.2.1)
  | none => none

/-- The QUEUE descriptors of a site image with an HBM extension that some valid engine entry names, with the pages that their limits
take (R211, R244). -/
def SiteImg.spills (m : SiteImg) (sections : Nat) : List (Nat × Nat) :=
  (List.range 128).filterMap (fun j =>
    let d : Desc := (tabGet (fun _ => 0) m.descs j).toNat
    if d.mode = 2 ∧ d.spill ∧ (entriesOf m sections).any (fun x => entryValid x.2.2 && decide (entryFirst x.2.2 ≤ j) &&
        decide (j ≤ entryLast x.2.2)) then some (j, 4 * (bitsOf d 119 110 + 1)) else none)

/-- Pages of a die's spill reserve go to the extensions of the front plate, in ascending order of site and descriptor (R246, R253). -/
def assignPages : List (Nat × Nat) → List Nat → Tab (List Nat) → Tab (List Nat)
  | [], _, t => t
  | (k, n) :: l, pages, t => assignPages l (pages.drop n) (tabSet (fun _ => []) t k (pages.take n))

/-- The extension pages of the front plate, from the spill reserve of each die (R246, R253). -/
def State.extPages (s : State) (p : Nat) : Tab (List Nat) :=
  let secs := match (s.part p).front with
    | some pl => pl.sections.length
    | none => 0
  (diesOf (s.rect p)).foldl (fun t k =>
    let want := ((s.sitesOf p).filter (fun i => isMu i && dieOf i == k)).flatMap (fun i =>
      ((s.site i).front.spills secs).map (fun d => (128 * i + d.1, d.2)))
    assignPages want ((s.part p).spill.filter (fun pg => s.poolDie p pg == some k)) t) []

/-- Assigns the front plate its extension pages (R246). -/
def State.assignExt (s : State) (p : Nat) : State := s.setPart p { s.part p with extended := some (s.extPages p) }

/-- A unit enters a section: its engines take their entries, the streams whose markers already wait have delivered them, and it has
work where something is left to do (R105, R229). -/
def State.enterUnit (s : State) (sec site : Nat) (p : Nat) : State :=
  let u := s.setCu site { (s.site site).cu with ended := [], arrived := (s.site site).cu.markers }
  let u := if isMu site then u.takeEntries site sec else u
  if u.hasWork p site then u.work p site true else u

-- Assumption log 74 (DEDUCED).
/-- The section of the step's next row is being entered: from this moment the step fires (R227), its shape words are bound, every unit
with something to do has work, and the entry holds the units for some ticks. The first section points the variant window at the
step's groups (R353), sets the semaphores (R213) and assigns the extension pages again where an abort released them (R246). -/
def State.enterSection (s : State) (p ticks : Nat) : State :=
  match (s.part p).firing with
  | none => s
  | some x => match x.outcome, x.nextRow with
    | none, some (_, sec) =>
      let first := x.row.isNone
      let t := if first then s.initSems p else s
      let t := if (t.part p).extended.isNone then t.assignExt p else t
      let x := { (t.part p).firing.getD x with row := some x.nextIndex, mark := t.pnow p }
      let q := t.part p
      let t := t.setPart p { q with
        firing := some x, progress := t.pnow p, hold := some (t.pnow p + ticks)
        window := if first then some (x.edition, (List.range 64).map x.variant) else q.window }
      let t := ((t.setf .partPlateStateRow [p] (x.row.getD 0)).setf .partPlateStateSection [p] sec).setPhase p 3
      (t.sitesOf p).foldl (fun u i => u.enterUnit sec i p) t
    | _, _ => s

/-- The carry mask of a section of a plate. -/
def carryOf (pl : Plate) (sec : Nat) : Nat := (pl.sections.getD sec ⟨0, []⟩).carry

/-- A step of the partition that has its batch, goes on, and is not in a section or an entry now. -/
def State.entering (s : State) (p : Nat) : Option (Step × Nat × Nat) :=
  match (s.part p).firing with
  | none => none
  | some x =>
    if x.outcome.isSome || !x.delivered || s.phase p == 1 || (s.part p).hold.isSome || decide (s.powerState ≥ 2) then none
    else x.nextRow.map (fun r => (x, r.1, r.2))

/-- SECTION_SWITCH (R229): the next row's section of the plate on the front is entered, within 1,600 ticks; the manual leaves their
number open. -/
def execSectionSwitch (p : Nat) (s : State) : Host.Outcome State Fault Refusal :=
  match s.entering p, (s.part p).front with
  | some (x, n, sec), some pl =>
    if holds (some pl) x.edition n then
      .next (((s.dropUncarried p (carryOf pl sec)).fresh).enterSection p (Config.freeNat s.free % 1601))
    else .next s
  | _, _ => .next s

-- Assumption log 45 (DEDUCED).
/-- A fresh seed of one lane's rounding generator (R178); zero is replaced by one. -/
def lfsrSeed (k : Nat) : Nat := if Config.trng k % 2 ^ 32 = 0 then 1 else Config.trng k % 2 ^ 32

/-- The image of a compute unit holds an APPEND stroke (R309). -/
def SiteImg.appends (m : SiteImg) : Bool := m.strokes.any (fun w => Stroke.opcode w.2.toNat == 0xC0)

/-- KSCALE and VSCALE of every layer, as an append table holds them (R293, R309). -/
def Edition.kvScales (e : Edition) : Tab Nat :=
  (List.range e.layers).foldl (fun t l =>
    tabSet (fun _ => 0) (tabSet (fun _ => 0) t (2 * l) (e.geo (48 + l) 1)) (2 * l + 1) (e.geo (304 + l) 1)) []

/-- The page formats that append tables take at a delivery: those of the frames that the records not excluded append to, by token
slot (R309). -/
def State.slotFormats (s : State) (p : Nat) (rs : List Rec) : Tab Nat :=
  rs.foldl (fun t r =>
    if r.excluded then t
    else (List.range r.ntok).foldl (fun u i => match (s.framePages p r.seq (r.pos + i)).head? with
      | some pg => tabSet (fun _ => 0) u (r.slot + i) ((tabGet (fun _ => PageHdr.reset) (s.part p).pages pg)).fmt
      | none => u) t) []

/-- A site after a flip: stores exchanged; issue counts, merge groups, generators, credits, free counts and the append table, with the
formats of the step's delivery, as the new plate starts (R128, R147, R178, R215, R216, R246, R309). -/
def Site.flip (x : Site) (seed : Nat) (fmts scales : Tab Nat) : Site :=
  { x with
    front := x.back
    back := x.front
    cu := { x.cu with issue := [], merge := List.replicate 4 (0, 0),
                      lfsr := (List.range 64).map (fun i => lfsrSeed (seed + i))
                      kvFmts := if x.back.appends then fmts else []
                      kvScales := if x.back.appends then scales else [] }
    mu := { x.mu with
      sems := x.back.sems
      waiters := []
      credits := (List.range 4).map (fun n => bitsOf (tabGet (fun _ => 0) x.back.rwin n) 51 32)
      freeWords := (List.range 4).map (fun n => match recvWindow (tabGet (fun _ => 0) x.back.xwin n) with
        | some (a, b, _) => b + 1 - a
        | none => 0) } }

/-- The plate's owner table enters the active and staged copies of MU_BANK_OWN (R13, R196). -/
def State.setOwners (s : State) (site : Nat) (w : Word) : State :=
  let a := Rg.siteMuBankOwn.at [site]
  s.setRegs { s.regs with act := tabSet rwsReset s.regs.act a w, stg := tabSet rwsReset s.regs.stg a w }

/-- Flips one site, and applies a SITE commit pending there after the owner table (R246). -/
def State.flipSite (fmts scales : Tab Nat) (s : State) (site : Nat) : State :=
  let t := s.setSite site ((s.site site).flip s.free fmts scales)
  let t := { t with free := t.free + 64 }
  let t := if isMu site then t.setOwners site (t.site site).front.owners else t
  let t := t.setv .siteMatchHwm [site] 0
  if t.commitPending .siteCommitStatus [site] then t.commitSite site else t

-- Assumption log 74 (DEDUCED).
/-- Steps 3 to 6 of a flip (R246): waiting operands that the entered section does not carry are discarded, the stores are exchanged
at every site, and the new front plate's extension pages replace those of the previous one. -/
def State.exchange (s : State) (p carry ticks : Nat) : State :=
  let scales := match (s.part p).back with
    | some pl => ((s.resident pl.edition).map Edition.kvScales).getD []
    | none => []
  let fmts := match (s.part p).firing with
    | some x => s.slotFormats p x.records
    | none => []
  let t := s.dropUncarried p carry
  let t := (t.sitesOf p).foldl (State.flipSite fmts scales) t
  let q := t.part p
  let t := ((t.setPart p { q with front := q.back, back := q.front }).showPlates p).assignExt p
  (t.bump .partPlateFlips [p] 1).setf .partPlateTimesFlip [p] ticks

-- Assumption log 183 (DEDUCED).
/-- The step admitted next, where no step fires: a flip to its first row's plate comes before its batch is delivered (R22). -/
def State.flipFirst (s : State) (p : Nat) : Option (Step × Nat × Nat) :=
  match (s.part p).firing, (s.part p).admitted with
  | none, some y =>
    if y.outcome.isSome || (s.part p).hold.isSome || decide (s.powerState ≥ 2) then none
    else y.rows.head?.map (fun r => (y, r.1, r.2))
  | _, _ => none

-- Assumption log 183 (DEDUCED).
/-- The admitted step is the firing one from the start of the flip into its first section, before its batch is delivered (R22, R227). It
keeps the site of the first operand that the flip discards, which counts as a failure only where the guard finds proof mode (R254). -/
def State.fireFirst (s : State) (p carry : Nat) (y : Step) : State :=
  s.setPart p { s.part p with
    firing := some { y with flipOrphan := (s.sitesOf p).find? (fun i => s.uncarried carry i != 0) }, admitted := none }

-- Assumption log 74 (DEDUCED).
/-- PLATE_FLIP (R246): the plate of the next row of the firing step, or of the first row of the step that is to be delivered next, stands
in the back store and comes to the front, and the step enters the section. The duration is at most 2 us; the manual leaves its value
open. -/
def execPlateFlip (p : Nat) (s : State) : Host.Outcome State Fault Refusal :=
  let ticks := Config.freeNat s.free % 32001
  match s.entering p, s.flipFirst p, (s.part p).back with
  | some (x, n, sec), _, some pl =>
    if holds (s.part p).front x.edition n || !holds (some pl) x.edition n then .next s
    else .next ((s.fresh.exchange p (carryOf pl sec) ticks).enterSection p ticks)
  | none, some (y, n, sec), some pl =>
    if holds (s.part p).front y.edition n || !holds (some pl) y.edition n then .next s
    else .next (((s.fireFirst p (carryOf pl sec) y).fresh.exchange p (carryOf pl sec) ticks).enterSection p ticks)
  | _, _, _ => .next s

/-- The end of a switch or flip: the units of a step that fires and has its batch go on, and PHASE shows it (R227, R256). -/
def State.endHold (s : State) (p : Nat) : State :=
  match (s.part p).hold with
  | some t =>
    let u := s.setPart p { s.part p with hold := none }
    match (s.part p).firing with
    | some x =>
      if s.pnow p < t || (x.outcome.isNone && !x.delivered) then s
      else if x.outcome.isNone ∧ x.row.isSome then u.setPhase p 1 else u
    | none => if s.pnow p < t then s else u.setPhase p 0
  | none => s

/-! ### Drains (R228) -/

/-- A switch unit holds no transfer: slot FIFOs and steer buffers are empty. -/
def Su.empty (u : Su) : Bool :=
  u.fifo.isEmpty && u.ufifo.isEmpty &&
    u.steer.all (fun e => e.items.isEmpty && e.pairs.isEmpty && e.outq.isEmpty && e.passing.isNone)

/-- A site has drained (R228). -/
def Site.drained (x : Site) : Bool :=
  x.cu.waiting.isNone && x.su.empty && x.mu.engines.all (fun e => !e.active) && x.mu.atoms.isEmpty && x.mu.appends.isEmpty &&
    !x.mu.appending

/-- The running section of the partition has drained (R228). -/
def State.drained (s : State) (p : Nat) : Bool :=
  (s.sitesOf p).all (fun i => (s.site i).drained) && (s.part p).disp.owed.isEmpty && !s.layerEnded p

-- Assumption log 75 (DEDUCED).
/-- SECTION_DRAIN (R227, R228): every engine, pipeline and queue of the partition is empty. Firing stops, the contribution
to the row's collective rounds closes (R474), and after the last row the step has drained. -/
def execSectionDrain (p : Nat) (s : State) : Host.Outcome State Fault Refusal :=
  match (s.part p).firing with
  | none => .next s
  | some x =>
    if s.phase p = 1 ∧ x.outcome.isNone ∧ s.drained p then
      let t := s.chargeUp p
      let t := (t.sitesOf p).foldl (fun u i => if u.fv .siteStateWork [i] = 1 then u.work p i false else u) t
      let t := t.collClose p (x.row.getD 0)
      let y := (t.part p).firing.getD x
      let t := t.setPart p { t.part p with firing := some { y with
        drained := y.laterRows.isEmpty, ended := if y.laterRows.isEmpty then t.pnow p else y.ended } }
      .next (t.setPhase p (t.betweenPhase p y))
    else .next s

end Sys2Proof.Machine
end

