-- ==== Sys2Proof/Machine/KvPool.lean ====
section
/-! DEFINITION. The page pool: pages, frames, block lists, the prefix directory's references, swapping and zeroing
(R282, R296 to R301, R315 to R322, R433 to R436). -/

namespace Sys2Proof.Machine

open Sys2Proof

/-! ### Headers and references -/

/-- AGE: partition time bits [39:24] (R282, R298). -/
def State.age (s : State) (p : Nat) : Nat := s.pnow p / 2 ^ 24 % 2 ^ 16

/-- The header of a pool page. -/
def Part.hdr (q : Part) (pg : Nat) : PageHdr := tabGet (fun _ => PageHdr.reset) q.pages pg

/-- Stores the header of a pool page. -/
def Part.setHdr (q : Part) (pg : Nat) (h : PageHdr) : Part :=
  { q with pages := tabSet (fun _ => PageHdr.reset) q.pages pg h }

/-- The pages of a frame, by layer (R300). -/
def Part.frame (q : Part) (f : Nat) : List Nat := tabGet (fun _ => []) q.frames f

/-- Takes a reference on a page (R298). -/
def Part.takeRef (age : Nat) (q : Part) (pg : Nat) : Part :=
  q.setHdr pg { q.hdr pg with refs := (q.hdr pg).refs + 1, age := age }

/-- Drops a reference on a page; at zero the page becomes DIRTY and waits to be zeroed (R299, R322). -/
def Part.dropRef (age : Nat) (q : Part) (pg : Nat) : Part :=
  let h := q.hdr pg
  if h.refs ≤ 1 then
    let r := q.setHdr pg { h with refs := 0, state := 1, age := age }
    { r with zeroQ := r.zeroQ ++ [pg] }
  else q.setHdr pg { h with refs := h.refs - 1, age := age }

/-- Frees the frame-table entries whose pages nothing references. -/
def Part.prune (q : Part) : Part :=
  { q with frames := q.frames.filter (fun f => f.2.any (fun pg => (q.hdr pg).refs != 0)) }

-- Assumption log 97 (DESIGN CHOICE).
/-- Takes a reference on every page of a frame. -/
def State.takeFrame (s : State) (p f : Nat) : State :=
  let q := s.part p
  s.setPart p ((q.frame f).foldl (Part.takeRef (s.age p)) q)

/-- Drops a reference on every page of a frame. -/
def State.dropFrame (s : State) (p f : Nat) : State :=
  let q := s.part p
  s.setPart p ((q.frame f).foldl (Part.dropRef (s.age p)) q).prune

/-! ### The pool (R296, R253) -/

/-- Pages that the header array, the frame table and the slot map take. -/
def poolReserve (pages : Nat) : Nat := ceilDiv pages 512 + ceilDiv pages 64 + 2

-- Assumption log 143 (DESIGN CHOICE).
/-- A choice of the pool pages that a spill reserve sets aside: on every die of the partition the highest FREE ones beyond
the pool's own reservation, four to a unit of 256 KiB; none where some die has too few (R253, R257). The manual does not say
which pages they are. -/
def State.chooseSpill (s : State) (p pages units : Nat) (dies : List Nat) : Option (List Nat) :=
  let n := 4 * units
  if n = 0 then some [] else
    let all := (List.range pages).filter (fun pg => decide (poolReserve pages ≤ pg) && ((s.part p).hdr pg).state == 0)
    let per := dies.map (fun d => all.filter (fun pg => s.poolDie p pg == some d))
    if per.all (fun l => decide (n ≤ l.length)) then some (per.flatMap (fun l => l.drop (l.length - n))) else none

/-- Pages for KV data (POOL_USE.USABLE). -/
def State.usable (s : State) (p : Nat) : Nat :=
  s.fa .servePoolPages [p] - poolReserve (s.fa .servePoolPages [p]) -
    4 * s.fa .partPlateCtlSpillRsv [p] * (diesOf (s.rect p)).length

/-- The pool pages that hold KV data. -/
def State.kvPages (s : State) (p : Nat) : List Nat :=
  let n := s.fa .servePoolPages [p]
  let out := (s.part p).spill
  (List.range n).filter (fun pg => decide (poolReserve n ≤ pg) && !out.contains pg)

-- Assumption log 97 (DESIGN CHOICE).
/-- FREE pages, lowest first. -/
def State.freeList (s : State) (p : Nat) : List Nat :=
  (s.kvPages p).filter (fun pg => ((s.part p).hdr pg).state == 0)

/-- DIRTY pages. -/
def State.dirtyCountOf (s : State) (p : Nat) : Nat :=
  ((s.part p).pages.filter (fun e => e.2.state == 1)).length

/-! ### Sequences, block lists and the directory (R259, R282, R301) -/

/-- A sequence-table entry. -/
def State.seqOf (s : State) (n : Nat) : Seq := tabGet (fun _ => Seq.reset) s.seqs n

/-- Stores a sequence-table entry. -/
def State.setSeq (s : State) (n : Nat) (x : Seq) : State := s.setSeqs (tabSet (fun _ => Seq.reset) s.seqs n x)

/-- The valid entries of a sequence's block list: block and frame or host swap frame; swapped ones where asked. -/
def State.blockList (s : State) (seq : Nat) (swapped : Bool) : List (Nat × Nat) :=
  ((tabSlice s.blocks (1024 * seq) (1024 * seq + 1024)).filter (fun e =>
    e.2.testBit 31 && e.2.testBit 30 == swapped)).map (fun e => (e.1 - 1024 * seq, e.2 % 2 ^ 30))

/-- Writes a block-list entry. -/
def State.setBlock (s : State) (seq b : Nat) (swapped : Bool) (f : Nat) : State :=
  s.setBlocks (tabSet (fun _ => 0) s.blocks (1024 * seq + b) (2 ^ 31 + bit01 swapped * 2 ^ 30 + f % 2 ^ 30))

/-- The sequence owns its ID in a partition (R258). -/
def State.inRange (s : State) (p seq : Nat) : Bool :=
  decide (s.fa .serveSeqRangeBase [p] ≤ seq) &&
    decide (seq < s.fa .serveSeqRangeBase [p] + s.fa .serveSeqRangeCount [p])

/-- Some sequence of the partition references a frame. -/
def State.seqHolds (s : State) (p f : Nat) : Bool :=
  s.blocks.any (fun e => e.2.testBit 31 && !e.2.testBit 30 && e.2 % 2 ^ 30 == f && s.inRange p (e.1 / 1024))

/-- A directory entry by key. -/
def State.dirAt (s : State) (k : Nat) : Option DirEntry := tabGet (fun _ => none) s.dir k

/-- Stores a directory entry. -/
def State.putDir (s : State) (k : Nat) (e : Option DirEntry) : State := s.setDir (tabSet (fun _ => none) s.dir k e)

/-- The directory entries of a partition, with their keys. -/
def State.dirOf (s : State) (p : Nat) : List (Nat × DirEntry) :=
  s.dir.filterMap (fun e => match e.2 with
    | some d => if d.part = p then some (e.1, d) else none
    | none => none)

/-- The directory entries whose frames no sequence references. -/
def State.dirOnly (s : State) (p : Nat) : List (Nat × DirEntry) := (s.dirOf p).filter (fun e => !s.seqHolds p e.2.frame)

/-- Pages that only directory entries reference (POOL_USE.DIR_ONLY). -/
def State.dirOnlyPages (s : State) (p : Nat) : Nat :=
  ((s.dirOnly p).flatMap (fun e => (s.part p).frame e.2.frame)).dedup.length

/-- Invalidates a directory entry, whose references drop. -/
def State.dropDir (s : State) (k : Nat) : State :=
  match s.dirAt k with
  | some d => (s.putDir k none).dropFrame d.part d.frame
  | none => s

-- Assumption log 87 (DEDUCED).
/-- The entry with the oldest AGE, compared modulo 2^16 to the current age; of equal ones the lowest key. -/
def oldestDir (now : Nat) : List (Nat × DirEntry) → Option (Nat × DirEntry)
  | [] => none
  | e :: t => match oldestDir now t with
    | none => some e
    | some x => if (now + 2 ^ 16 - x.2.age) % 2 ^ 16 ≤ (now + 2 ^ 16 - e.2.age) % 2 ^ 16 then some e else some x

/-! ### Swap area (R433, R436) -/

/-- The swap key of a partition. -/
def State.swapKey (s : State) (p : Nat) : Nat := tabGet (fun _ => 0) s.sealUnit.swapKeys p

/-- SWAP_SLOTS of a partition. -/
def State.swapSlotsOf (s : State) (p : Nat) : Nat := s.fa .hostSwapSlotsS [p]

/-- The offset from SWAP_BASE of a slot's header, and of a frame record. -/
def State.headerOffset (s : State) (p slot : Nat) : Nat := 65536 * s.swapSlotsOf p + 128 * slot
def State.recordOffset (s : State) (p r : Nat) : Nat :=
  65536 * (s.swapSlotsOf p + ceilDiv (s.swapSlotsOf p) 512) + 1024 * r

-- Assumption log 96 (DEDUCED).
/-- Encrypted data units at offsets from an area's base: the writes into host memory. -/
def State.cipherWrites (s : State) (p base off unit tweak : Nat) : Nat → List Byte → List Out
  | 0, _ => []
  | n + 1, bs =>
    hostWrites (base + off) (xtsEncrypt (s.swapKey p) (off + tweak) (bs.take unit)) ++
      s.cipherWrites p base (off + unit) unit tweak n (bs.drop unit)

-- Assumption log 96 (DEDUCED).
/-- A frame record: word l names the slot of layer l (R433). -/
def frameRecord (slots : List Nat) : List Byte :=
  (slots.flatMap (fun n => leBytes 4 (2 ^ 31 + n % 2 ^ 26)) ++ List.replicate 1024 0).take 1024

-- Assumption log 97 (DESIGN CHOICE).
/-- Allocates swap slots for pages, the lowest-numbered free one for each (R433). -/
def allocSlots : List Nat → List Nat → List (Nat × Nat)
  | _, [] => []
  | used, pg :: t =>
    let n := ((List.range (used.length + 1)).find? (fun n => !used.contains n)).getD 0
    (pg, n) :: allocSlots (n :: used) t

-- Assumption log 96 (DEDUCED).
/-- Starts the swap-out of one block of a sequence (R318, R433). -/
def State.swapBlock (s : State) (p seq : Nat) (b : Nat × Nat) : State :=
  let q := s.part p
  let r := ((List.range (q.swapFrames.length + 1)).find? (fun n => (tabGet (fun _ => []) q.swapFrames n).isEmpty)).getD 0
  let l := allocSlots q.swapSlots (q.frame b.2)
  let high := match (q.frame b.2).head? with
    | some pg => (q.hdr pg).tokens.map (fun t => t / 2 ^ 24)
    | none => []
  (s.setPart p { q with
    swapSlots := q.swapSlots ++ l.map (·.2)
    swapFrames := tabSet (fun _ => []) q.swapFrames r (l.map (·.2))
    swapHigh := tabSet (fun _ => []) q.swapHigh r (if high.any (fun n => n != 0) then high else [])
    swapping := q.swapping ++ l }).setBlock seq b.1 true r

/-- The bring-in of a page-tile of a movable segment that is out can go on: the segment has a page for it, or none is on its way back
(R429). -/
def State.bringsIn (s : State) (p tile : Nat) : Bool :=
  match s.segmentOf p tile, tabGet (fun _ => none) (s.part p).map tile with
  | some n, none =>
    !(tabGet (fun _ => []) (s.part p).reserve n).isEmpty || !s.hbm.returns.any (fun e => e.2 == some (8 * p + n))
  | _, _ => false

/-- The partition's admitted CONTROL entry is at a swap-in of a sequence (R268, R433). -/
def State.resumes (s : State) (p seq : Nat) : Bool :=
  (s.part p).admitted.any (fun x =>
    let w := x.entry.field (128 + 16 * x.results.length) 16
    x.outcome.isNone && w % 16 == 3 && bitsOf w 31 14 == seq)

-- Assumption log 199 (DEDUCED).
/-- A transfer of the swap path is still wanted. -/
def State.swapWanted (s : State) (e : Nat × Nat) : Bool :=
  if e.2 < 2 ^ 32 then (s.part e.1).swapping.any (fun w => w.2 == e.2)
  else if e.2 < 2 ^ 33 then s.resumes e.1 (e.2 - 2 ^ 32)
  else s.bringsIn e.1 (e.2 - 2 ^ 33)

/-- The transfers of the swap path, in the order of request (R434). -/
def State.swapLine (s : State) : List (Nat × Nat) := s.swapPath.filter s.swapWanted

-- Assumption log 199 (DEDUCED).
/-- Puts a transfer behind those of the swap path, unless it stands there. -/
def State.swapAsk (s : State) (e : Nat × Nat) : State :=
  let l := s.swapLine
  { s with swapPath := if l.contains e then l else l ++ [e] }

-- Assumption log 199 (DEDUCED).
/-- The swap path serves this transfer next (R434). -/
def State.swapTurn (s : State) (e : Nat × Nat) : Bool := s.swapLine.head? == some e

/-- Starts the swap-out of a sequence, which becomes SWAPPED (R318). Its pages join the swap path (R434). -/
def State.swapStart (s : State) (p seq : Nat) : State :=
  let t := (s.blockList seq false).foldl (fun u b => u.swapBlock p seq b) s
  let l := ((t.part p).swapping.drop (s.part p).swapping.length).map (fun w => (p, w.2))
  { t.setSeq seq { t.seqOf seq with state := 3 } with swapPath := s.swapLine ++ l }

/-- The 4 KiB reads of a sequence's pages, in the order of the swap-out. -/
def State.swapTiles (s : State) (p seq : Nat) : List Nat :=
  (s.blockList seq false).flatMap (fun b => ((s.part p).frame b.2).flatMap (fun pg =>
    (List.range 16).map (fun i => s.poolAddr p pg + 4096 * i)))

-- Assumption log 80 (DEDUCED).
/-- Reads tiles of partition address until one holds an uncorrectable codeword, which is answered (R372). -/
def State.checkTiles (s : State) (p : Nat) : List Nat → State × Option Nat
  | [] => (s, none)
  | a :: t => match s.place p a with
    | .hbm m =>
      let r := s.checkWords (some p) 2 ((List.range 64).map (fun i => m + 64 * i))
      match r.2 with
      | some c => (r.1, some (a + (c - m)))
      | none => r.1.checkTiles p t
    | _ => s.checkTiles p t

/-- Recalls host-held lines of a pool page (R431). -/
def State.recallPage (s : State) (p pg : Nat) : State :=
  let tile := s.fa .servePoolBase [p] + pg
  s.recall (fun l => l / 2 ^ 38 == p && l % 2 ^ 38 / 1024 == tile)

/-- Hub traffic reaches the die of a pool page (R18, R29). -/
def State.pageUp (s : State) (p pg : Nat) : Bool :=
  match s.poolDie p pg with
  | some d => s.dieUp d
  | none => true

-- Assumption log 80 (DEDUCED).
/-- SWAP_OUT (R318, R433 to R436): the swap path writes the next page of a partition's swapped frames and its header, and
after the last page of a frame its record, and drops the page's reference. Codewords were checked when the swap-out began, and
leave corrected (R369). Nothing moves while the host link or the link of the page's die is down (R18, R29), or before the transfers that
were asked for earlier (R434). -/
def execSwapOut (p : Nat) (s : State) : Host.Outcome State Fault Refusal :=
  match s.linkUp, (s.part p).swapping with
  | true, (pg, slot) :: rest =>
    if !s.pageUp p pg || !s.swapTurn (p, slot) then .next s
    else
    let t := s.recallPage p pg
    let base := t.fa .hostSwapBaseAddr [p]
    let bytes := match t.place p (t.poolAddr p pg) with
      | .hbm m => (List.range 1024).flatMap (fun i => t.hbm.word (m + 64 * i))
      | _ => List.replicate 65536 0
    let h := (t.part p).hdr pg
    let ends := (t.part p).swapFrames.filter (fun f => f.2.getLast? == some slot)
    let t := t.emits (t.cipherWrites p base (65536 * slot) 4096 0 16 bytes)
    let t := t.emits (t.cipherWrites p base (t.headerOffset p slot) 128 0 1 (leBytes 128 (h.pack p)))
    let t := ends.foldl (fun u f => u.emits (u.cipherWrites p base (u.recordOffset p f.1) 1024 0 1 (frameRecord f.2))) t
    let q := { (t.part p).dropRef (t.age p) pg with swapping := rest }
    .next ((t.setPart p q.prune).bump .serveSwapOut [p] 1)
  | _, _ => .next s

/-- Frees swap records and their slots. -/
def Part.freeRecords (q : Part) (rs : List Nat) : Part :=
  let gone := rs.flatMap (fun r => tabGet (fun _ => []) q.swapFrames r)
  { q with swapSlots := q.swapSlots.filter (fun n => !gone.contains n)
           swapFrames := rs.foldl (fun t r => tabSet (fun _ => []) t r []) q.swapFrames
           swapHigh := rs.foldl (fun t r => tabSet (fun _ => []) t r []) q.swapHigh
           swapping := q.swapping.filter (fun e => !gone.contains e.2) }

/-- Releases every page reference of a sequence and forgets its host-memory copies; its block list is cleared (R322,
R433). A swap-out of it that still runs drops the references that it holds. -/
def State.releaseSeq (s : State) (p seq : Nat) : State :=
  let t := (s.blockList seq false).foldl (fun u b => u.dropFrame p b.2) s
  let rs := (t.blockList seq true).map (·.2)
  let gone := rs.flatMap (fun r => tabGet (fun _ => []) (t.part p).swapFrames r)
  let left := ((t.part p).swapping.filter (fun e => gone.contains e.2)).map (·.1)
  let q := (left.foldl (Part.dropRef (t.age p)) (t.part p)).prune
  let t := t.setPart p (q.freeRecords rs)
  t.setBlocks (tabClear t.blocks (1024 * seq) (1024 * seq + 1024))

/-! ### Zeroing (R317, R367) -/

/-- The pool has zeroed the page of a partition that was released first; none while its base die is in self refresh (R357). -/
def State.poolZeroed (s : State) (p : Nat) : State :=
  match (s.part p).zeroQ with
  | [] => s
  | pg :: rest =>
    match s.place p (s.poolAddr p pg) with
    | .hbm m =>
      if s.selfRefresh (m / 2 ^ 39 % 8) then s
      else
        let t := (s.recallPage p pg).activateAll (pageTiles (m / 65536))
        let t := t.setHbm { t.hbm with cells := tabClear t.hbm.cells m (m + 65536)
                                       errs := tabClear t.hbm.errs (m / 64) (m / 64 + 1024) }
        t.setPart p { (t.part p).setHdr pg PageHdr.reset with zeroQ := rest }
    | _ =>
      let t := s.recallPage p pg
      t.setPart p { (t.part p).setHdr pg PageHdr.reset with zeroQ := rest }

/-- PAGE_ZEROED (R317, R367): the oldest DIRTY page of a partition's pool, or the oldest DIRTY page-tile of a die's HBM,
has been zeroed and is FREE. -/
def execPageZeroed (pool : Bool) (n : Nat) (s : State) : Host.Outcome State Fault Refusal :=
  .next (if pool then s.poolZeroed n else s.zeroed n)

/-! ### Gathering (R315, R316) -/

-- Assumption log 80 (DEDUCED).
/-- PARKED sequences of a partition that hold a page, best victim first by LAST_TS and ID. -/
def State.victim (s : State) (p : Nat) : Option Nat :=
  let l := s.seqs.filter (fun e => e.2.state == 2 && e.2.part == p && !(s.blockList e.1 false).isEmpty)
  (l.foldl (fun (b : Option (Nat × Nat)) e => match b with
    | none => some (e.2.lastTs, e.1)
    | some x => if e.2.lastTs < x.1 then some (e.2.lastTs, e.1) else some x) none).map (·.2)

/-- The pool's answer to a need of pages. -/
inductive Gather where
  /-- The need is met by FREE pages. -/
  | got
  /-- Pages are being zeroed or written; the second step of R316 has been reached where asked. -/
  | wait (reclaim : Bool)
  /-- Nothing more can be taken. -/
  | fails
  /-- The swap-out of a victim met an uncorrectable codeword. -/
  | ue (a : Nat)
  deriving DecidableEq, Repr

/-- Steps 1 and 2 of R316 for a need of pages, one action at a time; every released directory entry and every victim
leaves work to wait for. -/
def State.gatherFor (s : State) (p need : Nat) (ln7 reclaim : Bool) : State × Gather :=
  if need ≤ (s.freeList p).length then (s, .got)
  else if !(s.part p).zeroQ.isEmpty || !(s.part p).swapping.isEmpty then (s, .wait reclaim)
  else match (if reclaim then none else oldestDir (s.age p) (s.dirOnly p)) with
    | some e => ((s.dropDir e.1).bump .serveAgeEvicts [p] 1, .wait false)
    | none =>
      if ln7 then (s, .fails)
      else match s.victim p with
        | none => (s, .fails)
        | some v =>
          let r := s.checkTiles p (s.swapTiles p v)
          match r.2 with
          | some a => (r.1, .ue a)
          | none => ((r.1.swapStart p v).bump .serveVictims [p] 1, .wait true)

/-- Runs the pool until it has, fails or must wait: a released entry whose pages others hold leaves nothing to wait for. -/
def State.gather (s : State) (p need : Nat) (ln7 : Bool) : Nat → Bool → State × Gather
  | 0, reclaim => (s, .wait reclaim)
  | n + 1, reclaim =>
    let r := s.gatherFor p need ln7 reclaim
    match r.2 with
    | .wait again =>
      if (r.1.part p).zeroQ.isEmpty && (r.1.part p).swapping.isEmpty then r.1.gather p need ln7 n again else r
    | _ => r

/-- The pool's books once every page on its way out is written and zeroed. -/
def State.settlePool (s : State) (p : Nat) : State :=
  let q := s.part p
  let q := ((q.swapping.map (·.1)).foldl (Part.dropRef (s.age p)) q).prune
  let q := q.zeroQ.foldl (fun (r : Part) pg => r.setHdr pg PageHdr.reset) q
  s.setPart p { q with swapping := [], zeroQ := [] }

-- Assumption log 81 (DEDUCED).
/-- Steps 1 and 2 of R316 can meet a need in the end (R270). -/
def State.canGather (s : State) (p need : Nat) : Nat → Bool → Bool
  | 0, _ => false
  | n + 1, reclaim =>
    let r := (s.settlePool p).gatherFor p need false reclaim
    match r.2 with
    | .got => true
    | .wait again => r.1.canGather p need n again
    | _ => false

/-- Actions that the pool can take at most for one need. -/
def State.gatherFuel (s : State) : Nat := s.dir.length + s.seqs.length + 2

/-- The header of a page of a frame that is opened (R298, R299). -/
def newHdr (e : Edition) (layer fmt age seq : Nat) : PageHdr :=
  let fp8 := fmt = 3 ∨ fmt = 4
  { layer := layer, fmt := fmt, state := 2, kscale := if fp8 then e.geo (48 + layer) 1 else 0x7F,
    vscale := if fp8 then e.geo (304 + layer) 1 else 0x7F, refs := 1, age := age, seq := seq,
    tokens := if layer = 0 then List.replicate 32 0 else [] }

/-- The lowest-numbered free entry of the frame table. -/
def Part.freeFrame (q : Part) : Nat :=
  ((List.range (q.frames.length + 1)).find? (fun n => (q.frame n).isEmpty)).getD 0

/-- Opens the frame of a block of a sequence with the lowest FREE pages (R299, R315). -/
def State.openFrame (s : State) (p seq : Nat) (e : Edition) (fmt b : Nat) : State :=
  let pages := (s.freeList p).take e.layers
  let q := s.part p
  let f := q.freeFrame
  let q := pages.zipIdx.foldl (fun (r : Part) (x : Nat × Nat) => r.setHdr x.1 (newHdr e x.2 fmt (s.age p) seq)) q
  (s.setPart p { q with frames := tabSet (fun _ => []) q.frames f pages }).setBlock seq b false f

/-! ### Formats (R307, R315) -/

/-- Byte 0 of the PLATEn field of the geometry record (R293). -/
def Edition.plateKv (e : Edition) (n : Nat) : Nat := e.geo (16 + 4 * n) 1

/-- A class code of R293 as a width in bits. -/
def kvClass (c : Nat) : Nat := if c = 0 then 4 else if c = 1 then 8 else 16

/-- A page format fits a plate's key and value classes (R307). -/
def formatFits (pk fmt : Nat) : Bool :=
  !bitOf pk 7 || [bitsOf pk 1 0, bitsOf pk 3 2].all (fun c =>
    decide (fmtClass fmt ≤ kvClass c) && !(decide (fmtClass fmt < kvClass c) && bitOf pk 4))

/-- A page format fits every plate of a run. -/
def Edition.runFits (e : Edition) (rows : List (Nat × Nat)) (fmt : Nat) : Bool :=
  rows.all (fun r => formatFits (e.plateKv r.1) fmt)

/-- The format of the frames opened for a step: PAGE_FMT as its delivery found it, where that is allowed, else DEF_FMT (R315,
R324). -/
def Edition.frameFmt (e : Edition) (x : Step) : Nat :=
  if x.pageFmt ≠ 0 ∧ bitOf (e.geo 8 2) x.pageFmt ∧ e.runFits x.rows x.pageFmt then x.pageFmt else e.geo 7 1

/-- The blocks of a range of positions that have no frame. -/
def State.missingBlocks (s : State) (seq pos ntok : Nat) : List Nat :=
  let have_ := (s.blockList seq false).map (·.1)
  (List.range ((pos + ntok + 31) / 32 - pos / 32)).map (fun i => pos / 32 + i) |>.filter (fun b => !have_.contains b)

end Sys2Proof.Machine
end

