-- ==== Sys2Proof/Machine/Prefix.lean ====
section
/-! DEFINITION. The prefix directory: SipHash-2-4, probes, inserts and namespace keys (R282 to R288). -/

namespace Sys2Proof.Machine

open Sys2Proof

/-! ### SipHash-2-4 (R283) -/

/-- The four words of SipHash. -/
structure Sip where
  v0 : Word
  v1 : Word
  v2 : Word
  v3 : Word
  deriving DecidableEq, Repr

/-- One SipRound. -/
def Sip.mix (v : Sip) : Sip :=
  let a0 := v.v0 + v.v1
  let a1 := v.v1.rotateLeft 13 ^^^ a0
  let a0 := a0.rotateLeft 32
  let a2 := v.v2 + v.v3
  let a3 := v.v3.rotateLeft 16 ^^^ a2
  let b0 := a0 + a3
  let b3 := a3.rotateLeft 21 ^^^ b0
  let b2 := a2 + a1
  let b1 := a1.rotateLeft 17 ^^^ b2
  ⟨b0, b1, b2.rotateLeft 32, b3⟩

/-- One message word. -/
def Sip.absorb (v : Sip) (m : Word) : Sip :=
  let w := ({ v with v3 := v.v3 ^^^ m }).mix.mix
  { w with v0 := w.v0 ^^^ m }

/-- SipHash-2-4 of whole 8-byte words under a 128-bit key. -/
def sipHash (key : Nat) (ms : List Word) : Nat :=
  let k0 := BitVec.ofNat 64 key
  let k1 := BitVec.ofNat 64 (key / 2 ^ 64)
  let v : Sip := ⟨k0 ^^^ 0x736F6D6570736575, k1 ^^^ 0x646F72616E646F6D, k0 ^^^ 0x6C7967656E657261, k1 ^^^ 0x7465646279746573⟩
  let v := (ms ++ [BitVec.ofNat 64 (8 * ms.length % 256 * 2 ^ 56)]).foldl Sip.absorb v
  let v := ({ v with v2 := v.v2 ^^^ 0xFF }).mix.mix.mix.mix
  (v.v0 ^^^ v.v1 ^^^ v.v2 ^^^ v.v3).toNat

/-- The 16 words of a block's 32 token IDs. -/
def tokenWords (toks : List Nat) : List Word :=
  (List.range 16).map (fun i => BitVec.ofNat 64 (toks.getD (2 * i) 0 % 2 ^ 32 + toks.getD (2 * i + 1) 0 % 2 ^ 32 * 2 ^ 32))

/-- The hash of a block: that of the block before it, or the seed, and its 32 token IDs (R283). -/
def blockHash (key prev : Nat) (toks : List Nat) : Nat := sipHash key (BitVec.ofNat 64 prev :: tokenWords toks)

/-- The chain seed (R283). -/
def chainSeed (edition vset : Nat) : Nat := (edition + vset * 2 ^ 32) % 2 ^ 64

/-! ### Probes and inserts (R285, R286) -/

/-- The ways of a hash's set, as keys. -/
def dirWays (hash : Nat) : List Nat := (List.range 8).map (fun w => 8 * (hash % 2 ^ 19) + w)

-- Assumption log 94 (DEDUCED).
/-- The entries that match a hash in a namespace of a partition, with their keys (R283). -/
def State.dirMatches (s : State) (p ns hash : Nat) : List (Nat × DirEntry) :=
  (dirWays hash).filterMap (fun k => match s.dirAt k with
    | some d => if d.hash = hash ∧ d.part = p ∧ d.ns = ns then some (k, d) else none
    | none => none)

/-- The token IDs agree with those in the header of the frame's first page; IDs above 24 bits cannot be verified (R312). -/
def State.dirVerify (s : State) (d : DirEntry) (toks : List Nat) : Bool :=
  match ((s.part d.part).frame d.frame).head? with
  | some pg =>
    let held := (((s.part d.part).hdr pg).tokens.take 32).map (fun t => t % 2 ^ 24)
    toks.all (fun t => decide (t < 2 ^ 24)) && held == toks.take 32
  | none => false

/-- An entry that matches a block and verifies (R285, R286). -/
def State.dirHit (s : State) (p ns hash : Nat) (toks : List Nat) : Option (Nat × DirEntry) :=
  (s.dirMatches p ns hash).find? (fun m => s.dirVerify m.2 toks)

/-- Inserts an entry for a block: into an invalid way, else in place of the entry with the oldest AGE, whose references
drop; the entry takes one reference on every page of the frame (R286). -/
def State.dirInsert (s : State) (p ns hash frame : Nat) : State :=
  let e : DirEntry := ⟨s.age p, ns, p, frame, hash⟩
  let put : State → Nat → State := fun t k => ((t.putDir k (some e)).takeFrame p frame).bump .servePfxInsert [] 1
  match (dirWays hash).find? (fun k => (s.dirAt k).isNone) with
  | some k => put s k
  | none =>
    match oldestDir (s.age p) ((dirWays hash).filterMap (fun k => (s.dirAt k).map (fun d => (k, d)))) with
    | some v => put ((s.dropDir v.1).bump .servePfxEvict [] 1) v.1
    | none => s

-- Assumption log 88 (DEDUCED).
/-- Publishes one block (R286, R312). -/
def State.publish (s : State) (p ns hash frame : Nat) (toks : List Nat) : State :=
  if toks.any (fun t => decide (2 ^ 24 ≤ t)) then s
  else if (s.dirHit p ns hash toks).isSome then s
  else s.dirInsert p ns hash frame

/-- The key of a namespace of a partition. -/
def State.nsKey (s : State) (p ns : Nat) : Option Nat := tabGet (fun _ => none) (s.part p).keys ns

-- Assumption log 209 (DESIGN CHOICE).
/-- NSKEY_APPLY (R288): a write of NSKEY_CTL with GO = 1 applies the key that NSKEY_HI and NSKEY_LO hold; the namespace's
entries begin to be invalidated, and its open sequences leave the directory. The manual does not say whether CHAIN of such a sequence
returns to its seed (R284): the model leaves the last hash. -/
def execNskeyApply (p : Nat) (w : Word) (s : State) : Host.Outcome State Fault Refusal :=
  if s.formed p ∧ w.getLsbD 63 then
    let n := w.toNat % 16
    let q := s.part p
    let key := (s.rv .serveNskeyLo [p]).toNat + (s.rv .serveNskeyHi [p]).toNat * 2 ^ 64
    let t := s.setPart p { q with keys := tabSet (fun _ => none) q.keys n (some key) }
    let t := t.setf .serveNskeyStateKeyed [p] (t.fv .serveNskeyStateKeyed [p] ||| 2 ^ n)
    let t := t.setf .serveNskeyStateClearing [p] (t.fv .serveNskeyStateClearing [p] ||| 2 ^ n)
    .next (t.setSeqs (t.seqs.map (fun (e : Nat × Seq) =>
      if e.2.part = p ∧ e.2.ns = n ∧ e.2.state ≠ 0 then
        (e.1, { e.2 with pfx := false }) else e)))
  else .next s

-- Assumption log 94 (DEDUCED).
/-- NSKEY_INVALIDATION_DONE (R288): every entry of the namespace is gone, and its CLEARING bit clears. -/
def execNskeyInvalidationDone (p ns : Nat) (s : State) : Host.Outcome State Fault Refusal :=
  let n := ns % 16
  if s.formed p ∧ (s.fv .serveNskeyStateClearing [p]).testBit n then
    let t := ((s.dirOf p).filter (fun e => e.2.ns == n)).foldl (fun u e => u.dropDir e.1) s
    .next (t.setf .serveNskeyStateClearing [p] (t.fv .serveNskeyStateClearing [p] - 2 ^ n))
  else .next s

/-! ### The sequence table's host view (R259, R291) -/

/-- A sequence-table entry as its 32 bytes (R259). -/
def Seq.pack (x : Seq) : Nat :=
  x.chain % 2 ^ 64 * 2 ^ 192 + x.length % 2 ^ 32 * 2 ^ 160 + x.edition % 2 ^ 32 * 2 ^ 128 + x.lastTs % 2 ^ 64 * 2 ^ 64 +
    bit01 x.pfx * 2 ^ 45 + x.vset % 2 ^ 13 * 2 ^ 32 + x.pgroup % 16 * 2 ^ 28 + x.ns % 16 * 2 ^ 24 + x.part % 32 * 2 ^ 19 +
    x.state % 8 * 2 ^ 16

/-- SEQ_SEL_CAPTURE (R291): a write of SEQ_SEL captures the entry into SEQ_DATA0 to SEQ_DATA3. -/
def execSeqSelCapture (w : Word) (s : State) : Host.Outcome State Fault Refusal :=
  let n := w.toNat % 2 ^ 18
  let x := (s.seqOf n).pack
  .next ((List.range 4).foldl (fun t i => t.setv .serveSeqData [i] (BitVec.ofNat 64 (x >>> (64 * i))))
    (s.setf .serveSeqSelSeq [] n))

end Sys2Proof.Machine
end

