-- ==== Sys2Proof/Machine/Serving.lean ====
section
/-! DEFINITION. The serving engine: entries, admission, batch delivery, completions and control operations
(R258 to R292, R307, R312, R315 to R321, R344, R354). -/

namespace Sys2Proof.Machine

open Sys2Proof

/-! ### Entries (R261 to R268) -/

/-- PHASE, KIND and IRQ of an entry. -/
def Entry.phase (e : Entry) : Nat := e.field 0 2 % 2
def Entry.kind (e : Entry) : Nat := e.field 0 2 / 2 % 8
def Entry.irq (e : Entry) : Bool := bitOf (e.field 0 2) 4

/-- SEQS and TOKENS of a STEP entry, COUNT of a CONTROL entry. -/
def Entry.seqCount (e : Entry) : Nat := e.field 12 2
def Entry.tokenCount (e : Entry) : Nat := e.field 14 2
def Entry.opCount (e : Entry) : Nat := e.field 12 1

/-- An operation of a CONTROL entry (R268). -/
def Entry.op (e : Entry) (k : Nat) : Nat := e.field (128 + 16 * k) 16

/-- DETAIL of ENTRY_INVALID: record, or 0xFFFF for the entry, and reason (R289). -/
def invalidDetail (record reason : Nat) : Word := BitVec.ofNat 64 (record + reason * 2 ^ 16)

/-- Some byte of a range of an entry is not zero. -/
def Entry.dirty (e : Entry) (off len : Nat) : Bool := len != 0 && e.field off len != 0

-- Assumption log 82 (DEDUCED), 92 (DEDUCED).
/-- Checks 1 and 2 of R271: the reason that fails, or none. -/
def fetchCheck (e : Entry) (lap : Nat) : Option Nat :=
  if e.phase ≠ lap ∨ 1 < e.kind ∨ e.field 0 2 / 32 ≠ 0 ∨ e.dirty 2 2 ∨ e.dirty 9 3 ∨ e.dirty 56 8 then some 1
  else if e.kind = 0 then
    if (List.range 64).any (fun g => bitsOf (e.field (128 + 2 * g) 2) 14 13 != 0) then some 1
    else if 4096 < e.seqCount ∨ 16384 < e.tokenCount then some 2 else none
  else
    let n := min e.opCount 8
    if e.dirty 4 8 ∨ e.dirty 13 35 ∨ e.dirty 64 64 ∨ e.dirty (128 + 16 * n) (128 - 16 * n) then some 1
    else if e.opCount < 1 ∨ 8 < e.opCount then some 2 else none

/-! ### Results of control operations (R269) -/

/-- Result codes. -/
abbrev CtlResult.badState : Nat := 1
abbrev CtlResult.badSeq : Nat := 2
abbrev CtlResult.noKey : Nat := 3
abbrev CtlResult.noPages : Nat := 4
abbrev CtlResult.badOp : Nat := 5

/-- Fields of an operation: OP, NS, PGROUP, SEQ, ARG0, ARG1. -/
def opCode (w : Nat) : Nat := w % 16
def opNs (w : Nat) : Nat := bitsOf w 7 4
def opPgroup (w : Nat) : Nat := bitsOf w 11 8
def opSeq (w : Nat) : Nat := bitsOf w 31 14
def opArg0 (w : Nat) : Nat := bitsOf w 63 32
def opArg1 (w : Nat) : Nat := bitsOf w 127 64

-- Assumption log 92 (DEDUCED).
/-- The layout of R268: an operation with another code, or with a bit set that must be zero, is BAD_OP. -/
def opLegal (w : Nat) : Bool :=
  bitsOf w 13 12 == 0 &&
    (if opCode w = 1 then bitsOf w 127 77 == 0
     else if opCode w = 5 then bitsOf w 11 4 == 0 && opArg0 w != 0 && bitsOf w 69 64 == 0
     else decide (2 ≤ opCode w) && decide (opCode w ≤ 4) && bitsOf w 11 4 == 0 && bitsOf w 127 32 == 0)

/-- Appends the result of the next operation of a CONTROL entry: RESULT and VALUE. -/
def Step.result (x : Step) (code value t : Nat) : Step :=
  { x with results := x.results ++ [code * 2 ^ 28 + value % 2 ^ 28], ended := t, reclaim := false }

/-- Gives BAD_OP to the operations at the front that R268 does not allow. -/
def Step.skipBad (t : Nat) : Nat → Step → Step
  | 0, x => x
  | n + 1, x =>
    if x.results.length < x.entry.opCount ∧ opLegal (x.entry.op x.results.length) = false then
      (x.result CtlResult.badOp 0 t).skipBad t n
    else x

/-! ### Admission (R271, R280, R476) -/

/-- The runs of an edition: RUNS of plate 0 (R234). -/
def State.runCount (s : State) (e : Edition) : Nat := s.reader e (e.imageBase 0) 24 1

/-- A stipple set is resident for an edition; every edition holds the empty set (R351). -/
def Edition.hasSet (e : Edition) (k : Nat) : Bool := k == 0x1FFF || !(tabGet (fun _ => []) e.sets k).isEmpty

/-- Checks 3 to 5 of R271: the outcome of a STEP entry that fails one. -/
def State.admissionCheck (s : State) (e : Entry) : Option (Nat × Word) :=
  let id := e.field 4 4
  match s.resident id with
  | none =>
    match s.slotOf id with
    | some n =>
      let ed := s.flash.slot n
      if ed.degraded then some (Status.editionLost, BitVec.ofNat 64 id)
      else some (Status.notResident, BitVec.ofNat 64 (id + (if ed.state = 1 then 2 ^ 32 else 0)))
    | none => some (Status.notResident, BitVec.ofNat 64 (id + 2 ^ 32))
  | some ed =>
    if s.runCount ed ≤ e.field 8 1 then some (Status.entryInvalid, invalidDetail 0xFFFF 3)
    else if (List.range 64).any (fun g =>
        let v := e.field (128 + 2 * g) 2
        bitOf v 15 && !ed.hasSet (v % 8192)) then some (Status.entryInvalid, invalidDetail 0xFFFF 4)
    else none

/-- The body of STEP_DESC (R462). -/
def descBody (e : Entry) (start : Nat) : List Byte :=
  leBytes 2 e.idx ++ [0, 0, 0, 0, 0, 0] ++ leBytes 8 start ++ leBytes 256 e.raw.toNat

-- Assumption log 83 (DEDUCED).
/-- Admits an entry: at a step's admission host-held lines of the partition are recalled (R431), checks 3 to 5 are made, and the lead of a
partition of several modules sends STEP_DESC down the combining tree (R476, R484). A member takes what it has of the batch. -/
def State.admitEntry (s : State) (p : Nat) (e : Entry) (start : Nat) : State :=
  let x := { Step.new e (s.isLead p) start with batch := tabGet (fun _ => []) (s.part p).early e.idx }
  let t := if e.isControl then s else s.recallPart p
  let y : Step :=
    if e.status ≠ 0 then x.decide e.status e.detail start
    else if e.kind = 0 then
      match t.admissionCheck e, t.resident (e.field 4 4) with
      | some o, _ => x.decide o.1 o.2 start
      | none, some ed => { x with rows := runRows (t.reader ed (ed.imageBase 0)) (e.field 8 1) }
      | none, none => x
    else x.skipBad start 8
  let q := t.part p
  let t := t.setPart p { q with admitted := some y, early := tabSet (fun _ => []) q.early e.idx [] }
  if t.isLead p && y.outcome.isNone then
    (t.treeChildren p).foldl (fun u m => u.sendStep p 0x06 m false u.txn (descBody e start)) t
  else t

/-- Takes the oldest fetched entry into admission, where none is admitted. -/
def State.admitNext (s : State) (p : Nat) : State :=
  let q := s.part p
  match q.admitted, q.fetched with
  | none, e :: rest => (s.setPart p { q with fetched := rest }).admitEntry p e (s.pnow p)
  | _, _ => s

/-- On a member that is not the lead, a described step is admitted once no other one is; the module accepts no step
before its first time exchange of the partition has completed (R55). -/
def State.memberAdmit (s : State) (p : Nat) : State :=
  if s.isLead p || s.fv .timePsyncSynced [p] == 0 then s else s.admitNext p

-- Assumption log 82 (DEDUCED).
/-- The ready set of R280. A member that is not the lead has its entries from STEP_DESC, not from the scheduler. -/
def State.readySet (s : State) : List Nat :=
  (List.range 32).filter (fun p =>
    s.formed p && s.isLead p && !(s.part p).fetched.isEmpty && (s.part p).admitted.isNone)

/-- Saturation of a deficit at plus and minus 2^63. -/
def satDeficit (d : Int) : Int := max (-(2 ^ 63)) (min (2 ^ 63 - 1) d)

/-- What one round adds to a partition's deficit (R280). -/
def State.roundOf (s : State) (p : Nat) : Nat := s.fa .serveShareWeight [p] * s.fa .serveSchedQuantum [] * 2 ^ 16

/-- Rounds until a deficit is positive. -/
def roundsFor (d : Int) (inc : Nat) : Nat := if 0 < d then 0 else (-d).toNat / inc + 1

/-- Sets a partition's deficit. -/
def State.setDeficit (s : State) (p : Nat) (d : Int) : State := s.setPart p { s.part p with deficit := d }

/-- The deficits when the scheduler looks: formed partitions outside the ready set keep no credit, and while no ready one
is positive every ready one gains the same number of rounds (R280). -/
def State.scheduleRounds (s : State) (ready : List Nat) : State :=
  let t := (List.range 32).foldl (fun u q =>
    if u.formed q && !ready.contains q then u.setDeficit q (min (u.part q).deficit 0) else u) s
  let rs := (ready.filter (fun p => t.roundOf p != 0)).map (fun p => roundsFor (t.part p).deficit (t.roundOf p))
  match rs with
  | [] => t
  | r :: rest =>
    let n := rest.foldl min r
    ready.foldl (fun u p => u.setDeficit p (satDeficit ((u.part p).deficit + Int.ofNat (n * u.roundOf p)))) t

-- Assumption log 82 (DEDUCED).
/-- SCHEDULER_CHOOSE (R280, R271): the scheduler admits the entry of the first ready partition with a positive deficit,
upward from the one after the last choice. A parked module admits nothing (R516). -/
def execSchedulerChoose (s : State) : Host.Outcome State Fault Refusal :=
  if s.powerState ≥ 2 then .next s
  else
    let ready := s.readySet
    let t := s.scheduleRounds ready
    let last := t.fv .serveSchedStateLast []
    let order := (List.range 32).map (fun i => (last + 1 + i) % 32)
    match order.find? (fun p => ready.contains p && decide (0 < (t.part p).deficit)) with
    | none => .next t
    | some p => .next ((t.setf .serveSchedStateLast [] p).admitNext p)

/-! ### The guard (R250, R251) -/

/-- What a guard refusal shows: UNMAPPED, row, section word, step word, MAX, value. -/
structure GuardHit where
  unmapped : Bool
  row : Nat
  word : Nat
  stepWord : Nat
  max : Nat
  value : Nat
  deriving DecidableEq, Repr

/-- The shape map of a row of a run, from the plate's image. -/
def State.rowShapes (s : State) (e : Edition) (r : Nat × Nat) : List Nat :=
  (sectionAt (s.reader e (e.imageBase r.1)) r.2).shapes

/-- The first shape word of a row that exceeds its MAX. -/
def rowGuard (x : Step) (row : Nat) (shapes : List Nat) : Option GuardHit :=
  shapes.zipIdx.findSome? (fun m =>
    let sw := bitsOf m.1 27 24
    if bitOf m.1 31 && decide (m.1 % 65536 < x.shape sw) then
      some ⟨false, row, m.2, sw, m.1 % 65536, x.shape sw⟩ else none)

-- Assumption log 93 (DEDUCED).
/-- The guard of a step (R250, R251). -/
def State.guardCheck (s : State) (e : Edition) (x : Step) (proof : Bool) : Option GuardHit :=
  let maps := x.rows.map (s.rowShapes e)
  match maps.zipIdx.findSome? (fun m => rowGuard x m.2 m.1) with
  | some g => some g
  | none =>
    if proof then
      let mapped := maps.flatMap (fun l => l.filterMap (fun m => if bitOf m 31 then some (bitsOf m 27 24) else none))
      ((List.range 16).find? (fun w => !mapped.contains w && x.shape w != 0)).map (fun w => ⟨true, 0, 0, w, 0, x.shape w⟩)
    else none

/-- Shows a refusal in GUARD and GUARD_VALUE (R256). -/
def State.showGuard (s : State) (p : Nat) (g : GuardHit) : State :=
  let w := 2 ^ 63 + bit01 g.unmapped * 2 ^ 62 + g.row % 64 * 2 ^ 48 + g.word % 16 * 2 ^ 44 + g.stepWord % 16 * 2 ^ 40 +
    g.max % 65536
  (s.setv .partGuard [p] (BitVec.ofNat 64 w)).setv .partGuardValue [p] (BitVec.ofNat 64 (g.value % 2 ^ 32))

/-- DETAIL of SHAPE_OVER: GUARD row and word, and the refused value (R289). -/
def guardDetail (g : GuardHit) : Word :=
  BitVec.ofNat 64 (g.row % 64 * 256 + g.word % 16 * 16 + g.stepWord % 16 + g.value % 2 ^ 32 * 2 ^ 32)

/-! ### Records (R265, R266, R271 checks 8 to 15, R272) -/

/-- A batch record from its 16 bytes, with its first slot. -/
def recordOf (w slot : Nat) : Rec :=
  { seq := bitsOf w 17 0, pos := bitsOf w 63 32, ntok := bitsOf w 79 64, publish := bitOf w 27, rst := bitOf w 26,
    sample := bitOf w 25, grouped := bitOf w 24, vgroup := bitsOf w 23 18,
    reserved := bitsOf w 127 80 != 0 || bitsOf w 31 28 != 0, slot := slot, len := 0, status := 0, excluded := false }

/-- The records of a batch, with their slots in batch order (R266). -/
def recordsOf : Nat → List Byte → Nat → List Rec
  | 0, _, _ => []
  | n + 1, bs, slot =>
    let r := recordOf (leAt bs 0 16) slot
    r :: recordsOf n (bs.drop 16) (slot + r.ntok)

/-- The reason that a record fails, by checks 8 to 15; an excluded record skips the last two. -/
def State.recordCheck (s : State) (p : Nat) (x : Step) (seen : List Nat) (last : Bool) (r : Rec) : Option Nat :=
  let q := s.seqOf r.seq
  let out := q.state = 3 ∨ (q.state = 4 ∧ r.rst = false)
  if s.inRange p r.seq = false then some 5
  else if q.state = 0 ∨ q.state = 5 then some 6
  else if r.seq ∈ seen then some 7
  else if q.edition ≠ x.edition then some 8
  else if r.ntok < 1 ∨ x.entry.tokenCount < r.slot + r.ntok ∨ (last ∧ r.slot + r.ntok ≠ x.entry.tokenCount) then some 9
  else if out then none
  else if (if r.grouped then x.variant r.vgroup ≠ some q.vset else q.vset ≠ 0x1FFF) then some 10
  else if r.reserved ∨ r.pos ≠ (if r.rst then 0 else q.length) then some 11
  else none

-- Assumption log 93 (DEDUCED).
/-- The first failing record of a batch: its index and reason. -/
def State.batchCheck (s : State) (p : Nat) (x : Step) : List Nat → Nat → List Rec → Option (Nat × Nat)
  | _, _, [] => none
  | seen, b, r :: t =>
    match s.recordCheck p x seen t.isEmpty r with
    | some reason => some (b, reason)
    | none => s.batchCheck p x (r.seq :: seen) (b + 1) t

-- Assumption log 93 (DEDUCED).
/-- Exclusion by R272. -/
def State.excludeRec (s : State) (r : Rec) : Rec :=
  let q := s.seqOf r.seq
  if q.state = 3 then { r with status := Status.seqSwapped, excluded := true }
  else if q.state = 4 ∧ r.rst = false then { r with status := Status.seqRecompute, excluded := true }
  else r

/-- What delivery does to a named sequence (R273): a PARKED one becomes ACTIVE, RESET releases its pages, and LAST_TS takes
the partition time. -/
def State.nameSeq (s : State) (p : Nat) (r : Rec) : State :=
  let t := if r.rst && !r.excluded then s.releaseSeq p r.seq else s
  let q := t.seqOf r.seq
  let q := if r.rst && !r.excluded then { q with length := 0, chain := chainSeed q.edition q.vset, state := 1 } else q
  let q := if q.state = 2 then { q with state := 1 } else q
  t.setSeq r.seq { q with lastTs := t.pnow p }

/-- Exclusion with KV_FORMAT (R307), after delivery has named the sequences. -/
def State.formatRec (s : State) (p : Nat) (e : Edition) (rows : List (Nat × Nat)) (r : Rec) : Rec :=
  let n := (s.seqOf r.seq).length
  let r := { r with len := n }
  if r.excluded then r
  else
    let bad := (s.blockList r.seq false).any (fun b => match ((s.part p).frame b.2).head? with
      | some pg => !e.runFits rows ((s.part p).hdr pg).fmt
      | none => false)
    if e.maxPos < n + r.ntok ∨ bad then { r with status := Status.kvFormat, excluded := true } else r

/-! ### Delivery (R273, R307, R312, R315 to R321, R354) -/

/-- Writes token IDs into the headers of the layer-0 pages of the positions a record will append (R312). -/
def State.noteTokens (s : State) (p : Nat) (toks : List Nat) (r : Rec) : State :=
  if r.excluded then s
  else (List.range r.ntok).foldl (fun t i =>
    let pos := r.pos + i
    match (t.framePages p r.seq pos).head? with
    | some pg =>
      let h := (t.part p).hdr pg
      t.setPart p ((t.part p).setHdr pg { h with tokens := h.tokens.set (pos % 32) (toks.getD (r.slot + i) 0) })
    | none => t) s

/-- A run of consecutive records with one group (R354): GROUPED, VGROUP, first record, records, first slot, slots. -/
structure VRun where
  grouped : Bool
  vgroup : Nat
  first : Nat
  count : Nat
  slot : Nat
  slots : Nat
  deriving DecidableEq, Repr

/-- The runs of a batch, in order. -/
def vruns : Nat → List Rec → List VRun
  | _, [] => []
  | b, r :: t =>
    let one : VRun := ⟨r.grouped, if r.grouped then r.vgroup else 0, b, 1, r.slot, r.ntok⟩
    match vruns (b + 1) t with
    | [] => [one]
    | v :: rest =>
      if v.grouped = one.grouped ∧ v.vgroup = one.vgroup then
        { one with count := v.count + 1, slots := v.slots + r.ntok } :: rest
      else one :: v :: rest

/-- A run entry (R354). -/
def VRun.pack (v : VRun) : Nat :=
  2 ^ 63 + bit01 v.grouped * 2 ^ 62 + v.vgroup % 64 * 2 ^ 56 + v.count % 8192 * 2 ^ 41 + v.first % 4096 * 2 ^ 29 +
    v.slots % 32768 * 2 ^ 14 + v.slot % 16384

/-- Writes the run table into the area that VTABLE names (R354). -/
def State.writeRuns (s : State) (p : Nat) (rs : List Rec) : State :=
  if s.fa .serveVtableEnable [p] = 1 then
    let site := s.fa .serveVtableSite [p]
    let w := s.fa .serveVtableWord [p]
    let vs := vruns 0 rs
    let mu := (s.site site).mu
    let mu := mu.setWord w (BitVec.ofNat 512 (vs.length % 8192))
    let all := vs.map VRun.pack
    s.setMu site ((List.range 512).foldl (fun (m : Mu) i =>
      m.setWord (w + 1 + i) (BitVec.ofNat 512 (packElems 64 ((all.drop (8 * i)).take 8)))) mu)
  else s

/-- Cuts a batch into the bodies of STEP_DATA messages (R462). -/
def dataBodies (idx : Nat) : Nat → Nat → List Byte → List (List Byte)
  | 0, _, _ => []
  | _, _, [] => []
  | n + 1, off, bs =>
    (leBytes 2 idx ++ [0, 0] ++ leBytes 4 off ++ bs.take 4096) :: dataBodies idx n (off + 4096) (bs.drop 4096)

/-- Sends a batch down the combining tree to every other module of the partition (R476). -/
def State.sendBatch (s : State) (p idx : Nat) (bs : List Byte) : State :=
  let bodies := dataBodies idx (bs.length / 4096 + 1) 0 bs
  (s.treeChildren p).foldl (fun t m => bodies.foldl (fun u b => u.sendStep p 0x07 m false u.txn b) t) s

/-- Replaces the admitted step. -/
def State.setAdmitted (s : State) (p : Nat) (x : Step) : State := s.setPart p { s.part p with admitted := some x }

/-- Ends the admitted step without firing. -/
def State.failAdmitted (s : State) (p : Nat) (x : Step) (code : Nat) (detail : Word) : State :=
  s.setAdmitted p (x.decide code detail (s.pnow p))

/-- The reads of host memory that a delivery makes at the lead: the batch records and the token IDs (R264, R266). -/
def batchReads (e : Entry) : List Out :=
  (if e.seqCount = 0 then [] else [.hostRead (e.field 16 8) (16 * e.seqCount) false]) ++
    (if e.tokenCount = 0 then [] else [.hostRead (e.field 24 8) (4 * e.tokenCount) false])

/-- The guard of a step (R250, R251), which samples proof mode: an operand that the flip into the first section discarded then fails the
step with CAUSE 5 (R254). The outcome of a step that it refuses. -/
def State.guard (s : State) (p : Nat) (e : Edition) (x : Step) : State × Option (Nat × Word) :=
  let proof := s.fa .partPlateCtlProof [p] == 1
  match s.guardCheck e x proof, proof, x.flipOrphan with
  | some g, _, _ => (s.showGuard p g, some (Status.shapeOver, guardDetail g))
  | none, true, some i => (s.proofHit p i 5, some (Status.plateDefect, 2))
  | none, _, _ => (s, none)

/-- The first part of a delivery: the guard, the reading of the batch, checks 7 to 15, and R273 and R307. The batch is
none after two read errors: every read is then made again (R423). -/
def State.checkBatch (s : State) (p : Nat) (e : Edition) (x : Step) (batch : Option (List Byte)) : State :=
  let proof := s.fa .partPlateCtlProof [p] == 1
  match s.guard p e x with
  | (s, some o) => s.failAdmitted p x o.1 o.2
  | (s, none) => match batch with
    | none =>
      ((s.emits (batchReads x.entry ++ batchReads x.entry)).linkErr .hostLinkErrReadFail).failAdmitted p x Status.entryInvalid (invalidDetail 0xFFFF 1)
    | some bs =>
      let s := if s.isLead p then s.emits (batchReads x.entry) else s
      let n := x.entry.seqCount
      let rs := recordsOf n bs 0
      let toks := (List.range x.entry.tokenCount).map (fun i => leAt bs (16 * n + 4 * i) 4)
      match s.batchCheck p x [] 0 rs with
      | some f => s.failAdmitted p x Status.entryInvalid (invalidDetail f.1 f.2)
      | none =>
        if n = 0 ∧ x.entry.tokenCount ≠ 0 then s.failAdmitted p x Status.entryInvalid (invalidDetail 0xFFFF 9)
        else
          let rs := rs.map s.excludeRec
          let t := rs.foldl (fun u r => u.nameSeq p r) s
          let rs := rs.map (t.formatRec p e x.rows)
          let fails := (rs.filter (fun r => r.status == Status.kvFormat)).length
          let t := t.bump .serveKvFormatFails [p] fails
          let t := t.setAdmitted p { x with proof := proof, records := rs, tokens := toks, checked := true,
                                            gather := 0, gatherAt := t.pnow p,
                                            ln7 := t.fa .serveKvCtlLn7 [p] == 1, pageFmt := t.fa .serveKvCtlPageFmt [p] }
          if t.isLead p then t.sendBatch p x.entry.idx bs else t

/-- Excludes a record of the admitted step. -/
def Step.exclude (x : Step) (b status : Nat) : Step :=
  { x with records := x.records.modify b (fun r => { r with status := status, excluded := true })
           gather := b + 1, reclaim := false }

/-- A gathering meets an uncorrectable codeword: its ticks are counted, and the step ends without firing (R323, R372). -/
def State.failGather (s : State) (p : Nat) (x : Step) (a : Nat) : State :=
  (s.bump .serveReclaimTicks [p] (s.pnow p - x.gatherAt)).failAdmitted p { x with gatherAt := s.pnow p } Status.hbmUncorrectable
    (BitVec.ofNat 64 a)

/-- Step 3 of R316: the growing sequence is pre-empted, or dropped in LN7 mode (R319, R320). -/
def State.loseRecord (s : State) (p : Nat) (x : Step) (r : Rec) : State :=
  if x.ln7 then
    let t := s.releaseSeq p r.seq
    let t := t.setSeq r.seq { t.seqOf r.seq with state := 4 }
    (t.bump .serveDrops [p] 1).setAdmitted p (x.exclude x.gather Status.seqRecompute)
  else
    let c := s.checkTiles p (s.swapTiles p r.seq)
    match c.2 with
    | some a => c.1.failGather p x a
    | none => ((c.1.swapStart p r.seq).bump .servePreempts [p] 1).setAdmitted p (x.exclude x.gather Status.seqSwapped)

-- Assumption log 81 (DEDUCED).
/-- Gathers the pages of the records from the one in hand on, until one must wait, or fails the step (R315, R316). While the host link
is out of L0 no page is gathered (R437). -/
def State.gatherRecords (s : State) (p : Nat) (e : Edition) : Nat → State
  | 0 => s
  | n + 1 =>
    match (s.part p).admitted with
    | none => s
    | some x =>
      if x.outcome.isSome then s
      else match x.records[x.gather]? with
        | none => s
        | some r =>
          let next := { x with gather := x.gather + 1, reclaim := false }
          let bs := s.missingBlocks r.seq r.pos r.ntok
          if r.excluded || bs.isEmpty then (s.setAdmitted p next).gatherRecords p e n
          else if s.linkUp = false then s
          else
            let g := s.gather p (e.layers * bs.length) x.ln7 s.gatherFuel x.reclaim
            match g.2 with
            | .got =>
              let t := bs.foldl (fun u b => u.openFrame p r.seq e (e.frameFmt x) b) g.1
              (t.setAdmitted p next).gatherRecords p e n
            | .wait again => g.1.setAdmitted p { x with reclaim := again }
            | .ue a => g.1.failGather p x a
            | .fails => (g.1.loseRecord p x r).gatherRecords p e n

-- Assumption log 50 (DEDUCED).
/-- Every compute unit whose front plate holds an APPEND stroke takes the slot formats (R309). -/
def State.appendTables (s : State) (p : Nat) (fmts : Tab Nat) : State :=
  (s.sitesOf p).foldl (fun t i =>
    if (t.site i).front.appends then t.setCu i { (t.site i).cu with kvFmts := fmts } else t) s

-- Assumption log 79 (DESIGN CHOICE).
/-- The end of a delivery: the append tables, token IDs, the run table, and the step is the partition's firing step. Excluded slots carry token
ID 0 (R272). The dispatcher starts the step afresh (R334). A step that a flip has entered goes on once the flip has ended (R246). -/
def State.deliver (s : State) (p : Nat) (x : Step) : State :=
  let t := x.records.foldl (fun u r => u.noteTokens p x.tokens r) s
  let t := (t.writeRuns p x.records).appendTables p (t.slotFormats p x.records)
  let t := t.bump .serveReclaimTicks [p] (t.pnow p - x.gatherAt)
  let toks := x.tokens.zipIdx.map (fun k => match recOf x k.2 with
    | some (r, _) => if r.excluded then 0 else k.1
    | none => k.1)
  let y := { x with delivered := true, tokens := toks }
  let q := t.part p
  let t := t.setPart p { q with admitted := none, firing := some y, disp := Disp.reset }
  if y.row.isSome then t else t.setPhase p (t.betweenPhase p y)

/-- The gathering of the admitted step has ended. -/
def State.gathered (s : State) (p : Nat) (x : Step) : Bool :=
  x.checked && x.outcome.isNone && decide (x.records.length ≤ x.gather) && (s.part p).swapping.isEmpty

-- Assumption log 183 (DEDUCED).
/-- The plate of a step's first row is on the front, no flip is in progress, and the links of the partition's dies carry the batch:
step 8 of R22 follows steps 6 and 7 (R18, R22, R29). -/
def State.plateReady (s : State) (p : Nat) (x : Step) : Bool :=
  (match x.rows.head? with
    | some r => holds (s.part p).front x.edition r.1
    | none => true) && (s.part p).hold.all (fun t => decide (t ≤ s.pnow p)) && s.diesUp p

/-- A member has the whole batch of a step (R476). -/
def batchHere (x : Step) : Bool := decide (16 * x.entry.seqCount + 4 * x.entry.tokenCount ≤ x.batch.length)

/-- The step that is to be delivered next: the firing one where a flip has entered its first section, else the admitted one. -/
def State.toDeliver (s : State) (p : Nat) : Option Step :=
  match (s.part p).firing with
  | some x => if x.delivered then none else some x
  | none => (s.part p).admitted

/-- Delivers to the step that is to be delivered next, which stands in the place of the admitted one meanwhile; one that a flip has
entered and that fails stops firing. -/
def State.delivering (s : State) (p : Nat) (f : State → State) : State :=
  match (s.part p).firing with
  | none => f s
  | some x =>
    let c := s.chargeUp p
    let z := (c.part p).admitted
    let t := f (c.setPart p { c.part p with firing := none, admitted := some ((c.part p).firing.getD x) })
    match (t.part p).firing, (t.part p).admitted with
    | none, some y =>
      let u := t.setPart p { t.part p with firing := some y, admitted := z }
      if y.outcome.isSome then u.haltFabric p else u
    | _, _ => t.setPart p { t.part p with admitted := z }

/-- What BATCH_DELIVERY does with the step in the admitted place: checks, gathering, and the end of the delivery. While the host link is
out of L0 the lead does not read the batch (R437). -/
def State.deliverBatch (s : State) (p : Nat) (e : Edition) (x : Step) (batch : Option (List Byte)) : State :=
  if s.linkUp = false ∧ s.isLead p ∧ x.checked = false then s
  else
    let t := if x.checked then s else s.checkBatch p e x (if s.isLead p then batch else some x.batch)
    let t := t.gatherRecords p e (x.entry.seqCount + 1)
    match (t.part p).admitted with
    | some y => if t.gathered p y then t.deliver p y else t
    | none => t

-- Assumption log 81 (DEDUCED), 162 (DESIGN CHOICE).
/-- BATCH_DELIVERY (R22, R250 to R253, R271 to R273, R307, R315 to R321, R354): delivers the next step's shapes and batch
once the partition's previous step has completed and the plate of the first row is on the front. The command brings the batch as the lead reads it from host memory, none
after two errors; a member has it from STEP_DATA. While pages are gathered the command finds the step where it stood. -/
def execBatchDelivery (p : Nat) (batch : Option (List Byte)) (s : State) : Host.Outcome State Fault Refusal :=
  match s.toDeliver p with
  | some x =>
    if x.outcome.isSome || x.entry.kind != 0 || decide (s.powerState ≥ 2) || (!s.isLead p && !batchHere x) ||
        !s.plateReady p x then .next s
    else match s.resident x.edition with
      | none => .next s
      | some e => .next ((s.delivering p (fun t => t.deliverBatch p e x batch)).memberAdmit p)
  | none => .next s

/-! ### Completions (R274 to R277, R284, R286, R344, R424, R476) -/

-- Assumption log 214 (DESIGN CHOICE).
/-- Writes of a completion, or their holding while the link is out of L0; the completion entry is the last of them. -/
def State.hostComplete (s : State) (p : Nat) (ws : List (Nat × List Byte)) (irq : Bool) : State :=
  if s.linkUp then
    let t := s.emits (ws.flatMap (fun (w : Nat × List Byte) => hostWrites w.1 w.2))
    if irq then t.msix p else t
  else s.setHost { s.host with held := s.host.held ++ [(p, ws, irq)] }

/-- Completions of a partition that are held (R437). -/
def State.heldOf (s : State) (p : Nat) : Nat := (s.host.held.filter (fun h => h.1 == p)).length

/-- The 64 bytes of a completion entry (R274). -/
def completionLine (x : Step) (status issues ended : Nat) (tail : List Byte) : List Byte :=
  leBytes 2 status ++ leBytes 2 (x.entry.idx % 4096 + x.entry.phase * 4096 + x.entry.kind * 8192) ++ leBytes 2 issues ++
    [0, 0] ++ leBytes 8 (x.entry.field 48 8) ++ leBytes 8 x.start ++ leBytes 8 ended ++
    (tail ++ List.replicate 32 0).take 32

/-- A failing code of a record (R276). -/
def failsRecord (c : Nat) : Bool := c != 0 && c != Status.deferLimit

/-- The final status of each record (R276, R476): a failing code comes before the warning of any module, the failing code that was
first before a later one. -/
def Step.statuses (x : Step) : List Nat :=
  x.records.zipIdx.map (fun r =>
    let all := r.1.status :: x.shares.flatMap (fun h => (h.records.filter (fun e => e.1 == r.2)).map (·.2))
    let first := tabGet (fun _ => 0) x.first r.2
    if first ≠ 0 then first
    else match all.find? failsRecord with
      | some c => c
      | none => if all.contains Status.deferLimit then Status.deferLimit else 0)

/-- A record with this status advances (R276). -/
def advances (status : Nat) : Bool := status == Status.ok || status == Status.deferLimit

-- Assumption log 84 (DEDUCED).
/-- The completed step advances one record: LENGTH, pages that are full, block hashes, CHAIN and publishing (R276, R284,
R286, R299). -/
def State.advance (s : State) (p : Nat) (r : Rec) : State :=
  let q := s.seqOf r.seq
  let n := (r.len + r.ntok) % 2 ^ 32
  let blocks := (List.range (n / 32 - r.len / 32)).map (fun i => r.len / 32 + i)
  let step : State × Nat → Nat → State × Nat := fun a b =>
    let pages := a.1.framePages p r.seq (32 * b)
    let full := a.1.setPart p (pages.foldl (fun (z : Part) pg => z.setHdr pg { z.hdr pg with state := 3 }) (a.1.part p))
    match q.pfx, s.nsKey p q.ns, pages.head? with
    | true, some key, some pg =>
      let toks := ((a.1.part p).hdr pg).tokens
      let h := blockHash key a.2 toks
      let f := tabGet (fun _ => 0) a.1.blocks (1024 * r.seq + b) % 2 ^ 30
      (if r.publish then full.publish p q.ns h f toks else full, h)
    | _, _, _ => (full, a.2)
  let done := blocks.foldl step (s, q.chain)
  done.1.setSeq r.seq { done.1.seqOf r.seq with length := n, chain := done.2 }

/-- Token ID and log-probability of a batch entry in the result area (R277). -/
def State.sampled (s : State) (p b : Nat) : Nat × Nat :=
  let mu := (s.site (s.fa .servePresultSite [p])).mu
  let w := (mu.word (s.fa .servePresultWord [p] + b / 8)).toNat >>> (64 * (b % 8))
  (w % 2 ^ 32, w / 2 ^ 32 % 2 ^ 32)

/-- The output records of a step, after its records have advanced (R275). -/
def State.outputs (s : State) (p : Nat) (x : Step) (st : List Nat) : List Byte :=
  x.records.zipIdx.flatMap (fun r =>
    let code := st.getD r.2 0
    let hit := r.1.sample && advances code
    let tk := if hit then s.sampled p r.2 else (0xFFFFFFFF, 0)
    let lp := if tk.1 = 0xFFFFFFFF then 0 else tk.2
    leBytes 4 tk.1 ++ leBytes 4 lp ++ leBytes 2 code ++ [0, 0] ++ leBytes 4 (s.seqOf r.1.seq).length)

/-- A layer block of the router histogram (R344). -/
def histBlock (hist : Tab Nat) (layer : Nat) : List Byte :=
  (List.range 512).flatMap (fun e => leBytes 8 (tabGet (fun _ => 0) hist (512 * layer + e)))

/-- The router histogram (R344). -/
def State.histBytes (s : State) (x : Step) : List Byte :=
  let n := match s.resident x.edition with
    | some e => e.rlayers
    | none => 0
  leBytes 2 x.layers ++ [0, 0] ++ leBytes 4 x.edition ++ List.replicate 56 0 ++
    (List.range n).flatMap (histBlock x.hist)

/-- The bodies of the parts of STEP_DONE (R476). -/
def doneBodies (idx status : Nat) (detail : Word) (charge : Nat) (st : List Nat) : Nat → Nat → List (Bool × List Byte)
  | 0, _ => []
  | n + 1, first =>
    let part := (st.drop first).take 2048
    let last := decide (st.length ≤ first + 2048)
    (last, leBytes 2 idx ++ leBytes 2 status ++ leBytes 2 first ++ leBytes 2 part.length ++ leBytes 8 detail.toNat ++
      leBytes 8 charge ++ part.flatMap (leBytes 2)) ::
      (if last then [] else doneBodies idx status detail charge st n (first + 2048))

/-- A member's share is done: STEP_DONE and the HIST blocks go to the lead (R345, R476). -/
def State.sendShare (s : State) (p : Nat) (x : Step) (status : Nat) (detail : Word) : State :=
  let t := (List.range x.layers).foldl (fun u i =>
    u.sendStep p 0x09 (u.lead p) false u.txn (leBytes 2 x.entry.idx ++ leBytes 2 i ++ histBlock x.hist i)) s
  (doneBodies x.entry.idx status detail x.charge (x.records.map (·.status)) 4 0).foldl
    (fun u b => u.sendStep p 0x08 (u.lead p) b.1 u.txn b.2) t

-- Assumption log 86 (DEDUCED).
/-- Every member's share of the step is done (R476). -/
def State.sharesDone (s : State) (p : Nat) (x : Step) : Bool :=
  (s.others p).all (fun m => x.shares.any (fun h =>
    h.module_ == m && h.fin && (List.range x.records.length).all (fun b => h.records.any (fun r => r.1 == b))))

-- Assumption log 86 (DEDUCED).
/-- The outcome of a step that ends now: its status and DETAIL. -/
def Step.verdict (x : Step) : Nat × Word :=
  match x.outcome with
  | some o => o
  | none => if x.warned || x.shares.any (fun h => h.status == Status.plateDefect) then (Status.plateDefect, 1) else (0, 0)

/-- The step ran to its end, so that its records advance (R276). -/
def ranToEnd (o : Nat × Word) : Bool := o.1 == Status.ok || (o.1 == Status.plateDefect && o.2 == 1)

/-- Records the meaning of a PLATE_DEFECT (R256). -/
def State.noteDefect (s : State) (p : Nat) (x : Step) (o : Nat × Word) : State :=
  if o.1 = Status.plateDefect then
    s.setv .partDefect [p] (BitVec.ofNat 64 (2 ^ 63 + o.2.toNat % 4 * 2 ^ 61 + x.entry.idx % 4096))
  else s

/-- Bytes 32 to 63 of a STEP completion (R274); the two totals saturate (R345). -/
def stepTail (charge : Nat) (detail : Word) (dropped deferred samples : Nat) : List Byte :=
  leBytes 8 (charge % 2 ^ 48) ++ leBytes 8 detail.toNat ++ leBytes 4 (min 0xFFFFFFFF dropped) ++ leBytes 4 (min 0xFFFFFFFF deferred) ++
    leBytes 2 samples

/-- Counts a completed entry and its charge (R279, R280). -/
def State.settle (s : State) (p charge : Nat) : State :=
  let t := (s.bump .serveCharged [p] charge).bump .serveEntries [p] 1
  t.setDeficit p (satDeficit ((t.part p).deficit - Int.ofNat charge))

-- Assumption log 84 (DEDUCED).
/-- Completes a STEP: records advance, and the module that led at the admission writes outputs, histogram and the completion entry; a
member reports its share (R274 to R277, R344, R476). -/
def State.finishStep (s : State) (p : Nat) (x : Step) (ended : Nat) : State :=
  let o := x.verdict
  let ran := ranToEnd o
  let st := x.statuses
  let t := s.noteDefect p x o
  let t := if ran then
    (x.records.zip st).foldl (fun u r => if advances r.2 then u.advance p r.1 else u) t else t
  if x.lead then
    let charge := x.shares.foldl (fun n h => n + h.charge) x.charge
    let samples := ((x.records.zip st).filter (fun r => ran && r.1.sample && advances r.2)).length
    let issues := (st.filter (fun c => c != 0)).length
    let out := if ran && !x.records.isEmpty then [(x.entry.field 32 8, t.outputs p x st)] else []
    let hist := if x.entry.kind == 0 && x.entry.field 40 8 != 0 then [(x.entry.field 40 8, t.histBytes x)] else []
    let line := completionLine x o.1 issues ended (stepTail charge o.2 x.dropped x.deferred samples)
    let slot := t.fa .hostRingBaseAddr [p] + 64 * (x.entry.idx % 4096)
    (t.hostComplete p (out ++ hist ++ [(slot, line)]) (x.entry.irq && t.fa .hostLedgerCtlIrqEn [p] == 1)).settle p charge
  else if o.1 = Status.epoch ∨ o.1 = Status.killed then t
  else t.sendShare p x o.1 o.2

-- Assumption log 85 (DEDUCED).
/-- Completes a CONTROL entry, or an entry without results by an outcome (R263, R274, R289). -/
def State.finishControl (s : State) (p : Nat) (x : Step) (ended : Nat) : State :=
  if x.lead then
    let o := x.outcome.getD (0, 0)
    let line := completionLine x o.1 0 ended (x.results.flatMap (leBytes 4))
    let slot := s.fa .hostRingBaseAddr [p] + 64 * (x.entry.idx % 4096)
    (s.hostComplete p [(slot, line)] (x.entry.irq && s.fa .hostLedgerCtlIrqEn [p] == 1)).settle p 0
  else s

/-- Completes an entry of either kind. An entry of an invalid kind completes like a STEP. -/
def State.finish (s : State) (p : Nat) (x : Step) (ended : Nat) : State :=
  if x.entry.kind = 1 then s.finishControl p x ended else s.finishStep p x ended

/-- The firing step can complete: its outcome stands, or its last section has drained and every share is done. -/
def State.canComplete (s : State) (p : Nat) (x : Step) : Bool :=
  x.outcome.isSome || (x.drained && (!x.lead || s.sharesDone p x))

-- Assumption log 95 (DEDUCED).
/-- The completion of a step can be written, or held: at most two of a partition are held while the link is out of L0 (R437). -/
def State.roomToComplete (s : State) (p : Nat) (x : Step) : Bool := s.linkUp || !x.lead || decide (s.heldOf p < 2)

/-- Ticks of a gathering that the end of a step cut off (R323). -/
def State.countGather (s : State) (p : Nat) (x : Step) : State :=
  if (x.checked && !x.delivered) || x.gather == 1 && x.entry.kind == 1 then s.bump .serveReclaimTicks [p] (x.ended - x.gatherAt) else s

-- Assumption log 162 (DESIGN CHOICE).
/-- STEP_COMPLETE (R274 to R277): the oldest entry of the partition whose outcome is decided completes. What a unit still
sent in the event that aborted a firing step is emptied with it (R108 step 3). Ticks of a gathering that an abort ended count with
its completion (R323). -/
def execStepComplete (p : Nat) (s : State) : Host.Outcome State Fault Refusal :=
  match (s.part p).firing, (s.part p).admitted with
  | some x, _ =>
    if s.roomToComplete p x && s.canComplete p x then
      let u := if x.outcome.isSome then (s.countGather p x).haltFabric p else s
      let u := (u.setPart p { u.part p with firing := none }).endRounds p x.entry.idx
      .next (((u.setPhase p 0).finish p x x.ended).memberAdmit p)
    else .next s
  | none, some y =>
    if s.roomToComplete p y && (y.outcome.isSome || (y.entry.kind == 1 && decide (y.entry.opCount ≤ y.results.length))) then
      let t := s.countGather p y
      .next (((t.setPart p { t.part p with admitted := none }).finish p y y.ended).memberAdmit p)
    else .next s
  | none, none => .next s

/-! ### Control operations (R260, R267 to R270, R285) -/

-- Assumption log 85 (DEDUCED), 92 (DEDUCED).
/-- Runs the next operation of the admitted CONTROL entry, where it is the one named, no step of the partition fires and
the entry has no outcome: the operation's meaning gives the state and RESULT with VALUE, or none while it waits. -/
def State.control (s : State) (p code : Nat) (f : State → Step → Nat → State × Option (Nat × Nat)) : State :=
  match (s.part p).firing, (s.part p).admitted with
  | none, some x =>
    let w := x.entry.op x.results.length
    if x.entry.kind = 1 ∧ x.outcome.isNone ∧ x.results.length < x.entry.opCount ∧ opCode w = code then
      if s.inRange p (opSeq w) = false then
        s.setAdmitted p ((x.result CtlResult.badSeq 0 (s.pnow p)).skipBad (s.pnow p) 8)
      else
        let r := f s x w
        match r.2, (r.1.part p).admitted with
        | some v, some y =>
          if y.outcome.isSome then r.1
          else r.1.setAdmitted p ((y.result v.1 v.2 (s.pnow p)).skipBad (s.pnow p) 8)
        | _, _ => r.1
    else s
  | _, _ => s

/-- OPEN (R260, R283, R288). -/
def execOpen (p : Nat) (s : State) : Host.Outcome State Fault Refusal :=
  .next (s.control p 1 (fun t _ w =>
    if (t.seqOf (opSeq w)).state ≠ 0 then (t, some (CtlResult.badState, 0))
    else
      let vset := opArg1 w % 8192
      (t.setSeq (opSeq w) { chain := chainSeed (opArg0 w) vset, length := 0, edition := opArg0 w, lastTs := 0,
                            pfx := (t.nsKey p (opNs w)).isSome, vset := vset, pgroup := opPgroup w, ns := opNs w,
                            part := p, state := 1 }, some (0, 0))))

/-- PARK (R260). -/
def execPark (p : Nat) (s : State) : Host.Outcome State Fault Refusal :=
  .next (s.control p 2 (fun t _ w =>
    let q := t.seqOf (opSeq w)
    if q.state ≠ 1 then (t, some (CtlResult.badState, 0))
    else (t.setSeq (opSeq w) { q with state := 2 }, some (0, 0))))

/-- CLOSE (R260, R322, R433). -/
def execClose (p : Nat) (s : State) : Host.Outcome State Fault Refusal :=
  .next (s.control p 4 (fun t _ w =>
    let q := t.seqOf (opSeq w)
    if q.state = 0 ∨ q.state = 5 then (t, some (CtlResult.badState, 0))
    else
      let u := t.releaseSeq p (opSeq w)
      (u.setSeq (opSeq w) { q with state := 5 }, some (0, 0))))

/-- SEQUENCE_RELEASE_COMPLETE (R260): the entry of a CLOSED sequence is set to zero. -/
def execSequenceReleaseComplete (seq : Nat) (s : State) : Host.Outcome State Fault Refusal :=
  .next (if (s.seqOf seq).state = 5 then s.setSeq seq Seq.reset else s)

-- Assumption log 91 (DEDUCED).
/-- Walks the directory for a LOOKUP: blocks mapped so far and the last hash. Every match whose tokens disagree counts in
PFX_VERIFY_FAIL; where no entry of the set verifies, the block is a miss (R285). -/
def State.lookupWalk (s : State) (p seq ns key : Nat) (toks : List Nat) : Nat → Nat → Nat → State × Nat × Nat
  | 0, b, h => (s, b, h)
  | n + 1, b, h =>
    let t32 := (toks.drop (32 * b)).take 32
    let h' := blockHash key h t32
    let c := s.bump .servePfxVerifyFail [] ((s.dirMatches p ns h').filter (fun m => !s.dirVerify m.2 t32)).length
    match s.dirHit p ns h' t32 with
    | none => (c.bump .servePfxMiss [] 1, b, h)
    | some m =>
      let t := (c.putDir m.1 (some { m.2 with age := s.age p })).takeFrame p m.2.frame
      ((t.setBlock seq b false m.2.frame).bump .servePfxHit [] 1).lookupWalk p seq ns key toks n (b + 1) h'

-- Assumption log 91 (DEDUCED).
/-- LOOKUP (R285, R288, R312): the command brings the token IDs as read from host memory, none after two errors, which
complete the entry with ENTRY_INVALID (R423). While the namespace is being cleared every block misses. It waits for the host link
(R437). -/
def execLookup (p : Nat) (tokens : Option (List Nat)) (s : State) : Host.Outcome State Fault Refusal :=
  .next (s.control p 5 (fun t x w =>
    let q := t.seqOf (opSeq w)
    if q.state ≠ 1 then (t, some (CtlResult.badState, 0))
    else if q.pfx = false then (t, some (CtlResult.noKey, 0))
    else if q.length ≠ 0 then (t, some (CtlResult.badState, 0))
    else if t.linkUp = false then (t, none)
    else
      let t := t.emit (.hostRead (opArg1 w) (4 * opArg0 w) false)
      match tokens, t.nsKey p q.ns with
      | none, _ =>
        (((t.emit (.hostRead (opArg1 w) (4 * opArg0 w) false)).linkErr .hostLinkErrReadFail).failAdmitted p x Status.entryInvalid (invalidDetail 0xFFFF 1), none)
      | some _, none => (t, some (CtlResult.noKey, 0))
      | some toks, some key =>
        let n := min 1024 ((opArg0 w - 1) / 32)
        if (t.fv .serveNskeyStateClearing [p]).testBit q.ns then
          (if n = 0 then t else t.bump .servePfxMiss [] 1, some (0, 0))
        else
          let r := t.lookupWalk p (opSeq w) q.ns key toks n 0 q.chain
          (r.1.setSeq (opSeq w) { r.1.seqOf (opSeq w) with length := 32 * r.2.1, chain := r.2.2 },
            some (0, 32 * r.2.1))))

/-- Decrypts consecutive data units (R436). -/
def plain (key off unit : Nat) : Nat → List Byte → List Byte
  | 0, _ => []
  | n + 1, bs => xtsDecrypt key off (bs.take unit) ++ plain key (off + unit) unit n (bs.drop unit)

-- Assumption log 88 (DEDUCED), 89 (DEDUCED).
/-- The header that a resumed page takes: formats, scales and bits [23:0] of the token IDs from its decrypted copy (R433); the
module keeps the rest itself. -/
def resumedHdr (raw : Nat) (layer age seq : Nat) (full : Bool) (high : List Nat) : PageHdr :=
  { layer := layer, fmt := bitsOf raw 1015 1012, state := if full then 3 else 2, kscale := bitsOf raw 999 992,
    vscale := bitsOf raw 991 984, refs := 1, age := age, seq := seq,
    tokens := if layer = 0 then (List.range 32).map (fun i => bitsOf raw (24 * i + 23) (24 * i) + high.getD i 0 * 2 ^ 24) else [] }

-- Assumption log 89 (DEDUCED).
/-- Fills the pages of one swapped frame with what the host's slots hold and maps the frame (R319, R433, R435). -/
def State.resumeBlock (s : State) (p seq len : Nat) (b : Nat × Nat) (blobs : List (List Byte)) : State :=
  let slots := tabGet (fun _ => []) (s.part p).swapFrames b.2
  let pages := (s.freeList p).take slots.length
  let full := decide (32 * (b.1 + 1) ≤ len)
  let high := tabGet (fun _ => []) (s.part p).swapHigh b.2
  let key := s.swapKey p
  let fill : State → (Nat × Nat) × Nat → State := fun t e =>
    let blob := blobs.getD e.2 []
    let slot := e.1.2
    let data := plain key (65536 * slot) 4096 16 (blob.take 65536)
    let raw := leNat (plain key (t.headerOffset p slot) 128 1 ((blob.drop 65536).take 128))
    let t := (t.writePart p 0x1FFF (t.poolAddr p e.1.1) data).1
    t.setPart p ((t.part p).setHdr e.1.1 (resumedHdr raw e.2 (t.age p) seq full high))
  let t := ((pages.zip slots).zipIdx).foldl fill s
  let q := t.part p
  let f := q.freeFrame
  let q := ({ q with frames := tabSet (fun _ => []) q.frames f pages }).freeRecords [b.2]
  (t.setPart p q).setBlock seq b.1 false f

-- Assumption log 90 (DESIGN CHOICE).
/-- Fills the swapped frames of a sequence in block order. -/
def State.resumeBlocks (s : State) (p seq len : Nat) : List (Nat × Nat) → List (List Byte) → State
  | [], _ => s
  | b :: t, blobs =>
    let n := (tabGet (fun _ => []) (s.part p).swapFrames b.2).length
    (s.resumeBlock p seq len b blobs).resumeBlocks p seq len t (blobs.drop n)

/-- The reads of host memory that fill a sequence's swapped frames: slots with their headers (R433). -/
def State.resumeReads (s : State) (p : Nat) (bs : List (Nat × Nat)) : List Out :=
  let base := s.fa .hostSwapBaseAddr [p]
  (bs.flatMap (fun b => tabGet (fun _ => []) (s.part p).swapFrames b.2)).flatMap (fun n =>
    [.hostRead (base + 65536 * n) 65536 false, .hostRead (base + s.headerOffset p n) 128 false])

/-- The gathering of a RESUME has ended: its ticks are counted (R323). -/
def State.endGather (s : State) (p : Nat) (x : Step) : State :=
  if x.gather = 1 then
    (s.bump .serveReclaimTicks [p] (s.pnow p - x.gatherAt)).setAdmitted p { x with gather := 0 }
  else s

-- Assumption log 90 (DESIGN CHOICE).
/-- RESUME (R260, R270, R433 to R435): the command brings, in block and layer order, what the host's slots and headers hold,
64 KiB and 128 bytes for each page, none where a read failed twice (R435). Gathering and swap-in wait for the host link (R437), swap-in for
the links of the partition's dies (R18, R29), and for the swap-outs that were asked for before it (R434). -/
def execResume (p : Nat) (blobs : Option (List (List Byte))) (s : State) : Host.Outcome State Fault Refusal :=
  .next (s.control p 3 (fun t x w =>
    let seq := opSeq w
    let q := t.seqOf seq
    if q.state = 2 then (t.setSeq seq { q with state := 1 }, some (0, 0))
    else if q.state ≠ 3 then (t, some (CtlResult.badState, 0))
    else
      let bs := t.blockList seq true
      let need := (bs.map (fun b => (tabGet (fun _ => []) (t.part p).swapFrames b.2).length)).foldl (· + ·) 0
      if !(t.part p).swapping.isEmpty then (t, none)
      else if !x.reclaim && !t.canGather p need t.gatherFuel false then (t, some (CtlResult.noPages, 0))
      else if t.linkUp = false then (t, none)
      else
        let g := t.gather p need false t.gatherFuel x.reclaim
        match g.2 with
        | .wait again =>
          (g.1.setAdmitted p { x with reclaim := again, gather := 1, gatherAt := if x.gather = 1 then x.gatherAt else g.1.pnow p }, none)
        | .got =>
          let v := (g.1.endGather p x).swapAsk (p, 2 ^ 32 + seq)
          if v.diesUp p = false ∨ v.swapTurn (p, 2 ^ 32 + seq) = false then (v, none)
          else
            let v := v.emits (v.resumeReads p bs)
            match blobs with
            | none => ((v.emits (v.resumeReads p bs)).linkErr .hostLinkErrReadFail, some (CtlResult.noPages, 0))
            | some l =>
              let u := v.resumeBlocks p seq q.length bs l
              let u := u.bump .serveSwapIn [p] need
              (u.setSeq seq { u.seqOf seq with state := 1 }, some (0, 0))
        | _ => (g.1.endGather p x, some (CtlResult.noPages, 0))))

/-! ### Step messages (R462, R476, R484) -/

/-- A message of this type comes down the combining tree: the module is no lead and the sender is its parent (R476, R488). -/
def State.fromParent (s : State) (p src : Nat) : Bool := !s.isLead p && (s.ancestors p).head? == some src

/-- Passes a message of the lead on down the combining tree (R476). -/
def State.passDown (s : State) (p typ : Nat) (body : List Byte) : State :=
  (s.treeChildren p).foldl (fun t m => t.sendStep p typ m false t.txn body) s

-- Assumption log 83 (DEDUCED).
/-- STEP_DESC: a member takes the lead's entry, runs its share of it, and passes it on. Before the first time exchange has completed it
accepts no step, and takes nothing (R55, R495). -/
def execStepDesc (port : Nat) (h : Hdr) (body : List Byte) (s : State) : Host.Outcome State Fault Refusal :=
  .next (s.receive port 0x06 h body (fun t p =>
    if !t.fromParent p h.src then t
    else
      let e : Entry := ⟨leAt body 0 2 % 4096, BitVec.ofNat 2048 (leAt body 16 256), 0, 0⟩
      let u := if t.fv .timePsyncSynced [p] = 0 then t
        else (t.setPart p { t.part p with fetched := (t.part p).fetched ++ [e] }).memberAdmit p
      u.passDown p 0x06 body))

/-- Places bytes at an offset of a batch received so far; those at offset 0 begin a batch. -/
def placeBytes (have_ : List Byte) (off : Nat) (bs : List Byte) : List Byte :=
  if off = 0 then bs
  else (have_ ++ List.replicate (off - have_.length) 0).take off ++ bs ++ have_.drop (off + bs.length)

/-- Applies a change to the step with a ledger index, firing or admitted. -/
def State.onStep (s : State) (p idx : Nat) (f : Step → Step) : State :=
  let q := s.part p
  match q.firing, q.admitted with
  | some x, _ =>
    if x.entry.idx = idx then s.setPart p { q with firing := some (f x) }
    else match q.admitted with
      | some y => if y.entry.idx = idx then s.setPart p { q with admitted := some (f y) } else s
      | none => s
  | none, some y => if y.entry.idx = idx then s.setPart p { q with admitted := some (f y) } else s
  | none, none => s

/-- Bytes of the batch of a step: the step has them, or they wait for its admission (R476). -/
def State.takeData (s : State) (p idx off : Nat) (bs : List Byte) : State :=
  let q := s.part p
  if q.firing.any (fun x => x.entry.idx == idx) || q.admitted.any (fun x => x.entry.idx == idx) then
    s.onStep p idx (fun x => { x with batch := placeBytes x.batch off bs })
  else s.setPart p { q with early := tabSet (fun _ => []) q.early idx (placeBytes (tabGet (fun _ => []) q.early idx) off bs) }

-- Assumption log 83 (DEDUCED).
/-- STEP_DATA: a member collects the batch of a step and passes it on; one that accepts no step yet takes nothing (R55). -/
def execStepData (port : Nat) (h : Hdr) (body : List Byte) (s : State) : Host.Outcome State Fault Refusal :=
  .next (s.receive port 0x07 h body (fun t p =>
    if !t.fromParent p h.src then t
    else
      let u := if t.fv .timePsyncSynced [p] = 0 then t else t.takeData p (leAt body 0 2 % 4096) (leAt body 4 4) (body.drop 8)
      u.passDown p 0x07 body))

/-- Notes the failing statuses that a member reports: for each record the first that the lead knows of stands (R276, R476). -/
def Step.noteFirst (x : Step) (recs : List (Nat × Nat)) : Tab Nat :=
  recs.foldl (fun f e =>
    let own := ((x.records[e.1]?).map (·.status)).getD 0
    if !failsRecord e.2 || tabGet (fun _ => 0) f e.1 != 0 then f
    else tabSet (fun _ => 0) f e.1 (if failsRecord own then own else e.2)) x.first

/-- Adds a part of STEP_DONE to a member's share (R476). -/
def Step.addShare (x : Step) (m : Nat) (fin : Bool) (body : List Byte) : Step :=
  let old := (x.shares.find? (fun h => h.module_ == m)).getD ⟨m, 0, 0, 0, [], false⟩
  let recs := (List.range (leAt body 6 2)).map (fun i => (leAt body 4 2 + i, leAt body (24 + 2 * i) 2))
  let new : Share := { old with status := leAt body 2 2, detail := BitVec.ofNat 64 (leAt body 8 8), charge := leAt body 16 8,
                                records := old.records ++ recs, fin := old.fin || fin }
  { x with shares := x.shares.filter (fun h => h.module_ != m) ++ [new], first := x.noteFirst recs }

-- Assumption log 86 (DEDUCED).
/-- STEP_DONE (R476): the lead takes a part of a member's share; a share that did not run to its end aborts the step with
its code. -/
def execStepDone (port : Nat) (h : Hdr) (body : List Byte) (s : State) : Host.Outcome State Fault Refusal :=
  .next (s.receive port 0x08 h body (fun t p =>
    if t.isLead p then
      let idx := leAt body 0 2 % 4096
      let code := leAt body 2 2
      let detail := BitVec.ofNat 64 (leAt body 8 8)
      let mine := (t.part p).firing.any (fun x => x.entry.idx == idx) || (t.part p).admitted.any (fun x => x.entry.idx == idx)
      let u := t.onStep p idx (fun x => x.addShare h.src h.fin body)
      if mine && !ranToEnd (code, detail) then
        let v := u.abortEntry p idx code detail
        if v.spans p then v.sendAbort p idx code detail else v
      else u
    else t))

/-- Adds four packed counts, each saturating at 0xFFFF (R344, R345). -/
def addCounts (a b : Nat) : Nat :=
  (List.range 4).foldl (fun n i => n + min 0xFFFF (bitsOf a (16 * i + 15) (16 * i) + bitsOf b (16 * i + 15) (16 * i)) *
    2 ^ (16 * i)) 0

-- Assumption log 184 (DESIGN CHOICE).
/-- A count of a member as the totals take it: one that has saturated stands for some greater number, which the message does not
carry (R345, R462). -/
def memberCount (c k : Nat) : Nat := if c = 0xFFFF then c + Config.freeNat k else c

-- Assumption log 184 (DESIGN CHOICE).
/-- Adds the entry of an expert of a member's layer block to the step's histogram, and its choices to the totals. How many of the
dropped choices had entered the deferred pass the message does not say. -/
def Step.addEntry (x : Step) (k c free : Nat) : Step :=
  let lost := memberCount (bitsOf c 47 32) free
  { x with hist := tabSet (fun _ => 0) x.hist k (addCounts (tabGet (fun _ => 0) x.hist k) c)
           dropped := x.dropped + lost
           deferred := x.deferred + memberCount (bitsOf c 31 16) (free + 1) + Config.freeNat (free + 2) % (lost + 1) }

-- Assumption log 184 (DESIGN CHOICE).
/-- HIST (R345, R476): the lead adds a member's layer block to the step's histogram, and its dropped and deferred choices
to the totals. -/
def execHist (port : Nat) (h : Hdr) (body : List Byte) (s : State) : Host.Outcome State Fault Refusal :=
  .next (s.receive port 0x09 h body (fun t p =>
    if t.isLead p then
      let layer := leAt body 2 2
      let u := t.onStep p (leAt body 0 2 % 4096) (fun x =>
        (List.range 512).foldl (fun (y : Step) e => y.addEntry (512 * layer + e) (leAt body (4 + 8 * e) 8) (t.free + 3 * e))
          { x with layers := max x.layers (layer + 1) })
      { u with free := u.free + 1536 }
    else t))

/-- STEP_ABORT (R468, R476): a member ends the step by steps 2 to 5 of R108; at the lead the abort of a member ends it on
every module. -/
def execStepAbort (port : Nat) (h : Hdr) (body : List Byte) (s : State) : Host.Outcome State Fault Refusal :=
  .next (s.receive port 0x0A h body (fun t p =>
    let idx := leAt body 0 2 % 4096
    let code := leAt body 2 2
    let detail := BitVec.ofNat 64 (leAt body 8 8)
    let mine := (t.part p).firing.any (fun x => x.entry.idx == idx) || (t.part p).admitted.any (fun x => x.entry.idx == idx)
    if mine then
      let u := t.abortEntry p idx code detail
      if t.isLead p then u.sendAbort p idx code detail else u
    else t))

end Sys2Proof.Machine
end

