-- ==== Sys2Proof/Machine/Dispatcher.lean ====
section
/-! DEFINITION. The expert dispatcher (R325 to R348, R469, R470). -/

namespace Sys2Proof.Machine

open Sys2Proof

/-! ### The expert map and the placement table (R327, R329) -/

/-- A routed layer descriptor (R327). -/
structure RLayer where
  layer : Nat
  experts : Nat
  chunks : Nat
  routeCtx : Nat
  deferCtx : Nat
  weightCtx : Nat
  deriving DecidableEq, Repr

/-- The descriptor of a routed layer. -/
def Edition.rlayer (e : Edition) (i : Nat) : RLayer :=
  let o := 136 + 8 * i
  ⟨e.emap o 1, e.emap (o + 1) 2 % 512 + 1, e.emap (o + 3) 1 % 16 + 1, e.emap (o + 4) 1 % 16, e.emap (o + 4) 1 / 16,
    e.emap (o + 5) 1 % 16⟩

/-- The routed layer of an edition with a model layer. -/
def Edition.rlayerOf (e : Edition) (layer : Nat) : Option RLayer :=
  ((List.range e.rlayers).map e.rlayer).find? (fun r => r.layer == layer)

/-- A replica of an expert: VALID, MODULE, LSLOT, CAP, DEFER_CAP (R329). -/
structure Replica where
  valid : Bool
  module_ : Nat
  lslot : Nat
  cap : Nat
  deferCap : Nat
  deriving DecidableEq, Repr

/-- Replica r of a placement entry. -/
def replicaOf (entry r : Nat) : Replica :=
  let w := bitsOf entry (64 * r + 63) (64 * r)
  ⟨bitOf w 63, bitsOf w 62 51, bitsOf w 50 45, bitsOf w 31 16, bitsOf w 15 0⟩

/-- GRANT and PRIVATE of a placement entry. -/
def grantOf (entry : Nat) : Nat := bitsOf entry 527 512
-- Assumption log 103 (DEDUCED).
def privateOf (entry : Nat) : Bool := bitOf entry 528

/-- A placement table as the dispatcher reads it for one layer: MODE is DEFER, and the entries by expert; none while
EXPERT_TBL is not enabled (R348). -/
structure Placement where
  deferred : Bool
  entries : List Nat
  deriving DecidableEq, Repr

/-- Address of the table in its module (R329). -/
def State.tableAddr (s : State) (p : Nat) : Nat := s.fa .serveExpertTblAddr [p] * 4096

-- Assumption log 102 (DESIGN CHOICE).
/-- The table lies on this module. -/
def State.tableHere (s : State) (p : Nat) : Bool := s.fa .serveExpertTblModule [p] == s.coord p

/-- The header of a layer and the entries that some choices name, as partition addresses of 128 bytes each (R330). -/
def tableRecords (base rl : Nat) (experts : List Nat) : List Nat :=
  (base + 128 * rl) :: experts.map (fun e => base + 32768 + 65536 * rl + 128 * e)

/-- Bytes of partition address as a read of the partition's delivers them; addresses without HBM, and pages whose tag refuses it,
read as zero (R365). -/
def State.peekPart (s : State) (p a n : Nat) : Nat :=
  leNat ((List.range n).map (fun i => match s.place p (a + i) with
    | .hbm m => if tagAllows (s.hbm.tag (m / 65536)) p false then s.hbm.good m else 0
    | _ => 0))

-- Assumption log 102 (DESIGN CHOICE).
/-- The table of this module for a routed layer. -/
def State.localTable (s : State) (p rl experts : Nat) : Placement :=
  let b := s.tableAddr p
  ⟨bitOf (s.peekPart p (b + 128 * rl) 1) 0,
    (List.range experts).map (fun e => s.peekPart p (b + 32768 + 65536 * rl + 128 * e) 128)⟩

/-! ### Candidate lists (R326, R333, R334) -/

/-- The dispatcher still sends a partition's streams of a layer (R333, R339). -/
def Disp.sending (d : Disp) : Bool := d.owed.any (fun o => o.2.1 == 6)

/-- The input of a partition's layer has ended: it takes its place behind those of the other partitions (R347). -/
def State.takeTurn (s : State) (p : Nat) : State :=
  if s.layerEnded p then
    let n := (List.range 32).foldl (fun k q => max k (s.part q).disp.turn) 0
    s.setPart p { s.part p with disp := { (s.part p).disp with turn := n + 1 } }
  else s

/-- The dispatcher is free for a partition's layer: it sends no layer of any partition, and no input of another partition ended
before (R347). -/
def State.dispTurn (s : State) (p : Nat) : Bool :=
  (List.range 32).all (fun q =>
    let d := (s.part q).disp
    !d.sending && (d.turn == 0 || decide ((s.part p).disp.turn ≤ d.turn)))

-- Assumption log 102 (DESIGN CHOICE).
/-- CANDIDATE_LIST_ARRIVAL (R333, R348): the dispatcher takes a candidate list or a marker from local output slot 6 of a
dispatch site. It holds the slot while it owes operands of a layer. -/
def execCandidateListArrival (site : Nat) (s : State) : Host.Outcome State Fault Refusal :=
  match s.worksFor site, headOperand ((s.site site).su.outFifo 6) with
  | some p, some (o, rest) =>
    let d := (s.part p).disp
    if !(s.frontDispatch p).any (fun i => i.2 == site) || d.sending || s.layerEnded p || d.ended.contains site then .next s
    else
      let t := ((s.setSu site ((s.site site).su.take 6 rest)).muWake p site).progressBy p site (xfersOf o).length
      let put : Disp → State := fun x => t.setPart p { t.part p with disp := x }
      if o.eos then .next ((put { d with ended := d.ended ++ [site] }).takeTurn p)
      else
        let slot := tagIter o.tag
        if d.lists.any (fun l => l.1 == slot) then
          .next (((t.bump .serveDispDefects [p] 1).plateDefect p site 5).muRest p site)
        else
          let live := match (t.part p).firing with
            | some x => (match recOf x slot with
              | some (r, _) => !r.excluded
              | none => false)
            | none => false
          let l := if live then (listEntries o.words).filter (fun e => e.1 != 0xFFFFFFFF) else []
          .next (put { d with lists := d.lists ++ [(slot, site, l.foldl (fun a c => candInsert c a) [])] })
  | _, _ => .next s

/-! ### Decisions (R330 to R338) -/

/-- An accepted choice: slot, pass, expert, score, module and local slot. -/
structure Choice where
  slot : Nat
  pass : Nat
  expert : Nat
  score : Nat
  module_ : Nat
  lslot : Nat
  deriving DecidableEq, Repr

/-- The dispatcher's books for one layer. -/
structure Books where
  mainUsed : Tab Nat
  deferUsed : Tab Nat
  /-- Turn pointers that have moved from the lowest valid replica. -/
  turn : Tab Nat
  accepted : List Choice
  later : List (Nat × Nat × Nat)
  /-- Slots that lost a deferred choice. -/
  lost : List Nat
  /-- Sites with a candidate of an index beyond NEXP. -/
  bad : List Nat
  hist : Tab Nat
  examined : Nat
  filtered : Nat
  dropped : Nat
  unplaced : Nat
  clashes : Nat
  deriving DecidableEq, Repr

def Books.empty : Books := ⟨[], [], [], [], [], [], [], [], 0, 0, 0, 0, 0⟩

/-- Counts of a histogram entry: FILTERED, DROPPED, DEFER_OK, MAIN. -/
def countFiltered : Nat := 2 ^ 48
def countDropped : Nat := 2 ^ 32
def countDeferOk : Nat := 2 ^ 16
def countMain : Nat := 1

/-- Adds one to a count of an expert. -/
def Books.count (b : Books) (e one : Nat) : Books :=
  { b with hist := tabSet (fun _ => 0) b.hist e (addCounts (tabGet (fun _ => 0) b.hist e) one) }

-- Assumption log 104 (DEDUCED).
/-- A choice is dropped. -/
def Books.drop (b : Books) (e : Nat) : Books := { b.count e countDropped with dropped := b.dropped + 1 }

/-- What the decisions of a layer rest on: NEXP, the table, private experts that are honoured, members, and the privilege
group of each slot. -/
structure DecideEnv where
  nexp : Nat
  table : Option Placement
  members : List Nat
  pgroup : Tab Nat
  deriving DecidableEq, Repr

/-- A placement entry of an expert; zero without a table. -/
def DecideEnv.entry (v : DecideEnv) (e : Nat) : Nat := match v.table with
  | some t => t.entries.getD e 0
  | none => 0

/-- The private experts of a layer beyond the 64 lowest are granted to no group (R332). -/
def DecideEnv.granted (v : DecideEnv) (slot e : Nat) : Bool :=
  let entry := v.entry e
  let before := ((List.range e).filter (fun i => privateOf (v.entry i))).length
  !privateOf entry || (decide (before < 64) && (grantOf entry).testBit (tabGet (fun _ => 16) v.pgroup slot))

/-- The numbers of the valid replicas of an expert, from a turn pointer on, wrapping. -/
def DecideEnv.order (v : DecideEnv) (e turn : Nat) : List Nat :=
  ((List.range 8).map (fun i => (turn + i) % 8)).filter (fun r => (replicaOf (v.entry e) r).valid)

-- Assumption log 104 (DEDUCED).
/-- Some valid replica of an expert names a module outside the partition, or there is none. -/
def DecideEnv.unplaced (v : DecideEnv) (e : Nat) : Bool :=
  let l := v.order e 0
  l.isEmpty || l.any (fun r => !v.members.contains (replicaOf (v.entry e) r).module_)

/-- Takes a choice in a pass, where a replica from the turn pointer on has capacity left (R335, R336). -/
def Books.accept (b : Books) (v : DecideEnv) (pass slot e score : Nat) : Option Books :=
  let turn := tabGet (fun _ => 0) b.turn e
  let used := if pass = 0 then b.mainUsed else b.deferUsed
  let free : Nat → Bool := fun r =>
    let x := replicaOf (v.entry e) r
    decide (tabGet (fun _ => 0) used (8 * e + r) < (if pass = 0 then x.cap else x.deferCap))
  match (v.order e turn).find? free with
  | none => none
  | some r =>
    let x := replicaOf (v.entry e) r
    let next := ((v.order e ((r + 1) % 8)).head?).getD r
    let used := tabSet (fun _ => 0) used (8 * e + r) (tabGet (fun _ => 0) used (8 * e + r) + 1)
    let b := { b with turn := tabSet (fun _ => 0) b.turn e next }
    let b := if pass = 0 then { b with mainUsed := used } else { b with deferUsed := used }
    if b.accepted.any (fun c => c.slot == slot && c.pass == pass && c.module_ == x.module_ && c.lslot == x.lslot) then
      some { b.drop e with clashes := b.clashes + 1 }
    else
      some { b.count e (if pass = 0 then countMain else countDeferOk) with
        accepted := b.accepted ++ [⟨slot, pass, e, score, x.module_, x.lslot⟩] }

/-- One candidate of the main pass. -/
def Books.candidate (v : DecideEnv) (slot site : Nat) (b : Books) (c : Nat × Nat) : Books :=
  let b := { b with examined := b.examined + 1 }
  let e := c.1
  if v.nexp ≤ e then { b with bad := b.bad ++ [site] }
  else if v.granted slot e = false then { b.count e countFiltered with filtered := b.filtered + 1 }
  else if v.unplaced e then { b.drop e with unplaced := b.unplaced + 1 }
  else match b.accept v 0 slot e c.2 with
    | some d => d
    | none => match v.table with
      | some t => if t.deferred then { b with later := b.later ++ [(slot, e, c.2)] } else b.drop e
      | none => b.drop e

/-- One choice of the deferred pass. -/
def Books.second (v : DecideEnv) (b : Books) (c : Nat × Nat × Nat) : Books :=
  match b.accept v 1 c.1 c.2.1 c.2.2 with
  | some d => d
  | none => { b.drop c.2.1 with lost := b.lost ++ [c.1] }

/-- Inserts a list in ascending slot order. -/
def insertSlot (x : Nat × Nat × List (Nat × Nat)) : List (Nat × Nat × List (Nat × Nat)) → List (Nat × Nat × List (Nat × Nat))
  | [] => [x]
  | y :: t => if x.1 < y.1 then x :: y :: t else y :: insertSlot x t

/-- Both passes of a layer, over the lists in ascending slot order (R335). -/
def decideLayer (v : DecideEnv) (lists : List (Nat × Nat × List (Nat × Nat))) : Books :=
  let b := lists.foldl (fun a l => l.2.2.foldl (Books.candidate v l.1 l.2.1) a) Books.empty
  b.later.foldl (Books.second v) { b with turn := [] }

/-! ### Outputs (R338 to R342) -/

-- Assumption log 105 (DESIGN CHOICE).
/-- FP32 division, round to nearest even (R338). -/
def fp32Div (a b : Nat) : Nat :=
  match ofFp32 a, ofFp32 b with
  | .fin n m e, .fin g k f =>
    if k = 0 then (if m = 0 then fp32.nan else toFp32 (.inf (n != g)))
    else
      let q := m * 2 ^ 64 / k
      let sticky := if m * 2 ^ 64 % k = 0 then 0 else 1
      toFp32 (.fin (n != g) (2 * q + sticky) (e - f - 65))
  | .inf n, .fin g _ _ => toFp32 (.inf (n != g))
  | .fin n _ _, .inf g => toFp32 (.fin (n != g) 0 0)
  | _, _ => fp32.nan

-- Assumption log 105 (DESIGN CHOICE).
/-- A running FP32 sum, rounded at each addition. -/
def fp32Sum (l : List Nat) : Nat := l.foldl (fun a x => toFp32 (numSum [ofFp32 a, ofFp32 x])) 0

-- Assumption log 105 (DESIGN CHOICE).
/-- The final weights of a token's accepted choices, in descending score (R338, R342). -/
def weightsOf (cs : List Choice) : List (Nat × Nat) :=
  let l := (cs.map (fun c => (c.expert, c.score))).foldl (fun a c => candInsert c a) []
  let sum := fp32Sum (l.map (·.2))
  if numZero (ofFp32 sum) then
    l.map (fun c => (c.1, fp32Div 0x3F800000 (toFp32 (.fin false l.length 0))))
  else l.map (fun c => (c.1, fp32Div c.2 sum))

/-- A route word (R340). -/
def routeWord (send lastd : Bool) (pass slot layer chunk dest mask source : Nat) : Line :=
  BitVec.ofNat 512 (bit01 send + 2 * bit01 lastd + pass * 2 ^ 8 + slot % 2 ^ 14 * 2 ^ 16 + layer % 256 * 2 ^ 32 +
    chunk % 16 * 2 ^ 40 + dest % 4096 * 2 ^ 48 + mask % 2 ^ 64 * 2 ^ 64 + source % 4096 * 2 ^ 128)

/-- The route words of a token in a pass: chunk by chunk, in ascending DEST (R341). -/
def tokenWordsOf (r : RLayer) (source pass slot : Nat) (cs : List Choice) : List Line :=
  let mine := cs.filter (fun c => c.slot == slot && c.pass == pass)
  let dests := (List.range 4096).filter (fun m => mine.any (fun c => c.module_ == m))
  let maskOf : Nat → Nat := fun m => (mine.filter (fun c => c.module_ == m)).foldl (fun a c => a ||| 2 ^ c.lslot) 0
  (List.range r.chunks).flatMap (fun k =>
    if dests.isEmpty then [routeWord false true pass slot r.layer k 0 0 source]
    else dests.map (fun m => routeWord true (dests.getLast? == some m) pass slot r.layer k m (maskOf m) source))

/-- The operands that the dispatcher owes one site: three closed streams (R339). -/
def siteStreams (r : RLayer) (source tokens : Nat) (slots : List Nat) (deferred : Bool) (cs : List Choice) : List Operand :=
  let one : Nat → Nat → Line → Operand := fun ctx slot w => ⟨mkTag ctx slot, false, 0, [w]⟩
  let pass : Nat → Nat → List Operand := fun ctx n =>
    slots.flatMap (fun i => (tokenWordsOf r source n i cs).map (one ctx i)) ++ [marker (mkTag ctx tokens)]
  pass r.routeCtx 0 ++ (if deferred then pass r.deferCtx 1 else [marker (mkTag r.deferCtx tokens)]) ++
    slots.map (fun i => ⟨mkTag r.weightCtx i, false, 0, listWords (weightsOf (cs.filter (fun c => c.slot == i))) 0⟩) ++
    [marker (mkTag r.weightCtx tokens)]

/-- Route words that leave with a chunk in a pass. -/
def dueOf (r : RLayer) (source pass : Nat) (slots : List Nat) (cs : List Choice) : Nat :=
  ((slots.flatMap (fun i => tokenWordsOf r source pass i cs)).filter (fun w => w.getLsbD 0)).length

-- Assumption log 104 (DEDUCED), 106 (DEDUCED).
/-- The books of a layer enter the step and its registers: histogram, totals, record statuses (R344 to R346, R355). -/
def State.bookLayer (s : State) (p rl : Nat) (b : Books) : State :=
  let t := s.bump .serveDispChoices [p] b.examined
  let t := t.bump .serveDispFiltered [p] b.filtered
  let t := t.bump .serveDispDeferred [p] b.later.length
  let t := t.bump .serveDispDropped [p] b.dropped
  let t := t.bump .serveDispUnplaced [p] b.unplaced
  let t := t.bump .serveDispDefects [p] b.bad.length
  let t := t.bump .servePlaceErrors [p] b.clashes
  match (t.part p).firing with
  | none => t
  | some x =>
    let recs := x.records.map (fun (r : Rec) =>
      if r.status = 0 ∧ b.lost.any (fun i => decide (r.slot ≤ i) && decide (i < r.slot + r.ntok)) then
        { r with status := Status.deferLimit } else r)
    let hist := b.hist.foldl (fun h e => tabSet (fun _ => 0) h (512 * rl + e.1)
      (addCounts (tabGet (fun _ => 0) h (512 * rl + e.1)) e.2)) x.hist
    t.setPart p { t.part p with firing := some { x with
      records := recs, hist := hist, layers := x.layers + 1, dropped := x.dropped + b.dropped,
      deferred := x.deferred + b.later.length } }

/-- The privilege group of each token slot. -/
def State.slotGroups (s : State) (x : Step) (slots : List Nat) : Tab Nat :=
  slots.foldl (fun t i => match recOf x i with
    | some (r, _) => tabSet (fun _ => 16) t i (s.seqOf r.seq).pgroup
    | none => t) []

/-- DISPATCH_LAYER_DECIDE (R330, R334 to R347): every dispatch site has ended the layer's input, and no layer whose input ended
before is served; the dispatcher reads the header and the named entries of the placement table, decides both passes, and owes the plate its streams. The command brings what a table on another module
holds for the layer: MODE and the entries by expert. -/
def execDispatchLayerDecide (p : Nat) (mode : Nat) (entries : List Nat) (s : State) : Host.Outcome State Fault Refusal :=
  match (s.part p).firing, s.firingNow p && s.layerEnded p && s.dispTurn p with
  | some x, true => match s.resident x.edition with
    | none => .next s
    | some e =>
      let d := (s.part p).disp
      if e.rlayers ≤ d.layer then
        let t := s.setPart p { s.part p with disp := { d with lists := [], ended := [], turn := 0 } }
        .next ((s.frontDispatch p).foldl (fun u i => u.muRest p i.2) t)
      else
        let r := e.rlayer d.layer
        let lists := d.lists.foldl (fun a l => insertSlot l a) []
        let named := (lists.flatMap (fun l => l.2.2.map (·.1))).dedup.filter (fun i => decide (i < r.experts))
        let on := s.fa .serveExpertTblEnable [p] == 1
        let here := on && s.tableHere p
        let recs := if here then tableRecords (s.tableAddr p) d.layer named else []
        if recs.any (fun a => (s.absent p 2 a).isSome) then .next s
        else
          let rd := recs.foldl (fun (a : State × Option Nat) l =>
            let q := a.1.readPart p 0x1FFF 0 2 l
            (q.1, a.2.or q.2.ue)) (s, none)
          match rd.2 with
          | some a => .next (rd.1.abortRun p Status.hbmUncorrectable (BitVec.ofNat 64 a))
          | none =>
            let s1 := rd.1
            let table : Option Placement := if here then some (s1.localTable p d.layer r.experts)
              else if on then some ⟨bitOf mode 0, entries⟩ else none
            let env : DecideEnv := ⟨r.experts, table, s1.members p, s1.slotGroups x (lists.map (·.1))⟩
            let b := decideLayer env lists
            let defer_ := match table with | some t => t.deferred | none => false
            let t := s1.bookLayer p d.layer b
            let t := b.bad.foldl (fun u i => u.plateDefect p i 5) t
            if t.firingNow p = false then .next t
            else
              let own := t.coord p
              let owed := (t.frontDispatch p).flatMap (fun i =>
                let slots := (lists.filter (fun l => l.2.1 == i.2)).map (·.1)
                (siteStreams r own x.entry.tokenCount slots defer_ b.accepted).map (fun o => (i.2, 6, o)))
              let n0 := dueOf r own 0 (lists.map (·.1)) b.accepted
              let n1 := if defer_ then dueOf r own 1 (lists.map (·.1)) b.accepted else 0
              let dd := (t.part p).disp
              let due := tabSet (fun _ => 0) (tabSet (fun _ => 0) dd.due (dispKey r.layer 0) n0) (dispKey r.layer 1) n1
              let t := t.setPart p { t.part p with disp := { dd with
                lists := [], ended := [], layer := dd.layer + 1, turn := 0, owed := dd.owed ++ owed, due := due } }
              let t := if n0 = 0 then t.sendEnds p r.layer 0 else t
              let t := if n1 = 0 then t.sendEnds p r.layer 1 else t
              .next (t.dispPump p)
  | _, _ => .next s

/-! ### Deliveries (R469, R470) -/

/-- A step of the partition waits to fire or has just begun, so that a message of its fabric must wait. -/
def State.fabricWaits (s : State) (p : Nat) : Bool :=
  !s.firingNow p && ((match (s.part p).firing with | some x => x.outcome.isNone && !x.drained | none => false) ||
    (s.part p).admitted.isSome)

-- Assumption log 107 (DEDUCED).
/-- Marks the running step with the PLATE_DEFECT warning. -/
def State.warn (s : State) (p : Nat) : State :=
  match (s.part p).firing with
  | some x => s.setPart p { s.part p with firing := some { x with warned := true } }
  | none => s

/-- Deliveries may enter on local input slot 5 of a site: the plate leaves it unused (R238, R469). -/
def State.slotFiveFree (s : State) (site : Nat) : Bool := bitsOf (s.site site).front.localIn 23 20 == 0

/-- The context of a layer and pass for the firing step's edition. -/
def State.dispCtx (s : State) (p layer pass : Nat) : Option Nat :=
  match (s.part p).firing with
  | none => none
  | some x => match s.resident x.edition with
    | none => none
    | some e => (e.rlayerOf layer).map (fun r => if pass = 0 then r.routeCtx else r.deferCtx)

/-- Key of the pairs delivered at a site for a layer and pass. -/
def pairKey (site layer pass : Nat) : Nat := (site * 256 + layer % 256) * 2 + pass % 2

/-- Delivers the route word and chunk of a DISPATCH at one dispatch site (R469), whose unit has work while the dispatcher owes it
operands (R333). -/
def State.deliverPair (s : State) (p ctx : Nat) (body : List Byte) (i : Nat × Nat) : State :=
  let pass := leAt body 0 1
  let layer := leAt body 1 1
  let m := bitsOf (leAt body 8 8) (8 * i.1 + 7) (8 * i.1)
  if m = 0 then s
  else
    let d := (s.part p).disp
    let k := pairKey i.2 layer pass
    let n := tabGet (fun _ => 0) d.pairs k
    let word := BitVec.ofNat 512 (1 + pass % 256 * 2 ^ 8 + leAt body 2 2 % 2 ^ 14 * 2 ^ 16 + layer * 2 ^ 32 +
      leAt body 4 1 % 16 * 2 ^ 40 + s.coord p % 4096 * 2 ^ 48 + m * 2 ^ (64 + 8 * i.1) + leAt body 16 2 % 4096 * 2 ^ 128)
    let bytes := body.drop 32
    let tag := mkTag ctx n
    let a : Operand := ⟨tag, false, 0, [word]⟩
    let c : Operand := ⟨tag, false, 0, bytesWords ((bytes.length + 63) / 64) bytes⟩
    (s.setPart p { s.part p with disp := { d with
      pairs := tabSet (fun _ => 0) d.pairs k (n + 1), owed := d.owed ++ [(i.2, 5, a), (i.2, 5, c)] } }).muWake p i.2

-- Assumption log 106 (DEDUCED).
/-- DISPATCH (R469): the dispatcher of the destination takes a route word and a chunk; MASK bits of sites that are not
valid, or whose slot 5 the plate uses, are dropped and counted. -/
def execDispatch (port : Nat) (h : Hdr) (body : List Byte) (s : State) : Host.Outcome State Fault Refusal :=
  match s.accept h with
  | .ok p =>
    if s.fabricWaits p then .next s
    else .next (s.receive port 0x20 h body (fun t p =>
      match t.dispCtx p (leAt body 1 1) (leAt body 0 1), t.firingNow p with
      | some ctx, true =>
        let good := (t.frontDispatch p).filter (fun i => t.slotFiveFree i.2)
        let mask := leAt body 8 8
        let stray := (List.range 8).filter (fun i => bitsOf mask (8 * i + 7) (8 * i) != 0 && !good.any (fun g => g.1 == i))
        let u := stray.foldl (fun v _ => (v.discardMsg port).warn p) t
        (good.foldl (fun v i => v.deliverPair p ctx body i) u).dispPump p
      | _, _ => t.discardMsg port))
  | _ => .next (s.receive port 0x20 h body (fun t _ => t))

/-- A module's END of a layer and pass answers the DISPATCH messages to it (R470, R496). -/
def State.endCame (s : State) (p src layer pass : Nat) : State :=
  let x := s.part p
  s.setPart p { x with reqs := x.reqs.filter (fun r => !(r.typ == 0x20 && r.dst == src && r.site == layer % 256 && r.engine == pass % 2)) }

-- Assumption log 106 (DEDUCED).
/-- DISPATCH_END (R470): an END of a layer and pass arrives; once every member's END is held, the sites' streams close with
the counts of pairs delivered there. -/
def execDispatchEnd (port : Nat) (h : Hdr) (body : List Byte) (s : State) : Host.Outcome State Fault Refusal :=
  match s.accept h with
  | .ok p =>
    if s.fabricWaits p then .next s
    else .next (s.receive port 0x20 h body (fun t p =>
      let pass := leAt body 0 1
      let layer := leAt body 1 1
      let t := t.endCame p h.src layer pass
      match t.dispCtx p layer pass, t.firingNow p with
      | some ctx, true =>
        let d := (t.part p).disp
        let k := dispKey layer pass
        let l := tabGet (fun _ => []) d.ends k
        let l := if l.contains h.src then l else l ++ [h.src]
        let d := { d with ends := tabSet (fun _ => []) d.ends k l }
        let marks := if (t.members p).all (fun m => l.contains m) then
            ((t.frontDispatch p).filter (fun i => t.slotFiveFree i.2)).map (fun i =>
              (i.2, 5, marker (mkTag ctx (tabGet (fun _ => 0) d.pairs (pairKey i.2 layer pass)))))
          else []
        (marks.foldl (fun (u : State) o => u.muWake p o.1) (t.setPart p { t.part p with disp := { d with owed := d.owed ++ marks } })).dispPump p
      | _, _ => t.discardMsg port))
  | _ => .next (s.receive port 0x20 h body (fun t _ => t))

end Sys2Proof.Machine
end

