-- ==== Sys2Proof/Machine/SealUnit.lean ====
section
/-! DEFINITION. The seal unit's commands and the debug lock (R526 to R546). -/

namespace Sys2Proof.Machine

open Sys2Proof

-- Assumption log 44 (DEDUCED).
/-- SHA-384 of a public key in uncompressed SEC 1 form: byte 0x04, X, Y (R394). -/
def keyDigest (key : List Byte) : Nat := sha384 (4 :: key)

/-- KEY_ID of a publisher key: the first 16 bytes of its digest (R394). -/
def keyId (key : List Byte) : Nat := keyDigest key % 2 ^ 128

/-- ARG, key and operation code of a command block (R533). -/
def blockArg (b : List Byte) : Nat := leAt b 4 1
def blockKey (b : List Byte) : List Byte := (b.drop 16).take 96

/-- The SVNs of the running images (R531). -/
def State.svns (s : State) : Nat × Nat :=
  let b := if s.mgmt.runB then s.mgmt.bankB else s.mgmt.bankA
  (b.svn1, b.svn2)

/-- Completes a SEAL command (R533): CMD_STATUS, the SEAL_CMD record, and the answer where it came over MCTP. -/
def State.sealDone (s : State) (via : Option Nat) (token op arg res : Nat) : State :=
  let w := s.rv .sealCmdStatus []
  let w := putBits (putBits (putBits (putBits w 63 48 token) 11 8 res) 1 1 0) 0 0 1
  let t := (s.setv .sealCmdStatus [] w).sealRecord op arg res
  match via with
  | some ep => t.vendorRsp ep 0x30 0 (leBytes 8 w.toNat)
  | none => t

-- Assumption log 42 (DEDUCED).
/-- The owner's signature on a command (R532): 0 OK, 5 NOT_OWNED, 2 BAD_SIG, 3 STALE_NONCE. -/
def Seal.signed (u : Seal) (b : List Byte) : Nat := if u.owner.isNone then 5 else u.checkBlock b

/-- Runs a SEAL command: the block as read, none after two read errors (9, HOST_READ); `check` gives the result of a
block whose operation matches, and `act` the effect where it is OK. -/
def State.sealRun (s : State) (via : Option Nat) (token op : Nat) (block : Option (List Byte))
    (check : List Byte → Nat) (act : List Byte → Seal → Seal) : State :=
  match block with
  | none => s.sealDone via token op 0 9
  | some b =>
    let res := if leAt b 0 1 ≠ op then 1 else check b
    let t := if res = 0 then s.setSeal (act b s.sealUnit) else s
    t.sealDone via token (leAt b 0 1) (blockArg b) res

-- Assumption log 42 (DEDUCED).
/-- A SEAL command (R533, R569): the command of SEAL.CMD with the block that the module reads at CMD_ADDR, or the block of a message,
which is answered with NOT_READY (4) before MGMT and with BUSY (3) while a command of SEAL.CMD runs. -/
def State.sealCommand (s : State) (via : Option Nat) (token op : Nat) (block : Option (List Byte))
    (check : List Byte → Nat) (act : List Byte → Seal → Seal) : State :=
  match via with
  | none => (s.blockRead (s.fv .sealCmdAddrAddr []) block).sealRun none token op block check act
  | some ep =>
    if s.mgmtUp = false then s.vendorRsp ep 0x30 4 []
    else if s.fv .sealCmdStatusBusy [] = 1 then s.vendorRsp ep 0x30 3 []
    else s.sealRun (some ep) token op block check act

-- Assumption log 43 (DEDUCED).
/-- Counts an accepted signed command in NONCE (R532). -/
def Seal.spend (u : Seal) : Seal := { u with nonce := u.nonce + 1 }

/-- TAKE_OWNERSHIP (R532, R533): installs the owner key; refused with OWNED (4) or BAD_KEY (7). -/
def execTakeOwnership (via : Option Nat) (token : Nat) (block : Option (List Byte)) (s : State) :
    Host.Outcome State Fault Refusal :=
  .next (s.sealCommand via token 1 block
    (fun b => if s.sealUnit.owner.isSome then 4 else if !onCurve (blockKey b) then 7 else 0)
    (fun b u => { u with owner := some (blockKey b) }))

/-- ENROL (R533): places a publisher key in slot ARG; refused with SLOT_BUSY (6) or BAD_KEY (7). A slot number above
15 is BAD_OP. -/
def execEnrol (via : Option Nat) (token : Nat) (block : Option (List Byte)) (s : State) :
    Host.Outcome State Fault Refusal :=
  .next (s.sealCommand via token 2 block
    (fun b => if s.sealUnit.signed b ≠ 0 then s.sealUnit.signed b
              else if 15 < blockArg b then 1
              else if (s.sealUnit.pubs.getD (blockArg b) none).isSome then 6
              else if !onCurve (blockKey b) then 7 else 0)
    (fun b u => ({ u with pubs := u.pubs.set (blockArg b) (some ⟨blockKey b, keyId (blockKey b)⟩) }).spend))

/-- REVOKE (R533): clears slot ARG. -/
def execRevoke (via : Option Nat) (token : Nat) (block : Option (List Byte)) (s : State) :
    Host.Outcome State Fault Refusal :=
  .next (s.sealCommand via token 3 block
    (fun b => if s.sealUnit.signed b ≠ 0 then s.sealUnit.signed b else if 15 < blockArg b then 1 else 0)
    (fun b u => ({ u with pubs := u.pubs.set (blockArg b) none }).spend))

/-- RELEASE (R533): clears the owner slot and all publisher slots. -/
def execRelease (via : Option Nat) (token : Nat) (block : Option (List Byte)) (s : State) :
    Host.Outcome State Fault Refusal :=
  .next (s.sealCommand via token 4 block (fun b => s.sealUnit.signed b)
    (fun _ u => ({ u with owner := none, pubs := List.replicate 16 none }).spend))

/-- SVN_COMMIT (R531, R533): blows fuses up to the argument; 8 (SVN_RANGE) where it exceeds a running SVN. -/
def execSvnCommit (via : Option Nat) (token : Nat) (block : Option (List Byte)) (s : State) :
    Host.Outcome State Fault Refusal :=
  .next (s.sealCommand via token 5 block
    (fun b => if s.sealUnit.owner.isSome ∧ s.sealUnit.checkBlock b ≠ 0 then s.sealUnit.checkBlock b
              else if s.svns.1 < blockArg b ∨ s.svns.2 < blockArg b then 8 else 0)
    (fun b u =>
      let v := { u with fused := max u.fused (blockArg b) }
      if u.owner.isSome then v.spend else v))

/-- TRNG_HEALTH_FAIL (R527): TRNG_FAIL sets; no key is generated while it holds. -/
def execTrngHealthFail (s : State) : Host.Outcome State Fault Refusal :=
  .next ((s.setSeal { s.sealUnit with trngFail := true }).setf .sealStatusTrngFail [] 1)

/-! ### Debug access (R542) -/

/-- Changes a partition's debug state. -/
def State.setDebug (s : State) (p : Nat) (d : Debug) : State := s.setPart p { s.part p with dbg := d }

/-- Shows DBG_STATE of a partition. -/
def State.showDebug (s : State) (p : Nat) : State :=
  let d := (s.part p).dbg
  let t := s.setf .partDbgStateCredSet [p] (bit01 d.stored.isSome)
  let t := t.setf .partDbgStateUnlocked [p] (bit01 d.unlocked)
  let t := t.setf .partDbgStateLockedOut [p] (bit01 (decide (8 ≤ d.fails)))
  t.setf .partDbgStateFails [p] (min d.fails 8)

-- Assumption log 154 (DEDUCED).
/-- The credential written to DBG_CRED_LO and DBG_CRED_HI. -/
def Debug.written (d : Debug) : BitVec 128 := d.hi ++ d.lo

-- Assumption log 154 (DEDUCED).
/-- DEBUG_SET (R542): stores the credential, or is refused when one is stored already. -/
def execDebugSet (p : Nat) (s : State) : Host.Outcome State Fault Refusal :=
  if s.formed p then
    let d := (s.part p).dbg
    match d.stored with
    | none => .next ((s.setDebug p { d with stored := some d.written }).showDebug p)
    | some _ => .next (s.setf .partDbgStateRefused [p] 1)
  else .next s

/-- Locks a partition's debug access. -/
def State.lockDebug (s : State) (p : Nat) : State :=
  (s.setDebug p { (s.part p).dbg with unlocked := false, data := 0 }).showDebug p

-- Assumption log 154 (DEDUCED).
/-- DEBUG_UNLOCK (R542): with DEBUG_EN and a stored credential the written one is compared; eight failures lock debug
for the partition's life. -/
def execDebugUnlock (p : Nat) (s : State) : Host.Outcome State Fault Refusal :=
  if s.formed p then
    let d := (s.part p).dbg
    match d.stored with
    | none => .next (s.setf .partDbgStateRefused [p] 1)
    | some c =>
      if s.fa .sealPolicyDebugEn [] = 0 ∨ 8 ≤ d.fails then .next (s.setf .partDbgStateRefused [p] 1)
      else if c = d.written then .next ((s.setDebug p { d with unlocked := true }).showDebug p)
      else if 7 ≤ d.fails then .next ((s.setDebug p { d with fails := d.fails + 1 }).lockDebug p)
      else .next ((s.setDebug p { d with fails := d.fails + 1 }).showDebug p)
  else .next s

/-- DEBUG_LOCK (R542). -/
def execDebugLock (p : Nat) (s : State) : Host.Outcome State Fault Refusal :=
  if s.formed p then .next (s.lockDebug p) else .next s

end Sys2Proof.Machine
end

