-- ==== Sys2Proof/Machine/Flash.lean ====
section
/-! DEFINITION. The flash library: channels, stripes, editions and the commands of the FLASH block (R381 to R412). -/

namespace Sys2Proof.Machine

open Sys2Proof

/-! ### Content of an edition (R386, R392, R393) -/

/-- Page-tiles of the manifest. -/
def manifestTiles (m : List Byte) : Nat := ceilDiv (leAt m 20 4) 65536

/-- Page-tiles of the extents. -/
def extentPages (m : List Byte) : Nat := (extentsOf m).foldl (fun n x => n + x.pages) 0

/-- The extents with the number of the first shard of each (R386). -/
def extentShards : Nat → List Extent → List (Extent × Nat)
  | _, [] => []
  | n, x :: t => (x, n) :: extentShards (n + x.pages) t

/-- The extents of an edition with their shards. -/
def Edition.extents (e : Edition) : List (Extent × Nat) := extentShards (manifestTiles e.manifest) (extentsOf e.manifest)

/-- An extent of PLATE or WEIGHTS objects, which occupies edition address space. -/
def Extent.placed (x : Extent) : Bool := x.typ != 3

/-- The first edition page-tile of an extent. -/
def Extent.page (x : Extent) : Nat := x.first % 2 ^ 26

/-- A byte of edition content by edition address, where `get` gives the bytes of the shard sequence. -/
def Edition.flashByte (e : Edition) (get : Nat → Byte) (a : Nat) : Byte :=
  match e.extents.find? (fun x => x.1.placed && decide (x.1.page ≤ a / 65536) &&
      decide (a / 65536 < x.1.page + x.1.pages)) with
  | some x => get ((x.2 + (a / 65536 - x.1.page)) * 65536 + a % 65536)
  | none => 0

/-- The reader of a plate's image in edition content. -/
def Edition.flashReader (e : Edition) (get : Nat → Byte) (plate : Nat) : Reader :=
  fun off n => leNat ((List.range n).map (fun i => e.flashByte get (imageAddr (e.imageBase plate) off + i)))

/-! ### Record checks (R294, R328, R352) -/

/-- The rectangle of a plate's image. -/
def rectOf (rd : Reader) : Nat × Nat × Nat × Nat := (rd 12 1, rd 13 1, rd 14 1, rd 15 1)

/-- Sites named for a plate are MU sites inside its rectangle, each named once, and none has a descriptor on the port that
the hub takes over there. -/
def sitesBad (e : Edition) (get : Nat → Byte) (plate port : Nat) (sites : List Nat) (more : SiteImg → Bool) : Bool :=
  let rd := e.flashReader get plate
  !sites.isEmpty && (decide (e.plates ≤ plate) || !decide sites.Nodup || sites.any (fun i =>
    !isMu i || !inRect (rectOf rd) i ||
      (let m := siteImage rd i
       more m || m.descs.any (fun d => Desc.port d.2.toNat == port))))

/-- The words of one half of a page exceed 512 in a format (R294). -/
def halfOver (s fmt : Nat) : Bool := decide (512 < (if fmt = 1 then 64 else if fmt ≤ 4 then 32 else 33) * s)

/-- The first check of R294 that a geometry record fails. -/
def Edition.kvCheck (e : Edition) (get : Nat → Byte) : Option Nat :=
  let allow := e.geo 8 2
  let def_ := e.geo 7 1
  let slots := (e.geo 5 1 + 1) * (e.geo 6 1 + 1)
  let used := (List.range (min 8 e.plates)).filter (fun n => bitOf (e.plateKv n) 7)
  firstFail [
    (1, (List.range 16).any (fun f => bitOf allow f && halfOver slots f)),
    (2, decide (16 ≤ def_) || !bitOf allow def_ || allow &&& 0xFC05 != 0),
    (3, used.any (fun n => [bitsOf (e.plateKv n) 1 0, bitsOf (e.plateKv n) 3 2].any (fun c =>
      c == 3 || decide (kvClass c < fmtClass def_) || (decide (fmtClass def_ < kvClass c) && bitOf (e.plateKv n) 4)))),
    (4, (List.range 8).any (fun n => sitesBad e get n 11 (e.appendSites n) (fun _ => false))),
    (5, (List.range e.layers).any (fun l => e.geo (48 + l) 1 == 0xFF || e.geo (304 + l) 1 == 0xFF))]

/-- The valid dispatch sites that the expert map names for a plate. -/
def Edition.mapSites (e : Edition) (plate : Nat) : List Nat :=
  (List.range 8).filterMap (fun i =>
    let v := e.emap (8 + 16 * plate + 2 * i) 2
    if v.testBit 15 then some (v % 8192) else none)

/-- Numbers ascend strictly. -/
def ascends : List Nat → Bool
  | [] => true
  | [_] => true
  | a :: b :: t => decide (a < b) && ascends (b :: t)

/-- The first check of R328 that an expert map fails. -/
def Edition.mapCheck (e : Edition) (get : Nat → Byte) : Option Nat :=
  let n := e.emap 4 1 + 1
  let ls := (List.range n).map e.rlayer
  firstFail [
    (1, !ascends (ls.map (·.layer)) || (List.range n).any (fun i => decide (4 < e.emap (136 + 8 * i + 3) 1 / 16))),
    (2, ls.any (fun r => r.routeCtx == r.deferCtx || r.routeCtx == r.weightCtx || r.deferCtx == r.weightCtx)),
    (3, (List.range 8).any (fun p =>
      let l := e.mapSites p
      !l.isEmpty && (decide (e.plates ≤ p) || !decide l.Nodup ||
        l.any (fun i => !isMu i || !inRect (rectOf (e.flashReader get p)) i)))),
    (4, (List.range 8).any (fun p => sitesBad e get p 10 (e.mapSites p) (fun m => bitsOf m.localIn 27 24 != 0)))]

/-- DETAIL of RECORD where the geometry record or the expert map is refused (R400, R401 step 4, R403 step 2). -/
def Edition.recordFailure (e : Edition) (get : Nat → Byte) : Option Nat :=
  match e.kvCheck get with
  | some c => some (1 * 2 ^ 30 + c * 2 ^ 24)
  | none =>
    if bitOf (leAt e.manifest 7 1) 0 then (e.mapCheck get).map (fun c => 2 * 2 ^ 30 + c * 2 ^ 24) else none

/-- Elements that the map of a stipple record marks in a row (R349). -/
def stippleMarks (x r : Nat) : Nat := ((List.range 64).filter (fun j => x.testBit (64 * r + j))).length

/-- The first check of R352 that a stipple record fails. -/
def stippleCheck (x : Nat) : Option Nat :=
  let fmt := bitsOf x (8 * 896 + 7) (8 * 896)
  let count := bitsOf x (8 * 900 - 1) (8 * 898)
  let marks := (List.range 64).map (stippleMarks x)
  let delta : Nat → Nat := fun i => bitsOf x (8 * (512 + i) + 7) (8 * (512 + i))
  firstFail [
    (1, (fmt != 3 && fmt != 4) || bitsOf x (8 * 897 + 7) (8 * 897) == 0xFF),
    (2, decide (256 < count) || count != marks.foldl (· + ·) 0),
    (3, (List.range 64).any (fun r =>
      bitsOf x (8 * (768 + 2 * r) + 15) (8 * (768 + 2 * r)) != (marks.take r).foldl (· + ·) 0)),
    (4, (List.range (min count 256)).any (fun i =>
      if fmt = 3 then delta i % 128 == 0x7F else decide (0x7C ≤ delta i % 128))),
    (5, (List.range 256).any (fun i => decide (count ≤ i) && delta i != 0) || bitsOf x (8 * 1024 - 1) (8 * 900) != 0)]

/-! ### Slots and space (R384, R397, R411) -/

/-- User space in page-tiles: 88 TiB (R384). -/
abbrev userSpace : Nat := 88 * 2 ^ 24

-- Assumption log 121 (DESIGN CHOICE).
/-- Page-tiles of user space that an edition's stripes take (R401 step 6). -/
def Edition.space (e : Edition) : Nat := ceilDiv e.shards 8 * 8

/-- Shows INSTALLED, RESIDENT and LIB_FREE. The new copy of an edition under replacement stands outside the slots, at
number 1,024, and does not count. -/
def State.showLibrary (s : State) : State :=
  let l := s.flash.slots.filter (fun e => decide (e.1 < 1024))
  let t := s.setf .flashLibStateInstalled [] (l.filter (fun e => e.2.state != 0)).length
  let t := t.setf .flashLibStateResident [] (l.filter (fun e => decide (3 ≤ e.2.state))).length
  t.setf .flashLibFreeFree [] (userSpace - s.flash.used)

/-- Stores a library slot. -/
def State.setSlot (s : State) (n : Nat) (e : Edition) : State :=
  (s.setFlash { s.flash with slots := tabSet (fun _ => Edition.reset) s.flash.slots n e }).showLibrary

-- Assumption log 121 (DESIGN CHOICE).
/-- Changes the space in use. -/
def State.setUsed (s : State) (n : Nat) : State := (s.setFlash { s.flash with used := n }).showLibrary

/-- An edition that is installed: STORED, STAGING or RESIDENT. -/
def State.installed (s : State) (id : Nat) : Option Nat :=
  match s.slotOf id with
  | some n => if 2 ≤ (s.flash.slot n).state then some n else none
  | none => none

/-- Page-tiles of an edition and its sets in HBM. -/
def Edition.hbmPages (e : Edition) : List Nat := e.pages.map (·.2) ++ e.sets.flatMap (·.2)

-- Assumption log 187 (DEDUCED).
/-- Page-tiles become DIRTY; those that a STAGE has reserved and not filled pass through SHARED (R366, R397, R405). -/
def State.discardPages (s : State) (pages : List Nat) : State :=
  ((pages.filter (fun q => s.hbm.tag q == 0)).foldl (fun t q => t.setTag q (sharedTag 0)) s).dirtyAll pages

/-- An edition leaves HBM: its page-tiles and those of its sets become DIRTY, and it is STORED (R397, R406). -/
def State.unstage (s : State) (n : Nat) : State :=
  let e := s.flash.slot n
  (s.discardPages e.hbmPages).setSlot n { e with state := 2, pages := [], sets := [] }

/-! ### Blocks, pages and shards (R381, R385 to R388, R390) -/

/-- The bytes of a shard. -/
def shardBytes (t : Tab Byte) : List Byte := (List.range 65536).map (tabGet hbmZero t)

/-- Shard d of a shard sequence. -/
def shardOf (content : Tab Byte) (d : Nat) : Tab Byte :=
  (tabSlice content (65536 * d) (65536 * d + 65536)).map (fun e => (e.1 % 65536, e.2))

/-- Byte offsets at which some of a stripe's shards are not zero. -/
def shardKeys (l : List (Tab Byte)) : List Nat := (l.flatMap (fun t => t.map (fun (e : Nat × Byte) => e.1))).eraseDups

/-- The symbols of shards at a byte offset. -/
def symbolsAt (l : List (Tab Byte)) (o : Nat) : List Nat := l.map (fun t => (tabGet hbmZero t o).toNat)

/-- A shard of one symbol of a word at each of some byte offsets. -/
def shardFrom (keys : List Nat) (word : Nat → List Nat) (i : Nat) : Tab Byte :=
  keys.foldl (fun t o => tabSet hbmZero t o (BitVec.ofNat 8 ((word o).getD i 0))) []

/-- The shards P and Q of eight data shards: the check symbols at every byte offset (R385). -/
def parityOf (data : List (Tab Byte)) : List (Tab Byte) :=
  [0, 1].map (shardFrom (shardKeys data) (fun o => rsCheck 2 (symbolsAt data o)))

/-- Shard i of a stripe from the others, where those at some places are missing (R385). -/
def rebuiltShard (shards : List (Tab Byte)) (gone : List Nat) (i : Nat) : Tab Byte :=
  shardFrom (shardKeys shards) (fun o => rsErase (symbolsAt shards o) gone) i

/-- The first 16 bytes of a shard's SHA-384 digest (R387). -/
def shardDigest (t : Tab Byte) : Nat := sha384 (shardBytes t) % 2 ^ 128

/-- The bytes of a stripe record that its tag covers (R387). -/
def StripeRecord.bytes (r : StripeRecord) : List Byte := r.locs.flatMap (leBytes 8) ++ r.digests.flatMap (leBytes 16)

/-- A stripe record under its tag. -/
def StripeRecord.seal (locs digests : List Nat) : StripeRecord :=
  let r : StripeRecord := ⟨locs, digests, 0⟩
  { r with tag := Config.libraryTag r.bytes }

/-- The tag of a stripe record holds. -/
def StripeRecord.good (r : StripeRecord) : Bool := r.tag == Config.libraryTag r.bytes

/-- No location: that of a shard which is not written. -/
abbrev noLoc : Nat := 2 ^ 31

-- Assumption log 186 (DEDUCED).
/-- The number of data shard d of an edition: 10 times stripe plus place (R386). -/
def shardNo (d : Nat) : Nat := 10 * (d / 8) + d % 8

/-- A shard is written: a parity shard, or a data shard of the edition. -/
def Edition.written (e : Edition) (k : Nat) : Bool := decide (8 ≤ k % 10) || decide (8 * (k / 10) + k % 10 < e.shards)

-- Assumption log 120 (DEDUCED).
/-- Stripes of an edition. -/
def Edition.stripes (e : Edition) : Nat := ceilDiv e.shards 8

/-- The shards of a stripe that are written. -/
def Edition.stripeShards (e : Edition) (j : Nat) : List Nat :=
  ((List.range 10).map (fun i => 10 * j + i)).filter e.written

/-- Where a shard lies. -/
def Edition.loc (e : Edition) (k : Nat) : Nat :=
  match e.records[k / 10]? with
  | some r => r.locs.getD (k % 10) noLoc
  | none => noLoc

/-- The channel of a shard: that of its location, or of R386 where it has none. -/
def Edition.channel (e : Edition) (k : Nat) : Nat := if e.loc k < noLoc then e.loc k / 2 ^ 25 else (e.c0 + k) % 64

/-- Writes the location of a shard into its stripe record (R388, R391). -/
def Edition.setLoc (e : Edition) (k l : Nat) : Edition :=
  match e.records[k / 10]? with
  | some r => { e with records := e.records.set (k / 10) (StripeRecord.seal (r.locs.set (k % 10) l) r.digests) }
  | none => e

/-- The channel is out of service. -/
def State.channelOut (s : State) (c : Nat) : Bool := (s.rv .flashChanOut []).toNat.testBit c

/-- What a location holds. -/
def Flash.page (f : Flash) (l : Nat) : Option (Tab Byte) := tabGet (fun _ => none) f.pages l

/-- A block is erased and in use. -/
def Flash.erased (f : Flash) (b : Nat) : Bool :=
  !f.pages.any (fun e => e.1 / 1024 == b) && !f.retired.contains b && !f.factory.contains b

/-- Erases of a block. -/
def Flash.wear (f : Flash) (b : Nat) : Nat := tabGet (fun _ => 0) f.erases b

-- Assumption log 186 (DEDUCED).
/-- The erased block of a channel with the lowest erase count, on a die that answers; the lowest number among equals
(R390). -/
def State.freshBlock (s : State) (c : Nat) : Option Nat :=
  ((List.range (2 ^ 15)).map (fun i => c * 2 ^ 15 + i)).foldl (fun best b =>
    if s.flash.erased b && (s.rv .flashChStatus [c]).toNat.testBit (b / 2 ^ 12 % 8) &&
        best.all (fun x => decide (s.flash.wear b < s.flash.wear x))
    then some b else best) none

-- Assumption log 186 (DEDUCED).
/-- Programs a shard of an edition on a channel, in the block that the edition has begun there or in a new one; no location
where the channel is out of service or has no erased block. -/
def State.program (s : State) (n c : Nat) (t : Tab Byte) : State × Nat :=
  let e := s.flash.slot n
  let old := tabGet (fun _ => 0) e.next c
  let l := if old % 1024 = 0 then ((s.freshBlock c).map (fun b => b * 1024)).getD noLoc else old
  if l = noLoc || s.channelOut c then (s, noLoc)
  else
    let f := s.flash
    ((s.setFlash { f with pages := tabSet (fun _ => none) f.pages l (some t) }).setSlot n
      { e with next := tabSet (fun _ => 0) e.next c (l + 1) }, l)

/-- Erases a block; at 1,500 erases, or after a failed program or erase, it is retired (R388, R390). -/
def State.eraseBlock (s : State) (b : Nat) (failed : Bool) : State :=
  let f := s.flash
  let n := f.wear b + 1
  let out := (failed || decide (1500 ≤ n)) && !f.retired.contains b
  let t := s.setFlash { f with
    pages := tabClear f.pages (b * 1024) (b * 1024 + 1024)
    dead := f.dead.filter (fun x => x.1 / 1024 != b)
    worn := f.worn.filter (fun x => x != b)
    reads := tabSet (fun _ => 0) f.reads b 0
    erases := tabSet (fun _ => 0) f.erases b n
    retired := if out then f.retired ++ [b] else f.retired
    slots := f.slots.map (fun (x : Nat × Edition) =>
      (x.1, { x.2 with next := x.2.next.filter (fun y => y.2 % 1024 == 0 || y.2 / 1024 != b) })) }
  if out then t.bump .flashBlocksRetired [] 1 else t

/-- Erases the blocks in which no stripe record places a shard any more (R397, DELETE). -/
def State.eraseUnused (s : State) : State :=
  let live := s.flash.slots.flatMap (fun e => e.2.records.flatMap (fun r => r.locs))
  let bs := (s.flash.pages.map (fun (e : Nat × Option (Tab Byte)) => e.1 / 1024)).eraseDups
  (bs.filter (fun b => !live.any (fun l => l / 1024 == b) && !s.channelOut (b / 2 ^ 15))).foldl
    (fun t b => t.eraseBlock b false) s

/-! ### Reading flash (R383, R385, R387, R397) -/

/-- A page of a location is uncorrectable. -/
def Flash.isDead (f : Flash) (l : Nat) : Bool := f.dead.any (fun x => x.1 == l)

/-- A shard that decodes, under a record whose tag holds, does not match its digest (R387). -/
def State.digestBad (s : State) (e : Edition) (k : Nat) : Bool :=
  match e.records[k / 10]?, s.flash.page (e.loc k) with
  | some r, some t => r.good && !s.flash.isDead (e.loc k) && shardDigest t != r.digests.getD (k % 10) 0
  | _, _ => false

/-- A shard is lost (R387). -/
def State.shardLost (s : State) (e : Edition) (k : Nat) : Bool :=
  e.written k && (s.channelOut (e.channel k) || s.flash.isDead (e.loc k) || (s.flash.page (e.loc k)).isNone ||
    s.digestBad e k || match e.records[k / 10]? with
      | some r => !r.good
      | none => true)

-- Assumption log 120 (DEDUCED).
/-- The lost shards of a stripe (R387). -/
def State.lostOf (s : State) (e : Edition) (j : Nat) : List Nat := (e.stripeShards j).filter (s.shardLost e)

-- Assumption log 120 (DEDUCED).
/-- The first of some stripes that has lost more than 2 shards. -/
def State.deadStripe (s : State) (e : Edition) (js : List Nat) : Option Nat :=
  js.find? (fun j => decide (2 < (s.lostOf e j).length))

/-- A shard as the library gives it: as read, or rebuilt from the others of its stripe (R385, R387). Shards beyond the
edition's end are zero (R386). -/
def State.shard (s : State) (e : Edition) (k : Nat) : Tab Byte :=
  if !e.written k then []
  else if s.shardLost e k then
    let gone := (List.range 10).filter (fun i => s.shardLost e (10 * (k / 10) + i))
    rebuiltShard ((List.range 10).map (fun i =>
      let m := 10 * (k / 10) + i
      if gone.contains i || !e.written m then [] else (s.flash.page (e.loc m)).getD [])) gone (k % 10)
  else (s.flash.page (e.loc k)).getD []

/-- A byte of an edition's shard sequence. -/
def State.contentByte (s : State) (e : Edition) (a : Nat) : Byte :=
  tabGet hbmZero (s.shard e (shardNo (a / 65536))) (a % 65536)

/-- A page-tile of an edition, by data shard. -/
def State.tileBytes (s : State) (e : Edition) (d : Nat) : List Byte := shardBytes (s.shard e (shardNo d))

-- Assumption log 124 (DEDUCED).
/-- What a read finds comes to stand in the library: bytes that changed, uncorrectable pages, tags of stripe records. -/
def State.noteMedia (s : State) (n : Nat) (r : FlashRead) : State :=
  let e := s.flash.slot n
  let f := s.flash
  let pages := r.altered.foldl (fun p (x : Nat × Nat × Byte) => match tabGet (fun _ => none) p (e.loc x.1) with
    | some t => tabSet (fun _ => none) p (e.loc x.1) (some (tabSet hbmZero t (x.2.1 % 65536) x.2.2))
    | none => p) f.pages
  let ue := (r.ue.map (fun (x : Nat × Nat) => (e.loc x.1, x.2 % 4))).filter (fun x => (f.page x.1).isSome)
  let recs := r.tags.foldl (fun l (x : Nat × Nat) => match l[x.1]? with
    | some y => l.set x.1 { y with tag := x.2 }
    | none => l) e.records
  (s.setFlash { f with pages := pages, dead := (f.dead ++ ue).eraseDups }).setSlot n { e with records := recs }

-- Assumption log 124 (DEDUCED).
/-- The shards that are read where some are wanted: all those of a stripe that has lost a wanted one; a channel out of
service and an erased page give none. -/
def State.readSet (s : State) (e : Edition) (ks : List Nat) : List Nat :=
  let js := ((ks.filter (s.shardLost e)).map (fun k => k / 10)).eraseDups
  ((ks ++ js.flatMap e.stripeShards).eraseDups).filter (fun k =>
    e.written k && (s.flash.page (e.loc k)).isSome && !s.channelOut (e.channel k))

-- Assumption log 124 (DEDUCED).
/-- Reads of pages are counted by block (R388). -/
def State.countReads (s : State) (blocks : List Nat) : State :=
  let n := blocks.foldl (fun t b => tabSet (fun _ => 0) t b (tabGet (fun _ => 0) t b + 1)) s.flash.reads
  s.setFlash { s.flash with reads := n }

/-- An uncorrectable page is counted and recorded (R383). -/
def State.noteUe (s : State) (l : Nat) : State :=
  let c := l / 2 ^ 25
  ((s.bump .flashUe [] 1).bump .flashChUe [c] 1).bbWrite none 0x40 4 (payloadOf [(0, 1, c), (1, 1, l / 2 ^ 22 % 8),
    (2, 2, l / 1024 % 4096), (4, 2, l % 1024)])

/-- Reads shards of an edition: reads, uncorrectable pages, retries and digest failures are counted, and uncorrectable pages
recorded (R383, R387, R388). -/
def State.readShards (s : State) (n : Nat) (ks : List Nat) (r : FlashRead) : State :=
  let s := s.noteMedia n r
  let e := s.flash.slot n
  let rd := s.readSet e ks
  let t := s.countReads (rd.map (fun k => e.loc k / 1024))
  let t := (s.flash.dead.filter (fun x => rd.any (fun k => e.loc k == x.1))).foldl (fun u x => u.noteUe x.1) t
  let t := r.retried.foldl (fun u (x : Nat × Nat) => u.bump .flashChCe [e.channel x.1 % 64] 1) t
  t.bump .flashDigestFails [] (rd.filter (s.digestBad e)).length

/-- The findings that a list brings for a library slot. -/
def findings (rs : List (Nat × FlashRead)) (n : Nat) : FlashRead :=
  match rs.find? (fun x => x.1 == n) with
  | some x => x.2
  | none => ⟨[], [], [], []⟩

/-- DEGRADED is set, with its record, when a stripe with more than 2 lost shards is found (R397). -/
def State.degrade (s : State) (n j : Nat) : State :=
  let e := s.flash.slot n
  if e.degraded then s
  else (s.setSlot n { e with degraded := true }).bbWrite none 0x42 4 (payloadOf [(0, 4, e.id), (4, 4, j)])

/-- Judges stripes of an edition: the first dead one degrades it. -/
def State.judge (s : State) (n : Nat) (js : List Nat) : State × Option Nat :=
  match s.deadStripe (s.flash.slot n) js with
  | some j => (s.degrade n j, some j)
  | none => (s, none)

/-- Lost data shards among some shards are rebuilt from parity (R385). -/
def State.countRebuilds (s : State) (e : Edition) (shards : List Nat) : State :=
  s.bump .flashShardRebuilds [] (shards.filter (fun d => s.shardLost e (shardNo d))).length

/-! ### The command queue (R398 to R400) -/

/-- Result codes. -/
abbrev FlashCode.badOp : Nat := 1
abbrev FlashCode.notInstalled : Nat := 2
abbrev FlashCode.installed : Nat := 3
abbrev FlashCode.signature : Nat := 4
abbrev FlashCode.format : Nat := 5
abbrev FlashCode.recordBad : Nat := 6
abbrev FlashCode.digest : Nat := 7
abbrev FlashCode.noSpace : Nat := 8
abbrev FlashCode.limit : Nat := 9
abbrev FlashCode.busy : Nat := 10
abbrev FlashCode.editionLost : Nat := 11
abbrev FlashCode.abandoned : Nat := 12
abbrev FlashCode.hostRead : Nat := 13
abbrev FlashCode.notResident : Nat := 14
abbrev FlashCode.domainOff : Nat := 15

/-- A command of the install class: INSTALL or DELETE (R399). -/
def FlashCmd.install (c : FlashCmd) : Bool := c.op == 1 || c.op == 2

/-- The edition that a command names, and its set. -/
def FlashCmd.edition (c : FlashCmd) : Nat := c.arg0.toNat
def FlashCmd.stipple (c : FlashCmd) : Nat := c.arg1.toNat

-- Assumption log 116 (DEDUCED).
/-- OP and arguments are as R398 has them. -/
def FlashCmd.legal (c : FlashCmd) : Bool :=
  let a := c.arg0.toNat
  let b := c.arg1.toNat
  match c.op with
  | 1 => a % 4096 == 0
  | 2 => decide (a < 2 ^ 32) && b == 0
  | 3 => decide (a < 2 ^ 32) && (b == 0 || b == 2 ^ 16)
  | 4 => decide (a < 2 ^ 32) && b == 0
  | 5 => decide (a < 2 ^ 32) && decide (b < 2 ^ 13)
  | 6 => decide (a < 2 ^ 32) && decide (b < 2 ^ 13)
  | 7 => decide (a < 2 ^ 42) && b == 0
  | _ => false

-- Assumption log 114 (DEDUCED).
/-- The library is mounted and the result FIFO has room for one result more than k (R399, R410). -/
def State.flashRoom (s : State) (k : Nat) : Bool :=
  s.fv .flashLibStateReady [] == 1 && decide (s.flash.results.length + k < 16)

-- Assumption log 114 (DEDUCED).
/-- A command completes: its result enters the FIFO, with its alert and its vector (R399, R425, R582). -/
def State.flashDone (s : State) (c : FlashCmd) (code detail : Nat) : State :=
  let f := s.flash
  ((s.setFlash { f with running := f.running.erase c, results := f.results ++ [(c, code, detail)] }).alert
    .hubAlertFlash).msix 32

-- Assumption log 115 (DEDUCED).
/-- A later EVICT of the queue names the edition of a command. -/
def Flash.doomed (f : Flash) (c : FlashCmd) : Bool :=
  (c.op == 3 || c.op == 5) && (f.queue.dropWhile (fun d => d != c)).any (fun d => d.op == 4 && d.legal && d.edition == c.edition)

/-- The command of a class that may start now. -/
def State.flashFront (s : State) (inst : Bool) : Option FlashCmd :=
  if s.flashRoom 0 && s.flash.running.all (fun c => c.install != inst) then
    match s.flash.queue.find? (fun c => c.install == inst) with
    | some c => if s.flash.doomed c then none else some c
    | none => none
  else none

/-- Takes a command out of the queue. -/
def State.flashTake (s : State) (c : FlashCmd) : State := s.setFlash { s.flash with queue := s.flash.queue.erase c }

/-- Completes with BAD_OP the illegal commands that stand at the front of their class. -/
def State.flashSweep : Nat → State → State
  | 0, s => s
  | n + 1, s =>
    match s.flashFront true, s.flashFront false with
    | some c, d =>
      if !c.legal then ((s.flashTake c).flashDone c FlashCode.badOp 0).flashSweep n
      else match d with
        | some e => if !e.legal then ((s.flashTake e).flashDone e FlashCode.badOp 0).flashSweep n else s
        | none => s
    | none, some e => if !e.legal then ((s.flashTake e).flashDone e FlashCode.badOp 0).flashSweep n else s
    | none, none => s

/-- A write of CMD enqueues a command with the arguments as they stand; a full queue discards it (R399). -/
def State.flashEnqueue (s : State) (w : Word) : State :=
  if 8 ≤ s.flash.queue.length then s.setf .flashCmdQueueOverflow [] 1
  else
    let c : FlashCmd := ⟨getBits w 3 0, getBits w 63 48, s.rv .flashCmdArg0 [], s.rv .flashCmdArg1 []⟩
    (s.setFlash { s.flash with queue := s.flash.queue ++ [c] }).flashSweep 16

-- Assumption log 113 (DESIGN CHOICE).
/-- Starts the command of an operation where it stands at the front of its class: `f` gives the result, or none where the
command goes on running. -/
def State.flashStart (s : State) (op : Nat) (f : State → FlashCmd → State × Option (Nat × Nat)) : State :=
  match s.flashFront (op == 1 || op == 2) with
  | some c =>
    if c.op = op ∧ c.legal then
      let r := f (s.flashTake c) c
      match r.2 with
      | some v => (r.1.flashDone c v.1 v.2).flashSweep 16
      | none => r.1.setFlash { r.1.flash with running := r.1.flash.running ++ [c] }
    else s
  | none => s

-- Assumption log 113 (DESIGN CHOICE).
/-- Ends a running command, where the result FIFO has room for its result. -/
def State.flashEnd (s : State) (c : FlashCmd) (f : State → State × Nat × Nat) : State :=
  if s.flashRoom 0 then
    let r := f s
    (r.1.flashDone c r.2.1 r.2.2).flashSweep 16
  else s

/-! ### INSTALL and DELETE (R396, R397, R401) -/

/-- The page-tiles that an extent covers in edition address space overlap those of another. -/
def extentsMeet (a b : Extent) : Bool :=
  a.placed && b.placed && decide (a.page < b.page + b.pages) && decide (b.page < a.page + a.pages)

/-- Two extents of a list overlap. -/
def overlap : List Extent → Bool
  | [] => false
  | x :: t => t.any (extentsMeet x) || overlap t

/-- An object-table entry breaks R395 (or R392, for VIEW). -/
def extentBad (m : List Byte) (i : Nat) : Bool :=
  let x := extentAt m i
  let lo := x.first % 2 ^ 23
  x.typ == 0 || decide (3 < x.typ) || decide (3 < x.view) || (x.typ != 2 && x.view != 0) ||
    decide (2 ^ 26 ≤ x.first) || x.pages == 0 || leAt m (0x2000 + 64 * i + 12) 4 != 0 || decide (2 ^ 23 < lo + x.pages) ||
    (x.typ == 3 && (lo != 0 || decide (0x1FFE < x.index) || x.pages * 64 != ceilDiv (leAt m 0x100 4) 64 * 64))

-- Assumption log 116 (DEDUCED).
/-- The first FORMAT check that a package fails before its signature (R401 step 1), judged on the package as it was read. -/
def formatHead (m : List Byte) (len : Nat) : Option Nat :=
  let n := leAt m 16 4
  firstFail [
    (1, leAt m 0 4 != 0x4C394D46 || leAt m 4 2 != 1 || leAt m 40 216 != 0),
    (2, decide (n < 1) || decide (16384 < n) || leAt m 20 4 != 0x2000 + 64 * n + 96 ||
      len != (manifestTiles m + extentPages m) * 65536)]

-- Assumption log 116 (DEDUCED).
/-- The first FORMAT check that a package fails after it (R401 step 3). -/
def formatBody (m : List Byte) : Option Nat :=
  let id := leAt m 8 4
  let plates := leAt m 6 1
  let xs := extentsOf m
  let idx : Nat → List Nat := fun t => (xs.filter (fun x => x.typ == t)).map (·.index)
  firstFail [
    (3, id == 0 || id == 0xFFFFFFFF),
    (4, decide (plates < 1) || decide (8 < plates) || (List.range plates).any (fun p => !(idx 1).contains p) ||
      (idx 1).any (fun p => decide (plates ≤ p))),
    (5, (List.range xs.length).any (extentBad m) || overlap xs),
    (6, !decide (idx 3).Nodup || (idx 3).length != leAt m 0x104 2 || (leAt m 0x100 4 == 0 && leAt m 0x104 2 != 0)),
    (7, !bitOf (leAt m 7 1) 0 && leAt m 0x1000 0x1000 != 0)]

/-- The signature of a manifest holds under the enrolled key that KEY_ID names (R396). -/
def State.signatureOk (s : State) (m : List Byte) : Bool :=
  let n := leAt m 20 4 - 96
  s.sealUnit.pubs.any (fun k => match k with
    | some k => k.keyId == leAt m 24 16 && ecdsaVerify k.key (m.take n) ((m.drop n).take 96)
    | none => false)

/-- The bytes of a package as content, zeros left out. -/
def contentOf (bs : List Byte) : Tab Byte :=
  (bs.zipIdx.map (fun (b : Byte × Nat) => (b.2, b.1))).filter (fun e => e.2 != 0)

/-- The edition that a package describes, in state INSTALLING. -/
def packageEdition (m : List Byte) (c0 : Nat) : Edition :=
  { Edition.reset with id := leAt m 8 4, state := 1, manifest := m,
                       shards := manifestTiles m + extentPages m, c0 := 2 * (c0 % 32) }

/-- The failure of INSTALL before it writes: code and DETAIL (R401 steps 1 to 6). -/
def State.installRefused (s : State) (c : FlashCmd) (pkg : List Byte) : Option (Nat × Nat) :=
  let m := pkg.take (leAt pkg 20 4)
  let e := packageEdition m 0
  match formatHead pkg c.arg1.toNat with
  | some k => some (FlashCode.format, k)
  | none =>
    if !s.signatureOk m then some (FlashCode.signature, 0)
    else match formatBody m with
      | some k => some (FlashCode.format, k)
      | none => match e.recordFailure (tabGet hbmZero (contentOf pkg)) with
        | some d => some (FlashCode.recordBad, d)
        | none =>
          let full := decide (userSpace < s.flash.used + e.space)
          match s.slotOf e.id with
          | some n =>
            if !(s.flash.slot n).degraded then some (FlashCode.installed, 0)
            else if 3 ≤ (s.flash.slot n).state then some (FlashCode.busy, 0)
            else if full then some (FlashCode.noSpace, 8) else none
          | none =>
            if (firstBelow 1024 (fun n => (s.flash.slot n).state == 0)).isNone then some (FlashCode.limit, 0)
            else if full then some (FlashCode.noSpace, 8) else none

/-- The first extent whose content does not match its DIGEST. -/
def Edition.badDigest (e : Edition) (content : Tab Byte) : Option Nat :=
  (e.extents.zipIdx.find? (fun x => sha384 ((List.range (x.1.1.pages * 65536)).map (fun i =>
    tabGet hbmZero content (x.1.2 * 65536 + i))) != x.1.1.digest)).map (·.2)

/-- Writes a stripe and its record (R385 to R387, R401 steps 7 and 8). -/
def State.writeStripe (s : State) (n : Nat) (content : Tab Byte) (j : Nat) : State :=
  let e := s.flash.slot n
  let data := (List.range 8).map (fun i => shardOf content (8 * j + i))
  let all := (data ++ parityOf data).zipIdx
  let r := all.foldl (fun (a : State × List Nat) (x : Tab Byte × Nat) =>
    if e.written (10 * j + x.2) then
      let p := a.1.program n ((e.c0 + 10 * j + x.2) % 64) x.1
      (p.1, a.2 ++ [p.2])
    else (a.1, a.2 ++ [noLoc])) (s, [])
  let digests := all.map (fun (x : Tab Byte × Nat) => if e.written (10 * j + x.2) then shardDigest x.1 else 0)
  let e := r.1.flash.slot n
  r.1.setSlot n { e with records := e.records ++ [StripeRecord.seal r.2 digests] }

-- Assumption log 121 (DESIGN CHOICE).
/-- The slot that an installation works on. -/
def State.installing (s : State) : Option Nat := (s.flash.slots.find? (fun e => e.2.state == 1)).map (·.1)

/-- An installation ends without an edition: nothing of the package stays (R397, R401). -/
def State.dropInstall (s : State) (n : Nat) : State :=
  (s.setUsed (s.flash.used - (s.flash.slot n).space)).setSlot n Edition.reset

/-- The last part of INSTALL: content, digests, stripes, slot (R401 steps 7 and 8). -/
def State.installFinish (s : State) (pkg : Option (List Byte)) : State × Nat × Nat :=
  match s.installing, pkg with
  | none, _ => (s, FlashCode.hostRead, 0)
  | some n, none => (s.dropInstall n, FlashCode.hostRead, 0)
  | some n, some bs =>
    let e := s.flash.slot n
    match e.badDigest (contentOf bs) with
    | some i => (s.dropInstall n, FlashCode.digest, i)
    | none =>
      let t := (List.range e.stripes).foldl (fun u j => u.writeStripe n (contentOf bs) j) s
      let done := { t.flash.slot n with state := 2 }
      if n < 1024 then (t.setSlot n done, 0, 0)
      else
        match t.slotOf e.id with
        | some old =>
          let u := t.setUsed (t.flash.used - (t.flash.slot old).space)
          (((u.setSlot n Edition.reset).setSlot old done).eraseUnused, 0, 0)
        | none => (t, 0, 0)

-- Assumption log 113 (DESIGN CHOICE).
/-- INSTALL (R401): the first event reads and checks the package and reserves its space, a second one writes it. Each brings
the package as read over the host port, none after a failed read; C0 is the module's choice of an even channel. -/
def execInstall (pkg : Option (List Byte)) (c0 : Nat) (s : State) : Host.Outcome State Fault Refusal :=
  match s.flash.running.find? (fun c => c.op == 1) with
  | some c => .next (s.flashEnd c (fun t => t.installFinish pkg))
  | none => .next (s.flashStart 1 (fun t c =>
      match pkg with
      | none => (t, some (FlashCode.hostRead, 0))
      | some bs => match t.installRefused c bs with
        | some r => (t, some r)
        | none =>
          let m := bs.take (leAt bs 20 4)
          let e := packageEdition m c0
          let n := if (t.slotOf e.id).isSome then 1024
            else (firstBelow 1024 (fun n => (t.flash.slot n).state == 0)).getD 1024
          ((t.setUsed (t.flash.used + e.space)).setSlot n e, none)))

-- Assumption log 117 (DEDUCED).
/-- DELETE (R397): a STORED edition becomes ABSENT, its space is free and its blocks are erased; one that is STAGING or
RESIDENT is BUSY. -/
def execDelete (s : State) : Host.Outcome State Fault Refusal :=
  .next (s.flashStart 2 (fun t c =>
    match t.installed c.edition with
    | none => (t, some (FlashCode.notInstalled, 0))
    | some n =>
      let e := t.flash.slot n
      if e.state ≠ 2 then (t, some (FlashCode.busy, 0))
      else (((t.setUsed (t.flash.used - e.space)).setSlot n Edition.reset).eraseUnused, some (0, 0))))

/-! ### STAGE, EVICT, SET_STAGE, SET_EVICT, REPAIR (R403 to R409) -/

/-- Fills a page-tile: every codeword is written, and the tag moves to SHARED with its VIEW (R366, R403). -/
def State.fillPage (s : State) (page view : Nat) (bs : List Byte) : State :=
  let lo := page * 65536
  let new := (bs.take 65536).zipIdx.map (fun (b : Byte × Nat) => (lo + b.2, b.1)) |>.filter (fun e => e.2 != 0)
  let t := s.activateAll (pageTiles page)
  let h := t.hbm
  (t.setHbm { h with cells := tabReplace h.cells new lo (lo + 65536)
                     errs := tabClear h.errs (page * 1024) (page * 1024 + 1024) }).setTag page (sharedTag view)

/-- A fill of page-tiles of a die waits: the die's link is down, or its base dies are in self refresh (R29, R516). -/
def State.fillWaits (s : State) (die : Nat) : Bool :=
  s.domainOn (16 + die) && (!s.dieUp die || s.selfRefresh die)

/-- Edition page-tiles of the PLATE and WEIGHTS extents with shard and VIEW. -/
def Edition.tiles (e : Edition) : List (Nat × Nat × Nat) :=
  e.extents.flatMap (fun x => if x.1.placed then
    (List.range x.1.pages).map (fun i => (x.1.page + i, x.2 + i, x.1.view)) else [])

-- Assumption log 119 (DEDUCED).
/-- Pages for the tiles of one die, where it has them. -/
def State.reserveDie (s : State) (e : Edition) (die : Nat) : Option (List (Nat × Nat)) :=
  let ts := (e.tiles.map (·.1)).filter (fun q => q / 2 ^ 23 == die)
  (s.takeFree die ts.length).map (fun l => ts.zip l)

-- Assumption log 119 (DEDUCED).
/-- Reserves the pages of a STAGE, die by die (R403 step 3): DOMAIN_OFF or NO_SPACE names the first die that fails. -/
def State.reserve (s : State) (e : Edition) : Nat → Nat → Except (Nat × Nat) (List (Nat × Nat))
  | 0, _ => .ok []
  | n + 1, die =>
    if !(e.tiles.any (fun x => x.1 / 2 ^ 23 == die)) then s.reserve e n (die + 1)
    else if s.domainOn (16 + die) = false then .error (FlashCode.domainOff, die)
    else match s.reserveDie e die, s.reserve e n (die + 1) with
      | none, _ => .error (FlashCode.noSpace, die)
      | some _, .error r => .error r
      | some l, .ok t => .ok (l ++ t)

/-- The shards that STAGE reads: the manifest's and those of the PLATE and WEIGHTS extents. -/
def Edition.stageShards (e : Edition) : List Nat :=
  List.range (manifestTiles e.manifest) ++ e.tiles.map (fun (x : Nat × Nat × Nat) => x.2.1)

/-- The stripes of the PLATE extents, whose images the record checks read. -/
def Edition.plateStripes (e : Edition) : List Nat :=
  (e.extents.flatMap (fun x => if x.1.typ = 1 then (List.range x.1.pages).map (fun i => (x.2 + i) / 8) else [])).eraseDups

/-- The die of a set's extent. -/
def Edition.setDie (e : Edition) (set : Nat) : Option Nat :=
  (e.extents.find? (fun x => x.1.typ == 3 && x.1.index == set)).map (fun x => x.1.first / 2 ^ 23 % 8)

/-- Stages one set of a RESIDENT edition (R408): code and DETAIL. `r` is what reading its shards finds. -/
def State.stageSet (s : State) (n set : Nat) (r : FlashRead) : State × Nat × Nat :=
  let e := s.flash.slot n
  if e.hasSet set then (s, 0, 0)
  else match e.extents.find? (fun x => x.1.typ == 3 && x.1.index == set) with
    | none => (s, FlashCode.badOp, 0)
    | some x =>
      let die := x.1.first / 2 ^ 23 % 8
      let shards := (List.range x.1.pages).map (fun i => x.2 + i)
      if s.domainOn (16 + die) = false then (s, FlashCode.domainOff, die)
      else match s.takeFree die x.1.pages with
        | none => (s, FlashCode.noSpace, die)
        | some pages =>
          let j := (s.readShards n (shards.map shardNo) r).judge n ((shards.map (· / 8)).eraseDups)
          match j.2 with
          | some k => (j.1, FlashCode.editionLost, k)
          | none =>
            let e := j.1.flash.slot n
            let t := j.1.countRebuilds e shards
            let recs := leAt e.manifest 0x100 4
            match (List.range recs).findSome? (fun k =>
                stippleCheck (leNat (((t.tileBytes e (x.2 + k / 64)).drop (1024 * (k % 64))).take 1024))) with
            | some k => (t, FlashCode.recordBad, 3 * 2 ^ 30 + k * 2 ^ 24 + set % 8192)
            | none =>
              let t := (pages.zip shards).foldl (fun u (q : Nat × Nat) =>
                u.fillPage q.1 x.1.view (t.tileBytes e q.2)) t
              let f := t.flash.slot n
              (t.setSlot n { f with sets := tabSet (fun _ => []) f.sets set pages }, 0, 0)

/-- Stages sets in order until one fails. -/
def State.stageSets (s : State) (n : Nat) : List Nat → State × Nat × Nat
  | [] => (s, 0, 0)
  | k :: t =>
    let r := s.stageSet n k (findings [] n)
    if r.2.1 = 0 then r.1.stageSets n t else r

/-- The slot of the STAGE that runs. -/
def State.stagingSlot (s : State) : Option Nat := (s.flash.slots.find? (fun e => e.2.state == 3)).map (·.1)

/-- The last part of STAGE: stripes, fill, records, sets (R403 steps 4 to 7, R405). -/
def State.stageFinish (s : State) (c : FlashCmd) (r : FlashRead) : State × Nat × Nat :=
  match s.stagingSlot with
  | none => (s, FlashCode.abandoned, 0)
  | some n =>
    let ds := (s.flash.slot n).stageShards
    let j := (s.readShards n (ds.map shardNo) r).judge n ((ds.map (· / 8)).eraseDups)
    match j.2 with
    | some k => (j.1.unstage n, FlashCode.editionLost, k)
    | none =>
      let e := j.1.flash.slot n
      let lib := j.1.countRebuilds e ds
      let t := e.tiles.foldl (fun u (x : Nat × Nat × Nat) =>
        u.fillPage (tabGet (fun _ => 0) e.pages x.1) x.2.2 (lib.tileBytes e x.2.1)) lib
      let t := t.setSlot n { t.flash.slot n with state := 4 }
      if c.arg1.toNat = 2 ^ 16 then
        t.stageSets n ((e.extents.filter (fun x => x.1.typ == 3)).map (fun x => x.1.index))
      else (t, 0, 0)

/-- The running STAGE waits for a die that it fills (R29). -/
def State.stageWaits (s : State) (c : FlashCmd) : Bool :=
  match s.stagingSlot with
  | none => false
  | some n =>
    let e := s.flash.slot n
    e.tiles.any (fun x => !s.dieUp (x.1 / 2 ^ 23) || s.selfRefresh (x.1 / 2 ^ 23)) ||
      (c.arg1.toNat == 2 ^ 16 && e.extents.any (fun x => x.1.typ == 3 && s.fillWaits (x.1.first / 2 ^ 23 % 8)))

-- Assumption log 117 (DEDUCED).
/-- STAGE (R403): the first event checks and reserves, a second one, with what reading the stripes finds, fills the pages
and makes the edition RESIDENT; it waits while a die's link is down. The records are checked against images that can be
read; where a stripe of an image is dead, step 4 ends the command. -/
def execStage (r : FlashRead) (s : State) : Host.Outcome State Fault Refusal :=
  match s.flash.running.find? (fun c => c.op == 3) with
  | some c => .next (if s.stageWaits c then s else s.flashEnd c (fun t => t.stageFinish c r))
  | none => .next (s.flashStart 3 (fun t c =>
      match t.installed c.edition with
      | none => (t, some (FlashCode.notInstalled, 0))
      | some n =>
        let e := t.flash.slot n
        if e.state = 4 then (t, some (0, 0))
        else if e.degraded then
          (t, some (FlashCode.editionLost, (t.deadStripe e (List.range e.stripes)).getD 0))
        else if 64 ≤ t.fv .flashLibStateResident [] then (t, some (FlashCode.limit, 0))
        else match (if (t.deadStripe e e.plateStripes).isSome then none else e.recordFailure (t.contentByte e)) with
          | some d => (t, some (FlashCode.recordBad, d))
          | none => match t.reserve e 8 0 with
            | .error f => (t, some f)
            | .ok l =>
              let pages := l.foldl (fun (u : Tab Nat) (q : Nat × Nat) => tabSet (fun _ => 2 ^ 26) u q.1 q.2) []
              (t.setSlot n { e with state := 3, pages := pages }, none)))

/-- A plate of the edition is valid in a store, or a step of it is admitted or fires, in some partition (R406). -/
def State.editionUsed (s : State) (id : Nat) : Bool :=
  s.parts.any (fun p => [p.2.front, p.2.back].any (fun o => match o with
      | some (pl : Plate) => pl.edition == id
      | none => false) ||
    [p.2.admitted, p.2.firing].any (fun o => match o with
      | some (x : Step) => x.entry.kind == 0 && x.edition == id
      | none => false))

/-- The first EVICT of the queue with a STAGE or SET_STAGE of its edition ahead of it, and that command. -/
def Flash.overtaken (f : Flash) : Option FlashCmd :=
  f.queue.find? (fun c => f.doomed c)

/-- An EVICT of the queue that names the edition of the running STAGE. -/
def State.evictRunning (s : State) : Option (FlashCmd × FlashCmd) :=
  match s.flash.running.find? (fun c => c.op == 3) with
  | some g => (s.flash.queue.find? (fun c => c.op == 4 && c.legal && c.edition == g.edition)).map (fun c => (g, c))
  | none => none

-- Assumption log 115 (DEDUCED).
/-- Abandons the commands that an EVICT overtakes, while the result FIFO has room. -/
def State.abandonAhead : Nat → State → State
  | 0, s => s
  | n + 1, s =>
    match s.flash.overtaken with
    | some c => if s.flashRoom 0 then ((s.flashTake c).flashDone c FlashCode.abandoned 0).abandonAhead n else s
    | none => s

-- Assumption log 115 (DEDUCED).
/-- EVICT (R399, R406): commands of the edition ahead of it in the queue are abandoned; a running STAGE of it ends with
ABANDONED; a RESIDENT edition that nothing uses leaves HBM. -/
def execEvict (s : State) : Host.Outcome State Fault Refusal :=
  let s := s.abandonAhead 8
  if s.flash.overtaken.isSome then .next s
  else match s.evictRunning, s.stagingSlot with
    | some (g, c), some n =>
      if s.flashRoom 1 then
        let t := (s.flashTake c).unstage n
        .next (((t.flashDone g FlashCode.abandoned 0).flashDone c 0 0).flashSweep 16)
      else .next s
    | _, _ => .next (s.flashStart 4 (fun t c =>
        match t.installed c.edition with
        | none => (t, some (FlashCode.notInstalled, 0))
        | some n =>
          if (t.flash.slot n).state ≠ 4 then (t, some (0, 0))
          else if t.editionUsed c.edition then (t, some (FlashCode.busy, 0))
          else (t.unstage n, some (0, 0))))

/-- The SET_STAGE at the front of its class fills a set that is not resident, and waits for its die (R29). -/
def State.setWaits (s : State) : Bool :=
  match s.flashFront false with
  | some c =>
    c.op == 5 && (match s.installed c.edition with
      | some n =>
        let e := s.flash.slot n
        e.state == 4 && !e.hasSet c.stipple && (e.setDie c.stipple).any s.fillWaits
      | none => false)
  | none => false

-- Assumption log 118 (DESIGN CHOICE).
/-- SET_STAGE (R408): the set's pages are taken, its records checked, and its pages filled. A set that the edition does not
hold is BAD_OP. The command waits while the link of the set's die is down. -/
def execSetStage (r : FlashRead) (s : State) : Host.Outcome State Fault Refusal :=
  .next (if s.setWaits then s else s.flashStart 5 (fun t c =>
    match t.installed c.edition with
    | none => (t, some (FlashCode.notInstalled, 0))
    | some n =>
      if (t.flash.slot n).state ≠ 4 then (t, some (FlashCode.notResident, 0))
      else
        let u := t.stageSet n c.stipple r
        (u.1, some u.2)))

-- Assumption log 118 (DESIGN CHOICE).
/-- An admitted or firing step names a set in a valid VARIANT entry (R408). -/
def State.setNamed (s : State) (id set : Nat) : Bool :=
  s.parts.any (fun p => [p.2.admitted, p.2.firing].any (fun o => match o with
    | some (x : Step) => x.entry.kind == 0 && x.edition == id && (List.range 64).any (fun g => x.variant g == some set)
    | none => false))

-- Assumption log 118 (DESIGN CHOICE).
/-- SET_EVICT (R408). -/
def execSetEvict (s : State) : Host.Outcome State Fault Refusal :=
  .next (s.flashStart 6 (fun t c =>
    match t.installed c.edition with
    | none => (t, some (FlashCode.notInstalled, 0))
    | some n =>
      let e := t.flash.slot n
      if e.state ≠ 4 then (t, some (FlashCode.notResident, 0))
      else if t.setNamed c.edition c.stipple then (t, some (FlashCode.busy, 0))
      else
        let pages := tabGet (fun _ => []) e.sets c.stipple
        ((t.dirtyAll pages).setSlot n { e with sets := tabSet (fun _ => []) e.sets c.stipple [] }, some (0, 0))))

/-- Where a resident page-tile comes from: slot, shard, VIEW, and the set it belongs to with its place, or the edition
page. -/
def State.residentTile (s : State) (page : Nat) : Option (Nat × Nat × Nat × Option (Nat × Nat) × Nat) :=
  s.flash.slots.findSome? (fun e =>
    if e.2.state ≠ 4 then none
    else match e.2.tiles.find? (fun x => tabGet (fun _ => 2 ^ 26) e.2.pages x.1 == page) with
      | some x => some (e.1, x.2.1, x.2.2, none, x.1)
      | none => e.2.sets.findSome? (fun k =>
          match k.2.findIdx? (· == page), e.2.extents.find? (fun x => x.1.typ == 3 && x.1.index == k.1) with
          | some i, some x => some (e.1, x.2 + i, x.1.view, some (k.1, i), 0)
          | _, _ => none))

/-- The REPAIR at the front of its class waits for the die of its page-tile (R29). -/
def State.repairWaits (s : State) : Bool :=
  match s.flashFront false with
  | some c => c.op == 7 && (s.residentTile (c.arg0.toNat / 65536)).isSome && s.fillWaits (dieOfPage (c.arg0.toNat / 65536))
  | none => false

/-- REPAIR (R409): the page-tile's shard is read again and filled into a FREE page of the die, translation moves to it, and
the old page becomes DIRTY. The command waits while the die's link is down. -/
def execRepair (r : FlashRead) (s : State) : Host.Outcome State Fault Refusal :=
  .next (if s.repairWaits then s else s.flashStart 7 (fun t c =>
    let page := c.arg0.toNat / 65536
    match t.residentTile page with
    | none => (t, some (FlashCode.notResident, 0))
    | some (n, shard, view, place, ep) =>
      let j := (t.readShards n [shardNo shard] r).judge n [shard / 8]
      match j.2 with
      | some k => (j.1, some (FlashCode.editionLost, k))
      | none => match j.1.takeFree (dieOfPage page) 1 with
        | some [q] =>
          let e := j.1.flash.slot n
          let lib := j.1.countRebuilds e [shard]
          let u := lib.fillPage q view (lib.tileBytes e shard)
          let e := u.flash.slot n
          let e := match place with
            | some (k, i) => { e with sets := tabSet (fun _ => []) e.sets k ((tabGet (fun _ => []) e.sets k).set i q) }
            | none => { e with pages := tabSet (fun _ => 2 ^ 26) e.pages ep q }
          ((u.setSlot n e).setTag page (2 ^ 14), some (0, 0))
        | _ => (j.1, some (FlashCode.noSpace, dieOfPage page))))

/-- CMD_ACK (R399): removes the oldest result. With the flash interface's domain off the write misses (R27). -/
def execCmdAck (s : State) : Host.Outcome State Fault Refusal :=
  match s.missed (Rg.flashCmdAck.at []) with
  | some d => .next (s.noteMiss (Rg.flashCmdAck.at []) d)
  | none => .next ((s.setFlash { s.flash with results := s.flash.results.drop 1 }).flashSweep 16)

/-! ### Keeping the library readable (R388 to R391) -/

/-- The library is mounted and firmware keeps it. -/
def State.libraryUp (s : State) : Bool := s.fv .flashLibStateReady [] == 1

/-- The shards of installed editions that a block holds, by library slot. -/
def State.heldBy (s : State) (b : Nat) : List (Nat × Nat) :=
  s.flash.slots.flatMap (fun e => if e.2.state < 2 then [] else
    (((List.range (10 * e.2.stripes)).filter (fun k => e.2.written k && e.2.loc k / 1024 == b)).map (fun k => (e.1, k))))

/-- Reads shards of an edition and judges its stripes (R397). -/
def State.readAndJudge (s : State) (n : Nat) (ks : List Nat) (r : FlashRead) : State :=
  let t := s.readShards n ks r
  (t.judge n ((ks.map (fun k => k / 10)).eraseDups)).1

/-- Copies a shard to its page in another block and updates the stripe record (R388). A lost shard is rebuilt first; where its stripe has
lost too many shards there is nothing to copy. -/
def State.moveShard (s : State) (d n k : Nat) : State :=
  let e := s.flash.slot n
  if s.shardLost e k && decide (2 < (s.lostOf e (k / 10)).length) then s
  else
    let f := s.flash
    let l := d * 1024 + e.loc k % 1024
    let t := (s.setFlash { f with pages := tabSet (fun _ => none) f.pages l (some (s.shard e k)) }).setSlot n (e.setLoc k l)
    if s.shardLost e k then t.bump .flashShardRebuilds [] 1 else t

/-- A block is to be relocated: it has reached the read limit, the scrub found it worn, or a program or an erase of it has
failed (R388 to R390). -/
def State.relocates (s : State) (b : Nat) (failed : Bool) : Bool :=
  s.libraryUp && !s.channelOut (b / 2 ^ 15) && !s.flash.retired.contains b && !s.flash.factory.contains b &&
    (failed || s.flash.worn.contains b || decide (s.fa .flashPolicyReadLimit [] * 1000 ≤ tabGet (fun _ => 0) s.flash.reads b))

-- Assumption log 167 (DESIGN CHOICE).
/-- BLOCK_RELOCATION (R388 to R390): the shards of a block that is to be relocated are read, checked and copied to the erased
block of the channel with the lowest erase count, the stripe records follow, and the old block is erased; at 1,500 erases,
or after a failed program or erase, it is retired. Without an erased block the relocation waits. `rs` is what reading the
shards finds, by library slot. -/
def execBlockRelocation (channel die block : Nat) (programFailed eraseFailed : Bool) (rs : List (Nat × FlashRead)) (s : State) :
    Host.Outcome State Fault Refusal :=
  let b := channel % 64 * 2 ^ 15 + die % 8 * 2 ^ 12 + block % 2 ^ 12
  let failed := programFailed || eraseFailed
  if s.relocates b failed then
    let held := s.heldBy b
    match s.freshBlock (channel % 64) with
    | none => .next (if held.isEmpty then s.eraseBlock b failed else s)
    | some d =>
      let slots := (held.map (fun (x : Nat × Nat) => x.1)).eraseDups
      let t := slots.foldl (fun u n => u.readAndJudge n ((held.filter (fun x => x.1 == n)).map (fun x => x.2)) (findings rs n)) s
      let t := held.foldl (fun u (x : Nat × Nat) => u.moveShard d x.1 x.2) t
      .next ((t.eraseBlock b failed).bump .flashRelocations [] (bit01 (!held.isEmpty)))
  else .next s

/-- The scrub of one edition: every programmed page is read, and blocks with a page that needed more than 4 retries or a
soft-bit read are marked for relocation (R389). -/
def State.scrubEdition (s : State) (n : Nat) (r : FlashRead) : State :=
  let e := s.flash.slot n
  if e.state < 2 then s
  else
    let t := s.readAndJudge n ((List.range (10 * e.stripes)).filter e.written) r
    let worn := ((r.retried.filter (fun x => decide (4 < x.2))).map (fun x => e.loc x.1)).filter (fun l => (s.flash.page l).isSome)
    t.setFlash { t.flash with worn := (t.flash.worn ++ worn.map (fun l => l / 1024)).eraseDups }

/-- RETENTION_SCRUB (R389): a pass reads every programmed page of the library; `rs` is what it finds, by library slot. -/
def execRetentionScrub (rs : List (Nat × FlashRead)) (s : State) : Host.Outcome State Fault Refusal :=
  .next (if s.libraryUp then (s.flash.slots.map (fun (e : Nat × Edition) => e.1)).foldl (fun t n => t.scrubEdition n (findings rs n)) s
    else s)

/-- Shows a channel's state: OUT, DISABLED, REBUILDING, and the dies that answer and are in use (R411). -/
def State.showChannel (s : State) (c : Nat) : State :=
  let t := s.setv .flashChanOut [] (putBits (s.rv .flashChanOut []) c c
    (bit01 (s.flash.failed.contains c || (s.ra .flashChanDisable []).toNat.testBit c)))
  let w := t.rv .flashChStatus [c]
  let w := putBits w 63 63 (bit01 (t.channelOut c))
  let w := putBits w 62 62 (bit01 ((t.ra .flashChanDisable []).toNat.testBit c))
  let w := putBits w 7 0 (if t.channelOut c then 0 else tabGet (fun _ => 0) t.flash.dies c)
  t.setv .flashChStatus [c] (putBits w 61 61 (bit01 (t.flash.rebuilding.contains c)))

/-- A channel goes out of service: its bit and its record; the rebuild of its shards starts (R391). -/
def State.channelDown (s : State) (c : Nat) : State :=
  let was := s.channelOut c
  let f := s.flash
  let t := (s.setFlash { f with rebuilding := if f.rebuilding.contains c then f.rebuilding else f.rebuilding ++ [c] }).showChannel c
  if was then t else t.bbWrite none 0x41 4 (payloadOf [(0, 1, c), (1, 1, 1)])

-- Assumption log 123 (DEDUCED).
/-- A commit that clears a channel's disable bit returns it to service, unless it failed. -/
def State.channelUp (s : State) (c : Nat) : State :=
  if s.flash.failed.contains c then s.showChannel c
  else ((s.setFlash { s.flash with
    rebuilding := s.flash.rebuilding.filter (fun x => x != c) }).showChannel c).eraseUnused

/-- CHANNEL_OUT_OF_SERVICE (R391): the controller or every die of a channel fails. -/
def execChannelOutOfService (channel : Nat) (s : State) : Host.Outcome State Fault Refusal :=
  let c := channel % 64
  if s.flash.failed.contains c then .next s
  else .next ((s.setFlash { s.flash with failed := s.flash.failed ++ [c] }).channelDown c)

-- Assumption log 122 (DESIGN CHOICE).
/-- Channels outside a stripe's ten that are in service. -/
def State.spareChannels (s : State) (e : Edition) (j : Nat) : List Nat :=
  let ten := (List.range 10).map (fun i => e.channel (10 * j + i))
  (List.range 64).filter (fun c => !ten.contains c && !s.channelOut c)

-- Assumption log 122 (DESIGN CHOICE).
/-- Rebuilds a shard that a channel held, on a channel of the module's choice, and updates the stripe record (R390, R391,
assumption log 3). -/
def State.rebuildShard (s : State) (n c k : Nat) : State :=
  let e := s.flash.slot n
  if e.written k && e.channel k == c && !decide (2 < (s.lostOf e (k / 10)).length) then
    let cs := s.spareChannels e (k / 10)
    match cs[Config.freeNat s.free % cs.length]? with
    | some d =>
      let p := s.fresh.program n d (s.shard e k)
      if p.2 = noLoc then s
      else (p.1.setSlot n ((p.1.flash.slot n).setLoc k p.2)).bump .flashShardRebuilds [] 1
    | none => s
  else s

/-- Rebuilds an edition's shards of a channel, in blocks that the rebuild takes newly (R390); a stripe with more than 2 lost shards
degrades it. -/
def State.rebuildEdition (s : State) (c n : Nat) : State :=
  let e := s.flash.slot n
  if e.state < 2 then s
  else
    let ks := (List.range (10 * e.stripes)).filter (fun k => e.written k && e.channel k == c)
    let t := s.readAndJudge n ks (findings [] n)
    ks.foldl (fun u k => u.rebuildShard n c k) (t.setSlot n { t.flash.slot n with next := [] })

/-- CHANNEL_REBUILD_DONE (R391): every shard that the channel held has been rebuilt elsewhere. -/
def execChannelRebuildDone (channel : Nat) (s : State) : Host.Outcome State Fault Refusal :=
  let c := channel % 64
  if s.libraryUp && s.flash.rebuilding.contains c then
    let t := (s.flash.slots.map (fun (e : Nat × Edition) => e.1)).foldl (fun u n => u.rebuildEdition c n) s
    let t := (t.setFlash { t.flash with rebuilding := t.flash.rebuilding.filter (fun x => x != c) }).showChannel c
    .next (t.bbWrite none 0x41 0 (payloadOf [(0, 1, c), (1, 1, 2)]))
  else .next s

/-- FLASH_RETRAINING (R382): the controllers repeat their training; nothing that the manual names as state changes. -/
def execFlashRetraining (s : State) : Host.Outcome State Fault Refusal := .next s

/-! ### Commit, reset and mount (R397, R410, R412) -/

/-- A stripe of an installed edition would have more than 2 of its ten channels out (R412). -/
def State.stripeExposed (s : State) (out : Nat) : Bool :=
  s.flash.slots.any (fun e => decide (2 ≤ e.2.state) && (List.range e.2.stripes).any (fun j =>
    decide (2 < (((List.range 10).map (fun i => e.2.channel (10 * j + i))).filter (fun c => out.testBit c)).eraseDups.length)))

/-- The checks of a FLASH commit (R412). -/
def State.flashChecks (s : State) : Option Nat :=
  let lim := s.fp .flashPolicyReadLimit []
  firstFail [
    (1, decide (lim < 10) || decide (1000 < lim) || s.fp .flashPolicyScrubDays [] == 0 ||
      decide (50 < s.fp .flashPolicyRebuildShare [])),
    (2, s.stripeExposed ((s.rp .flashChanDisable []).toNat ||| (s.rv .flashChanOut []).toNat))]

-- Assumption log 123 (DEDUCED).
/-- An applied FLASH commit: disabled channels go out of service, and enabled ones return (R391). -/
def State.flashApplied (s : State) (old : Word) : State :=
  let new := s.ra .flashChanDisable []
  (List.range 64).foldl (fun t c =>
    if new.toNat.testBit c && !old.toNat.testBit c then t.channelDown c
    else if old.toNat.testBit c && !new.toNat.testBit c then t.channelUp c else t) s

/-- What loss of the hub's power leaves of the library: nothing is resident, and an installation is discarded (R397, R410). The rebuild of
a channel that has failed goes on after the next mount (R391). -/
def Flash.powerOff (f : Flash) : Flash :=
  let gone := (f.slots.filter (fun e => e.2.state == 1)).foldl (fun n e => n + e.2.space) 0
  { f with
    slots := (f.slots.filter (fun e => e.2.state != 1)).map (fun (e : Nat × Edition) =>
      (e.1, { e.2 with state := min e.2.state 2, pages := [], sets := [] }))
    queue := [], running := [], results := [], rebuilding := f.rebuilding.filter f.failed.contains, used := f.used - gone }

-- Assumption log 123 (DEDUCED).
/-- A channel as the mount finds it (R391, R410): one of which no die answers is out of service. -/
def State.mountChannel (s : State) (c dies : Nat) : State :=
  let t := s.setFlash { s.flash with dies := tabSet (fun _ => 0) s.flash.dies c (dies % 256) }
  if dies % 256 = 0 ∧ t.flash.failed.contains c = false then
    (t.setFlash { t.flash with failed := t.flash.failed ++ [c] }).channelDown c
  else t.showChannel c

/-- The translation layer has mounted the library (R410): DIES_OK of the 64 channels, READY, and commands start. What follows
the 64 numbers are the blocks whose factory mark it has read (R390). -/
def State.mountLibrary (s : State) (dies : List Nat) : State :=
  let s := s.setFlash { s.flash with factory := (s.flash.factory ++ dies.drop 64).eraseDups }
  let t := (List.range 64).foldl (fun u c => u.mountChannel c (dies.getD c 0)) s
  ((t.showLibrary).setf .flashLibStateReady [] 1).flashSweep 16

end Sys2Proof.Machine
end

