-- ==== Sys2Proof/Machine/Hub.lean ====
section
/-! DEFINITION. Die-to-die links (R28 to R30) and the time base (R46 to R72). -/

namespace Sys2Proof.Machine

open Sys2Proof

/-! ### Die-to-die links -/

/-- D2D_LINK_DOWN (R29): UP clears and WENT_DOWN sets; hub traffic for the die waits in State.hubWait, and accesses to
its blocks miss by R27. -/
def execD2dLinkDown (die : Nat) (s : State) : Host.Outcome State Fault Refusal :=
  if die < 8 then .next ((s.setf .hubD2dUp [die] 0).setf .hubD2dWentDown [die] 1) else .next s

/-- MEM_LINK_DOWN (R30): MEM_UP clears and MEM_WENT_DOWN sets; hatch requests that need the link wait. -/
def execMemLinkDown (edge : Nat) (s : State) : Host.Outcome State Fault Refusal :=
  if edge < 10 then .next ((s.setf .hubEdgeMemUp [edge] 0).setf .hubEdgeMemWentDown [edge] 1) else .next s

-- Assumption log 167 (DESIGN CHOICE).
/-- MEM_LINK_RETRAIN_DONE (R30): the memory link carries traffic again and the waiting requests may proceed. -/
def execMemLinkRetrainDone (edge : Nat) (s : State) : Host.Outcome State Fault Refusal :=
  if edge < 10 then .next (s.setf .hubEdgeMemUp [edge] 1) else .next s

/-! ### References -/

/-- A TIME black-box record (R553): event code, reference in use, offset error. -/
def State.timeRecord (s : State) (p : Option Nat) (event err : Nat) : State :=
  s.bbWrite p 0x21 0 (payloadOf [(0, 1, event), (1, 1, s.fv .timeStatusInUse []), (8, 2, err)])

-- Assumption log 170 (DESIGN CHOICE).
/-- REF_LOST (R52): REF_LOST sets; the module moves to ALT, or to the internal oscillator in HOLDOVER; no TS64
steps. -/
def execRefLost (s : State) : Host.Outcome State Fault Refusal :=
  let t := s.setf .timeStatusRefLost [] 1
  let t := (t.setf .timeStatusLocked [] 0).timeRecord none 1 0
  let alt := t.fa .timeRefAlt []
  if alt ≠ 0xFF ∧ s.fv .timeStatusInUse [] ≠ alt then
    .next ((((t.setf .timeStatusRefSwitch [] 1).setf .timeStatusInUse [] alt).setf .timeStatusHoldover [] 0).timeRecord
      none 2 0)
  else
    .next (((t.setf .timeStatusHoldover [] 1).setf .timeStatusInUse [] 0xFF).timeRecord none 3 0)

/-- REF_RESTORED (R52): the module locks back to the named source without a step. -/
def execRefRestored (s : State) : Host.Outcome State Fault Refusal :=
  let t := s.setf .timeStatusInUse [] (s.fa .timeRefSrc [])
  let u := (t.setf .timeStatusHoldover [] 0).setf .timeStatusLocked [] 1
  .next (if s.fv .timeStatusHoldover [] = 1 then u.timeRecord none 5 0 else u)

-- Assumption log 169 (DEDUCED).
/-- REFERENCE_LOCKED (R52, R72): the time base locks to the reference in use where a loss has moved it to ALT and it is not
locked yet, else to the reference that REF names. The end of HOLDOVER is a TIME record (R553). -/
def execReferenceLocked (s : State) : Host.Outcome State Fault Refusal :=
  let alt := s.fa .timeRefAlt []
  let onAlt := alt ≠ 0xFF ∧ s.fv .timeStatusInUse [] = alt ∧ s.fv .timeStatusLocked [] = 0
  let src := if onAlt then alt else s.fa .timeRefSrc []
  let t := ((s.setf .timeStatusInUse [] src).setf .timeStatusHoldover [] 0).setf .timeStatusLocked [] 1
  .next (if s.fv .timeStatusHoldover [] = 1 then t.timeRecord none 5 0 else t)

/-- PPS_IN_EDGE (R59): latches the partition time of every configured partition. -/
def execPpsInEdge (s : State) : Host.Outcome State Fault Refusal :=
  .next ((List.range 32).foldl
    (fun t p => if s.formed p then t.setv .timePpsLatch [p] (BitVec.ofNat 64 (s.pnow p)) else t) s)

/-! ### Synchronisation -/

/-- An exchange has failed: after 16 in a row PSYNC.HOLDOVER sets and a time record is written (R57). -/
def State.exchangeFailed (s : State) (p : Nat) : State :=
  let x := (s.part p).time
  let t := s.setTime p { x with fails := x.fails + 1, t1 := none }
  if x.fails + 1 = 16 then (t.setf .timePsyncHoldover [p] 1).timeRecord (some p) 4 (s.fv .timePsyncOffsetErr [p])
  else t

/-- TIME_EXCHANGE_TIMER (R54, R57): a module that is not the lead sends TIME_REQ with T1 to its parent; an exchange
still unanswered counts as failed. -/
def execTimeExchangeTimer (p : Nat) (s : State) : Host.Outcome State Fault Refusal :=
  if s.formed p ∧ s.isLead p = false then
    let t := if (s.part p).time.t1.isSome then s.exchangeFailed p else s
    let now := t.pnow p
    let x := (t.part p).time
    .next ((t.setTime p { x with t1 := some now }).send p 0x03 (t.fv .partStatusParent [p]) false 0 t.txn
      (leBytes 8 now))
  else .next s

/-- TIME_REQ (R477, R500): every module answers a TIME_REQ from any member with T1, its arrival stamp T2 and its
sending stamp T3, which the PHYs place; both are the partition time of the command here. -/
def execTimeReq (port : Nat) (h : Hdr) (body : List Byte) (s : State) : Host.Outcome State Fault Refusal :=
  .next (s.receive port 0x03 h body (fun t p =>
    t.send p 0x04 h.src false 0 h.txn (leBytes 8 (leAt body 0 8) ++ leBytes 8 (t.pnow p) ++ leBytes 8 (t.pnow p))))

-- Assumption log 23 (DEDUCED).
/-- The offset error of an exchange: ((T2 - T1) - (T4 - T3)) / 2, corrected by the port delays of both ends (R477):
half of what this module's transmit and the partner's receive path add forward, less what the way back adds. -/
def offsetError (t1 t2 t3 t4 : Nat) (own peer : Nat × Nat) : Int :=
  let fwd := Int.ofNat t2 - Int.ofNat t1 - Int.ofNat (own.1 + peer.2)
  let back := Int.ofNat t4 - Int.ofNat t3 - Int.ofNat (peer.1 + own.2)
  (fwd - back) / 2

-- Assumption log 171 (DESIGN CHOICE).
/-- TIME_RSP (R54, R55, R57, R500): completes the exchange that its T1 names: the first one loads the offset
directly and sets SYNCED, later ones are removed by slewing; at the lead the answer of a suspect ends its
confirmation with ALIVE. T4 is the partition time of the command. The module takes no step before the
first exchange (R55). -/
def execTimeRsp (port : Nat) (h : Hdr) (body : List Byte) (s : State) : Host.Outcome State Fault Refusal :=
  .next (s.receive port 0x04 h body (fun t p =>
    let x := t.part p
    if t.isLead p then t.confirmAlive p h.src
    else if x.time.t1 = some (leAt body 0 8) then
      let po := Config.portDelay (port % 128)
      let peer := t.rv .opticPeerPort (portIx (port % 128))
      let err := offsetError (leAt body 0 8) (leAt body 8 8) (leAt body 16 8) (t.pnow p)
        (getBits po 31 16, getBits po 15 0) (getBits peer 47 32, getBits peer 31 16)
      let enc := satSigned 16 err
      let u := t.setf .timePsyncOffsetErr [p] enc
      let synced := t.fv .timePsyncSynced [p] = 1
      let u := if synced ∧ (err > 16 ∨ err < -16) then u.setf .timePsyncOutOfBound [p] 1 else u
      let u := if t.fv .timePsyncHoldover [p] = 1 then (u.setf .timePsyncHoldover [p] 0).timeRecord (some p) 5 enc
               else u
      let y := (u.part p).time
      if synced then u.setTime p { y with slew := err, fails := 0, t1 := none }
      else
        ((u.setTime p { y with offset := y.offset + BitVec.ofInt 64 err, slew := 0, fails := 0, t1 := none }).setf
          .timePsyncSynced [p] 1)
    else t))

/-! ### Counter snapshots -/

/-- SNAP_STATUS.STATE codes (R69). -/
def State.snapState (s : State) (p code : Nat) : State := s.setf .timeSnapStatusState [p] code

/-- Arms a snapshot on this module (R60, R70). -/
def State.armSnap (s : State) (p t seq : Nat) : State :=
  let x := (s.part p).time
  ((s.setTime p { x with snap := some (t, seq), latched := [], latching := [] }).setf .timeSnapStatusPending [p] 1).snapState p 1

-- Assumption log 12 (DEDUCED).
/-- SNAP_AT_WRITE (R60, R70): a write of T on the lead arms a snapshot and broadcasts it, or is refused with LATE,
FAR, BUSY or NOT_LEAD, in this order of the conditions with NOT_LEAD first. The manual's message table gives the
broadcast no message type, so it leaves as an output of its own to every other member (log 12). -/
def execSnapAtWrite (p : Nat) (t : Word) (s : State) : Host.Outcome State Fault Refusal :=
  if s.formed p then
    let u := s.setv .timeSnapAt [p] t
    let now := s.pnow p
    if s.isLead p = false then .next (u.snapState p 6)
    else if t.toNat < now + 800000 then .next (u.snapState p 3)
    else if t.toNat > now + 2 ^ 36 then .next (u.snapState p 4)
    else if (s.part p).time.snap.isSome then .next (u.snapState p 5)
    else
      let seq := (s.fv .timeSnapStatusSeq [p] + 1) % 2 ^ 32
      let v := u.armSnap p t.toNat seq
      .next ((v.others p).foldl (fun w m => w.emit (.snapArm p m t.toNat seq)) v)
  else .next s

-- Assumption log 12 (DEDUCED).
/-- SNAPSHOT_ARM_RECEIVE (R70): the lead's broadcast arms the snapshot on another module. -/
def execSnapshotArmReceive (p : Nat) (t : Word) (seq : Nat) (s : State) : Host.Outcome State Fault Refusal :=
  if s.formed p ∧ s.isLead p = false then .next (s.armSnap p t.toNat seq) else .next s

/-- The counters that a site's shadows copy: offsets 0x100 to 0x198 (R110). -/
def shadowSources : List (Rg × List Nat) :=
  [(.siteFirings, []), (.siteStall, [0]), (.siteStall, [1]), (.siteStall, [2]), (.siteStall, [3]), (.siteStall, [4]),
    (.siteStall, [5]), (.siteStall, [6]), (.siteStall, [7]), (.siteMatchHwm, []), (.siteQgrow, []), (.siteSpills, []),
    (.siteBankConflict, []), (.siteOrphans, []), (.siteSuXfer, [0]), (.siteSuXfer, [1]), (.siteSuXfer, [2]),
    (.siteSuXfer, [3]), (.siteSuXfer, [4]), (.siteSuStall, [])]

-- Assumption log 25 (DEDUCED).
/-- A unit's site copies its counters into its shadows, with LATCH_TS and SEQ (R62). -/
def State.latchSite (s : State) (p site ts seq : Nat) : State :=
  let t := (shadowSources.zipIdx).foldl (fun w e => w.setv .siteShadow [site, e.2] (w.rv e.1.1 (site :: e.1.2))) s
  let t := (t.setv .siteShadowTs [site] (BitVec.ofNat 64 ts)).setf .siteShadowSeqSeq [site] seq
  let x := (t.part p).time
  t.setTime p { x with latched := site :: x.latched }

/-- The units of a partition on this module whose latch of the armed snapshot is still to come: those in a powered-off
domain latch nothing (R63). -/
def State.toLatch (s : State) (p : Nat) : List Nat :=
  (s.sitesOf p).filter (fun i => s.domainOn (domainOfSite i) && !(s.part p).time.latched.contains i)

/-- SNAP_STATUS becomes DONE with the new SEQ once every unit of the partition on this module has latched (R63). -/
def State.snapSettle (s : State) (p : Nat) : State :=
  match (s.part p).time.snap with
  | none => s
  | some (t, seq) =>
    if t ≤ s.pnow p ∧ (s.toLatch p).isEmpty then
      (((s.setTime p { (s.part p).time with snap := none, latched := [], latching := [] }).setf .timeSnapStatusSeq [p] seq).setf
        .timeSnapStatusPending [p] 0).snapState p 2
    else s

-- Assumption log 25 (DEDUCED).
/-- The units whose event boundary came at an earlier partition time latch an armed snapshot now, so that LATCH_TS lies above the stamp of
every event that they have counted and not above that of a later one; at T + 64 every other unit latches it (R62). -/
def State.snapTick (s : State) (p : Nat) : State :=
  match (s.part p).time.snap with
  | none => s
  | some (t, seq) =>
    let now := s.pnow p
    let due := if t + 64 ≤ now then s.toLatch p
      else (s.toLatch p).filter (fun i => (s.part p).time.latching.any (fun e => e.1 == i && decide (e.2 < now)))
    let u := due.foldl (fun v i => v.latchSite p i (min now (t + 64)) seq) s
    u.snapSettle p

-- Assumption log 25 (DEDUCED).
/-- SNAPSHOT_LATCH (R62, R63): an event boundary of a unit at or after T, where it latches the armed snapshot. Its LATCH_TS lies above the
stamp of every event of this instant too, so its counters are copied when the instant ends. An idle unit has no event boundary, and latches
at T + 64. -/
def execSnapshotLatch (site : Nat) (s : State) : Host.Outcome State Fault Refusal :=
  match s.ownerOf site with
  | none => .next s
  | some p =>
    match (s.part p).time.snap with
    | none => .next s
    | some (t, _) =>
      let x := (s.part p).time
      if s.pnow p < t ∨ s.fv .siteStateWork [site] ≠ 1 ∨ ¬ (s.toLatch p).contains site ∨ x.latching.any (fun e => e.1 == site) then .next s
      else .next (s.setTime p { x with latching := x.latching ++ [(site, s.pnow p)] })

end Sys2Proof.Machine
end

