-- ==== Sys2Proof/Machine/CxlPort.lean ====
section
/-! DEFINITION. The host port: link, tail lines, ledger fetch, host accesses to HBM, migration, IDE and DOE (R413 to
R442, R261, R584). -/

namespace Sys2Proof.Machine

open Sys2Proof

/-! ### Interrupts that waited -/

-- Assumption log 126 (DEDUCED).
/-- Sends the pending vectors that nothing holds any longer (R425, R426). -/
def State.flushMsix (s : State) : State :=
  if s.linkUp && s.host.msixOn then
    let go := s.host.msixPend.filter (fun v => !s.host.masked.contains v)
    let keep := s.host.msixPend.filter (fun v => s.host.masked.contains v)
    (s.setHost { s.host with msixPend := keep }).emits (go.map Out.msix)
  else s

-- Assumption log 126 (DEDUCED).
/-- Raises vector 34 once for each event that waited for L0 and whose bit is still 1 (R583). -/
def State.flushHbm (s : State) : State :=
  if s.linkUp then
    let go := s.host.hbmWait.filter (fun e => (tabGet valReset s.regs.val e.1).toNat.testBit e.2)
    go.foldl (fun u _ => u.msix 34) (s.setHost { s.host with hbmWait := [] })
  else s

/-- Sends vector 35 for the LINK_ERR bits that waited and are still 1 (R584). -/
def State.flushLinkErr (s : State) : State :=
  if s.linkUp && s.host.msixOn then
    let go := s.host.linkErrWait.filter (fun b => bitOf (s.rv .hostLinkErr []).toNat b)
    let t := s.setHost { s.host with linkErrWait := [] }
    go.foldl (fun u _ => u.msix 35) t
  else s

/-! ### Tail lines and fetch (R418 to R423, R261, R484) -/

/-- The ledger of a partition is enabled. -/
def State.enabled (s : State) (p : Nat) : Bool := s.formed p && s.fa .hostLedgerCtlEnable [p] == 1

/-- The partition whose tail line an address names. -/
def State.tailOwner (s : State) (addr : Nat) : Option Nat :=
  firstBelow 32 (fun p => s.enabled p && s.fa .hostTailAddrAddr [p] / 64 == addr / 64)

/-- The engine wakes for a partition, or holds one pending wake while a fetch is in progress (R420, R421). Only the lead
fetches (R484). -/
def State.wakeLedger (s : State) (p : Nat) : State :=
  let x := s.part p
  if s.isLead p then
    if x.fetchTo.isSome then s.setPart p { x with wake := true } else s.setPart p { x with awake := true }
  else s

/-- SNPINV (R420, R421): the snoop is answered at once, the copy of the tail line is dropped, and the engine wakes. -/
def execSnpinv (addr : Nat) (s : State) : Host.Outcome State Fault Refusal :=
  let t := s.emit (.snoopRsp (addr / 64 * 64) false)
  match s.tailOwner addr with
  | some p => .next ((t.setPart p { t.part p with tail := none }).wakeLedger p)
  | none => .next t

/-- The answer to a snoop that leaves a Shared copy in place. -/
def State.keepSnoop (s : State) (addr : Nat) : State :=
  let have_ := match s.tailOwner addr with
    | some p => (s.part p).tail.isSome
    | none => false
  s.emit (.snoopRsp (addr / 64 * 64) have_)

/-- SNPDATA (R420): answered at once; the Shared copy stays. -/
def execSnpdata (addr : Nat) (s : State) : Host.Outcome State Fault Refusal := .next (s.keepSnoop addr)

/-- SNPCUR (R420): answered at once; the Shared copy stays. -/
def execSnpcur (addr : Nat) (s : State) : Host.Outcome State Fault Refusal := .next (s.keepSnoop addr)

/-- NEXT of a ledger. -/
def State.ledgerNext (s : State) (p : Nat) : Nat := s.fv .serveLedgerStateNext [p]

/-- TAIL_LINE_READ (R418, R420): the awake engine's RdShared returns TAIL with the line, and a fetch of the entries from
NEXT to TAIL - 1 begins where there are any. -/
def execTailLineRead (p tail : Nat) (s : State) : Host.Outcome State Fault Refusal :=
  let x := s.part p
  if s.enabled p && s.isLead p && s.linkUp && x.awake then
    let n := tail % 4096
    let t := s.emit (.hostRead (s.fa .hostTailAddrAddr [p]) 64 true)
    .next (t.setPart p { x with tail := some n, awake := false,
                                fetchTo := if n = s.ledgerNext p then none else some n })
  else .next s

/-- LEDGER_ENTRY_FETCH (R261, R271, R423, R484): at the lead the entry at NEXT is read once and checked; two read errors give it
ENTRY_INVALID, reason 1. The last entry of the fetch ends it, and a pending wake is then served. -/
def execLedgerEntryFetch (p : Nat) (raw : Option (BitVec 2048)) (s : State) : Host.Outcome State Fault Refusal :=
  let x := s.part p
  match x.fetchTo with
  | none => .next s
  | some to_ =>
    if s.enabled p && s.linkUp && s.isLead p then
      let n := s.ledgerNext p
      let lap := s.fv .serveLedgerStateLap [p]
      let rd := Out.hostRead (s.fa .hostLedgerBaseAddr [p] + 256 * n) 256 false
      let e : Entry := match raw with
        | none => ⟨n, 0, Status.entryInvalid, invalidDetail 0xFFFF 1⟩
        | some w =>
          let e : Entry := ⟨n, w, 0, 0⟩
          match fetchCheck e lap with
          | some r => { e with status := Status.entryInvalid, detail := invalidDetail 0xFFFF r }
          | none => e
      let t := match raw with
        | none => (s.emits [rd, rd]).linkErr .hostLinkErrReadFail
        | some _ => s.emit rd
      let n' := (n + 1) % 4096
      let t := t.setf .serveLedgerStateNext [p] n'
      let t := if n' = 0 then t.setf .serveLedgerStateLap [p] (1 - lap) else t
      let done := decide (n' = to_)
      let y := t.part p
      .next (t.setPart p { y with fetched := y.fetched ++ [e], fetchTo := if done then none else some to_,
                                  awake := y.awake || (done && y.wake), wake := y.wake && !done })
    else .next s

-- Assumption log 132 (DEDUCED).
/-- ENABLE of a ledger goes from 0 to 1 (R422): the lap begins, and the tail line will be read. -/
def State.ledgerOn (s : State) (p : Nat) : State :=
  let t := (s.setf .serveLedgerStateNext [p] 0).setf .serveLedgerStateLap [p] 1
  t.setPart p { t.part p with tail := none, awake := t.isLead p, wake := false, fetchTo := none }

-- Assumption log 132 (DEDUCED).
/-- ENABLE of a ledger goes to 0 (R422, R438): fetching stops and the line is dropped. -/
def State.ledgerOff (s : State) (p : Nat) : State :=
  s.setPart p { s.part p with tail := none, awake := false, wake := false, fetchTo := none }

/-! ### The link (R413, R437, R438, R440) -/

-- Assumption log 128 (DEDUCED).
/-- The link leaves L0 (R437). -/
def State.linkDown (s : State) : State := (s.setf .hostLinkStatusUp [] 0).linkErr .hostLinkErrDown

/-- Writes the completions held, in ledger order of each partition (R437). -/
def State.writeCompletions (s : State) : State :=
  let l := s.host.held
  l.foldl (fun t (h : Nat × List (Nat × List Byte) × Bool) =>
    let u := t.emits (h.2.1.flatMap (fun (w : Nat × List Byte) => hostWrites w.1 w.2))
    if h.2.2 then u.msix h.1 else u) (s.setHost { s.host with held := [] })

-- Assumption log 129 (DEDUCED).
/-- The link has come to L0: what waited for it is raised, held completions are written, then every enabled tail line is read
again (R437, R583, R584). -/
def State.inL0 (s : State) : State :=
  let t := s.flushMsix.flushHbm.writeCompletions.flushLinkErr
  (List.range 32).foldl (fun u p => if u.enabled p then (u.setPart p { u.part p with tail := none }).wakeLedger p else u) t

/-- A link reset destroys the IDE keys, and no stream is active (R440, R527). -/
def State.endIde (s : State) : State :=
  ((s.setHost { s.host with ideKeys := [] }).setf .hostLinkStatusIdeIo [] 0).setf .hostLinkStatusIdeCm [] 0

/-- Class code of the device: processing accelerator (R415). -/
def classCode : BitVec 24 := 0x120000

-- Assumption log 125 (PRESUMED).
/-- A word of BAR2 (R415): the MSI-X table of 64 entries from 0x0000 on, each its address, then its data with the mask bit above it, and the
pending bits at 0x1000. -/
def State.bar2 (s : State) (off : Nat) : Word :=
  if off = 0x1000 then s.host.msixPend.foldl (fun w v => w ||| BitVec.ofNat 64 (2 ^ v)) 0
  else if off < 0x400 then
    let e := s.host.msixTable.getD (off / 16) (0, 0)
    if off % 16 < 8 then e.1
    else BitVec.ofNat 64 (e.2.toNat + bit01 (s.host.masked.contains (off / 16)) * 2 ^ 32)
  else 0

-- Assumption log 125 (PRESUMED), 129 (DEDUCED).
/-- HOST_LINK_TRAINED (R413): the link trains at its width and rate, or stays down with NARROW; the host enumerates the
device and programs the MSI-X table. Training anew ends the IDE keys of the link (R527). `speed` is 5 for 32 GT/s and 6 for 64 GT/s. -/
def execHostLinkTrained (width speed : Nat) (flit256 lopt : Bool) (cfg : HostConfig) (s : State) :
    Host.Outcome State Fault Refusal :=
  if width < 8 ∨ speed < 5 ∨ flit256 = false then .next (s.linkErr .hostLinkErrNarrow)
  else
    let t := s.setf .hostLinkStatusWidth [] (if width < 16 then 8 else 16)
    let t := t.setf .hostLinkStatusSpeed [] (min speed 6)
    let t := ((t.setf .hostLinkStatusLopt [] (bit01 lopt)).setf .hostLinkStatusUp [] 1).endIde
    .next (t.setHost { t.host with
      hdmBase := cfg.base, msixOn := cfg.msixOn, masked := cfg.masked, msixTable := cfg.table }).inL0

/-- LINK_LEAVES_L0 (R437): fetches and completion writes are held from here on. -/
def execLinkLeavesL0 (s : State) : Host.Outcome State Fault Refusal := .next (if s.linkUp then s.linkDown else s)

-- Assumption log 129 (DEDUCED).
/-- LINK_RETURNS_L0 (R437): the link that the host has trained carries traffic again. -/
def execLinkReturnsL0 (s : State) : Host.Outcome State Fault Refusal :=
  if s.linkUp ∨ s.fv .hostLinkStatusWidth [] = 0 then .next s
  else .next (s.setf .hostLinkStatusUp [] 1).inL0

-- Assumption log 127 (DEDUCED).
/-- Clears ENABLE of a ledger in every copy (R438). -/
def State.clearEnable (s : State) (p : Nat) : State :=
  let a := Rg.hostLedgerCtl.at [p]
  s.setRegs { s.regs with
    act := tabSet rwsReset s.regs.act a (Fld.hostLedgerCtlEnable.put (s.ra .hostLedgerCtl [p]) 0)
    stg := tabSet rwsReset s.regs.stg a (Fld.hostLedgerCtlEnable.put (s.rs .hostLedgerCtl [p]) 0)
    pnd := tabSet rwsReset s.regs.pnd a (Fld.hostLedgerCtlEnable.put (s.rp .hostLedgerCtl [p]) 0) }

-- Assumption log 127 (DEDUCED).
/-- HOST_PORT_RESET (R438): hot reset, function-level reset, CXL reset or HOST_PERST_N. It ends the IDE keys (R527). -/
def execHostPortReset (s : State) : Host.Outcome State Fault Refusal :=
  let t := (List.range 32).foldl (fun u p => (u.clearEnable p).ledgerOff p) s
  let t := t.bump .hostComplDropped [] t.host.held.length
  let t := (t.setHost { t.host with held := [], filter := [], msixOn := false }).endIde
  .next ((t.setf .hostSfUseEntries [] 0).linkErr .hostLinkErrResetSeen)

-- Assumption log 128 (DEDUCED).
/-- IDE_FAILURE (R440): the failed stream, CXL.io (0) or CXL.cachemem (1), is no longer active, and the link is handled as
in R437. -/
def execIdeFailure (stream : Nat) (s : State) : Host.Outcome State Fault Refusal :=
  let t := (s.linkErr .hostLinkErrIdeFail).bbWrite none 0x51 7 (payloadOf [(0, 1, stream % 2)])
  let t := if stream % 2 = 0 then t.setf .hostLinkStatusIdeIo [] 0 else t.setf .hostLinkStatusIdeCm [] 0
  .next (if t.linkUp then t.linkDown else t)

/-- IDE_KM (R440): keys of a stream arrive over a secured session that was opened on the DOE mailbox; with `go` the stream becomes
active. -/
def execIdeKm (session stream : Nat) (key : List Byte) (go : Bool) (s : State) : Host.Outcome State Fault Refusal :=
  if s.mgmt.sessions.any (fun e => e.1 == session && e.2.2 == 2) then
    let k := stream % 2
    let t := s.setHost { s.host with ideKeys := s.host.ideKeys.filter (fun e => e.1 != k) ++ [(k, key)] }
    let t := if go then (if k = 0 then t.setf .hostLinkStatusIdeIo [] 1 else t.setf .hostLinkStatusIdeCm [] 1) else t
    .next (t.emit (.spdm 2 0x7E (leBytes 1 k)))
  else .next s

/-- The protocols of the DOE mailbox: vendor and type (R441). -/
def doeProtocols : List (Nat × Nat) := [(0x0001, 0), (0x0001, 1), (0x0001, 2), (0x1E98, 2)]

/-- DOE_DISCOVERY (R441): the protocol at an index and the next index, 0 after the last. -/
def execDoeDiscovery (index : Nat) (s : State) : Host.Outcome State Fault Refusal :=
  if s.linkUp then
    let e := doeProtocols.getD index (0xFFFF, 0xFF)
    let next := if index + 1 < doeProtocols.length then index + 1 else 0
    .next (s.emit (.doe (leBytes 2 e.1 ++ leBytes 1 e.2 ++ leBytes 1 next)))
  else .next s

/-- Bandwidth of the link in GB/s per direction (R413). -/
def State.linkRate (s : State) : Nat :=
  s.fv .hostLinkStatusWidth [] * (if s.fv .hostLinkStatusSpeed [] = 6 then 8 else 4)

/-- A DSLBIS structure of the CDAT: data type, base unit and first entry. -/
def dslbis (typ base n : Nat) : List Byte :=
  leBytes 1 1 ++ leBytes 1 0 ++ leBytes 2 24 ++ leBytes 1 0 ++ leBytes 1 0 ++ leBytes 1 typ ++ leBytes 1 0 ++
    leBytes 8 base ++ leBytes 2 n ++ leBytes 2 0 ++ leBytes 2 0 ++ leBytes 2 0

/-- The CDAT (R441): one DSMAS for the 2^49 bytes of the decoder, read and write latency 1 us, bandwidth of the link. -/
def State.cdat (s : State) : List Byte :=
  let body := leBytes 1 0 ++ leBytes 1 0 ++ leBytes 2 24 ++ leBytes 1 0 ++ leBytes 1 0 ++ leBytes 2 0 ++ leBytes 8 0 ++
    leBytes 8 (2 ^ 49) ++ dslbis 1 1000000 1 ++ dslbis 2 1000000 1 ++ dslbis 3 1000 s.linkRate
  let head : Nat → List Byte := fun c => leBytes 4 (16 + body.length) ++ leBytes 1 1 ++ leBytes 1 c ++ List.replicate 6 0 ++
    leBytes 4 0
  let sum := ((head 0 ++ body).map (·.toNat)).foldl (· + ·) 0
  head ((256 - sum % 256) % 256) ++ body

/-- TABLE_ACCESS (R441): returns the CDAT. -/
def execTableAccess (s : State) : Host.Outcome State Fault Refusal :=
  if s.linkUp then .next (s.emit (.doe ([0, 0, 0xFF, 0xFF] ++ s.cdat))) else .next s

/-! ### Host accesses of the device memory (R416, R431, R432, R372) -/

/-- The window and partition address of a decoder offset, where an access reaches the partition (R416). -/
def State.hdmTarget (s : State) (off : Nat) : Option (Nat × Nat) :=
  let p := off / 2 ^ 44
  let a := off % 2 ^ 44 / 64 * 64
  if s.formed p && decide (a < 2 ^ 43) && (s.segmentOf p (a / 65536)).isSome then some (p, a) else none

/-- Keeps a line in the snoop filter; a full filter first recalls its oldest line (R431). -/
def State.filterAdd (s : State) (line : Nat) : State :=
  if s.host.filter.contains line then s
  else
    let t := if s.host.filter.length < 262144 then s
      else match s.host.filter with
        | l :: _ => s.recall (fun k => k == l)
        | [] => s
    let f := t.host.filter ++ [line]
    (t.setHost { t.host with filter := f }).setf .hostSfUseEntries [] f.length

/-- A step of the partition is admitted or fires; a CONTROL entry is none (R263). -/
def State.stepRuns (s : State) (p : Nat) : Bool :=
  (s.part p).firing.isSome || (s.part p).admitted.any (fun x => !x.entry.isControl)

/-- The die of a partition address that lies in HBM. -/
def State.hubDie (s : State) (p a : Nat) : Option Nat :=
  match s.place p a with
  | .hbm m => some (m / 2 ^ 39 % 8)
  | _ => none

/-- A request of the host can be served now: its page-tile lies in HBM and the die's link is up (R29, R429). -/
def State.hubReady (s : State) (r : HubReq) : Bool :=
  match s.hubDie r.part r.addr with
  | some d => s.dieUp d
  | none => false

/-- Writes a line for the host. A line that the host itself holds is not recalled from it (R431). -/
def State.hostStore (s : State) (p a : Nat) (bs : List Byte) : State :=
  let f := s.host.filter
  let t := s.setHost { s.host with filter := f.filter (fun l => l != hdmLine p a) }
  let u := (t.writePart p 0x1FFF a ((bs ++ List.replicate 64 0).take 64)).1
  u.setHost { u.host with filter := f }

/-- Serves a request of the host. -/
def State.hubServe (s : State) (r : HubReq) : State :=
  if r.data.isEmpty then
    let q := s.readPart r.part 0x1FFF 5 1 r.addr
    let bad := q.2.ue.isSome
    let t := q.1.emit (.memData (if bad then List.replicate 64 0 else q.2.data) bad)
    if r.cache then
      let line := hdmLine r.part r.addr
      if t.stepRuns r.part then (t.filterAdd line).recall (fun l => l == line) else t.filterAdd line
    else t
  else
    (s.hostStore r.part r.addr r.data).emit .memDone

/-- Serves or holds a request. -/
def State.hubAccess (s : State) (r : HubReq) : State :=
  if s.hubReady r && !s.hubWait.any (fun q => q.part == r.part && q.addr == r.addr) then s.hubServe r
  else { s with hubWait := s.hubWait ++ [r] }

/-- Serves the requests that wait no longer, in order. -/
def State.hubPump (s : State) : State :=
  let l := s.hubWait
  l.foldl (fun t r => if t.hubReady r then t.hubServe r else { t with hubWait := t.hubWait ++ [r] }) { s with hubWait := [] }

/-- What waited at the hub goes on: the host's requests, those of other modules, and the module's own messages (R29, R429). -/
def State.hubResume (s : State) : State := s.hubPump.pumpMsgs.flushHub

/-- A host access that reaches no partition counts in HDM_MISS (R416). -/
def State.hdmMiss (s : State) : State := s.bump .hostHdmMiss [] 1

-- Assumption log 14 (DESIGN CHOICE).
/-- HOST_MEM_READ (R416): a CXL.mem read of the line at a decoder offset, cacheable or not; without effect it returns
zeros. -/
def execHostMemRead (off : Nat) (cacheable : Bool) (s : State) : Host.Outcome State Fault Refusal :=
  match s.hdmTarget off with
  | some (p, a) => .next (s.hubAccess ⟨p, a, [], cacheable⟩)
  | none => .next (s.hdmMiss.emit (.memData (List.replicate 64 0) false))

-- Assumption log 14 (DESIGN CHOICE).
/-- HOST_MEM_WRITE (R416, R414): a CXL.mem write of a line; poison is not kept. -/
def execHostMemWrite (off : Nat) (data : Line) (s : State) : Host.Outcome State Fault Refusal :=
  match s.hdmTarget off with
  | some (p, a) => .next (s.hubAccess ⟨p, a, leBytes 64 data.toNat, false⟩)
  | none => .next (s.hdmMiss.emit .memDone)

/-! ### Migration (R427 to R430, R436) -/

-- Assumption log 131 (DEDUCED).
/-- The backing slot of a page-tile of a movable segment (R428). -/
def State.backSlot (s : State) (p n tile : Nat) : Nat :=
  (List.range n).foldl (fun k m => match s.segment p m with
    | some (pages, _, _, false, _) => k + pages
    | _ => k) 0 + (match s.segment p n with
    | some (_, base, _) => tile - base
    | none => 0)

-- Assumption log 131 (DEDUCED).
/-- How long ago a page-tile was last touched, in periods of 2^24 ticks modulo 2^16 (R429). -/
def State.staleness (s : State) (p tile : Nat) : Nat :=
  (s.pnow p / 2 ^ 24 + 2 ^ 16 - tabGet (fun _ => 0) (s.part p).ages tile % 2 ^ 16) % 2 ^ 16

/-- The page-tiles of a segment that lie in HBM, ascending. -/
def State.heldTiles (s : State) (p n : Nat) : List (Nat × Nat) :=
  ((s.part p).map.filterMap (fun (e : Nat × Option Nat) => e.2.map (fun m => (e.1, m)))).filter
    (fun e => s.segmentOf p e.1 == some n)

/-- A range of bytes of partition address touches a page-tile. -/
def touches (tile a n : Nat) : Bool := decide (a / 65536 ≤ tile) && decide (tile ≤ (a + n - 1) / 65536)

/-- An access of a page-tile is in flight: a read or a posted write of an engine, a write of an append unit, or an access of the host or of
another module that waits (R429). -/
def State.inFlight (s : State) (p tile : Nat) : Bool :=
  (s.sitesOf p).any (fun i => isMu i &&
    ((List.range 4).any (fun e => match s.hatch i e with
      | none => false
      | some h =>
        let x := s.engine i e
        (h.d.mode == 0 && h.d.space == 1 && x.reads.any (fun r => r.data.isNone && touches tile r.addr r.len)) ||
          x.posted.any (fun w => w.kind == 0 && touches tile w.addr (64 * w.data.length))) ||
      (s.site i).mu.appends.any (fun w => touches tile w.addr w.data.length))) ||
  s.hubWait.any (fun r => r.part == p && touches tile r.addr 64) ||
  s.hubMsgs.any (fun e => (s.partOfTag e.2.hdr.ptag == some p) &&
    touches tile (leAt e.2.body 0 8 % 2 ^ 44) (if e.2.typ = 0x10 then leAt e.2.body 8 2 else e.2.body.length - 8))

-- Assumption log 131 (DEDUCED).
/-- The page-tile to evict: the oldest one without an access in flight, the lower address on a tie. -/
def State.oldestTile (s : State) (p n : Nat) : Option (Nat × Nat) :=
  ((s.heldTiles p n).filter (fun e => !s.inFlight p e.1)).foldl (fun b e => match b with
    | none => some e
    | some c => if s.staleness p c.1 < s.staleness p e.1 then some e else b) none

/-- The bytes of a page-tile as a read delivers them, codeword by codeword (R369, R371). -/
def Hbm.pageBytes (h : Hbm) (page : Nat) : List Byte :=
  (List.range 1024).flatMap (fun i => h.word (page * 65536 + 64 * i))

-- Assumption log 130 (DEDUCED), 185 (DESIGN CHOICE).
/-- Evicts the oldest page-tile of a movable segment to its backing slot; its HBM page becomes DIRTY and will return to the
reservation (R429). The read of the page counts corrections and reports uncorrectable codewords, which leave as zeros (R369, R371). -/
def State.evictTile (s : State) (p n : Nat) : State :=
  match s.oldestTile p n with
  | none => s
  | some (tile, page) =>
    let t := s.recall (fun l => l / 1024 == hdmLine p (tile * 65536) / 1024)
    let t := ((t.activateAll (pageTiles page)).checkWords (some p) 2 ((List.range 1024).map (fun i => page * 65536 + 64 * i))).1
    let off := 65536 * t.backSlot p n tile
    let t := t.emits (t.cipherWrites p (t.fa .hostBackBaseAddr [p]) off 4096 (2 ^ 127) 16 (t.hbm.pageBytes page))
    let t := t.setPart p { t.part p with map := tabSet (fun _ => none) (t.part p).map tile none }
    let t := t.setHbm { t.hbm with returns := tabSet (fun _ => none) t.hbm.returns page (some (8 * p + n)) }
    ((t.setTag page (2 ^ 14)).bump .hostMigOut [p] 1).setf .hostMovableOutTiles [p] (t.fv .hostMovableOutTiles [p] + 1)

-- Assumption log 130 (DEDUCED).
/-- BRING_IN (R429): a movable page-tile that is out takes a page of the segment's reservation and is filled from its
backing slot, whose bytes the command brings; without a page the oldest page-tile of the segment is evicted first, and the
bring-in follows once a page has returned. It waits for the host link (R437), the link of the segment's die (R18, R29) and the transfers
that the swap path was asked for before it (R434). -/
def execBringIn (p tile : Nat) (blob : List Byte) (s : State) : Host.Outcome State Fault Refusal :=
  match s.segmentOf p tile with
  | none => .next s
  | some n =>
    match s.segment p n, tabGet (fun _ => none) (s.part p).map tile with
    | some (_, _, die, false, _), none =>
      let s := s.swapAsk (p, 2 ^ 33 + tile)
      if s.linkUp = false ∨ s.dieUp die = false ∨ s.swapTurn (p, 2 ^ 33 + tile) = false then .next s
      else match tabGet (fun _ => []) (s.part p).reserve n with
        | page :: rest =>
          let off := 65536 * s.backSlot p n tile
          let base := s.fa .hostBackBaseAddr [p]
          let data := plain (s.swapKey p) (off + 2 ^ 127) 4096 16 ((blob ++ List.replicate 65536 0).take 65536)
          let t := s.emit (.hostRead (base + off) 65536 false)
          let x := t.part p
          let t := t.setPart p { x with map := tabSet (fun _ => none) x.map tile (some page)
                                        reserve := tabSet (fun _ => []) x.reserve n rest }
          let t := (t.writePart p 0x1FFF (tile * 65536) data).1
          let t := (t.bump .hostMigIn [p] 1).setf .hostMovableOutTiles [p] (t.fv .hostMovableOutTiles [p] - 1)
          .next t.hubResume
        | [] => .next (s.evictTile p n)
    | _, _ => .next s

-- Assumption log 152 (DEDUCED).
/-- D2D_LINK_TRAINING (R29): each module of the UCIe link that lane repair can bring up carries traffic; with one of
them the link runs DEGRADED. Where neither trains, the link stays down. Hub traffic that waited for a link that has come up goes on. -/
def execD2dLinkTraining (die : Nat) (mod0 mod1 : Bool) (repaired : Nat) (s : State) :
    Host.Outcome State Fault Refusal :=
  if die < 8 ∧ s.domainOn (16 + die) then
    let t := s.setf .hubD2dUp [die] (bit01 (mod0 || mod1))
    let t := t.setf .hubD2dDegraded [die] (bit01 (mod0 != mod1))
    .next (t.setf .hubD2dRepaired [die] repaired).hubResume
  else .next s

-- Assumption log 167 (DESIGN CHOICE).
/-- D2D_RETRAIN_DONE (R29): a retraining attempt of a link that is down ends and is counted; where it succeeds the waiting
hub traffic goes on. -/
def execD2dRetrainDone (die : Nat) (mod0 mod1 : Bool) (repaired : Nat) (s : State) :
    Host.Outcome State Fault Refusal :=
  if die < 8 ∧ s.fv .hubD2dUp [die] = 0 ∧ s.domainOn (16 + die) then
    let t := s.bump .hubD2dRetrains [die] 1
    let t := t.setf .hubD2dUp [die] (bit01 (mod0 || mod1))
    let t := t.setf .hubD2dDegraded [die] (bit01 (mod0 != mod1))
    .next (t.setf .hubD2dRepaired [die] repaired).hubResume
  else .next s

end Sys2Proof.Machine
end

