-- ==== Sys2Proof/Machine/Partition.lean ====
section
/-! DEFINITION. Fault combining, epochs and silent partners (R493 to R502). -/

namespace Sys2Proof.Machine

open Sys2Proof

-- Assumption log 196 (DEDUCED).
/-- A request to a member is outstanding: of memory, a bank or an atomic, a DISPATCH whose END has not come, a time exchange, or a
confirmation (R496, R500). -/
def State.awaits (s : State) (p m : Nat) : Bool :=
  let x := s.part p
  x.reqs.any (fun r => r.dst = m) || (x.time.t1.isSome && s.fv .partStatusParent [p] == m) ||
    x.faults.any (fun e => e.key.suspect = m && e.confirm.isNone && decide (0 < e.tries))

-- Assumption log 196 (DEDUCED).
/-- PARTNER_SILENT (R496): a member with an outstanding request to it has been silent for 2^21 ticks: the share aborts
with LINK_LOST naming it, SILENT_PARTNERS counts, and a report of class LINK goes out. -/
def execPartnerSilent (p m : Nat) (s : State) : Host.Outcome State Fault Refusal :=
  if s.formed p ∧ s.isMember p m ∧ m ≠ s.coord p ∧ s.awaits p m then
    let t := (s.abortSteps p Status.linkLost (BitVec.ofNat 64 m) true).bump .partSilentPartners [p] 1
    .next (t.faultIn p ⟨m, whereModule, 1⟩ 1 (s.pnow p))
  else .next s

/-- FAULT (R497, R499): a received report of a child. -/
def execFault (port : Nat) (h : Hdr) (body : List Byte) (s : State) : Host.Outcome State Fault Refusal :=
  .next (s.receive port 0x05 h body (fun t p =>
    t.faultIn p ⟨leAt body 0 2 % 4096, leAt body 2 2, leAt body 4 1⟩ (leAt body 16 4) (leAt body 8 8)))

/-- FAULT_WINDOW_CLOSE (R497): forwards one summary if counts were added, and frees the entry. -/
def execFaultWindowClose (p slot : Nat) (s : State) : Host.Outcome State Fault Refusal :=
  let x := s.part p
  match s.isLead p, x.faults[slot]? with
  | false, some e =>
    let t := s.setPart p { x with faults := x.faults.eraseIdx slot }
    .next (if e.added = 0 then t else t.forwardFault p e.key e.added e.ts)
  | _, _ => .next s

/-- LEAD_FAULT_WINDOW_CLOSE (R499): the merge window of the lead's entry ends. -/
def execLeadFaultWindowClose (p slot : Nat) (s : State) : Host.Outcome State Fault Refusal :=
  let x := s.part p
  match s.isLead p, x.faults[slot]? with
  | true, some e =>
    .next ((s.setPart p { x with faults := putFault x.faults { e with windowDone := true } }).tryEmit p e.key)
  | _, _ => .next s

/-- EMITTED_ENTRY_EXPIRE (R499): the lead frees an emitted entry. -/
def execEmittedEntryExpire (p slot : Nat) (s : State) : Host.Outcome State Fault Refusal :=
  let x := s.part p
  match x.faults[slot]? with
  | some e => .next (if e.emitted then s.setPart p { x with faults := x.faults.eraseIdx slot } else s)
  | none => .next s

/-- CONFIRMATION_TIMEOUT (R500): the lead asks again, up to three times, and then ends confirmation as SILENT. -/
def execConfirmationTimeout (p slot : Nat) (s : State) : Host.Outcome State Fault Refusal :=
  let x := s.part p
  match s.isLead p, x.faults[slot]? with
  | true, some e =>
    if e.confirm.isSome then .next s
    else if e.tries < 3 then
      .next ((s.setPart p { x with faults := putFault x.faults { e with tries := e.tries + 1 } }).confirmReq p
        e.key.suspect)
    else
      .next ((s.setPart p { x with faults := putFault x.faults { e with confirm := some 2 } }).tryEmit p e.key)
  | _, _ => .next s

/-- FAULT_ACK (R502): removes the oldest record of the FAULT_REC queue. -/
def execFaultAck (p : Nat) (s : State) : Host.Outcome State Fault Refusal :=
  if p < 32 then .next (s.setPart p { s.part p with faultQ := (s.part p).faultQ.drop 1 }) else .next s

/-- An EPOCH_SET value is accepted (R493): the partition is formed, the epoch rises and the lead is a member. -/
def State.epochAccepted (s : State) (p : Nat) (w : Word) : Bool :=
  s.formed p && decide (s.epoch p < getBits w 63 32) && s.isMember p (getBits w 11 0)

-- Assumption log 22 (DEDUCED), 197 (DESIGN CHOICE).
/-- The accepted write: steps end with EPOCH, EPOCH and LEAD change in every copy, the tree is computed again. What a member holds of
the old lead's entries goes with them, and a module that is not the lead stops fetching (R484, R493, R494). A module that becomes the
lead drops its slew and its open exchange (R58); the manual leaves open whether it keeps PSYNC.HOLDOVER, its count of failed exchanges and
OFFSET_ERR, and the model keeps them. -/
def State.setEpoch (s : State) (p : Nat) (w : Word) : State :=
  let e := getBits w 63 32
  let t := s.abortSteps p Status.epoch (BitVec.ofNat 64 e) false
  let t := t.setf .partEpochEpoch [p] e
  let put := fun (x : Word) => Fld.partIdLead.put x (getBits w 11 0)
  let a := t.ra .partId [p]
  let g := t.rs .partId [p]
  let n := t.rp .partId [p]
  let ad := Rg.partId.at [p]
  let t := t.setRegs { t.regs with
    act := tabSet rwsReset t.regs.act ad (put a)
    stg := tabSet rwsReset t.regs.stg ad (put g)
    pnd := tabSet rwsReset t.regs.pnd ad (put n) }
  let own := getBits w 11 0 = t.coord p
  let t := if own then t.setTime p { (t.part p).time with slew := 0, t1 := none } else t
  let x := t.part p
  let keep := own && s.isLead p
  let t := t.setPart p { x with
    early := []
    fetched := if keep then x.fetched else []
    fetchTo := if own then x.fetchTo else none
    awake := own && x.awake
    wake := own && x.wake
    tail := if own then x.tail else none }
  (t.setTree p).partRecord p 3

/-- EPOCH_SET (R493, R13): sets the new epoch and lead, or is refused. -/
def execEpochSet (p : Nat) (w : Word) (s : State) : Host.Outcome State Fault Refusal :=
  if 32 ≤ p then .next s
  else if s.epochAccepted p w then .next (s.setEpoch p w)
  else .next (s.setf .partStatusEpochRefused [p] 1)

end Sys2Proof.Machine
end

