-- ==== Sys2Proof/Machine/Optics.lean ====
section
/-! DEFINITION. Optical engines and ports: lasers, training, wavelengths, flits, replay, lane audit, forwarding
(R444 to R480). -/

namespace Sys2Proof.Machine

open Sys2Proof

/-! ### Wavelengths (R445) -/

/-- The wavelength of a lane in LANE_MAP. -/
def laneWave (w : Word) (l : Nat) : Nat := getBits w (4 * l + 3) (4 * l)

/-- The lane that a wavelength carries. -/
def waveLane (w : Word) (v : Nat) : Option Nat := (List.range 8).find? (fun l => laneWave w l = v)

/-- Puts a lane on a wavelength. -/
def setLane (w : Word) (l v : Nat) : Word := putBits w (4 * l + 3) (4 * l) v

/-- Marks a wavelength failed. -/
def failWave (w : Word) (v : Nat) : Word := w ||| (1 <<< (36 + v))

/-! ### Port states (R467, R468) -/

/-- The partner named by a partition's traffic in the lost flits, or by its route table. -/
def State.portPartner (s : State) (p q : Nat) (kept : List KeptFlit) : Option Nat :=
  match kept.find? (fun f => f.ptag = s.ptag p) with
  | some f => some f.dst
  | none => firstBelow 4096 (fun m => s.route p m == some q)

/-- Loses a port: kept and waiting messages go, and the steps that used it abort with LINK_LOST (R468). -/
def State.losePort (s : State) (q : Nat) : State :=
  let x := s.port q
  let t := s.setPort q { x with kept := [], waiting := [] }
  (List.range 32).foldl (fun u p =>
    if s.formed p then
      match s.portPartner p q x.kept with
      | some m => u.linkLost p m q
      | none => u
    else u) t

/-- Enters a port state: LANES follows, an audit in progress is abandoned, RETRAINS counts an entry into TRAIN from
UP or HALF, and an entry into DOWN sets WENT_DOWN, the alert and the black-box record of class LINK. -/
def State.enterPort (s : State) (q st : Nat) : State :=
  let was := s.portState q
  let t := s.setf .opticPortStateState (portIx q) st
  let t := t.setf .opticPortStateLanes (portIx q) (if st = 3 then 8 else if st = 4 then 4 else 0)
  let x := t.port q
  let t := t.setPort q { x with audit := none, auditRx := none, cwLeft := 0, cwBad := false, linkId := x.linkId && st != 2 }
  let t := if st = 2 ∧ (was = 3 ∨ was = 4) then t.bump .opticRetrains (portIx q) 1 else t
  if st = 6 then
    ((t.setf .opticPortStateWentDown (portIx q) 1).alert .hubAlertLink).bbWrite none 0x50 1
      (payloadOf [(0, 1, q), (1, 1, 4)])
  else t

/-- A message of the module on a port, outside any partition: LINK_ID and AUDIT. -/
def State.sendLink (s : State) (q typ : Nat) (body : List Byte) : State :=
  s.sendOn q ⟨typ, ⟨0, false, 0, 0, 0, 0, 0⟩, body⟩

/-- The body of LINK_ID (R462): identity digest, port number, its delays. -/
def linkIdBody (q : Nat) : List Byte :=
  let d := Config.portDelay q
  (Config.identity ++ List.replicate 16 0).take 16 ++ leBytes 2 q ++ leBytes 2 (getBits d 31 16) ++
    leBytes 2 (getBits d 15 0)

/-- A port whose ENABLE is 0 goes DARK once it is empty: no flit waits, or it carries none; its kept flits are lost (R467). -/
def State.goDark (s : State) (q : Nat) : State :=
  if s.fa .opticPortCtlEnable (portIx q) = 0 ∧ s.portState q ≠ 0 ∧ (s.portUp q = false ∨ (s.port q).waiting = []) then
    (s.losePort q).enterPort q 0
  else s

/-- Enters TRAIN; the module sends its LINK_ID. A port that is to go DARK does so instead (R467). -/
def State.train (s : State) (q : Nat) : State :=
  (((s.enterPort q 2).emit (.msg q ⟨0x01, ⟨0, false, 0, 0, 0, 0, 0⟩, linkIdBody q⟩)).bump .opticMsgTx [q / 8] 1).goDark q

/-- Some laser input of the port's engine is within its power range. -/
def State.laserOk (s : State) (e : Nat) : Bool :=
  s.fv .opticEngStatusLaserAOk [e] == 1 || s.fv .opticEngStatusLaserBOk [e] == 1

/-- Applies a PORT_CTL commit to a port's state (R467): lighting, test, dark once the port is empty; audit may run again. A port that a park holds
dark lights when the park ends (R516). -/
def State.applyPortCtl (s : State) (q : Nat) : State :=
  let st := s.portState q
  let en := s.fa .opticPortCtlEnable (portIx q) = 1
  let test := s.fa .opticPortCtlTest (portIx q)
  let s := s.setPort q { s.port q with auditStop := false }
  if ¬en then s.goDark q
  else if st = 0 then
    (if s.powerState = 2 ∧ s.fa .powerBrakeCfgParkDark [] = 1 then s else s.enterPort q 1)
  else if test ≠ 0 ∧ (st = 3 ∨ st = 4 ∨ st = 6) then s.enterPort q 5
  else if test = 0 ∧ st = 5 then s.train q
  else s

/-- LASER_INPUT_LOST (R446): the input's OK bit clears, its LOST bit sets and a LINK record is written; with both
inputs lost every port of the engine goes DOWN and its kept flits are lost. -/
def execLaserInputLost (engine : Nat) (inputB : Bool) (s : State) : Host.Outcome State Fault Refusal :=
  if engine < 16 then
    let t := if inputB then (s.setf .opticEngStatusLaserBOk [engine] 0).setf .opticEngStatusLaserBLost [engine] 1
             else (s.setf .opticEngStatusLaserAOk [engine] 0).setf .opticEngStatusLaserALost [engine] 1
    let t := t.bbWrite none 0x50 1 (payloadOf [(0, 1, 8 * engine), (1, 1, if inputB then 2 else 1)])
    if t.laserOk engine then .next t
    else .next ((List.range 8).foldl (fun u i =>
      let q := 8 * engine + i
      if u.portState q = 6 then u else (u.losePort q).enterPort q 6) t)
  else .next s

/-- LASER_INPUT_RESTORED (R446). -/
def execLaserInputRestored (engine : Nat) (inputB : Bool) (s : State) : Host.Outcome State Fault Refusal :=
  if engine < 16 then
    .next (if inputB then s.setf .opticEngStatusLaserBOk [engine] 1 else s.setf .opticEngStatusLaserAOk [engine] 1)
  else .next s

/-- RINGS_LOCKED (R447, R467): LOCK to TRAIN. -/
def execRingsLocked (port : Nat) (s : State) : Host.Outcome State Fault Refusal :=
  if port < 128 ∧ s.portState port = 1 then .next (s.train port) else .next s

-- Assumption log 136 (DEDUCED).
/-- The lanes on the healthy wavelengths: lane l on its own wavelength, else on the spare (R445). -/
def mapLanes (healthy : Nat) : Word :=
  let bad := (List.range 8).filter (fun w => !healthy.testBit w)
  let base : Word := (List.range 8).foldl (fun w l => setLane w l l) 0
  let m := match bad with
    | [l] => if healthy.testBit 8 then putBits (setLane base l 8) 35 32 0xF else putBits base 35 32 0xF
    | [] => putBits base 35 32 (if healthy.testBit 8 then 8 else 0xF)
    | _ => putBits base 35 32 0xF
  putBits m 44 36 (2 ^ 9 - 1 - healthy % 2 ^ 9)

-- Assumption log 136 (DEDUCED).
/-- The lanes 0 to 3 of a half-rate port on the lowest healthy wavelengths. -/
def mapHalf (healthy : Nat) : Word :=
  let good := (List.range 9).filter (fun w => healthy.testBit w)
  let m : Word := (List.range 4).foldl (fun w l => setLane w l (good.getD l 0)) 0
  putBits (putBits m 35 32 0xF) 44 36 (2 ^ 9 - 1 - healthy % 2 ^ 9)

/-- Sends the kept flits again (R453). -/
def State.replay (s : State) (q : Nat) : State :=
  let x := s.port q
  let t := s.setPort q { x with kept := x.kept.map (fun f => { f with sends := f.sends + 1 }) }
  let t := t.emits (x.kept.map (fun (f : KeptFlit) => Out.flit q (x.dataFlit f)))
  t.bump .opticReplays (portIx q) x.kept.length

-- Assumption log 136 (DEDUCED).
/-- PORT_TRAINED (R467): eight lanes on healthy wavelengths bring the port UP once the partner's LINK_ID has come, and four to seven
bring it to HALF; replay continues and waiting messages leave. `healthy` has one bit for each wavelength. -/
def execPortTrained (port healthy : Nat) (s : State) : Host.Outcome State Fault Refusal :=
  let n := ((List.range 9).filter (fun w => healthy.testBit w)).length
  if port < 128 ∧ s.portState port = 2 ∧ 4 ≤ n ∧ (n < 8 ∨ (s.port port).linkId = true) then
    let full := decide (8 ≤ n)
    let m := if full then mapLanes healthy else mapHalf healthy
    let t := s.setv .opticLaneMap (portIx port) m
    let t := t.setf .opticPortStateSpareUsed (portIx port) (bit01 (full && decide (waveLane m 8 ≠ none)))
    .next (((t.enterPort port (if full then 3 else 4)).replay port).pump port)
  else .next s

/-- PORT_TRAIN_TIMEOUT (R467, R468): TRAIN to DOWN; kept flits are lost and steps abort with LINK_LOST. -/
def execPortTrainTimeout (port : Nat) (s : State) : Host.Outcome State Fault Refusal :=
  if port < 128 ∧ s.portState port = 2 then .next ((s.losePort port).enterPort port 6) else .next s

/-- PORT_DOWN_RETRY (R467): a DOWN port that is enabled attempts training. -/
def execPortDownRetry (port : Nat) (s : State) : Host.Outcome State Fault Refusal :=
  if port < 128 ∧ s.portState port = 6 ∧ s.laserOk (port / 8) ∧ s.fa .opticPortCtlEnable (portIx port) = 1 then .next (s.train port) else .next s

/-- A lane's wavelength fails (R445, R467): the free spare takes the lane, the lane under audit stays on the spare that carries it
beside the wavelength, and with neither the port retrains. -/
def State.laneFails (s : State) (port wave l : Nat) (audit : Option (Nat × Nat)) : State :=
  let m := s.rv .opticLaneMap (portIx port)
  let sp := if audit == some (wave, 2) then 8 else getBits m 35 32
  if s.portState port = 3 ∧ sp ≠ 0xF then
    (s.setv .opticLaneMap (portIx port) (putBits (setLane (failWave m wave) l sp) 35 32 0xF)).setf .opticPortStateSpareUsed (portIx port) 1
  else (s.setv .opticLaneMap (portIx port) (failWave m wave)).train port

/-- WAVELENGTH_FAIL (R445, R467): the free spare takes the lane and the port stays UP; without a spare the port
retrains. A failure of the wavelength or of the spare of an audit, or one that needs the spare, ends the audit (R472). -/
def execWavelengthFail (port wave : Nat) (s : State) : Host.Outcome State Fault Refusal :=
  if port < 128 ∧ wave < 9 ∧ (s.portState port = 3 ∨ s.portState port = 4) then
    let m := s.rv .opticLaneMap (portIx port)
    let sp := getBits m 35 32
    let a := (s.port port).audit
    let t := s.setPort port { s.port port with audit := none }
    if sp = wave then .next (t.setv .opticLaneMap (portIx port) (putBits (failWave m wave) 35 32 0xF))
    else match waveLane m wave with
      | none => .next (t.setv .opticLaneMap (portIx port) (failWave m wave))
      | some l => .next (t.laneFails port wave l a)
  else .next s

/-- LOSS_OF_SIGNAL (R467): UP or HALF to TRAIN. -/
def execLossOfSignal (port : Nat) (s : State) : Host.Outcome State Fault Refusal :=
  if port < 128 ∧ s.portUp port then .next (s.train port) else .next s

/-- REPLAY_TIMEOUT (R454): the transmitter retrains the port and keeps its replay buffer. -/
def execReplayTimeout (port : Nat) (s : State) : Host.Outcome State Fault Refusal :=
  if port < 128 ∧ s.portUp port ∧ (s.port port).kept ≠ [] then .next (s.train port) else .next s

/-- ACK_TIMER (R452): sends an acknowledgement, with the credits. -/
def execAckTimer (port : Nat) (s : State) : Host.Outcome State Fault Refusal :=
  if port < 128 ∧ s.portUp port then .next (s.sendIdle port) else .next s

/-! ### Flits (R448 to R453) -/

/-- The message bytes of a payload, given the bytes still to come of a message in progress, and what is left after
it: a header byte 0 of zero ends the flit (R451). -/
def flitFill : Nat → List Byte → Nat → Nat → Nat × Nat
  | 0, _, left, used => (used, left)
  | k + 1, bs, left, used =>
    if left ≥ bs.length then (used + bs.length, left - bs.length)
    else
      let r := bs.drop left
      if leAt r 0 1 = 0 then (used + left, 0)
      else flitFill k r (msgLen (leAt r 2 2)) (used + left)

-- Assumption log 198 (DEDUCED).
/-- The codewords of a flit: each codeword holds five half flits (R448). The answer is the port's place in its codewords after the
flit, the codeword that begins with it, and whether one that it touches has more than 15 symbol errors (R449). -/
def Port.codewords (x : Port) (cws : List Nat) : Port × List Nat × Bool :=
  if 2 ≤ x.cwLeft then ({ x with cwLeft := x.cwLeft - 2 }, [], x.cwBad)
  else
    let c := cws.headD 0
    ({ x with cwLeft := 3 + x.cwLeft, cwBad := decide (c > 15) }, [c], (x.cwLeft == 1 && x.cwBad) || decide (c > 15))

-- Assumption log 213 (DESIGN CHOICE).
/-- Counts codewords received, given their symbol errors (R449, R471). -/
def State.countFec (s : State) (q : Nat) (cws : List Nat) : State :=
  cws.foldl (fun t c =>
    let t := t.bump .opticFecCw (portIx q) 1
    if c > 15 then t.bump .opticFecUe (portIx q) 1
    else
      let t := t.bump .opticFecSym (portIx q) c
      if c ≥ 12 then t.bump .opticFecTail (portIx q) 1 else t) s

-- Assumption log 193 (DEDUCED).
/-- The sends of the kept flits count anew: the port retrains (R454). -/
def State.forgetSends (s : State) (q : Nat) : State :=
  let x := s.port q
  s.setPort q { x with kept := x.kept.map (fun f => { f with sends := 0 }) }

-- Assumption log 193 (DEDUCED).
/-- Takes ACK, NAK and CREDITS of an intact flit: acknowledged flits leave the replay buffer, credits return, and a
NAK replays, or retrains the port where a kept flit has been sent 8 times (R452 to R454, R456). -/
def State.takeAck (s : State) (q : Nat) (hdr : Nat) : State :=
  let x := s.port q
  let ack := bitsOf hdr 51 40
  let kept := match x.kept.findIdx? (fun f => f.seq = ack) with
    | some i => x.kept.drop (i + 1)
    | none => x.kept
  let tot := (List.range 4).map (fun v => bitsOf hdr (8 * v + 7) (8 * v))
  let cr := (List.range 4).map (fun v =>
    x.credits.getD v 0 + (tot.getD v 0 + 256 - x.partner.getD v 0) % 256)
  let t := s.setPort q { x with kept := kept, credits := cr, partner := tot }
  if !bitOf hdr 39 then (t.pump q).goDark q
  else if kept.any (fun f => decide (8 ≤ f.sends)) then (t.forgetSends q).train q
  else ((t.replay q).pump q).goDark q

-- Assumption log 198 (DEDUCED), 213 (DESIGN CHOICE).
/-- FLIT_RECEIVE (R449 to R453): `flit` is the 256 bytes and `cws` the symbol errors of the codeword that begins with it, where one
does. Every flit that an uncorrectable codeword touches fails. -/
def execFlitReceive (port : Nat) (flit : List Byte) (cws : List Nat) (s : State) : Host.Outcome State Fault Refusal :=
  if port < 128 ∧ s.portUp port then
    let cw := (s.port port).codewords cws
    let t := (s.setPort port cw.1).countFec port cw.2.1
    let hdr := leAt flit 0 8
    let crcBad := decide (crc32c (flit.take 252) ≠ leAt flit 252 4)
    let t := if crcBad then t.bump .opticCrcErr (portIx port) 1 else t
    let x := t.port port
    let nak := (t.setPort port { x with naking := true }).sendIdle port
    if cw.2.2 ∨ crcBad then
      (if bitOf hdr 38 ∨ x.naking then .next t else .next nak)
    else if bitOf hdr 38 then .next (t.takeAck port hdr)
    else if bitsOf hdr 63 52 = (x.rxSeq + 1) % 4096 then
      let vc := bitsOf hdr 37 36
      let f := flitFill 64 ((flit.drop 8).take 244) (x.rxLeft.getD vc 0) 0
      let rx := x.rx.getD vc []
      let y := { x with
        rxSeq := (x.rxSeq + 1) % 4096
        naking := false
        unacked := x.unacked + 1
        rx := if f.1 = 0 then x.rx else x.rx.set vc (rx ++ [f.1])
        freed := if f.1 = 0 then x.freed.set vc ((x.freed.getD vc 0 + 1) % 256) else x.freed
        rxLeft := x.rxLeft.set vc f.2 }
      let t := t.setPort port y
      let t := if 64 ≤ x.unacked + 1 then t.sendIdle port else t
      .next (t.takeAck port hdr)
    else if x.naking then .next (t.takeAck port hdr)
    else .next (nak.takeAck port hdr)
  else .next s

/-! ### LINK_ID and forwarding -/

-- Assumption log 134 (DEDUCED).
/-- LINK_ID (R462, R479): records the partner's identity, port and delays in the PEER registers. LINK_ID belongs to no
partition, so the checks of R463 do not apply to it. In TRAIN it comes outside the flits of the virtual channels. -/
def execLinkId (port : Nat) (body : List Byte) (s : State) : Host.Outcome State Fault Refusal :=
  if port < 128 then
    let t := if s.portState port = 2 then s.countRx port else s.consume port 0x01 body.length
    let t := t.setPort port { t.port port with linkId := true }
    let ix := portIx port
    let t := t.setv .opticPeer0 ix (BitVec.ofNat 64 (leAt body 0 8))
    let t := t.setv .opticPeer1 ix (BitVec.ofNat 64 (leAt body 8 8))
    let w := putBits (putBits (putBits (putBits 0 6 0 (leAt body 16 1)) 47 32 (leAt body 18 2)) 31 16
      (leAt body 20 2)) 63 63 1
    .next (t.setv .opticPeerPort ix w)
  else .next s

/-- MESSAGE_FORWARD (R459, R463): a message for another module leaves on the port that the route table of its
partition names, on the same VC and unchanged; without a partition or a route it is discarded and counted. -/
def execMessageForward (port typ : Nat) (h : Hdr) (body : List Byte) (s : State) : Host.Outcome State Fault Refusal :=
  let t := s.consume port typ body.length
  match t.partOfTag h.ptag with
  | none => .next (t.discardMsg port)
  | some p =>
    if h.dst = t.coord p then .next (t.discardMsg port)
    else match t.route p h.dst with
      | none => .next (t.discardMsg port)
      | some q => .next ((t.bump .opticMsgForward [port % 128 / 8] 1).sendOn q ⟨typ, h, body⟩)

/-! ### Lane audit (R472) -/

/-- The body of AUDIT (R462). -/
def auditBody (wave phase result : Nat) : List Byte := leBytes 1 wave ++ leBytes 1 phase ++ leBytes 1 result

/-- The next wavelength in service at or after a number, cycling. -/
def nextWave (m : Word) (from_ : Nat) : Option Nat :=
  ((List.range 9).map (fun i => (from_ + i) % 9)).find? (fun w => (waveLane m w).isSome)

/-- AUDIT_PERIOD: the transmitter takes the next wavelength in service and sends AUDIT START, which makes the spare carry the lane
beside it. A START that the partner has not answered is over. -/
def execAuditPeriod (port : Nat) (s : State) : Host.Outcome State Fault Refusal :=
  let x := s.port port
  let m := s.rv .opticLaneMap (portIx port)
  if port < 128 ∧ s.portState port = 3 ∧ s.fa .opticPortCtlAuditEn (portIx port) = 1 ∧ x.auditStop = false ∧
      x.audit.all (fun a => a.2 == 0) ∧ getBits m 35 32 ≠ 0xF then
    match nextWave m x.auditNext with
    | none => .next s
    | some w =>
      .next ((s.setPort port { x with audit := some (w, 0), auditNext := (w + 1) % 9 }).sendLink port 0x02
        (auditBody w 0 0))
  else .next s

/-- AUDIT_START: the receiver moves the lane to the spare and answers SWITCH_OUT; a port with AUDIT_EN = 0 is not
audited. -/
def execAuditStart (port wave : Nat) (s : State) : Host.Outcome State Fault Refusal :=
  if port < 128 ∧ wave < 9 ∧ s.portState port = 3 ∧ s.fa .opticPortCtlAuditEn (portIx port) = 1 then
    let t := s.consume port 0x02 3
    .next ((t.setPort port { t.port port with auditRx := some wave }).sendLink port 0x02 (auditBody wave 1 0))
  else .next (s.consume port 0x02 3)

/-- SWITCH_OUT: the lane runs on the spare, which is no longer free, and the freed wavelength runs PRBS31Q. -/
def execSwitchOut (port wave : Nat) (s : State) : Host.Outcome State Fault Refusal :=
  let t := s.consume port 0x02 3
  let x := t.port port
  let m := t.rv .opticLaneMap (portIx port)
  if port < 128 ∧ x.audit = some (wave, 0) then
    match waveLane m wave with
    | some l =>
      let sp := getBits m 35 32
      .next ((((t.setPort port { x with audit := some (wave, 1) }).setv .opticLaneMap (portIx port)
        (putBits (setLane m l sp) 35 32 0xF))).setf .opticPortStateSpareUsed (portIx port) 1)
    | none => .next t
  else .next t

-- Assumption log 191 (DESIGN CHOICE).
/-- A tick of a port in TEST (R471): each of its nine wavelengths carries 14 bits of PRBS31Q at 224 Gb/s, which PRBS_BITS counts,
with as many errors among them as the fibre makes. -/
def State.testTick (s : State) (q : Nat) : State :=
  if s.portState q = 5 then
    (List.range 9).foldl (fun t w => (t.bump .opticPrbsErr (portIx q ++ [w]) (Config.freeNat t.free % 15)).fresh)
      (s.bump .opticPrbsBits (portIx q) 14)
  else s

/-- AUDIT_DWELL_END: the receiver counts bits and errors and reports TEST_END; the target is a bit error ratio below
2.4 times 10^-4 (R471). -/
def execAuditDwellEnd (port bits errs : Nat) (s : State) : Host.Outcome State Fault Refusal :=
  match (s.port port).auditRx with
  | some w =>
    let t := (s.bump .opticPrbsBits (portIx port) bits).bump .opticPrbsErr (portIx port ++ [w]) errs
    .next (t.sendLink port 0x02 (auditBody w 2 (if errs * 100000 < 24 * bits then 0 else 1)))
  | none => .next s

/-- TEST_END: on PASS the lane returns to its wavelength and SWITCH_BACK follows; on FAIL the lane stays on the spare,
the wavelength is marked failed, AUDIT_FAIL sets, a LINK record is written and the audit of the port stops. -/
def execTestEnd (port wave result : Nat) (s : State) : Host.Outcome State Fault Refusal :=
  let t := s.consume port 0x02 3
  let x := t.port port
  let m := t.rv .opticLaneMap (portIx port)
  if port < 128 ∧ x.audit = some (wave, 1) then
    if result = 0 then
      match waveLane m 8 with
      | some l => .next (((t.setPort port { x with audit := some (wave, 2) }).setv .opticLaneMap (portIx port)
          (setLane m l wave)).sendLink port 0x02 (auditBody wave 3 0))
      | none => .next t
    else
      let t := t.setPort port { x with audit := none, auditStop := true }
      let t := t.setv .opticLaneMap (portIx port) (failWave m wave)
      let t := (t.setf .opticPortStateAuditFail (portIx port) 1).alert .hubAlertLink
      .next (t.bbWrite none 0x50 1 (payloadOf [(0, 1, port), (1, 1, 3), (2, 1, wave)]))
  else .next t

/-- SWITCH_BACK: the receiver's lane is back on its wavelength, which it confirms; at the transmitter the spare is
free again. -/
def execSwitchBack (port wave : Nat) (s : State) : Host.Outcome State Fault Refusal :=
  let t := s.consume port 0x02 3
  let x := t.port port
  if port < 128 ∧ x.audit = some (wave, 2) then
    let m := putBits (t.rv .opticLaneMap (portIx port)) 35 32 8
    .next (((t.setPort port { x with audit := none }).setv .opticLaneMap (portIx port) m).setf .opticPortStateSpareUsed (portIx port) 0)
  else if port < 128 ∧ x.auditRx = some wave then
    .next ((t.setPort port { x with auditRx := none }).sendLink port 0x02 (auditBody wave 3 0))
  else .next t

end Sys2Proof.Machine
end

