-- ==== Sys2Proof/Machine/PowerCtl.lean ====
section
/-! DEFINITION. The power controller: limit, causes, brake, park (R504 to R524). Powers are in W. -/

namespace Sys2Proof.Machine

open Sys2Proof

/-- Effective limit L, shown in LIMIT_NOW in units of 10 W. -/
def State.setLimit (s : State) (l : Nat) : State :=
  (s.setPower { s.power with limit := l }).setf .powerPwrStatusLimitNow [] (l / 10)

/-- BRAKE_LEVEL in W. -/
def State.brakeLevel (s : State) : Nat := 10 * s.fa .powerBrakeCfgBrakeLevel []

/-- The target of L outside a brake: the cap, and SAFE_CAP while the heartbeat is lost (R511, R513). -/
def State.limitTarget (s : State) : Nat :=
  let cap := 10 * s.fa .powerCapLimit []
  if s.fv .powerPwrStatusHbLost [] = 1 then min cap (10 * s.fa .powerBrakeCfgSafeCap []) else cap

/-- A POWER black-box record (R553). -/
def State.powerRecord (s : State) (old new cls : Nat) : State :=
  s.bbWrite none 0x10 cls (payloadOf [(0, 1, old), (1, 1, new), (2, 1, s.fv .powerPwrStatusBrakeCauses []),
    (3, 1, s.fv .powerPwrStatusParkCauses []), (4, 1, s.fv .powerPwrStatusHbLost []),
    (6, 2, s.fv .powerPwrStatusLimitNow []), (8, 2, s.fv .powerSupplyVIn []), (10, 2, s.fv .powerSupplyPIn []),
    (12, 1, s.power.temps.foldl max 0)])

/-- Enters a module state, with its record and its state-sensor event (R514, R568). -/
def State.enterPower (s : State) (st cls : Nat) : State :=
  let old := s.powerState
  ((s.setf .powerPwrStatusState [] st).powerRecord old st cls).platformEvent 1 st

/-- The supply code of a fabric half-die domain. -/
def State.supplyOf (s : State) (d : Nat) : Nat :=
  if d < 8 then getBits (s.rv .powerDomainV0 []) (8 * d + 7) (8 * d)
  else getBits (s.rv .powerDomainV1 []) (8 * (d - 8) + 7) (8 * (d - 8))

/-- Sets the supply code of a fabric half-die domain. -/
def State.setSupply (s : State) (d code : Nat) : State :=
  if d < 8 then s.setv .powerDomainV0 [] (putBits (s.rv .powerDomainV0 []) (8 * d + 7) (8 * d) code)
  else s.setv .powerDomainV1 [] (putBits (s.rv .powerDomainV1 []) (8 * (d - 8) + 7) (8 * (d - 8)) code)

-- Assumption log 148 (DEDUCED).
/-- Sets the supply of every powered fabric half-die domain. -/
def State.setSupplies (s : State) (code : Nat) : State :=
  (List.range 16).foldl (fun t d => if t.domainOn d then t.setSupply d code else t) s

/-- The code of 0.60 V, or of FABRIC_VMAX where that lies lower (R509). -/
def State.lowSupply (s : State) : Nat := min 20 (s.fa .powerFabricVmaxCode [])

/-- L in BRAKE is BRAKE_LEVEL (R515), and at most SAFE_CAP while the heartbeat is lost (R513). -/
def State.brakeTarget (s : State) : Nat :=
  if s.fv .powerPwrStatusHbLost [] = 1 then min s.brakeLevel (10 * s.fa .powerBrakeCfgSafeCap []) else s.brakeLevel

/-- The brake (R515): L falls to BRAKE_LEVEL and every fabric half-die goes to 0.60 V. An L that the lost heartbeat holds lower
stays (R513). -/
def State.brake (s : State) : State :=
  let t := s.setPower { s.power with ramp := none }
  let l := if t.brakeTarget < t.brakeLevel then min t.brakeLevel t.power.limit else t.brakeLevel
  ((t.setLimit l).setf .powerPwrStatusClimbing [] 0).setSupplies t.lowSupply

/-- The stall watches of the firing steps start anew where the pacer leaves zero rate (R107, R512). -/
def State.endZeroRate (s : State) : State :=
  if s.power.zeroRate then
    (List.range 32).foldl (fun t p =>
      if t.formed p && (t.part p).firing.isSome then t.setPart p { t.part p with progress := t.pnow p } else t)
      (s.setPower { s.power with zeroRate := false })
  else s

/-- A brake cause arises, by its bit in BRAKE_CAUSES: 0 PIN, 1 UNDERVOLT, 2 CAPDROP, 3 FLOW, 4 HOT (R514). -/
def State.raiseBrake (s : State) (cause : Nat) (event : Fld) : State :=
  if s.powerState ≥ 3 then s
  else
    let t := s.setf .powerPwrStatusBrakeCauses [] (s.fv .powerPwrStatusBrakeCauses [] ||| 2 ^ cause)
    let t := t.powerEvent event
    if s.powerState = 0 then
      (t.brake.bump .powerBrakes [] 1).enterPower 1 (if cause = 4 then 6 else 5)
    else t

/-- A brake cause clears; with the last one the module returns to RUN and L climbs (R514). -/
def State.clearBrake (s : State) (cause : Nat) : State :=
  let c := s.fv .powerPwrStatusBrakeCauses []
  if c.testBit cause then
    let t := s.setf .powerPwrStatusBrakeCauses [] (c - 2 ^ cause)
    if s.powerState = 1 ∧ c - 2 ^ cause = 0 then
      (t.endZeroRate.setf .powerPwrStatusClimbing [] (bit01 (decide (t.power.limit < t.limitTarget)))).enterPower 0 0
    else t
  else s

/-- The module parks (R516): steps abort with POWER_PARK, the fabric goes to the retention supply, and with PARK_DARK
every port goes dark. -/
def State.park (s : State) : State :=
  let t := (List.range 32).foldl (fun u p =>
    if s.formed p then u.abortSteps p Status.powerPark 0 true else u) s
  let t := (t.setPower { t.power with retention := true, ramp := none }).setSupplies 0xFE
  if t.fa .powerBrakeCfgParkDark [] = 1 then
    (List.range 128).foldl (fun u q => if u.portState q = 0 then u else (u.losePort q).enterPort q 0) t
  else t

-- Assumption log 148 (DEDUCED).
/-- Leaving park reverses it: supply back to 0.60 V, enabled dark ports light again (R516). -/
def State.unpark (s : State) : State :=
  let t := (s.setPower { s.power with retention := false }).setSupplies s.lowSupply
  (List.range 128).foldl (fun u q =>
    if u.portState q = 0 ∧ u.fa .opticPortCtlEnable (portIx q) = 1 then u.enterPort q 1 else u) t

/-- A park cause arises, by its bit in PARK_CAUSES: 0 CAP, 1 FLOW (R514). -/
def State.raisePark (s : State) (cause : Nat) : State :=
  let c := s.fv .powerPwrStatusParkCauses []
  if s.powerState ≥ 3 ∨ c.testBit cause then s
  else
    let t := s.setf .powerPwrStatusParkCauses [] (c ||| 2 ^ cause)
    if s.powerState = 2 then t
    else ((t.park.bump .powerParks [] 1).powerEvent .powerEventsPark).enterPower 2 5

/-- A park cause clears; with the last one the module leaves park, to RUN or, while a brake cause holds, to BRAKE (R514): the class of the
record is THERMAL where HOT alone brakes. -/
def State.clearPark (s : State) (cause : Nat) : State :=
  let c := s.fv .powerPwrStatusParkCauses []
  if c.testBit cause then
    let t := s.setf .powerPwrStatusParkCauses [] (c - 2 ^ cause)
    if s.powerState = 2 ∧ c - 2 ^ cause = 0 then
      if t.fv .powerPwrStatusBrakeCauses [] = 0 then t.unpark.enterPower 0 0
      else (t.unpark.brake.bump .powerBrakes [] 1).enterPower 1 (if t.fv .powerPwrStatusBrakeCauses [] = 2 ^ 4 then 6 else 5)
    else t
  else s

/-- Park cause CAP follows LIMIT, SAFE_CAP in force and PARK_BELOW (R514). -/
def State.checkParkCap (s : State) : State :=
  let below := s.fa .powerBrakeCfgParkBelow []
  if s.fa .powerCapLimit [] < below ∨
      (s.fv .powerPwrStatusHbLost [] = 1 ∧ s.fa .powerBrakeCfgSafeCap [] < below) then s.raisePark 0
  else s.clearPark 0

-- Assumption log 150 (DEDUCED).
/-- A commit of CAP applies (R511): L rises, ramps, or the brake cause CAPDROP arises; in BRAKE and PARK only the
target changes. A park ends a ramp (R514). -/
def State.applyCap (s : State) : State :=
  let lim := 10 * s.fa .powerCapLimit []
  let rampUs := s.fa .powerCapRamp []
  let l0 := s.power.limit
  if s.powerState ≠ 0 then s
  else if s.fa .powerCapLimit [] < s.fa .powerBrakeCfgParkBelow [] then s.setPower { s.power with ramp := none }
  else if l0 ≤ lim then s.setPower { s.power with ramp := none }
  else if l0 - lim ≤ 2 * rampUs then s.setPower { s.power with ramp := some (l0, lim, rampUs, 0) }
  else s.raiseBrake 2 .powerEventsCapdrop

/-- Moves a number toward a target by at most a step. -/
def toward (x t k : Nat) : Nat := if x < t then min (x + k) t else max (x - k) t

-- Assumption log 147 (DEDUCED).
/-- L where a falling ramp of the cap stands at `v`: below it while the heartbeat is lost and SAFE_CAP, which L nears at 2 kW per
ms, lies lower; after its return L nears the ramp again at that rate (R513). -/
def State.rampTo (s : State) (v : Nat) : Nat :=
  let l := s.power.limit
  if s.fv .powerPwrStatusHbLost [] = 1 then min v (toward l (min l (10 * s.fa .powerBrakeCfgSafeCap [])) 40) else min v (l + 40)

-- Assumption log 147 (DEDUCED).
/-- L after one control interval of 20 us: 2 kW per ms is 40 W (R511, R513, R514). -/
def State.stepLimit (s : State) : State :=
  if s.powerState = 1 then s.setLimit (min s.brakeLevel (toward s.power.limit s.brakeTarget 40))
  else if s.powerState = 0 then
    match s.power.ramp with
    | some (l0, lim, us, gone) =>
      let g := gone + 20
      if us ≤ g then (s.setPower { s.power with ramp := none }).setLimit (s.rampTo lim)
      else (s.setPower { s.power with ramp := some (l0, lim, us, g) }).setLimit (s.rampTo (l0 - (l0 - lim) * g / us))
    | none =>
      let t := s.limitTarget
      let l := toward s.power.limit t 40
      let u := s.setLimit l
      if l = t then u.setf .powerPwrStatusClimbing [] 0 else u
  else s

/-- The supply that one domain takes for the next interval (R509, R512, R515, R522): 0.60 V in BRAKE, else the control law's aim between
0.55 V and FABRIC_VMAX. While its die is hot it falls by 10 mV to 0.60 V, and while it cools it rises by 10 mV; no change exceeds
10 mV per us, which is 40 codes. -/
def State.nextSupply (s : State) (d aim : Nat) : Nat :=
  let a := max 10 (min aim (s.fa .powerFabricVmaxCode []))
  let cur := s.supplyOf d
  if s.powerState = 1 then toward cur s.lowSupply 40
  else if s.power.throttled.contains (d / 2) then min (toward cur a 40) (if cur ≤ 20 then cur else max (cur - 2) 20)
  else if s.power.cooling.contains (d / 2) then min (toward cur a 40) (cur + 2)
  else toward cur a 40

/-- The dies throttled after a measurement: above 95 degrees C until at or below 92 (R522). -/
def throttle (old temps : List Nat) : List Nat :=
  (List.range 8).filter (fun k => decide (temps.getD k 0 > 95) || (old.contains k && decide (temps.getD k 0 > 92)))

/-- The partitions with work, and the sum of their weights (R512). -/
def State.paceParts (s : State) : List Nat := (List.range 32).filter (fun p => s.formed p && (s.part p).firing.isSome)
def State.paceSum (s : State) : Nat := (s.paceParts.map (fun p => s.fa .serveShareWeight [p])).foldl (· + ·) 0

/-- Some fabric supply lies above 0.60 V: the power controller lowers the supplies before it paces (R512). -/
def State.supplyHigh (s : State) : Bool := (List.range 16).any (fun d => s.domainOn d && decide (20 < s.supplyOf d))

/-- The firings that the pacer grants for an interval, of which the control law asks for `n` (R512): without limit while a supply lies
above 0.60 V, and never none outside BRAKE. -/
def State.grant (s : State) (n : Nat) : Nat :=
  if s.powerState = 1 then n else if s.supplyHigh then 65536 * s.paceSum else max n s.paceSum

-- Assumption log 52 (DEDUCED).
/-- The pacer refills the buckets of partitions with work in proportion to their weights (R512). -/
def State.refill (s : State) (n : Nat) : State :=
  s.paceParts.foldl (fun t p =>
    let x := t.part p
    t.setPart p { x with tokens := min 65536 (x.tokens + n * s.fa .serveShareWeight [p] / s.paceSum) }) s

/-- Shows the temperatures of the stacks: TEMP, and HOT while the refresh interval is halved above 85 degrees C (R357,
R379). A die whose periphery is off shows none. -/
def State.stackTemps (s : State) (l : List Nat) : State :=
  (List.range 32).foldl (fun t i =>
    if t.domainOn (16 + i / 4) then
      (t.setf .hbmStackStatusTemp [i / 4, i % 4] (l.getD i 0)).setf .hbmStackStatusHot [i / 4, i % 4]
        (bit01 (decide (85 < l.getD i 0)))
    else t) s

/-- What the power controller measures in an interval (R510): input, junctions, stacks. -/
def State.measure (s : State) (m : PowerSample) : State :=
  let w := putBits (putBits (putBits 0 63 48 m.vIn) 47 32 m.iIn) 15 0 m.pIn
  let t := s.setv .powerSupply [] w
  let t0 := (List.range 8).foldl (fun (x : Word) k => putBits x (8 * k + 7) (8 * k) (m.dies.getD k 0)) 0
  let t := (t.setv .powerTemp0 [] t0).setv .powerTemp1 [] (putBits (putBits 0 7 0 m.hub) 15 8 (m.hbm.foldl max 0))
  let t := t.stackTemps m.hbm
  t.setPower { t.power with temps := (m.dies ++ List.replicate 8 0).take 8 ++ [m.hub], vMin := min t.power.vMin m.vIn }

/-- The supplies of the next interval; a die has cooled once its domains have reached the aim (R509, R522). -/
def State.nextSupplies (s : State) (aim : Nat) : State :=
  if s.power.retention then s
  else
    let t := (List.range 16).foldl (fun u d => if u.domainOn d then u.setSupply d (s.nextSupply d aim) else u) s
    let a := max 10 (min aim (s.fa .powerFabricVmaxCode []))
    t.setPower { t.power with cooling := t.power.cooling.filter (fun k =>
      [2 * k, 2 * k + 1].any (fun d => t.domainOn d && decide (t.supplyOf d < a))) }

-- Assumption log 147 (DEDUCED).
/-- CONTROL_INTERVAL (R510, R512, R522): measurements, limit, thermal thresholds, supplies and pacer for the next
interval. After a stop or a trip the module only measures. -/
def execControlInterval (m : PowerSample) (s : State) : Host.Outcome State Fault Refusal :=
  let t := (s.setPower { s.power with boundary := true }).measure m
  if s.powerState ≥ 3 then .next t
  else
    let old := s.power.throttled
    let th := throttle old m.dies
    let cool := (List.range 8).filter (fun k => !th.contains k && (old.contains k || s.power.cooling.contains k))
    let t := t.setPower { t.power with throttled := th, cooling := cool }
    let t := if th.any (fun k => !old.contains k) then t.powerEvent .powerEventsThrottle else t
    let t := if m.exceeded then t.powerEvent .powerEventsOverLimit else t
    let t := t.checkParkCap.stepLimit.nextSupplies m.supply
    let n := t.grant m.refill
    let zero := decide (t.powerState = 1) && n == 0
    let t := if zero then t.setPower { t.power with zeroRate := true } else t.endZeroRate
    .next (t.refill n)

/-- PWR_BRAKE_N_ASSERT (R514, R515): brake cause PIN. -/
def execPwrBrakeNAssert (s : State) : Host.Outcome State Fault Refusal := .next (s.raiseBrake 0 .powerEventsPin)

/-- PWR_BRAKE_N_RELEASE (R514): PIN clears. -/
def execPwrBrakeNRelease (s : State) : Host.Outcome State Fault Refusal := .next (s.clearBrake 0)

/-- UNDERVOLT (R514): the 10 us average of the input is below 40 V. -/
def execUndervolt (s : State) : Host.Outcome State Fault Refusal := .next (s.raiseBrake 1 .powerEventsUndervolt)

/-- UNDERVOLT_CLEAR (R514): the input has stayed at or above 41 V for 1 ms. -/
def execUndervoltClear (s : State) : Host.Outcome State Fault Refusal := .next (s.clearBrake 1)

/-- CAPDROP_CLEAR (R511): 100 us after L reached BRAKE_LEVEL. -/
def execCapdropClear (s : State) : Host.Outcome State Fault Refusal := .next (s.clearBrake 2)

/-- FLOW_OK_N_RELEASE (R521): FLOW holds the brake; the junctions of this moment are kept. -/
def execFlowOkNRelease (s : State) : Host.Outcome State Fault Refusal :=
  .next (((s.setPower { s.power with flowTemps := s.power.temps }).raiseBrake 3 .powerEventsFlow))

/-- FLOW_OK_N_RESTORED (R514): FLOW clears as brake cause and as park cause. -/
def execFlowOkNRestored (s : State) : Host.Outcome State Fault Refusal := .next ((s.clearBrake 3).clearPark 1)

/-- FLOW_JUNCTION_SAMPLE (R521): under FLOW, a junction 3 degrees C above its value at the start of the brake parks the
module. `temps` holds the eight dies and the hub. -/
def execFlowJunctionSample (temps : List Nat) (s : State) : Host.Outcome State Fault Refusal :=
  let t := s.setPower { s.power with temps := temps }
  if (s.fv .powerPwrStatusBrakeCauses []).testBit 3 ∧
      (List.range 9).any (fun i => decide (s.power.flowTemps.getD i 0 + 3 ≤ temps.getD i 0)) then
    .next (t.raisePark 1)
  else .next t

/-- HOT (R522): a fabric or hub junction passes 105 degrees C. -/
def execHot (s : State) : Host.Outcome State Fault Refusal := .next (s.raiseBrake 4 .powerEventsHot)

/-- HOT_CLEAR (R514): every junction is at or below 100 degrees C. -/
def execHotClear (s : State) : Host.Outcome State Fault Refusal := .next (s.clearBrake 4)

/-- HEARTBEAT_LOST (R513, R520): HB_LOST sets and L heads for SAFE_CAP. -/
def execHeartbeatLost (s : State) : Host.Outcome State Fault Refusal :=
  if s.fv .powerPwrStatusHbLost [] = 1 ∨ s.powerState ≥ 3 then .next s
  else
    let t := (s.setf .powerPwrStatusHbLost [] 1).powerEvent .powerEventsHbLost
    .next ((t.powerRecord t.powerState t.powerState 5).checkParkCap)

end Sys2Proof.Machine
end

