-- ==== Sys2Proof/Machine/Kill.lean ====
section
/-! DEFINITION. Killing a partition, what happens to sites that leave one, and debug reads (R196, R485, R491, R536 to
R542). -/

namespace Sys2Proof.Machine

open Sys2Proof

/-! ### Sites that leave a partition -/

/-- What zeroing leaves of a site (R537 step 4): every store, buffer and queue is empty. The rounding generators are not
among what the manual zeroes. -/
def Site.zeroed (x : Site) : Site := { Site.reset with cu := { Cu.reset with lfsr := x.cu.lfsr } }

/-- Zeroes and releases sites (R491, R537 step 4). -/
def State.releaseSites (s : State) (sites : List Nat) : State :=
  sites.foldl (fun t i =>
    ((((t.setSite i (t.site i).zeroed).setf .siteIdOwned [i] 0).setf .siteIdPart [i] 0).setf .siteStateWork [i] 0).setf
      .siteStateStalled [i] 0) s

/-- Both stores of the partition are invalid (R247, R491). -/
def State.dropPlates (s : State) (p : Nat) : State :=
  ((s.setPart p { s.part p with front := none, back := none, load := none, extended := none, hold := none }).showPlates p).setPhase p 0

/-! ### Kill (R536 to R539) -/

/-- The partition's OWNED page-tiles (R364), and those of it that are already DIRTY on their way back to a reservation. -/
def State.ownedPages (s : State) (p : Nat) : List Nat :=
  (s.hbm.tags.filter (fun e => e.2 == ownedTag p)).map (fun (e : Nat × Nat) => e.1)

-- Assumption log 146 (DEDUCED).
/-- A step or an entry completes with KILLED, unless an earlier cause has already decided it (R109, R537 step 2). -/
def Step.kill (x : Step) (now : Nat) : Step :=
  if x.outcome.isSome ∧ x.ended < now then x else { x with outcome := some (Status.killed, 0), ended := now }

-- Assumption log 146 (DEDUCED).
/-- Step 2 of R537 at the lead: the firing step, the admitted step and every fetched entry complete with KILLED. -/
def State.killEntries (s : State) (p : Nat) : State :=
  let x := s.part p
  let now := s.pnow p
  let l := x.firing.toList ++ x.admitted.toList ++ x.fetched.map (fun e => Step.new e (s.isLead p) now)
  let t := s.setPart p { x with firing := none, admitted := none, fetched := [] }
  l.foldl (fun u y => let z := y.kill now; u.finish p z z.ended) t

/-- Step 2 of R537 at another member: STEP_ABORT with KILLED to the lead, where a step runs. -/
def State.killShare (s : State) (p : Nat) : State :=
  let x := s.part p
  let led := match x.firing, x.admitted with
    | some y, _ => some y.entry.idx
    | none, some y => some y.entry.idx
    | none, none => none
  let t := match led with
    | some i => s.send p 0x0A (s.lead p) false 0 s.txn (abortBody i Status.killed 0)
    | none => s
  t.setPart p { t.part p with firing := none, admitted := none, fetched := [] }

/-- Abandons the pending commits of the partition's PART block and of its sites' blocks (R38). -/
def State.killCommits (s : State) (p : Nat) (sites : List Nat) : State :=
  sites.foldl (fun t i => t.commitCancel .siteCommitStatus [i]) (s.commitCancel .partCommitStatus [p])

/-- Step 3 of R537: the swap key, the namespace keys and the debug credential are destroyed. -/
def State.killKeys (s : State) (p : Nat) : State :=
  let t := s.setSeal { s.sealUnit with swapKeys := tabDel s.sealUnit.swapKeys p }
  let t := t.setPart p { t.part p with keys := [], dbg := Debug.reset }
  (((t.setv .serveNskeyState [p] 0).setv .partDbgState [p] 0).setv .serveNskeyLo [p] 0).setv .serveNskeyHi [p] 0

/-- Step 6 of R537: sequences, directory entries and page references of the partition. -/
def State.killSequences (s : State) (p : Nat) : State :=
  let mine := s.seqs.filter (fun e => e.2.part == p)
  let t := s.setSeqs (s.seqs.filter (fun e => e.2.part != p))
  let t := mine.foldl (fun u e => u.setBlocks (tabClear u.blocks (1024 * e.1) (1024 * e.1 + 1024))) t
  let t := t.setDir (t.dir.filter (fun e => match e.2 with
    | some d => d.part != p
    | none => true))
  t.setPart p { t.part p with pages := [], frames := [], zeroQ := [], swapSlots := [], swapFrames := [], swapping := [] }

-- Assumption log 139 (DEDUCED).
/-- What the hub has accepted for the partition (R537 step 1, R539): a read of the host completes with the data of its page, zeros
where the page is not in HBM; a write of the host completes without effect; messages of other modules are discarded (R463). -/
def State.killHost (s : State) (p : Nat) : State :=
  let mine := s.hubWait.filter (fun r => r.part == p)
  let msgs := s.hubMsgs.filter (fun e => s.partOfTag e.2.hdr.ptag == some p)
  let t := { s with hubWait := s.hubWait.filter (fun r => r.part != p),
                    hubMsgs := s.hubMsgs.filter (fun e => s.partOfTag e.2.hdr.ptag != some p) }
  let t := msgs.foldl (fun u e => (u.freeRx e.1 e.2.typ e.2.body.length).discardMsg e.1) t
  mine.foldl (fun u r =>
    if !r.data.isEmpty then u.emit .memDone
    else if (u.hubDie p r.addr).isSome then u.hubServe { r with cache := false }
    else u.emit (.memData (List.replicate 64 0) false)) t

/-- The first and the last address of a partition's HOST group. -/
abbrev hostGroup (p : Nat) : Nat × Nat := (0x101000 + 0x100 * p, 0x101100 + 0x100 * p)

/-- Step 7 of R537: host lines are recalled, OWNED page-tiles become DIRTY, and the HOST group returns to its reset values
(R439). -/
def State.killPages (s : State) (p : Nat) : State :=
  let t := s.recallPart p
  let back := t.hbm.returns.filter (fun e => match e.2 with
    | some k => k / 8 == p
    | none => false)
  let owned := t.ownedPages p
  let t := t.setHbm { t.hbm with returns := t.hbm.returns.filter (fun e => !back.contains e) }
  let t := (t.dirtyAll owned).resetRange (hostGroup p).1 (hostGroup p).2
  let l := owned ++ back.map (·.1)
  let t := t.setPart p { t.part p with map := [], ages := [], reserve := [], dying := l, spill := [], tail := none, awake := false,
                                              wake := false, fetchTo := none }
  (t.setf .partKillStateDirty [p] l.length).setf .partKillStatePhase [p] 2

/-- The half-die domains of a partition's sites. -/
def State.domainsOf (s : State) (p : Nat) : List Nat :=
  (List.range 16).filter (fun d => s.domainOn d && (s.sitesOf p).any (fun i => domainOfSite i == d))

/-- While the module is parked, a kill raises the partition's half-die domains to 0.60 V for the zeroing, and they return to the
retention supply after it (R509, R516, R537 step 4). -/
def State.killSupply (s : State) (p code : Nat) : State :=
  if s.power.retention then (s.domainsOf p).foldl (fun t d => t.setSupply d code) s else s

-- Assumption log 139 (DEDUCED), 145 (DEDUCED), 146 (DEDUCED).
/-- Steps 1 and 2 of the kill of a formed partition (R537): PHASE reads HALT, and every step and entry ends. -/
def State.kill (s : State) (p : Nat) : State :=
  let sites := s.sitesOf p
  let t := ((s.chargeUp p).haltFabric p).killHost p
  let t := (t.setf .partStatusActive [p] 0).setf .partKillStatePhase [p] 1
  let t := if t.isLead p then t.killEntries p else t.killShare p
  let t := t.killCommits p sites
  let x := t.part p
  let t := t.setPart p { x with time := { x.time with snap := none, latched := [], latching := [], t1 := none }, swapping := [] }
  let t := ((t.setf .timeSnapStatusPending [p] 0).snapState p 0).dropPlates p
  t.killSupply p t.lowSupply

-- Assumption log 145 (DEDUCED).
/-- Steps 3 to 7 of R537: keys, sites, record, sequences and pages. PHASE then reads SCRUB, or IDLE where no page-tile has to be
zeroed. -/
def State.killRest (s : State) (p : Nat) : State :=
  let t := (s.killKeys p).killSupply p 0xFE
  let t := (t.releaseSites (t.sitesOf p)).partRecord p 4
  let t := (t.killSequences p).killPages p
  let q := t.traceQ.map (fun (q : Nat × List TraceRec) => (q.1, q.2.filter (fun r => r.part != p)))
  let t := t.setTraceQ (q.filter (fun e => !e.2.isEmpty))
  if (t.part p).dying.isEmpty then (t.setf .partKillStatePhase [p] 0).partRecord p 5 else t

/-- A kill whose first steps are done goes on (R537). -/
def State.killTick (s : State) (p : Nat) : State := if s.fv .partKillStatePhase [p] = 1 then s.killRest p else s

-- Assumption log 145 (DEDUCED).
/-- KILL (R536): a write of PART.KILL with CONFIRM = 0x4B4C to a formed partition; any other write is discarded. -/
def execKill (p : Nat) (w : Word) (s : State) : Host.Outcome State Fault Refusal :=
  if s.formed p ∧ getBits w 15 0 = 0x4B4C then .next (s.kill p) else .next s

/-! ### Debug reads (R542) -/

/-- The word that DBG_ADDR selects: MU word, activation line, weight line, or accumulator chunk. -/
def Site.debugWord (x : Site) (space index : Nat) : Line :=
  match space with
  | 0 => tabGet (fun _ => 0) x.mu.words index
  | 1 => tabGet (fun _ => 0) x.cu.abuf index
  | 2 => tabGet (fun _ => 0) x.cu.wbuf index
  | _ =>
    let row := tabGet (fun _ => 0) x.cu.acc (index / 4 % 4096)
    BitVec.ofNat 512 (row.toNat >>> (512 * (index % 4)))

/-- Shows a word in DBG_DATA (R542). -/
def State.showWord (s : State) (p : Nat) (x : Line) : State := s.setDebug p { (s.part p).dbg with data := x }

/-- The host debug path asks for a word of a memory unit's bank, in place of a word that it still waits for (R194). -/
def State.debugBank (s : State) (p site w : Nat) : State :=
  let m := (s.site site).mu
  (s.setMu site { m with reqs := m.reqs.filter (fun r => r.who != 9) ++ [⟨9, w, none, false, false⟩] }).grantAlone p site (w % 16) 9

/-- DEBUG_ADDR_SELECT (R194, R542): a write of DBG_ADDR; DBG_DATA takes the word while the partition is unlocked and the site is
of the rectangle, zeros otherwise; another site sets OUTSIDE. A word of a memory unit comes once its bank grants the debug path. -/
def execDebugAddrSelect (p : Nat) (w : Word) (s : State) : Host.Outcome State Fault Refusal :=
  if p ≥ 32 then .next s
  else
    let t := s.setv .partDbgAddr [p] (w &&& (rangeMask 63 62 ||| rangeMask 44 32 ||| rangeMask 13 0))
    let site := getBits w 44 32
    if !(s.formed p) || !(s.part p).dbg.unlocked then .next (t.showWord p 0)
    else if s.ownerOf site ≠ some p then .next ((t.setf .partDbgStateOutside [p] 1).showWord p 0)
    else if getBits w 63 62 = 0 ∧ isMu site ∧ getBits w 13 0 < 12288 then .next (t.debugBank p site (getBits w 13 0))
    else .next (t.showWord p ((s.site site).debugWord (getBits w 63 62) (getBits w 13 0)))

end Sys2Proof.Machine
end

