-- ==== Sys2Proof/Machine/Management.lean ====
section
/-! DEFINITION. Management: MCTP control, PLDM, SPDM, heartbeat and firmware update (R529, R567 to R580). -/

namespace Sys2Proof.Machine

open Sys2Proof

-- Assumption log 159 (DEDUCED).
/-- MCTP control and PLDM types 0 and 5 are answered: from MGMT on, and in recovery; over CXL while the host-port domain is powered
(R576). -/
def State.controlUp (s : State) (ep : Nat) : Bool := decide (2 ≤ s.stage) && (ep != 1 || s.domainOn 40)

/-- HEARTBEAT (R513, R520): answered with PWR_STATUS and SUPPLY; HB_LOST clears. -/
def execHeartbeat (ep _seq : Nat) (s : State) : Host.Outcome State Fault Refusal :=
  if s.mgmtUp = false then .next (s.vendorRsp ep 0x01 4 [])
  else
    let lost := s.fv .powerPwrStatusHbLost [] = 1
    let t := s.setPower { s.power with hbAt := s.now.toNat }
    let t := if lost then
        let u := (t.setf .powerPwrStatusHbLost [] 0)
        (u.powerRecord u.powerState u.powerState 0).checkParkCap
      else t
    .next (t.vendorRsp ep 0x01 0 (leBytes 8 (t.rv .powerPwrStatus []).toNat ++ leBytes 8 (t.rv .powerSupply []).toNat))

/-! ### MCTP control (R567, R568) -/

/-- An MCTP control response: command, completion code, body. -/
def State.controlRsp (s : State) (ep cmd : Nat) (body : List Byte) : State :=
  s.emit (.mctp ep 0 (leBytes 1 cmd ++ [0] ++ body))

/-- The EID of an endpoint: 0 I3C, 1 CXL. -/
def Mgmt.eid (m : Mgmt) (ep : Nat) : Option Nat := if ep = 0 then m.eidI3c else m.eidCxl

/-- SET_ENDPOINT_ID (R567): the bus owner gives the endpoint its EID. -/
def execSetEndpointId (ep eid : Nat) (s : State) : Host.Outcome State Fault Refusal :=
  if s.controlUp ep ∧ ep < 2 then
    let m := s.mgmt
    let t := s.setMgmt (if ep = 0 then { m with eidI3c := some eid } else { m with eidCxl := some eid })
    .next (t.controlRsp ep 1 ([0] ++ leBytes 1 eid))
  else .next s

/-- GET_ENDPOINT_ID (R568): the EID, 0 while none is set. -/
def execGetEndpointId (ep : Nat) (s : State) : Host.Outcome State Fault Refusal :=
  if s.controlUp ep ∧ ep < 2 then .next (s.controlRsp ep 2 (leBytes 1 ((s.mgmt.eid ep).getD 0))) else .next s

/-- GET_MCTP_VERSION_SUPPORT (R568): the version entries that DSP0236 defines; the manual names no version number,
so the entries are a value it leaves open. -/
def execGetMctpVersionSupport (ep : Nat) (s : State) : Host.Outcome State Fault Refusal :=
  if s.controlUp ep ∧ ep < 2 then .next ((s.controlRsp ep 4 (leBytes 4 (Config.freeNat s.free))).fresh) else .next s

/-- GET_MESSAGE_TYPE_SUPPORT (R568): control, PLDM, SPDM and vendor defined; in recovery control and PLDM and vendor
defined. -/
def execGetMessageTypeSupport (ep : Nat) (s : State) : Host.Outcome State Fault Refusal :=
  if s.controlUp ep ∧ ep < 2 then
    .next (s.controlRsp ep 5 (if s.stage = 5 then [3, 0x00, 0x01, 0x7F] else [4, 0x00, 0x01, 0x05, 0x7F]))
  else .next s

/-- GET_VENDOR_DEFINED_MESSAGE_SUPPORT (R568, R569): the IANA enterprise number in HUB.ID. -/
def execGetVendorDefinedMessageSupport (ep : Nat) (s : State) : Host.Outcome State Fault Refusal :=
  if s.controlUp ep ∧ ep < 2 then .next (s.controlRsp ep 6 ([1] ++ leBytes 4 Config.enterprise.toNat)) else .next s

/-- I3C_DYNAMIC_ADDRESS (R567): ENTDAA or SETDASA. -/
def execI3cDynamicAddress (addr : Nat) (s : State) : Host.Outcome State Fault Refusal :=
  .next (s.setMgmt { s.mgmt with i3cAddr := some (addr % 128) })

/-! ### PLDM monitoring (R568) -/

-- Assumption log 40 (PRESUMED).
/-- A PLDM response: command, completion code, body. -/
def State.pldmRsp (s : State) (ep cmd code : Nat) (body : List Byte) : State :=
  s.emit (.mctp ep 1 (leBytes 1 cmd ++ leBytes 1 code ++ body))

/-- The sensors: 1 STATE, 2 STAGE, 3 voltage, 4 current, 5 power, 6 to 13 dies, 14 hub, 15 HBM, 16 limit. The manual
names the sensors and gives them no numbers. -/
def State.sensor (s : State) (n : Nat) : Nat :=
  if n = 1 then s.powerState
  else if n = 2 then s.stage
  else if n = 3 then s.fv .powerSupplyVIn []
  else if n = 4 then s.fv .powerSupplyIIn []
  else if n = 5 then s.fv .powerSupplyPIn []
  else if 6 ≤ n ∧ n ≤ 13 then getBits (s.rv .powerTemp0 []) (8 * (n - 6) + 7) (8 * (n - 6))
  else if n = 14 then s.fv .powerTemp1Hub []
  else if n = 15 then s.fv .powerTemp1Hbm []
  else if n = 16 then s.fv .powerPwrStatusLimitNow []
  else 0

/-- GET_SENSOR_READING (R568). -/
def execGetSensorReading (ep n : Nat) (s : State) : Host.Outcome State Fault Refusal :=
  if s.mgmtUp then .next (s.emit (.mctp ep 1 (leBytes 1 n ++ leBytes 4 (s.sensor n)))) else .next s

/-- SET_EVENT_RECEIVER (R568): the receiver is set, and the request answered. -/
def execSetEventReceiver (ep eid : Nat) (s : State) : Host.Outcome State Fault Refusal :=
  if s.mgmtUp then .next ((s.setMgmt { s.mgmt with receiver := some (ep, eid) }).pldmRsp ep 0x04 0 []) else .next s

/-! ### SPDM (R529): endpoint 2 is the DOE mailbox -/

-- Assumption log 159 (DEDUCED).
/-- SPDM is answered on an endpoint: over DOE always, over MCTP with POLICY.SPDM_MCTP (R529). -/
def State.spdmOn (s : State) (ep : Nat) : Bool :=
  s.mgmtUp && (decide (ep = 2) || s.fa .sealPolicySpdmMctp [] == 1)

/-- The running bank. -/
def State.bank (s : State) : FwBank := if s.mgmt.runB then s.mgmt.bankB else s.mgmt.bankA

/-- What the alias certificate of layer 1 or 2 measures of the running bank: digest and SVN (R528). -/
def FwBank.tcb1 (b : FwBank) : List Byte := leBytes 48 b.digest1 ++ leBytes 1 b.svn1
def FwBank.tcb2 (b : FwBank) : List Byte := leBytes 48 b.digest2 ++ leBytes 1 b.svn2

/-- The compound device identifiers of the firmware that runs (R528). -/
def State.cdi1 (s : State) : Nat := hmac384 Config.uds s.bank.tcb1
def State.cdi2 (s : State) : Nat := hmac384 (leBytes 48 s.cdi1) s.bank.tcb2

/-- The certificate chain of slot 0 (R528). -/
def State.certChain (s : State) : List Byte := Config.certChain s.cdi1 s.cdi2 (s.bank.tcb1 ++ s.bank.tcb2)

/-- The bytes that a signed response carries: its content and the signature of alias 2. -/
def State.signedRsp (s : State) (content : List Byte) : List Byte := content ++ Config.aliasSign s.cdi2 content

/-- An SPDM response, which alias 2 signs (R529). -/
def State.spdmRsp (s : State) (ep code : Nat) (content : List Byte) : State := s.emit (.spdm ep code (s.signedRsp content))

-- Assumption log 40 (PRESUMED).
/-- GET_CERTIFICATE (R528, R529): a part of the chain of slot 0. -/
def execGetCertificate (ep off len : Nat) (s : State) : Host.Outcome State Fault Refusal :=
  if s.spdmOn ep then .next (s.spdmRsp ep 0x82 ((s.certChain.drop off).take len)) else .next s

/-- CHALLENGE (R529): a response signed by alias 2 over the requester's nonce. -/
def execChallenge (ep : Nat) (nonce : List Byte) (s : State) : Host.Outcome State Fault Refusal :=
  if s.spdmOn ep then .next (s.spdmRsp ep 0x83 nonce) else .next s

-- Assumption log 44 (DEDUCED).
/-- The seven measurement blocks (R529). -/
def State.measurements (s : State) : List (List Byte) :=
  [leBytes 48 Config.romDigest,
   s.bank.tcb1,
   s.bank.tcb2,
   leBytes 2 s.sealUnit.fused,
   (match s.sealUnit.owner with | some k => leBytes 48 (keyDigest k) | none => List.replicate 48 0),
   s.sealUnit.pubs.flatMap (fun x => leBytes 16 (match x with | some e => e.keyId | none => 0)),
   leBytes 8 (s.ra .sealPolicy []).toNat ++ [0xB1]]

/-- GET_MEASUREMENTS (R529): the block of an index, or all of them for index 0xFF, signed. -/
def execGetMeasurements (ep index : Nat) (nonce : List Byte) (s : State) : Host.Outcome State Fault Refusal :=
  if s.spdmOn ep then
    let m := s.measurements
    let c := if index = 0xFF then m.flatten else if index = 0 then [BitVec.ofNat 8 m.length] else m.getD (index - 1) []
    .next (s.spdmRsp ep 0xE0 (c ++ nonce))
  else .next s

-- Assumption log 165 (DESIGN CHOICE).
/-- KEY_EXCHANGE (R529): opens one of up to four secured sessions; with four open it is answered with an error. The
session numbers are the model's. -/
def execKeyExchange (r : SessionReq) (s : State) : Host.Outcome State Fault Refusal :=
  if s.spdmOn r.endpoint then
    match firstBelow 4 (fun i => s.mgmt.sessions.all (fun e => e.1 ≠ i)) with
    | some i =>
      let t := s.setMgmt { s.mgmt with sessions := s.mgmt.sessions ++ [(i, 0, r.endpoint)] }
      .next (t.spdmRsp r.endpoint 0xE4 (leBytes 2 i ++ leBytes 64 (Config.trng t.free) ++ r.exchange)).fresh
    | none => .next (s.spdmRsp r.endpoint 0x7F [])
  else .next s

/-- KEY_UPDATE (R529): refreshes the keys of a session. -/
def execKeyUpdate (ep session : Nat) (s : State) : Host.Outcome State Fault Refusal :=
  if s.spdmOn ep ∧ s.mgmt.sessions.any (fun e => e.1 = session) then
    let t := s.setMgmt { s.mgmt with sessions := s.mgmt.sessions.map (fun e =>
      if e.1 = session then (e.1, e.2.1 + 1, e.2.2) else e) }
    .next (t.spdmRsp ep 0xE9 (leBytes 2 session))
  else .next s

/-- SPDM_HEARTBEAT (R529): keeps a session alive. -/
def execSpdmHeartbeat (ep session : Nat) (s : State) : Host.Outcome State Fault Refusal :=
  if s.spdmOn ep ∧ s.mgmt.sessions.any (fun e => e.1 = session) then
    .next (s.spdmRsp ep 0xE8 (leBytes 2 session))
  else .next s

/-! ### Firmware update (R578 to R580) -/

/-- An image is signed by the Umeisk key that is valid now: the primary key, and the reserve key once the fuse that revokes the
primary one is blown (R530). -/
def State.signedOk (s : State) (signer : Option Nat) : Bool :=
  signer == some (if s.sealUnit.primaryRevoked then Config.reserveKey else Config.primaryKey)

/-- The module requests the next 4 KiB of the update from its agent (R579): RequestFirmwareData with offset and length. -/
def State.requestData (s : State) : State :=
  match s.mgmt.update with
  | some u => s.emit (.mctp s.mgmt.agent 1 (leBytes 1 0x15 ++ leBytes 4 u.length ++ leBytes 4 4096))
  | none => s

-- Assumption log 158 (DEDUCED).
/-- REQUEST_UPDATE (R578, R579): starts an update and requests its first transfer, or is answered with ALREADY_IN_UPDATE_MODE (0x81 of
DSP0267). -/
def execRequestUpdate (ep : Nat) (s : State) : Host.Outcome State Fault Refusal :=
  if s.controlUp ep = false then .next s
  else if s.mgmt.update.isSome then .next (s.pldmRsp ep 0x10 0x81 [])
  else
    .next ((s.setMgmt { s.mgmt with update := some [], agent := ep, verified := false }).pldmRsp ep 0x10 0 []).requestData

/-- FIRMWARE_DATA (R579): up to 4 KiB of update data are written into the inactive bank; after a full transfer the next one is
requested. -/
def execFirmwareData (data : List Byte) (s : State) : Host.Outcome State Fault Refusal :=
  match s.mgmt.update with
  | some u =>
    let t := s.setMgmt { s.mgmt with update := some (u ++ data.take 4096) }
    .next (if 4096 ≤ data.length then t.requestData else t)
  | none => .next s

/-- The images of a bank (R578): boot firmware of up to 4 MiB, then runtime firmware of up to 20 MiB. -/
abbrev bootBytes : Nat := 4 * 2 ^ 20
abbrev runBytes : Nat := 20 * 2 ^ 20

-- Assumption log 158 (DEDUCED).
/-- VERIFY_COMPLETE (R530, R578, R579): checks each component by signature, SVN and size. `release` and the SVNs are what the image
headers hold, and `check` what the signature checks find. On failure the bank keeps its previous state and a FW_VERIFY record is
written. -/
def execVerifyComplete (ep : Nat) (release : Nat × Nat × Nat) (svn1 svn2 : Nat) (check : BankCheck) (s : State) :
    Host.Outcome State Fault Refusal :=
  match s.mgmt.update with
  | none => .next s
  | some u =>
    let one := s.signedOk check.boot && decide (s.sealUnit.fused ≤ svn1)
    let two := s.signedOk check.run && decide (s.sealUnit.fused ≤ svn2) && decide (u.length ≤ bootBytes + runBytes)
    if one && two then
      let b : FwBank := ⟨true, release, svn1, svn2, sha384 (u.take bootBytes), sha384 (u.drop bootBytes)⟩
      let m := { s.mgmt with verified := true }
      let m := if m.runB then { m with bankA := b } else { m with bankB := b }
      .next ((s.setMgmt m).pldmRsp ep 0x17 0 [])
    else
      let sig := s.signedOk (if one then check.run else check.boot)
      let t := s.bbWrite none 0x02 8 (payloadOf [(0, 1, if one then 2 else 1), (1, 1, bit01 sig),
        (2, 1, if one then svn2 else svn1)])
      .next ((t.setMgmt { t.mgmt with update := none, verified := false }).pldmRsp ep 0x17 1 [])

/-- A release in ASCII, for example "4.2.1" (R578). -/
def releaseText (r : Nat × Nat × Nat) : List Byte :=
  let num : Nat → List Byte := fun n => (Nat.toDigits 10 n).map (fun c => BitVec.ofNat 8 c.toNat)
  num r.1 ++ [0x2E] ++ num r.2.1 ++ [0x2E] ++ num r.2.2

/-- The entry of one component in the answer to GetFirmwareParameters: classification firmware (0x000A), identifier, active and
pending version (R578). -/
def componentEntry (ident : Nat) (active pending : List Byte) : List Byte :=
  leBytes 2 0x000A ++ leBytes 2 ident ++ leBytes 1 0 ++ leBytes 4 0 ++ leBytes 1 1 ++ leBytes 1 active.length ++
    leBytes 8 0 ++ leBytes 4 0 ++ leBytes 1 1 ++ leBytes 1 pending.length ++ leBytes 8 0 ++ leBytes 2 0 ++ leBytes 4 0 ++
    active ++ pending

/-- GET_FIRMWARE_PARAMETERS (R1, R578): the active and pending releases of the boot firmware (0x0001) and the runtime firmware
(0x0002). -/
def execGetFirmwareParameters (ep : Nat) (s : State) : Host.Outcome State Fault Refusal :=
  if s.controlUp ep then
    let other := if s.mgmt.runB then s.mgmt.bankA else s.mgmt.bankB
    let a := releaseText s.bank.release
    let b := if s.mgmt.pendingBank then releaseText other.release else []
    .next (s.pldmRsp ep 0x02 0 (leBytes 4 0 ++ leBytes 2 2 ++ leBytes 1 1 ++ leBytes 1 a.length ++ leBytes 1 1 ++
      leBytes 1 b.length ++ a ++ b ++ componentEntry 1 a b ++ componentEntry 2 a b))
  else .next s

end Sys2Proof.Machine
end

