-- ==== Sys2Proof/Machine/StartUp.lean ====
section
/-! DEFINITION. Domains, controlled stop, trip, reset, start-up and activation of firmware (R507, R508, R517, R518, R530,
R550, R556, R571 to R581). -/

namespace Sys2Proof.Machine

open Sys2Proof

/-! ### Domains (R20, R27, R507, R508) -/

/-- Returns the registers at some addresses to their reset values, in every copy (R27). -/
def State.resetWhere (s : State) (f : Nat → Bool) : State :=
  let keep : Tab Word → Tab Word := fun t => t.filter (fun e => !f e.1)
  s.setRegs ⟨keep s.regs.val, keep s.regs.act, keep s.regs.stg, keep s.regs.pnd⟩

-- Assumption log 111 (DEDUCED).
/-- An HBM tier whose die has lost its contents. -/
def Hbm.loseDie (h : Hbm) (d : Nat) : Hbm :=
  { h with
    cells := tabClear (tabClear h.cells (d * 2 ^ 39) ((d + 1) * 2 ^ 39)) (2 ^ 42 + d * 2 ^ 28) (2 ^ 42 + (d + 1) * 2 ^ 28)
    errs := tabClear (tabClear h.errs (d * 2 ^ 33) ((d + 1) * 2 ^ 33)) (2 ^ 36 + d * 2 ^ 22) (2 ^ 36 + (d + 1) * 2 ^ 22)
    tags := tabClear h.tags (d * 2 ^ 23) ((d + 1) * 2 ^ 23)
    dirty := h.dirty.filter (fun q => dieOfPage q != d)
    cache := tabClear h.cache (1024 * d) (1024 * d + 1024)
    acts := tabClear (tabClear h.acts (d * 2 ^ 27) ((d + 1) * 2 ^ 27)) (2 ^ 30 + d * 2 ^ 16) (2 ^ 30 + (d + 1) * 2 ^ 16)
    due := h.due.filter (fun e => dieOfRow e.1 != d)
    fixes := tabClear (tabClear h.fixes (d * 2 ^ 27) ((d + 1) * 2 ^ 27)) (2 ^ 30 + d * 2 ^ 16) (2 ^ 30 + (d + 1) * 2 ^ 16)
    spares := tabClear h.spares (d * 2 ^ 17) ((d + 1) * 2 ^ 17)
    scrubAt := tabClear h.scrubAt (4 * d) (4 * d + 4)
    logged := tabClear (tabClear h.logged (d * 2 ^ 33) ((d + 1) * 2 ^ 33)) (2 ^ 36 + d * 2 ^ 22) (2 ^ 36 + (d + 1) * 2 ^ 22)
    returns := tabClear h.returns (d * 2 ^ 23) ((d + 1) * 2 ^ 23) }

/-- The die edges of a fabric die (R28). -/
def edgesOf (d : Nat) : List Nat :=
  (List.range 10).filter (fun n =>
    if n < 6 then d == 4 * (n / 3) + n % 3 || d == 4 * (n / 3) + n % 3 + 1 else d == n - 6 || d == n - 2)

/-- The contents of a domain are lost, but for its registers (R508). -/
def State.loseContents (s : State) (d : Nat) : State :=
  if d < 16 then
    let q := s.traceQ.map (fun (q : Nat × List TraceRec) =>
      (q.1, q.2.filter (fun r => domainOfSite (bitsOf r.bits.toNat 76 64) != d)))
    ({ s with sites := s.sites.filter (fun e => domainOfSite e.1 != d),
              traceSeq := s.traceSeq.filter (fun e => domainOfSite (e.1 % 8192) != d) }).setTraceQ
      (q.filter (fun e => !e.2.isEmpty))
  else if d < 24 then
    let k := d - 16
    let t := s.setHbm (s.hbm.loseDie k)
    let t := if t.fv .hubD2dUp [k] = 1 then (t.setf .hubD2dUp [k] 0).setf .hubD2dWentDown [k] 1 else t
    (edgesOf k).foldl (fun u n =>
      if u.fv .hubEdgeMemUp [n] = 1 then (u.setf .hubEdgeMemUp [n] 0).setf .hubEdgeMemWentDown [n] 1 else u) t
  else if d < 40 then { s with ports := s.ports.filter (fun e => e.1 / 8 != d - 24) }
  else if d = 40 then
    let t := (s.setHost HostPort.reset)
    (List.range 32).foldl (fun u p => u.ledgerOff p) { t with hubWait := [] }
  else s.setFlash s.flash.powerOff

-- Assumption log 152 (DEDUCED).
/-- Switches a domain off (R27, R508). -/
def State.switchOff (s : State) (d : Nat) : State :=
  if s.domainOn d then
    let t := (s.loseContents d).resetWhere (fun a => domainOfAddr a == some d)
    let t := t.setv .powerDomainOn [] (putBits (t.rv .powerDomainOn []) d d 0)
    if d < 16 then t.setSupply d 0 else t
  else s

/-- Switches domains off. -/
def State.switchOffAll (s : State) (ds : List Nat) : State := ds.foldl State.switchOff s

-- Assumption log 111 (DEDUCED).
/-- Training codes of a die's stacks: 0 failed, 1 at 10 Gb/s, 2 at 8 Gb/s (R573 step 7, R574). -/
def State.trainDie (s : State) (k : Nat) (codes : List Nat) : State :=
  let t := (List.range 4).foldl (fun u i =>
    let c := codes.getD i 0
    (u.setf .hbmStackStatusTrained [k, i] (bit01 (c != 0))).setf .hbmStackStatusSlow [k, i] (bit01 (c == 2))) s
  if (List.range 4).any (fun i => codes.getD i 0 == 0) then
    t.setv .hubBoot [] (putBits (t.rv .hubBoot []) (40 + k) (40 + k) 1)
  else t

/-- Links of an edge (R28). -/
def linksOf (edge : Nat) : Nat := if edge < 6 then 24 else 32

/-- The self-test of the switch links at a die's edges (R30): a link that fails stays disabled until the next start-up. `codes` holds the
links that fail, by edge of the die. -/
def State.testEdges (s : State) (die : Nat) (codes : List Nat) : State :=
  (edgesOf die).zipIdx.foldl (fun t e =>
    t.setf .hubEdgeSwFail [e.1] (t.fv .hubEdgeSwFail [e.1] ||| codes.getD e.2 0 % 2 ^ linksOf e.1)) s

-- Assumption log 148 (DEDUCED).
/-- A domain becomes usable (R508): the switch links of a half-die are tested, HBM trains, enabled ports leave DARK unless a dark park
holds them (R516), the library mounts. `codes` holds the links that fail at the edges of a half-die's die, the training codes of a die's
four stacks, or DIES_OK of the 64 flash channels. -/
def State.domainUsable (s : State) (d : Nat) (codes : List Nat) : State :=
  let t := s.setv .powerDomainOn [] (putBits (s.rv .powerDomainOn []) d d 1)
  let dark := s.powerState == 2 && s.fa .powerBrakeCfgParkDark [] == 1
  if d < 16 then (t.testEdges (d / 2) codes).setSupply d (if t.power.retention then 0xFE else t.lowSupply)
  else if d < 24 then t.trainDie (d - 16) codes
  else if d < 40 then
    (List.range 8).foldl (fun u i =>
      let q := 8 * (d - 24) + i
      if !dark && u.portState q == 0 && u.fa .opticPortCtlEnable (portIx q) == 1 then u.enterPort q 1 else u) t
  else if d = 40 then t
  else t.mountLibrary codes

-- Assumption log 111 (DEDUCED).
/-- DOMAIN_USABLE (R508): a domain that a commit has switched on is usable and holds reset values. -/
def execDomainUsable (d : Nat) (codes : List Nat) (s : State) : Host.Outcome State Fault Refusal :=
  if d < 42 ∧ s.domainOn d = false ∧ (s.ra .powerDomainEn []).toNat.testBit d ∧ s.powerState < 3 ∧
      s.power.inReset = false then .next (s.domainUsable d codes)
  else .next s

/-! ### Stop, trip, reset, loss of power (R517, R518, R556, R571) -/

-- Assumption log 138 (DEDUCED), 149 (DEDUCED).
/-- Every partition ends with the domains: steps, sequences, pages and keys are lost, and no completion is written (R517,
R518, R539, R577). -/
def State.loseParts (s : State) : State :=
  let t := (List.range 32).foldl (fun u p =>
    (((u.setf .partStatusActive [p] 0).setv .partKillState [p] 0).setv .partPlateState [p] 0).setv .partPlateEdition [p] 0) s
  let ps : Tab Part := t.parts.map (fun (e : Nat × Part) => (e.1, { Part.reset with faultQ := e.2.faultQ }))
  let t := { t with parts := ps.filter (fun e => e.2 != Part.reset), seqs := [], blocks := [], dir := [], hubWait := [], hubMsgs := [], hubOut := [],
                    swapPath := [] }
  t.setSeal { t.sealUnit with swapKeys := [] }

-- Assumption log 149 (DEDUCED).
/-- CONTROLLED_STOP (R517): the input fell below 30 V (trigger 0), or below 36 V for 2 ms (1). While no domain is on a
falling input causes no stop (R581). -/
def execControlledStop (trigger : Nat) (s : State) : Host.Outcome State Fault Refusal :=
  if 3 ≤ s.powerState ∨ s.rv .powerDomainOn [] = 0 then .next s
  else
    let t := (s.setf .powerPwrStatusState [] 3).loseParts.switchOffAll (List.range 41)
    let t := t.bbWrite none 0x11 5 (payloadOf [(0, 2, s.power.vMin), (2, 1, trigger % 2)])
    let t := t.drainBBox
    let t := (t.setBBox t.bbox.save).switchOffAll [41]
    .next ((t.setMgmt { t.mgmt with cause := 2 }).platformEvent 1 3)

-- Assumption log 149 (DEDUCED).
/-- HARDWARE_TRIP (R518): a junction of a die (0 to 7) or of the hub (8) passed 115 degrees C: every switched domain goes
off, and the TRIP record and those queued are written. -/
def execHardwareTrip (source junction : Nat) (s : State) : Host.Outcome State Fault Refusal :=
  if s.powerState = 4 then .next s
  else
    let t := (s.setf .powerPwrStatusState [] 4).loseParts.switchOffAll (List.range 42)
    let t := (t.bbWrite none 0x12 6 (payloadOf [(0, 1, source), (1, 1, junction)])).drainBBox
    let temps := (t.power.temps ++ List.replicate 9 0).take 9 |>.set source junction
    let t := t.setPower { t.power with temps := temps, tripCleared := false }
    .next ((t.setMgmt { t.mgmt with cause := 3 }).platformEvent 1 4)

/-- MOD_RESET_N_ASSERT (R571, R514): units halt and every switched domain goes off until the release; no STOP record. In
TRIP the assertion counts only where every junction lies below 90 degrees C. -/
def execModResetNAssert (s : State) : Host.Outcome State Fault Refusal :=
  let t := s.loseParts.switchOffAll (List.range 42)
  let cool := t.power.temps.all (fun c => decide (c < 90))
  let t := t.setPower { t.power with inReset := true, tripCleared := s.powerState == 4 && cool }
  .next (if s.powerState = 4 then t else t.setMgmt { t.mgmt with cause := 1 })

/-- The black box after its power has ended (R547, R555): what waited is lost. -/
def BBox.powerOff (b : BBox) : BBox := { b with queue := [], lostNow := 0, nextSeq := b.head }

/-- The management state that the firmware store keeps (R578). -/
def Mgmt.keep (m : Mgmt) : Mgmt :=
  { Mgmt.reset with bankA := m.bankA, bankB := m.bankB, runB := m.runB, pendingBank := m.pendingBank, update := m.update,
                    agent := m.agent, verified := m.verified, cause := m.cause }

/-- ALL_POWER_LOST (R556): the writer completes the record in progress, and the always-on domain ends. What lies in MRAM, in
the seal unit's storage and fuses, in flash and in the firmware store stays. -/
def execAllPowerLost (s : State) : Host.Outcome State Fault Refusal :=
  let b := match s.bbReady, s.bbox.queue with
    | true, e :: _ => s.bbox.write e.1 e.2
    | _, _ => s.bbox
  .next { State.reset with
    pending := s.pending, out := s.out, free := s.free, bbox := b.powerOff, flash := s.flash.powerOff,
    sealUnit := { s.sealUnit with swapKeys := [], trngFail := false }, mgmt := { s.mgmt.keep with cause := 0 } }

/-! ### Start-up (R573 to R576, R579, R580) -/

/-- Firmware of a bank passes R530 under what its signature checks find. -/
def State.bankOk (s : State) (b : FwBank) (c : BankCheck) : Bool :=
  b.valid && s.signedOk c.boot && s.signedOk c.run && decide (s.sealUnit.fused ≤ b.svn1) && decide (s.sealUnit.fused ≤ b.svn2)

/-- The FW_VERIFY record of a bank that fails (R553). -/
def State.fwFailed (s : State) (b : FwBank) (c : BankCheck) : State :=
  let one := !(b.valid && s.signedOk c.boot) || decide (b.svn1 < s.sealUnit.fused)
  let svn := if one then b.svn1 else b.svn2
  let low := if one then b.valid && s.signedOk c.boot else s.signedOk c.run
  s.bbWrite none 0x02 8 (payloadOf [(0, 1, if one then 1 else 2), (1, 1, bit01 low), (2, 1, svn)])

/-- The black box is mounted (R550): READY, the newest SEQ, the boot count. -/
def State.mountBBox (s : State) : State :=
  (s.setBBox { s.bbox.mount with boots := s.bbox.boots + 1 }).showBBox.setf .bboxBbStateReady [] 1

/-- The BOOT record (R553). -/
def State.bootRecord (s : State) (recovery : Bool) : State :=
  let r := if recovery then (0, 0, 0) else s.bank.release
  s.bbWrite none 0x01 0 (payloadOf [(0, 1, r.1), (1, 1, r.2.1), (2, 1, r.2.2), (4, 1, s.mgmt.cause),
    (5, 1, bit01 recovery), (6, 1, s.svns.2), (8, 8, s.bbox.boots)])

/-- HUB.FW shows the running release, and an activated update that waits. -/
def State.showFw (s : State) (recovery : Bool) : State :=
  let r := if recovery then (0, 0, 0) else s.bank.release
  (((s.setf .hubFwMajor [] r.1).setf .hubFwMinor [] r.2.1).setf .hubFwPatch [] r.2.2).setf .hubFwPending []
    (bit01 s.mgmt.pendingBank)

-- Assumption log 151 (DEDUCED).
/-- Start-up may begin: at power good, at the release of reset, or after a controlled stop; out of TRIP only after a reset
that counted (R514, R571, R573). -/
def State.canStart (s : State) : Bool :=
  (s.fv .hubBootStage [] == 0 || s.power.inReset || s.powerState == 3) &&
    (s.powerState != 4 || (s.power.inReset && s.power.tripCleared))

-- Assumption log 21 (DESIGN CHOICE), 151 (DEDUCED).
/-- The always-on domain as a start-up finds it (R571): registers at their reset values, and what storage keeps. An update
cut short leaves its bank invalid (R580). -/
def State.restart (s : State) : State :=
  let m := s.mgmt
  let cut := m.update.isSome
  let m := if cut then (if m.runB then { m with bankA := { m.bankA with valid := false } }
    else { m with bankB := { m.bankB with valid := false } }) else m
  { State.reset with
    pending := s.pending, out := s.out, free := s.free, bbox := s.bbox, flash := s.flash,
    sealUnit := { s.sealUnit with swapKeys := [] }, mgmt := { m.keep with update := none, verified := false } }

-- Assumption log 158 (DEDUCED).
/-- START_UP, steps 1 to 5 of R573: mount of the black box, choice and check of the firmware, BOOT record, management. `a`
and `b` are what the signature checks of the two banks find. -/
def execStartUp (a b : BankCheck) (s : State) : Host.Outcome State Fault Refusal :=
  if s.canStart = false then .next (s.setPower { s.power with inReset := false })
  else
    let t := s.restart
    let t := (t.setf .hubIdEnterprise [] Config.enterprise.toNat).setf .hubIdStepping [] 0xB1
    let t := t.mountBBox.setf .hubBootResetCause [] s.mgmt.cause
    let m := t.mgmt
    let pick : Bool → FwBank × BankCheck := fun inB => if inB then (m.bankB, b) else (m.bankA, a)
    let first := if m.pendingBank then !m.runB else m.runB
    let f := pick first
    let g := pick (!first)
    let ok1 := t.bankOk f.1 f.2
    let ok2 := t.bankOk g.1 g.2
    let t := if ok1 then t else t.fwFailed f.1 f.2
    let t := if ok1 || ok2 then t else t.fwFailed g.1 g.2
    let run := if ok1 then first else if ok2 then !first else m.runB
    let t := t.setMgmt { t.mgmt with runB := run, pendingBank := false }
    let t := (t.setf .hubBootBank [] (bit01 run)).setf .hubBootFallback [] (bit01 (m.pendingBank && !ok1 && ok2))
    let dead := !ok1 && !ok2
    .next (((t.showFw dead).bootRecord dead).setStage (if dead then 5 else 2))

/-- Every bit of DOMAIN_EN that names a domain. -/
abbrev allDomains : Word := BitVec.ofNat 64 (2 ^ 42 - 1)

-- Assumption log 41 (DESIGN CHOICE).
/-- ms since step 1 of start-up, saturating. -/
def State.bootMs (s : State) : Nat := min (2 ^ 32 - 1) ((s.now.toNat - s.mgmt.startAt) / 16000000)

-- Assumption log 41 (DESIGN CHOICE), 152 (DEDUCED), 160 (DEDUCED).
/-- MAIN_INPUT_STABLE, steps 6, 7, 9 and 10 of R573: the domains go on, stacks train, memory links and switch links are
tested, the library mounts, and with a passed TRNG health test the module is READY. `training` holds 32 training codes,
`edgeFail` SW_FAIL of the ten edges, of 24 links or of 32 (R28), `dies` DIES_OK of the flash channels. In recovery the host port alone is powered
(R576). -/
def execMainInputStable (training edgeFail dies : List Nat) (trngOk : Bool) (s : State) :
    Host.Outcome State Fault Refusal :=
  let stage := s.fv .hubBootStage []
  if s.power.inReset ∨ 3 ≤ s.powerState then .next s
  else if stage = 5 then .next (s.setv .powerDomainOn [] (putBits (s.rv .powerDomainOn []) 40 40 1))
  else if stage ≠ 2 then .next s
  else
    let t := (s.setAll .powerDomainEn [] allDomains).setStage 3
    let t := t.domainUsable 41 dies
    let t := t.domainUsable 40 []
    let t := (List.range 8).foldl (fun u k => u.domainUsable (16 + k) ((training.drop (4 * k)).take 4)) t
    let t := (List.range 10).foldl (fun u n =>
      (u.setf .hubEdgeMemUp [n] 1).setf .hubEdgeSwFail [n] (edgeFail.getD n 0 % 2 ^ linksOf n)) t
    let t := (List.range 16).foldl (fun u d => u.domainUsable d []) t
    let t := (List.range 16).foldl (fun u e => u.domainUsable (24 + e) []) t
    let t := (t.setSeal { t.sealUnit with trngFail := !trngOk }).setf .sealStatusTrngFail [] (bit01 (!trngOk))
    if trngOk then .next ((t.setf .hubBootReadyMs [] t.bootMs).setStage 4) else .next t

-- Assumption log 40 (PRESUMED), 160 (DEDUCED).
/-- ACTIVATE_FIRMWARE (R579, R576): the verified update becomes the pending bank for the next start-up; in recovery the
module restarts at once. Self-contained activation is not permitted. -/
def execActivateFirmware (ep : Nat) (selfContained : Bool) (s : State) : Host.Outcome State Fault Refusal :=
  if s.controlUp ep = false then .next s
  else if s.mgmt.update.isNone then .next (s.pldmRsp ep 0x1A 0x80 [])
  else if s.mgmt.verified = false then .next (s.pldmRsp ep 0x1A 0x84 [])
  else if selfContained then .next (s.pldmRsp ep 0x1A 0x8C [])
  else
    let t := s.setMgmt { s.mgmt with update := none, verified := false, pendingBank := true }
    let t := (t.setf .hubFwPending [] 1).pldmRsp ep 0x1A 0 []
    .next (if s.fv .hubBootStage [] = 5 then t.setStage 0 else t)

end Sys2Proof.Machine
end

