-- ==== Sys2Proof/Machine/View.lean ====
section
/-! DEFINITION. What a read of a register of BAR0 returns (R10 to R15, R26, R27): the stored copies, and the registers
whose value another part of the state holds. -/

namespace Sys2Proof.Machine

open Sys2Proof

/-! ### Registers that show other state -/

/-- The position fields of SITE.ID (R75, R110). -/
def sitePosition (i : Nat) : Nat :=
  let x := i % 128
  let y := i / 128
  bit01 (isMu i) * 2 ^ 30 + (y / 8 * 16 + x / 8) * 2 ^ 16 + dieOf i * 2 ^ 13 + y * 2 ^ 7 + x

-- Assumption log 164 (DEDUCED).
/-- ENGINE_e of a memory unit (R223), with the cause it waits for while the unit stalls (R65, R218). -/
def Engine.view (x : Engine) (cause : Nat) : Nat :=
  if x.active then
    2 ^ 63 + bit01 x.armWait * 2 ^ 62 + cause % 8 * 2 ^ 59 + x.desc % 128 * 2 ^ 52 +
      (x.sent + x.low) % 2 ^ 16 * 2 ^ 36 + min 32 (outstanding x)
  else 0

/-- CREDIT_w of a memory unit: module, VALID and credits of the window that the front plate defines (R215, R223). -/
def Site.creditView (x : Site) (w : Nat) : Nat :=
  let e := tabGet (fun _ => 0) x.front.rwin w
  if bitOf e 15 then e % 2 ^ 12 * 2 ^ 52 + 2 ^ 51 + x.mu.credits.getD w 0 % 2 ^ 20 else 0

/-- SEM_s of a memory unit (R223). -/
def Mu.semView (x : Mu) (k : Nat) : Nat :=
  min 255 (tabGet (fun _ => []) x.waiters k).length * 2 ^ 20 + tabGet (fun _ => 0) x.sems k % 2 ^ 20

/-- LEDGER_STATE: what the serving engine stores, with FIRING, ADMITTED and CURRENT (R291). -/
def State.ledgerView (s : State) (p : Nat) : Word :=
  let x := s.part p
  let cur := match x.firing, x.admitted with
    | some y, _ => y.entry.idx
    | none, some y => y.entry.idx
    | none, none => 0
  putBits (putBits (putBits (s.rv .serveLedgerState [p]) 63 63 (bit01 x.firing.isSome)) 62 62 (bit01 x.admitted.isSome))
    43 32 cur

/-- SCHED_STATE: LAST, with the ready set (R280, R291). -/
def State.schedView (s : State) : Word :=
  putBits (s.rv .serveSchedState []) 63 32 (s.readySet.foldl (fun n p => n + 2 ^ p) 0)

-- Assumption log 107 (DEDUCED).
/-- The pass of a route word that the dispatcher owes; none for a weight list or a marker (R339, R340). -/
def routePass (o : Operand) : Option Nat :=
  if o.eos || o.words.length != 1 then none else some ((o.words.headD 0).toNat / 2 ^ 8 % 2 ^ 8)

-- Assumption log 107 (DEDUCED).
/-- DISPATCH_STATE: the layer that is being decided or whose operands still leave the dispatcher; its deferred pass is in progress
once no route word of the main pass is left (R339, R355). -/
def State.dispatchView (s : State) (p : Nat) : Nat :=
  let d := (s.part p).disp
  let n := if d.turn = 0 then d.layer - 1 else d.layer
  let layer := match (s.part p).firing with
    | some x => match s.resident x.edition with
      | some e => (e.rlayer n).layer
      | none => 0
    | none => 0
  let words := d.owed.filterMap (fun o => if o.2.1 = 6 then routePass o.2.2 else none)
  let later := words.contains 1 && !words.contains 0
  if d.turn = 0 ∧ d.sending = false then 0
  else 2 ^ 63 + bit01 later * 2 ^ 62 + n % 256 * 2 ^ 8 + layer % 256

/-- CMD_QUEUE: OVERFLOW, with the counts of the queue and of the result FIFO (R411). -/
def State.queueView (s : State) : Word :=
  let f := s.flash
  let r := f.results.length
  putBits (putBits (putBits (putBits (s.rv .flashCmdQueue []) 11 8 r) 7 7 (bit01 (decide (16 ≤ r)))) 6 5 f.running.length)
    3 0 f.queue.length

/-- CMD_RESULT: the oldest result (R411). -/
def Flash.resultView (f : Flash) : Nat :=
  match f.results with
  | (c, code, detail) :: _ =>
    c.token % 2 ^ 16 * 2 ^ 48 + code % 256 * 2 ^ 40 + c.op % 16 * 2 ^ 36 + 2 ^ 35 + detail % 2 ^ 32
  | [] => 0

/-- EDINFO1 of a library slot (R411). -/
def Edition.info (e : Edition) : Nat :=
  if e.state = 0 then 0 else
    e.state % 8 * 2 ^ 61 + bit01 e.degraded * 2 ^ 60 + (if e.state = 4 then e.sets.length + 1 else 0) % 2 ^ 14 * 2 ^ 40 +
      ((extentsOf e.manifest).foldl (fun n x => if x.placed then n + x.pages else n) 0) % 2 ^ 27

/-- SEAL_STATUS: TRNG_FAIL, with the owner and the publisher slots (R543). -/
def State.sealView (s : State) : Word :=
  let u := s.sealUnit
  let slots := (List.range 16).foldl (fun n i => n + bit01 (u.pubs.getD i none).isSome * 2 ^ i) 0
  putBits (putBits (putBits (s.rv .sealStatus []) 63 63 (bit01 u.owner.isSome)) 61 61 (bit01 u.primaryRevoked)) 15 0 slots

/-- KEY_ID of the publisher slot that PUB_SEL names; zero for an empty slot (R543). -/
def State.pubView (s : State) : Nat :=
  match s.sealUnit.pubs.getD (getBits (s.rv .sealPubSel []) 3 0) none with
  | some k => k.keyId
  | none => 0

/-- ms since the last heartbeat, saturating (R524). -/
def State.heartbeatMs (s : State) : Nat := min (2 ^ 32 - 1) ((s.now.toNat - s.power.hbAt) / 16000000)

/-- The oldest record of the FAULT_REC queue; zero when it is empty (R502). -/
def State.faultView (s : State) (p : Nat) : Nat :=
  match (s.part p).faultQ with
  | r :: _ => r.pack
  | [] => 0

-- Assumption log 110 (DEDUCED).
/-- A register whose value, or part of it, another part of the state holds; none for every other one. -/
def State.derived (s : State) (r : Rg) (ix : List Nat) : Option Word :=
  let i := ix.getD 0 0
  let j := ix.getD 1 0
  let n : Nat → Option Word := fun x => some (BitVec.ofNat 64 x)
  match r with
  | .timeNow => some s.now
  | .timePnow => n (s.pnow i)
  | .timeTracePtr =>
    let size := s.fa .timeTraceCtlSize [i] * 2048
    if s.fa .timeTraceCtlMode [i] = 1 ∧ s.fv .timeTracePtrNext [i] = size then
      some (putBits (s.rv r ix) 31 0 0)
    else none
  | .siteId => some (s.rv .siteId ix ||| BitVec.ofNat 64 (sitePosition i))
  | .siteEngine => n (if isMu i then (s.engine i j).view (if s.fv .siteStateStalled [i] = 1 then s.engineCause i j else 0) else 0)
  | .siteCredit => n (if isMu i then (s.site i).creditView j else 0)
  | .siteSem => n (if isMu i then (s.site i).mu.semView j else 0)
  | .serveSchedState => some s.schedView
  | .serveDeficit => some (BitVec.ofInt 64 (s.part i).deficit)
  | .serveLedgerState => some (s.ledgerView i)
  | .servePoolState => n ((s.freeList i).length * 2 ^ 32 + s.dirtyCountOf i)
  | .servePoolUse => n (s.usable i * 2 ^ 32 + s.dirOnlyPages i)
  | .serveDispatchState => n (s.dispatchView i)
  | .hbmId => n (i * 2 ^ 16 + 0x4000)
  | .hbmUeLog => some (if getBits (s.rv r ix) 63 63 = 1 then s.rv r ix else putBits (s.rv r ix) 7 0 0)
  | .flashCmdQueue => some s.queueView
  | .flashCmdResult => n s.flash.resultView
  | .flashEdinfo0 =>
    let e := s.flash.slot (s.fv .flashEdselSlot [])
    n (if e.state = 0 then 0 else leAt e.manifest 12 4 * 2 ^ 32 + e.id % 2 ^ 32)
  | .flashEdinfo1 => n (s.flash.slot (s.fv .flashEdselSlot [])).info
  | .hostSwapState => n ((s.part i).swapSlots.length * 2 ^ 32 + (s.part i).swapFrames.length)
  | .opticEngId => n (i + i / 2 * 2 ^ 4)
  | .opticPortDelay => some (Config.portDelay (8 * i + j) &&& 0xFFFFFFFF)
  | .partFaultRec => n (s.faultView i >>> (64 * j))
  | .partFaultQueue => some (putBits (s.rv r ix) 4 0 (s.part i).faultQ.length)
  | .partDbgData => n (if (s.part i).dbg.unlocked then (s.part i).dbg.data.toNat >>> (64 * j) else 0)
  | .powerHeartbeat => n s.heartbeatMs
  | .sealSvnState => n (s.sealUnit.fused % 2 ^ 9 * 2 ^ 32 + s.svns.2 % 256 * 2 ^ 16 + s.svns.1 % 256)
  | .sealStatus => some s.sealView
  | .sealNonce => n s.sealUnit.nonce
  | .sealPubId0 => n s.pubView
  | .sealPubId1 => n (s.pubView >>> 64)
  | _ => none

-- Assumption log 8 (DESIGN CHOICE).
/-- What a read returns (R12, R15): zero for a WO register, the value last written for RWS fields whether committed or
not, the current value for every other field, zero for reserved bits. The owner register of a compute site reads zero
(R223). -/
def State.view (s : State) (r : Rg) (ix : List Nat) : Word :=
  if r.spec.wo then 0
  else match s.derived r ix with
    | some w => w
    | none =>
      let m := BitVec.ofNat 64 r.spec.rws
      let w := (s.rv r ix &&& ~~~m) ||| (s.rs r ix &&& m)
      if r = .siteMuBankOwn ∧ isMu (ix.getD 0 0) = false then 0 else w

/-! ### Blocks without power, and groups of partitions (R27, R29, R69, R289, R323, R355, R442) -/

/-- The partition whose HOST, SERVE or TIME group holds an address. -/
def groupOf (a : Nat) : Option Nat :=
  if 0x11000 ≤ a ∧ a < 0x12000 then some ((a - 0x11000) / 0x80)
  else if 0x101000 ≤ a ∧ a < 0x103000 then some ((a - 0x101000) / 0x100)
  else if 0x3001000 ≤ a ∧ a < 0x3003000 then some ((a - 0x3001000) / 0x100)
  else if 0x3004000 ≤ a ∧ a < 0x3005000 then some ((a - 0x3004000) / 0x80)
  else if 0x3006000 ≤ a ∧ a < 0x3007000 then some ((a - 0x3006000) / 0x80)
  else none

/-- The address lies in the group of a partition that is not formed. -/
def State.groupClosed (s : State) (a : Nat) : Bool :=
  match groupOf a with
  | some p => !s.formed p
  | none => false

-- Assumption log 15 (DEDUCED).
/-- A naturally aligned access of 64 or 32 bits within BAR0 (R10, R11). -/
def accessOk (a width : Nat) : Bool :=
  decide (a < 2 ^ 28) && ((width == 64 && a % 8 == 0) || (width == 32 && a % 4 == 0))

-- Assumption log 8 (DESIGN CHOICE), 15 (DEDUCED).
/-- A read of BAR0 (R11, R12, R26, R27): the state after it, which changes only where the access misses, and the value. The
table has no row for a host read; REG_READ performs one. -/
def State.readReg (s : State) (a width : Nat) : State × Word :=
  if accessOk a width = false then (s, 0)
  else match s.missed a with
    | some d => (s.noteMiss a d, 0)
    | none =>
      if s.groupClosed a then (s, 0)
      else match regAt (a / 8 * 8) with
        | none => (s, 0)
        | some (r, ix) =>
          let w := s.view r ix
          (s, if width = 64 then w else BitVec.ofNat 64 (getBits w (8 * (a % 8) + 31) (8 * (a % 8))))

end Sys2Proof.Machine
end

