-- ==== Sys2Proof/Machine/CommitChecks.lean ====
section
/-! DEFINITION. The consistency checks of a commit, block by block, over the pending copy (R34, R35): each function gives
the number of the first check that fails. -/

namespace Sys2Proof.Machine

open Sys2Proof

/-! ### Shared -/

/-- Two ranges, each by start and length, share a number. -/
def meets (a b : Nat × Nat) : Bool :=
  decide (0 < a.2) && decide (0 < b.2) && decide (a.1 < b.1 + b.2) && decide (b.1 < a.1 + a.2)

/-- Some two ranges of a list share a number. -/
def someMeet : List (Nat × Nat) → Bool
  | [] => false
  | a :: t => t.any (meets a) || someMeet t

/-- The formed partitions. -/
def State.formedParts (s : State) : List Nat := (List.range 32).filter s.formed

/-- Some two partitions of a list satisfy a relation, in ascending order. -/
def anyPair (f : Nat → Nat → Bool) : List Nat → Bool
  | [] => false
  | a :: t => t.any (f a) || anyPair f t

/-- A range of page-tiles of partition address lies wholly in HBM page-tiles of pinned segments tagged for the partition
(R427). -/
def State.ownsTiles (s : State) (p first n : Nat) : Bool :=
  (List.range n).all (fun i => match s.segmentOf p (first + i) with
    | some k => match s.segment p k, tabGet (fun _ => none) (s.part p).map (first + i) with
      | some (_, _, _, true, _), some m => s.hbm.tag m == ownedTag p
      | _, _ => false
    | none => false)

/-! ### TIME, POWER, SEAL, BBOX, HBM, OPTIC (R71, R525, R544, R563, R380, R480) -/

/-- A reference code that TIME.REF may hold. -/
def refListed (n : Nat) : Bool := decide (n ≤ 0x80) || n == 0xFF

/-- The checks of R71. -/
def State.timeChecks (s : State) : Option Nat :=
  let src := s.fp .timeRefSrc []
  let alt := s.fp .timeRefAlt []
  let bad := fun n => decide (n < 0x80) && (!s.domainOn (24 + n / 8) || !s.portUp n)
  let on := s.formedParts.filter (fun p => s.fp .timeTraceCtlEnable [p] == 1)
  let base := fun p => (s.rp .timeTraceBase [p]).toNat
  firstFail [
    (1, !refListed src || !refListed alt || src == 0xFF),
    (2, src == alt),
    (3, bad src || bad alt),
    (4, on.any (fun p => s.fp .timeTraceCtlSize [p] == 0 || base p % 65536 != 0)),
    (5, on.any (fun p => !s.ownsTiles p (base p / 65536) (s.fp .timeTraceCtlSize [p])))]

-- Assumption log 144 (DEDUCED).
/-- A commit of DOMAIN_EN clears a domain. -/
def State.clears (s : State) (d : Nat) : Bool :=
  (s.ra .powerDomainEn []).toNat.testBit d && !(s.rp .powerDomainEn []).toNat.testBit d

-- Assumption log 144 (DEDUCED).
/-- The checks of R525. -/
def State.powerChecks (s : State) : Option Nat :=
  let out := fun (n lo hi : Nat) => decide (n < lo) || decide (hi < n)
  let brake := s.fp .powerBrakeCfgBrakeLevel []
  let park := s.fp .powerBrakeCfgParkBelow []
  let held := fun d => s.hbm.tags.any (fun e => dieOfPage e.1 == d && decide (2 ≤ tagKind e.2))
  firstFail [
    (1, out (s.fp .powerCapLimit []) 200 920 || out (s.fp .powerBrakeCfgSafeCap []) 200 920 || out park 200 400 ||
      out brake park 920),
    (2, out (s.fp .powerFabricVmaxCode []) 10 80),
    (3, decide (2 ^ 42 ≤ (s.rp .powerDomainEn []).toNat)),
    (4, s.formedParts.any (fun p => (rectSites (s.rect p)).any (fun i => s.clears (domainOfSite i)))),
    (5, (List.range 8).any (fun k => s.clears (16 + k) &&
      (s.formedParts.any (fun p => (diesOf (s.rect p)).contains k) || held k))),
    (6, (List.range 16).any (fun e => s.clears (24 + e) &&
      (List.range 8).any (fun q => s.fa .opticPortCtlEnable [e, q] == 1))),
    (7, (s.clears 40 && (List.range 32).any (fun p => s.fa .hostLedgerCtlEnable [p] == 1)) ||
      (s.clears 41 && (!s.flash.queue.isEmpty || !s.flash.running.isEmpty)))]

-- Assumption log 16 (DEDUCED).
/-- The check of R544: the pending copy keeps the reserved bits that were written. -/
def State.sealChecks (s : State) : Option Nat := firstFail [(1, decide (4 ≤ (s.rp .sealPolicy []).toNat))]

-- Assumption log 16 (DEDUCED).
/-- The check of R563. -/
def State.bboxChecks (s : State) : Option Nat := firstFail [(1, s.rp .bboxBbCtl [] &&& ~~~(0x1FE : Word) != 0)]

/-- The checks of R380; the fused maximum of THRESHOLD is 0x4000 (R379). -/
def State.hbmChecks (s : State) (d : Nat) : Option Nat :=
  let n := s.fp .hbmScrubCtlInterval [d]
  let t := s.fp .hbmRdistCtlThreshold [d]
  firstFail [
    (1, n == 0 || decide (2500 < n)),
    (2, decide (t < 256) || decide (0x4000 < t) || s.fp .hbmRdistCtlRadius [d] == 0)]

/-- A valid route of a partition, by destination, in a copy of its route table. -/
def routeIn (f : Nat → Word) (m : Nat) : Option Nat :=
  let b := getBits (f (m / 8)) (8 * (m % 8) + 7) (8 * (m % 8))
  if 128 ≤ b then some (b - 128) else none

/-- The active route table of a partition uses a port. -/
def State.routesUse (s : State) (p q : Nat) : Bool :=
  (List.range 4096).any (fun m => routeIn (fun n => s.ra .partRoute [p, n]) m == some q)

/-- The checks of R480. -/
def State.opticChecks (s : State) (e : Nat) : Option Nat :=
  let out := fun q => s.fp .opticPortCtlEnable [e, q] == 0 || s.fp .opticPortCtlTest [e, q] != 0
  firstFail [
    (1, (List.range 8).any (fun q => s.fp .opticPortCtlTest [e, q] == 3 || (s.fp .opticPortCtlAuditEn [e, q] == 1 &&
      (s.fp .opticPortCtlAuditPeriod [e, q] == 0 || s.fp .opticPortCtlAuditDwell [e, q] == 0)))),
    (2, (List.range 8).any (fun q => out q && s.formedParts.any (fun p => s.routesUse p (8 * e + q)))),
    (3, (List.range 8).any (fun q => out q &&
      (s.fa .timeRefSrc [] == 8 * e + q || s.fa .timeRefAlt [] == 8 * e + q)))]

/-! ### HOST (R443) -/

/-- A segment register pair in one copy: VALID, PIN, DIE, PAGES, BASE, HBM (R442). -/
structure SegRow where
  valid : Bool
  pin : Bool
  die : Nat
  pages : Nat
  base : Nat
  hbm : Nat
  deriving DecidableEq, Repr

/-- The segment that two registers spell. -/
def segRow (w h : Word) : SegRow :=
  ⟨w.getLsbD 63, w.getLsbD 62, getBits w 61 59, getBits w 58 32, getBits w 27 0, getBits h 26 0⟩

/-- Segment n of a partition in the active and in the pending copy. -/
def State.segOld (s : State) (p n : Nat) : SegRow := segRow (s.ra .hostSeg [p, n]) (s.ra .hostSegHbm [p, n])
def State.segNew (s : State) (p n : Nat) : SegRow := segRow (s.rp .hostSeg [p, n]) (s.rp .hostSegHbm [p, n])

/-- The valid segments of a partition in the pending copy. -/
def State.segsNew (s : State) (p : Nat) : List SegRow := ((List.range 8).map (s.segNew p)).filter (·.valid)

/-- The host areas of a group in the pending copy: ledger, ring and tail line (R443). -/
def State.ledgerAreas (s : State) (p : Nat) : List (Nat × Nat) :=
  [(s.fp .hostLedgerBaseAddr [p], 2 ^ 20), (s.fp .hostRingBaseAddr [p], 2 ^ 18), (s.fp .hostTailAddrAddr [p], 64)]

/-- The swap area and the backing area of a group in the pending copy; empty ones do not count (R428, R433, R443). -/
def State.swapAreas (s : State) (p : Nat) : List (Nat × Nat) :=
  let n := s.fp .hostSwapSlotsS [p]
  let mov := ((s.segsNew p).filter (fun g => !g.pin)).foldl (fun k g => k + g.pages) 0
  [(s.fp .hostSwapBaseAddr [p], 65536 * (n + ceilDiv n 512) + 1024 * n), (s.fp .hostBackBaseAddr [p], 65536 * mov)]

/-- Page-tiles of a die that the added segments need (R443, check 6). -/
def State.segNeed (s : State) (d : Nat) : Nat :=
  s.formedParts.foldl (fun k p => (List.range 8).foldl (fun k n =>
    let g := s.segNew p n
    if g.valid && !(s.segOld p n).valid && g.die == d then k + (if g.pin then g.pages else g.hbm) else k) k) 0

/-- A removed segment overlaps the group's active pool or its enabled trace ring (R443, check 5). -/
def State.segInUse (s : State) (p n : Nat) : Bool :=
  let g := s.segOld p n
  let ring := if s.fa .timeTraceCtlEnable [p] = 1 then
      ((s.ra .timeTraceBase [p]).toNat / 65536, s.fa .timeTraceCtlSize [p]) else (0, 0)
  g.valid && !(s.segNew p n).valid && (meets (g.base, g.pages) (s.fa .servePoolBase [p], s.fa .servePoolPages [p]) ||
    meets (g.base, g.pages) ring)

/-- The checks of R443. -/
def State.hostChecks (s : State) : Option Nat :=
  let ps := s.formedParts
  let on := ps.filter (fun p => s.fp .hostLedgerCtlEnable [p] == 1)
  let hdm : Nat × Nat := match s.host.hdmBase with
    | some b => (b, 2 ^ 49)
    | none => (0, 0)
  let pins := fun p => ((s.segsNew p).filter (·.pin)).foldl (fun k g => k + g.pages) 0
  let busy := fun p => s.swapAreas p ++ (if on.contains p then (s.ledgerAreas p).take 2 else [])
  firstFail [
    (1, ps.any (fun p =>
      s.fp .hostLedgerBaseAddr [p] % 4096 != 0 || s.fp .hostRingBaseAddr [p] % 4096 != 0 ||
      s.fp .hostTailAddrAddr [p] % 64 != 0 || s.fp .hostSwapBaseAddr [p] % 65536 != 0 ||
      s.fp .hostBackBaseAddr [p] % 65536 != 0 || (s.ledgerAreas p ++ s.swapAreas p).any (meets hdm))),
    (2, someMeet (on.flatMap s.ledgerAreas)),
    (3, ps.any (fun p => (s.segsNew p).any (fun g =>
      g.pages == 0 || decide (0x8000000 < g.base + g.pages) ||
        (if g.pin then g.hbm != 0 else g.hbm == 0 || decide (g.pages < g.hbm))) ||
      someMeet ((s.segsNew p).map (fun g => (g.base, g.pages))))),
    (4, ps.any (fun p => (List.range 8).any (fun n =>
      (s.segOld p n).valid && (s.segNew p n).valid && s.segOld p n != s.segNew p n))),
    (5, ps.any (fun p => (List.range 8).any (s.segInUse p))),
    (6, (List.range 8).any (fun d => (s.takeFree d (s.segNeed d)).isNone)),
    (7, ps.any (fun p => decide (s.fp .hostSwapSlotsS [p] < pins p) || decide (2 ^ 26 < s.fp .hostSwapSlotsS [p]) ||
      ps.any (fun q => p != q && (s.swapAreas p).any (fun a => (busy q).any (meets a))))),
    (8, ps.any (fun p =>
      ((s.fp .hostSwapBaseAddr [p] != s.fa .hostSwapBaseAddr [p] || s.fp .hostSwapSlotsS [p] != s.fa .hostSwapSlotsS [p]) &&
        !(s.part p).swapFrames.isEmpty) ||
      (s.fp .hostBackBaseAddr [p] != s.fa .hostBackBaseAddr [p] && s.fv .hostMovableOutTiles [p] != 0)))]

/-! ### SERVE (R292, R324, R356) -/

/-- BASE and COUNT of a sequence range. -/
abbrev rangeOf (w : Word) : Nat × Nat := (getBits w 17 0, getBits w 50 32)

/-- An ID lies in a range. -/
def inRange' (r : Nat × Nat) (n : Nat) : Bool := decide (r.1 ≤ n) && decide (n < r.1 + r.2)

/-- A site is an MU site of the partition's active rectangle. -/
def State.muOf (s : State) (p site : Nat) : Bool := decide (site < 6144) && isMu site && inRect (s.rect p) site

/-- The pool of a group in the pending copy: BASE and PAGES. -/
def State.poolNew (s : State) (p : Nat) : Nat × Nat := (s.fp .servePoolBase [p], s.fp .servePoolPages [p])

-- Assumption log 142 (DEDUCED).
/-- What counts as mapped in every partition besides its segments, in page-tiles: the edition window, the collective aperture and
the atomic aperture (R407, R466, R473). -/
def apertures : List (Nat × Nat) := [(0x8000000, 0x4000000), (0xD000000, 0x1000000), (0xE000000, 0x10000)]

-- Assumption log 141 (DEDUCED), 142 (DEDUCED).
/-- The checks of R292, R324 and R356. -/
def State.serveChecks (s : State) : Option Nat :=
  let ps := s.formedParts
  let new := fun p => rangeOf (s.rp .serveSeqRange [p])
  let old := fun p => rangeOf (s.ra .serveSeqRange [p])
  let pools := ps.filter (fun p => (s.poolNew p).2 != 0)
  let on := ps.filter (fun p => s.fp .serveVtableEnable [p] == 1)
  let fmt := fun p => s.fp .serveKvCtlPageFmt [p]
  firstFail [
    (1, s.fp .serveSchedQuantum [] == 0),
    (2, ps.any (fun p => s.fp .serveShareWeight [p] == 0)),
    (3, (List.range 32).any (fun p => decide (262144 < (new p).1 + (new p).2))),
    (4, someMeet ((List.range 32).map new)),
    (5, s.seqs.any (fun e => e.2.state != 0 &&
      (List.range 32).any (fun p => inRange' (old p) e.1 && !inRange' (new p) e.1))),
    (6, ps.any (fun p => !s.muOf p (s.fp .servePresultSite [p]) || decide (12287 < s.fp .servePresultWord [p] + 511))),
    (16, pools.any (fun p => !s.ownsTiles p (s.poolNew p).1 (s.poolNew p).2)),
    (17, someMeet (pools.map s.poolNew)),
    (18, pools.any (fun p => decide ((s.poolNew p).2 < 256 + poolReserve (s.poolNew p).2 +
      4 * s.fa .partPlateCtlSpillRsv [p] * (diesOf (s.rect p)).length))),
    (19, ps.any (fun p => fmt p == 2 || decide (9 < fmt p))),
    (20, ps.any (fun p => s.rp .servePool [p] != s.ra .servePool [p] && (s.part p).pages.any (fun e => e.2.state != 0))),
    (21, ps.any (fun p => s.fp .serveExpertTblEnable [p] == 1 && !s.isMember p (s.fp .serveExpertTblModule [p]))),
    (22, ps.any (fun p => s.fp .serveVwinEnable [p] == 1 && (List.range 8).any (fun n =>
      (s.segOld p n).valid && meets (65536 * s.fp .serveVwinBase [p], 65536) ((s.segOld p n).base, (s.segOld p n).pages)) ||
      s.fp .serveVwinEnable [p] == 1 && apertures.any (meets (65536 * s.fp .serveVwinBase [p], 65536)))),
    (23, on.any (fun p => !s.muOf p (s.fp .serveVtableSite [p]) || decide (12287 < s.fp .serveVtableWord [p] + 512))),
    (24, ps.any (fun p => s.fp .serveVtableSite [p] == s.fp .servePresultSite [p] &&
      meets (s.fp .serveVtableWord [p], 513) (s.fp .servePresultWord [p], 512)))]

/-! ### PART (R503, R546, R575, R257) -/

/-- The rectangle of the pending copy: CX, CY, CW, CH. -/
def State.rectNew (s : State) (p : Nat) : Nat × Nat × Nat × Nat :=
  (s.fp .partCellsCx [p], s.fp .partCellsCy [p], s.fp .partCellsCw [p], s.fp .partCellsCh [p])

/-- Two rectangles of cells share a cell. -/
def rectsMeet (a b : Nat × Nat × Nat × Nat) : Bool := meets (a.1, a.2.2.1) (b.1, b.2.2.1) && meets (a.2.1, a.2.2.2) (b.2.1, b.2.2.2)

/-- The members of the pending copy. -/
def State.membersNew (s : State) (p : Nat) : List Nat :=
  (List.range 64).flatMap (fun n =>
    let w := (s.rp .partMembers [p, n]).toNat
    if w = 0 then [] else ((List.range 64).filter w.testBit).map (64 * n + ·))

/-- The valid routes of the pending copy: destination and port. -/
def State.routesNew (s : State) (p : Nat) : List (Nat × Nat) :=
  (List.range 512).flatMap (fun n =>
    let w := s.rp .partRoute [p, n]
    if w = 0 then [] else
      (List.range 8).filterMap (fun i => (routeIn (fun _ => w) (8 * n + i)).map (fun q => (8 * n + i, q))))

-- Assumption log 141 (DEDUCED).
/-- A commit forms the partition. -/
def State.forming (s : State) (p : Nat) : Bool := s.fp .partCellsFormed [p] == 1 && !s.formed p

-- Assumption log 141 (DEDUCED), 143 (DESIGN CHOICE).
/-- The checks of a PART commit, in ascending number. -/
def State.partChecks (s : State) (p : Nat) : Option Nat :=
  let on := s.fp .partCellsFormed [p] == 1
  let r := s.rectNew p
  let others := (List.range 32).filter (fun q => q != p)
  let coord := s.fp .partIdCoord [p]
  let lead := s.fp .partIdLead [p]
  let tag := s.fp .partIdPtag [p]
  let mem := s.membersNew p
  let routes := s.routesNew p
  let dead := fun q => s.fa .opticPortCtlEnable (portIx q) == 0 || s.fa .opticPortCtlTest (portIx q) != 0
  let rsv := s.fp .partPlateCtlSpillRsv [p]
  let plates := (s.part p).front.toList ++ (s.part p).back.toList
  firstFail [
    (1, on && (r.2.2.1 == 0 || r.2.2.2 == 0 || decide (16 < r.1 + r.2.2.1) || decide (6 < r.2.1 + r.2.2.2))),
    (2, on && others.any (fun q => (s.formed q && rectsMeet r (s.rect q)) ||
      (s.fv .partKillStatePhase [q] == 1 && (rectSites r).any (fun i => s.ownerOf i == some q)))),
    (3, on && (tag == 0 || others.any (fun q => s.formed q && s.ptag q == tag))),
    (4, !mem.contains coord || !mem.contains lead),
    (5, s.formed p && (tag != s.ptag p || coord != s.coord p || lead != s.lead p)),
    (6, routes.any (fun e => !mem.contains e.1 || e.1 == coord)),
    (7, mem.any (fun m => m != coord && (match routes.find? (fun e => e.1 == m) with
      | some e => dead e.2
      | none => true))),
    (16, on && s.fv .partKillStatePhase [p] == 1),
    (17, s.forming p && s.fv .sealStatusTrngFail [] == 1),
    (18, s.forming p && (s.fv .hubBootStage [] != 4 ||
      (diesOf r).any (fun k => (s.fv .hubBootHbmFail []).testBit k))),
    (32, on && (s.chooseSpill p (s.fa .servePoolPages [p]) rsv (diesOf r)).isNone),
    (33, plates.any (fun x => x.spill.any (fun n => decide (rsv < n))))]

end Sys2Proof.Machine
end

