-- ==== Sys2Proof/Machine/Commit.lean ====
section
/-! DEFINITION. What an applied commit does, block by block, and the commands of the register model (R33 to R40). -/

namespace Sys2Proof.Machine

open Sys2Proof

/-! ### PART: formation and borders (R47, R483, R485, R491, R537) -/

/-- Gives sites to a partition (SITE.ID). -/
def State.assignSites (s : State) (p : Nat) (sites : List Nat) : State :=
  sites.foldl (fun t i => (t.setf .siteIdOwned [i] 1).setf .siteIdPart [i] p) s

/-- What a formation keeps of the instance: fault records still to be read, and page-tiles of an earlier kill that are
still to be zeroed (R538). Partition time starts at zero (R47). -/
def Part.formed (x : Part) (now : Word) : Part :=
  { Part.reset with faultQ := x.faultQ, dying := x.dying, time := { PTime.reset with offset := 0 - now } }

-- Assumption log 143 (DESIGN CHOICE).
/-- Sets the spill reserve aside (R257). -/
def State.setSpill (s : State) (p : Nat) : State :=
  let l := s.chooseSpill p (s.fa .servePoolPages [p]) (s.fa .partPlateCtlSpillRsv [p]) (diesOf (s.rect p))
  s.setPart p { s.part p with spill := l.getD [] }

-- Assumption log 24 (DESIGN CHOICE), 138 (DEDUCED), 189 (DESIGN CHOICE).
/-- Forms a partition whose copies have just become active (R483): its sites, EPOCH 1, the tree, epoch zero and SYNCED at
the lead, a new swap key (R435), and the FORM record. PPS_LATCH, TRACE_PTR, TRACE_DROP and SNAP_STATUS.SEQ keep the values that
the partition of that number left. -/
def State.form (s : State) (p : Nat) : State :=
  let t := s.setPart p ((s.part p).formed s.now)
  let t := t.assignSites p (rectSites (t.rect p))
  let t := (t.setf .partEpochEpoch [p] 1).setf .partStatusActive [p] 1
  let t := ((t.setv .timePsync [p] 0).setTree p).setv .partDbgState [p] 0
  let t := t.setf .timePsyncSynced [p] (t.fv .partStatusIsLead [p])
  let t := t.setSeal { t.sealUnit with swapKeys := tabSet (fun _ => 0) t.sealUnit.swapKeys p (Config.trng t.free % 2 ^ 512) }
  ((t.fresh.setSpill p).showPlates p).partRecord p 1

/-- Moves the border of a formed partition from its old sites to the new rectangle (R491). -/
def State.moveBorder (s : State) (p : Nat) (old : List Nat) : State :=
  let new := rectSites (s.rect p)
  let t := (s.dropPlates p).releaseSites (old.filter (fun i => !new.contains i))
  (((t.assignSites p (new.filter (fun i => !old.contains i))).setTree p).setSpill p).partRecord p 2

-- Assumption log 140 (DEDUCED).
/-- A PART commit whose checks pass (R34, R483, R485, R491): the partition is killed, formed, moved, or takes its new
members, routes, reserve and proof mode. -/
def State.applyPart (s : State) (p : Nat) : State :=
  let ix := [p]
  let old := rectSites (s.rect p)
  let was := s.formed p
  if s.fp .partCellsFormed ix = 0 then
    let t := s.commitEnd .partCommitStatus ix 2 0
    (if was then t.kill p else t).takePending .partCommitStatus ix
  else
    let r := s.rect p
    let t := s.takePending .partCommitStatus ix
    let t := if !was then t.form p
      else if t.rect p ≠ r then t.moveBorder p old
      else (t.setTree p).setSpill p
    t.commitEnd .partCommitStatus ix 2 0

/-! ### HOST (R422, R427 to R431, R443) -/

-- Assumption log 130 (DEDUCED).
/-- Reserves the page-tiles of an added segment and tags them OWNED: a pinned one is mapped, a movable one starts with its
page-tiles in host memory. -/
def State.addSegment (s : State) (p n : Nat) : State :=
  let g := s.segOld p n
  match s.takeFree g.die (if g.pin then g.pages else g.hbm) with
  | none => s
  | some pages =>
    let t := pages.foldl (fun u q => u.setTag q (ownedTag p)) s
    let x := t.part p
    if g.pin then
      let m := pages.zipIdx.foldl (fun (m : Tab (Option Nat)) q => tabSet (fun _ => none) m (g.base + q.2) (some q.1)) x.map
      t.setPart p { x with map := m }
    else
      (t.setPart p { x with reserve := tabSet (fun _ => []) x.reserve n pages }).setf .hostMovableOutTiles [p]
        (t.fv .hostMovableOutTiles [p] + g.pages)

/-- Releases the page-tiles of a removed segment as DIRTY (R443): `g` is the segment before the commit. -/
def State.dropSegment (s : State) (p n : Nat) (g : SegRow) : State :=
  let x := s.part p
  let inSeg := fun (k : Nat) => decide (g.base ≤ k) && decide (k < g.base + g.pages)
  let held := (x.map.filter (fun e => inSeg e.1)).filterMap (fun (e : Nat × Option Nat) => e.2)
  let t := s.setPart p { x with map := x.map.filter (fun e => !inSeg e.1), ages := x.ages.filter (fun e => !inSeg e.1),
                                 reserve := tabDel x.reserve n }
  let t := t.setHbm { t.hbm with returns := t.hbm.returns.filter (fun e => e.2 != some (8 * p + n)) }
  let t := t.recall (fun l => l / 2 ^ 38 == p && inSeg (l % 2 ^ 38 / 1024))
  let t := t.dirtyAll (held ++ tabGet (fun _ => []) x.reserve n)
  if g.pin then t else t.setf .hostMovableOutTiles [p] (t.fv .hostMovableOutTiles [p] - (g.pages - held.length))

/-- One partition's group after a HOST commit: segments removed, then added (R443); ENABLE and TAIL_ADDR. -/
def State.applyGroup (s : State) (p : Nat) (before : State) : State :=
  let ns := List.range 8
  let t := ns.foldl (fun u n =>
    if (before.segOld p n).valid && !(u.segOld p n).valid then u.dropSegment p n (before.segOld p n) else u) s
  let t := ns.foldl (fun u n => if !(before.segOld p n).valid && (u.segOld p n).valid then u.addSegment p n else u) t
  let was := before.fa .hostLedgerCtlEnable [p]
  let is_ := t.fa .hostLedgerCtlEnable [p]
  if was = 0 ∧ is_ = 1 then t.ledgerOn p
  else if was = 1 ∧ is_ = 0 then t.ledgerOff p
  else if is_ = 1 ∧ t.ra .hostTailAddr [p] ≠ before.ra .hostTailAddr [p] then
    (t.setPart p { t.part p with tail := none }).wakeLedger p
  else t

-- Assumption log 132 (DEDUCED).
/-- A HOST commit whose checks pass. -/
def State.applyHost (s : State) : State :=
  s.formedParts.foldl (fun t p => t.applyGroup p s) (s.takePending .hostCommitStatus [])

/-! ### The other blocks -/

/-- A SERVE commit whose checks pass: a pool that changes holds FREE pages only (R324). -/
def State.applyServe (s : State) : State :=
  s.formedParts.foldl (fun t p =>
    if t.ra .servePool [p] = s.ra .servePool [p] then t
    else (t.setPart p { t.part p with pages := [], frames := [], zeroQ := [] }).setSpill p)
    (s.takePending .serveCommitStatus [])

-- Assumption log 19 (DEDUCED).
/-- A TIME commit whose checks pass (R67, R72): the ring of a partition whose trace fields the host had written when the commit was
given, with another value or with the same one, starts again. A new reference is locked later, and no TS64 steps. -/
def State.applyTime (s : State) : State :=
  s.formedParts.foldl (fun t p =>
    if t.ra .timeTraceBase [p] = s.ra .timeTraceBase [p] ∧ t.ra .timeTraceCtl [p] = s.ra .timeTraceCtl [p] ∧
        (s.part p).traceGo = false then t
    else ((t.setv .timeTracePtr [p] 0).setv .timeTraceDrop [p] 0).setPart p { t.part p with traceGo := false })
    (s.takePending .timeCommitStatus [])

-- Assumption log 150 (DEDUCED).
/-- A POWER commit whose checks pass (R511, R514, R508, R581): the cap, the park threshold, domains switched off; with no
domain left on, STAGE is OFF. The black-box writer saves HEAD_SEQ before the flash interface goes off. -/
def State.applyPower (s : State) : State :=
  let off := (List.range 42).filter s.clears
  let t := s.takePending .powerCommitStatus []
  let t := if t.ra .powerCap [] = s.ra .powerCap [] then t else t.applyCap
  let t := t.checkParkCap
  let t := if off.contains 41 then t.setBBox t.bbox.save else t
  let t := t.switchOffAll off
  if !off.isEmpty && t.rv .powerDomainOn [] == 0 then t.setStage 6 else t

/-- A SEAL commit whose check passes: clearing DEBUG_EN locks every partition (R544). -/
def State.applySeal (s : State) : State :=
  let t := s.takePending .sealCommitStatus []
  if s.fa .sealPolicyDebugEn [] = 1 ∧ t.fa .sealPolicyDebugEn [] = 0 then t.formedParts.foldl State.lockDebug t else t

/-- An HBM commit whose checks pass: BYPASS = 1 invalidates every line of the die's tile cache (R379). -/
def State.applyHbm (s : State) (d : Nat) : State :=
  let t := s.takePending .hbmCommitStatus [d]
  if t.fa .hbmTcCtlBypass [d] = 1 then
    t.setHbm { t.hbm with cache := tabClear t.hbm.cache (1024 * d) (1024 * d + 1024) }
  else t

/-- An OPTIC commit whose checks pass: every port of the engine follows its PORT_CTL (R467). -/
def State.applyOptic (s : State) (e : Nat) : State :=
  (List.range 8).foldl (fun t q => t.applyPortCtl (8 * e + q)) (s.takePending .opticCommitStatus [e])

/-- A FLASH commit whose checks pass (R391, R412). -/
def State.applyFlash (s : State) : State :=
  let old := s.ra .flashChanDisable []
  (s.takePending .flashCommitStatus []).flashApplied old

/-! ### Boundaries (R34, R39) -/

/-- The block instance whose COMMIT register has this BAR0 address less 0xFF0: its COMMIT_STATUS register. -/
def blockAt (base : Nat) : Option (Rg × List Nat) :=
  match regAt (base + 0xFF8) with
  | some (r, ix) =>
    if [Rg.timeCommitStatus, .powerCommitStatus, .sealCommitStatus, .bboxCommitStatus, .hostCommitStatus,
        .flashCommitStatus, .hbmCommitStatus, .opticCommitStatus, .serveCommitStatus, .partCommitStatus,
        .siteCommitStatus].contains r then some (r, ix) else none
  | none => none

/-- Where an unanswered read of an engine goes, as a partition address. -/
def State.askedAt (s : State) (h : Hatch) (r : ReadReq) : Nat :=
  if h.d.mode = 2 then (s.extAddr h (64 * (r.addr % max h.d.extension 1))).getD 0
  else if h.d.space = 3 then (match s.kvPlace h.part r.addr with
    | .page _ data _ _ _ => data
    | _ => 0)
  else r.addr

-- Assumption log 18 (DEDUCED).
/-- A tile command is outstanding at a die: a read of a hatch engine that is not answered, or a write of an engine or of an append
unit that is not accepted (R39). -/
def State.hbmBusy (s : State) (die : Nat) : Bool :=
  (List.range 32).any (fun p => s.formed p && (s.sitesOf p).any (fun i => isMu i &&
    ((s.site i).mu.appends.any (fun w => s.hubDie p w.addr == some die) ||
      (List.range 4).any (fun e =>
        (s.engine i e).posted.any (fun w => w.kind == 0 && s.hubDie p w.addr == some die) ||
          (match s.hatch i e with
            | some h => (s.engine i e).reads.any (fun r =>
                r.data.isNone && r.txn.isNone && s.hubDie p (s.askedAt h r) == some die)
            | none => false)))))

-- Assumption log 18 (DEDUCED).
/-- The block is at its quiescent boundary (R39): no step of the partition fires for PART and SITE; no ledger fetch and no
swap transfer is in progress for HOST, no command runs for FLASH, no request to the die is outstanding for HBM, and for
POWER a control interval has just begun. Every other boundary lies between two commands. -/
def State.quiescent (s : State) (r : Rg) (ix : List Nat) : Bool :=
  let i := ix.getD 0 0
  match r with
  | .partCommitStatus => (s.part i).firing.isNone
  | .siteCommitStatus => match s.ownerOf i with
    | some p => (s.part p).firing.isNone
    | none => true
  | .hostCommitStatus => (List.range 32).all (fun p => (s.part p).fetchTo.isNone && (s.part p).swapping.isEmpty)
  | .flashCommitStatus => s.flash.running.isEmpty
  | .hbmCommitStatus => !s.hbmBusy i
  | .powerCommitStatus => s.power.boundary
  | _ => true

/-- The first check that fails, by block. The checks read the pending copy of the block's own fields (State.fp, State.rp), the
active copy of other blocks (State.fa, State.ra) and fields that are not RWS (State.fv), never a staged copy or another
block's pending one (R34, R35). -/
def State.commitChecks (s : State) (r : Rg) (ix : List Nat) : Option Nat :=
  let i := ix.getD 0 0
  match r with
  | .timeCommitStatus => s.timeChecks
  | .powerCommitStatus => s.powerChecks
  | .sealCommitStatus => s.sealChecks
  | .bboxCommitStatus => s.bboxChecks
  | .hostCommitStatus => s.hostChecks
  | .flashCommitStatus => s.flashChecks
  | .hbmCommitStatus => s.hbmChecks i
  | .opticCommitStatus => s.opticChecks i
  | .serveCommitStatus => s.serveChecks
  | .partCommitStatus => s.partChecks i
  | _ => s.siteChecks i

-- Assumption log 140 (DEDUCED).
/-- The pending copy becomes active, with its effect, and RESULT becomes APPLIED. -/
def State.commitApply (s : State) (r : Rg) (ix : List Nat) : State :=
  let i := ix.getD 0 0
  match r with
  | .timeCommitStatus => s.applyTime.commitEnd r ix 2 0
  | .powerCommitStatus => s.applyPower.commitEnd r ix 2 0
  | .sealCommitStatus => s.applySeal.commitEnd r ix 2 0
  | .hostCommitStatus => s.applyHost.commitEnd r ix 2 0
  | .flashCommitStatus => s.applyFlash.commitEnd r ix 2 0
  | .hbmCommitStatus => (s.applyHbm i).commitEnd r ix 2 0
  | .opticCommitStatus => (s.applyOptic i).commitEnd r ix 2 0
  | .serveCommitStatus => s.applyServe.commitEnd r ix 2 0
  | .partCommitStatus => s.applyPart i
  | .siteCommitStatus => s.commitSite i
  | _ => (s.takePending r ix).commitEnd r ix 2 0

-- Assumption log 161 (DEDUCED).
/-- A pending commit reaches its boundary (R34): REJECTED with the first failing check, or APPLIED. -/
def State.commitBoundary (s : State) (r : Rg) (ix : List Nat) : State :=
  match s.commitChecks r ix with
  | some c => s.commitEnd r ix 3 c
  | none => s.commitApply r ix

/-- COMMIT_BOUNDARY (R34, R39): the block at BAR0 address `base` reaches its quiescent boundary with a commit pending. -/
def execCommitBoundary (base : Nat) (s : State) : Host.Outcome State Fault Refusal :=
  match blockAt base with
  | some (r, ix) => .next (if s.commitPending r ix && s.quiescent r ix then s.commitBoundary r ix else s)
  | none => .next s

/-- COMMIT_GO (R33, R37): a COMMIT write with GO = 1 and CANCEL = 0 to the block at BAR0 address `base`. -/
def execCommitGo (base token : Nat) (s : State) : Host.Outcome State Fault Refusal :=
  match blockAt base with
  | none => .next s
  | some (r, ix) => match s.missed base with
    | some d => .next (s.noteMiss (base + 0xFF0) d)
    | none => .next (s.commitGo r ix token)

/-- COMMIT_CANCEL (R37): a COMMIT write with CANCEL = 1. -/
def execCommitCancel (base : Nat) (s : State) : Host.Outcome State Fault Refusal :=
  match blockAt base with
  | none => .next s
  | some (r, ix) => match s.missed base with
    | some d => .next (s.noteMiss (base + 0xFF0) d)
    | none => .next (s.commitCancel r ix)

end Sys2Proof.Machine
end

