-- ==== Sys2Proof/Machine/Registers.lean ====
section
/-! DEFINITION. Writes of registers by the host and by management (R10 to R15, R27, R569, R570). A register that has
commands of its own acts as those commands do. -/

namespace Sys2Proof.Machine

open Sys2Proof

/-- The state of an outcome that goes on. -/
def landed (o : Host.Outcome State Fault Refusal) (s : State) : State :=
  match o with
  | .next t => t
  | _ => s

-- Assumption log 192 (DEDUCED).
/-- The command block of a SEAL.CMD write with GO = 1 decides the operation; one that is not listed is BAD_OP (R533). -/
def State.sealCmdRun (s : State) (token : Nat) (b : List Byte) : State :=
  let op := leAt b 0 1
  if op = 1 then landed (execTakeOwnership none token (some b) s) s
  else if op = 2 then landed (execEnrol none token (some b) s) s
  else if op = 3 then landed (execRevoke none token (some b) s) s
  else if op = 4 then landed (execRelease none token (some b) s) s
  else if op = 5 then landed (execSvnCommit none token (some b) s) s
  else (s.blockRead (s.fv .sealCmdAddrAddr []) (some b)).sealDone none token op (blockArg b) 1

-- Assumption log 192 (DEDUCED).
/-- A SEAL.CMD write with GO = 1 (R533): discarded with LOST while a command runs; else the command starts, and where the write
brings the block it completes at once. -/
def State.sealCmdWrite (s : State) (token : Nat) (block : Option (List Byte)) : State :=
  if s.fv .sealCmdStatusBusy [] = 1 then s.setf .sealCmdStatusLost [] 1
  else match block with
    | none => (s.setf .sealCmdStatusToken [] token).setf .sealCmdStatusBusy [] 1
    | some b => s.sealCmdRun token b

-- Assumption log 192 (DEDUCED).
/-- A CLR write with GO = 1 (R561): refused with BUSY while a clear runs; else the clear starts, and where the write brings the block
or is refused it completes at once. -/
def State.clrWrite (s : State) (token : Nat) (block : Option (List Byte)) : State :=
  if s.fv .bboxClrStatusBusy [] = 1 then (s.clearDone token 10).sealRecord 0x40 0 10
  else if block.isNone ∧ s.clearResult block ≠ 10 then
    ((s.setf .bboxClrStatusToken [] token).setf .bboxClrStatusBusy [] 1).setf .bboxBbStateClearing [] 1
  else landed (execClear token block s) s

/-- A DBG_CTL write: SET, UNLOCK and LOCK, in this order where several are 1 (R542). -/
def State.dbgCtlWrite (s : State) (p : Nat) (w : Word) : State :=
  let t := if w.getLsbD 0 then landed (execDebugSet p s) s else s
  let t := if w.getLsbD 1 then landed (execDebugUnlock p t) t else t
  if w.getLsbD 2 then landed (execDebugLock p t) t else t

/-- A COMMIT write: CANCEL first, whatever GO holds (R37). -/
def State.commitWrite (s : State) (base : Nat) (w : Word) : State :=
  match blockAt base with
  | none => s
  | some (r, ix) =>
    if w.getLsbD 1 then s.commitCancel r ix
    else if w.getLsbD 0 then s.commitGo r ix (getBits w 31 16) else s

/-- A 64-bit write of a WO register (R11, R12). `block` is what the module reads from host memory where a command names a
block there. -/
def State.writeWo (s : State) (r : Rg) (ix : List Nat) (w : Word) (block : Option (List Byte)) : State :=
  let i := ix.getD 0 0
  let dbg := fun (f : Debug → Debug) => s.setDebug i (f (s.part i).dbg)
  match r with
  | .siteMuArm => landed (execMuArmWrite i (ix.getD 1 0) w s) s
  | .serveNskeyLo => s.setv r ix w
  | .serveNskeyHi => s.setv r ix w
  | .serveNskeyCtl => landed (execNskeyApply i w s) s
  | .flashCmd => s.flashEnqueue w
  | .flashCmdAck => landed (execCmdAck s) s
  | .partEpochSet => landed (execEpochSet i w s) s
  | .partFaultAck => landed (execFaultAck i s) s
  | .partKill => landed (execKill i w s) s
  | .partDbgCredLo => dbg (fun d => { d with lo := w })
  | .partDbgCredHi => dbg (fun d => { d with hi := w })
  | .partDbgCtl => s.dbgCtlWrite i w
  | .sealCmd => if w.getLsbD 0 then s.sealCmdWrite (getBits w 63 48) block else s
  | .bboxClr => if w.getLsbD 0 then s.clrWrite (getBits w 63 48) block else s
  | _ => s.commitWrite (r.at ix - 0xFF0) w

-- Assumption log 16 (DEDUCED).
/-- The RWS bits whose written value the staged copy keeps: those of the register, and for POLICY and BB_CTL the reserved
bits that their commits judge (R544, R563). -/
def stagedMask (r : Rg) : Word :=
  if r = .sealPolicy ∨ r = .bboxBbCtl then BitVec.allOnes 64 else BitVec.ofNat 64 r.spec.rws

/-- The plain effect of a write under a mask of the bits it reaches (R12, R14, R15): RW bits take the value, a 1 clears a
W1C bit, RWS bits go to the staged copy. -/
def State.writePlain (s : State) (r : Rg) (ix : List Nat) (w m : Word) : State :=
  let rw := BitVec.ofNat 64 r.spec.rw &&& m
  let clr := BitVec.ofNat 64 r.spec.w1c &&& m &&& w
  let st := stagedMask r &&& m
  let v := s.rv r ix
  let t := s.setv r ix ((((v &&& ~~~rw) ||| (w &&& rw))) &&& ~~~clr)
  if BitVec.ofNat 64 r.spec.rws = 0 then t
  else t.sets r ix ((s.rs r ix &&& ~~~st) ||| (w &&& st))

-- Assumption log 19 (DEDUCED).
/-- The host writes a trace field of a partition: their next commit starts the ring again (R67). -/
def State.traceWrite (s : State) (p : Nat) : State := s.setPart p { s.part p with traceSet := true }

-- Assumption log 153 (DEDUCED).
/-- What follows a write of some registers: the capture or the arming that the write is for, COUNT with VALID of
DOMAIN_MISS (R27), and the in-band interrupt where a newly set EN asserts ALERT_N (R567, R582). `before` is the state
before the write. -/
def State.afterWrite (s : State) (r : Rg) (ix : List Nat) (before : State) : State :=
  let i := ix.getD 0 0
  let w := s.rv r ix
  match r with
  | .timeSnapAt => landed (execSnapAtWrite i w s) s
  | .timeTraceBase => s.traceWrite i
  | .timeTraceCtl => s.traceWrite i
  | .serveSeqSel => landed (execSeqSelCapture w s) s
  | .hbmTagSel => landed (execTagSelCapture i w s) s
  | .bboxRdSel => landed (execBlackBoxReadSelect w s) s
  | .partDbgAddr => landed (execDebugAddrSelect i w s) s
  | .hubDomainMiss => if s.fv .hubDomainMissValid [] = 0 then s.setf .hubDomainMissCount [] 0 else s
  | .hubAlert => if s.alertAsserted && !before.alertAsserted then s.emit (.ibi 1) else s
  | _ => s

/-- A write of a register (R11, R12). -/
def State.writeAt (s : State) (r : Rg) (ix : List Nat) (w m : Word) (block : Option (List Byte)) : State :=
  if r.spec.wo then (if m = BitVec.allOnes 64 then s.writeWo r ix w block else s)
  else if r = .siteMuBankOwn ∧ isMu (ix.getD 0 0) = false then s
  else (s.writePlain r ix w m).afterWrite r ix s

-- Assumption log 15 (DEDUCED).
/-- A write of BAR0 (R11, R26, R27): an access that is not naturally aligned, an address that is not assigned, a group of a
partition that is not formed and a block without power discard it; the last one is recorded in DOMAIN_MISS. -/
def State.writeReg (s : State) (a width : Nat) (w : Word) (block : Option (List Byte)) : State :=
  if accessOk a width = false then s
  else match s.missed a with
    | some d => s.noteMiss a d
    | none =>
      if s.groupClosed a then s
      else match regAt (a / 8 * 8) with
        | none => s
        | some (r, ix) =>
          if width = 64 then s.writeAt r ix w (BitVec.allOnes 64) block
          else
            let sh := 8 * (a % 8)
            s.writeAt r ix ((w &&& 0xFFFFFFFF) <<< sh) ((0xFFFFFFFF : Word) <<< sh) block

/-- REGISTER_WRITE (R11 to R15): a write of BAR0 by the host, `width` bits at `addr`. -/
def execRegisterWrite (addr width : Nat) (data : Word) (block : Option (List Byte)) (s : State) :
    Host.Outcome State Fault Refusal := .next (s.writeReg addr width data block)

-- Assumption log 156 (DEDUCED).
/-- The blocks that REG_READ and REG_WRITE reach: HUB, TIME, POWER, SEAL, BBOX, OPTIC and PART (R569). -/
def vendorBlock (a : Nat) : Bool :=
  decide (a < 0x50000) || (decide (0x2000000 ≤ a) && decide (a < 0x2100000)) ||
    (decide (0x4000000 ≤ a) && decide (a < 0x4200000))

-- Assumption log 8 (DESIGN CHOICE), 156 (DEDUCED).
/-- REG_READ (R569): the 64-bit register at a BAR0 offset; DENIED (2) outside the permitted blocks, NOT_READY (4) before
MGMT. -/
def execRegRead (ep off : Nat) (s : State) : Host.Outcome State Fault Refusal :=
  if s.mgmtUp = false then .next (s.vendorRsp ep 0x20 4 [])
  else if vendorBlock off = false then .next (s.vendorRsp ep 0x20 2 [])
  else
    let r := s.readReg off 64
    .next (r.1.vendorRsp ep 0x20 0 (leBytes 8 r.2.toNat))

-- Assumption log 156 (DEDUCED).
/-- REG_WRITE (R569, R570): as a 64-bit host write at a BAR0 offset. -/
def execRegWrite (ep off : Nat) (value : Word) (block : Option (List Byte)) (s : State) :
    Host.Outcome State Fault Refusal :=
  if s.mgmtUp = false then .next (s.vendorRsp ep 0x21 4 [])
  else if vendorBlock off = false then .next (s.vendorRsp ep 0x21 2 [])
  else .next ((s.writeReg off 64 value block).vendorRsp ep 0x21 0 [])

end Sys2Proof.Machine
end

