-- ==== Sys2Proof/Machine/Dispatch.lean ====
section
/-! DEFINITION. What every command does: one arm per constructor of Instr, each a direct call of its meaning. -/

namespace Sys2Proof.Machine

def exec (i : Instr) (s : State) : Host.Outcome State Fault Refusal :=
  match i with
  | .registerWrite addr width data block => Sys2Proof.Machine.execRegisterWrite addr width data block s
  | .commitGo base token => Sys2Proof.Machine.execCommitGo base token s
  | .commitCancel base => Sys2Proof.Machine.execCommitCancel base s
  | .commitBoundary base => Sys2Proof.Machine.execCommitBoundary base s
  | .d2dLinkTraining die mod0 mod1 repaired => Sys2Proof.Machine.execD2dLinkTraining die mod0 mod1 repaired s
  | .d2dLinkDown die => Sys2Proof.Machine.execD2dLinkDown die s
  | .d2dRetrainDone die mod0 mod1 repaired => Sys2Proof.Machine.execD2dRetrainDone die mod0 mod1 repaired s
  | .memLinkDown edge => Sys2Proof.Machine.execMemLinkDown edge s
  | .refLost => Sys2Proof.Machine.execRefLost s
  | .refRestored => Sys2Proof.Machine.execRefRestored s
  | .ppsInEdge => Sys2Proof.Machine.execPpsInEdge s
  | .timeExchangeTimer p => Sys2Proof.Machine.execTimeExchangeTimer p s
  | .timeReq port h body => Sys2Proof.Machine.execTimeReq port h body s
  | .timeRsp port h body => Sys2Proof.Machine.execTimeRsp port h body s
  | .snapAtWrite p t => Sys2Proof.Machine.execSnapAtWrite p t s
  | .snapshotArmReceive p t seq => Sys2Proof.Machine.execSnapshotArmReceive p t seq s
  | .snapshotLatch site => Sys2Proof.Machine.execSnapshotLatch site s
  | .operandArrival site slot => Sys2Proof.Machine.execOperandArrival site slot s
  | .endOfStreamFiring site => Sys2Proof.Machine.execEndOfStreamFiring site s
  | .nop site => Sys2Proof.Machine.execNop site s
  | .move site => Sys2Proof.Machine.execMove site s
  | .matrix site => Sys2Proof.Machine.execMatrix site s
  | .accZero site => Sys2Proof.Machine.execAccZero site s
  | .accRead site => Sys2Proof.Machine.execAccRead site s
  | .accAdd site => Sys2Proof.Machine.execAccAdd site s
  | .accLoad site => Sys2Proof.Machine.execAccLoad site s
  | .vadd site => Sys2Proof.Machine.execVadd site s
  | .vsub site => Sys2Proof.Machine.execVsub site s
  | .vmul site => Sys2Proof.Machine.execVmul site s
  | .vfma site => Sys2Proof.Machine.execVfma site s
  | .vmin site => Sys2Proof.Machine.execVmin site s
  | .vmax site => Sys2Proof.Machine.execVmax site s
  | .vcmp site => Sys2Proof.Machine.execVcmp site s
  | .vsel site => Sys2Proof.Machine.execVsel site s
  | .vexp2 site => Sys2Proof.Machine.execVexp2 site s
  | .vlog2 site => Sys2Proof.Machine.execVlog2 site s
  | .vrcp site => Sys2Proof.Machine.execVrcp site s
  | .vrsq site => Sys2Proof.Machine.execVrsq site s
  | .vabs site => Sys2Proof.Machine.execVabs site s
  | .vneg site => Sys2Proof.Machine.execVneg site s
  | .vmov site => Sys2Proof.Machine.execVmov site s
  | .redSum site => Sys2Proof.Machine.execRedSum site s
  | .redMax site => Sys2Proof.Machine.execRedMax site s
  | .redMin site => Sys2Proof.Machine.execRedMin site s
  | .redSumsq site => Sys2Proof.Machine.execRedSumsq site s
  | .pack site => Sys2Proof.Machine.execPack site s
  | .steer site => Sys2Proof.Machine.execSteer site s
  | .merge site => Sys2Proof.Machine.execMerge site s
  | .tagAction site => Sys2Proof.Machine.execTagAction site s
  | .tagSet site => Sys2Proof.Machine.execTagSet site s
  | .tagData site => Sys2Proof.Machine.execTagData site s
  | .send site => Sys2Proof.Machine.execSend site s
  | .sendEosAfter site => Sys2Proof.Machine.execSendEosAfter site s
  | .sendEosOnly site => Sys2Proof.Machine.execSendEosOnly site s
  | .syncWait site => Sys2Proof.Machine.execSyncWait site s
  | .syncSignal site => Sys2Proof.Machine.execSyncSignal site s
  | .semaphoreGrant site sem => Sys2Proof.Machine.execSemaphoreGrant site sem s
  | .claim site => Sys2Proof.Machine.execClaim site s
  | .arm site => Sys2Proof.Machine.execArm site s
  | .retire site => Sys2Proof.Machine.execRetire site s
  | .dispenserClaim site bank => Sys2Proof.Machine.execDispenserClaim site bank s
  | .dispenserArm site bank => Sys2Proof.Machine.execDispenserArm site bank s
  | .dispenserRetire site bank => Sys2Proof.Machine.execDispenserRetire site bank s
  | .routeSelect site => Sys2Proof.Machine.execRouteSelect site s
  | .routeDispatch site => Sys2Proof.Machine.execRouteDispatch site s
  | .append site => Sys2Proof.Machine.execAppend site s
  | .scoreRmax site => Sys2Proof.Machine.execScoreRmax site s
  | .scoreExpd site => Sys2Proof.Machine.execScoreExpd site s
  | .scoreRsum site => Sys2Proof.Machine.execScoreRsum site s
  | .scoreMerge site => Sys2Proof.Machine.execScoreMerge site s
  | .slotTransfer site port => Sys2Proof.Machine.execSlotTransfer site port s
  | .creditReturn site port slot => Sys2Proof.Machine.execCreditReturn site port slot s
  | .steerEntryArrival site n input => Sys2Proof.Machine.execSteerEntryArrival site n input s
  | .steerEntryEos site n input => Sys2Proof.Machine.execSteerEntryEos site n input s
  | .mergeEntryForward site n => Sys2Proof.Machine.execMergeEntryForward site n s
  | .queueTransfer site e => Sys2Proof.Machine.execQueueTransfer site e s
  | .bankGrant site bank => Sys2Proof.Machine.execBankGrant site bank s
  | .hatchReadOperand site e => Sys2Proof.Machine.execHatchReadOperand site e s
  | .hbmReadResponse site e => Sys2Proof.Machine.execHbmReadResponse site e s
  | .writeStreamOperand site e => Sys2Proof.Machine.execWriteStreamOperand site e s
  | .rearmWord site e => Sys2Proof.Machine.execRearmWord site e s
  | .muArmWrite site e w => Sys2Proof.Machine.execMuArmWrite site e w s
  | .appendArrival site => Sys2Proof.Machine.execAppendArrival site s
  | .stallWatchExpire p => Sys2Proof.Machine.execStallWatchExpire p s
  | .snpinv addr => Sys2Proof.Machine.execSnpinv addr s
  | .snpdata addr => Sys2Proof.Machine.execSnpdata addr s
  | .snpcur addr => Sys2Proof.Machine.execSnpcur addr s
  | .tailLineRead p tail => Sys2Proof.Machine.execTailLineRead p tail s
  | .ledgerEntryFetch p raw => Sys2Proof.Machine.execLedgerEntryFetch p raw s
  | .schedulerChoose => Sys2Proof.Machine.execSchedulerChoose s
  | .batchDelivery p batch => Sys2Proof.Machine.execBatchDelivery p batch s
  | .swapOut p => Sys2Proof.Machine.execSwapOut p s
  | .plateLoadStart p => Sys2Proof.Machine.execPlateLoadStart p s
  | .plateLoadComplete p => Sys2Proof.Machine.execPlateLoadComplete p s
  | .plateFlip p => Sys2Proof.Machine.execPlateFlip p s
  | .sectionSwitch p => Sys2Proof.Machine.execSectionSwitch p s
  | .sectionDrain p => Sys2Proof.Machine.execSectionDrain p s
  | .stepComplete p => Sys2Proof.Machine.execStepComplete p s
  | .openSeq p => Sys2Proof.Machine.execOpen p s
  | .park p => Sys2Proof.Machine.execPark p s
  | .resume p blobs => Sys2Proof.Machine.execResume p blobs s
  | .close p => Sys2Proof.Machine.execClose p s
  | .lookup p tokens => Sys2Proof.Machine.execLookup p tokens s
  | .sequenceReleaseComplete seq => Sys2Proof.Machine.execSequenceReleaseComplete seq s
  | .nskeyApply p w => Sys2Proof.Machine.execNskeyApply p w s
  | .nskeyInvalidationDone p ns => Sys2Proof.Machine.execNskeyInvalidationDone p ns s
  | .seqSelCapture w => Sys2Proof.Machine.execSeqSelCapture w s
  | .candidateListArrival site => Sys2Proof.Machine.execCandidateListArrival site s
  | .dispatchLayerDecide p mode entries => Sys2Proof.Machine.execDispatchLayerDecide p mode entries s
  | .dispatch port h body => Sys2Proof.Machine.execDispatch port h body s
  | .dispatchEnd port h body => Sys2Proof.Machine.execDispatchEnd port h body s
  | .scrubBurst die stack => Sys2Proof.Machine.execScrubBurst die stack s
  | .targetedRefresh row => Sys2Proof.Machine.execTargetedRefresh row s
  | .rowRemap die stack channel place => Sys2Proof.Machine.execRowRemap die stack channel place s
  | .pageZeroed pool n => Sys2Proof.Machine.execPageZeroed pool n s
  | .tagSelCapture die w => Sys2Proof.Machine.execTagSelCapture die w s
  | .install pkg c0 => Sys2Proof.Machine.execInstall pkg c0 s
  | .delete => Sys2Proof.Machine.execDelete s
  | .stage r => Sys2Proof.Machine.execStage r s
  | .evict => Sys2Proof.Machine.execEvict s
  | .setStage r => Sys2Proof.Machine.execSetStage r s
  | .setEvict => Sys2Proof.Machine.execSetEvict s
  | .repair r => Sys2Proof.Machine.execRepair r s
  | .cmdAck => Sys2Proof.Machine.execCmdAck s
  | .blockRelocation channel die block programFailed eraseFailed rs => Sys2Proof.Machine.execBlockRelocation channel die block programFailed eraseFailed rs s
  | .retentionScrub rs => Sys2Proof.Machine.execRetentionScrub rs s
  | .channelOutOfService channel => Sys2Proof.Machine.execChannelOutOfService channel s
  | .channelRebuildDone channel => Sys2Proof.Machine.execChannelRebuildDone channel s
  | .flashRetraining => Sys2Proof.Machine.execFlashRetraining s
  | .hostLinkTrained width speed flit256 lopt cfg => Sys2Proof.Machine.execHostLinkTrained width speed flit256 lopt cfg s
  | .linkLeavesL0 => Sys2Proof.Machine.execLinkLeavesL0 s
  | .linkReturnsL0 => Sys2Proof.Machine.execLinkReturnsL0 s
  | .hostPortReset => Sys2Proof.Machine.execHostPortReset s
  | .hostMemRead off cacheable => Sys2Proof.Machine.execHostMemRead off cacheable s
  | .hostMemWrite off data => Sys2Proof.Machine.execHostMemWrite off data s
  | .bringIn p tile blob => Sys2Proof.Machine.execBringIn p tile blob s
  | .ideFailure stream => Sys2Proof.Machine.execIdeFailure stream s
  | .doeDiscovery index => Sys2Proof.Machine.execDoeDiscovery index s
  | .tableAccess => Sys2Proof.Machine.execTableAccess s
  | .ideKm session stream key go => Sys2Proof.Machine.execIdeKm session stream key go s
  | .laserInputLost engine inputB => Sys2Proof.Machine.execLaserInputLost engine inputB s
  | .ringsLocked port => Sys2Proof.Machine.execRingsLocked port s
  | .portTrained port healthy => Sys2Proof.Machine.execPortTrained port healthy s
  | .portTrainTimeout port => Sys2Proof.Machine.execPortTrainTimeout port s
  | .portDownRetry port => Sys2Proof.Machine.execPortDownRetry port s
  | .wavelengthFail port wave => Sys2Proof.Machine.execWavelengthFail port wave s
  | .lossOfSignal port => Sys2Proof.Machine.execLossOfSignal port s
  | .flitReceive port flit cws => Sys2Proof.Machine.execFlitReceive port flit cws s
  | .ackTimer port => Sys2Proof.Machine.execAckTimer port s
  | .replayTimeout port => Sys2Proof.Machine.execReplayTimeout port s
  | .linkId port body => Sys2Proof.Machine.execLinkId port body s
  | .auditPeriod port => Sys2Proof.Machine.execAuditPeriod port s
  | .auditStart port wave => Sys2Proof.Machine.execAuditStart port wave s
  | .switchOut port wave => Sys2Proof.Machine.execSwitchOut port wave s
  | .auditDwellEnd port bits errs => Sys2Proof.Machine.execAuditDwellEnd port bits errs s
  | .testEnd port wave result => Sys2Proof.Machine.execTestEnd port wave result s
  | .switchBack port wave => Sys2Proof.Machine.execSwitchBack port wave s
  | .messageForward port typ h body => Sys2Proof.Machine.execMessageForward port typ h body s
  | .stepDesc port h body => Sys2Proof.Machine.execStepDesc port h body s
  | .stepData port h body => Sys2Proof.Machine.execStepData port h body s
  | .stepDone port h body => Sys2Proof.Machine.execStepDone port h body s
  | .hist port h body => Sys2Proof.Machine.execHist port h body s
  | .stepAbort port h body => Sys2Proof.Machine.execStepAbort port h body s
  | .rdReq port h body => Sys2Proof.Machine.execRdReq port h body s
  | .rdRsp port h body => Sys2Proof.Machine.execRdRsp port h body s
  | .wrReq port h body => Sys2Proof.Machine.execWrReq port h body s
  | .wrAck port h body => Sys2Proof.Machine.execWrAck port h body s
  | .bankWr port h body => Sys2Proof.Machine.execBankWr port h body s
  | .bankAck port h body => Sys2Proof.Machine.execBankAck port h body s
  | .atomAdd port h body => Sys2Proof.Machine.execAtomAdd port h body s
  | .atomMax port h body => Sys2Proof.Machine.execAtomMax port h body s
  | .atomMin port h body => Sys2Proof.Machine.execAtomMin port h body s
  | .atomAnd port h body => Sys2Proof.Machine.execAtomAnd port h body s
  | .atomOr port h body => Sys2Proof.Machine.execAtomOr port h body s
  | .atomSwap port h body => Sys2Proof.Machine.execAtomSwap port h body s
  | .atomCas port h body => Sys2Proof.Machine.execAtomCas port h body s
  | .atomFadd port h body => Sys2Proof.Machine.execAtomFadd port h body s
  | .atomRsp port h body => Sys2Proof.Machine.execAtomRsp port h body s
  | .collData port h body => Sys2Proof.Machine.execCollData port h body s
  | .collEnd port h body => Sys2Proof.Machine.execCollEnd port h body s
  | .partnerSilent p m => Sys2Proof.Machine.execPartnerSilent p m s
  | .fault port h body => Sys2Proof.Machine.execFault port h body s
  | .faultWindowClose p slot => Sys2Proof.Machine.execFaultWindowClose p slot s
  | .leadFaultWindowClose p slot => Sys2Proof.Machine.execLeadFaultWindowClose p slot s
  | .emittedEntryExpire p slot => Sys2Proof.Machine.execEmittedEntryExpire p slot s
  | .confirmationTimeout p slot => Sys2Proof.Machine.execConfirmationTimeout p slot s
  | .faultAck p => Sys2Proof.Machine.execFaultAck p s
  | .epochSet p w => Sys2Proof.Machine.execEpochSet p w s
  | .kill p w => Sys2Proof.Machine.execKill p w s
  | .controlInterval m => Sys2Proof.Machine.execControlInterval m s
  | .pwrBrakeNAssert => Sys2Proof.Machine.execPwrBrakeNAssert s
  | .pwrBrakeNRelease => Sys2Proof.Machine.execPwrBrakeNRelease s
  | .undervolt => Sys2Proof.Machine.execUndervolt s
  | .undervoltClear => Sys2Proof.Machine.execUndervoltClear s
  | .capdropClear => Sys2Proof.Machine.execCapdropClear s
  | .flowOkNRelease => Sys2Proof.Machine.execFlowOkNRelease s
  | .flowOkNRestored => Sys2Proof.Machine.execFlowOkNRestored s
  | .flowJunctionSample temps => Sys2Proof.Machine.execFlowJunctionSample temps s
  | .hot => Sys2Proof.Machine.execHot s
  | .hotClear => Sys2Proof.Machine.execHotClear s
  | .hardwareTrip source junction => Sys2Proof.Machine.execHardwareTrip source junction s
  | .controlledStop trigger => Sys2Proof.Machine.execControlledStop trigger s
  | .heartbeat ep seq => Sys2Proof.Machine.execHeartbeat ep seq s
  | .heartbeatLost => Sys2Proof.Machine.execHeartbeatLost s
  | .domainUsable d codes => Sys2Proof.Machine.execDomainUsable d codes s
  | .takeOwnership via token block => Sys2Proof.Machine.execTakeOwnership via token block s
  | .enrol via token block => Sys2Proof.Machine.execEnrol via token block s
  | .revoke via token block => Sys2Proof.Machine.execRevoke via token block s
  | .release via token block => Sys2Proof.Machine.execRelease via token block s
  | .svnCommit via token block => Sys2Proof.Machine.execSvnCommit via token block s
  | .trngHealthFail => Sys2Proof.Machine.execTrngHealthFail s
  | .debugSet p => Sys2Proof.Machine.execDebugSet p s
  | .debugUnlock p => Sys2Proof.Machine.execDebugUnlock p s
  | .debugLock p => Sys2Proof.Machine.execDebugLock p s
  | .debugAddrSelect p w => Sys2Proof.Machine.execDebugAddrSelect p w s
  | .blackBoxWrite => Sys2Proof.Machine.execBlackBoxWrite s
  | .overflow => Sys2Proof.Machine.execOverflow s
  | .blackBoxReadSelect w => Sys2Proof.Machine.execBlackBoxReadSelect w s
  | .clear token block => Sys2Proof.Machine.execClear token block s
  | .read ep area start count => Sys2Proof.Machine.execRead ep area start count s
  | .state ep => Sys2Proof.Machine.execState ep s
  | .regRead ep off => Sys2Proof.Machine.execRegRead ep off s
  | .regWrite ep off value block => Sys2Proof.Machine.execRegWrite ep off value block s
  | .setEndpointId ep eid => Sys2Proof.Machine.execSetEndpointId ep eid s
  | .getEndpointId ep => Sys2Proof.Machine.execGetEndpointId ep s
  | .getMctpVersionSupport ep => Sys2Proof.Machine.execGetMctpVersionSupport ep s
  | .getMessageTypeSupport ep => Sys2Proof.Machine.execGetMessageTypeSupport ep s
  | .getVendorDefinedMessageSupport ep => Sys2Proof.Machine.execGetVendorDefinedMessageSupport ep s
  | .i3cDynamicAddress addr => Sys2Proof.Machine.execI3cDynamicAddress addr s
  | .getSensorReading ep n => Sys2Proof.Machine.execGetSensorReading ep n s
  | .setEventReceiver ep eid => Sys2Proof.Machine.execSetEventReceiver ep eid s
  | .getCertificate ep off len => Sys2Proof.Machine.execGetCertificate ep off len s
  | .challenge ep nonce => Sys2Proof.Machine.execChallenge ep nonce s
  | .getMeasurements ep index nonce => Sys2Proof.Machine.execGetMeasurements ep index nonce s
  | .keyExchange r => Sys2Proof.Machine.execKeyExchange r s
  | .keyUpdate ep session => Sys2Proof.Machine.execKeyUpdate ep session s
  | .requestUpdate ep => Sys2Proof.Machine.execRequestUpdate ep s
  | .firmwareData data => Sys2Proof.Machine.execFirmwareData data s
  | .verifyComplete ep release svn1 svn2 check => Sys2Proof.Machine.execVerifyComplete ep release svn1 svn2 check s
  | .activateFirmware ep selfContained => Sys2Proof.Machine.execActivateFirmware ep selfContained s
  | .getFirmwareParameters ep => Sys2Proof.Machine.execGetFirmwareParameters ep s
  | .modResetNAssert => Sys2Proof.Machine.execModResetNAssert s
  | .startUp a b => Sys2Proof.Machine.execStartUp a b s
  | .mainInputStable training edgeFail dies trngOk => Sys2Proof.Machine.execMainInputStable training edgeFail dies trngOk s
  | .memLinkRetrainDone edge => Sys2Proof.Machine.execMemLinkRetrainDone edge s
  | .laserInputRestored engine inputB => Sys2Proof.Machine.execLaserInputRestored engine inputB s
  | .perBankRefresh rows => Sys2Proof.Machine.execPerBankRefresh rows s
  | .hbmWriteAcknowledge site e => Sys2Proof.Machine.execHbmWriteAcknowledge site e s
  | .referenceLocked => Sys2Proof.Machine.execReferenceLocked s
  | .allPowerLost => Sys2Proof.Machine.execAllPowerLost s
  | .spdmHeartbeat ep session => Sys2Proof.Machine.execSpdmHeartbeat ep session s

end Sys2Proof.Machine
end

