-- ==== Sys2Proof/Machine/Tick.lean ====
section
/-! DEFINITION. What happens with time alone: one tick of 62.5 ps when no command waits. Module time counts on, partition
offsets slew, stalls and waits for page-tiles are counted, ports under test count bits, flips and switches end, kills go on past their first steps, armed snapshots are latched, and each fabric die writes the oldest
record of its trace queue into its partition's ring. -/

namespace Sys2Proof.Machine

open Sys2Proof

-- Assumption log 22 (DEDUCED).
/-- One tick of a partition's time line: an offset error is slewed away by 1 tick in each 4,096 ticks (R49). -/
def PTime.tick (x : PTime) : PTime :=
  if 0 < x.phase then { x with phase := x.phase - 1 }
  else if x.slew = 0 then x
  else if 0 < x.slew then { x with offset := x.offset + 1, slew := x.slew - 1, phase := 4095 }
  else { x with offset := x.offset - 1, slew := x.slew + 1, phase := 4095 }

/-- Slots of a partition's trace ring: 32 bytes each in SIZE page-tiles (R67). -/
def State.ringSlots (s : State) (p : Nat) : Nat := s.fa .timeTraceCtlSize [p] * 2048

-- Assumption log 20 (DEDUCED).
/-- Writes a trace record into the ring of its partition (R66, R67). A STOP ring that has reached its end, or a partition
without a ring, drops the record and counts it. NEXT is stored without its last wrap, so that the write that overwrites
the oldest record is the one that sets WRAPPED. The writer reads the other half of the codeword for the whole one that it writes
(R370); an uncorrectable one is counted and gives zeros (R371). -/
def State.ringWrite (s : State) (r : TraceRec) : State :=
  let p := r.part
  let n := s.ringSlots p
  let next := s.fv .timeTracePtrNext [p]
  let wraps := s.fa .timeTraceCtlMode [p] == 1
  if n = 0 ∨ s.fv .timeTracePtrFull [p] = 1 ∨ (n ≤ next ∧ wraps = false) then
    s.setf .timeTraceDropCount [p] (min (2 ^ 48 - 1) (s.fv .timeTraceDropCount [p] + 1))
  else
    let slot := next % n
    let a := (s.ra .timeTraceBase [p]).toNat + 32 * slot
    let line := a / 64 * 64
    let rd := s.readPart p 0x1FFF 0 1 line
    let old := rd.2.data
    let bytes := old.take (a % 64) ++ leBytes 32 r.bits.toNat ++ old.drop (a % 64 + 32)
    let t := (rd.1.writePart p 0x1FFF line bytes).1
    let t := if n ≤ next then t.setf .timeTracePtrWrapped [p] 1 else t
    let t := t.setf .timeTracePtrNext [p] (slot + 1)
    if slot + 1 = n ∧ wraps = false then t.setf .timeTracePtrFull [p] 1 else t

-- Assumption log 2 (DESIGN CHOICE), 20 (DEDUCED).
/-- A fabric die writes the oldest record of its trace queue (R66). -/
def State.drainTrace (s : State) (die : Nat) : State :=
  match tabGet (fun _ => []) s.traceQ die with
  | [] => s
  | r :: t => (s.setTraceQ (tabSet (fun _ => []) s.traceQ die t)).ringWrite r

/-- The pacer holds a compute unit that has work: an entry could fire, and no token is left (R512). -/
def State.paced (s : State) (p site : Nat) : Bool :=
  let x := s.site site
  !isMu site && s.fv .siteStateWork [site] == 1 && (s.part p).tokens == 0 && x.cu.waiting.isNone && (x.cu.choose x.front).isSome

/-- The cause that a stall of a site's unit has at this tick (R106); one that the pacer holds counts as INPUT_EMPTY (R512). -/
def State.causeNow (s : State) (p site : Nat) : Nat :=
  if (s.part p).hold.isSome then 7 else if isMu site then s.muCause p site else if s.paced p site then 0 else (s.site site).cuCause

-- Assumption log 32 (DEDUCED).
/-- A tick of a site of a firing partition: the stall of its unit counts for its cause, a unit that the pacer holds counts in PACED_TICKS,
and its switch unit counts a transfer that waits for credit (R105, R106, R110, R512). -/
def State.stallTick (s : State) (p site : Nat) : State :=
  let t := if s.fv .siteStateWork [site] = 1 then s.recause p site (s.causeNow p site) else s
  let t := if s.paced p site && (s.part p).hold.isNone then t.bump .powerPacedTicks [] 1 else t
  if (t.site site).creditWait then t.bump .siteSuStall [site] 1 else t

-- Assumption log 32 (DEDUCED).
/-- The stalls of every partition whose step fires. -/
def State.stallTicks (s : State) : State :=
  (List.range 32).foldl (fun t p =>
    if t.formed p && t.stepFires p then (t.sitesOf p).foldl (fun u i => u.stallTick p i) t else t) s

/-- Some access of the partition waits for a bring-in: one of its memory units, or one of the host or the hub (R430). -/
def State.migWaits (s : State) (p : Nat) : Bool :=
  s.hubWait.any (fun r => r.part == p && (s.absent p 1 r.addr).isSome) ||
    s.hubMsgs.any (fun e => s.partOfTag e.2.hdr.ptag == some p && (s.absent p
      (if e.2.typ = 0x10 then leAt e.2.body 8 2 / 64 else (e.2.body.length - 8) / 64) (leAt e.2.body 0 8 % 2 ^ 44)).isSome) ||
    (s.sitesOf p).any (s.waitsIn p)

/-- MIG_WAIT of every partition that has movable page-tiles in host memory: one for a tick in which an access waits (R430). -/
def State.migTicks (s : State) : State :=
  (List.range 32).foldl (fun t p =>
    if t.formed p && decide (t.fv .hostMovableOutTiles [p] ≠ 0) && t.migWaits p then t.bump .hostMigWait [p] 1 else t) s

/-- What is counted by the tick: stalls, waits for page-tiles, bits of ports under test. -/
def State.countTicks (s : State) : State := (List.range 128).foldl State.testTick s.stallTicks.migTicks

/-- One tick of every time line: module time counts on, and the offset of a partition slews on every module but its lead (R46, R49,
R58). -/
def State.advanceTime (s : State) : State :=
  let ps : Tab Part := s.parts.map (fun (e : Nat × Part) =>
    (e.1, if s.isLead e.1 then e.2 else { e.2 with time := e.2.time.tick }))
  { s with now := s.now + 1, parts := ps.filter (fun e => e.2 != Part.reset) }

-- Assumption log 2 (DESIGN CHOICE), 21 (DESIGN CHOICE).
/-- One tick of the module. Its time base stands while MOD_RESET_N is asserted (R47). -/
def State.tick (s : State) : State :=
  if s.power.inReset then s
  else
    let t := (List.range 32).foldl State.killTick s.countTicks
    let t := (t.setPower { t.power with boundary := false }).advanceTime
    let t := (List.range 32).foldl (fun u p => (u.endHold p).snapTick p) t
    (List.range 8).foldl State.drainTrace t

end Sys2Proof.Machine
end

