-- ==== Sys2Proof/Machine/Step.lean ====
section
/-! DEFINITION. The step of the module: it takes the command at the front of the queue and runs it with the queue's rest.
On an empty queue a tick of time passes (assumption log 2). -/

namespace Sys2Proof.Machine

open Sys2Proof

/-- The state with another queue of waiting commands. -/
def State.setPending (s : State) (q : List Instr) : State := { s with pending := q }

/-- One step. -/
def step (s : State) : Host.Outcome State Fault Refusal :=
  match s.pending with
  | [] => .next s.tick
  | c :: rest => exec c (s.setPending rest)

-- Assumption log 7 (DESIGN CHOICE).
/-- The state with the command that a table word spells at the front of the queue; the table gives no row any bits, so
no word spells a command and the state stands as it is. -/
def State.withFetchWord (s : State) (nbits w : Nat) : State :=
  match decodeTableWord nbits w with
  | some c => s.setPending (c :: s.pending)
  | none => s

end Sys2Proof.Machine
end

