-- ==== Sys2Proof/Safety.lean ====
section
/-! DEFINITION. What claims about the machine say of a state: the canonical form of memory and of the register copies, so
that equal contents are equal data, and what no command may undo. -/

namespace Sys2Proof.Machine

open Sys2Proof

/-- The canonical form of HBM's cells: addresses rise strictly and no listed byte equals what an unlisted address reads. -/
def Memory.wf (m : List (Nat × Byte)) : Bool := tabWf hbmZero m

/-- The canonical form of the four copies of the registers (R32). -/
def Regs.wf (r : Regs) : Bool :=
  tabWf valReset r.val && tabWf rwsReset r.act && tabWf rwsReset r.stg && tabWf rwsReset r.pnd

/-- Memory and registers are in canonical form. -/
def State.wf (s : State) : Bool := Memory.wf s.hbm.cells && Regs.wf s.regs

/-- What the fuses and counters that no power loss clears hold never goes back: the anti-rollback fuses and the key
revocation fuse (R530, R531), the challenge counter of the seal unit, the boot count of the black box (R550). -/
def State.ratchets (s t : State) : Prop :=
  s.sealUnit.fused ≤ t.sealUnit.fused ∧ (s.sealUnit.primaryRevoked = true → t.sealUnit.primaryRevoked = true) ∧
    s.sealUnit.nonce ≤ t.sealUnit.nonce ∧ s.bbox.boots ≤ t.bbox.boots

/-- An outcome is a next state of which something holds. -/
def Runs (o : Host.Outcome State Fault Refusal) (P : State → Prop) : Prop := ∃ t, o = .next t ∧ P t

/-- Two states differ in the stored words of some registers at most: nothing else of the machine has changed. -/
def State.onlyRegs (s t : State) (l : List (Rg × List Nat)) : Prop :=
  t = s.setRegs { s.regs with val := t.regs.val } ∧
    ∀ a, a ∉ l.map (fun x => x.1.at x.2) → tabGet valReset t.regs.val a = tabGet valReset s.regs.val a

/-- Every byte of HBM reads as before. -/
def State.sameBytes (s t : State) : Prop := ∀ a, t.hbm.byte a = s.hbm.byte a

end Sys2Proof.Machine
end

