-- ==== Sys2Proof/Certificates/Slice0/Obligations.lean ====
section
/-! DEFINITION. What the provers are asked to prove of the model, from the numbered rules of the manual. -/

open Sys2Proof
open Sys2Proof.Machine

/-- A step runs the command at the front of the queue. For every command c, state s and rest q of the queue, a step of
s with c in front of q is exec of c on s with the queue q. -/
def Obligations.StepRunsTheFrontCommand : Prop :=
  ∀ (c : Instr) (s : State) (q : List Instr), step (s.setPending (c :: q)) = exec c (s.setPending q)

/-- On an empty queue one tick of time passes (the model's own choice, log 2). With no command waiting a step answers
a next state in which module time has advanced by one tick, or stands while MOD_RESET_N is asserted, and the queue
is still empty. -/
def Obligations.EmptyQueueTicks : Prop :=
  ∀ s : State, s.pending = [] →
    Runs (step s) (fun t => t.pending = [] ∧ t.now = if s.power.inReset then s.now else s.now + 1)

/-- Only time itself and a new start change module time. Every command but START_UP and ALL_POWER_LOST, after both of
which module time counts from zero, leaves module time as it is: it advances only when no command waits. -/
def Obligations.NoCommandChangesModuleTime : Prop :=
  ∀ (c : Instr) (s : State), (∀ a b, c ≠ .startUp a b) → c ≠ .allPowerLost → Runs (exec c s) (fun t => t.now = s.now)

/-- The state after reset. After reset the queue and the outputs are empty, time is zero, and memory and registers are
in canonical form. Every register of the address map, at every one of its indices, holds the reset value of its
table: the RWS bits in the staged, the active and the pending copy, the other bits in the stored word; a register
whose table gives none holds zero. Every register has its place in the map, from its first index to its last. The
reset values that the manual does not state are the model's (log 10, DESIGN CHOICE). -/
def Obligations.ResetState : Prop :=
  State.reset.pending = [] ∧ State.reset.out = [] ∧ State.reset.now = 0 ∧ State.reset.wf = true ∧
    (∀ (r : Rg) (ix : List Nat), regAt (r.at ix) = some (r, ix) →
      State.reset.rv r ix = BitVec.ofNat 64 r.spec.rst &&& ~~~(BitVec.ofNat 64 r.spec.rws) ∧
      State.reset.rs r ix = BitVec.ofNat 64 r.spec.rst &&& BitVec.ofNat 64 r.spec.rws ∧
      State.reset.ra r ix = State.reset.rs r ix ∧ State.reset.rp r ix = State.reset.rs r ix ∧
      (r.spec.rst = 0 → State.reset.rv r ix = 0 ∧ State.reset.rs r ix = 0)) ∧
    ∀ r : Rg, regAt (r.at (r.spec.dims.map (fun _ => 0))) = some (r, r.spec.dims.map (fun _ => 0)) ∧
      regAt (r.at (r.spec.dims.map (fun d => d.2 - 1))) = some (r, r.spec.dims.map (fun d => d.2 - 1))

/-- Every step keeps memory and registers in canonical form. From every state whose HBM and register copies are in
canonical form (addresses strictly rising, no entry equal to what an unlisted address reads as), a step answers a
state in canonical form. -/
def Obligations.CanonicalFormIsKept : Prop :=
  ∀ s t : State, s.wf = true → step s = .next t → t.wf = true

/-- A step takes exactly the command at the front, and takes back no output. Whatever a step does, the queue after it
is the queue without its first command, and every output that the module had made stands: outputs are only
appended. -/
def Obligations.StepTakesExactlyTheFrontCommand : Prop :=
  ∀ s t : State, step s = .next t → t.pending = s.pending.tail ∧ s.out <+: t.out

/-- No command stops the module. Every command on every state answers a next state: no fault and no refusal is
reached. The manual gives every command an effect or none, and that what stands outside its conditions is taken
without effect is the model's choice (log 1, DESIGN CHOICE). -/
def Obligations.NoCommandStops : Prop :=
  ∀ (c : Instr) (s : State), ∃ t, exec c s = .next t

/-- No step undoes an anti-rollback fuse, the key-revocation fuse, the challenge counter or the boot count. Over every
step, power losses and resets included, the fused SVN count, the seal unit's NONCE and the boot count of the black
box never decrease, and a blown key-revocation fuse stays blown. -/
def Obligations.FusesAndCountersNeverGoBack : Prop :=
  ∀ s t : State, step s = .next t → s.ratchets t

/-- A host write of a register reaches the stored word and the staged copy, never the active or the pending one. A
REGISTER_WRITE of 64 bits, or of the 32 bits of either half, to an assigned, powered register that is not WO and
has no capture of its own: of the bits that it reaches RW bits take the value, a 1 clears a W1C bit, RWS bits go
to the staged copy; the active and the pending copies, every other register and the rest of the machine stand, but
that a write of TRACE_BASE or TRACE_CTL is noted for the next TIME commit (R67; that note is log 19, DEDUCED).
MU_BANK_OWN of a site without a memory unit takes no write. A write of DOMAIN_MISS that clears VALID clears COUNT
as well, and one of ALERT that lets an enabled event assert ALERT_N raises the in-band interrupt (log 153,
DEDUCED). The staged copies of POLICY and BB_CTL keep their reserved bits for the checks of their commits (log 16,
DEDUCED). -/
def Obligations.RegisterWriteStagesRwsFields : Prop :=
  ∀ (s : State) (a width : Nat) (w : Word) (b : Option (List Byte)) (r : Rg) (ix : List Nat), s.wf = true →
    accessOk a width = true → s.missed a = none → s.groupClosed a = false → regAt (a / 8 * 8) = some (r, ix) → r.spec.wo = false →
    let m : Word := if width = 64 then BitVec.allOnes 64 else (0xFFFFFFFF : Word) <<< (8 * (a % 8))
    let v : Word := if width = 64 then w else (w &&& 0xFFFFFFFF) <<< (8 * (a % 8))
    let rw := BitVec.ofNat 64 r.spec.rw &&& m
    let stg := stagedMask r &&& m
    let new := ((s.rv r ix &&& ~~~rw) ||| (v &&& rw)) &&& ~~~(BitVec.ofNat 64 r.spec.w1c &&& m &&& v)
    let written (t : State) (x : Word) : Prop := t.regs.act = s.regs.act ∧ t.regs.pnd = s.regs.pnd ∧ t.rv r ix = x ∧
      (r.spec.rws ≠ 0 → r.spec.rws < 2 ^ 64 → t.rs r ix = (s.rs r ix &&& ~~~stg) ||| (v &&& stg)) ∧
      ∀ q jx, q.at jx ≠ r.at ix → t.rv q jx = s.rv q jx ∧ t.rs q jx = s.rs q jx
    (r = .siteMuBankOwn → isMu (ix.getD 0 0) = false → exec (.registerWrite a width w b) s = .next s) ∧
    (r ∉ [Rg.timeSnapAt, .serveSeqSel, .hbmTagSel, .bboxRdSel, .partDbgAddr, .hubDomainMiss, .hubAlert] →
      (r = .siteMuBankOwn → isMu (ix.getD 0 0) = true) → Runs (exec (.registerWrite a width w b) s) (fun t =>
        t = (if r ∈ [Rg.timeTraceBase, .timeTraceCtl] then s.traceWrite (ix.getD 0 0) else s).setRegs t.regs ∧ written t new)) ∧
    (r = .hubDomainMiss → Runs (exec (.registerWrite a width w b) s) (fun t => t = s.setRegs t.regs ∧
      written t (if Fld.hubDomainMissValid.get new = 0 then Fld.hubDomainMissCount.put new 0 else new))) ∧
    (r = .hubAlert → Runs (exec (.registerWrite a width w b) s) (fun t =>
      t = (if (t.alertAsserted && !s.alertAsserted) = true then s.emit (.ibi 1) else s).setRegs t.regs ∧ written t new))

/-- Which register writes have no effect. A REGISTER_WRITE that is not naturally aligned, that reaches the group of a
partition that is not formed, or an address that no register occupies, changes nothing; one to a block without
power changes nothing but DOMAIN_MISS, which records the domain and the address. That a misaligned access to a
block without power records nothing is log 15 (DEDUCED), which block stands for a die whose link is down is log 17
(DEDUCED); that a group of a partition that is not formed takes no write is R69, R290 and R442. -/
def Obligations.RegisterAccessesWithoutEffect : Prop :=
  ∀ (s : State) (a width : Nat) (w : Word) (b : Option (List Byte)),
    (accessOk a width = false → exec (.registerWrite a width w b) s = .next s) ∧
    (accessOk a width = true → ∀ d, s.missed a = some d →
      exec (.registerWrite a width w b) s = .next (s.noteMiss a d) ∧
        s.onlyRegs (s.noteMiss a d) [(.hubDomainMiss, [])] ∧
        (s.wf = true → s.fv .hubDomainMissValid [] = 0 → a < 2 ^ 28 → d < 2 ^ 8 →
          (s.noteMiss a d).fv .hubDomainMissValid [] = 1 ∧ (s.noteMiss a d).fv .hubDomainMissDomain [] = d ∧
          (s.noteMiss a d).fv .hubDomainMissCount [] = 1 ∧ (s.noteMiss a d).fv .hubDomainMissAddr [] = a)) ∧
    (accessOk a width = true → s.missed a = none → (s.groupClosed a = true ∨ regAt (a / 8 * 8) = none) →
      exec (.registerWrite a width w b) s = .next s)

/-- A 32-bit write of a WO register has no effect. A 32-bit REGISTER_WRITE to a register that is WO leaves the state
as it is. -/
def Obligations.WoRegistersTakeWholeValues : Prop :=
  ∀ (s : State) (a : Nat) (w : Word) (b : Option (List Byte)) (r : Rg) (ix : List Nat), s.missed a = none →
    regAt (a / 8 * 8) = some (r, ix) → r.spec.wo = true → exec (.registerWrite a 32 w b) s = .next s

/-- REG_READ and REG_WRITE over MCTP. Before HUB.BOOT.STAGE reaches MGMT both answer NOT_READY (4), for an offset
outside the permitted blocks DENIED (2), and nothing else changes; otherwise REG_READ answers OK with the 64 bits
a host read gives, and REG_WRITE does what the 64-bit host write does and answers OK. For an assigned, powered
register that is not WO and has no effect of its own REG_WRITE gives RW bits the value, clears the W1C bits
written 1, sends the RWS bits to the staged copy, leaves every other register and the rest of the machine, and
answers OK. What management may reach before MGMT and which blocks are permitted are read as logs 156 and 159
(DEDUCED) say; a host read stands for the read itself (log 8, DESIGN CHOICE; logs 15 to 17, DEDUCED). -/
def Obligations.VendorRegisterAccess : Prop :=
  ∀ (s : State) (ep off : Nat) (v : Word) (b : Option (List Byte)) (r : Rg) (ix : List Nat),
    let rw := BitVec.ofNat 64 r.spec.rw
    let new := ((s.rv r ix &&& ~~~rw) ||| (v &&& rw)) &&& ~~~(BitVec.ofNat 64 r.spec.w1c &&& v)
    (s.mgmtUp = false → exec (.regRead ep off) s = .next (s.vendorRsp ep 0x20 4 []) ∧
      exec (.regWrite ep off v b) s = .next (s.vendorRsp ep 0x21 4 [])) ∧
    (s.mgmtUp = true → vendorBlock off = false → exec (.regRead ep off) s = .next (s.vendorRsp ep 0x20 2 []) ∧
      exec (.regWrite ep off v b) s = .next (s.vendorRsp ep 0x21 2 [])) ∧
    (s.mgmtUp = true → vendorBlock off = true →
      exec (.regRead ep off) s =
        .next ((s.readReg off 64).1.vendorRsp ep 0x20 0 (leBytes 8 (s.readReg off 64).2.toNat)) ∧
      (∃ t, exec (.registerWrite off 64 v b) s = .next t ∧
        exec (.regWrite ep off v b) s = .next (t.vendorRsp ep 0x21 0 [])) ∧
      (s.wf = true → accessOk off 64 = true → s.missed off = none → s.groupClosed off = false → regAt off = some (r, ix) →
        r.spec.wo = false → r ∉ [Rg.siteMuBankOwn, .timeSnapAt, .timeTraceBase, .timeTraceCtl, .serveSeqSel, .hbmTagSel,
          .bboxRdSel, .partDbgAddr, .hubDomainMiss, .hubAlert] →
        ∃ u, exec (.regWrite ep off v b) s = .next (u.vendorRsp ep 0x21 0 []) ∧ u = s.setRegs u.regs ∧
          u.regs.act = s.regs.act ∧ u.regs.pnd = s.regs.pnd ∧ u.rv r ix = new ∧
          (r.spec.rws ≠ 0 → r.spec.rws < 2 ^ 64 →
            u.rs r ix = (s.rs r ix &&& ~~~(stagedMask r)) ||| (v &&& stagedMask r)) ∧
          ∀ q jx, q.at jx ≠ r.at ix → u.rv q jx = s.rv q jx ∧ u.rs q jx = s.rs q jx))

/-- COMMIT_GO starts a commit. A COMMIT_GO to a powered block with no commit pending copies the staged copy of every
address of the block into the pending copy and leaves the active and staged copies alone; RESULT reads PENDING (1)
and TOKEN the written value, and a commit of TIME carries the trace fields written since the last one (R67). A
later host write of a register changes only its staged copy. -/
def Obligations.CommitGoCopiesStagedToPending : Prop :=
  ∀ (s : State) (base token : Nat) (r : Rg) (ix : List Nat), s.wf = true → blockAt base = some (r, ix) →
    s.missed base = none → s.commitPending r ix = false →
    Runs (exec (.commitGo base token) s) (fun t =>
      (∀ a, tabGet rwsReset t.regs.pnd a = if blkBase r ix ≤ a ∧ a < blkEnd r ix then tabGet rwsReset s.regs.stg a
        else tabGet rwsReset s.regs.pnd a) ∧
      t.regs.act = s.regs.act ∧ t.regs.stg = s.regs.stg ∧ getBits (t.rv r ix) 10 8 = 1 ∧
      getBits (t.rv r ix) 31 16 = token % 2 ^ 16 ∧ (∀ q jx, q.at jx ≠ r.at ix → t.rv q jx = s.rv q jx) ∧
      t = (if r = .timeCommitStatus then s.carryTrace else s).setRegs t.regs) ∧
    ∀ (q : Rg) (jx : List Nat) (w m : Word), (s.writePlain q jx w m).regs.act = s.regs.act ∧
      (s.writePlain q jx w m).regs.pnd = s.regs.pnd

/-- A second GO is discarded, CANCEL abandons. While a commit is pending, COMMIT_GO sets the bit LOST of the block's
status register and changes nothing else, and the commit stays pending. COMMIT_CANCEL then sets RESULT to
ABANDONED (4), DONE and CHECK 0, and leaves every RWS copy, every other register but the black box's LOST and, but
for the black box, the rest of the machine alone. With no commit pending COMMIT_CANCEL changes nothing. A COMMIT
write with CANCEL = 1 does what COMMIT_CANCEL does, whatever GO holds. To a block without power both are noted in
DOMAIN_MISS alone; at an address that is no block's both change nothing. -/
def Obligations.CommitWhilePendingAndCancel : Prop :=
  ∀ (s : State) (base token : Nat) (w : Word),
    (∀ (r : Rg) (ix : List Nat), s.wf = true → blockAt base = some (r, ix) → s.missed base = none →
      (s.commitPending r ix = true →
        exec (.commitGo base token) s = .next (s.setv r ix (putBits (s.rv r ix) 1 1 1)) ∧
        getBits ((s.setv r ix (putBits (s.rv r ix) 1 1 1)).rv r ix) 1 1 = 1 ∧
        (s.setv r ix (putBits (s.rv r ix) 1 1 1)).commitPending r ix = true) ∧
      (s.commitPending r ix = true → Runs (exec (.commitCancel base) s) (fun t =>
        t.rv r ix = putBits (putBits (putBits (s.rv r ix) 47 32 0) 10 8 4) 0 0 1 ∧
        getBits (t.rv r ix) 10 8 = 4 ∧ getBits (t.rv r ix) 0 0 = 1 ∧ t.commitPending r ix = false ∧
        t.regs.act = s.regs.act ∧ t.regs.stg = s.regs.stg ∧ t.regs.pnd = s.regs.pnd ∧
        (∀ q jx, q.at jx ≠ r.at ix → q.at jx ≠ Rg.at .bboxLost [] → t.rv q jx = s.rv q jx) ∧
        t = (s.setRegs t.regs).setBBox t.bbox)) ∧
      (s.commitPending r ix = false → exec (.commitCancel base) s = .next s) ∧
      (w.getLsbD 1 = true → exec (.commitCancel base) s = .next (s.commitWrite base w))) ∧
    (∀ (x : Rg × List Nat) (d : Nat), blockAt base = some x → s.missed base = some d →
      exec (.commitGo base token) s = .next (s.noteMiss (base + 0xFF0) d) ∧
      exec (.commitCancel base) s = .next (s.noteMiss (base + 0xFF0) d)) ∧
    (blockAt base = none → exec (.commitGo base token) s = .next s ∧ exec (.commitCancel base) s = .next s)

/-- A commit whose checks fail leaves the active copy alone. At the quiescent boundary of a block with a commit
pending, where some check fails first, COMMIT_BOUNDARY leaves the active, staged and pending copies alone, RESULT
becomes REJECTED (3), CHECK holds the number of that check and DONE is set. Before the boundary, or with nothing
pending, nothing changes. -/
def Obligations.CommitBoundaryRejects : Prop :=
  ∀ (s : State) (base : Nat) (r : Rg) (ix : List Nat), s.wf = true → blockAt base = some (r, ix) →
    (∀ c, s.commitPending r ix = true → s.quiescent r ix = true → s.commitChecks r ix = some c →
      Runs (exec (.commitBoundary base) s) (fun t => getBits (t.rv r ix) 10 8 = 3 ∧ getBits (t.rv r ix) 0 0 = 1 ∧
        getBits (t.rv r ix) 47 32 = c % 2 ^ 16 ∧ t.regs.act = s.regs.act ∧ t.regs.stg = s.regs.stg ∧
        t.regs.pnd = s.regs.pnd ∧ s.sameBytes t)) ∧
    (s.commitPending r ix = false ∨ s.quiescent r ix = false → exec (.commitBoundary base) s = .next s)

/-- A commit whose checks pass replaces the whole active copy of its block and has the effect of the block. At the
quiescent boundary, where every check passes, COMMIT_BOUNDARY makes the active copy of every address of the block
equal the pending copy and leaves the active copy elsewhere and the rest of the machine alone; then comes the
effect of the block, and RESULT becomes APPLIED (2) with DONE and CHECK 0. BBOX has no effect; TIME starts anew
the rings whose trace fields the commit changes or carries; POWER applies CAP and the park threshold and switches
off the domains cleared, after saving the black box where the flash interface goes off; SEAL locks every partition
when DEBUG_EN clears; HOST adds and drops segments and turns the ledgers on or off; FLASH takes channels out of
service or back; HBM drops the tile cache when bypassed; OPTIC moves every port; SERVE gives a changed pool FREE
pages; SITE shows OFFLINE; PART forms, moves or re-routes its partition, and a commit of FORMED = 0 ends first and
then kills. Which writes start a ring anew is log 19 (DEDUCED), what a channel does is log 161 (DEDUCED), what
TIME does not do is log 150 (DEDUCED), the order of segments is log 132 (DEDUCED). -/
def Obligations.CommitBoundaryApplies : Prop :=
  ∀ (s : State) (base : Nat) (r : Rg) (ix : List Nat), s.wf = true → blockAt base = some (r, ix) →
    s.commitPending r ix = true → s.quiescent r ix = true → s.commitChecks r ix = none →
    let i := ix.getD 0 0
    let taken := s.takePending r ix
    let ends (u : State) : Host.Outcome State Fault Refusal := .next (u.commitEnd r ix 2 0)
    let off := (List.range 42).filter s.clears
    let capped := (if taken.ra .powerCap [] = s.ra .powerCap [] then taken else taken.applyCap).checkParkCap
    let dark := (if off.contains 41 = true then capped.setBBox capped.bbox.save else capped).switchOffAll off
    (∀ a, tabGet rwsReset taken.regs.act a =
      if blkBase r ix ≤ a ∧ a < blkEnd r ix then tabGet rwsReset s.regs.pnd a else tabGet rwsReset s.regs.act a) ∧
    taken = s.setRegs { s.regs with act := taken.regs.act } ∧
    (r = .bboxCommitStatus → exec (.commitBoundary base) s = ends taken) ∧
    (r = .timeCommitStatus → exec (.commitBoundary base) s = ends (s.formedParts.foldl (fun t p =>
      if t.ra .timeTraceBase [p] = s.ra .timeTraceBase [p] ∧ t.ra .timeTraceCtl [p] = s.ra .timeTraceCtl [p] ∧
        (s.part p).traceGo = false then t
      else ((t.setv .timeTracePtr [p] 0).setv .timeTraceDrop [p] 0).setPart p { t.part p with traceGo := false }) taken)) ∧
    (r = .powerCommitStatus → exec (.commitBoundary base) s =
      ends (if (!off.isEmpty && dark.rv .powerDomainOn [] == 0) = true then dark.setStage 6 else dark)) ∧
    (r = .sealCommitStatus → exec (.commitBoundary base) s = ends (
      if s.fa .sealPolicyDebugEn [] = 1 ∧ taken.fa .sealPolicyDebugEn [] = 0 then taken.formedParts.foldl State.lockDebug taken
      else taken)) ∧
    (r = .hostCommitStatus → exec (.commitBoundary base) s = ends (s.formedParts.foldl (fun t p =>
      let t1 := (List.range 8).foldl (fun u n =>
        if ((s.segOld p n).valid && !(u.segOld p n).valid) = true then u.dropSegment p n (s.segOld p n) else u) t
      let t2 := (List.range 8).foldl (fun u n => if (!(s.segOld p n).valid && (u.segOld p n).valid) = true then u.addSegment p n else u) t1
      if s.fa .hostLedgerCtlEnable [p] = 0 ∧ t2.fa .hostLedgerCtlEnable [p] = 1 then t2.ledgerOn p
      else if s.fa .hostLedgerCtlEnable [p] = 1 ∧ t2.fa .hostLedgerCtlEnable [p] = 0 then t2.ledgerOff p
      else if t2.fa .hostLedgerCtlEnable [p] = 1 ∧ t2.ra .hostTailAddr [p] ≠ s.ra .hostTailAddr [p] then
        (t2.setPart p { t2.part p with tail := none }).wakeLedger p
      else t2) taken)) ∧
    (r = .flashCommitStatus → exec (.commitBoundary base) s = ends (taken.flashApplied (s.ra .flashChanDisable []))) ∧
    (r = .hbmCommitStatus → ix = [i] → exec (.commitBoundary base) s = ends (
      if taken.fa .hbmTcCtlBypass [i] = 1 then
        taken.setHbm { taken.hbm with cache := tabClear taken.hbm.cache (1024 * i) (1024 * i + 1024) }
      else taken)) ∧
    (r = .opticCommitStatus → ix = [i] → exec (.commitBoundary base) s =
      ends ((List.range 8).foldl (fun t q => t.applyPortCtl (8 * i + q)) taken)) ∧
    (r = .serveCommitStatus → exec (.commitBoundary base) s = ends (s.formedParts.foldl (fun t p =>
      if t.ra .servePool [p] = s.ra .servePool [p] then t
      else (t.setPart p { t.part p with pages := [], frames := [], zeroQ := [] }).setSpill p) taken)) ∧
    (r = .siteCommitStatus → ix = [i] → exec (.commitBoundary base) s =
      ends (taken.setf .siteStateOfflineActive [i] (taken.fa .siteCtlOffline [i]))) ∧
    (r = .partCommitStatus → ix = [i] →
      (s.fp .partCellsFormed [i] = 0 → s.formed i = true →
        exec (.commitBoundary base) s = .next (((s.commitEnd r ix 2 0).kill i).takePending r ix)) ∧
      (s.fp .partCellsFormed [i] = 0 → s.formed i = false →
        exec (.commitBoundary base) s = .next ((s.commitEnd r ix 2 0).takePending r ix)) ∧
      (s.fp .partCellsFormed [i] ≠ 0 → s.formed i = false → exec (.commitBoundary base) s = ends (taken.form i)) ∧
      (s.fp .partCellsFormed [i] ≠ 0 → s.formed i = true → taken.rect i ≠ s.rect i →
        exec (.commitBoundary base) s = ends (taken.moveBorder i (rectSites (s.rect i)))) ∧
      (s.fp .partCellsFormed [i] ≠ 0 → s.formed i = true → taken.rect i = s.rect i →
        exec (.commitBoundary base) s = ends ((taken.setTree i).setSpill i))) ∧
    ∀ u : State, u.wf = true → getBits ((u.commitEnd r ix 2 0).rv r ix) 10 8 = 2 ∧
      getBits ((u.commitEnd r ix 2 0).rv r ix) 0 0 = 1 ∧ getBits ((u.commitEnd r ix 2 0).rv r ix) 47 32 = 0 ∧
      (u.commitEnd r ix 2 0).regs.act = u.regs.act

/-- Die-to-die and memory links. Training and retraining a link of a powered die set UP where a module trains,
DEGRADED where exactly one does, and REPAIRED; retraining counts in D2D_RETRAINS; both let the waiting hub traffic
go on; a link or memory link that goes down clears UP or MEM_UP and sets WENT_DOWN or MEM_WENT_DOWN, and a
retrained memory link sets MEM_UP. -/
def Obligations.DieAndMemoryLinks : Prop :=
  ∀ (s : State) (die edge rep : Nat) (m0 m1 : Bool), die < 8 → edge < 10 →
    (s.domainOn (16 + die) = true → exec (.d2dLinkTraining die m0 m1 rep) s =
      .next (((s.setf .hubD2dUp [die] (bit01 (m0 || m1))).setf .hubD2dDegraded [die] (bit01 (m0 != m1))).setf
        .hubD2dRepaired [die] rep).hubResume) ∧
    exec (.d2dLinkDown die) s = .next ((s.setf .hubD2dUp [die] 0).setf .hubD2dWentDown [die] 1) ∧
    (s.fv .hubD2dUp [die] = 0 → s.domainOn (16 + die) = true → exec (.d2dRetrainDone die m0 m1 rep) s =
      .next ((((s.bump .hubD2dRetrains [die] 1).setf .hubD2dUp [die] (bit01 (m0 || m1))).setf .hubD2dDegraded [die]
        (bit01 (m0 != m1))).setf .hubD2dRepaired [die] rep).hubResume) ∧
    exec (.memLinkDown edge) s = .next ((s.setf .hubEdgeMemUp [edge] 0).setf .hubEdgeMemWentDown [edge] 1) ∧
    exec (.memLinkRetrainDone edge) s = .next (s.setf .hubEdgeMemUp [edge] 1)

/-- Losing, regaining and locking a reference. REF_LOST sets REF_LOST and clears LOCKED with a time record, then moves
to ALT with REF_SWITCH where ALT names another reference than the one in use (in holdover too: log 170), else to
the internal oscillator with HOLDOVER. REF_RESTORED returns to the named source and locks, with a record where it
ends holdover. REFERENCE_LOCKED locks the reference in use where that is ALT and not locked yet (the model's
reading, log 169), else the named source, with a record too where it ends holdover. Module time stands in all
three. -/
def Obligations.ReferenceEventsKeepTime : Prop :=
  ∀ s : State,
    (s.fa .timeRefAlt [] ≠ 0xFF → s.fv .timeStatusInUse [] ≠ s.fa .timeRefAlt [] → exec .refLost s =
      .next ((((((s.setf .timeStatusRefLost [] 1).setf .timeStatusLocked [] 0).timeRecord none 1 0).setf
        .timeStatusRefSwitch [] 1).setf .timeStatusInUse [] (s.fa .timeRefAlt [])).setf .timeStatusHoldover [] 0
          |>.timeRecord none 2 0)) ∧
    (s.fa .timeRefAlt [] = 0xFF ∨ s.fv .timeStatusInUse [] = s.fa .timeRefAlt [] → exec .refLost s =
      .next (((((s.setf .timeStatusRefLost [] 1).setf .timeStatusLocked [] 0).timeRecord none 1 0).setf
        .timeStatusHoldover [] 1).setf .timeStatusInUse [] 0xFF |>.timeRecord none 3 0)) ∧
    (s.fv .timeStatusHoldover [] ≠ 1 → exec .refRestored s =
      .next (((s.setf .timeStatusInUse [] (s.fa .timeRefSrc [])).setf .timeStatusHoldover [] 0).setf
        .timeStatusLocked [] 1)) ∧
    (s.fv .timeStatusHoldover [] = 1 → exec .refRestored s =
      .next ((((s.setf .timeStatusInUse [] (s.fa .timeRefSrc [])).setf .timeStatusHoldover [] 0).setf
        .timeStatusLocked [] 1).timeRecord none 5 0)) ∧
    (∀ src, (s.fa .timeRefAlt [] ≠ 0xFF ∧ s.fv .timeStatusInUse [] = s.fa .timeRefAlt [] ∧
          s.fv .timeStatusLocked [] = 0 ∧ src = s.fa .timeRefAlt []) ∨
        ((s.fa .timeRefAlt [] = 0xFF ∨ s.fv .timeStatusInUse [] ≠ s.fa .timeRefAlt [] ∨
          s.fv .timeStatusLocked [] ≠ 0) ∧ src = s.fa .timeRefSrc []) →
      ∀ t, t = ((s.setf .timeStatusInUse [] src).setf .timeStatusHoldover [] 0).setf .timeStatusLocked [] 1 →
      exec .referenceLocked s = .next (if s.fv .timeStatusHoldover [] = 1 then t.timeRecord none 5 0 else t)) ∧
    Runs (exec .refLost s) (fun t => t.now = s.now) ∧ Runs (exec .refRestored s) (fun t => t.now = s.now) ∧
    Runs (exec .referenceLocked s) (fun t => t.now = s.now)

/-- A PPS edge latches the time of every formed partition. PPS_IN_EDGE stores the partition time of every formed
partition in its PPS_LATCH and changes no other register and nothing else. -/
def Obligations.PpsLatchesPartitionTime : Prop :=
  ∀ s : State, s.wf = true → Runs (exec .ppsInEdge s) (fun t =>
    (∀ p, p < 32 → t.rv .timePpsLatch [p] =
      if s.formed p then BitVec.ofNat 64 (s.pnow p) else s.rv .timePpsLatch [p]) ∧
    s.onlyRegs t ((List.range 32).map (fun p => (Rg.timePpsLatch, [p]))))

/-- A time exchange with the parent. TIME_EXCHANGE_TIMER on a module of a formed partition that is not the lead counts
an exchange that is still unanswered as failed (the sixteenth in a row sets PSYNC.HOLDOVER with a time record),
notes T1 and sends TIME_REQ with it to the parent; on the lead and for a partition that is not formed it does
nothing. An accepted TIME_REQ is answered with T1, the arrival stamp and the sending stamp. An accepted TIME_RSP
that names the T1 of the exchange shows the offset error, clears HOLDOVER with a record, and sets the slew, with
OUT_OF_BOUND where the error passes 16 ticks either way; before SYNCED it loads the error into the offset and sets
SYNCED instead (that this first error sets no OUT_OF_BOUND is the model's choice, log 171). At the lead it
confirms its sender as alive; one that names no exchange in progress is taken without effect. Messages that R463
does not accept are discarded and counted. -/
def Obligations.TimeExchange : Prop :=
  ∀ (s : State) (p port : Nat) (h : Hdr) (body : List Byte),
    (s.formed p = false ∨ s.isLead p = true → exec (.timeExchangeTimer p) s = .next s) ∧
    (s.formed p = true → s.isLead p = false →
      ((s.part p).time.t1 = none → exec (.timeExchangeTimer p) s =
        .next ((s.setTime p { (s.part p).time with t1 := some (s.pnow p) }).send p 0x03 (s.fv .partStatusParent [p]) false
          0 s.txn (leBytes 8 (s.pnow p)))) ∧
      ((s.part p).time.t1.isSome = true → ∀ t, t = s.setTime p { (s.part p).time with
          fails := (s.part p).time.fails + 1, t1 := none } →
        ((s.part p).time.fails + 1 ≠ 16 → exec (.timeExchangeTimer p) s =
          .next ((t.setTime p { (t.part p).time with t1 := some (t.pnow p) }).send p 0x03 (t.fv .partStatusParent [p])
            false 0 t.txn (leBytes 8 (t.pnow p)))) ∧
        ((s.part p).time.fails + 1 = 16 → ∀ u, u = (t.setf .timePsyncHoldover [p] 1).timeRecord (some p) 4
            (s.fv .timePsyncOffsetErr [p]) → exec (.timeExchangeTimer p) s =
          .next ((u.setTime p { (u.part p).time with t1 := some (u.pnow p) }).send p 0x03 (u.fv .partStatusParent [p])
            false 0 u.txn (leBytes 8 (u.pnow p)))))) ∧
    (∀ t, t = s.consume port 0x03 body.length →
      (t.accept h = .ok p → exec (.timeReq port h body) s = .next (t.send p 0x04 h.src false 0 h.txn
        (leBytes 8 (leAt body 0 8) ++ leBytes 8 (t.pnow p) ++ leBytes 8 (t.pnow p)))) ∧
      ((∀ q, t.accept h ≠ .ok q) → exec (.timeReq port h body) s = .next (t.discardMsg port))) ∧
    (∀ t, t = s.consume port 0x04 body.length →
      ((∀ q, t.accept h ≠ .ok q) → exec (.timeRsp port h body) s = .next (t.discardMsg port)) ∧
      (t.accept h = .ok p → t.isLead p = true → exec (.timeRsp port h body) s = .next (t.confirmAlive p h.src)) ∧
      (t.accept h = .ok p → t.isLead p = false → (t.part p).time.t1 ≠ some (leAt body 0 8) →
        exec (.timeRsp port h body) s = .next t) ∧
      (t.accept h = .ok p → t.isLead p = false → (t.part p).time.t1 = some (leAt body 0 8) →
        ∀ err, err = offsetError (leAt body 0 8) (leAt body 8 8) (leAt body 16 8) (t.pnow p)
          (getBits (Config.portDelay (port % 128)) 31 16, getBits (Config.portDelay (port % 128)) 15 0)
          (getBits (t.rv .opticPeerPort (portIx (port % 128))) 47 32,
            getBits (t.rv .opticPeerPort (portIx (port % 128))) 31 16) →
        ∀ shown, shown = t.setf .timePsyncOffsetErr [p] (satSigned 16 err) →
        (t.fv .timePsyncSynced [p] = 1 →
          ∀ u, u = (if err > 16 ∨ err < -16 then shown.setf .timePsyncOutOfBound [p] 1 else shown) →
          (t.fv .timePsyncHoldover [p] ≠ 1 → exec (.timeRsp port h body) s =
            .next (u.setTime p { (t.part p).time with slew := err, fails := 0, t1 := none })) ∧
          (t.fv .timePsyncHoldover [p] = 1 →
            ∀ v, v = (u.setf .timePsyncHoldover [p] 0).timeRecord (some p) 5 (satSigned 16 err) →
            exec (.timeRsp port h body) s =
              .next (v.setTime p { (v.part p).time with slew := err, fails := 0, t1 := none }))) ∧
        (t.fv .timePsyncSynced [p] ≠ 1 →
          (t.fv .timePsyncHoldover [p] ≠ 1 → exec (.timeRsp port h body) s =
            .next (((shown.setTime p { (t.part p).time with
              offset := (t.part p).time.offset + BitVec.ofInt 64 err, slew := 0, fails := 0, t1 := none }).setf
                .timePsyncSynced [p] 1))) ∧
          (t.fv .timePsyncHoldover [p] = 1 →
            ∀ v, v = (shown.setf .timePsyncHoldover [p] 0).timeRecord (some p) 5 (satSigned 16 err) →
            exec (.timeRsp port h body) s =
              .next (((v.setTime p { (v.part p).time with
                offset := (v.part p).time.offset + BitVec.ofInt 64 err, slew := 0, fails := 0, t1 := none }).setf
                  .timePsyncSynced [p] 1))))))

/-- Arming and latching a counter snapshot. A write of SNAP_AT is refused with NOT_LEAD (6), LATE (3), FAR (4) or BUSY
(5) without arming anything, or arms the snapshot with the next sequence number and broadcasts it to every other
member; the broadcast arms it on a member that is not the lead. An event boundary at or after T of a busy powered
unit that has not latched is noted, and at the first later tick (so that LATCH_TS lies above the stamps of this
instant's events: log 25) that unit copies its twenty counters into its shadows with LATCH_TS and SEQ; at T + 64
every unit that has not latched does; with the last unit SNAP_STATUS becomes DONE (2) with SEQ. Everything else
changes nothing: a partition that is not formed, the broadcast at the lead, a unit without an armed snapshot,
before T, idle, already noted or latched, or without power. -/
def Obligations.CounterSnapshots : Prop :=
  ∀ (s : State) (p seq : Nat) (t : Word),
    (s.formed p = false → exec (.snapAtWrite p t) s = .next s) ∧
    (s.formed p = true →
      (s.isLead p = false → exec (.snapAtWrite p t) s = .next ((s.setv .timeSnapAt [p] t).snapState p 6)) ∧
      (s.isLead p = true → t.toNat < s.pnow p + 800000 →
        exec (.snapAtWrite p t) s = .next ((s.setv .timeSnapAt [p] t).snapState p 3)) ∧
      (s.isLead p = true → s.pnow p + 2 ^ 36 < t.toNat →
        exec (.snapAtWrite p t) s = .next ((s.setv .timeSnapAt [p] t).snapState p 4)) ∧
      (s.isLead p = true → s.pnow p + 800000 ≤ t.toNat → t.toNat ≤ s.pnow p + 2 ^ 36 →
        ((s.part p).time.snap.isSome = true →
          exec (.snapAtWrite p t) s = .next ((s.setv .timeSnapAt [p] t).snapState p 5)) ∧
        ((s.part p).time.snap = none → ∀ n, n = (s.fv .timeSnapStatusSeq [p] + 1) % 2 ^ 32 →
          exec (.snapAtWrite p t) s = .next ((((s.setv .timeSnapAt [p] t).armSnap p t.toNat n).others p).foldl
            (fun w m => w.emit (.snapArm p m t.toNat n)) ((s.setv .timeSnapAt [p] t).armSnap p t.toNat n))))) ∧
    (s.formed p = true → s.isLead p = false → exec (.snapshotArmReceive p t seq) s = .next (s.armSnap p t.toNat seq)) ∧
    (s.formed p = false ∨ s.isLead p = true → exec (.snapshotArmReceive p t seq) s = .next s) ∧
    (∀ site, s.ownerOf site = none → exec (.snapshotLatch site) s = .next s) ∧
    (∀ site, s.ownerOf site = some p →
      ((s.part p).time.snap = none → exec (.snapshotLatch site) s = .next s) ∧
      (∀ x, (s.part p).time.snap = some (x, seq) →
        (s.pnow p < x ∨ s.fv .siteStateWork [site] ≠ 1 ∨ (s.toLatch p).contains site = false ∨
            (s.part p).time.latching.any (fun e => e.1 == site) = true →
          exec (.snapshotLatch site) s = .next s) ∧
        (x ≤ s.pnow p → s.fv .siteStateWork [site] = 1 → (s.toLatch p).contains site = true →
          (s.part p).time.latching.any (fun e => e.1 == site) = false → exec (.snapshotLatch site) s =
            .next (s.setTime p { (s.part p).time with latching := (s.part p).time.latching ++ [(site, s.pnow p)] })))) ∧
    (∀ x, (s.part p).time.snap = some (x, seq) →
      (s.pnow p < x + 64 → (s.toLatch p).filter (fun i => (s.part p).time.latching.any (fun e => e.1 == i &&
        decide (e.2 < s.pnow p))) = [] → s.snapTick p = s.snapSettle p) ∧
      (∀ site, ((x + 64 ≤ s.pnow p ∧ s.toLatch p = [site]) ∨ (s.pnow p < x + 64 ∧ (s.toLatch p).filter (fun i =>
          (s.part p).time.latching.any (fun e => e.1 == i && decide (e.2 < s.pnow p))) = [site])) →
        ∀ ts, ts = min (s.pnow p) (x + 64) → ∀ u, u = s.latchSite p site ts seq → s.snapTick p = u.snapSettle p ∧
          (s.wf = true → u.rv .siteShadowTs [site] = BitVec.ofNat 64 ts ∧
            u.fv .siteShadowSeqSeq [site] = seq % 2 ^ 32 ∧
            ∀ e ∈ shadowSources.zipIdx, u.rv .siteShadow [site, e.2] = s.rv e.1.1 (site :: e.1.2)) ∧
          (∀ y, (u.part p).time.snap = some y → y.1 ≤ u.pnow p → (u.toLatch p) = [] → u.snapSettle p =
            (((u.setTime p { (u.part p).time with snap := none, latched := [], latching := [] }).setf .timeSnapStatusSeq [p]
              y.2).setf .timeSnapStatusPending [p] 0).snapState p 2)))

/-- The brake causes. In RUN, PWR_BRAKE_N asserted, an undervoltage, FLOW_OK_N released and a junction above 105
degrees C each set their bit of BRAKE_CAUSES and their event, lower L to BRAKE_LEVEL with every fabric supply at
0.60 V, count in BRAKES and enter BRAKE with a POWER record; in BRAKE and PARK only the cause and the event are
set. -/
def Obligations.BrakeCausesArise : Prop :=
  ∀ s : State,
    let cause (t : State) (n : Nat) (f : Fld) : State :=
      (t.setf .powerPwrStatusBrakeCauses [] (t.fv .powerPwrStatusBrakeCauses [] ||| 2 ^ n)).powerEvent f
    let flow := s.setPower { s.power with flowTemps := s.power.temps }
    (s.powerState = 0 →
      exec .pwrBrakeNAssert s = .next (((cause s 0 .powerEventsPin).brake.bump .powerBrakes [] 1).enterPower 1 5) ∧
      exec .undervolt s = .next (((cause s 1 .powerEventsUndervolt).brake.bump .powerBrakes [] 1).enterPower 1 5) ∧
      exec .flowOkNRelease s = .next (((cause flow 3 .powerEventsFlow).brake.bump .powerBrakes [] 1).enterPower 1 5) ∧
      exec .hot s = .next (((cause s 4 .powerEventsHot).brake.bump .powerBrakes [] 1).enterPower 1 6)) ∧
    (s.powerState = 1 ∨ s.powerState = 2 →
      exec .pwrBrakeNAssert s = .next (cause s 0 .powerEventsPin) ∧
      exec .undervolt s = .next (cause s 1 .powerEventsUndervolt) ∧
      exec .flowOkNRelease s = .next (cause flow 3 .powerEventsFlow) ∧
      exec .hot s = .next (cause s 4 .powerEventsHot))

/-- What the brake does to the limit and the supplies. In RUN a pin brake leaves L at BRAKE_LEVEL (while the heartbeat
is lost and SAFE_CAP lies below it, an L that lies lower stays: log 148) with no ramp, LIMIT_NOW shows it,
CLIMBING is clear, the state BRAKE, cause PIN set among the causes, BRAKES one higher, and the supply of every
powered fabric half-die at the code of 0.60 V (20) or of FABRIC_VMAX where that lies lower, of every other
unchanged. -/
def Obligations.BrakeSetsLimitAndSupplies : Prop :=
  ∀ s : State, s.wf = true → s.powerState = 0 → Runs (exec .pwrBrakeNAssert s) (fun t =>
    let level := 10 * s.fa .powerBrakeCfgBrakeLevel []
    let l := if s.fv .powerPwrStatusHbLost [] = 1 ∧ 10 * s.fa .powerBrakeCfgSafeCap [] < level then min level s.power.limit
      else level
    t.power.limit = l ∧ t.power.ramp = none ∧ t.fv .powerPwrStatusLimitNow [] = l / 10 % 1024 ∧
    t.fv .powerPwrStatusClimbing [] = 0 ∧ t.powerState = 1 ∧
    t.fv .powerPwrStatusBrakeCauses [] = (s.fv .powerPwrStatusBrakeCauses [] ||| 1) % 32 ∧
    (t.rv .powerBrakes []).toNat = ((s.rv .powerBrakes []).toNat + 1) % 2 ^ 48 ∧
    ∀ d, d < 16 → t.supplyOf d = if s.domainOn d then min 20 (s.fa .powerFabricVmaxCode []) else s.supplyOf d)

/-- Clearing brake causes. For each of the five brake causes and every mask of causes: the release of a cause that is
held (pin, undervoltage, CAPDROP, FLOW, junctions) clears its bit; where the module is in BRAKE and it was the
last, the pacer leaves zero rate, CLIMBING is set where L lies below its target, and the module returns to RUN;
with another cause still held, or in PARK, STOP or TRIP, only the bit clears. The release of a cause that is not
held changes nothing. FLOW restored then clears the park cause FLOW in the same way: with the last park cause PARK
is left, to RUN where no brake cause is held, else to BRAKE, counted in BRAKES, with class THERMAL in its record
where HOT alone is held. -/
def Obligations.BrakeCausesClear : Prop :=
  ∀ (s : State) (e : Nat × Instr), e ∈ [(0, Instr.pwrBrakeNRelease), (1, .undervoltClear), (2, .capdropClear),
      (3, .flowOkNRestored), (4, .hotClear)] → ∀ c, c = s.fv .powerPwrStatusBrakeCauses [] →
    ∀ clear, clear = s.setf .powerPwrStatusBrakeCauses [] (c - 2 ^ e.1) →
    ∀ run, run = (clear.endZeroRate.setf .powerPwrStatusClimbing []
      (bit01 (decide (clear.power.limit < clear.limitTarget)))).enterPower 0 0 →
    (e.1 ≠ 3 →
      (c.testBit e.1 = true → s.powerState = 1 → c = 2 ^ e.1 → exec e.2 s = .next run) ∧
      (c.testBit e.1 = true → s.powerState ≠ 1 ∨ c ≠ 2 ^ e.1 → exec e.2 s = .next clear) ∧
      (c.testBit e.1 = false → exec e.2 s = .next s)) ∧
    (e.1 = 3 → ∀ t, (c.testBit 3 = true ∧ s.powerState = 1 ∧ c = 8 ∧ t = run) ∨
        (c.testBit 3 = true ∧ (s.powerState ≠ 1 ∨ c ≠ 8) ∧ t = clear) ∨ (c.testBit 3 = false ∧ t = s) →
      ∀ k, k = t.fv .powerPwrStatusParkCauses [] → ∀ u, u = t.setf .powerPwrStatusParkCauses [] (k - 2) →
      (k.testBit 1 = false → exec e.2 s = .next t) ∧
      (k.testBit 1 = true → t.powerState ≠ 2 ∨ k ≠ 2 → exec e.2 s = .next u) ∧
      (k.testBit 1 = true → t.powerState = 2 → k = 2 → ∀ b, b = u.fv .powerPwrStatusBrakeCauses [] →
        (b = 0 → exec e.2 s = .next (u.unpark.enterPower 0 0)) ∧
        (b ≠ 0 → exec e.2 s =
          .next ((u.unpark.brake.bump .powerBrakes [] 1).enterPower 1 (if b = 16 then 6 else 5))))) ∧
    (s.power.zeroRate = false → s.endZeroRate = s)

/-- A control interval in RUN. In RUN with no ramp and no cause to park, a control interval shows the measured input
voltage, current and power in SUPPLY, moves L by at most 40 W toward the cap, keeps the junction temperatures,
keeps the set of throttled dies by the 95 and 92 degrees C thresholds, gives firings to no partition without work,
and keeps module time; the step of 40 W per 20 us is the model's choice (2 kW per ms, log 147). -/
def Obligations.ControlIntervalMeasuresAndLimits : Prop :=
  ∀ (s : State) (m : PowerSample), s.wf = true → s.powerState = 0 → s.power.ramp = none →
    s.fv .powerPwrStatusHbLost [] = 0 → (s.fv .powerPwrStatusParkCauses []).testBit 0 = false →
    s.fa .powerBrakeCfgParkBelow [] ≤ s.fa .powerCapLimit [] → Runs (exec (.controlInterval m) s) (fun t =>
      t.fv .powerSupplyVIn [] = m.vIn % 2 ^ 16 ∧ t.fv .powerSupplyIIn [] = m.iIn % 2 ^ 16 ∧
      t.fv .powerSupplyPIn [] = m.pIn % 2 ^ 16 ∧
      t.power.limit = toward s.power.limit (10 * s.fa .powerCapLimit []) 40 ∧
      t.power.throttled = throttle s.power.throttled m.dies ∧
      t.power.temps = (m.dies ++ List.replicate 8 0).take 8 ++ [m.hub] ∧
      (∀ p, s.paceParts.contains p = false → (t.part p).tokens = (s.part p).tokens) ∧ t.now = s.now)

/-- Heartbeats and junction samples under FLOW. With management up a heartbeat is answered with PWR_STATUS and SUPPLY
and its time is kept; while HB_LOST stands it clears HB_LOST with a POWER record first. Ten seconds without one
set HB_LOST and its event, with a POWER record, and the park cause CAP is judged again. Under the brake cause
FLOW, a junction 3 degrees C above its value at the start of the brake parks the module; without such a rise only
the measured values are kept. -/
def Obligations.HeartbeatAndFlowSamples : Prop :=
  ∀ (s : State) (ep seq : Nat) (temps : List Nat),
    let kept := s.setPower { s.power with hbAt := s.now.toNat }
    let answer (t : State) : State := t.vendorRsp ep 0x01 0
      (leBytes 8 (t.rv .powerPwrStatus []).toNat ++ leBytes 8 (t.rv .powerSupply []).toNat)
    let found := kept.setf .powerPwrStatusHbLost [] 0
    let lost := (s.setf .powerPwrStatusHbLost [] 1).powerEvent .powerEventsHbLost
    let rise := (List.range 9).any (fun i => decide (s.power.flowTemps.getD i 0 + 3 ≤ temps.getD i 0))
    let flow := (s.fv .powerPwrStatusBrakeCauses []).testBit 3
    (s.mgmtUp = true →
      (s.fv .powerPwrStatusHbLost [] = 0 → exec (.heartbeat ep seq) s = .next (answer kept)) ∧
      (s.fv .powerPwrStatusHbLost [] = 1 → exec (.heartbeat ep seq) s =
        .next (answer (found.powerRecord found.powerState found.powerState 0).checkParkCap))) ∧
    (s.fv .powerPwrStatusHbLost [] = 0 → s.powerState < 3 → exec .heartbeatLost s =
      .next (lost.powerRecord lost.powerState lost.powerState 5).checkParkCap) ∧
    (flow = true ∧ rise = true → exec (.flowJunctionSample temps) s =
      .next ((s.setPower { s.power with temps := temps }).raisePark 1)) ∧
    (flow = false ∨ rise = false → exec (.flowJunctionSample temps) s =
      .next (s.setPower { s.power with temps := temps }))

/-- Controlled stop, trip and module reset. A controlled stop with some domain on enters STOP, ends every partition,
switches domains 0 to 40 off, writes the STOP record, saves the black box, switches the flash domain off and keeps
cause 2; with no domain on it causes nothing. A trip enters TRIP, ends every partition, switches all 42 domains
off and writes the TRIP record, with cause 3. MOD_RESET_N ends every partition and switches all domains off, with
cause 1 outside TRIP. The model's readings there: every partition ends at once and STAGE stands (log 149), and a
reset in TRIP keeps cause 3 (log 151). -/
def Obligations.StopTripAndResetEndTheRun : Prop :=
  ∀ (s : State) (trigger source junction : Nat),
    let drop (st upTo : Nat) : State := (s.setf .powerPwrStatusState [] st).loseParts.switchOffAll (List.range upTo)
    let cut := s.loseParts.switchOffAll (List.range 42)
    let cool := cut.power.temps.all (fun c => decide (c < 90))
    let stopped := ((drop 3 41).bbWrite none 0x11 5 (payloadOf [(0, 2, s.power.vMin), (2, 1, trigger % 2)])).drainBBox
    let off := (stopped.setBBox stopped.bbox.save).switchOffAll [41]
    let tripped := ((drop 4 42).bbWrite none 0x12 6 (payloadOf [(0, 1, source), (1, 1, junction)])).drainBBox
    let seen := tripped.setPower { tripped.power with
      temps := (tripped.power.temps ++ List.replicate 9 0).take 9 |>.set source junction, tripCleared := false }
    (s.powerState < 3 → s.rv .powerDomainOn [] ≠ 0 → exec (.controlledStop trigger) s =
      .next ((off.setMgmt { off.mgmt with cause := 2 }).platformEvent 1 3)) ∧
    (s.rv .powerDomainOn [] = 0 → exec (.controlledStop trigger) s = .next s) ∧
    (s.powerState ≠ 4 → exec (.hardwareTrip source junction) s =
      .next ((seen.setMgmt { seen.mgmt with cause := 3 }).platformEvent 1 4)) ∧
    (s.powerState ≠ 4 → exec .modResetNAssert s =
      .next ((cut.setPower { cut.power with inReset := true, tripCleared := false }).setMgmt
        { cut.mgmt with cause := 1 })) ∧
    (s.powerState = 4 → exec .modResetNAssert s =
      .next (cut.setPower { cut.power with inReset := true, tripCleared := cool }))

/-- No partition outlives a stop, a trip or a reset. After a controlled stop with some domain on, a hardware trip
outside TRIP, and MOD_RESET_N, no partition is formed (at once: log 149), no sequence, block or directory entry is
left, no swap key is held and no switched domain is on; the flash library is as before where its domain was off,
and where it was on keeps its pages and loses what is resident, the commands and an installation in progress; what
the fuses hold is as before, and with no update open so is the firmware store. -/
def Obligations.NothingOfAPartitionOutlivesItsDomains : Prop :=
  ∀ (s : State) (trigger source junction : Nat), s.wf = true →
    let left (t : State) : Prop := (∀ p, t.formed p = false) ∧ t.seqs = [] ∧ t.blocks = [] ∧ t.dir = [] ∧
      t.sealUnit.swapKeys = [] ∧ (∀ d, d < 42 → t.domainOn d = false) ∧
      t.flash = (if s.domainOn 41 then s.flash.powerOff else s.flash) ∧ t.flash.pages = s.flash.pages ∧
      t.sealUnit.fused = s.sealUnit.fused ∧ t.sealUnit.primaryRevoked = s.sealUnit.primaryRevoked ∧
      (s.mgmt.update = none → t.mgmt.update = none ∧ t.mgmt.bankA = s.mgmt.bankA ∧ t.mgmt.bankB = s.mgmt.bankB ∧
        t.mgmt.runB = s.mgmt.runB ∧ t.mgmt.pendingBank = s.mgmt.pendingBank)
    (s.powerState < 3 → s.rv .powerDomainOn [] ≠ 0 → Runs (exec (.controlledStop trigger) s) left) ∧
    (s.powerState ≠ 4 → Runs (exec (.hardwareTrip source junction) s) left) ∧
    Runs (exec .modResetNAssert s) left

/-- Loss of all power and start-up. ALL_POWER_LOST completes the record at the head of the queue, leaves the queue of
commands, the outputs, MRAM, flash, the seal unit and the firmware store and returns everything else to reset with
cause 0. START_UP from stage ROM with a running bank that passes verification boots it: black box READY with one
boot more, the reset cause, the bank and its release shown, a BOOT record and stage MGMT (2); with neither bank
passing it enters RECOVERY (5). -/
def Obligations.LossOfPowerAndStartUp : Prop :=
  ∀ (s : State) (a b : BankCheck),
    let kept (x : BBox) : State := { State.reset with
      pending := s.pending, out := s.out, free := s.free, bbox := x.powerOff, flash := s.flash.powerOff,
      sealUnit := { s.sealUnit with swapKeys := [], trngFail := false }, mgmt := { s.mgmt.keep with cause := 0 } }
    let ids := (s.restart.setf .hubIdEnterprise [] Config.enterprise.toNat).setf .hubIdStepping [] 0xB1
    let up := ids.mountBBox.setf .hubBootResetCause [] s.mgmt.cause
    let good := up.setMgmt { up.mgmt with runB := false, pendingBank := false }
    let bad := ((up.fwFailed s.mgmt.bankA a).fwFailed s.mgmt.bankB b)
    let bad := bad.setMgmt { bad.mgmt with runB := false, pendingBank := false }
    (s.bbReady = false ∨ s.bbox.queue = [] → exec .allPowerLost s = .next (kept s.bbox)) ∧
    (∀ e q, s.bbReady = true → s.bbox.queue = e :: q → exec .allPowerLost s = .next (kept (s.bbox.write e.1 e.2))) ∧
    (s.canStart = true → s.mgmt.update = none → s.mgmt.runB = false → s.mgmt.pendingBank = false →
      (up.bankOk s.mgmt.bankA a = true → exec (.startUp a b) s =
        .next (((((good.setf .hubBootBank [] 0).setf .hubBootFallback [] 0).showFw false).bootRecord false).setStage 2)) ∧
      (up.bankOk s.mgmt.bankA a = false → up.bankOk s.mgmt.bankB b = false → exec (.startUp a b) s =
        .next (((((bad.setf .hubBootBank [] 0).setf .hubBootFallback [] 0).showFw true).bootRecord true).setStage 5)))

/-- Domains, the main input and activation of firmware. DOMAIN_USABLE turns a commanded domain on with what that
domain brings (supply, HBM training, ports, library). MAIN_INPUT_STABLE in RECOVERY powers the host port alone. On
an endpoint that is served, ACTIVATE_FIRMWARE makes a verified update pending for the next start-up, restarts at
once in RECOVERY, and is refused with no update, an unverified update, or self-contained activation (the codes are
the model's, log 40); on another it does nothing (log 159). -/
def Obligations.DomainsAndActivation : Prop :=
  ∀ (s : State) (d ep : Nat) (codes training edgeFail dies : List Nat) (ok self : Bool),
    let armed := ((s.setMgmt { s.mgmt with update := none, verified := false, pendingBank := true }).setf
      .hubFwPending [] 1).pldmRsp ep 0x1A 0 []
    (d < 42 → s.domainOn d = false → (s.ra .powerDomainEn []).toNat.testBit d = true → s.powerState < 3 →
      s.power.inReset = false → exec (.domainUsable d codes) s = .next (s.domainUsable d codes)) ∧
    (s.power.inReset = false → s.powerState < 3 → s.fv .hubBootStage [] = 5 →
      exec (.mainInputStable training edgeFail dies ok) s =
        .next (s.setv .powerDomainOn [] (putBits (s.rv .powerDomainOn []) 40 40 1))) ∧
    (s.controlUp ep = false → exec (.activateFirmware ep self) s = .next s) ∧
    (s.controlUp ep = true → s.mgmt.update.isSome = true → s.mgmt.verified = true →
      (s.fv .hubBootStage [] ≠ 5 → exec (.activateFirmware ep false) s = .next armed) ∧
      (s.fv .hubBootStage [] = 5 → exec (.activateFirmware ep false) s = .next (armed.setStage 0)) ∧
      exec (.activateFirmware ep true) s = .next (s.pldmRsp ep 0x1A 0x8C [])) ∧
    (s.controlUp ep = true → s.mgmt.update.isSome = true → s.mgmt.verified = false →
      exec (.activateFirmware ep self) s = .next (s.pldmRsp ep 0x1A 0x84 [])) ∧
    (s.controlUp ep = true → s.mgmt.update = none →
      exec (.activateFirmware ep self) s = .next (s.pldmRsp ep 0x1A 0x80 []))

/-- The main input brings a started module to READY. At stage MGMT, out of reset and in RUN, BRAKE or PARK, a stable
main input with a passed TRNG health test switches every one of the 42 domains on and leaves the module at stage
READY (4), with TRNG_FAIL clear; with a failed test the domains are on, TRNG_FAIL is set, and the stage stays
POWERING (3), which is the model's reading (log 41). -/
def Obligations.MainInputBringsTheModuleToReady : Prop :=
  ∀ (s : State) (training edgeFail dies : List Nat), s.wf = true → s.power.inReset = false → s.powerState < 3 →
    s.fv .hubBootStage [] = 2 →
    Runs (exec (.mainInputStable training edgeFail dies true) s) (fun t =>
      (∀ d, d < 42 → t.domainOn d = true) ∧ t.fv .hubBootStage [] = 4 ∧ t.fv .sealStatusTrngFail [] = 0) ∧
    Runs (exec (.mainInputStable training edgeFail dies false) s) (fun t =>
      (∀ d, d < 42 → t.domainOn d = true) ∧ t.fv .hubBootStage [] = 3 ∧ t.fv .sealStatusTrngFail [] = 1)

/-- MCTP control and PLDM monitoring. On an endpoint that is served: Set Endpoint ID gives the named endpoint its EID
and answers with it, Get Endpoint ID answers the EID or 0, version support answers a value the manual leaves open,
message types and vendor support answer as listed; I3C addressing stores the 7-bit address; a sensor request
answers its number and value; an event receiver is kept and its request answered, and events go to it. A request
on an endpoint that is not served does nothing (log 159); PLDM layouts and codes are presumed (log 40). -/
def Obligations.ManagementControlMessages : Prop :=
  ∀ (s : State) (ep eid addr n : Nat),
    let m := s.mgmt
    (s.controlUp 0 = true →
      exec (.setEndpointId 0 eid) s =
        .next ((s.setMgmt { m with eidI3c := some eid }).controlRsp 0 1 ([0] ++ leBytes 1 eid)) ∧
      exec (.getEndpointId 0) s = .next (s.controlRsp 0 2 (leBytes 1 (m.eidI3c.getD 0)))) ∧
    (s.controlUp 1 = true →
      exec (.setEndpointId 1 eid) s =
        .next ((s.setMgmt { m with eidCxl := some eid }).controlRsp 1 1 ([0] ++ leBytes 1 eid)) ∧
      exec (.getEndpointId 1) s = .next (s.controlRsp 1 2 (leBytes 1 (m.eidCxl.getD 0)))) ∧
    (ep < 2 → s.controlUp ep = true →
      exec (.getMctpVersionSupport ep) s = .next (s.controlRsp ep 4 (leBytes 4 (Config.freeNat s.free))).fresh ∧
      (s.stage ≠ 5 → exec (.getMessageTypeSupport ep) s = .next (s.controlRsp ep 5 [4, 0x00, 0x01, 0x05, 0x7F])) ∧
      (s.stage = 5 → exec (.getMessageTypeSupport ep) s = .next (s.controlRsp ep 5 [3, 0x00, 0x01, 0x7F])) ∧
      exec (.getVendorDefinedMessageSupport ep) s =
        .next (s.controlRsp ep 6 ([1] ++ leBytes 4 Config.enterprise.toNat))) ∧
    (s.controlUp ep = false → ∀ c ∈ [Instr.setEndpointId ep eid, .getEndpointId ep, .getMctpVersionSupport ep,
      .getMessageTypeSupport ep, .getVendorDefinedMessageSupport ep], exec c s = .next s) ∧
    exec (.i3cDynamicAddress addr) s = .next (s.setMgmt { m with i3cAddr := some (addr % 128) }) ∧
    (s.mgmtUp = true →
      exec (.getSensorReading ep n) s = .next (s.emit (.mctp ep 1 (leBytes 1 n ++ leBytes 4 (s.sensor n)))) ∧
      exec (.setEventReceiver ep eid) s = .next ((s.setMgmt { m with receiver := some (ep, eid) }).pldmRsp ep 0x04 0 []))

/-- Certificates, challenges, measurements and sessions. Where SPDM is answered on the endpoint, with every response
signed by alias 2: GET_CERTIFICATE answers the part of the chain asked for; CHALLENGE the nonce; GET_MEASUREMENTS
one block, the count, or all of them with the nonce; KEY_EXCHANGE opens one of at most four sessions, of the
lowest free number (log 165), with a fresh random value, and is answered with an error when four are open;
KEY_UPDATE refreshes the keys of an open session and HEARTBEAT is answered. Elsewhere nothing happens (log 159).
Code numbers and layouts are presumed (log 40), and the measured key is in SEC 1 form (log 44). -/
def Obligations.AttestationMessages : Prop :=
  ∀ (s : State) (ep off len index session : Nat) (nonce : List Byte) (r : SessionReq),
    (s.spdmOn ep = true →
      exec (.getCertificate ep off len) s =
        .next (s.emit (.spdm ep 0x82 (s.signedRsp ((s.certChain.drop off).take len)))) ∧
      exec (.challenge ep nonce) s = .next (s.emit (.spdm ep 0x83 (s.signedRsp nonce))) ∧
      exec (.getMeasurements ep 0xFF nonce) s =
        .next (s.emit (.spdm ep 0xE0 (s.signedRsp (s.measurements.flatten ++ nonce)))) ∧
      exec (.getMeasurements ep 0 nonce) s = .next (s.emit (.spdm ep 0xE0 (s.signedRsp ([7] ++ nonce)))) ∧
      (1 ≤ index → index ≤ 7 → exec (.getMeasurements ep index nonce) s =
        .next (s.emit (.spdm ep 0xE0 (s.signedRsp (s.measurements.getD (index - 1) [] ++ nonce))))) ∧
      (s.mgmt.sessions.any (fun e => e.1 = session) = true →
        exec (.spdmHeartbeat ep session) s = .next (s.emit (.spdm ep 0xE8 (s.signedRsp (leBytes 2 session)))) ∧
        ∀ t, t = s.setMgmt { s.mgmt with sessions := s.mgmt.sessions.map (fun e =>
            if e.1 = session then (e.1, e.2.1 + 1, e.2.2) else e) } →
          exec (.keyUpdate ep session) s = .next (t.emit (.spdm ep 0xE9 (t.signedRsp (leBytes 2 session)))))) ∧
    (s.spdmOn ep = false → ∀ c ∈ [Instr.getCertificate ep off len, .challenge ep nonce, .getMeasurements ep index nonce,
      .spdmHeartbeat ep session, .keyUpdate ep session], exec c s = .next s) ∧
    (s.spdmOn r.endpoint = true →
      (∀ i, firstBelow 4 (fun i => s.mgmt.sessions.all (fun e => e.1 ≠ i)) = some i →
        ∀ t, t = s.setMgmt { s.mgmt with sessions := s.mgmt.sessions ++ [(i, 0, r.endpoint)] } →
        exec (.keyExchange r) s = .next (t.emit (.spdm r.endpoint 0xE4
          (t.signedRsp (leBytes 2 i ++ leBytes 64 (Config.trng s.free) ++ r.exchange)))).fresh) ∧
      (firstBelow 4 (fun i => s.mgmt.sessions.all (fun e => e.1 ≠ i)) = none →
        exec (.keyExchange r) s = .next (s.emit (.spdm r.endpoint 0x7F (s.signedRsp [])))))

/-- Firmware update. On an endpoint that is served RequestUpdate opens an update and asks its agent for the first 4
KiB, or is refused while one is open; GetFirmwareParameters answers the two components with the active release
and, where one is pending, the pending one. Data is appended, at most 4 KiB a transfer, and after a full transfer
the next one is asked for. VerifyComplete of two components that are signed by the key that is valid, at or above
the fused SVN and within the sizes of the store, fills the inactive bank and answers success; else it writes a
FW_VERIFY record that names the component that fails first, whether its signature was good, and its SVN, closes
the update, leaves both banks as they were and answers failure. The codes and layouts are presumed (log 40), and a
bank keeps its content until the verification (log 158). -/
def Obligations.FirmwareUpdateMessages : Prop :=
  ∀ (s : State) (ep svn1 svn2 : Nat) (data u : List Byte) (rel : Nat × Nat × Nat) (c : BankCheck),
    let good : FwBank := ⟨true, rel, svn1, svn2, sha384 (u.take (4 * 2 ^ 20)), sha384 (u.drop (4 * 2 ^ 20))⟩
    let one := s.signedOk c.boot && decide (s.sealUnit.fused ≤ svn1)
    let two := s.signedOk c.run && decide (s.sealUnit.fused ≤ svn2) && decide (u.length ≤ 24 * 2 ^ 20)
    let ask (t : State) (dst n : Nat) : State := t.emit (.mctp dst 1 (leBytes 1 0x15 ++ leBytes 4 n ++ leBytes 4 4096))
    let params (a b : List Byte) : List Byte := leBytes 4 0 ++ leBytes 2 2 ++ leBytes 1 1 ++ leBytes 1 a.length ++
      leBytes 1 1 ++ leBytes 1 b.length ++ a ++ b ++ componentEntry 1 a b ++ componentEntry 2 a b
    (s.controlUp ep = true →
      (s.mgmt.update = none → exec (.requestUpdate ep) s =
        .next (ask ((s.setMgmt { s.mgmt with update := some [], agent := ep, verified := false }).pldmRsp ep 0x10 0 []) ep 0)) ∧
      (s.mgmt.update = some u → exec (.requestUpdate ep) s = .next (s.pldmRsp ep 0x10 0x81 [])) ∧
      (s.mgmt.pendingBank = true → exec (.getFirmwareParameters ep) s = .next (s.pldmRsp ep 0x02 0 (params
        (releaseText (if s.mgmt.runB then s.mgmt.bankB else s.mgmt.bankA).release)
        (releaseText (if s.mgmt.runB then s.mgmt.bankA else s.mgmt.bankB).release)))) ∧
      (s.mgmt.pendingBank = false → exec (.getFirmwareParameters ep) s = .next (s.pldmRsp ep 0x02 0 (params
        (releaseText (if s.mgmt.runB then s.mgmt.bankB else s.mgmt.bankA).release) [])))) ∧
    (s.controlUp ep = false → exec (.requestUpdate ep) s = .next s ∧ exec (.getFirmwareParameters ep) s = .next s) ∧
    (s.mgmt.update = none → exec (.firmwareData data) s = .next s ∧
      exec (.verifyComplete ep rel svn1 svn2 c) s = .next s) ∧
    (s.mgmt.update = some u →
      (data.length < 4096 → exec (.firmwareData data) s =
        .next (s.setMgmt { s.mgmt with update := some (u ++ data.take 4096) })) ∧
      (4096 ≤ data.length → exec (.firmwareData data) s =
        .next (ask (s.setMgmt { s.mgmt with update := some (u ++ data.take 4096) }) s.mgmt.agent (u.length + 4096))) ∧
      (one = true → two = true → s.mgmt.runB = false → exec (.verifyComplete ep rel svn1 svn2 c) s =
        .next ((s.setMgmt { s.mgmt with verified := true, bankB := good }).pldmRsp ep 0x17 0 [])) ∧
      (one = true → two = true → s.mgmt.runB = true → exec (.verifyComplete ep rel svn1 svn2 c) s =
        .next ((s.setMgmt { s.mgmt with verified := true, bankA := good }).pldmRsp ep 0x17 0 [])) ∧
      (one = false → exec (.verifyComplete ep rel svn1 svn2 c) s =
        .next (((s.bbWrite none 0x02 8 (payloadOf [(0, 1, 1), (1, 1, bit01 (s.signedOk c.boot)), (2, 1, svn1)])).setMgmt
          { s.mgmt with update := none, verified := false }).pldmRsp ep 0x17 1 [])) ∧
      (one = true → two = false → exec (.verifyComplete ep rel svn1 svn2 c) s =
        .next (((s.bbWrite none 0x02 8 (payloadOf [(0, 1, 2), (1, 1, bit01 (s.signedOk c.run)), (2, 1, svn2)])).setMgmt
          { s.mgmt with update := none, verified := false }).pldmRsp ep 0x17 1 [])))

/-- SEAL commands and their results. A command of SEAL.CMD, with the block that the module reads at CMD_ADDR, or of a
message after MGMT while none runs, completes with its result where the operation matches: TAKE_OWNERSHIP with
OWNED (4) while an owner exists, BAD_KEY (7) for a point off the curve, else it installs the owner key; ENROL,
REVOKE and RELEASE with the result of the owner's signature and nonce where that is not OK, ENROL with SLOT_BUSY
(6) or BAD_KEY (7), else they fill a slot with the key and its KEY_ID, clear a slot, or clear the owner and every
publisher, and count in NONCE; SVN_COMMIT with the signature's result where an owner exists, with SVN_RANGE (8)
above a running SVN, else it raises the fuses to its argument. A result other than OK changes nothing of the seal
unit. A message before MGMT is answered with NOT_READY, and one while a command of SEAL.CMD runs with BUSY. The
order of the checks and BAD_OP for a slot above 15 are the model's (log 42). -/
def Obligations.SealCommandsComplete : Prop :=
  ∀ (s : State) (via : Option Nat) (token : Nat) (b : List Byte),
    let u := s.sealUnit
    let at_ := match via with
      | none => s.emit (.hostRead (s.fv .sealCmdAddrAddr []) 208 false)
      | some _ => s
    let n := blockArg b
    let key := blockKey b
    let done (op res : Nat) (v : Seal) : Host.Outcome State Fault Refusal :=
      .next ((if res = 0 then at_.setSeal v else at_).sealDone via token op n res)
    let take := if u.owner.isSome then 4 else if onCurve key then 0 else 7
    let signed := match u.owner with
      | none => 5
      | some k => if ecdsaVerify k (b.take 112) ((b.drop 112).take 96) then
          (if leAt b 8 8 = u.nonce then 0 else 3) else 2
    let slot := if signed ≠ 0 then signed else if 15 < n then 1 else 0
    let enrol := if slot ≠ 0 then slot else if (u.pubs.getD n none).isSome then 6 else if onCurve key then 0 else 7
    let svn := if u.owner.isSome ∧ signed ≠ 0 then signed else if s.svns.1 < n ∨ s.svns.2 < n then 8 else 0
    let all := [Instr.svnCommit via token (some b), .takeOwnership via token (some b), .enrol via token (some b),
      .revoke via token (some b), .release via token (some b)]
    (∀ ep c, via = some ep → c ∈ all →
      (s.mgmtUp = false → exec c s = .next (s.vendorRsp ep 0x30 4 [])) ∧
      (s.mgmtUp = true → s.fv .sealCmdStatusBusy [] = 1 → exec c s = .next (s.vendorRsp ep 0x30 3 []))) ∧
    ((∀ ep, via = some ep → s.mgmtUp = true ∧ s.fv .sealCmdStatusBusy [] = 0) →
    (u.owner.isSome ∨ (leAt b 8 8 = 0 ∧ ((b.drop 112).take 96).all (· == 0) = true) → leAt b 0 1 = 5 →
      exec (.svnCommit via token (some b)) s = done 5 svn
        { u with fused := max u.fused n, nonce := if u.owner.isSome then u.nonce + 1 else u.nonce }) ∧
    (leAt b 0 1 = 1 → exec (.takeOwnership via token (some b)) s = done 1 take { u with owner := some key }) ∧
    (leAt b 0 1 = 2 → exec (.enrol via token (some b)) s = done 2 enrol
      { u with pubs := u.pubs.set n (some ⟨key, keyId key⟩), nonce := u.nonce + 1 }) ∧
    (leAt b 0 1 = 3 → exec (.revoke via token (some b)) s = done 3 slot
      { u with pubs := u.pubs.set n none, nonce := u.nonce + 1 }) ∧
    (leAt b 0 1 = 4 → exec (.release via token (some b)) s = done 4 signed
      { u with owner := none, pubs := List.replicate 16 none, nonce := u.nonce + 1 }))

/-- Debug credentials, debug reads and a failed TRNG. On a formed partition: SET stores the written credential once
and is refused afterwards; UNLOCK is refused without a credential, with DEBUG_EN clear, or after eight failures,
unlocks where the credential matches, and counts a failure where it does not, of which the eighth locks debug;
LOCK locks and zeroes DBG_DATA; DBG_ADDR shows the selected word of a site of the unlocked partition, or asks a
bank of a memory unit for it (R194), zeros with OUTSIDE for another site, and zeros while locked (log 154, as for
the order of DBG_CTL). A failed health test sets TRNG_FAIL. -/
def Obligations.DebugAccess : Prop :=
  ∀ (s : State) (p : Nat) (w : Word) (c : BitVec 128),
    let d := (s.part p).dbg
    let refused := s.setf .partDbgStateRefused [p] 1
    let sel := s.setv .partDbgAddr [p] (w &&& (rangeMask 63 62 ||| rangeMask 44 32 ||| rangeMask 13 0))
    let reads (t : State) (x : Line) : State := t.setPart p { t.part p with dbg := { (t.part p).dbg with data := x } }
    let bank := getBits w 63 62 = 0 ∧ isMu (getBits w 44 32) = true ∧ getBits w 13 0 < 12288
    (s.formed p = true →
      (d.stored = none →
        exec (.debugSet p) s = .next ((s.setDebug p { d with stored := some d.written }).showDebug p) ∧
        exec (.debugUnlock p) s = .next refused) ∧
      (d.stored = some c →
        exec (.debugSet p) s = .next refused ∧
        (s.fa .sealPolicyDebugEn [] = 0 ∨ 8 ≤ d.fails → exec (.debugUnlock p) s = .next refused) ∧
        (s.fa .sealPolicyDebugEn [] ≠ 0 → d.fails < 8 →
          (c = d.written → exec (.debugUnlock p) s =
            .next ((s.setDebug p { d with unlocked := true }).showDebug p)) ∧
          (c ≠ d.written → ∀ t, t = s.setDebug p { d with fails := d.fails + 1 } →
            (d.fails < 7 → exec (.debugUnlock p) s = .next (t.showDebug p)) ∧
            (d.fails = 7 → exec (.debugUnlock p) s =
              .next ((t.setDebug p { (t.part p).dbg with unlocked := false, data := 0 }).showDebug p))))) ∧
      exec (.debugLock p) s = .next ((s.setDebug p { d with unlocked := false, data := 0 }).showDebug p) ∧
      (d.unlocked = true → s.ownerOf (getBits w 44 32) = some p → bank → exec (.debugAddrSelect p w) s =
        .next (sel.debugBank p (getBits w 44 32) (getBits w 13 0))) ∧
      (d.unlocked = true → s.ownerOf (getBits w 44 32) = some p → ¬ bank → exec (.debugAddrSelect p w) s =
        .next (reads sel ((s.site (getBits w 44 32)).debugWord (getBits w 63 62) (getBits w 13 0)))) ∧
      (d.unlocked = true → s.ownerOf (getBits w 44 32) ≠ some p → exec (.debugAddrSelect p w) s =
        .next (reads (sel.setf .partDbgStateOutside [p] 1) 0)) ∧
      (d.unlocked = false → exec (.debugAddrSelect p w) s = .next (reads sel 0))) ∧
    exec .trngHealthFail s = .next ((s.setSeal { s.sealUnit with trngFail := true }).setf .sealStatusTrngFail [] 1)

/-- The black box: writing, overflow, reading and clearing. While READY the writer writes the record at the head of
the queue to its slot and shows the new heads; with room in the queue the discarded records are reported once in
an OVERFLOW record; RD_SEL shows the selected slot and its status; READ answers up to 16 records, or code 4 before
READY and 1 for a bad count or area; STATE answers the four registers; a clear that is not OK, after it has read
its block unless the result is BUSY, changes CLR_STATUS, ends CLEARING and leaves its SEAL_CMD record, with the
operation of its block (the order of its checks and this record are the model's reading, log 155). BLACK_BOX_WRITE
before READY or with nothing queued does nothing (log 162). -/
def Obligations.BlackBoxCommands : Prop :=
  ∀ (s : State) (e : Line × Bool) (q : List (Line × Bool)) (w : Word) (ep area start count token : Nat)
      (block : Option (List Byte)),
    let rd := Out.hostRead (s.fv .bboxClrAddrAddr []) 208 false
    let st := if s.clearResult block = 10 then s else s.emits (if block.isSome then [rd] else [rd, rd])
    let st := (st.setf .bboxClrStatusBusy [] 0).setf .bboxBbStateClearing [] 0
    let st := st.setv .bboxClrStatus [] (putBits (putBits (putBits (st.rv .bboxClrStatus []) 63 48 token) 11 8
      (s.clearResult block)) 0 0 1)
    let arg := match block with | some b => leAt b 4 1 | none => 0
    let op := match block with | some b => (if s.clearResult block = 10 then 0x40 else leAt b 0 1) | none => 0x40
    (s.bbReady = true →
      (s.bbox.queue = e :: q →
        exec .blackBoxWrite s = .next (s.setBBox ({ s.bbox with queue := q }.write e.1 e.2)).showBBox) ∧
      (∀ r, r = s.readSlot (w.getLsbD 63) (getBits w 47 0) → exec (.blackBoxReadSelect w) s =
        .next (((List.range 8).foldl (fun u n => u.setv .bboxRdData [n] (BitVec.ofNat 64 (r.1.toNat >>> (64 * n))))
          (s.setv .bboxRdSel [] (putBits w 62 48 0))).setv .bboxRdStatus [] r.2)) ∧
      (1 ≤ count → count ≤ 16 → area ≤ 1 → exec (.read ep area start count) s =
        .next (s.vendorRsp ep 0x10 0 ((List.range count).flatMap (fun i =>
          leBytes 8 (s.readSlot (area == 1) (start + i)).2.toNat ++
            leBytes 64 (s.readSlot (area == 1) (start + i)).1.toNat)))) ∧
      (count = 0 ∨ 16 < count ∨ 1 < area → exec (.read ep area start count) s = .next (s.vendorRsp ep 0x10 1 []))) ∧
    (s.bbReady = false → exec (.read ep area start count) s = .next (s.vendorRsp ep 0x10 4 [])) ∧
    (s.bbox.queue.length < 512 → s.bbox.lostNow ≠ 0 → exec .overflow s =
      .next ((s.setBBox { s.bbox with lostNow := 0 }).bbPut none 0x07 0 (payloadOf [(0, 8, s.bbox.lostNow)]))) ∧
    exec (.state ep) s = .next (s.vendorRsp ep 0x11 0 (leBytes 8 (s.rv .bboxBbState []).toNat ++
      leBytes 8 (s.rv .bboxHeadSeq []).toNat ++ leBytes 8 (s.rv .bboxOldestSeq []).toNat ++
      leBytes 8 (s.rv .bboxLost []).toNat)) ∧
    (s.clearResult block ≠ 0 → exec (.clear token block) s = .next (st.sealRecord op arg (s.clearResult block))) ∧
    (s.bbReady = false ∨ s.bbox.queue = [] → exec .blackBoxWrite s = .next s)

/-- An accepted clear of the black box. A clear without an owner, with a zero nonce and signature, while READY and
running: no record of the MRAM but the slot of the CLEARED record changes, that slot holds the record with that
SEQ, slot 2 of the control block holds what was cleared with its CRC (the model's layout, log 208), OLDEST is the
CLEARED record's SEQ, the first-fault count becomes 0 where ARG is 1 and stays otherwise, and NONCE stays. -/
def Obligations.ClearMovesTheOldestRecord : Prop :=
  ∀ (s : State) (token : Nat) (b : List Byte), s.bbReady = true → s.powerState < 3 → s.sealUnit.owner = none →
    leAt b 0 1 = 0x40 → leAt b 4 1 ≤ 1 → leAt b 8 8 = 0 → ((b.drop 112).take 96).all (· == 0) = true →
    Runs (exec (.clear token (some b)) s) (fun t =>
      t.bbox.cleared = s.bbox.nextSeq ∧
      t.bbox.ffCount = (if leAt b 4 1 = 1 then 0 else s.bbox.ffCount) ∧
      t.sealUnit.nonce = s.sealUnit.nonce ∧
      recSeq (t.slot (ringBase + s.bbox.nextSeq % 2 ^ 48 % ringSlots)) = s.bbox.nextSeq % 2 ^ 48 ∧
      t.slot 2 = ctlSlot (s.bbox.nextSeq % 2 ^ 48 + (if leAt b 4 1 = 1 then s.bbox.nextSeq
        else bitsOf (s.slot 2).toNat 95 48) * 2 ^ 48) ∧
      (∀ i, 64 ≤ i → i ≠ ringBase + s.bbox.nextSeq % 2 ^ 48 % ringSlots → t.slot i = s.slot i))

/-- The host link: training, L0, port reset, integrity and DOE. Training at a supported width and rate with 256-byte
flits sets WIDTH, SPEED, LOPT and UP and takes the host's enumeration, and ends the IDE keys of before, else it
sets NARROW; leaving L0 clears UP and sets DOWN; training and a return to L0 send what was held and wake every
enabled ledger; a port reset clears every ENABLE, drops held completions with a count, empties the snoop filter,
ends the IDE keys and sets RESET_SEEN; an IDE failure is recorded, ends its stream and takes the link down; IDE
keys arrive in an open session of the DOE mailbox alone; DOE discovery and table access answer in L0. Readings and
choices of the model there: the enumeration and what it programs (log 125), messages held and sent (logs 126,
129), the clearing of ENABLE in every copy (log 127), the deactivated stream (log 128), and the codes of IDE_KM,
DOE and CDAT (log 40). -/
def Obligations.HostLinkEvents : Prop :=
  ∀ (s : State) (width speed stream session index : Nat) (lopt : Bool) (cfg : HostConfig) (key : List Byte),
    let at_ (w : Nat) : State := (((s.setf .hostLinkStatusWidth [] w).setf .hostLinkStatusSpeed [] (min speed 6)).setf
      .hostLinkStatusLopt [] (bit01 lopt)).setf .hostLinkStatusUp [] 1
    let trained (t : State) : State :=
      t.endIde.setHost { t.endIde.host with
        hdmBase := cfg.base, msixOn := cfg.msixOn, masked := cfg.masked, msixTable := cfg.table }
    let up (t : State) : State :=
      (List.range 32).foldl (fun u p => if u.enabled p then (u.setPart p { u.part p with tail := none }).wakeLedger p else u)
        t.flushMsix.flushHbm.writeCompletions.flushLinkErr
    let off := (List.range 32).foldl (fun u p => (u.clearEnable p).ledgerOff p) s
    let off := off.bump .hostComplDropped [] off.host.held.length
    let fail := (s.linkErr .hostLinkErrIdeFail).bbWrite none 0x51 7 (payloadOf [(0, 1, stream % 2)])
    let dead := if stream % 2 = 0 then fail.setf .hostLinkStatusIdeIo [] 0 else fail.setf .hostLinkStatusIdeCm [] 0
    let keyed := s.setHost { s.host with ideKeys := s.host.ideKeys.filter (fun e => e.1 != stream % 2) ++ [(stream % 2, key)] }
    let e := doeProtocols.getD index (0xFFFF, 0xFF)
    (5 ≤ speed →
      (16 ≤ width → exec (.hostLinkTrained width speed true lopt cfg) s = .next (up (trained (at_ 16)))) ∧
      (8 ≤ width → width < 16 → exec (.hostLinkTrained width speed true lopt cfg) s = .next (up (trained (at_ 8))))) ∧
    (width < 8 ∨ speed < 5 → exec (.hostLinkTrained width speed true lopt cfg) s = .next (s.linkErr .hostLinkErrNarrow)) ∧
    exec (.hostLinkTrained width speed false lopt cfg) s = .next (s.linkErr .hostLinkErrNarrow) ∧
    (s.linkUp = true → exec .linkLeavesL0 s = .next ((s.setf .hostLinkStatusUp [] 0).linkErr .hostLinkErrDown)) ∧
    (s.linkUp = false → s.fv .hostLinkStatusWidth [] ≠ 0 → exec .linkReturnsL0 s =
      .next (up (s.setf .hostLinkStatusUp [] 1))) ∧
    exec .hostPortReset s = .next (((off.setHost { off.host with held := [], filter := [], msixOn := false }).endIde.setf
      .hostSfUseEntries [] 0).linkErr .hostLinkErrResetSeen) ∧
    s.endIde.host.ideKeys = [] ∧
    exec (.ideFailure stream) s = .next (if dead.linkUp then dead.linkDown else dead) ∧
    (s.mgmt.sessions.any (fun x => x.1 == session && x.2.2 == 2) = false → ∀ b, exec (.ideKm session stream key b) s = .next s) ∧
    (s.mgmt.sessions.any (fun x => x.1 == session && x.2.2 == 2) = true →
      exec (.ideKm session stream key false) s = .next (keyed.emit (.spdm 2 0x7E (leBytes 1 (stream % 2)))) ∧
      (stream % 2 = 0 → exec (.ideKm session stream key true) s =
        .next ((keyed.setf .hostLinkStatusIdeIo [] 1).emit (.spdm 2 0x7E (leBytes 1 0)))) ∧
      (stream % 2 = 1 → exec (.ideKm session stream key true) s =
        .next ((keyed.setf .hostLinkStatusIdeCm [] 1).emit (.spdm 2 0x7E (leBytes 1 1))))) ∧
    (s.linkUp = true →
      exec (.doeDiscovery index) s = .next (s.emit (.doe (leBytes 2 e.1 ++ leBytes 1 e.2 ++
        leBytes 1 (if index + 1 < doeProtocols.length then index + 1 else 0)))) ∧
      exec .tableAccess s = .next (s.emit (.doe ([0, 0, 0xFF, 0xFF] ++ s.cdat))))

/-- Snoops of tail lines and the ledger engine. Every snoop is answered at once with its line's address; an
invalidating one drops the copy of the tail line of the ledger it names and wakes its engine on the lead, or holds
one wake while a fetch runs; a data or current snoop keeps the copy. An awake engine reads TAIL and fetches from
NEXT to TAIL - 1, on the lead, with ENABLE and in L0 alone; each entry is read once, advances NEXT and LAP, and
after two read errors is ENTRY_INVALID with reason 1. -/
def Obligations.TailLinesAndLedgerFetch : Prop :=
  ∀ (s : State) (p addr tail to_ : Nat) (w : BitVec 2048),
    let line := addr / 64 * 64
    let x := s.part p
    let gone (held : Bool) := s.emit (.snoopRsp line held)
    let dropped := (gone false).setPart p { x with tail := none }
    let n := s.ledgerNext p
    let lap := s.fv .serveLedgerStateLap [p]
    let rd := Out.hostRead (s.fa .hostLedgerBaseAddr [p] + 256 * n) 256 false
    let adv (t : State) : State :=
      let u := t.setf .serveLedgerStateNext [p] ((n + 1) % 4096)
      if (n + 1) % 4096 = 0 then u.setf .serveLedgerStateLap [p] (1 - lap) else u
    let keep (t : State) (e : Entry) : State := t.setPart p { t.part p with
      fetched := (t.part p).fetched ++ [e]
      fetchTo := if (n + 1) % 4096 = to_ then none else some to_
      awake := (t.part p).awake || (decide ((n + 1) % 4096 = to_) && (t.part p).wake)
      wake := (t.part p).wake && !decide ((n + 1) % 4096 = to_) }
    (s.tailOwner addr = none → exec (.snpinv addr) s = .next (gone false) ∧
      exec (.snpdata addr) s = .next (gone false) ∧ exec (.snpcur addr) s = .next (gone false)) ∧
    (s.tailOwner addr = some p →
      exec (.snpdata addr) s = .next (gone x.tail.isSome) ∧ exec (.snpcur addr) s = .next (gone x.tail.isSome) ∧
      exec (.snpinv addr) s = .next (dropped.wakeLedger p)) ∧
    (s.enabled p = true → s.isLead p = true → s.linkUp = true → x.awake = true → exec (.tailLineRead p tail) s =
      .next ((s.emit (.hostRead (s.fa .hostTailAddrAddr [p]) 64 true)).setPart p { x with
        tail := some (tail % 4096), awake := false
        fetchTo := if tail % 4096 = n then none else some (tail % 4096) })) ∧
    (s.enabled p = false ∨ s.linkUp = false ∨ s.isLead p = false ∨ x.fetchTo = none → ∀ r,
      exec (.ledgerEntryFetch p r) s = .next s) ∧
    (s.enabled p = true → s.linkUp = true → s.isLead p = true → x.fetchTo = some to_ →
      exec (.ledgerEntryFetch p none) s = .next (keep (adv ((s.emits [rd, rd]).linkErr .hostLinkErrReadFail))
        ⟨n, 0, Status.entryInvalid, invalidDetail 0xFFFF 1⟩) ∧
      (fetchCheck ⟨n, w, 0, 0⟩ lap = none →
        exec (.ledgerEntryFetch p (some w)) s = .next (keep (adv (s.emit rd)) ⟨n, w, 0, 0⟩)) ∧
      (∀ r, fetchCheck ⟨n, w, 0, 0⟩ lap = some r → exec (.ledgerEntryFetch p (some w)) s =
        .next (keep (adv (s.emit rd)) ⟨n, w, Status.entryInvalid, invalidDetail 0xFFFF r⟩)))

/-- Host accesses of device memory and migration. A host access that reaches no partition counts in HDM_MISS and
returns zeros or completes; one that reaches a ready die with no earlier request of its line waiting is served at
once, any other waits in order. Bringing in a movable page-tile that is out joins the swap path (log 199) and
waits while the host link or the link of its die is down or a transfer asked for before it waits; else it takes
the first page of its segment's reservation, reads the backing slot, stores the decrypted bytes, counts MIG_IN,
lowers the count of page-tiles that are out, and lets waiting requests go on. -/
def Obligations.HostMemoryAccesses : Prop :=
  ∀ (s : State) (off p a tile n page pages base die h : Nat) (cache : Bool) (data : Line) (rest : List Nat)
      (blob : List Byte),
    let rd : HubReq := ⟨p, a, [], cache⟩
    let wr : HubReq := ⟨p, a, leBytes 64 data.toNat, false⟩
    let slot := 65536 * s.backSlot p n tile
    let host := s.fa .hostBackBaseAddr [p]
    let plainText := plain (s.swapKey p) (slot + 2 ^ 127) 4096 16 ((blob ++ List.replicate 65536 0).take 65536)
    let q := s.swapAsk (p, 2 ^ 33 + tile)
    let asked := q.emit (.hostRead (host + slot) 65536 false)
    let mapped := asked.setPart p { asked.part p with
      map := tabSet (fun _ => none) (asked.part p).map tile (some page),
      reserve := tabSet (fun _ => []) (asked.part p).reserve n rest }
    let filled := (mapped.writePart p 0x1FFF (tile * 65536) plainText).1
    (s.hdmTarget off = none →
      exec (.hostMemRead off cache) s = .next ((s.bump .hostHdmMiss [] 1).emit (.memData (List.replicate 64 0) false)) ∧
      exec (.hostMemWrite off data) s = .next ((s.bump .hostHdmMiss [] 1).emit .memDone)) ∧
    (s.hdmTarget off = some (p, a) →
      (s.hubReady rd = true → s.hubWait = [] →
        exec (.hostMemRead off cache) s = .next (s.hubServe rd) ∧
        exec (.hostMemWrite off data) s = .next (s.hubServe wr)) ∧
      (s.hubReady rd = false →
        exec (.hostMemRead off cache) s = .next { s with hubWait := s.hubWait ++ [rd] } ∧
        exec (.hostMemWrite off data) s = .next { s with hubWait := s.hubWait ++ [wr] })) ∧
    (s.segmentOf p tile = some n → s.segment p n = some (pages, base, die, false, h) →
      tabGet (fun _ => none) (s.part p).map tile = none →
      (s.linkUp = false ∨ s.dieUp die = false ∨ q.swapTurn (p, 2 ^ 33 + tile) = false →
        exec (.bringIn p tile blob) s = .next q) ∧
      (s.linkUp = true → s.dieUp die = true → q.swapTurn (p, 2 ^ 33 + tile) = true →
      tabGet (fun _ => []) (s.part p).reserve n = page :: rest → exec (.bringIn p tile blob) s =
        .next ((filled.bump .hostMigIn [p] 1).setf .hostMovableOutTiles [p] (filled.fv .hostMovableOutTiles [p] - 1)).hubResume))

/-- The operations of a CONTROL entry. With a CONTROL entry admitted without an outcome, nothing firing and its next
operation of the command's code: a number outside the partition's range gives BAD_SEQ (2) for each of the five.
OPEN of a FREE sequence makes it ACTIVE with its edition, set, group and namespace, of any other gives BAD_STATE
(1). PARK makes an ACTIVE sequence PARKED, else BAD_STATE. RESUME makes a PARKED sequence ACTIVE, gives BAD_STATE
for one that is neither PARKED nor SWAPPED, and for a SWAPPED one gives NO_PAGES (4) where the pool cannot meet
the need, waits for the pool, the host link, the dies and its turn on the swap path (logs 182, 199), gives
NO_PAGES after a failed read and else fills the pages and makes it ACTIVE. CLOSE releases the pages of a sequence
in any state but FREE and CLOSED and makes it CLOSED, else BAD_STATE; its release then returns the entry to zero.
LOOKUP gives BAD_STATE for a sequence that is not ACTIVE or not empty, NO_KEY (3) without prefix sharing or a key,
waits for the host link, ends the entry with ENTRY_INVALID after failed reads, and else reads the token IDs at
ARG1 and maps the blocks found, none while the namespace is being cleared, with the length in VALUE. Each result
is appended and operations that are not admitted follow with BAD_OP. A command that is not the entry's next
operation changes nothing (log 1). -/
def Obligations.ControlOperations : Prop :=
  ∀ (s : State) (p key : Nat) (x : Step) (blobs : Option (List (List Byte))) (tk : Option (List Nat)) (toks : List Nat)
      (l : List (List Byte)),
    let w := x.entry.op x.results.length
    let seq := opSeq w
    let q := s.seqOf seq
    let now := s.pnow p
    let next (y : Step) (r : Nat × Nat) : Step := (y.result r.1 r.2 now).skipBad now 8
    let after (t : State) (code value : Nat) : Host.Outcome State Fault Refusal :=
      .next (t.setAdmitted p (next x (code, value)))
    let settled (t : State) (code value : Nat) : Host.Outcome State Fault Refusal :=
      match (t.part p).admitted with
      | some y => .next (if y.outcome.isSome then t else t.setAdmitted p (next y (code, value)))
      | none => .next t
    let cmds := [(1, Instr.openSeq p), (2, .park p), (3, .resume p blobs), (4, .close p), (5, .lookup p tk)]
    let blocks := min 1024 ((opArg0 w - 1) / 32)
    let asked := s.emit (.hostRead (opArg1 w) (4 * opArg0 w) false)
    let found := asked.lookupWalk p seq q.ns key toks blocks 0 q.chain
    let bs := s.blockList seq true
    let need := (bs.map (fun b => (tabGet (fun _ => []) (s.part p).swapFrames b.2).length)).foldl (· + ·) 0
    let g := s.gather p need false s.gatherFuel x.reclaim
    let v := (g.1.endGather p x).swapAsk (p, 2 ^ 32 + seq)
    let rd := v.emits (v.resumeReads p bs)
    let filled := (rd.resumeBlocks p seq q.length bs l).bump .serveSwapIn [p] need
    (∀ e ∈ cmds, (s.part p).firing.isSome = true ∨ (s.part p).admitted = none → exec e.2 s = .next s) ∧
    (q.state = 5 → exec (.sequenceReleaseComplete seq) s = .next (s.setSeq seq Seq.reset)) ∧
    (q.state ≠ 5 → exec (.sequenceReleaseComplete seq) s = .next s) ∧
    ((s.part p).firing = none → (s.part p).admitted = some x →
      (∀ e ∈ cmds, x.entry.kind ≠ 1 ∨ x.outcome.isSome = true ∨ x.entry.opCount ≤ x.results.length ∨ opCode w ≠ e.1 →
        exec e.2 s = .next s) ∧
      (x.entry.kind = 1 → x.outcome = none → x.results.length < x.entry.opCount →
      (∀ e ∈ cmds, s.inRange p seq = false → opCode w = e.1 → exec e.2 s = after s 2 0) ∧
      (s.inRange p seq = true →
        (opCode w = 1 →
          (q.state ≠ 0 → exec (.openSeq p) s = after s 1 0) ∧
          (q.state = 0 → exec (.openSeq p) s = after (s.setSeq seq ⟨chainSeed (opArg0 w) (opArg1 w % 8192), 0, opArg0 w, 0,
            (s.nsKey p (opNs w)).isSome, opArg1 w % 8192, opPgroup w, opNs w, p, 1⟩) 0 0)) ∧
        (opCode w = 2 →
          (q.state ≠ 1 → exec (.park p) s = after s 1 0) ∧
          (q.state = 1 → exec (.park p) s = after (s.setSeq seq { q with state := 2 }) 0 0)) ∧
        (opCode w = 3 →
          (q.state = 2 → exec (.resume p blobs) s = after (s.setSeq seq { q with state := 1 }) 0 0) ∧
          (q.state ≠ 2 → q.state ≠ 3 → exec (.resume p blobs) s = after s 1 0) ∧
          (q.state = 3 →
            ((s.part p).swapping ≠ [] → exec (.resume p blobs) s = .next s) ∧
            ((s.part p).swapping = [] →
              (x.reclaim = false → s.canGather p need s.gatherFuel false = false →
                exec (.resume p blobs) s = after s 4 0) ∧
              (x.reclaim = true ∨ s.canGather p need s.gatherFuel false = true →
                (s.linkUp = false → exec (.resume p blobs) s = .next s) ∧
                (s.linkUp = true →
                  (∀ again, g.2 = .wait again → exec (.resume p blobs) s = .next (g.1.setAdmitted p { x with
                    reclaim := again, gather := 1, gatherAt := if x.gather = 1 then x.gatherAt else g.1.pnow p })) ∧
                  (g.2 = .fails ∨ (∃ a, g.2 = .ue a) → exec (.resume p blobs) s = settled (g.1.endGather p x) 4 0) ∧
                  (g.2 = .got →
                    (v.diesUp p = false ∨ v.swapTurn (p, 2 ^ 32 + seq) = false → exec (.resume p blobs) s = .next v) ∧
                    (v.diesUp p = true → v.swapTurn (p, 2 ^ 32 + seq) = true →
                      exec (.resume p none) s =
                        settled ((rd.emits (rd.resumeReads p bs)).linkErr .hostLinkErrReadFail) 4 0 ∧
                      exec (.resume p (some l)) s =
                        settled (filled.setSeq seq { filled.seqOf seq with state := 1 }) 0 0))))))) ∧
        (opCode w = 4 →
          (q.state = 0 ∨ q.state = 5 → exec (.close p) s = after s 1 0) ∧
          (q.state ≠ 0 → q.state ≠ 5 → exec (.close p) s =
            after ((s.releaseSeq p seq).setSeq seq { q with state := 5 }) 0 0)) ∧
        (opCode w = 5 →
          (q.state ≠ 1 → exec (.lookup p tk) s = after s 1 0) ∧
          (q.state = 1 →
            (q.pfx = false → exec (.lookup p tk) s = after s 3 0) ∧
            (q.pfx = true →
              (q.length ≠ 0 → exec (.lookup p tk) s = after s 1 0) ∧
              (q.length = 0 →
                (s.linkUp = false → exec (.lookup p tk) s = .next s) ∧
                (s.linkUp = true →
                  exec (.lookup p none) s = .next
                    (((asked.emit (.hostRead (opArg1 w) (4 * opArg0 w) false)).linkErr .hostLinkErrReadFail).failAdmitted p x
                      Status.entryInvalid (invalidDetail 0xFFFF 1)) ∧
                  (s.nsKey p q.ns = none → exec (.lookup p (some toks)) s = after asked 3 0) ∧
                  (s.nsKey p q.ns = some key →
                    ((s.fv .serveNskeyStateClearing [p]).testBit q.ns = true → exec (.lookup p (some toks)) s =
                      after (if blocks = 0 then asked else asked.bump .servePfxMiss [] 1) 0 0) ∧
                    ((s.fv .serveNskeyStateClearing [p]).testBit q.ns = false → exec (.lookup p (some toks)) s =
                      after (found.1.setSeq seq { found.1.seqOf seq with
                        length := 32 * found.2.1, chain := found.2.2 }) 0 (32 * found.2.1)))))))))))

/-- Choosing, delivering and completing entries. Outside park, stop and trip the scheduler gives the ready partitions
their rounds and admits the entry of the first ready one with a positive deficit, upward from the one after the
last choice, or admits nothing. Once the plate of its first row is in front and the dies' links are up, a delivery
checks the STEP's batch once, gathers the pages of its records and makes the step the firing step once all are
gathered; until then the step stays where it stood, and at the lead nothing is read while the host link is out of
L0 (log 162). A step that a flip has already entered is delivered in its place (log 183). A firing step that can
complete, and an admitted entry with an outcome or with all its results, completes while the completion can be
written or held, and else waits; the ticks of a gathering that its abort ended are counted, and the collective
results of the step go with it. -/
def Obligations.SchedulerDeliveryAndCompletion : Prop :=
  ∀ (s : State) (p last : Nat) (x y : Step) (e : Edition) (batch : Option (List Byte)),
    let ready := s.readySet
    let t := s.scheduleRounds ready
    let order := (List.range 32).map (fun i => (t.fv .serveSchedStateLast [] + 1 + i) % 32)
    let pick := order.find? (fun p => ready.contains p && decide (0 < (t.part p).deficit))
    let here := if s.isLead p then batch else some x.batch
    let got := (if x.checked then s else s.checkBatch p e x here).gatherRecords p e (x.entry.seqCount + 1)
    let may := x.outcome = none ∧ x.entry.kind = 0 ∧ s.powerState < 2 ∧ (s.isLead p = true ∨ batchHere x = true) ∧
      s.plateReady p x = true ∧ s.resident x.edition = some e
    let halted := if x.outcome.isSome then (s.countGather p x).haltFabric p else s
    (s.powerState < 2 →
      (pick = some last → exec .schedulerChoose s = .next ((t.setf .serveSchedStateLast [] last).admitNext last)) ∧
      (pick = none → exec .schedulerChoose s = .next t)) ∧
    (2 ≤ s.powerState → exec .schedulerChoose s = .next s) ∧
    ((s.part p).firing = none → (s.part p).admitted = some x → may →
      (s.linkUp = false → s.isLead p = true → x.checked = false → exec (.batchDelivery p batch) s = .next s) ∧
      (s.linkUp = true ∨ s.isLead p = false ∨ x.checked = true →
        (∀ z, (got.part p).admitted = some z → got.gathered p z = true →
          exec (.batchDelivery p batch) s = .next ((got.deliver p z).memberAdmit p)) ∧
        ((∀ z, (got.part p).admitted = some z → got.gathered p z = false) →
          exec (.batchDelivery p batch) s = .next (got.memberAdmit p)))) ∧
    ((s.part p).firing = some x → x.delivered = false → may → exec (.batchDelivery p batch) s =
      .next ((s.delivering p (fun t => t.deliverBatch p e x batch)).memberAdmit p)) ∧
    ((s.part p).firing = some x →
      (s.roomToComplete p x = true → s.canComplete p x = true → exec (.stepComplete p) s =
        .next (((((halted.setPart p { halted.part p with firing := none }).endRounds p x.entry.idx).setPhase p 0).finish p x
          x.ended).memberAdmit p)) ∧
      (s.roomToComplete p x = false ∨ s.canComplete p x = false → exec (.stepComplete p) s = .next s)) ∧
    ((s.part p).firing = none → (s.part p).admitted = some y →
      (s.roomToComplete p y = true → (y.outcome.isSome = true ∨ (y.entry.kind = 1 ∧ y.entry.opCount ≤ y.results.length)) →
        ∀ u, u = s.countGather p y → exec (.stepComplete p) s =
          .next (((u.setPart p { u.part p with admitted := none }).finish p y y.ended).memberAdmit p)) ∧
      (s.roomToComplete p y = false → exec (.stepComplete p) s = .next s))

/-- The step messages between modules. An accepted STEP_DESC from a member's parent in the combining tree is passed on
to its children, and adds its entry to the member's list and lets the member admit its next entry once its first
time exchange has completed (before it the entry is not taken, R55, R495); STEP_DATA is passed on likewise, and
adds its bytes to the batch of the step with its index that fires or is admitted, or keeps them for its admission
(log 83); the lead takes a part of a share from STEP_DONE, and one that did not run to its end aborts the step
with its code on every module; HIST at the lead adds a layer block to the histogram and its choices to the totals
(what the message cannot carry is a free value, log 184); STEP_ABORT ends the step with its index that fires or is
admitted, at the lead on every module. Each that names another role or step changes nothing more, and one that
R463 does not accept is discarded and counted. -/
def Obligations.StepMessages : Prop :=
  ∀ (s : State) (port p : Nat) (h : Hdr) (body : List Byte),
    let at_ (typ : Nat) := s.consume port typ body.length
    let entry : Entry := ⟨leAt body 0 2 % 4096, BitVec.ofNat 2048 (leAt body 16 256), 0, 0⟩
    let idx := leAt body 0 2 % 4096
    let code := leAt body 2 2
    let detail := BitVec.ofNat 64 (leAt body 8 8)
    let names (t : State) := (t.part p).firing.any (fun x => x.entry.idx == idx) = true ∨
      (t.part p).admitted.any (fun x => x.entry.idx == idx) = true
    let shared := (at_ 8).onStep p idx (fun x => x.addShare h.src h.fin body)
    let counted := (at_ 9).onStep p idx (fun x => (List.range 512).foldl
      (fun (y : Step) e => y.addEntry (512 * leAt body 2 2 + e) (leAt body (4 + 8 * e) 8) ((at_ 9).free + 3 * e))
      { x with layers := max x.layers (leAt body 2 2 + 1) })
    ((at_ 6).accept h = .ok p →
      ((at_ 6).fromParent p h.src = false → exec (.stepDesc port h body) s = .next (at_ 6)) ∧
      ((at_ 6).fromParent p h.src = true →
        ((at_ 6).fv .timePsyncSynced [p] = 0 → exec (.stepDesc port h body) s = .next ((at_ 6).passDown p 6 body)) ∧
        ((at_ 6).fv .timePsyncSynced [p] ≠ 0 → exec (.stepDesc port h body) s =
          .next ((((at_ 6).setPart p { (at_ 6).part p with fetched := ((at_ 6).part p).fetched ++ [entry] }).memberAdmit
            p).passDown p 6 body)))) ∧
    ((at_ 7).accept h = .ok p →
      ((at_ 7).fromParent p h.src = false → exec (.stepData port h body) s = .next (at_ 7)) ∧
      ((at_ 7).fromParent p h.src = true →
        ((at_ 7).fv .timePsyncSynced [p] = 0 → exec (.stepData port h body) s = .next ((at_ 7).passDown p 7 body)) ∧
        ((at_ 7).fv .timePsyncSynced [p] ≠ 0 →
          (names (at_ 7) → exec (.stepData port h body) s = .next (((at_ 7).onStep p idx (fun x =>
            { x with batch := placeBytes x.batch (leAt body 4 4) (body.drop 8) })).passDown p 7 body)) ∧
          (¬ names (at_ 7) → exec (.stepData port h body) s = .next (((at_ 7).setPart p { (at_ 7).part p with
            early := tabSet (fun _ => []) ((at_ 7).part p).early idx (placeBytes
              (tabGet (fun _ => []) ((at_ 7).part p).early idx) (leAt body 4 4) (body.drop 8)) }).passDown p 7 body))))) ∧
    ((at_ 8).accept h = .ok p →
      ((at_ 8).isLead p = false → exec (.stepDone port h body) s = .next (at_ 8)) ∧
      ((at_ 8).isLead p = true →
        (ranToEnd (code, detail) = true ∨ ¬ names (at_ 8) → exec (.stepDone port h body) s = .next shared) ∧
        (ranToEnd (code, detail) = false → names (at_ 8) → ∀ t, t = shared.abortEntry p idx code detail →
          exec (.stepDone port h body) s = .next (if t.spans p then t.sendAbort p idx code detail else t)))) ∧
    ((at_ 9).accept h = .ok p →
      ((at_ 9).isLead p = true → exec (.hist port h body) s = .next { counted with free := counted.free + 1536 }) ∧
      ((at_ 9).isLead p = false → exec (.hist port h body) s = .next (at_ 9))) ∧
    ((at_ 10).accept h = .ok p →
      (¬ names (at_ 10) → exec (.stepAbort port h body) s = .next (at_ 10)) ∧
      (names (at_ 10) → ∀ t, t = (at_ 10).abortEntry p idx code detail →
        ((at_ 10).isLead p = true → exec (.stepAbort port h body) s = .next (t.sendAbort p idx code detail)) ∧
        ((at_ 10).isLead p = false → exec (.stepAbort port h body) s = .next t))) ∧
    (∀ (n : Nat) (c : Instr), (n, c) ∈ [(6, Instr.stepDesc port h body), (7, .stepData port h body),
        (8, .stepDone port h body), (9, .hist port h body), (10, .stepAbort port h body)] →
      (∀ q, (at_ n).accept h ≠ .ok q) → exec c s = .next ((at_ n).discardMsg port))

/-- Namespace keys, the sequence view, swap-out and zeroing. NSKEY_CTL with GO gives the namespace the written key,
marks it KEYED and CLEARING, and takes its open sequences out of prefix sharing; the end of the invalidation drops
every entry of the namespace and clears CLEARING; SEQ_SEL shows the 32 bytes of a sequence entry; a swap-out waits
while the link of the page's die is down or a transfer asked for before it waits on the swap path (logs 182, 199);
else it writes the first waiting page with its header, ends the record of a frame whose last page it is, drops the
page's reference and counts SWAP_OUT; zeroing frees the oldest released page of a pool, or the oldest DIRTY page-
tile of a die that is not in self refresh. Readings and choices of the model there: CHAIN of a rekeyed sequence
stays (log 209), CLEARING (log 94), the swap records and their ciphers (logs 80, 96), and which page is zeroed
next (log 112). -/
def Obligations.NamespacesSequencesAndPages : Prop :=
  ∀ (s : State) (p ns n pg slot m page : Nat) (w : Word) (rest : List (Nat × Nat)) (zs : List Nat),
    let k := w.toNat % 16
    let q := s.part p
    let key := (s.rv .serveNskeyLo [p]).toNat + (s.rv .serveNskeyHi [p]).toNat * 2 ^ 64
    let held := s.setPart p { q with keys := tabSet (fun _ => none) q.keys k (some key) }
    let keyed := held.setf .serveNskeyStateKeyed [p] (held.fv .serveNskeyStateKeyed [p] ||| 2 ^ k)
    let marked := keyed.setf .serveNskeyStateClearing [p] (keyed.fv .serveNskeyStateClearing [p] ||| 2 ^ k)
    let gone := ((s.dirOf p).filter (fun e => e.2.ns == ns % 16)).foldl (fun u e => u.dropDir e.1) s
    let sel := w.toNat % 2 ^ 18
    let t := s.recallPage p pg
    let base := t.fa .hostSwapBaseAddr [p]
    let page64 := t.emits (t.cipherWrites p base (65536 * slot) 4096 0 16
      ((List.range 1024).flatMap (fun i => t.hbm.word (m + 64 * i))))
    let head := page64.emits (page64.cipherWrites p base (page64.headerOffset p slot) 128 0 1
      (leBytes 128 (((t.part p).hdr pg).pack p)))
    let ends := ((t.part p).swapFrames.filter (fun f => f.2.getLast? == some slot)).foldl (fun u f =>
      u.emits (u.cipherWrites p base (u.recordOffset p f.1) 1024 0 1 (frameRecord f.2))) head
    (s.formed p = true → w.getLsbD 63 = true → exec (.nskeyApply p w) s =
      .next (marked.setSeqs (marked.seqs.map (fun (e : Nat × Seq) =>
        if e.2.part = p ∧ e.2.ns = k ∧ e.2.state ≠ 0 then (e.1, { e.2 with pfx := false }) else e)))) ∧
    (s.formed p = true → (s.fv .serveNskeyStateClearing [p]).testBit (ns % 16) = true →
      exec (.nskeyInvalidationDone p ns) s = .next (gone.setf .serveNskeyStateClearing [p]
        (gone.fv .serveNskeyStateClearing [p] - 2 ^ (ns % 16)))) ∧
    exec (.seqSelCapture w) s = .next ((List.range 4).foldl (fun t i => t.setv .serveSeqData [i]
      (BitVec.ofNat 64 ((s.seqOf sel).pack >>> (64 * i)))) (s.setf .serveSeqSelSeq [] sel)) ∧
    (s.linkUp = false ∨ q.swapping = [] → exec (.swapOut p) s = .next s) ∧
    (s.linkUp = true → q.swapping = (pg, slot) :: rest → s.pageUp p pg = false ∨ s.swapTurn (p, slot) = false →
      exec (.swapOut p) s = .next s) ∧
    (s.linkUp = true → q.swapping = (pg, slot) :: rest → s.pageUp p pg = true → s.swapTurn (p, slot) = true →
      t.place p (t.poolAddr p pg) = .hbm m → exec (.swapOut p) s =
      .next ((ends.setPart p (({ (ends.part p).dropRef (ends.age p) pg with swapping := rest } : Part).prune)).bump
        .serveSwapOut [p] 1)) ∧
    (q.zeroQ = [] → exec (.pageZeroed true p) s = .next s) ∧
    (q.zeroQ = page :: zs → s.place p (s.poolAddr p page) = .hbm m →
      (s.selfRefresh (m / 2 ^ 39 % 8) = true → exec (.pageZeroed true p) s = .next s) ∧
      (s.selfRefresh (m / 2 ^ 39 % 8) = false → ∀ a b, a = (s.recallPage p page).activateAll (pageTiles (m / 65536)) →
        b = a.setHbm { a.hbm with cells := tabClear a.hbm.cells m (m + 65536)
                                  errs := tabClear a.hbm.errs (m / 64) (m / 64 + 1024) } →
        exec (.pageZeroed true p) s = .next (b.setPart p { (b.part p).setHdr page PageHdr.reset with zeroQ := zs }))) ∧
    (s.hbm.dirty.find? (fun x => dieOfPage x == n) = some page →
      (s.selfRefresh n = true → exec (.pageZeroed false n) s = .next s) ∧
      (s.selfRefresh n = false → exec (.pageZeroed false n) s = .next (((((s.activateAll (pageTiles page)).setHbm
        ((s.activateAll (pageTiles page)).hbm.zeroPage page)).dirtyCount page).scrubbed page).returnPage page)))

/-- Plate loads, flips, section switches, drains and the stall watch. A load starts for the plate that a step needs
unless its refusal stands, which ends that step with PLATE_DEFECT; a load that read every codeword and passes its
checks fills the back store, one that fails a check or meets an uncorrectable codeword is refused and recorded,
and ends the step it was for; both wait while a die of the partition is not reached by its link. The next row's
plate on the front store is switched to; on the back store it is flipped in and the section entered; the first
row's plate of a step that is to be delivered next is flipped in and its section entered before the delivery, the
step being the firing one from the start of the flip (log 183, DEDUCED). What a switch or flip takes is a free
value within its bound (log 74, DEDUCED). A drained section ends firing, closes its collectives and, after the
last row, drains the step. No progress for the stall limit aborts the step with FABRIC_STALL and a record of the
first stall (the site that stalled first, or the one kept when the step failed before; which site it names where
none is stalled is the model's choice, log 180, DESIGN CHOICE, and logs 78, DEDUCED, and 184, DESIGN CHOICE, say
what is kept). When a load may start, what its end and a drain do to the step, what the front and back registers
show, and that a down link holds a load are the model's readings (logs 75, 76, 182, DEDUCED). With nothing to
load, enter, flip, drain or watch nothing changes. -/
def Obligations.PlateLoadsAndFlips : Prop :=
  ∀ (s : State) (p ed n sec : Nat) (key : Nat × Nat) (l : Load) (e : Edition) (x : Step) (pl : Plate),
    let rd := s.reader e (e.imageBase l.plate)
    let q := s.readImage p e (2 ^ 30) (imageWords rd (e.imageBase l.plate) (diesOf (s.rect p)))
    let idle := (q.1.setPart p { q.1.part p with load := none }).showPlates p
    let carry := carryOf pl sec
    let ticks := Config.freeNat s.free % 32001
    let flipped := s.fresh.exchange p carry ticks
    let paid := s.chargeUp p
    let still := ((paid.sitesOf p).foldl (fun u i => if u.fv .siteStateWork [i] = 1 then u.work p i false else u) paid).collClose
      p (x.row.getD 0)
    let y := (still.part p).firing.getD x
    let ended := still.setPart p { still.part p with firing := some { y with
      drained := y.laterRows.isEmpty, ended := if y.laterRows.isEmpty then still.pnow p else y.ended } }
    let site := (if x.outcome.isSome = true then x.stuck else s.firstStall p).getD 0
    let cause := s.fv .siteStateCause [site]
    let limit := if pl.stall = 0 then 2 ^ 24 else pl.stall
    (s.loadWanted p = none → exec (.plateLoadStart p) s = .next s) ∧
    (s.loadWanted p = some (ed, n, key) →
      (s.refused p ed n = true → exec (.plateLoadStart p) s = .next (s.endLoadStep p key Status.plateDefect 3)) ∧
      (s.refused p ed n = false → s.diesUp p = false → exec (.plateLoadStart p) s = .next s) ∧
      (s.refused p ed n = false → s.diesUp p = true → exec (.plateLoadStart p) s =
        .next ((s.setPart p { s.part p with back := none, load := some ⟨ed, n, key, s.pnow p⟩ }).showPlates p))) ∧
    ((s.part p).load = none → exec (.plateLoadComplete p) s = .next s) ∧
    ((s.part p).load = some l → s.resident l.edition = some e → s.diesUp p = false →
      exec (.plateLoadComplete p) s = .next s) ∧
    ((s.part p).load = some l → s.resident l.edition = some e → s.diesUp p = true →
      (∀ a, q.2 = some a → exec (.plateLoadComplete p) s = .next ((idle.recordRefusal p l (4, 1, 0, 0)).endLoadStep p l.step
        Status.hbmUncorrectable (BitVec.ofNat 64 (0x80000000000 + a)))) ∧
      (∀ f, q.2 = none → loadFailure rd (e.imageBase l.plate) (s.loadEnv p l e) = some f →
        exec (.plateLoadComplete p) s =
          .next ((idle.recordRefusal p l f).endLoadStep p l.step Status.plateDefect 3)) ∧
      (q.2 = none → loadFailure rd (e.imageBase l.plate) (s.loadEnv p l e) = none →
        exec (.plateLoadComplete p) s = .next (q.1.fillBack p rd l))) ∧
    (s.entering p = none → exec (.sectionSwitch p) s = .next s) ∧
    (s.entering p = some (x, n, sec) →
      ((s.part p).front = some pl → holds (some pl) x.edition n = true →
        exec (.sectionSwitch p) s =
          .next ((s.dropUncarried p carry).fresh.enterSection p (Config.freeNat s.free % 1601))) ∧
      ((s.part p).front = some pl → holds (some pl) x.edition n = false → exec (.sectionSwitch p) s = .next s) ∧
      ((s.part p).back = some pl → holds (some pl) x.edition n = true → holds (s.part p).front x.edition n = false →
        exec (.plateFlip p) s = .next (flipped.enterSection p ticks)) ∧
      ((s.part p).back = some pl → (holds (some pl) x.edition n = false ∨ holds (s.part p).front x.edition n = true) →
        exec (.plateFlip p) s = .next s)) ∧
    (s.entering p = none → s.flipFirst p = none → exec (.plateFlip p) s = .next s) ∧
    (s.entering p = none → s.flipFirst p = some (x, n, sec) → (s.part p).back = some pl →
      (holds (some pl) x.edition n = true → holds (s.part p).front x.edition n = false →
        exec (.plateFlip p) s = .next
          (((s.fireFirst p carry x).fresh.exchange p carry ticks).enterSection p ticks)) ∧
      (holds (some pl) x.edition n = false ∨ holds (s.part p).front x.edition n = true →
        exec (.plateFlip p) s = .next s)) ∧
    ((s.part p).back = none → exec (.plateFlip p) s = .next s) ∧
    ((s.part p).firing = none → exec (.sectionDrain p) s = .next s ∧ exec (.stallWatchExpire p) s = .next s) ∧
    ((s.part p).firing = some x →
      (s.phase p = 1 → x.outcome = none → s.drained p = true →
        exec (.sectionDrain p) s = .next (ended.setPhase p (ended.betweenPhase p y))) ∧
      (s.phase p ≠ 1 ∨ x.outcome ≠ none ∨ s.drained p = false → exec (.sectionDrain p) s = .next s) ∧
      ((s.part p).front = some pl → s.watchArmed p = true → (s.part p).progress + limit ≤ s.pnow p →
        exec (.stallWatchExpire p) s =
          .next ((s.abortRun p Status.fabricStall (BitVec.ofNat 64 (site + cause * 2 ^ 16))).bbWriteAt (some p) 0x20 2
            (payloadOf [(0, 2, site), (2, 1, cause), (4, 2, x.entry.idx), (8, 8, (s.rv .siteStallTs [site]).toNat)])
              (whereSite site))) ∧
      ((s.part p).front = some pl → s.watchArmed p = false ∨ s.pnow p < (s.part p).progress + limit →
        exec (.stallWatchExpire p) s = .next s))

/-- Every stroke fires with its effect. For every state: where the entry that fires next at a compute unit names a
stroke of the row, the command answers a next state. Its matched operands leave the stores, the effect of the row,
spelled out here, takes place, and where every output has its credits the firing ends: the outputs enter the
switch unit, the firing is traced, counted and charged to the pacer; without them nothing but the unit's wait for
output credits changes. CLAIM, ARM and RETIRE put their request at the end of the queue of the dispenser word's
bank, and wait where that queue holds 16. Where no such firing stands next, nothing changes. The choices inside an
effect are the model's own marks: DESIGN CHOICE the order of ready entries (log 6), the merge's first rounding
(log 48), what a dispatch sends (log 49), MOVE to an accumulator row (log 172), RED with SRC_B = NONE (log 174), a
dispenser circuit (logs 54, DEDUCED, and 176), VRCP past the range (log 212); DEDUCED an end-of-stream marker (log
34), MOVE's operand (log 36), the bounded results (logs 46, 47), a wait in S0 (log 63), the candidate order (log
103). -/
def Obligations.StrokesFireWithTheirEffect : Prop :=
  let fires (c : Nat → Instr) (kind : Nat) (effect : State → Firing → State × Sends) : Prop :=
    ∀ (s : State) (site : Nat), (s.matched site kind = none → exec (c site) s = .next s) ∧
      ∀ f, s.matched site kind = some f →
        let r := effect (s.consumed f) f
        (s.roomFor site r.2 = true → exec (c site) s = .next (r.1.fired f r.2)) ∧
        (s.roomFor site r.2 = false → exec (c site) s = .next (s.outputFull site))
  let asks (c : Nat → Instr) (kind opKind : Nat) (x : Firing → Nat) : Prop :=
    ∀ (s : State) (site : Nat), (s.matched site kind = none → exec (c site) s = .next s) ∧
      ∀ f, s.matched site kind = some f →
        let t := s.consumed f
        let op : AtomOp := ⟨opKind, 16 * f.w.low 31 16, x f, 0, 1, f.site, f.w.low 34 33, 0, f.outTag,
          f.w.low 32 32 == 1, 0⟩
        (t.dispenserSite f = none → exec (c site) s = .next (t.fired f [])) ∧
        (∀ m, t.dispenserSite f = some m →
          let q := (t.site m).mu.atomQueue (f.w.low 31 16 / 4 % 16)
          (q.length < 16 → exec (c site) s = .next ((t.setMu m { (t.site m).mu with
            atoms := tabSet (fun _ => []) (t.site m).mu.atoms (f.w.low 31 16 / 4 % 16) (q ++ [op]) }).fired f [])) ∧
          (16 ≤ q.length → exec (c site) s = .next (s.outputFull site)))
  let cu (t : State) (f : Firing) : Cu := (t.site f.site).cu
  let lanesA (t : State) (f : Firing) : List Nat := t.srcLanes f f.w.srcA f.w.fmtA 0
  let bin (op : Nat → Nat → Nat) (t : State) (f : Firing) : State × Sends :=
    t.dstWrite f (laneWords (List.zipWith op (lanesA t f) (t.vecB f)))
  let un (op : Nat → Nat) (t : State) (f : Firing) : State × Sends := t.dstWrite f (laneWords ((lanesA t f).map op))
  let red (op : List Nat → Nat) (t : State) (f : Firing) : State × Sends :=
    let l := (t.redTerms f).map op
    t.dstWrite f (laneWords (l ++ List.replicate (64 - l.length) 0))
  let copy (t : State) (f : Firing) : State × Sends := t.dstWrite f (t.moved f f.w.srcA f.w.fmtA)
  let bank (f : Firing) : Nat := f.w.dst / 2 ^ 12 % 2
  (fires .nop 0 (fun t _ => (t, [])) ∧
  fires .move (64 * 0x01) copy ∧
  fires .matrix (64 * 0x10) (fun t f => (t.matrix f, [])) ∧
  fires .accZero (64 * 0x20) (fun t f => (t.setCu f.site ((if descKind f.w.dst = 5 then List.range 64
    else [f.w.dst % 64]).foldl (fun x i => x.setAccRow (bank f) i []) (cu t f)), [])) ∧
  fires .accRead (64 * 0x20 + 1) (fun t f =>
    t.dstWrite f (laneWords ((cu t f).accRow (f.w.srcA / 2 ^ 12 % 2) (f.w.srcA % 64)))) ∧
  fires .accAdd (64 * 0x20 + 2) (fun t f => t.dstWrite f (laneWords ((((cu t f).accRow (bank f) (f.w.dst % 64)).zip
    (lanesA t f)).map (fun e => toFp32 (numSum [ofFp32 (if f.w.zacc then 0 else e.1), ofFp32 e.2]))))) ∧
  fires .accLoad (64 * 0x20 + 3) (fun t f => t.dstWrite f (laneWords (lanesA t f)))) ∧
  (fires .vadd (vecKind 0) (bin (fun a b => toFp32 (numSum [ofFp32 a, ofFp32 b]))) ∧
  fires .vsub (vecKind 1) (bin (fun a b => toFp32 (numSum [ofFp32 a, numNeg (ofFp32 b)]))) ∧
  fires .vmul (vecKind 2) (bin (fun a b => toFp32 (numMul (ofFp32 a) (ofFp32 b)))) ∧
  fires .vfma (vecKind 3) (fun t f => t.dstWrite f (laneWords (List.zipWith
    (fun (ab : Nat × Nat) d => toFp32 (numSum [numMul (ofFp32 ab.1) (ofFp32 ab.2), ofFp32 d]))
    ((lanesA t f).zip (t.vecB f)) (t.oldDst f)))) ∧
  fires .vmin (vecKind 4) (bin (fun a b => toFp32 (numMin (ofFp32 a) (ofFp32 b)))) ∧
  fires .vmax (vecKind 5) (bin (fun a b => toFp32 (numMax (ofFp32 a) (ofFp32 b)))) ∧
  fires .vcmp (vecKind 6) (fun t f => bin (fun a b =>
    if cmpHolds (f.w.low 33 32) (ofFp32 a) (ofFp32 b) then 0x3F800000 else 0) t f) ∧
  fires .vsel (vecKind 7) (fun t f => bin (fun a b =>
    toFp32 (ofFp32 (if numZero (ofFp32 a) then f.w.low 31 0 else b))) t f) ∧
  fires .vexp2 (vecKind 8) (un (fun a => vexp2 8 (ofFp32 a) [a])) ∧
  fires .vlog2 (vecKind 9) (un vlog2) ∧
  fires .vrcp (vecKind 10) (un vrcp) ∧
  fires .vrsq (vecKind 11) (un vrsq) ∧
  fires .vabs (vecKind 12) (un (fun a => toFp32 (numAbs (ofFp32 a)))) ∧
  fires .vneg (vecKind 13) (un (fun a => toFp32 (numNeg (ofFp32 a)))) ∧
  fires .vmov (vecKind 14) (un (fun a => toFp32 (ofFp32 a)))) ∧
  (fires .redSum (64 * 0x40) (fun t f => red (fun l => boundedSum 0x40 f.w.redIndex l (l.map ofFp32)) t f) ∧
  fires .redMax (64 * 0x40 + 1) (red (foldLanes numMax)) ∧
  fires .redMin (64 * 0x40 + 2) (red (foldLanes numMin)) ∧
  fires .redSumsq (64 * 0x40 + 3) (fun t f => red (fun l =>
    let n := if f.w.low 29 29 = 1 then l.length - 1 else l.length
    boundedSum 0x43 f.w.redIndex l ((l.take n).map (fun x => numMul (ofFp32 x) (ofFp32 x)) ++ (l.drop n).map ofFp32)) t f) ∧
  fires .pack (64 * 0x50) (fun t f =>
    let r := (cu t f).rounds (f.w.low 39 38)
    let l := (lanesA t f).map ofFp32
    let l := if f.w.low 36 36 = 1 then l.map (fun x => numMul x (bf16.decode (f.w.low 15 0))) else l
    let zp : Int := if isInt f.w.fmtD then toSigned 8 (f.w.low 23 16) else 0
    (t.setCu f.site { (cu t f) with lfsr := r.2 }).dstWrite f (encodeOperand f.w.fmtD r.1 (f.w.low 37 37 == 1) zp l))) ∧
  (fires .steer (64 * 0x60) (fun t f =>
    let token := ((f.op (f.w.srcA / 2 ^ 11 % 4)).words.getD 0 0).toNat
    let d := t.srcWords f f.w.srcB f.w.fmtB
    (t, (f.w.routes token).map (fun p => (p, outOperand f.outTag (fitWords (opXfers d.2) d.1))))) ∧
  fires .merge (64 * 0x61) copy ∧
  fires .tagAction (64 * 0x70) copy ∧
  fires .tagSet (64 * 0x70 + 1) copy ∧
  fires .tagData (64 * 0x70 + 2) copy ∧
  fires .send (64 * 0x80) copy ∧
  fires .sendEosAfter (64 * 0x80 + 1) (fun t f => ((copy t f).1, (copy t f).2 ++ (dstPorts f.w.dst).map (fun p =>
    (p, marker (mkTag (tagCtx f.outTag) (tagIter f.outTag + 1)))))) ∧
  fires .sendEosOnly (64 * 0x80 + 2) (fun t f => (t, (dstPorts f.w.dst).map (fun p => (p, marker f.outTag))))) ∧
  (fires .syncWait (64 * 0x90) (fun t f => match f.w.syncMu f.site with
    | none => (t, [])
    | some m =>
      let r := t.semWait m (f.w.low 35 30) (opposite (f.w.low 37 36)) (f.w.low 29 24 + 1)
      (if r.2 then r.1 else r.1.setCu f.site { (cu r.1 f) with waiting := some (m, f.w.low 35 30) }, [])) ∧
  fires .syncSignal (64 * 0x90 + 1) (fun t f => (match f.w.syncMu f.site with
    | none => t
    | some m => t.semSignal f.part m (f.w.low 35 30) (f.w.low 29 24 + 1), [])) ∧
  asks .claim (64 * 0xA0) 8 (fun _ => 0) ∧
  asks .arm (64 * 0xA0 + 1) 9 (fun f => ((f.op (f.w.srcA / 2 ^ 11 % 4)).words.getD 0 0).toNat % 2 ^ 33) ∧
  asks .retire (64 * 0xA1) 10 (fun _ => 0) ∧
  fires .routeSelect (64 * 0xB0) (fun t f =>
    let th := bf16.decode (f.w.low 15 0)
    let new := (lanesA t f).zipIdx.filterMap (fun e =>
      if ofFp32 e.1 != .nan && !numLt (ofFp32 e.1) th && th != .nan then some (64 * f.w.low 37 35 + e.2, e.1) else none)
    let old := if descKind f.w.srcB = 1 then (listEntries (f.op (f.w.srcB / 2 ^ 11 % 4)).words).filter
      (fun e => e.1 != 0xFFFFFFFF && ofFp32 e.2 != .nan) else []
    let l := ((old ++ new).foldl (fun a x => candInsert x a) []).take (f.w.low 34 31 + 1)
    t.dstWrite f (listWords l 0xFF800000)) ∧
  fires .routeDispatch (64 * 0xB0 + 1) (fun t f =>
    let word := fitWords 1 (f.op (f.w.srcB / 2 ^ 11 % 4)).words
    let d := t.srcWords f f.w.srcA f.w.fmtA
    let chunk := fitWords (opXfers d.2) d.1
    let out : Sends := (dstPorts f.w.dst).flatMap (fun p => [(p, outOperand f.outTag word), (p, outOperand f.outTag chunk)])
    (if t.roomFor f.site out then t.sendDispatch f.part (word.getD 0 0).toNat chunk else t, out)) ∧
  fires .append (64 * 0xC0) (fun t f =>
    let w := f.w
    let slot := tagIter f.outTag % 16384
    let hdr := slot + w.low 38 31 * 2 ^ 16 + (w.low 30 24 + 128 * w.low 39 39) * 2 ^ 24 + w.low 23 16 * 2 ^ 32
    let kept := tabGet (fun _ => 0) (cu t f).kvFmts slot
    let fmt := if kept = 0 then 1 else kept
    let scale := tabGet (fun _ => 0) (cu t f).kvScales (2 * w.low 38 31 + w.low 39 39)
    let l := (lanesA t f).map ofFp32
    let l := if fmt = 3 ∨ fmt = 4 then l.map (fun v => match v with
      | .fin n m e => .fin n m (e + 127 - Int.ofNat scale)
      | x => x) else l
    (t, (dstPorts w.dst).map (fun p => (p, outOperand f.outTag
      (BitVec.ofNat 512 hdr :: encodeOperand fmt (List.replicate 64 rne) true 0 l)))))) ∧
  (fires .scoreRmax (64 * 0xD0) (fun t f =>
    let b := if descKind f.w.srcB = 0 then [] else [(t.mlOf f f.w.srcB).1]
    t.dstWrite f (mlWords (foldLanes numMax (b ++ lanesA t f)) 0)) ∧
  fires .scoreExpd (64 * 0xD0 + 1) (fun t f =>
    let b := (t.mlOf f f.w.srcB).1
    un (fun a => vexp2 12 (numSum [ofFp32 a, numNeg (ofFp32 b)]) [a, b]) t f) ∧
  fires .scoreRsum (64 * 0xD0 + 2) (fun t f =>
    let l := if descKind f.w.srcB = 0 then 0 else (t.mlOf f f.w.srcB).2
    t.dstWrite f (mlWords 0 (boundedSum 0xD2 7 (l :: lanesA t f) ((l :: lanesA t f).map ofFp32)))) ∧
  fires .scoreMerge (64 * 0xD0 + 3) (fun t f =>
    let pair (port : Nat) : Nat × Nat :=
      let x := ((f.op port).words.getD 0 0).toNat
      (x % 2 ^ 32, x / 2 ^ 32 % 2 ^ 32)
    let a := pair (f.w.low 36 35)
    let b := pair (f.w.low 34 33)
    let m := foldLanes numMax [a.1, b.1]
    let empty := ofFp32 a.1 == .inf true && ofFp32 b.1 == .inf true
    let sa := if empty then 0 else mergeScale a.1 b.1 m
    let sb := if empty then 0 else mergeScale b.1 a.1 m
    let l := if empty then 0 else mergeSum a.2 sa b.2 sb
    let o := List.zipWith (fun x y => if empty then 0 else mergeSum x sa y sb) (lanesA t f)
      (t.srcLanes f f.w.srcB f.w.fmtB 0)
    let r := t.dstWrite f (laneWords o)
    (r.1, r.2 ++ [(f.w.low 32 31, outOperand f.outTag (mlWords m l))])))

/-- Exact results are kept exactly, and addition and multiplication commute. For every FP32 code that is not a NaN,
rounding the value it decodes to gives the code back, so VMOV and ACC LOAD keep it and VNEG twice is the identity;
the rounded sum and the rounded product of two codes do not depend on their order. -/
def Obligations.RoundingIsExactOnItsOwnValues : Prop :=
  (∀ a, a < 2 ^ 32 → ofFp32 a ≠ .nan → toFp32 (ofFp32 a) = a ∧
      toFp32 (numNeg (ofFp32 (toFp32 (numNeg (ofFp32 a))))) = a) ∧
    ∀ a b, toFp32 (numSum [ofFp32 a, ofFp32 b]) = toFp32 (numSum [ofFp32 b, ofFp32 a]) ∧
      toFp32 (numMul (ofFp32 a) (ofFp32 b)) = toFp32 (numMul (ofFp32 b) (ofFp32 a))

/-- Links, credits, steering and merging entries, arrivals and end-of-stream firings. A link sends the transfer of the
first slot in rotation that has one waiting and a credit: the credit is spent, the rotation moves on and the
transfer enters the neighbour or the local output FIFO; with no such slot, or on a closed link, nothing changes. A
credit goes back to the sender for a place owed. An operand enters the match store its slot feeds where an entry
is free, and otherwise stays. An entry whose ports hold markers fires in end-of-stream form where the outputs have
room: its markers go, what waits of its context goes with them, it is ended, sends its marker and spends a token;
a MERGE counts its input and at the last one sends the tag action on the highest input iteration, and a CLAIM
delivers the marker at its RESP port. A steering entry takes a control token, a data operand or a marker and
settles; a data operand in passage holds the input. A merging entry forwards an operand without interleaving, by
arrival or by tag from its reserve, keeps an input's end, and sends the marker with the highest iteration once
every input has ended. At a site that works for no partition nothing of this changes anything, and the entries
only settle. -/
def Obligations.SwitchUnitMovesTransfers : Prop :=
  ∀ (s : State) (p site port slot n i k m input : Nat) (src : SlotSrc) (f : Xfer) (o : Operand) (rest : List Xfer)
      (mode tag arr : Nat),
    let x := s.site site
    let turn := tabGet (fun _ => 0) x.su.turn port
    let pick := ((List.range 8).filterMap (fun j => (x.waiting (slotKey port ((turn + j) % 8))).map (fun w =>
      (slotKey port ((turn + j) % 8), w)))).find? (fun r => decide (x.su.credit r.1 > 0))
    let away := match src with
      | .input j => x.takeBranch j k
      | .entry j => x.su.setEntry j { x.su.entry j with outq := (x.su.entry j).outq.filter (fun q => q.1 != k) }
    let sent := (s.setSu site { away.setCredit k (away.credit k - 1) with
      turn := tabSet (fun _ => 0) away.turn port ((k % 8 + 1) % 8) }).bump .siteSuXfer [site, port] 1
    let left := match src with
      | .input _ => sent
      | .entry j => sent.steerSettle site j
    let key := slotKey port (slot % 8)
    let owed := tabGet (fun _ => 0) x.su.owed key
    let paid := s.setSu site { x.su with owed := tabSet (fun _ => 0) x.su.owed key (owed - 1) }
    let give (j q : Nat) : State := paid.setSu j ((paid.site j).su.setCredit q ((paid.site j).su.credit q + 1))
    let pumped := (List.range 4).foldl (fun v j => match v.hatch site j with
      | some h => if h.d.mode = 0 then (v.sendReady h).endPass h else if h.d.mode = 2 then v.queueSend h else v
      | none => v) (give site (slotKey 5 (slot % 8)))
    let e := tabGet (fun _ => 0) x.front.trig i
    let w : Stroke := (tabGet (fun _ => 0) x.front.strokes (trigStroke e)).toNat
    let issue := tabGet (fun _ => 0) x.cu.issue i
    let cu := { x.cu with
      stores := (trigPorts e).foldl (fun l q =>
        l.set q (removeFirst (fun y => y.eos && tagCtx y.tag == trigCtx e) (l.getD q []))) x.cu.stores
      ended := if x.cu.ended.contains i then x.cu.ended else x.cu.ended ++ [i] }
    let g := x.cu.merge.getD (w.low 39 38) (0, 0)
    let last : Bool := decide (g.1 + 1 > w.low 37 36)
    let high := w.outTag (mkTag (tagCtx tag) (max g.2 (tagIter tag))) issue
    let joined := { cu with merge := cu.merge.set (w.low 39 38) (if last then (0, 0) else (g.1 + 1, max g.2 (tagIter
      tag))) }
    let markers (l : List Nat) (t : Nat) : Sends := l.map (fun q => (q, marker t))
    let fires (c : Cu) (out : Sends) (t : Nat) (resp : Option Nat) : State :=
      let v := (s.setCu site c).flushPorts p site (trigCtx e) w (trigPorts e)
      let v := match resp with
        | some q => v.deliverTo site q (marker t)
        | none => v
      let v := ((v.sendOut site out).firingTrace ⟨site, p, i, w, tag, t, []⟩ true).progress p site
      v.setPart p { v.part p with tokens := (v.part p).tokens - 1 }
    let se := tabGet (fun _ => 0) x.front.steer n
    let calm := s.steerSettle site n
    let side := input % 2
    let arrived := x.su.dataArrives se n k f
    let y := x.su.entry n
    let mine (t : Nat) : Bool := tagCtx t == tagCtx f.tag
    let lost := y.items.filter (fun j => j.input != side && mine j.x.tag)
    let closing := y.ends ++ [(side, f.tag)]
    let both := closing.any (fun j => j.1 == 0 && mine j.2) && closing.any (fun j => j.1 == 1 && mine j.2)
    let dataTag := match closing.find? (fun j => j.1 == 1 && mine j.2) with
      | some j => j.2
      | none => f.tag
    let after := s.setSu site ((x.su.popHead k).setEntry n { y with
      items := y.items.filter (fun j => !(j.input != side && mine j.x.tag))
      passing := if decide (side = 0) && lost.any (fun j => !j.x.last) then some (1, 0) else y.passing
      ends := if both then closing.filter (fun j => tagCtx j.2 != tagCtx f.tag) else closing
      pairs := if both then y.pairs ++ [(15, ⟨dataTag, true, true, 0, 0⟩)] else y.pairs })
    let mu := if mode = 1 then (calm.site site).su else (calm.site site).su.takeHeads se n
    let stored := calm.setSu site mu
    let taken := mu.takeHead se n mode i
    let ends := (taken.entry n).ends ++ [(i, f.tag)]
    let all := (mergeInputs se).all (fun j => ends.any (fun d => d.1 == j.1))
    (s.worksFor site = none →
      exec (.slotTransfer site port) s = .next s ∧ exec (.operandArrival site slot) s = .next s ∧
      exec (.steerEntryArrival site n input) s = .next s ∧ exec (.steerEntryEos site n input) s = .next s ∧
      exec (.mergeEntryForward site n) s = .next calm) ∧
    (s.worksFor site = some p →
      (4 < port ∨ s.portOpen p site port = false ∨ pick = none → exec (.slotTransfer site port) s = .next s) ∧
      (port ≤ 4 → s.portOpen p site port = true → pick = some (k, src, f) →
        (port = 4 → exec (.slotTransfer site port) s = .next (left.setSu site ((left.site site).su.setOutFifo (k % 8)
          ((left.site site).su.outFifo (k % 8) ++ [f])))) ∧
        (port < 4 → neighbour site port = some m → exec (.slotTransfer site port) s =
          .next (left.setSu m ((left.site m).su.push (slotKey (opposite port) (k % 8)) [f])))) ∧
      (isMu site = true ∨ headOperand (x.su.outFifo (slot % 8)) = none ∨
        s.matchFree site (x.front.cuPort (slot % 8)) = 0 → exec (.operandArrival site slot) s = .next s) ∧
      (isMu site = false → headOperand (x.su.outFifo (slot % 8)) = some (o, rest) →
        0 < s.matchFree site (x.front.cuPort (slot % 8)) → exec (.operandArrival site slot) s =
          .next ((s.setSu site (x.su.take (slot % 8) rest)).deliverTo site (x.front.cuPort (slot % 8)) o)) ∧
      ((∀ d, steerType se ≠ some 0 ∨ steerIn se side ≠ some d ∨ x.su.head d = none) →
        exec (.steerEntryArrival site n input) s = .next s ∧ exec (.steerEntryEos site n input) s = .next s) ∧
      (steerType se = some 0 → steerIn se side = some k → x.su.head k = some (arr, f) →
        (f.eos = true → exec (.steerEntryArrival site n input) s = .next s ∧ exec (.steerEntryEos site n input) s =
          .next ((if side = 0 then lost.foldl (fun v _ => v.orphan p site) after else after).steerSettle site n)) ∧
        (f.eos = false → exec (.steerEntryEos site n input) s = .next calm ∧
          (side = 0 → exec (.steerEntryArrival site n input) s =
            .next ((s.setSu site (x.su.token se n k f)).steerSettle site n)) ∧
          (side = 1 → y.held = true → exec (.steerEntryArrival site n input) s = .next calm) ∧
          (side = 1 → y.held = false → exec (.steerEntryArrival site n input) s =
            .next (let t := (s.setSu site arrived.1).steerSettle site n; if arrived.2 then t.orphan p site else t)))) ∧
      (steerType se = none ∨ steerType se = some 0 → exec (.mergeEntryForward site n) s = .next calm) ∧
      (steerType se = some mode → mode ≠ 0 →
        ((mu.entry n).passing.isSome = true ∨ (mu.entry n).pairs ≠ [] ∨ mu.mergeNext se n mode = none →
          exec (.mergeEntryForward site n) s = .next stored) ∧
        ((mu.entry n).passing = none → (mu.entry n).pairs = [] → mu.mergeNext se n mode = some (i, arr, f) →
          (f.eos = true → exec (.mergeEntryForward site n) s =
            .next ((stored.setSu site (taken.setEntry n { taken.entry n with
              ends := if all then [] else ends
              pairs := if all then [(1, mergeMarker ends)] else [] })).steerSettle site n)) ∧
          (f.eos = false → mode = 1 → exec (.mergeEntryForward site n) s =
            .next ((stored.setSu site (mu.setEntry n { mu.entry n with passing := some (i, 1) })).steerSettle site n)) ∧
          (f.eos = false → mode ≠ 1 → exec (.mergeEntryForward site n) s =
            .next ((stored.setSu site (taken.setEntry n { taken.entry n with
              pairs := [(1 + 16 * (i + 1), f)] })).steerSettle site n))))) ∧
    (owed = 0 ∨ 5 < port → exec (.creditReturn site port slot) s = .next s) ∧
    (owed > 0 →
      (port < 4 → neighbour site port = none → exec (.creditReturn site port slot) s = .next paid) ∧
      (port < 4 → neighbour site port = some m →
        exec (.creditReturn site port slot) s = .next (give m (slotKey (opposite port) (slot % 8)))) ∧
      (port = 4 → exec (.creditReturn site port slot) s = .next (match pumped.worksFor site with
        | some q => pumped.dispPump q
        | none => pumped)) ∧
      (port = 5 → exec (.creditReturn site port slot) s = .next (give site (slotKey 4 (slot % 8))))) ∧
    (s.mayFire site = none ∨ (∀ a b, x.cu.choose x.front ≠ some (a, true, b)) →
      exec (.endOfStreamFiring site) s = .next s) ∧
    (s.mayFire site = some p → x.cu.choose x.front = some (i, true, tag) →
      (w.opcode = 0x61 →
        let out := if last then markers (dstPorts w.dst) high else []
        exec (.endOfStreamFiring site) s = .next (if s.roomFor site out then fires joined out high none
          else s.outputFull site)) ∧
      (w.opcode = 0xA0 → exec (.endOfStreamFiring site) s = .next (
        if s.matchFree site (w.low 34 33) = 0 then s.outputFull site
        else if s.roomFor site (markers w.eosPorts (w.outTag tag issue)) then
          fires cu (markers w.eosPorts (w.outTag tag issue)) (w.outTag tag issue) (some (w.low 34 33))
        else s.outputFull site)) ∧
      (w.opcode ≠ 0x61 → w.opcode ≠ 0xA0 → exec (.endOfStreamFiring site) s = .next (
        if s.roomFor site (markers w.eosPorts (w.outTag tag issue)) then
          fires cu (markers w.eosPorts (w.outTag tag issue)) (w.outTag tag issue) none
        else s.outputFull site)))

/-- Hatch engines, bank grants, semaphores, dispensers and appends. Each command of a memory unit on every form. A
READ stream first sends what has come; then it ends the pass after the last operand, queues a semaphore wait, or
issues the read of its next operand: from banks, HBM, a window, or a KV page, where the output or the buffer has
room, a margin without reading. An HBM answer is read as memory holds it and sent on, ends the step when
uncorrectable, and waits while a tile is out or a link down. A bank grants the next requester in rotation,
performs its access (a write before the reads of its word, an atomic operation of its queue) and serves every read
of the word. A WRITE stream stores the operand at its position, ends at the marker, and discards what lies
outside; a write counts when HBM takes it. A QUEUE passes a transfer on, diverts it into its ring or spills it, in
order. Re-arm words and host writes start a pass or wait. Semaphores grant the head of the queue; dispenser
operations run when the grant falls on them; the append unit writes a page, discards, or closes at a marker. Where
none of this applies nothing changes. Marks: DESIGN CHOICE logs 200 (mask view of an excluded record), 201 (a nest
outside its SPACE), 203 (an operand beyond the pass of a persistent stream), 210 (where the rotation starts), 98,
184; DEDUCED logs 17, 30, 51, 53, 56 to 63, 65, 69, 88, 100, 101, 177 to 179, 194, 202. -/
def Obligations.MemoryUnitStreamsAndGrants : Prop :=
  ∀ (s : State) (p site e bank sem who n c : Nat) (q : List (Nat × Nat)) (h g : Hatch)
      (o : Operand) (rest : List Xfer) (f : Xfer) (r : ReadReq) (pw : PostedWrite) (w : AppendWrite) (ap : List AppendWrite)
      (x : Step) (ed : Edition) (rw : Rec) (off pg miss : Nat) (word : Word),
    let m := (s.site site).mu
    let g0 := s.engine site e
    let granted := s.setMu site { m.setSem (sem % 64) (m.sem (sem % 64) - n) with waiters := tabSet (fun _ => []) m.waiters (sem % 64) q }
    let eng := granted.engine site (who - 4)
    let b := bank % 16
    let actor := s.bankActor site b who
    let turn := s.setMu site { m with last := tabSet (fun _ => 9) m.last b who }
    let granting (t : State) : State := ((t.serveWord p site actor.2).bankSettle site).strictWaits p site b who
    let ready := s.sendReady h
    let y := ready.engine site e
    let sync := ready.syncWait h (y.before + y.pos)
    let waited := sync.1
    let z := waited.engine site e
    let ix := nestIx h.cs z.pos
    let addr := nestAddr h.d z.base ix
    let k := y.before + y.pos
    let edge := wholeMargin h.d h.shape ix
    let buffered (q : ReadReq) : State := ((waited.queueRead h q).sendReady h).endPass h
    let ws := (List.range h.d.len).map (fun j => (addr + j, (none : Option Line)))
    let asked := waited.setEngine site e { z with pos := z.pos + 1, bank := some ⟨false, k, ⟨streamTag h.d k, false, 0, []⟩, ws⟩ }
    let blank : Operand := ⟨streamTag h.d k, false, 0, marginWords h.d.fmt h.d.mkind h.d.mconst h.d.mtx⟩
    let run := max 1 (mergeRun h z addr 64 0)
    let isOut : ReadReq → Bool := fun q => q.data.isNone && q.txn.isNone
    let got := s.readPart h.part site 0 (r.len / 64) r.addr
    let slot := h.d.port - 4
    let more := s.remoteMore h
    let ew := more.engine site e
    let taken (t : State) : State := (t.setSu site ((t.site site).su.take slot rest)).progressBy h.part site (xfersOf o).length
    let pos := writePos ew.low (tagIter o.tag)
    let total := passTotal h.cs
    let may := more.syncWait h pos
    let place := nestAddr h.d ew.base (nestIx h.cs (pos - ew.before))
    let left := g0.posted.erase pw
    let posted := ((s.setEngine site e { g0 with posted := left }).writePart h.part site pw.addr
      (leBytes (64 * pw.data.length) (wordsNat pw.data))).1
    let sent := s.queueSend h
    let v := sent.engine site e
    let qslot := g.d.port - 4
    let moved := (sent.setSu site ((sent.site site).su.take qslot rest)).progress g.part site
    let v1 := { moved.engine site e with ended := v.ended || f.eos }
    let at1 := g.d.base + v.pos % g.d.counts.getD 0 1
    let rung := moved.setEngine site e { v1 with
      bank := some ⟨true, bit01 f.last, ⟨f.tag, f.eos, f.mark, []⟩, [(at1, some f.data)]⟩, pos := v.pos + 1 }
    let armed := entryArm g0.entry && h.d.persist
    let stood := (headOperand ((s.site site).su.outFifo (entryArmSlot g0.entry))).isSome && !g0.armQ.contains none
    let opens := (((s.setSu site ((s.site site).su.take 7 rest)).muWake p site).progressBy p site (xfersOf o).length)
    let unit := opens.setMu site { (opens.site site).mu with appending := !o.eos }
    let hd := (o.words.getD 0 0).toNat
    let layer := hd / 2 ^ 16 % 256
    let head := hd / 2 ^ 24 % 128
    let kv := hd / 2 ^ 31 % 2
    let chunk := hd / 2 ^ 32 % 256
    let bad := (unit.bump .serveAppendDefects [p] 1).orphan p site
    let key := appendKey (hd % 2 ^ 14) layer kv (head * ed.chunks + chunk)
    let hdr := tabGet (fun _ => PageHdr.reset) (unit.part p).pages pg
    let written := unit.setPart p { unit.part p with
      pages := tabSet (fun _ => PageHdr.reset) (unit.part p).pages pg { hdr with age := unit.pnow p / 2 ^ 24 % 2 ^ 16 },
      firing := some { x with appended := x.appended ++ [key] } }
    (s.worksFor site = none → exec (.semaphoreGrant site sem) s = .next s ∧ exec (.appendArrival site) s = .next s ∧
      exec (.hbmWriteAcknowledge site 4) s = .next s) ∧
    (s.worksFor site = some p →
      (m.queue (sem % 64) = [] → exec (.semaphoreGrant site sem) s = .next s) ∧
      (m.queue (sem % 64) = (who, n) :: q →
        (m.sem (sem % 64) < n → exec (.semaphoreGrant site sem) s = .next s) ∧
        (n ≤ m.sem (sem % 64) →
          (who < 4 → neighbour site who = none → exec (.semaphoreGrant site sem) s = .next granted) ∧
          (who < 4 → neighbour site who = some c → exec (.semaphoreGrant site sem) s =
            .next (granted.setCu c { (granted.site c).cu with waiting := none })) ∧
          (4 ≤ who → exec (.semaphoreGrant site sem) s = .next (granted.setEngine site (who - 4) { eng with
            waited := eng.waited + 1, waiting := false })))) ∧
      (m.appends = [] → exec (.hbmWriteAcknowledge site 4) s = .next s) ∧
      (m.appends = w :: ap → exec (.hbmWriteAcknowledge site 4) s =
        .next (if s.linked p site 1 w.addr then s.appendLanded p site w ap else s)) ∧
      (headOperand ((s.site site).su.outFifo 7) = none ∨ isMu site = false ∨ s.isAppendSite p site = false ∨ m.appends ≠ [] →
        exec (.appendArrival site) s = .next s) ∧
      (headOperand ((s.site site).su.outFifo 7) = some (o, rest) → isMu site = true → s.isAppendSite p site = true →
        m.appends = [] →
        (o.eos = true → exec (.appendArrival site) s = .next (unit.muRest p site)) ∧
        (o.eos = false → (unit.part p).firing = none → exec (.appendArrival site) s = .next unit) ∧
        (o.eos = false → (unit.part p).firing = some x →
          (unit.resident x.edition = none → exec (.appendArrival site) s = .next unit) ∧
          (unit.resident x.edition = some ed →
            (recOf x (hd % 2 ^ 14) = none → exec (.appendArrival site) s = .next bad) ∧
            (recOf x (hd % 2 ^ 14) = some (rw, off) →
              (rw.excluded = true → exec (.appendArrival site) s = .next (unit.bump .serveAppendDiscards [p] 1)) ∧
              (rw.excluded = false → layer ≥ ed.layers ∨ head ≥ ed.heads ∨ chunk ≥ ed.chunks →
                exec (.appendArrival site) s = .next bad) ∧
              (rw.excluded = false → layer < ed.layers → head < ed.heads → chunk < ed.chunks →
                (x.appended.contains key = true → exec (.appendArrival site) s = .next bad) ∧
                (x.appended.contains key = false → (unit.framePages p rw.seq (rw.pos + off))[layer]? = none →
                  exec (.appendArrival site) s = .next (unit.bump .serveAppendDiscards [p] 1)) ∧
                (x.appended.contains key = false → (unit.framePages p rw.seq (rw.pos + off))[layer]? = some pg →
                  exec (.appendArrival site) s = .next (written.setMu site { (written.site site).mu with
                    appends := unit.appendWrites p pg hdr.fmt kv (((rw.pos + off) % 32 * ed.heads + head) * ed.chunks + chunk)
                      ed.kvSlots key (o.words.drop 1) })))))))) ∧
    (s.ownerOf site = none ∨ s.bankOrder site b = [] → exec (.bankGrant site bank) s = .next s) ∧
    (s.ownerOf site = some p → (s.bankOrder site b).head? = some who →
      (actor.1 = 8 → exec (.bankGrant site bank) s =
        .next (granting ((turn.nextAtom site b (fun _ => true)).pumpHeld site))) ∧
      (actor.1 ≠ 8 → exec (.bankGrant site bank) s = .next (granting (
        match (turn.site site).mu.reqs.find? (fun k => k.who == actor.1 && k.word == actor.2 && k.wdata.isSome) with
        | some k => turn.bankWrite p site k
        | none => turn)))) ∧
    (let act (k : Nat) : Host.Outcome State Fault Refusal := .next (match s.ownerOf site, m.atomQueue b with
      | some a, j :: _ => if (s.bankOrder site b).head? = some 8 ∧ j.kind = k then s.bankGrant a site b 8 else s
      | _, _ => s)
     exec (.dispenserClaim site bank) s = act 8 ∧ exec (.dispenserArm site bank) s = act 9 ∧
       exec (.dispenserRetire site bank) s = act 10) ∧
    (s.missed (Rg.siteMuArm.at [site, e]) = some miss → exec (.muArmWrite site e word) s =
      .next (s.noteMiss (Rg.siteMuArm.at [site, e]) miss)) ∧
    (s.hatch site e = none → exec (.rearmWord site e) s = .next s ∧ exec (.hatchReadOperand site e) s = .next s ∧
      exec (.hbmReadResponse site e) s = .next s ∧ exec (.writeStreamOperand site e) s = .next s ∧
      exec (.queueTransfer site e) s = .next s ∧ (e ≠ 4 → exec (.hbmWriteAcknowledge site e) s = .next s) ∧
      (s.missed (Rg.siteMuArm.at [site, e]) = none → exec (.muArmWrite site e word) s = .next s)) ∧
    (s.hatch site e = some h →
      (s.missed (Rg.siteMuArm.at [site, e]) = none → exec (.muArmWrite site e word) s = .next (
        if armed = false then s
        else if g0.arm = none then s.rearm h (some (word.toNat % 2 ^ 38))
        else s.setEngine site e { g0 with
          armQ := g0.armQ ++ (if stood then [none] else []) ++ [some (word.toNat % 2 ^ 38)] })) ∧
      (headOperand ((s.site site).su.outFifo (entryArmSlot g0.entry)) = none ∨ armed = false ∨ g0.arm ≠ none →
        exec (.rearmWord site e) s = .next s) ∧
      (headOperand ((s.site site).su.outFifo (entryArmSlot g0.entry)) = some (o, rest) → armed = true → g0.arm = none →
        exec (.rearmWord site e) s = .next (((s.setSu site ((s.site site).su.take (entryArmSlot g0.entry) rest)).progressBy h.part site (xfersOf o).length).rearm h
          (if o.eos then none else some ((o.words.getD 0 0).toNat % 2 ^ 38)))) ∧
      (h.d.mode ≠ 0 → exec (.hatchReadOperand site e) s = .next s) ∧
      (h.d.mode = 0 →
        (y.pos ≥ total → exec (.hatchReadOperand site e) s = .next (ready.endPass h)) ∧
        (y.pos < total → sync.2 = false → exec (.hatchReadOperand site e) s = .next waited) ∧
        (y.pos < total → sync.2 = true →
          (h.d.space = 0 → z.bank ≠ none ∨ waited.roomAt h h.d.len = false →
            exec (.hatchReadOperand site e) s = .next waited) ∧
          (h.d.space = 0 → z.bank = none → waited.roomAt h h.d.len = true → exec (.hatchReadOperand site e) s =
            .next (if edge then (((waited.setEngine site e { z with pos := z.pos + 1 }).deliverOp h blank).afterSend h).endPass h
              else asked.setMu site { (asked.site site).mu with reqs := (asked.site site).mu.reqs ++ bankReqs h ws })) ∧
          (h.d.space = 3 → exec (.hatchReadOperand site e) s = .next (match waited.kvPlace h.part addr with
            | .margin mark => buffered (marginOp h k mark)
            | .mask l => buffered (if edge then marginOp h k 16 else readyOp k 4 16 (boundWords h 16 l))
            | .wait fmt => if edge then buffered (marginOp h k (kvMark fmt)) else waited
            | .page fmt _ _ _ _ =>
              if edge then buffered (marginOp h k (kvMark fmt))
              else if mayRequest z (64 * (pageWords fmt + bit01 (decide (3 ≤ fmt)))) then
                waited.queueRead h ⟨addr, 64 * (pageWords fmt + bit01 (decide (3 ≤ fmt))), none,
                  [(k, 64 * (pageWords fmt + bit01 (decide (3 ≤ fmt))) / 64, kvMark fmt)], none⟩
              else waited)) ∧
          (h.d.space ≠ 0 → h.d.space ≠ 3 → exec (.hatchReadOperand site e) s = .next (
            if edge then buffered (marginOp h k 0)
            else if mayRequest z (64 * h.d.len) = false then waited
            else if h.d.space = 2 then waited.remoteRead h k addr run
            else waited.queueRead h ⟨addr * 64, 64 * (run * h.d.len), none, runOps h k run, none⟩)))) ∧
      (h.d.mode = 2 → exec (.hbmReadResponse site e) s = .next (s.spillBack h)) ∧
      (h.d.mode = 1 → exec (.hbmReadResponse site e) s = .next s) ∧
      (h.d.mode ≠ 1 → h.d.mode ≠ 2 →
        (g0.reads.find? isOut = none → exec (.hbmReadResponse site e) s = .next ((s.sendReady h).endPass h)) ∧
        (g0.reads.find? isOut = some r →
          (h.d.space = 3 → exec (.hbmReadResponse site e) s = .next (s.kvBack h isOut r.addr)) ∧
          (∀ l, h.d.space ≠ 3 → s.place h.part r.addr = .coll l → exec (.hbmReadResponse site e) s =
            .next (match (List.range (r.len / 64)).mapM (fun i => s.collRead h.part (l + 64 * i)) with
              | some d => s.readBack h isOut (r.len / 64) 0 d
              | none => s)) ∧
          (h.d.space ≠ 3 → (∀ l, s.place h.part r.addr ≠ .coll l) → exec (.hbmReadResponse site e) s = .next (
            if s.reachable h.part site (r.len / 64) r.addr = false then s
            else match got.2.ue with
              | some a => got.1.ueAbort h.part a
              | none => got.1.readBack h isOut (r.len / 64) 0 (bytesWords (r.len / 64) got.2.data))))) ∧
      (headOperand ((more.site site).su.outFifo slot) = none ∨ h.d.mode ≠ 1 ∨ ew.bank ≠ none ∨ ew.ended = true →
        exec (.writeStreamOperand site e) s = .next more) ∧
      (headOperand ((more.site site).su.outFifo slot) = some (o, rest) → h.d.mode = 1 → ew.bank = none → ew.ended = false →
        (tagCtx o.tag ≠ h.d.context → exec (.writeStreamOperand site e) s = .next ((taken more).orphan h.part site)) ∧
        (tagCtx o.tag = h.d.context → o.eos = true → exec (.writeStreamOperand site e) s =
          .next (((taken more).setEngine site e { ew with ended := true }).endWrite h)) ∧
        (tagCtx o.tag = h.d.context → o.eos = false →
          (pos ≥ ew.before + total → exec (.writeStreamOperand site e) s =
            .next (if h.d.persist && decide (0 < total) then more else (taken more).orphan h.part site)) ∧
          (pos < ew.before + total → may.2 = false → exec (.writeStreamOperand site e) s = .next may.1) ∧
          (pos < ew.before + total → may.2 = true → exec (.writeStreamOperand site e) s =
            .next (match may.1.storeOp h pos place (fitWords h.d.len o.words) with
              | none => may.1
              | some u => if o.words.length = h.d.len then taken u
                else ((taken u).trace h.part site 1 0x18 (slot % 4 * 2 ^ 14 +
                  bit01 (decide (h.d.len < o.words.length)) * 2 ^ 16)).plateDefect h.part site 4)))) ∧
      (e ≠ 4 →
        (g0.posted.find? (fun a => a.kind == 0) = none → exec (.hbmWriteAcknowledge site e) s = .next s) ∧
        (g0.posted.find? (fun a => a.kind == 0) = some pw → exec (.hbmWriteAcknowledge site e) s = .next (
          if s.reachable h.part site pw.data.length pw.addr = false then s
          else if h.d.mode = 2 then (posted.progressBy h.part site 0).queueSend h
          else ((if left.any (fun a => a.pos == pw.pos) then posted else posted.storedAt h pw.pos).progressBy h.part site 0).endWrite
            h))) ∧
      (h.d.mode ≠ 2 → exec (.queueTransfer site e) s = .next s) ∧
      (h.d.mode = 2 →
        (sent.hatch site e = none → exec (.queueTransfer site e) s = .next sent) ∧
        (sent.hatch site e = some g →
          (g.d.mode ≠ 2 ∨ (sent.site site).su.outFifo qslot = [] ∨ v.ended = true →
            exec (.queueTransfer site e) s = .next sent) ∧
          (g.d.mode = 2 → (sent.site site).su.outFifo qslot = f :: rest → v.ended = false →
            (v.ring = [] → v.ext = [] → v.bank = none → 0 < (sent.site site).su.credit (slotKey 5 qslot) →
              exec (.queueTransfer site e) s = .next ((((moved.setEngine site e v1).enterSu site qslot [f]).progress g.part site).endQueue g)) ∧
            ((v.ring ≠ [] ∨ v.bank ≠ none ∨ (sent.site site).su.credit (slotKey 5 qslot) = 0) → v.ext = [] →
              v.ring.length < g.d.counts.getD 0 1 → exec (.queueTransfer site e) s = .next (
                if v.bank ≠ none then sent
                else ((rung.setMu site { (rung.site site).mu with
                    reqs := (rung.site site).mu.reqs ++ bankReqs g [(at1, some f.data)] }).bump .siteQgrow [site] 1).grantAlone g.part site (at1 % 16) (4 + e))) ∧
            (v.ext ≠ [] ∨ g.d.counts.getD 0 1 ≤ v.ring.length → exec (.queueTransfer site e) s = .next (
              if v.ext.length < g.d.extension ∧ (sent.extAddr g 0).isSome then
                (moved.setEngine site e v1).spillWrite g f else sent))))))

/-- Atomic messages apply their operation and return the old value. An atomic request for a bank word of a memory unit
of the partition joins the queue of the word's home bank; where nothing else waits there the bank grants it in the
same stage. The operation then stores the result of the table of R219 in the aligned 64-bit word (FADD: 32-bit)
and answers with the old value: wrapping add, unsigned maximum and minimum, bitwise and and or, swap, compare-and-
swap, and the FP32 sum rounded by R172; a bank that is closed to the atomic unit answers DENIED. Behind others the
operation waits in order, and a full queue holds the message. A partition address is answered UNSUPPORTED, a
foreign site DENIED, another epoch STALE; a message of no partition is discarded, and one that carries another
operation's code is no message of its kind. Marks: logs 69 and 178 (DEDUCED), 210 (DESIGN CHOICE, where the
rotation of a bank starts). -/
def Obligations.AtomicsActOnTheirWord : Prop :=
  ∀ (s : State) (port p k : Nat) (h : Hdr) (body : List Byte) (c : Instr),
    ([Instr.atomAdd port h body, .atomMax port h body, .atomMin port h body, .atomAnd port h body, .atomOr port h body,
      .atomSwap port h body, .atomCas port h body, .atomFadd port h body])[k]? = some c →
    let a := leAt body 0 8
    let site := bitsOf a 32 20
    let addr := bitsOf a 19 0 % 786432
    let w := addr / 64
    let op : AtomOp := ⟨k, addr, leAt body 16 8, leAt body 24 8, 2, p, h.src, h.txn, 0, false, 0⟩
    let t := s.consume port 0x16 body.length
    let m := (t.site site).mu
    let queued := t.setMu site { m with atoms := tabSet (fun _ => []) m.atoms (w % 16) (m.atomQueue (w % 16) ++ [op]) }
    let turn := queued.setMu site { (queued.site site).mu with
      last := tabSet (fun _ => 9) (queued.site site).mu.last (w % 16) 8 }
    let popped := turn.setMu site { (turn.site site).mu with
      atoms := tabSet (fun _ => []) (turn.site site).mu.atoms (w % 16) [] }
    let line := (popped.site site).mu.word w
    let bits := if k = 7 then 32 else 64
    let off := addr % 64 * 8 / bits * bits
    let old := lineGet line off bits
    let x : BitVec 64 := BitVec.ofNat 64 op.x
    let y : BitVec 64 := BitVec.ofNat 64 op.y
    let was : BitVec 64 := BitVec.ofNat 64 old
    let new : BitVec 64 := match k with
      | 0 => was + x
      | 1 => if was ≤ x then x else was
      | 2 => if was ≤ x then was else x
      | 3 => was &&& x
      | 4 => was ||| x
      | 5 => x
      | 6 => if was = y then x else was
      | _ => BitVec.ofNat 64 (toFp32 (numSum [ofFp32 old, ofFp32 (op.x % 2 ^ 32)]))
    let stored := popped.setMu site ((popped.site site).mu.setWord w (linePut line off bits new.toNat))
    let settled (v : State) : State :=
      (((v.pumpHeld site).serveWord p site w).bankSettle site).strictWaits p site (w % 16) 8
    (leAt body 8 1 ≠ k → exec c s = .next s) ∧
    (leAt body 8 1 = k →
      (16 ≤ ((s.site site).mu.atomQueue (w % 16)).length → exec c s = .next s) ∧
      (((s.site site).mu.atomQueue (w % 16)).length < 16 →
        (t.accept h = .stale p → exec c s = .next (t.send p 0x17 h.src false 5 h.txn [])) ∧
        (t.accept h = .bad → exec c s = .next (t.discardMsg port)) ∧
        (t.accept h = .ok p →
          (a.testBit 63 = false → exec c s = .next (t.send p 0x17 h.src false 4 h.txn [])) ∧
          (a.testBit 63 = true → t.ownMu p site = false → exec c s = .next (t.send p 0x17 h.src false 2 h.txn [])) ∧
          (a.testBit 63 = true → t.ownMu p site = true → 16 ≤ (m.atomQueue (w % 16)).length → exec c s = .next t) ∧
          (a.testBit 63 = true → t.ownMu p site = true → (m.atomQueue (w % 16)).length < 16 →
            (queued.bankOrder site (w % 16) ≠ [8] ∨ 1 < ((queued.site site).mu.atomQueue (w % 16)).length →
              exec c s = .next queued) ∧
            (queued.bankOrder site (w % 16) = [8] → (queued.site site).mu.atomQueue (w % 16) = [op] →
              (turn.site site).mu.atomQueue (w % 16) = [op] → turn.atomFor site = some p →
              (popped.atomicMay site w = true → exec c s =
                .next (settled ((stored.progress p site).send p 0x17 h.src false 0 h.txn (leBytes 8 old)))) ∧
              (popped.atomicMay site w = false → exec c s =
                .next (settled ((popped.ownerMiss p site).send p 0x17 h.src false 2 h.txn []))))))))

/-- Remote reads, writes and collectives between modules. An accepted RD_REQ or WR_REQ acts on the partition's memory,
or reads a unit's banks, and is answered with its status; one that names a page-tile that is out, or comes behind
a message of its port that waits, waits in the hub. BANK_WR puts its words that lie in receive windows into the
site's held writes, keeps its receive buffers until they are written, discards the others by the credit rules, and
with none inside is answered OUTSIDE. A response takes its request out of the list, has its status's effect and
delivers data for every operand of the read, acceptance or credits, on which a stream's words go on. COLL_DATA and
COLL_END enter the node going up, a GATHER word that comes again being an orphan, and are stored and forwarded
going down. A message of another epoch is answered STALE where it is a request and is else discarded; one that
names no partition, another target or a foreign module is discarded and counted. Marks: DESIGN CHOICE logs 98,
184, 210 (a remote bank read stands outside the grant order); DEDUCED logs 64 to 68, 70, 75, 83, 86, 101, 178. -/
def Obligations.RemoteMemoryAndCollectiveMessages : Prop :=
  ∀ (s : State) (port p : Nat) (h : Hdr) (body : List Byte) (r : Request) (hatch : Hatch) (i n : Nat)
      (w : Nat × Line) (rest : List (Nat × Line)),
    let at_ (typ : Nat) := s.consume port typ body.length
    let a := leAt body 0 8
    let site := bitsOf a 32 20
    let lines := leAt body 8 2 / 64
    let rd := (at_ 0x10).readPart p 0x1FFF 0 lines (a % 2 ^ 44)
    let wr := (at_ 0x12).writePart p 0x1FFF (a % 2 ^ 44) (body.drop 8)
    let taken (typ req : Nat) := ((at_ typ).takeReq p req h.src h.txn)
    let rdone := (taken 0x11 0x10).1.statusEffect p r.site h.status r.info h.src
    let size := match (rdone.engine r.site r.engine).reads.find? (fun q => q.txn == some h.txn) with
      | some q => q.len / 64
      | none => hatch.d.len
    let data := if h.status = 0 then body else List.replicate (64 * size) 0
    let t14 := s.countRx port
    let f14 (u : State) : State := u.freeRx port 0x14 body.length
    let words := bankWords (bitsOf a 19 6) 64 (body.drop 8)
    let inside : Nat × Line → Bool := fun v => t14.ownMu p site && (t14.windowOf site v.1).isSome
    let lost := words.filter (fun v => !inside v)
    let refused := lost.foldl (fun v _ => v.creditOutside p site h.src) t14
    let good := words.filter inside
    let acked := match (taken 0x15 0x14).2 with
      | none => (taken 0x15 0x14).1
      | some q => ((taken 0x15 0x14).1.statusEffect p (if h.status = 3 then leAt body 0 2 else q.site) h.status 0
          ((at_ 0x15).coord p)).acceptWrite q
    let credits := leAt body 8 4
    let credited := acked.setMu i { (acked.site i).mu with
      credits := (acked.site i).mu.credits.set n ((acked.site i).mu.credits.getD n 0 + credits) }
    let key := leAt body 0 8 % 2 ^ 36
    let members (t : State) := t.collMembers p (keyRef key).gmask
    let rank (t : State) := t.collRank p (keyRef key).gmask
    let cw := collBody (keyRef key) (leAt body 12 4) 64 (body.drop 16)
    let node := (at_ 0x21).coll p key
    let keep (b : Tab Line) (e : Nat × Line) : Tab Line :=
      if collKeeps (keyRef key).op (members (at_ 0x21)).length (rank (at_ 0x21)) e.1 then tabIns b e.1 e.2 else b
    let end_ := (at_ 0x22).coll p key
    (s.mustWait port h a lines = true → exec (.rdReq port h body) s = .next { s with hubMsgs := s.hubMsgs ++ [(port, ⟨0x10, h, body⟩)] }) ∧
    (s.mustWait port h a lines = false → (at_ 0x10).accept h = .ok p →
      (a.testBit 63 = true → exec (.rdReq port h body) s = .next (if (at_ 0x10).ownMu p site
        then (at_ 0x10).send p 0x11 h.src false 0 h.txn ((at_ 0x10).muBytes site (bitsOf a 19 6) lines)
        else (at_ 0x10).send p 0x11 h.src false 2 h.txn [])) ∧
      (a.testBit 63 = false → exec (.rdReq port h body) s = .next (
        if rd.2.ue ≠ none then rd.1.send p 0x11 h.src false 1 h.txn []
        else if rd.2.denied ≠ none then rd.1.send p 0x11 h.src false 2 h.txn []
        else rd.1.send p 0x11 h.src false 0 h.txn rd.2.data))) ∧
    ((at_ 0x11).accept h = .ok p →
      ((taken 0x11 0x10).2 = none → exec (.rdRsp port h body) s = .next (taken 0x11 0x10).1) ∧
      ((taken 0x11 0x10).2 = some r →
        (rdone.hatch r.site r.engine = none → exec (.rdRsp port h body) s = .next rdone) ∧
        (rdone.hatch r.site r.engine = some hatch → exec (.rdRsp port h body) s =
          .next (rdone.readBack hatch (fun q => q.txn == some h.txn) size 0 (bytesWords size data))))) ∧
    (s.mustWait port h a ((body.length - 8) / 64) = true → exec (.wrReq port h body) s =
      .next { s with hubMsgs := s.hubMsgs ++ [(port, ⟨0x12, h, body⟩)] }) ∧
    (s.mustWait port h a ((body.length - 8) / 64) = false → (at_ 0x12).accept h = .ok p → exec (.wrReq port h body) s =
      .next (wr.1.send p 0x13 h.src false (if wr.2 then 0 else 2) h.txn [])) ∧
    ((at_ 0x13).accept h = .ok p →
      ((taken 0x13 0x12).2 = none → exec (.wrAck port h body) s = .next (taken 0x13 0x12).1) ∧
      ((taken 0x13 0x12).2 = some r → exec (.wrAck port h body) s =
        .next (((taken 0x13 0x12).1.statusEffect p r.site h.status 0 h.src).acceptWrite r))) ∧
    (t14.accept h = .ok p →
      (good = [] → exec (.bankWr port h body) s = .next ((f14 refused).bankAck p h.src 3 h.txn site 0 0 0)) ∧
      (good = w :: rest → exec (.bankWr port h body) s = .next (refused.holdWords p site ⟨port, body.length, p, h.src, h.txn,
        (t14.windowOf site w.1).getD 0, good.length, good.length, if lost = [] then 0 else 3, good⟩))) ∧
    ((at_ 0x15).accept h = .ok p →
      (credits = 0 ∨ acked.senderWindow p h.src (leAt body 0 2) (leAt body 2 1) = none →
        exec (.bankAck port h body) s = .next acked) ∧
      (credits ≠ 0 → acked.senderWindow p h.src (leAt body 0 2) (leAt body 2 1) = some (i, n) →
        exec (.bankAck port h body) s = .next ((List.range 4).foldl (fun v e => match v.hatch i e with
          | some x => if x.d.window = n then v.remoteMore x else v
          | none => v) credited))) ∧
    ((at_ 0x17).accept h = .ok p →
      ((taken 0x17 0x16).2 = none → exec (.atomRsp port h body) s = .next (taken 0x17 0x16).1) ∧
      ((taken 0x17 0x16).2 = some r → exec (.atomRsp port h body) s =
        .next (((taken 0x17 0x16).1.statusEffect p r.site h.status 0 h.src).acceptWrite r))) ∧
    ((at_ 0x21).accept h = .ok p →
      (leAt body 8 1 % 2 = 0 → exec (.collData port h body) s = .next (cw.foldl (fun u e =>
        let c := (u.coll p key).add e.1 e.2
        if c.2 then u.setColl p c.1
        else (u.setColl p c.1).orphan p ((((u.setColl p c.1).sitesOf p).head?).getD 0)) (at_ 0x21))) ∧
      (leAt body 8 1 % 2 = 1 → exec (.collData port h body) s =
        .next ((collChildren (members (at_ 0x21)) (rank (at_ 0x21))).foldl (fun v m => v.sendColl p key m 1 cw false)
          ((at_ 0x21).setColl p { node with result := cw.foldl keep node.result })))) ∧
    ((at_ 0x22).accept h = .ok p →
      (leAt body 8 1 % 2 = 0 → exec (.collEnd port h body) s = .next (((at_ 0x22).setColl p { end_ with
        ends := if end_.ends.contains h.src then end_.ends else end_.ends ++ [h.src] }).collSettle p key)) ∧
      (leAt body 8 1 % 2 = 1 → exec (.collEnd port h body) s =
        .next ((collChildren (members (at_ 0x22)) (rank (at_ 0x22))).foldl (fun v m => v.sendColl p key m 1 [] true)
          (((at_ 0x22).setColl p { end_ with down := true }).dropRound p key)))) ∧
    (∀ c : Nat × Nat × Instr, c ∈ [(0x10, 0x11, Instr.rdReq port h body), (0x12, 0x13, .wrReq port h body)] → (∀ q, s.accept h ≠ .ok q) →
      ((at_ c.1).accept h = .stale p → exec c.2.2 s =
        .next ((at_ c.1).send p c.2.1 h.src false 5 h.txn [])) ∧
      ((at_ c.1).accept h = .bad → exec c.2.2 s = .next ((at_ c.1).discardMsg port))) ∧
    (t14.accept h = .stale p → exec (.bankWr port h body) s = .next ((f14 t14).send p 0x15 h.src false 5 h.txn [])) ∧
    (t14.accept h = .bad → exec (.bankWr port h body) s = .next ((f14 t14).discardMsg port)) ∧
    (∀ c : Nat × Instr, c ∈ [(6, Instr.stepDesc port h body), (7, .stepData port h body), (8, .stepDone port h body),
        (9, .hist port h body), (10, .stepAbort port h body), (0x11, .rdRsp port h body), (0x13, .wrAck port h body),
        (0x15, .bankAck port h body), (0x17, .atomRsp port h body), (0x21, .collData port h body),
        (0x22, .collEnd port h body)] →
      (∀ q, (at_ c.1).accept h ≠ .ok q) → exec c.2 s = .next ((at_ c.1).discardMsg port))

/-- Candidate lists, layer decisions, dispatched chunks and ends. The dispatcher takes a candidate list of a site once
per slot, ordered by score, ignores empty entries and excluded records, reports a second list as a defect, and
keeps the site's end; it holds the slot while it still sends a layer or the site has ended. Once every site has
ended and no earlier layer is due, it reads the header and the named entries of the table, decides both passes,
books the counts and owes the sites their streams, and sends the ends of a pass in which nothing leaves; a table
read error ends the step, a record that is out waits, and layers beyond the expert map only clear the lists. A
DISPATCH is delivered at the sites its mask names; stray bits are counted. A DISPATCH_END of the last member
closes the sites' streams. Its END ends what is outstanding at its sender, and a site has work while the
dispatcher owes it operands. A message for a step that has not begun waits, one for none is discarded. Marks:
DESIGN CHOICE logs 98, 102, 184; DEDUCED logs 34, 51, 100, 101, 103, 104, 106, 107, 177. -/
def Obligations.ExpertDispatcherCommands : Prop :=
  ∀ (s : State) (p q site port mode : Nat) (entries : List Nat) (o : Operand) (rest : List Xfer) (x : Step) (e : Edition)
      (h : Hdr) (body : List Byte) (ctx : Nat),
    let d := (s.part p).disp
    let took := ((s.setSu site ((s.site site).su.take 6 rest)).muWake p site).progressBy p site (xfersOf o).length
    let slot := tagIter o.tag
    let served := match (took.part p).firing with
      | some y => (match recOf y slot with
        | some (r, _) => !r.excluded
        | none => false)
      | none => false
    let list := if served then (listEntries o.words).filter (fun c => c.1 != 0xFFFFFFFF) else []
    let holds := !(s.frontDispatch p).any (fun i => i.2 == site) || d.sending || s.layerEnded p || d.ended.contains site
    let row := e.rlayer d.layer
    let lists := d.lists.foldl (fun a l => insertSlot l a) []
    let slots := lists.map (·.1)
    let on := s.fa .serveExpertTblEnable [p] == 1
    let here := on && s.tableHere p
    let named := (lists.flatMap (fun l => l.2.2.map (·.1))).dedup.filter (fun i => decide (i < row.experts))
    let recs := if here then tableRecords (s.tableAddr p) d.layer named else []
    let rd := recs.foldl (fun (a : State × Option Nat) l =>
      let q := a.1.readPart p 0x1FFF 0 2 l
      (q.1, a.2.or q.2.ue)) (s, none)
    let table : Option Placement := if here then some (rd.1.localTable p d.layer row.experts)
      else if on then some ⟨bitOf mode 0, entries⟩ else none
    let b := decideLayer ⟨row.experts, table, rd.1.members p, rd.1.slotGroups x slots⟩ lists
    let late := match table with | some t => t.deferred | none => false
    let t := b.bad.foldl (fun u i => u.plateDefect p i 5) (rd.1.bookLayer p d.layer b)
    let dd := (t.part p).disp
    let owed := (t.frontDispatch p).flatMap (fun i => (siteStreams row (t.coord p) x.entry.tokenCount
      ((lists.filter (fun l => l.2.1 == i.2)).map (·.1)) late b.accepted).map (fun o => (i.2, 6, o)))
    let n0 := dueOf row (t.coord p) 0 slots b.accepted
    let n1 := if late then dueOf row (t.coord p) 1 slots b.accepted else 0
    let due := tabSet (fun _ => 0) (tabSet (fun _ => 0) dd.due (dispKey row.layer 0) n0) (dispKey row.layer 1) n1
    let v := t.setPart p { t.part p with disp := { dd with
      lists := [], ended := [], layer := dd.layer + 1, turn := 0, owed := dd.owed ++ owed, due := due } }
    let v0 := if n0 = 0 then v.sendEnds p row.layer 0 else v
    let v1 := if n1 = 0 then v0.sendEnds p row.layer 1 else v0
    let got := s.consume port 0x20 body.length
    let came := got.endCame p h.src (leAt body 1 1) (leAt body 0 1)
    let good := (got.frontDispatch p).filter (fun i => got.slotFiveFree i.2)
    let stray := (List.range 8).filter (fun i => bitsOf (leAt body 8 8) (8 * i + 7) (8 * i) != 0 && !good.any (fun g => g.1 == i))
    let key := dispKey (leAt body 1 1) (leAt body 0 1)
    let gd := (came.part p).disp
    let ends := if (tabGet (fun _ => []) gd.ends key).contains h.src then tabGet (fun _ => []) gd.ends key
      else tabGet (fun _ => []) gd.ends key ++ [h.src]
    let marks := if (came.members p).all (fun m => ends.contains m) then
      ((came.frontDispatch p).filter (fun i => came.slotFiveFree i.2)).map (fun i => (i.2, 5, marker (mkTag ctx
      (tabGet (fun _ => 0) gd.pairs (pairKey i.2 (leAt body 1 1) (leAt body 0 1)))))) else []
    (s.worksFor site = none ∨ headOperand ((s.site site).su.outFifo 6) = none →
      exec (.candidateListArrival site) s = .next s) ∧
    (s.worksFor site = some p → headOperand ((s.site site).su.outFifo 6) = some (o, rest) →
      (holds = true → exec (.candidateListArrival site) s = .next s) ∧
      (holds = false → o.eos = true → exec (.candidateListArrival site) s =
        .next ((took.setPart p { took.part p with disp := { d with ended := d.ended ++ [site] } }).takeTurn p)) ∧
      (holds = false → o.eos = false → d.lists.any (fun l => l.1 == slot) = true → exec (.candidateListArrival site) s =
        .next (((took.bump .serveDispDefects [p] 1).plateDefect p site 5).muRest p site)) ∧
      (holds = false → o.eos = false → d.lists.any (fun l => l.1 == slot) = false → exec (.candidateListArrival site) s =
        .next (took.setPart p { took.part p with disp := { d with lists := d.lists ++ [(slot, site,
          list.foldl (fun a c => candInsert c a) [])] } }))) ∧
    ((s.part p).firing = none ∨ (s.firingNow p && s.layerEnded p && s.dispTurn p) = false →
      exec (.dispatchLayerDecide p mode entries) s = .next s) ∧
    ((s.part p).firing = some x → s.firingNow p = true → s.layerEnded p = true → s.dispTurn p = true →
      (s.resident x.edition = none → exec (.dispatchLayerDecide p mode entries) s = .next s) ∧
      (s.resident x.edition = some e →
        (e.rlayers ≤ d.layer → exec (.dispatchLayerDecide p mode entries) s =
          .next ((s.frontDispatch p).foldl (fun u i => u.muRest p i.2)
            (s.setPart p { s.part p with disp := { d with lists := [], ended := [], turn := 0 } }))) ∧
        (d.layer < e.rlayers → recs.any (fun a => (s.absent p 2 a).isSome) = true →
          exec (.dispatchLayerDecide p mode entries) s = .next s) ∧
        (d.layer < e.rlayers → recs.any (fun a => (s.absent p 2 a).isSome) = false →
          (∀ a, rd.2 = some a → exec (.dispatchLayerDecide p mode entries) s =
            .next (rd.1.abortRun p Status.hbmUncorrectable (BitVec.ofNat 64 a))) ∧
          (rd.2 = none → t.firingNow p = false → exec (.dispatchLayerDecide p mode entries) s = .next t) ∧
          (rd.2 = none → t.firingNow p = true → exec (.dispatchLayerDecide p mode entries) s = .next (v1.dispPump p))))) ∧
    (∀ c : Instr × (State → State), c ∈ [(Instr.dispatch port h body, id), (.dispatchEnd port h body,
        fun u => u.endCame p h.src (leAt body 1 1) (leAt body 0 1))] →
      ((∀ k, s.accept h ≠ .ok k) → exec c.1 s = .next (match got.accept h with
        | .ok _ => got
        | _ => got.discardMsg port)) ∧
      (s.accept h = .ok q → s.fabricWaits q = true → exec c.1 s = .next s) ∧
      (s.accept h = .ok q → s.fabricWaits q = false →
        ((∀ k, got.accept h ≠ .ok k) → exec c.1 s = .next (got.discardMsg port)) ∧
        (got.accept h = .ok p →
          (c.2 got).firingNow p = false ∨ (c.2 got).dispCtx p (leAt body 1 1) (leAt body 0 1) = none →
          exec c.1 s = .next ((c.2 got).discardMsg port)))) ∧
    (s.accept h = .ok q → s.fabricWaits q = false → got.accept h = .ok p →
      (got.firingNow p = true → got.dispCtx p (leAt body 1 1) (leAt body 0 1) = some ctx →
        exec (.dispatch port h body) s = .next ((good.foldl (fun w i => w.deliverPair p ctx body i)
          (stray.foldl (fun w _ => (w.discardMsg port).warn p) got)).dispPump p)) ∧
      (came.firingNow p = true → came.dispCtx p (leAt body 1 1) (leAt body 0 1) = some ctx →
        exec (.dispatchEnd port h body) s = .next ((marks.foldl (fun (w : State) m => w.muWake p m.1)
          (came.setPart p { came.part p with disp := { gd with
            ends := tabSet (fun _ => []) gd.ends key ends, owed := gd.owed ++ marks } })).dispPump p)))

/-- The dispatcher never exceeds a capacity and serves no one a private expert is not granted to. Whatever lists a
layer brings, no replica of an expert is used more often in the main pass than its CAP nor in the deferred pass
than its DEFER_CAP; every accepted choice names an expert of the layer that its token's privilege group is granted
and whose replicas are all members; and no token has two accepted choices of one pass at the same module and local
slot. -/
def Obligations.DispatcherKeepsCapacityAndGrants : Prop :=
  ∀ (v : DecideEnv) (lists : List (Nat × Nat × List (Nat × Nat))),
    let b := decideLayer v lists
    (∀ e r, r < 8 → tabGet (fun _ => 0) b.mainUsed (8 * e + r) ≤ (replicaOf (v.entry e) r).cap ∧
      tabGet (fun _ => 0) b.deferUsed (8 * e + r) ≤ (replicaOf (v.entry e) r).deferCap) ∧
    (∀ c ∈ b.accepted, c.expert < v.nexp ∧ v.granted c.slot c.expert = true ∧ v.unplaced c.expert = false ∧ c.pass ≤ 1 ∧
      v.members.contains c.module_ = true) ∧
    b.accepted.Pairwise (fun c d => ¬ (c.slot = d.slot ∧ c.pass = d.pass ∧ c.module_ = d.module_ ∧ c.lslot = d.lslot))

/-- Scrubbing, row refreshes, spare rows and the tag window. A scrub burst skips a FREE or DIRTY page; on another, and
in the firmware region, it checks the tile's codewords with the time of the partition that owns the page, writes
corrected ones back and moves on, and records the module time when a pass over the user data and the firmware
region of the stack ends, where the counts of corrections start again. A row at the threshold, or one that reached
it before a regular refresh set its count to zero, has its count and its neighbours' set to zero and the refresh
counted, one below it nothing; a regular refresh sets the counts of its rows to zero. A row that needed 8
corrections in the pass is copied corrected to a spare of its bank; the last spare sets SPARES_OUT with a record,
and with none left nothing happens. In self refresh none of these acts. A write of TAG_SEL shows the tag of its
page, or misses the die. Marks: DESIGN CHOICE log 112 (which banks and rows the addresses name); DEDUCED logs 17,
36, 99, 100, 109, 126, 155. -/
def Obligations.MemoryMaintenance : Prop :=
  ∀ (s : State) (die stack channel place row miss : Nat) (rows : List Nat) (w : Word),
    let k := 4 * (die % 8) + stack % 4
    let at_ := [die % 8, stack % 4]
    let t := tabGet (fun _ => 0) s.hbm.scrubAt k
    let a := tileOf (die % 8) (stack % 4) t
    let tag := s.hbm.tag (a / 65536)
    let owner := if t < 2 ^ 25 ∧ tagKind tag = 2 then some (tag % 32) else none
    let checked := ((s.activate a).checkWords owner 3 (tileLines a)).1
    let scrubbed := if t < 2 ^ 25 ∧ tagKind tag < 2 then s else checked.setHbm (checked.hbm.mend a)
    let moved := scrubbed.setHbm { scrubbed.hbm with scrubAt := tabSet (fun _ => 0) scrubbed.hbm.scrubAt k (t + 1) }
    let ended := scrubbed.setHbm { scrubbed.hbm with
      scrubAt := tabSet (fun _ => 0) scrubbed.hbm.scrubAt k 0
      fixes := scrubbed.hbm.fixes.filter (fun e => stackOf (e.1 * 4096) != at_) }
    let d := dieOfRow row
    let ix := stackOf (row * 4096)
    let near := nearRows row (s.fa .hbmRdistCtlRadius [d])
    let clear (l : List Nat) : State := s.setHbm { s.hbm with
      acts := l.foldl (fun c r => tabSet (fun _ => 0) c r 0) s.hbm.acts }
    let bank := Config.bankOf row % 1024
    let number := 4 * ix.getD 0 0 + ix.getD 1 0
    let key := (number * 32 + channelOfRow row) * 1024 + bank
    let n := tabGet (fun _ => 0) s.hbm.spares key
    let worn := tabGet (fun _ => 0) s.hbm.fixes row
    let open_ := s.activate (row * 4096)
    let used := open_.setHbm { open_.hbm.mend (row * 4096) with
      spares := tabSet (fun _ => 0) open_.hbm.spares key (n + 1)
      fixes := tabSet (fun _ => 0) open_.hbm.fixes row 0
      acts := tabSet (fun _ => 0) open_.hbm.acts row 0
      due := open_.hbm.due.filter (fun e => e.1 != row) }
    let out := used.setf .hbmStackStatusSparesOut ix 1
    let record (u : State) : State := u.bbWrite none 0x31 3 (payloadOf [(0, 1, number), (1, 1, channelOfRow row), (2, 1, bank % 256)])
    let remap := exec (.rowRemap die stack channel place) s
    let page := w.toNat % 2 ^ 23
    let window := s.setf .hbmTagSelPage [die % 8] page
    (s.selfRefresh (die % 8) = true → exec (.scrubBurst die stack) s = .next s) ∧
    (s.selfRefresh (die % 8) = false →
      (t + 1 ≠ 2 ^ 25 + 2 ^ 14 → exec (.scrubBurst die stack) s = .next moved) ∧
      (t + 1 = 2 ^ 25 + 2 ^ 14 → exec (.scrubBurst die stack) s = .next (ended.setv .hbmScrubPass at_ ended.now))) ∧
    (s.selfRefresh d = true ∨ (tabGet (fun _ => 0) s.hbm.acts row < s.fa .hbmRdistCtlThreshold [d] ∧
        s.hbm.due.any (fun e => e.1 == row) = false) →
      exec (.targetedRefresh row) s = .next s) ∧
    (s.selfRefresh d = false → (s.fa .hbmRdistCtlThreshold [d] ≤ tabGet (fun _ => 0) s.hbm.acts row ∨
        s.hbm.due.any (fun e => e.1 == row) = true) → exec (.targetedRefresh row) s = .next
      (((clear (row :: near)).setHbm { (clear (row :: near)).hbm with due := s.hbm.due.filter (fun e => e.1 != row) }).bump
        .hbmRdistRefresh ix 1)) ∧
    exec (.perBankRefresh rows) s = .next (clear (rows.filter (fun r => !s.selfRefresh (dieOfRow r)))) ∧
    (row = rowAt (die % 8) (stack % 4) (channel % 32) place →
      (s.selfRefresh d = true ∨ worn < 8 ∨ 32 ≤ n → remap = .next s) ∧
      (s.selfRefresh d = false → 8 ≤ worn →
        (n < 31 → remap = .next used) ∧
        (n = 31 → used.fv .hbmStackStatusSparesOut ix = 1 → remap = .next (record out)) ∧
        (n = 31 → used.fv .hbmStackStatusSparesOut ix ≠ 1 → remap = .next (record
          (if out.linkUp then out.msix 34 else out.setHost { out.host with
            hbmWait := out.host.hbmWait.filter (fun x => x != (Fld.hbmStackStatusSparesOut.reg.at ix, Fld.hbmStackStatusSparesOut.lo)) ++
              [(Fld.hbmStackStatusSparesOut.reg.at ix, Fld.hbmStackStatusSparesOut.lo)] }))))) ∧
    (s.missed (Rg.hbmTagSel.at [die % 8]) = some miss → exec (.tagSelCapture die w) s =
      .next (s.noteMiss (Rg.hbmTagSel.at [die % 8]) miss)) ∧
    (s.missed (Rg.hbmTagSel.at [die % 8]) = none → exec (.tagSelCapture die w) s =
      .next (window.setf .hbmTagDataTag [die % 8] (window.shownTag ((die % 8) * 2 ^ 23 + page))))

/-- The commands and events of the edition library. A command at the front of its class completes with its code or
goes on running: INSTALL reserves the space and a second event writes the edition or fails; DELETE frees a STORED
edition and its blocks; STAGE takes the pages and a second event fills them; EVICT abandons the commands of its
edition ahead of it, takes an unused RESIDENT edition out, and ends a running STAGE of it with ABANDONED;
SET_STAGE and SET_EVICT take a set in or out; REPAIR moves a resident page-tile to a FREE page; each answers its
refusal codes, those that fill wait while a die cannot be reached, and none acts where it is not at the front of
its class. CMD_ACK drops the oldest result, or misses the interface. A block that is to be relocated has its
shards read and moved to the erased block with the lowest erase count and is erased, and waits without one; a
scrub reads every edition and notes what it finds; a channel goes out of service once, and its rebuild ends with a
record; retraining changes nothing. Marks: DESIGN CHOICE logs 113, 118, 121, 167 (what an INSTALL takes, the sets'
pages, the space of an edition, the destination of a relocation), 8; DEDUCED logs 17, 114 to 117, 119, 120, 186. -/
def Obligations.FlashLibraryCommands : Prop :=
  ∀ (s : State) (c g : FlashCmd) (pkg : Option (List Byte)) (bs : List Byte) (c0 n : Nat) (r : FlashRead) (l : List (Nat × Nat))
      (channel die block dest miss : Nat) (programFailed eraseFailed : Bool) (rs : List (Nat × FlashRead)) (view shard ep old q : Nat)
      (place : Option (Nat × Nat)),
    let at_ := s.flashTake c
    let ends (t : State) (code detail : Nat) : State := (t.flashDone c code detail).flashSweep 16
    let goesOn (t : State) : State := t.setFlash { t.flash with running := t.flash.running ++ [c] }
    let front (inst : Bool) (op : Nat) : Prop := s.flashFront inst = some c ∧ c.op = op ∧ c.legal = true
    let idle (u : State) (inst : Bool) (op : Nat) : Prop := ∀ d, u.flashFront inst = some d → ¬ (d.op = op ∧ d.legal = true)
    let e := at_.flash.slot n
    let m := bs.take (leAt bs 20 4)
    let new := packageEdition m c0
    let home := if (at_.slotOf new.id).isSome then 1024
      else (firstBelow 1024 (fun i => (at_.flash.slot i).state == 0)).getD 1024
    let named (u : Tab Nat) (x : Nat × Nat) : Tab Nat := tabSet (fun _ => 2 ^ 26) u x.1 x.2
    let dead := (at_.deadStripe e e.plateStripes).isSome
    let staged := s.stageFinish c r
    let wrote := s.installFinish pkg
    let set := at_.stageSet n c.stipple r
    let v := s.abandonAhead 8
    let vt := v.flashTake c
    let ve := vt.flash.slot n
    let page := c.arg0.toNat / 65536
    let judged := (at_.readShards n [shardNo shard] r).judge n [shard / 8]
    let taken := judged.1.takeFree (dieOfPage page) 1
    let f := judged.1.flash.slot n
    let lib := judged.1.countRebuilds f [shard]
    let fill := lib.fillPage q view (lib.tileBytes f shard)
    let fe := fill.flash.slot n
    let put := match place with
      | some (k, i) => { fe with sets := tabSet (fun _ => []) fe.sets k ((tabGet (fun _ => []) fe.sets k).set i q) }
      | none => { fe with pages := tabSet (fun _ => 2 ^ 26) fe.pages ep q }
    let ch := channel % 64
    let b := ch * 2 ^ 15 + die % 8 * 2 ^ 12 + block % 2 ^ 12
    let failed := programFailed || eraseFailed
    let relocate := exec (.blockRelocation channel die block programFailed eraseFailed rs) s
    let held := s.heldBy b
    let read := ((held.map (fun (x : Nat × Nat) => x.1)).eraseDups).foldl (fun u i =>
      u.readAndJudge i ((held.filter (fun x => x.1 == i)).map (fun x => x.2)) (findings rs i)) s
    let moved := held.foldl (fun u (x : Nat × Nat) => u.moveShard dest x.1 x.2) read
    let slots := s.flash.slots.map (fun (x : Nat × Edition) => x.1)
    let rebuilt := slots.foldl (fun u i => u.rebuildEdition ch i) s
    let back := (rebuilt.setFlash { rebuilt.flash with
      rebuilding := rebuilt.flash.rebuilding.filter (fun x => x != ch) }).showChannel ch
    (s.flash.running.find? (fun x => x.op == 1) = some c → exec (.install pkg c0) s =
      .next (if s.flashRoom 0 then ends wrote.1 wrote.2.1 wrote.2.2 else s)) ∧
    (s.flash.running.find? (fun x => x.op == 1) = none → idle s true 1 → exec (.install pkg c0) s = .next s) ∧
    (s.flash.running.find? (fun x => x.op == 1) = none → front true 1 →
      exec (.install none c0) s = .next (ends at_ FlashCode.hostRead 0) ∧
      (∀ a b, at_.installRefused c bs = some (a, b) → exec (.install (some bs) c0) s = .next (ends at_ a b)) ∧
      (at_.installRefused c bs = none → exec (.install (some bs) c0) s =
        .next (goesOn ((at_.setUsed (at_.flash.used + new.space)).setSlot home new)))) ∧
    (idle s true 2 → exec .delete s = .next s) ∧
    (front true 2 →
      (at_.installed c.edition = none → exec .delete s = .next (ends at_ FlashCode.notInstalled 0)) ∧
      (at_.installed c.edition = some n → e.state ≠ 2 → exec .delete s = .next (ends at_ FlashCode.busy 0)) ∧
      (at_.installed c.edition = some n → e.state = 2 → exec .delete s =
        .next (ends (((at_.setUsed (at_.flash.used - e.space)).setSlot n Edition.reset).eraseUnused) 0 0))) ∧
    (s.flash.running.find? (fun x => x.op == 3) = some c → exec (.stage r) s =
      .next (if s.stageWaits c then s else if s.flashRoom 0 then ends staged.1 staged.2.1 staged.2.2 else s)) ∧
    (s.flash.running.find? (fun x => x.op == 3) = none → idle s false 3 → exec (.stage r) s = .next s) ∧
    (s.flash.running.find? (fun x => x.op == 3) = none → front false 3 →
      (at_.installed c.edition = none → exec (.stage r) s = .next (ends at_ FlashCode.notInstalled 0)) ∧
      (at_.installed c.edition = some n → e.state = 4 → exec (.stage r) s = .next (ends at_ 0 0)) ∧
      (at_.installed c.edition = some n → e.state ≠ 4 →
        (e.degraded = true → exec (.stage r) s = .next (ends at_ FlashCode.editionLost
          ((at_.deadStripe e (List.range e.stripes)).getD 0))) ∧
        (e.degraded = false → 64 ≤ at_.fv .flashLibStateResident [] → exec (.stage r) s = .next (ends at_ FlashCode.limit 0)) ∧
        (e.degraded = false → at_.fv .flashLibStateResident [] < 64 →
          (∀ d, dead = false → e.recordFailure (at_.contentByte e) = some d → exec (.stage r) s =
            .next (ends at_ FlashCode.recordBad d)) ∧
          (dead = true ∨ e.recordFailure (at_.contentByte e) = none →
            (∀ a b, at_.reserve e 8 0 = .error (a, b) → exec (.stage r) s = .next (ends at_ a b)) ∧
            (at_.reserve e 8 0 = .ok l → exec (.stage r) s =
              .next (goesOn (at_.setSlot n { e with state := 3, pages := l.foldl named [] }))))))) ∧
    (v.flash.overtaken ≠ none → exec .evict s = .next v) ∧
    (v.flash.overtaken = none →
      (v.evictRunning = some (g, c) → v.stagingSlot = some n → exec .evict s =
        .next (if v.flashRoom 1 then ((((vt.unstage n).flashDone g FlashCode.abandoned 0).flashDone c 0 0)).flashSweep 16 else v)) ∧
      (v.evictRunning = none ∨ v.stagingSlot = none →
        (idle v false 4 → exec .evict s = .next v) ∧
        (v.flashFront false = some c → c.op = 4 → c.legal = true →
          (vt.installed c.edition = none → exec .evict s = .next (ends vt FlashCode.notInstalled 0)) ∧
          (vt.installed c.edition = some n → ve.state ≠ 4 → exec .evict s = .next (ends vt 0 0)) ∧
          (vt.installed c.edition = some n → ve.state = 4 → vt.editionUsed c.edition = true → exec .evict s =
            .next (ends vt FlashCode.busy 0)) ∧
          (vt.installed c.edition = some n → ve.state = 4 → vt.editionUsed c.edition = false → exec .evict s =
            .next (ends (vt.unstage n) 0 0))))) ∧
    (s.setWaits = true ∨ idle s false 5 → exec (.setStage r) s = .next s) ∧
    (s.setWaits = false → front false 5 →
      (at_.installed c.edition = none → exec (.setStage r) s = .next (ends at_ FlashCode.notInstalled 0)) ∧
      (at_.installed c.edition = some n → e.state ≠ 4 → exec (.setStage r) s = .next (ends at_ FlashCode.notResident 0)) ∧
      (at_.installed c.edition = some n → e.state = 4 → exec (.setStage r) s = .next (ends set.1 set.2.1 set.2.2))) ∧
    (idle s false 6 → exec .setEvict s = .next s) ∧
    (front false 6 →
      (at_.installed c.edition = none → exec .setEvict s = .next (ends at_ FlashCode.notInstalled 0)) ∧
      (at_.installed c.edition = some n → e.state ≠ 4 → exec .setEvict s = .next (ends at_ FlashCode.notResident 0)) ∧
      (at_.installed c.edition = some n → e.state = 4 → at_.setNamed c.edition c.stipple = true → exec .setEvict s =
        .next (ends at_ FlashCode.busy 0)) ∧
      (at_.installed c.edition = some n → e.state = 4 → at_.setNamed c.edition c.stipple = false → exec .setEvict s =
        .next (ends ((at_.dirtyAll (tabGet (fun _ => []) e.sets c.stipple)).setSlot n { e with
          sets := tabSet (fun _ => []) e.sets c.stipple [] }) 0 0))) ∧
    (s.repairWaits = true ∨ idle s false 7 → exec (.repair r) s = .next s) ∧
    (s.repairWaits = false → front false 7 →
      (at_.residentTile page = none → exec (.repair r) s = .next (ends at_ FlashCode.notResident 0)) ∧
      (at_.residentTile page = some (n, shard, view, place, ep) →
        (judged.2 = some old → exec (.repair r) s = .next (ends judged.1 FlashCode.editionLost old)) ∧
        (judged.2 = none → (∀ k, taken ≠ some [k]) →
          exec (.repair r) s = .next (ends judged.1 FlashCode.noSpace (dieOfPage page))) ∧
        (judged.2 = none → taken = some [q] →
          exec (.repair r) s = .next (ends ((fill.setSlot n put).setTag page (2 ^ 14)) 0 0)))) ∧
    (s.missed (Rg.flashCmdAck.at []) = some miss → exec .cmdAck s = .next (s.noteMiss (Rg.flashCmdAck.at []) miss)) ∧
    (s.missed (Rg.flashCmdAck.at []) = none →
      exec .cmdAck s = .next ((s.setFlash { s.flash with results := s.flash.results.drop 1 }).flashSweep 16)) ∧
    (s.relocates b failed = false → relocate = .next s) ∧
    (s.relocates b failed = true →
      (s.freshBlock ch = none → relocate = .next (if held = [] then s.eraseBlock b failed else s)) ∧
      (s.freshBlock ch = some dest → relocate = .next ((moved.eraseBlock b failed).bump .flashRelocations [] (if held = [] then 0 else 1)))) ∧
    exec (.retentionScrub rs) s = .next (if s.libraryUp then slots.foldl (fun t i => t.scrubEdition i (findings rs i)) s else s) ∧
    (s.flash.failed.contains ch = false → exec (.channelOutOfService channel) s =
      .next ((s.setFlash { s.flash with failed := s.flash.failed ++ [ch] }).channelDown ch)) ∧
    (s.flash.failed.contains ch = true → exec (.channelOutOfService channel) s = .next s) ∧
    (s.libraryUp = false ∨ s.flash.rebuilding.contains ch = false → exec (.channelRebuildDone channel) s = .next s) ∧
    (s.libraryUp = true → s.flash.rebuilding.contains ch = true → exec (.channelRebuildDone channel) s =
      .next (back.bbWrite none 0x41 0 (payloadOf [(0, 1, ch), (1, 1, 2)]))) ∧
    exec .flashRetraining s = .next s

/-- Laser inputs and the states of a port. A lost laser input sets its LOST bit with a record, and with no input left
every port of the engine loses its flits and goes DOWN; a restored one shows OK. A port in LOCK whose rings lock
trains; trained with eight wavelengths it is UP once the partner's LINK_ID has come, with four to seven HALF, and
replays; a training that fails, or the new attempt of a DOWN port that is enabled, moves it to DOWN or TRAIN. A
wavelength that fails ends an audit; on an UP port its lane is taken by the free spare, or stays on the one that
carries it beside the audited wavelength, and without one the port retrains; loss of signal and the replay time
limit retrain it too. How the lanes are mapped and what a failed spare does are the model's readings (logs 136,
137, DEDUCED). -/
def Obligations.OpticalPortsMoveByTheTable : Prop :=
  ∀ (s : State) (engine port wave healthy l : Nat) (b : Bool),
    let lost := ((if b then (s.setf .opticEngStatusLaserBOk [engine] 0).setf .opticEngStatusLaserBLost [engine] 1
      else (s.setf .opticEngStatusLaserAOk [engine] 0).setf .opticEngStatusLaserALost [engine] 1)).bbWrite none 0x50 1
        (payloadOf [(0, 1, 8 * engine), (1, 1, if b then 2 else 1)])
    let dark := (List.range 8).foldl (fun u i =>
      if u.portState (8 * engine + i) = 6 then u
      else (u.losePort (8 * engine + i)).enterPort (8 * engine + i) 6) lost
    let n := ((List.range 9).filter (fun w => healthy.testBit w)).length
    let ix := portIx port
    let up := (s.setv .opticLaneMap ix (mapLanes healthy)).setf .opticPortStateSpareUsed ix
      (bit01 (decide (waveLane (mapLanes healthy) 8 ≠ none)))
    let half := (s.setv .opticLaneMap ix (mapHalf healthy)).setf .opticPortStateSpareUsed ix 0
    let m := s.rv .opticLaneMap ix
    let sp := getBits m 35 32
    let a := (s.port port).audit
    let t := s.setPort port { s.port port with audit := none }
    let spare := if a == some (wave, 2) then 8 else sp
    (engine < 16 → exec (.laserInputLost engine b) s = .next (if lost.laserOk engine then lost else dark)) ∧
    (engine < 16 → exec (.laserInputRestored engine b) s =
      .next (if b then s.setf .opticEngStatusLaserBOk [engine] 1 else s.setf .opticEngStatusLaserAOk [engine] 1)) ∧
    (port < 128 →
      (s.portState port = 1 → exec (.ringsLocked port) s = .next (s.train port)) ∧
      (s.portState port = 2 →
        (8 ≤ n → (s.port port).linkId = true → exec (.portTrained port healthy) s = .next (((up.enterPort port 3).replay port).pump port)) ∧
        (8 ≤ n → (s.port port).linkId = false → exec (.portTrained port healthy) s = .next s) ∧
        (4 ≤ n → n < 8 → exec (.portTrained port healthy) s = .next (((half.enterPort port 4).replay port).pump port)) ∧
        exec (.portTrainTimeout port) s = .next ((s.losePort port).enterPort port 6)) ∧
      (s.portState port = 6 → s.laserOk (port / 8) = true → s.fa .opticPortCtlEnable ix = 1 → exec (.portDownRetry port) s = .next (s.train port)) ∧
      (s.portUp port = true →
        exec (.lossOfSignal port) s = .next (s.train port) ∧
        ((s.port port).kept ≠ [] → exec (.replayTimeout port) s = .next (s.train port)) ∧
        (wave < 9 → sp = wave → exec (.wavelengthFail port wave) s =
          .next (t.setv .opticLaneMap ix (putBits (failWave m wave) 35 32 0xF))) ∧
        (wave < 9 → sp ≠ wave → waveLane m wave = none → exec (.wavelengthFail port wave) s =
          .next (t.setv .opticLaneMap ix (failWave m wave))) ∧
        (wave < 9 → sp ≠ wave → waveLane m wave = some l →
          (s.portState port = 3 → spare ≠ 0xF → exec (.wavelengthFail port wave) s =
            .next ((t.setv .opticLaneMap ix (putBits (setLane (failWave m wave) l spare) 35 32 0xF)).setf
              .opticPortStateSpareUsed ix 1)) ∧
          ((s.portState port = 4 ∨ spare = 0xF) → exec (.wavelengthFail port wave) s =
            .next ((t.setv .opticLaneMap ix (failWave m wave)).train port)))))

/-- Received flits, acknowledgements, the wavelength audit, partner identities and forwarding. The codewords of a flit
are counted, and a flit that a bad one touches, or whose CRC is wrong, is damaged. An intact flit with the next
sequence number is taken: its bytes enter the buffer of its channel, the 64th unacknowledged one is acknowledged
in an idle flit with the credits, and its own acknowledgement is used; a damaged flit, or one out of sequence,
asks for replay once. The acknowledgement timer sends an idle flit. LINK_ID fills the PEER registers. The audit
takes the next wavelength, switches it out onto the spare, which is then not free, counts, and switches back on a
pass, the spare being free again; a failure marks the wavelength and stops the audit of the port. A message for
another module leaves unchanged on its route and is counted, or is discarded and counted, as one for this module
is. Marks: DESIGN CHOICE logs 11, 31; DEDUCED logs 134, 153, 193, 198 (which flits a codeword touches). -/
def Obligations.FlitsAuditsAndForwarding : Prop :=
  ∀ (s : State) (port wave l bits errs w q p typ : Nat) (flit : List Byte) (cws : List Nat) (h : Hdr) (body : List Byte),
    let ix := portIx port
    let hdr := leAt flit 0 8
    let cw := (s.port port).codewords cws
    let damaged : Bool := cw.2.2
    let wrong : Bool := decide (crc32c (flit.take 252) ≠ leAt flit 252 4)
    let read := (s.setPort port cw.1).countFec port cw.2.1
    let seen := if wrong = true then read.bump .opticCrcErr ix 1 else read
    let x := seen.port port
    let vc := bitsOf hdr 37 36
    let f := flitFill 64 ((flit.drop 8).take 244) (x.rxLeft.getD vc 0) 0
    let y := { x with
      rxSeq := (x.rxSeq + 1) % 4096, naking := false, unacked := x.unacked + 1
      rx := if f.1 = 0 then x.rx else x.rx.set vc (x.rx.getD vc [] ++ [f.1])
      freed := if f.1 = 0 then x.freed.set vc ((x.freed.getD vc 0 + 1) % 256) else x.freed
      rxLeft := x.rxLeft.set vc f.2 }
    let nak := (seen.setPort port { x with naking := true }).sendIdle port
    let got := if 64 ≤ x.unacked + 1 then (seen.setPort port y).sendIdle port else seen.setPort port y
    let came := if s.portState port = 2 then s.countRx port else s.consume port 0x01 body.length
    let id := ((came.setPort port { came.port port with linkId := true }).setv .opticPeer0 ix (BitVec.ofNat 64 (leAt body 0 8))).setv .opticPeer1 ix
      (BitVec.ofNat 64 (leAt body 8 8))
    let a := s.port port
    let m := s.rv .opticLaneMap ix
    let t := s.consume port 0x02 3
    let z := t.port port
    let n := t.rv .opticLaneMap ix
    let counted := (s.bump .opticPrbsBits ix bits).bump .opticPrbsErr (ix ++ [w]) errs
    let stop := ((t.setPort port { z with audit := none, auditStop := true }).setv .opticLaneMap ix
      (failWave n wave)).setf .opticPortStateAuditFail ix 1
    let fwd := s.consume port typ body.length
    (port < 128 → s.portUp port = true →
      ((damaged || wrong) = true → bitOf hdr 38 = false → x.naking = false → exec (.flitReceive port flit cws) s = .next nak) ∧
      ((damaged || wrong) = true → (bitOf hdr 38 = true ∨ x.naking = true) → exec (.flitReceive port flit cws) s = .next seen) ∧
      ((damaged || wrong) = false → bitOf hdr 38 = true → exec (.flitReceive port flit cws) s = .next (seen.takeAck port hdr)) ∧
      ((damaged || wrong) = false → bitOf hdr 38 = false →
        (bitsOf hdr 63 52 = (x.rxSeq + 1) % 4096 → exec (.flitReceive port flit cws) s = .next (got.takeAck port hdr)) ∧
        (bitsOf hdr 63 52 ≠ (x.rxSeq + 1) % 4096 → x.naking = true → exec (.flitReceive port flit cws) s =
          .next (seen.takeAck port hdr)) ∧
        (bitsOf hdr 63 52 ≠ (x.rxSeq + 1) % 4096 → x.naking = false → exec (.flitReceive port flit cws) s =
          .next (nak.takeAck port hdr))) ∧
      exec (.ackTimer port) s = .next (s.sendIdle port)) ∧
    (port < 128 → exec (.linkId port body) s = .next (id.setv .opticPeerPort ix (putBits (putBits (putBits (putBits 0 6 0
      (leAt body 16 1)) 47 32 (leAt body 18 2)) 31 16 (leAt body 20 2)) 63 63 1))) ∧
    (port < 128 → s.portState port = 3 → s.fa .opticPortCtlAuditEn ix = 1 →
      (a.auditStop = false → a.audit.all (fun b => b.2 == 0) = true → getBits m 35 32 ≠ 0xF → nextWave m a.auditNext = some w →
        exec (.auditPeriod port) s = .next ((s.setPort port { a with audit := some (w, 0), auditNext := (w + 1) % 9 }).sendLink
          port 0x02 (auditBody w 0 0))) ∧
      (wave < 9 → exec (.auditStart port wave) s =
        .next ((t.setPort port { z with auditRx := some wave }).sendLink port 0x02 (auditBody wave 1 0)))) ∧
    (port < 128 → z.audit = some (wave, 0) → waveLane n wave = some l → exec (.switchOut port wave) s =
      .next (((t.setPort port { z with audit := some (wave, 1) }).setv .opticLaneMap ix (putBits (setLane n l (getBits n 35 32)) 35 32 0xF)).setf
        .opticPortStateSpareUsed ix 1)) ∧
    (a.auditRx = some w → exec (.auditDwellEnd port bits errs) s =
      .next (counted.sendLink port 0x02 (auditBody w 2 (if errs * 100000 < 24 * bits then 0 else 1)))) ∧
    (port < 128 → z.audit = some (wave, 1) →
      (waveLane n 8 = some l → exec (.testEnd port wave 0) s =
        .next (((t.setPort port { z with audit := some (wave, 2) }).setv .opticLaneMap ix (setLane n l wave)).sendLink port 0x02
          (auditBody wave 3 0))) ∧
      exec (.testEnd port wave 1) s = .next ((stop.alert .hubAlertLink).bbWrite none 0x50 1
        (payloadOf [(0, 1, port), (1, 1, 3), (2, 1, wave)]))) ∧
    (port < 128 →
      (z.audit = some (wave, 2) → exec (.switchBack port wave) s =
        .next (((t.setPort port { z with audit := none }).setv .opticLaneMap ix (putBits n 35 32 8)).setf .opticPortStateSpareUsed ix 0)) ∧
      (z.audit = none → z.auditRx = some wave → exec (.switchBack port wave) s =
        .next ((t.setPort port { z with auditRx := none }).sendLink port 0x02 (auditBody wave 3 0)))) ∧
    (fwd.partOfTag h.ptag = none → exec (.messageForward port typ h body) s = .next (fwd.discardMsg port)) ∧
    (fwd.partOfTag h.ptag = some p → h.dst = fwd.coord p → exec (.messageForward port typ h body) s = .next (fwd.discardMsg port)) ∧
    (fwd.partOfTag h.ptag = some p → h.dst ≠ fwd.coord p →
      (fwd.route p h.dst = none → exec (.messageForward port typ h body) s = .next (fwd.discardMsg port)) ∧
      (fwd.route p h.dst = some q → exec (.messageForward port typ h body) s =
        .next ((fwd.bump .opticMsgForward [port % 128 / 8] 1).sendOn q ⟨typ, h, body⟩)))

/-- Fault reports, epoch changes and kills. A silent member with a request outstanding aborts the share with LINK_LOST
naming it, is counted and reported; a received report enters the table. At a member a window that ends forwards
one summary of the counts added and frees its entry; at the lead it ends the merging and the record goes out where
confirmation has ended, an emitted entry is freed when it expires, and a confirmation that times out asks again up
to three times and then is SILENT. FAULT_ACK removes the oldest record. EPOCH_SET with a greater epoch and a
member as lead sets them; any other only sets EPOCH_REFUSED. KILL acts on a formed partition with its CONFIRM
value; any other write is discarded. Marks: DESIGN CHOICE log 197 (what a lead change keeps of PSYNC); DEDUCED
logs 22, 135, 139, 145, 146, 196 (which requests count as outstanding). -/
def Obligations.FaultReportsEpochAndKill : Prop :=
  ∀ (s : State) (p m slot port : Nat) (h : Hdr) (body : List Byte) (w : Word) (e : FaultEntry),
    let x := s.part p
    let silent := (s.abortSteps p Status.linkLost (BitVec.ofNat 64 m) true).bump .partSilentPartners [p] 1
    let got := s.consume port 0x05 body.length
    let freed := s.setPart p { x with faults := x.faults.eraseIdx slot }
    let put (g : FaultEntry) : State := s.setPart p { x with faults := putFault x.faults g }
    (s.formed p = true → s.isMember p m = true → m ≠ s.coord p → s.awaits p m = true →
      exec (.partnerSilent p m) s = .next (silent.faultIn p ⟨m, whereModule, 1⟩ 1 (s.pnow p))) ∧
    (got.accept h = .ok p → exec (.fault port h body) s =
      .next (got.faultIn p ⟨leAt body 0 2 % 4096, leAt body 2 2, leAt body 4 1⟩ (leAt body 16 4) (leAt body 8 8))) ∧
    ((∀ q, got.accept h ≠ .ok q) → exec (.fault port h body) s = .next (got.discardMsg port)) ∧
    (x.faults[slot]? = some e →
      (s.isLead p = false → exec (.faultWindowClose p slot) s =
        .next (if e.added = 0 then freed else freed.forwardFault p e.key e.added e.ts)) ∧
      (s.isLead p = true →
        exec (.leadFaultWindowClose p slot) s = .next ((put { e with windowDone := true }).tryEmit p e.key) ∧
        (e.confirm = none → e.tries < 3 → exec (.confirmationTimeout p slot) s =
          .next ((put { e with tries := e.tries + 1 }).confirmReq p e.key.suspect)) ∧
        (e.confirm = none → 3 ≤ e.tries → exec (.confirmationTimeout p slot) s =
          .next ((put { e with confirm := some 2 }).tryEmit p e.key))) ∧
      (e.emitted = true → exec (.emittedEntryExpire p slot) s = .next freed) ∧
      (e.emitted = false → exec (.emittedEntryExpire p slot) s = .next s)) ∧
    (p < 32 →
      exec (.faultAck p) s = .next (s.setPart p { x with faultQ := x.faultQ.drop 1 }) ∧
      (s.formed p = true → s.epoch p < getBits w 63 32 → s.isMember p (getBits w 11 0) = true →
        exec (.epochSet p w) s = .next (s.setEpoch p w)) ∧
      ((s.formed p = false ∨ getBits w 63 32 ≤ s.epoch p ∨ s.isMember p (getBits w 11 0) = false) →
        exec (.epochSet p w) s = .next (s.setf .partStatusEpochRefused [p] 1))) ∧
    (s.formed p = true → getBits w 15 0 = 0x4B4C → exec (.kill p w) s = .next (s.kill p)) ∧
    ((s.formed p = false ∨ getBits w 15 0 ≠ 0x4B4C) → exec (.kill p w) s = .next s)

/-- A remote request changes no byte of a page that its partition may not write, and a granted line reads back. From
any state in canonical form, an RD_REQ changes no byte of HBM and no owner tag. A WR_REQ changes no owner tag,
changes nothing in HBM where it is not accepted, and changes no byte of a page-tile whose tag does not let its
partition write. A line that a hub path writes at a mapped address of a page its partition owns is accepted, holds
the bytes written and its codeword is without errors. -/
def Obligations.RemoteRequestsRespectOwnership : Prop :=
  ∀ (s t : State) (port p a m x : Nat) (h : Hdr) (body bs : List Byte), s.wf = true →
    (exec (.rdReq port h body) s = .next t → t.hbm.cells = s.hbm.cells ∧ t.hbm.tags = s.hbm.tags) ∧
    (exec (.wrReq port h body) s = .next t →
      t.hbm.tags = s.hbm.tags ∧
      ((∀ q, s.accept h ≠ .ok q) → t.hbm.cells = s.hbm.cells) ∧
      (s.accept h = .ok p → tagAllows (s.hbm.tag (x / 65536)) p true = false → t.hbm.byte x = s.hbm.byte x)) ∧
    (s.variantOffset p a = none → s.place p a = .hbm m → m % 64 = 0 → bs.length = 64 →
      tagAllows (s.hbm.tag (m / 65536)) p true = true →
      let r := s.writePart p 0x1FFF a bs
      r.2 = true ∧ (∀ i < 64, r.1.hbm.byte (m + i) = bs.getD i 0) ∧ r.1.hbm.flaws m = [])
end

