-- ==== Sys2Proof/Laws/Tab.lean ====
section
/-! SUPPORT. The laws of sparse tables: what a read finds after a write, a removal, a restored range and a replaced range,
and that each operation keeps the canonical form. -/

namespace Sys2Proof

variable {α : Type}

/-! ### Reads -/

theorem tabGet_tabIns_same (d : Nat → α) (t : Tab α) (k : Nat) (v : α) : tabGet d (tabIns t k v) k = v := by
  induction t with
  | nil => simp [tabIns, tabGet]
  | cons e t ih =>
    simp only [tabIns]
    split
    · simp [tabGet]
    · split
      · simp [tabGet]
      · rename_i h; simp [tabGet, h, ih]

theorem tabGet_tabIns_ne (d : Nat → α) (t : Tab α) {k j : Nat} (v : α) (h : j ≠ k) :
    tabGet d (tabIns t k v) j = tabGet d t j := by
  induction t with
  | nil => simp [tabIns, tabGet, h]
  | cons e t ih =>
    simp only [tabIns]
    split
    · simp [tabGet, h]
    · split
      · rename_i hk; subst hk; simp [tabGet, h]
      · simp [tabGet, ih]

theorem tabGet_tabDel_ne (d : Nat → α) (t : Tab α) {k j : Nat} (h : j ≠ k) :
    tabGet d (tabDel t k) j = tabGet d t j := by
  induction t with
  | nil => rfl
  | cons e t ih =>
    simp only [tabDel]
    split
    · rename_i hk; subst hk; simp [tabGet, h, ih]
    · simp [tabGet, ih]

/-- A sorted table lists no key at or below a bound that its first key exceeds. -/
theorem tabGet_below (d : Nat → α) (t : Tab α) (k : Nat) (h : ∀ e ∈ t, k < e.1) : tabGet d t k = d k := by
  induction t with
  | nil => rfl
  | cons e t ih =>
    have h1 := h e (by simp)
    simp only [tabGet]
    rw [if_neg (by omega)]
    exact ih (fun x hx => h x (by simp [hx]))

/-! ### Order -/

theorem tabSorted_iff (t : Tab α) : tabSorted t = true ↔ t.Pairwise (fun a b => a.1 < b.1) := by
  induction t with
  | nil => simp [tabSorted]
  | cons e t ih =>
    cases t with
    | nil => simp [tabSorted]
    | cons f t =>
      simp only [tabSorted, Bool.and_eq_true, decide_eq_true_eq, ih]
      rw [List.pairwise_cons (l := f :: t)]
      constructor
      · rintro ⟨h, p⟩
        refine ⟨fun x hx => ?_, p⟩
        rcases List.mem_cons.1 hx with rfl | hx
        · exact h
        · exact Nat.lt_trans h ((List.pairwise_cons.1 p).1 x hx)
      · rintro ⟨h, p⟩
        exact ⟨h f (by simp), p⟩

theorem tabGet_tabDel_same (d : Nat → α) (t : Tab α) (k : Nat) : tabGet d (tabDel t k) k = d k := by
  induction t with
  | nil => rfl
  | cons e t ih =>
    simp only [tabDel]
    split
    · exact ih
    · rename_i hk
      simp [tabGet, hk, ih]

/-- A read after a write at the same key. -/
theorem tabGet_tabSet_same [DecidableEq α] (d : Nat → α) (t : Tab α) (k : Nat) (v : α) (_h : tabSorted t = true) :
    tabGet d (tabSet d t k v) k = v := by
  unfold tabSet
  split
  · rename_i hv; rw [tabGet_tabDel_same d t k, hv]
  · exact tabGet_tabIns_same d t k v

/-- A read after a write at another key. -/
theorem tabGet_tabSet_ne [DecidableEq α] (d : Nat → α) (t : Tab α) {k j : Nat} (v : α) (h : j ≠ k) :
    tabGet d (tabSet d t k v) j = tabGet d t j := by
  unfold tabSet
  split
  · exact tabGet_tabDel_ne d t h
  · exact tabGet_tabIns_ne d t v h

theorem tabGet_filter (d : Nat → α) (t : Tab α) (p : Nat → Bool) (k : Nat) :
    tabGet d (t.filter (fun e => p e.1)) k = if p k then tabGet d t k else d k := by
  induction t with
  | nil => simp [tabGet]
  | cons e t ih =>
    simp only [List.filter_cons]
    by_cases hp : p e.1 = true
    · simp only [hp, if_true, tabGet]
      split
      · rename_i h; subst h; simp [hp]
      · exact ih
    · rw [if_neg hp, ih]
      simp only [tabGet]
      by_cases hk : k = e.1
      · rw [hk, if_neg hp, if_neg hp]
      · rw [if_neg hk]

/-- A read after a range has been restored. -/
theorem tabGet_tabClear (d : Nat → α) (t : Tab α) (lo hi k : Nat) :
    tabGet d (tabClear t lo hi) k = if lo ≤ k ∧ k < hi then d k else tabGet d t k := by
  unfold tabClear
  rw [tabGet_filter d t (fun j => !(decide (lo ≤ j) && decide (j < hi)))]
  by_cases h : lo ≤ k ∧ k < hi
  · rw [if_pos h]; simp [h.1, h.2]
  · rw [if_neg h]
    rw [if_pos]
    simp only [Bool.not_eq_true', Bool.and_eq_false_iff, decide_eq_false_iff_not]
    omega

/-- A table that lists a key below or above a bound only elsewhere. -/
theorem tabGet_append_left (d : Nat → α) (t u : Tab α) (k : Nat) (h : ∀ e ∈ u, e.1 ≠ k) :
    tabGet d (t ++ u) k = tabGet d t k := by
  induction t with
  | nil =>
    induction u with
    | nil => rfl
    | cons e u ih =>
      simp only [List.nil_append, tabGet] at ih ⊢
      rw [if_neg (fun c => h e (by simp) c.symm)]
      exact ih (fun x hx => h x (by simp [hx]))
  | cons e t ih => simp only [List.cons_append, tabGet, ih]

theorem tabGet_append_right (d : Nat → α) (t u : Tab α) (k : Nat) (h : ∀ e ∈ t, e.1 ≠ k) :
    tabGet d (t ++ u) k = tabGet d u k := by
  induction t with
  | nil => rfl
  | cons e t ih =>
    simp only [List.cons_append, tabGet]
    rw [if_neg (fun c => h e (by simp) c.symm)]
    exact ih (fun x hx => h x (by simp [hx]))

/-- A read after a range has been replaced by another table's entries. -/
theorem tabGet_tabReplace (d : Nat → α) (t u : Tab α) {lo hi : Nat} (hl : lo ≤ hi) (k : Nat) :
    tabGet d (tabReplace t u lo hi) k = if lo ≤ k ∧ k < hi then tabGet d u k else tabGet d t k := by
  have hs : tabGet d (tabSlice u lo hi) k = if lo ≤ k ∧ k < hi then tabGet d u k else d k := by
    unfold tabSlice
    rw [tabGet_filter d u (fun j => decide (lo ≤ j) && decide (j < hi))]
    simp
  unfold tabReplace
  by_cases h1 : lo ≤ k
  · by_cases h2 : k < hi
    · rw [tabGet_append_left, tabGet_append_right, hs, if_pos ⟨h1, h2⟩, if_pos ⟨h1, h2⟩]
      · intro e he
        have := (List.mem_filter.1 he).2
        simp only [decide_eq_true_eq] at this
        omega
      · intro e he
        have := (List.mem_filter.1 he).2
        simp only [decide_eq_true_eq] at this
        omega
    · rw [if_neg (by omega), tabGet_append_right, tabGet_filter d t (fun j => decide (hi ≤ j))]
      · rw [if_pos (by simpa using Nat.le_of_not_lt h2)]
      · intro e he
        rcases List.mem_append.1 he with he | he
        · have := (List.mem_filter.1 he).2
          simp only [decide_eq_true_eq] at this
          omega
        · unfold tabSlice at he
          have := (List.mem_filter.1 he).2
          simp only [Bool.and_eq_true, decide_eq_true_eq] at this
          omega
  · rw [if_neg (by omega), List.append_assoc, tabGet_append_left, tabGet_filter d t (fun j => decide (j < lo))]
    · rw [if_pos (by simpa using Nat.lt_of_not_le h1)]
    · intro e he
      rcases List.mem_append.1 he with he | he
      · unfold tabSlice at he
        have := (List.mem_filter.1 he).2
        simp only [Bool.and_eq_true, decide_eq_true_eq] at this
        omega
      · have := (List.mem_filter.1 he).2
        simp only [decide_eq_true_eq] at this
        omega

/-! ### The canonical form -/

/-- The canonical form, as a proposition: keys rise, and no entry holds its default. -/
theorem tabWf_iff [DecidableEq α] (d : Nat → α) (t : Tab α) :
    tabWf d t = true ↔ t.Pairwise (fun a b => a.1 < b.1) ∧ ∀ e ∈ t, e.2 ≠ d e.1 := by
  simp [tabWf, tabSorted_iff]

theorem tabWf.sorted [DecidableEq α] {d : Nat → α} {t : Tab α} (h : tabWf d t = true) : tabSorted t = true := by
  simp only [tabWf, Bool.and_eq_true] at h
  exact h.1

theorem tabWf_filter [DecidableEq α] {d : Nat → α} {t : Tab α} (p : Nat × α → Bool) (h : tabWf d t = true) :
    tabWf d (t.filter p) = true := by
  rw [tabWf_iff] at *
  exact ⟨h.1.filter p, fun e he => h.2 e (List.mem_filter.1 he).1⟩

theorem mem_tabIns (t : Tab α) (k : Nat) (v : α) {e : Nat × α} (h : e ∈ tabIns t k v) : e = (k, v) ∨ e ∈ t := by
  induction t with
  | nil => simpa [tabIns] using h
  | cons f t ih =>
    simp only [tabIns] at h
    split at h
    · simpa using h
    · split at h
      · rcases List.mem_cons.1 h with h | h
        · exact .inl h
        · exact .inr (by simp [h])
      · rcases List.mem_cons.1 h with h | h
        · exact .inr (by simp [h])
        · rcases ih h with h | h
          · exact .inl h
          · exact .inr (by simp [h])

theorem tabIns_pairwise (t : Tab α) (k : Nat) (v : α) (h : t.Pairwise (fun a b => a.1 < b.1)) :
    (tabIns t k v).Pairwise (fun a b => a.1 < b.1) := by
  induction t with
  | nil => simp [tabIns]
  | cons f t ih =>
    have h0 := h
    rw [List.pairwise_cons] at h
    simp only [tabIns]
    split
    · rename_i hk
      refine List.pairwise_cons.2 ⟨fun x hx => ?_, h0⟩
      rcases List.mem_cons.1 hx with rfl | hx
      · exact hk
      · exact Nat.lt_trans hk (h.1 x hx)
    · split
      · rename_i hk
        exact List.pairwise_cons.2 ⟨fun x hx => hk ▸ h.1 x hx, h.2⟩
      · refine List.pairwise_cons.2 ⟨fun x hx => ?_, ih h.2⟩
        rcases mem_tabIns t k v hx with rfl | hx
        · show f.1 < k; omega
        · exact h.1 x hx

theorem tabDel_sublist (t : Tab α) (k : Nat) : (tabDel t k).Sublist t := by
  induction t with
  | nil => exact List.Sublist.slnil
  | cons f t ih =>
    simp only [tabDel]
    split
    · exact ih.trans (List.sublist_cons_self f t)
    · exact ih.cons_cons f

/-- A write keeps the canonical form. -/
theorem tabWf_tabSet [DecidableEq α] {d : Nat → α} {t : Tab α} (k : Nat) (v : α) (h : tabWf d t = true) :
    tabWf d (tabSet d t k v) = true := by
  rw [tabWf_iff] at *
  unfold tabSet
  split
  · exact ⟨h.1.sublist (tabDel_sublist t k), fun e he => h.2 e ((tabDel_sublist t k).subset he)⟩
  · rename_i hv
    refine ⟨tabIns_pairwise t k v h.1, fun e he => ?_⟩
    rcases mem_tabIns t k v he with rfl | he
    · exact hv
    · exact h.2 e he

/-- Restoring a range keeps the canonical form. -/
theorem tabWf_tabClear [DecidableEq α] {d : Nat → α} {t : Tab α} (lo hi : Nat) (h : tabWf d t = true) :
    tabWf d (tabClear t lo hi) = true := tabWf_filter _ h

/-- Replacing a range by another table's keeps the canonical form. -/
theorem tabWf_tabReplace [DecidableEq α] {d : Nat → α} {t u : Tab α} {lo hi : Nat} (hlo : lo ≤ hi)
    (h : tabWf d t = true) (k : tabWf d u = true) : tabWf d (tabReplace t u lo hi) = true := by
  rw [tabWf_iff] at *
  unfold tabReplace tabSlice
  refine ⟨?_, fun e he => ?_⟩
  · rw [List.pairwise_append, List.pairwise_append]
    refine ⟨⟨h.1.filter _, k.1.filter _, fun a ha b hb => ?_⟩, h.1.filter _, fun a ha b hb => ?_⟩
    · simp only [List.mem_filter, Bool.and_eq_true, decide_eq_true_eq] at ha hb
      omega
    · simp only [List.mem_append, List.mem_filter, Bool.and_eq_true, decide_eq_true_eq] at ha hb
      omega
  · simp only [List.mem_append, List.mem_filter] at he
    rcases he with (he | he) | he
    · exact h.2 e he.1
    · exact k.2 e he.1
    · exact h.2 e he.1

end Sys2Proof
end

