-- ==== Sys2Proof/Laws/Keeps.lean ====
section
/-! SUPPORT. What every operation on the state keeps: the queue of waiting commands, the outputs already made, the canonical
form of memory and registers, and the ratchets. -/

namespace Sys2Proof.Machine

open Sys2Proof

/-- What holds between a state and every state that a step reaches from it. -/
structure Holds (s t : State) : Prop where
  pend : t.pending = s.pending
  outs : s.out <+: t.out
  wf : s.wf = true → t.wf = true
  ratchets : s.ratchets t

/-- The same, and module time stands: every command but START_UP and ALL_POWER_LOST. -/
structure Keeps (s t : State) : Prop extends Holds s t where
  clock : t.now = s.now

/-- A command's outcome keeps what Holds says. -/
inductive HoldsOut (s : State) : Host.Outcome State Fault Refusal → Prop where
  | next {t : State} (h : Holds s t) : HoldsOut s (.next t)

/-- A command's outcome keeps what Keeps says. -/
inductive KeepsOut (s : State) : Host.Outcome State Fault Refusal → Prop where
  | next {t : State} (h : Keeps s t) : KeepsOut s (.next t)

/-- The same of an operation that may give no state. -/
structure KeepsSome (s : State) (o : Option State) : Prop where
  get : ∀ t, o = some t → Keeps s t

/-- The same of an operation that may give no state, beside a value. -/
structure KeepsPair {α : Type} (s : State) (o : Option (State × α)) : Prop where
  get : ∀ t a, o = some (t, a) → Keeps s t

theorem Keeps.refl (s : State) : Keeps s s :=
  ⟨⟨rfl, List.prefix_refl _, id, Nat.le_refl _, id, Nat.le_refl _, Nat.le_refl _⟩, rfl⟩

theorem Holds.trans {s t u : State} (h : Holds s t) (k : Holds t u) : Holds s u :=
  ⟨k.pend.trans h.pend, h.outs.trans k.outs, fun w => k.wf (h.wf w), Nat.le_trans h.ratchets.1 k.ratchets.1,
    fun w => k.ratchets.2.1 (h.ratchets.2.1 w), Nat.le_trans h.ratchets.2.2.1 k.ratchets.2.2.1,
    Nat.le_trans h.ratchets.2.2.2 k.ratchets.2.2.2⟩

theorem Keeps.trans {s t u : State} (h : Keeps s t) (k : Keeps t u) : Keeps s u :=
  ⟨h.toHolds.trans k.toHolds, k.clock.trans h.clock⟩

theorem KeepsOut.holds {s : State} {o : Host.Outcome State Fault Refusal} (h : KeepsOut s o) : HoldsOut s o := by
  cases h with
  | next h => exact .next h.toHolds

theorem HoldsOut.after {s t : State} {o : Host.Outcome State Fault Refusal} (h : Holds s t) (k : HoldsOut t o) :
    HoldsOut s o := by
  cases k with
  | next k => exact .next (h.trans k)

theorem keeps_cut {p q : Prop} (h : p) (k : p → q) : q := k h

theorem KeepsSome.none {s : State} : KeepsSome s none := ⟨fun _ h => nomatch h⟩

theorem KeepsSome.some {s t : State} (h : Keeps s t) : KeepsSome s (some t) :=
  ⟨fun u e => by cases e; exact h⟩

theorem KeepsPair.none {α : Type} {s : State} : KeepsPair (α := α) s none := ⟨fun _ _ h => nomatch h⟩

theorem KeepsPair.some {α : Type} {s t : State} {a : α} (h : Keeps s t) : KeepsPair s (some (t, a)) :=
  ⟨fun u b e => by cases e; exact h⟩

theorem KeepsPair.map {α : Type} {s : State} {o : Option State} {f : State → State × α} (h : KeepsSome s o)
    (k : ∀ u, Keeps s u → Keeps s (f u).1) : KeepsPair s (o.map f) := by
  refine ⟨fun t a e => ?_⟩
  cases o with
  | none => simp at e
  | some u =>
    have e := Option.some.inj e
    exact (e ▸ k u (h.get u rfl) : Keeps s (t, a).1)

theorem KeepsSome.map {s : State} {o : Option State} {f : State → State} (h : KeepsSome s o)
    (k : ∀ u, Keeps s u → Keeps s (f u)) : KeepsSome s (o.map f) := by
  refine ⟨fun t e => ?_⟩
  cases o with
  | none => simp at e
  | some u => exact Option.some.inj e ▸ k u (h.get u rfl)

theorem KeepsSome.getD {s t : State} {o : Option State} (h : KeepsSome s o) (k : Keeps s t) : Keeps s (o.getD t) := by
  cases o with
  | none => exact k
  | some u => exact h.get u rfl

theorem KeepsSome.foldlM {α : Type} {s t : State} {f : State → α → Option State} {l : List α} (h : Keeps s t)
    (k : ∀ u x, Keeps s u → KeepsSome s (f u x)) : KeepsSome s (l.foldlM f t) := by
  induction l generalizing t with
  | nil => exact KeepsSome.some h
  | cons a l ih =>
    simp only [List.foldlM]
    refine ⟨fun u e => ?_⟩
    obtain ⟨v, hv, e⟩ := Option.bind_eq_some_iff.1 e
    exact (ih ((k t a h).get v hv)).get u e

/-- Any change that leaves the queue, the outputs, memory, registers, the seal unit and the black box alone. -/
theorem mk_keeps {s u : State} (h : Keeps s u) {b c d e f g i j k l q r v m n o p : _} :
    Keeps s ⟨u.pending, u.out, u.now, b, u.regs, c, d, u.hbm, e, f, g, i, j, k, l, q, r, v, u.bbox, u.sealUnit, m, n, o, p⟩ :=
  ⟨⟨h.pend, h.outs, h.wf, h.ratchets⟩, h.clock⟩

theorem rebuilt_holds {t u : State} (hp : u.pending = t.pending) (ho : u.out = t.out) (hw : u.wf = true)
    (hr : t.ratchets u) : Holds t u :=
  ⟨hp, ho ▸ List.prefix_refl _, fun _ => hw, hr⟩

theorem foldl_keeps {α : Type} {s t : State} {f : State → α → State} {l : List α} (h : Keeps s t)
    (k : ∀ u x, Keeps s u → Keeps s (f u x)) : Keeps s (l.foldl f t) := by
  induction l generalizing t with
  | nil => exact h
  | cons a l ih => exact ih (k _ _ h)

theorem foldl_fst_keeps {α β : Type} {s : State} {t : State × β} {f : State × β → α → State × β} {l : List α}
    (h : Keeps s t.1) (k : ∀ u x, Keeps s u.1 → Keeps s (f u x).1) : Keeps s (l.foldl f t).1 := by
  induction l generalizing t with
  | nil => exact h
  | cons a l ih => exact ih (k _ _ h)

theorem foldl_snd_keeps {α β : Type} {s : State} {t : β × State} {f : β × State → α → β × State} {l : List α}
    (h : Keeps s t.2) (k : ∀ u x, Keeps s u.2 → Keeps s (f u x).2) : Keeps s (l.foldl f t).2 := by
  induction l generalizing t with
  | nil => exact h
  | cons a l ih => exact ih (k _ _ h)

/-! ### The operations that touch what Keeps speaks of -/

theorem State.setRegs_keeps {s t : State} (h : Keeps s t) {r : Regs} (k : Regs.wf t.regs = true → Regs.wf r = true) :
    Keeps s (t.setRegs r) := by
  refine ⟨⟨h.pend, h.outs, fun w => ?_, h.ratchets⟩, h.clock⟩
  have w := h.wf w
  simp only [State.wf, Bool.and_eq_true] at w ⊢
  exact ⟨w.1, k w.2⟩

theorem State.setHbm_keeps {s t : State} (h : Keeps s t) {x : Hbm}
    (k : Memory.wf t.hbm.cells = true → Memory.wf x.cells = true) : Keeps s (t.setHbm x) := by
  refine ⟨⟨h.pend, h.outs, fun w => ?_, h.ratchets⟩, h.clock⟩
  have w := h.wf w
  simp only [State.wf, Bool.and_eq_true] at w ⊢
  exact ⟨k w.1, w.2⟩

/-- A change of the HBM that leaves its cells alone. -/
theorem State.setHbm_cells_keeps {s t : State} (h : Keeps s t) {x : Hbm} (k : x.cells = t.hbm.cells) :
    Keeps s (t.setHbm x) := State.setHbm_keeps h (fun w => k ▸ w)

theorem State.setSeal_keeps {s t : State} (h : Keeps s t) {x : Seal} (k1 : t.sealUnit.fused ≤ x.fused)
    (k2 : t.sealUnit.primaryRevoked = true → x.primaryRevoked = true) (k3 : t.sealUnit.nonce ≤ x.nonce) :
    Keeps s (t.setSeal x) :=
  ⟨⟨h.pend, h.outs, h.wf, Nat.le_trans h.ratchets.1 k1, fun w => k2 (h.ratchets.2.1 w),
    Nat.le_trans h.ratchets.2.2.1 k3, h.ratchets.2.2.2⟩, h.clock⟩

theorem State.setBBox_keeps {s t : State} (h : Keeps s t) {x : BBox} (k : t.bbox.boots ≤ x.boots) :
    Keeps s (t.setBBox x) :=
  ⟨⟨h.pend, h.outs, h.wf, h.ratchets.1, h.ratchets.2.1, h.ratchets.2.2.1, Nat.le_trans h.ratchets.2.2.2 k⟩, h.clock⟩

theorem State.setSwapKeys_keeps {s t : State} (h : Keeps s t) (x : Tab Nat) :
    Keeps s (t.setSeal { t.sealUnit with swapKeys := x }) :=
  State.setSeal_keeps h (Nat.le_refl _) id (Nat.le_refl _)

theorem State.setTrngFail_keeps {s t : State} (h : Keeps s t) (x : Bool) :
    Keeps s (t.setSeal { t.sealUnit with trngFail := x }) :=
  State.setSeal_keeps h (Nat.le_refl _) id (Nat.le_refl _)

theorem BBox.save_boots (b : BBox) : b.save.boots = b.boots := by
  cases b
  rfl

theorem State.setSave_keeps {s t : State} (h : Keeps s t) : Keeps s (t.setBBox t.bbox.save) :=
  State.setBBox_keeps h (Nat.le_of_eq (BBox.save_boots _).symm)

theorem State.emits_keeps {s t : State} (h : Keeps s t) (o : List Out) : Keeps s (t.emits o) :=
  ⟨⟨h.pend, h.outs.trans (List.prefix_append _ _), h.wf, h.ratchets⟩, h.clock⟩

theorem Regs.wf_mk {a b c d : Tab Word} : Regs.wf ⟨a, b, c, d⟩ = true ↔
    tabWf valReset a = true ∧ tabWf rwsReset b = true ∧ tabWf rwsReset c = true ∧ tabWf rwsReset d = true := by
  simp [Regs.wf, and_assoc]

theorem State.setv_keeps {s t : State} (h : Keeps s t) (r : Rg) (ix : List Nat) (w : Word) : Keeps s (t.setv r ix w) :=
  State.setRegs_keeps h fun k => by
    rw [Regs.wf_mk] at *
    exact ⟨tabWf_tabSet _ _ k.1, k.2⟩

theorem State.sets_keeps {s t : State} (h : Keeps s t) (r : Rg) (ix : List Nat) (w : Word) : Keeps s (t.sets r ix w) :=
  State.setRegs_keeps h fun k => by
    rw [Regs.wf_mk] at *
    exact ⟨k.1, k.2.1, tabWf_tabSet _ _ k.2.2.1, k.2.2.2⟩

theorem State.setAll_keeps {s t : State} (h : Keeps s t) (r : Rg) (ix : List Nat) (w : Word) :
    Keeps s (t.setAll r ix w) :=
  State.setRegs_keeps h fun k => by
    rw [Regs.wf_mk] at *
    exact ⟨k.1, tabWf_tabSet _ _ k.2.1, tabWf_tabSet _ _ k.2.2.1, tabWf_tabSet _ _ k.2.2.2⟩

theorem State.resetRange_keeps {s t : State} (h : Keeps s t) (lo hi : Nat) : Keeps s (t.resetRange lo hi) :=
  State.setRegs_keeps h fun k => by
    rw [Regs.wf_mk] at *
    exact ⟨tabWf_tabClear _ _ k.1, tabWf_tabClear _ _ k.2.1, tabWf_tabClear _ _ k.2.2.1, tabWf_tabClear _ _ k.2.2.2⟩

theorem State.setf_keeps {s t : State} (h : Keeps s t) (f : Fld) (ix : List Nat) (n : Nat) : Keeps s (t.setf f ix n) :=
  State.setv_keeps h _ _ _

theorem State.bump_keeps {s t : State} (h : Keeps s t) (r : Rg) (ix : List Nat) (k : Nat) : Keeps s (t.bump r ix k) :=
  State.setv_keeps h _ _ _

/-! ### Memory operations keep the canonical form -/

theorem putBytes_wf {m : List (Nat × Byte)} (a : Nat) (bs : List Byte) (h : Memory.wf m = true) :
    Memory.wf (putBytes m a bs) = true := by
  induction bs generalizing m a with
  | nil => exact h
  | cons b bs ih => exact ih _ (tabWf_tabSet _ _ h)

theorem Hbm.putLine_wf {h : Hbm} (a : Nat) (bs : List Byte) (w : Memory.wf h.cells = true) :
    Memory.wf (h.putLine a bs).cells = true := putBytes_wf _ _ w

theorem Hbm.zeroPage_wf {h : Hbm} (q : Nat) (w : Memory.wf h.cells = true) : Memory.wf (h.zeroPage q).cells = true :=
  tabWf_tabClear _ _ w

theorem Hbm.loseDie_wf {h : Hbm} (d : Nat) (w : Memory.wf h.cells = true) : Memory.wf (h.loseDie d).cells = true :=
  tabWf_tabClear _ _ (tabWf_tabClear _ _ w)

theorem Hbm.mend_wf {h : Hbm} (a : Nat) (w : Memory.wf h.cells = true) : Memory.wf (h.mend a).cells = true := by
  unfold Hbm.mend
  induction tileLines a generalizing h with
  | nil => exact w
  | cons c l ih =>
    refine ih ?_
    dsimp only
    split
    · exact Hbm.putLine_wf _ _ w
    · exact w

/-- The bytes of a page fill, listed without zeros, are in canonical form. -/
theorem fill_wf (bs : List Byte) (lo n : Nat) :
    Memory.wf (((bs.zipIdx n).map (fun b => (lo + b.2, b.1))).filter (fun e => e.2 != 0)) = true := by
  unfold Memory.wf
  rw [tabWf_iff]
  refine ⟨List.Pairwise.filter _ ?_, fun e he => ?_⟩
  · rw [List.pairwise_map]
    induction bs generalizing n with
    | nil => exact List.Pairwise.nil
    | cons b bs ih =>
      rw [List.zipIdx_cons]
      refine List.pairwise_cons.2 ⟨fun x hx => ?_, ih (n + 1)⟩
      have := (List.mem_zipIdx hx).1
      simp only
      omega
  · have := (List.mem_filter.1 he).2
    simpa using this

/-- The state after reset is in canonical form. -/
theorem State.reset_wf : State.reset.wf = true := rfl

end Sys2Proof.Machine
end

