-- ==== Sys2Proof/Laws/KeepsOps.lean ====
section
/-! SUPPORT. What the operations and commands of registers, outputs, messages, faults, stalls, HBM and operands keep. -/

namespace Sys2Proof.Machine

open Sys2Proof

set_option linter.unusedTactic false
set_option linter.unreachableTactic false

theorem State.setHost_keeps {s t : State} (h : Keeps s t) (x : HostPort) : Keeps s (State.setHost t x) := by
  delta State.setHost
  repeat' first
    | with_reducible first
      | assumption | apply foldl_keeps | apply foldl_fst_keeps | apply foldl_snd_keeps | apply KeepsSome.getD
      | intro _ | fail_if_no_progress apply mk_keeps
    | (fail_if_no_progress extract_lets +onlyGivenNames z
       first
         | (with_reducible refine keeps_cut (p := Keeps s z) ?_ ?_
            on_goal 2 => (intro _; clear_value z)
            on_goal 1 => try dsimp -zeta only [z])
         | (with_reducible refine keeps_cut (p := Keeps s z.1) ?_ ?_
            on_goal 2 => (intro _)
            on_goal 1 => try dsimp -zeta only [z])
         | (with_reducible refine keeps_cut (p := ∀ u x, Keeps s u → Keeps s (z u x)) ?_ ?_
            on_goal 2 => (intro _; clear_value z)
            on_goal 1 => try dsimp -zeta only [z])
         | (with_reducible refine keeps_cut (p := ∀ u, Keeps s u → Keeps s (z u)) ?_ ?_
            on_goal 2 => (intro _; clear_value z)
            on_goal 1 => try dsimp -zeta only [z])
         | (with_reducible refine keeps_cut (p := ∀ x, Keeps s (z x)) ?_ ?_
            on_goal 2 => (intro _; clear_value z)
            on_goal 1 => try dsimp -zeta only [z])
         | clear_value z | skip)
    | split
    | dsimp -zeta only
    | with_reducible apply_assumption

theorem State.emit_keeps {s t : State} (h : Keeps s t) (o : Out) : Keeps s (State.emit t o) := by
  delta State.emit
  repeat' first
    | with_reducible first
      | assumption | apply State.emits_keeps

theorem State.msix_keeps {s t : State} (h : Keeps s t) (v : Nat) : Keeps s (State.msix t v) := by
  delta State.msix
  repeat' first
    | with_reducible first
      | assumption | apply State.setHost_keeps | apply State.emit_keeps | fail_if_no_progress apply mk_keeps
    | split

theorem State.setPart_keeps {s t : State} (h : Keeps s t) (p : Nat) (x : Part) : Keeps s (State.setPart t p x) := by
  delta State.setPart
  repeat' first
    | with_reducible first
      | assumption | apply foldl_keeps | apply foldl_fst_keeps | apply foldl_snd_keeps | apply KeepsSome.getD
      | intro _ | fail_if_no_progress apply mk_keeps
    | (fail_if_no_progress extract_lets +onlyGivenNames z
       first
         | (with_reducible refine keeps_cut (p := Keeps s z) ?_ ?_
            on_goal 2 => (intro _; clear_value z)
            on_goal 1 => try dsimp -zeta only [z])
         | (with_reducible refine keeps_cut (p := Keeps s z.1) ?_ ?_
            on_goal 2 => (intro _)
            on_goal 1 => try dsimp -zeta only [z])
         | (with_reducible refine keeps_cut (p := ∀ u x, Keeps s u → Keeps s (z u x)) ?_ ?_
            on_goal 2 => (intro _; clear_value z)
            on_goal 1 => try dsimp -zeta only [z])
         | (with_reducible refine keeps_cut (p := ∀ u, Keeps s u → Keeps s (z u)) ?_ ?_
            on_goal 2 => (intro _; clear_value z)
            on_goal 1 => try dsimp -zeta only [z])
         | (with_reducible refine keeps_cut (p := ∀ x, Keeps s (z x)) ?_ ?_
            on_goal 2 => (intro _; clear_value z)
            on_goal 1 => try dsimp -zeta only [z])
         | clear_value z | skip)
    | split
    | dsimp -zeta only
    | with_reducible apply_assumption

theorem State.setTime_keeps {s t : State} (h : Keeps s t) (p : Nat) (x : PTime) : Keeps s (State.setTime t p x) := by
  delta State.setTime
  repeat' first
    | with_reducible first
      | assumption | apply State.setPart_keeps

theorem State.noteMiss_keeps {s t : State} (h : Keeps s t) (a d : Nat) : Keeps s (State.noteMiss t a d) := by
  delta State.noteMiss
  repeat' first
    | with_reducible first
      | assumption | apply State.setf_keeps | apply State.setv_keeps
    | split

theorem State.bbPut_keeps {s t : State} (h : Keeps s t) (p : Option Nat) (a b c : Nat) : Keeps s (t.bbPut p a b c) := by
  unfold State.bbPut
  split
  · exact State.setBBox_keeps h (Nat.le_refl _)
  · exact State.setBBox_keeps (State.bump_keeps h _ _ _) (Nat.le_refl _)

theorem State.alert_keeps {s t : State} (h : Keeps s t) (f : Fld) : Keeps s (State.alert t f) := by
  delta State.alert
  repeat' first
    | with_reducible first
      | assumption | apply State.setf_keeps | apply State.emit_keeps
    | (fail_if_no_progress extract_lets +onlyGivenNames z
       first
         | (with_reducible refine keeps_cut (p := Keeps s z) ?_ ?_
            on_goal 2 => (intro _; clear_value z)
            on_goal 1 => try dsimp -zeta only [z])
         | clear_value z | skip)
    | split

theorem State.setSite_keeps {s t : State} (h : Keeps s t) (i : Nat) (x : Site) : Keeps s (State.setSite t i x) := by
  delta State.setSite
  repeat' first
    | with_reducible first
      | assumption | apply foldl_keeps | apply foldl_fst_keeps | apply foldl_snd_keeps | apply KeepsSome.getD
      | intro _ | fail_if_no_progress apply mk_keeps
    | (fail_if_no_progress extract_lets +onlyGivenNames z
       first
         | (with_reducible refine keeps_cut (p := Keeps s z) ?_ ?_
            on_goal 2 => (intro _; clear_value z)
            on_goal 1 => try dsimp -zeta only [z])
         | (with_reducible refine keeps_cut (p := Keeps s z.1) ?_ ?_
            on_goal 2 => (intro _)
            on_goal 1 => try dsimp -zeta only [z])
         | (with_reducible refine keeps_cut (p := ∀ u x, Keeps s u → Keeps s (z u x)) ?_ ?_
            on_goal 2 => (intro _; clear_value z)
            on_goal 1 => try dsimp -zeta only [z])
         | (with_reducible refine keeps_cut (p := ∀ u, Keeps s u → Keeps s (z u)) ?_ ?_
            on_goal 2 => (intro _; clear_value z)
            on_goal 1 => try dsimp -zeta only [z])
         | (with_reducible refine keeps_cut (p := ∀ x, Keeps s (z x)) ?_ ?_
            on_goal 2 => (intro _; clear_value z)
            on_goal 1 => try dsimp -zeta only [z])
         | clear_value z | skip)
    | split
    | dsimp -zeta only
    | with_reducible apply_assumption

theorem State.setPower_keeps {s t : State} (h : Keeps s t) (x : Power) : Keeps s (State.setPower t x) := by
  delta State.setPower
  repeat' first
    | with_reducible first
      | assumption | apply foldl_keeps | apply foldl_fst_keeps | apply foldl_snd_keeps | apply KeepsSome.getD
      | intro _ | fail_if_no_progress apply mk_keeps
    | (fail_if_no_progress extract_lets +onlyGivenNames z
       first
         | (with_reducible refine keeps_cut (p := Keeps s z) ?_ ?_
            on_goal 2 => (intro _; clear_value z)
            on_goal 1 => try dsimp -zeta only [z])
         | (with_reducible refine keeps_cut (p := Keeps s z.1) ?_ ?_
            on_goal 2 => (intro _)
            on_goal 1 => try dsimp -zeta only [z])
         | (with_reducible refine keeps_cut (p := ∀ u x, Keeps s u → Keeps s (z u x)) ?_ ?_
            on_goal 2 => (intro _; clear_value z)
            on_goal 1 => try dsimp -zeta only [z])
         | (with_reducible refine keeps_cut (p := ∀ u, Keeps s u → Keeps s (z u)) ?_ ?_
            on_goal 2 => (intro _; clear_value z)
            on_goal 1 => try dsimp -zeta only [z])
         | (with_reducible refine keeps_cut (p := ∀ x, Keeps s (z x)) ?_ ?_
            on_goal 2 => (intro _; clear_value z)
            on_goal 1 => try dsimp -zeta only [z])
         | clear_value z | skip)
    | split
    | dsimp -zeta only
    | with_reducible apply_assumption

theorem State.setFlash_keeps {s t : State} (h : Keeps s t) (x : Flash) : Keeps s (State.setFlash t x) := by
  delta State.setFlash
  repeat' first
    | with_reducible first
      | assumption | apply foldl_keeps | apply foldl_fst_keeps | apply foldl_snd_keeps | apply KeepsSome.getD
      | intro _ | fail_if_no_progress apply mk_keeps
    | (fail_if_no_progress extract_lets +onlyGivenNames z
       first
         | (with_reducible refine keeps_cut (p := Keeps s z) ?_ ?_
            on_goal 2 => (intro _; clear_value z)
            on_goal 1 => try dsimp -zeta only [z])
         | (with_reducible refine keeps_cut (p := Keeps s z.1) ?_ ?_
            on_goal 2 => (intro _)
            on_goal 1 => try dsimp -zeta only [z])
         | (with_reducible refine keeps_cut (p := ∀ u x, Keeps s u → Keeps s (z u x)) ?_ ?_
            on_goal 2 => (intro _; clear_value z)
            on_goal 1 => try dsimp -zeta only [z])
         | (with_reducible refine keeps_cut (p := ∀ u, Keeps s u → Keeps s (z u)) ?_ ?_
            on_goal 2 => (intro _; clear_value z)
            on_goal 1 => try dsimp -zeta only [z])
         | (with_reducible refine keeps_cut (p := ∀ x, Keeps s (z x)) ?_ ?_
            on_goal 2 => (intro _; clear_value z)
            on_goal 1 => try dsimp -zeta only [z])
         | clear_value z | skip)
    | split
    | dsimp -zeta only
    | with_reducible apply_assumption

theorem State.setMgmt_keeps {s t : State} (h : Keeps s t) (x : Mgmt) : Keeps s (State.setMgmt t x) := by
  delta State.setMgmt
  repeat' first
    | with_reducible first
      | assumption | apply foldl_keeps | apply foldl_fst_keeps | apply foldl_snd_keeps | apply KeepsSome.getD
      | intro _ | fail_if_no_progress apply mk_keeps
    | (fail_if_no_progress extract_lets +onlyGivenNames z
       first
         | (with_reducible refine keeps_cut (p := Keeps s z) ?_ ?_
            on_goal 2 => (intro _; clear_value z)
            on_goal 1 => try dsimp -zeta only [z])
         | (with_reducible refine keeps_cut (p := Keeps s z.1) ?_ ?_
            on_goal 2 => (intro _)
            on_goal 1 => try dsimp -zeta only [z])
         | (with_reducible refine keeps_cut (p := ∀ u x, Keeps s u → Keeps s (z u x)) ?_ ?_
            on_goal 2 => (intro _; clear_value z)
            on_goal 1 => try dsimp -zeta only [z])
         | (with_reducible refine keeps_cut (p := ∀ u, Keeps s u → Keeps s (z u)) ?_ ?_
            on_goal 2 => (intro _; clear_value z)
            on_goal 1 => try dsimp -zeta only [z])
         | (with_reducible refine keeps_cut (p := ∀ x, Keeps s (z x)) ?_ ?_
            on_goal 2 => (intro _; clear_value z)
            on_goal 1 => try dsimp -zeta only [z])
         | clear_value z | skip)
    | split
    | dsimp -zeta only
    | with_reducible apply_assumption

theorem State.setSeqs_keeps {s t : State} (h : Keeps s t) (x : Tab Seq) : Keeps s (State.setSeqs t x) := by
  delta State.setSeqs
  repeat' first
    | with_reducible first
      | assumption | apply foldl_keeps | apply foldl_fst_keeps | apply foldl_snd_keeps | apply KeepsSome.getD
      | intro _ | fail_if_no_progress apply mk_keeps
    | (fail_if_no_progress extract_lets +onlyGivenNames z
       first
         | (with_reducible refine keeps_cut (p := Keeps s z) ?_ ?_
            on_goal 2 => (intro _; clear_value z)
            on_goal 1 => try dsimp -zeta only [z])
         | (with_reducible refine keeps_cut (p := Keeps s z.1) ?_ ?_
            on_goal 2 => (intro _)
            on_goal 1 => try dsimp -zeta only [z])
         | (with_reducible refine keeps_cut (p := ∀ u x, Keeps s u → Keeps s (z u x)) ?_ ?_
            on_goal 2 => (intro _; clear_value z)
            on_goal 1 => try dsimp -zeta only [z])
         | (with_reducible refine keeps_cut (p := ∀ u, Keeps s u → Keeps s (z u)) ?_ ?_
            on_goal 2 => (intro _; clear_value z)
            on_goal 1 => try dsimp -zeta only [z])
         | (with_reducible refine keeps_cut (p := ∀ x, Keeps s (z x)) ?_ ?_
            on_goal 2 => (intro _; clear_value z)
            on_goal 1 => try dsimp -zeta only [z])
         | clear_value z | skip)
    | split
    | dsimp -zeta only
    | with_reducible apply_assumption

theorem State.setBlocks_keeps {s t : State} (h : Keeps s t) (x : Tab Nat) : Keeps s (State.setBlocks t x) := by
  delta State.setBlocks
  repeat' first
    | with_reducible first
      | assumption | apply foldl_keeps | apply foldl_fst_keeps | apply foldl_snd_keeps | apply KeepsSome.getD
      | intro _ | fail_if_no_progress apply mk_keeps
    | (fail_if_no_progress extract_lets +onlyGivenNames z
       first
         | (with_reducible refine keeps_cut (p := Keeps s z) ?_ ?_
            on_goal 2 => (intro _; clear_value z)
            on_goal 1 => try dsimp -zeta only [z])
         | (with_reducible refine keeps_cut (p := Keeps s z.1) ?_ ?_
            on_goal 2 => (intro _)
            on_goal 1 => try dsimp -zeta only [z])
         | (with_reducible refine keeps_cut (p := ∀ u x, Keeps s u → Keeps s (z u x)) ?_ ?_
            on_goal 2 => (intro _; clear_value z)
            on_goal 1 => try dsimp -zeta only [z])
         | (with_reducible refine keeps_cut (p := ∀ u, Keeps s u → Keeps s (z u)) ?_ ?_
            on_goal 2 => (intro _; clear_value z)
            on_goal 1 => try dsimp -zeta only [z])
         | (with_reducible refine keeps_cut (p := ∀ x, Keeps s (z x)) ?_ ?_
            on_goal 2 => (intro _; clear_value z)
            on_goal 1 => try dsimp -zeta only [z])
         | clear_value z | skip)
    | split
    | dsimp -zeta only
    | with_reducible apply_assumption

theorem State.setSu_keeps {s t : State} (h : Keeps s t) (i : Nat) (x : Su) : Keeps s (State.setSu t i x) := by
  delta State.setSu
  repeat' first
    | with_reducible first
      | assumption | apply State.setSite_keeps

theorem State.fresh_keeps {s t : State} (h : Keeps s t) : Keeps s (State.fresh t) := by
  delta State.fresh
  repeat' first
    | with_reducible first
      | assumption | apply foldl_keeps | apply foldl_fst_keeps | apply foldl_snd_keeps | apply KeepsSome.getD
      | intro _ | fail_if_no_progress apply mk_keeps
    | (fail_if_no_progress extract_lets +onlyGivenNames z
       first
         | (with_reducible refine keeps_cut (p := Keeps s z) ?_ ?_
            on_goal 2 => (intro _; clear_value z)
            on_goal 1 => try dsimp -zeta only [z])
         | (with_reducible refine keeps_cut (p := Keeps s z.1) ?_ ?_
            on_goal 2 => (intro _)
            on_goal 1 => try dsimp -zeta only [z])
         | (with_reducible refine keeps_cut (p := ∀ u x, Keeps s u → Keeps s (z u x)) ?_ ?_
            on_goal 2 => (intro _; clear_value z)
            on_goal 1 => try dsimp -zeta only [z])
         | (with_reducible refine keeps_cut (p := ∀ u, Keeps s u → Keeps s (z u)) ?_ ?_
            on_goal 2 => (intro _; clear_value z)
            on_goal 1 => try dsimp -zeta only [z])
         | (with_reducible refine keeps_cut (p := ∀ x, Keeps s (z x)) ?_ ?_
            on_goal 2 => (intro _; clear_value z)
            on_goal 1 => try dsimp -zeta only [z])
         | clear_value z | skip)
    | split
    | dsimp -zeta only
    | with_reducible apply_assumption

theorem State.setCu_keeps {s t : State} (h : Keeps s t) (i : Nat) (x : Cu) : Keeps s (State.setCu t i x) := by
  delta State.setCu
  repeat' first
    | with_reducible first
      | assumption | apply State.setSite_keeps

theorem State.setDir_keeps {s t : State} (h : Keeps s t) (x : Tab (Option DirEntry)) : Keeps s (State.setDir t x) := by
  delta State.setDir
  repeat' first
    | with_reducible first
      | assumption | apply foldl_keeps | apply foldl_fst_keeps | apply foldl_snd_keeps | apply KeepsSome.getD
      | intro _ | fail_if_no_progress apply mk_keeps
    | (fail_if_no_progress extract_lets +onlyGivenNames z
       first
         | (with_reducible refine keeps_cut (p := Keeps s z) ?_ ?_
            on_goal 2 => (intro _; clear_value z)
            on_goal 1 => try dsimp -zeta only [z])
         | (with_reducible refine keeps_cut (p := Keeps s z.1) ?_ ?_
            on_goal 2 => (intro _)
            on_goal 1 => try dsimp -zeta only [z])
         | (with_reducible refine keeps_cut (p := ∀ u x, Keeps s u → Keeps s (z u x)) ?_ ?_
            on_goal 2 => (intro _; clear_value z)
            on_goal 1 => try dsimp -zeta only [z])
         | (with_reducible refine keeps_cut (p := ∀ u, Keeps s u → Keeps s (z u)) ?_ ?_
            on_goal 2 => (intro _; clear_value z)
            on_goal 1 => try dsimp -zeta only [z])
         | (with_reducible refine keeps_cut (p := ∀ x, Keeps s (z x)) ?_ ?_
            on_goal 2 => (intro _; clear_value z)
            on_goal 1 => try dsimp -zeta only [z])
         | clear_value z | skip)
    | split
    | dsimp -zeta only
    | with_reducible apply_assumption

theorem State.setTraceQ_keeps {s t : State} (h : Keeps s t) (x : Tab (List TraceRec)) : Keeps s (State.setTraceQ
    t x) := by
  delta State.setTraceQ
  repeat' first
    | with_reducible first
      | assumption | apply foldl_keeps | apply foldl_fst_keeps | apply foldl_snd_keeps | apply KeepsSome.getD
      | intro _ | fail_if_no_progress apply mk_keeps
    | (fail_if_no_progress extract_lets +onlyGivenNames z
       first
         | (with_reducible refine keeps_cut (p := Keeps s z) ?_ ?_
            on_goal 2 => (intro _; clear_value z)
            on_goal 1 => try dsimp -zeta only [z])
         | (with_reducible refine keeps_cut (p := Keeps s z.1) ?_ ?_
            on_goal 2 => (intro _)
            on_goal 1 => try dsimp -zeta only [z])
         | (with_reducible refine keeps_cut (p := ∀ u x, Keeps s u → Keeps s (z u x)) ?_ ?_
            on_goal 2 => (intro _; clear_value z)
            on_goal 1 => try dsimp -zeta only [z])
         | (with_reducible refine keeps_cut (p := ∀ u, Keeps s u → Keeps s (z u)) ?_ ?_
            on_goal 2 => (intro _; clear_value z)
            on_goal 1 => try dsimp -zeta only [z])
         | (with_reducible refine keeps_cut (p := ∀ x, Keeps s (z x)) ?_ ?_
            on_goal 2 => (intro _; clear_value z)
            on_goal 1 => try dsimp -zeta only [z])
         | clear_value z | skip)
    | split
    | dsimp -zeta only
    | with_reducible apply_assumption

theorem State.platformEvent_keeps {s t : State} (h : Keeps s t) (sensor value : Nat) : Keeps s
    (State.platformEvent t sensor value) := by
  delta State.platformEvent
  repeat' first
    | with_reducible first
      | assumption | apply State.emit_keeps
    | split

theorem State.setStage_keeps {s t : State} (h : Keeps s t) (n : Nat) : Keeps s (State.setStage t n) := by
  delta State.setStage
  repeat' first
    | with_reducible first
      | assumption | apply State.setf_keeps | apply State.alert_keeps | apply State.platformEvent_keeps
    | split

theorem State.linkErr_keeps {s t : State} (h : Keeps s t) (f : Fld) : Keeps s (State.linkErr t f) := by
  delta State.linkErr
  repeat' first
    | with_reducible first
      | assumption | apply State.setf_keeps | apply State.setHost_keeps | apply State.msix_keeps | intro _
      | fail_if_no_progress apply mk_keeps
    | (fail_if_no_progress extract_lets +onlyGivenNames z
       first
         | (with_reducible refine keeps_cut (p := Keeps s z) ?_ ?_
            on_goal 2 => (intro _; clear_value z)
            on_goal 1 => try dsimp -zeta only [z])
         | clear_value z | skip)
    | split

theorem State.powerEvent_keeps {s t : State} (h : Keeps s t) (f : Fld) : Keeps s (State.powerEvent t f) := by
  delta State.powerEvent
  repeat' first
    | with_reducible first
      | assumption | apply State.setf_keeps | apply State.alert_keeps | apply State.msix_keeps

theorem State.setMu_keeps {s t : State} (h : Keeps s t) (i : Nat) (x : Mu) : Keeps s (State.setMu t i x) := by
  delta State.setMu
  repeat' first
    | with_reducible first
      | assumption | apply State.setSite_keeps

theorem State.setPort_keeps {s t : State} (h : Keeps s t) (q : Nat) (x : Port) : Keeps s (State.setPort t q x) := by
  delta State.setPort
  repeat' first
    | with_reducible first
      | assumption | intro _ | fail_if_no_progress apply mk_keeps
    | split

theorem State.sendIdle_keeps {s t : State} (h : Keeps s t) (q : Nat) : Keeps s (State.sendIdle t q) := by
  delta State.sendIdle
  repeat' first
    | with_reducible first
      | assumption | apply State.setPort_keeps | apply State.emit_keeps

theorem State.pump_keeps {s t : State} (h : Keeps s t) (q : Nat) : Keeps s (State.pump t q) := by
  delta State.pump
  repeat' first
    | with_reducible first
      | assumption | apply State.setPort_keeps | apply State.sendIdle_keeps | apply State.emits_keeps | intro _
      | fail_if_no_progress apply mk_keeps
    | (fail_if_no_progress extract_lets +onlyGivenNames z
       first
         | (with_reducible refine keeps_cut (p := Keeps s z) ?_ ?_
            on_goal 2 => (intro _; clear_value z)
            on_goal 1 => try dsimp -zeta only [z])
         | clear_value z | skip)
    | split

theorem State.sendOn_keeps {s t : State} (h : Keeps s t) (q : Nat) (m : Msg) : Keeps s (State.sendOn t q m) := by
  delta State.sendOn
  repeat' first
    | with_reducible first
      | assumption | apply State.bump_keeps | apply State.setPort_keeps | apply State.pump_keeps
      | apply State.emit_keeps | fail_if_no_progress apply mk_keeps
    | (fail_if_no_progress extract_lets +onlyGivenNames z
       first
         | (with_reducible refine keeps_cut (p := Keeps s z) ?_ ?_
            on_goal 2 => (intro _; clear_value z)
            on_goal 1 => try dsimp -zeta only [z])
         | clear_value z | skip)

theorem State.sendVia_keeps {s t : State} (h : Keeps s t) (q : Nat) (m : Msg) : Keeps s (State.sendVia t q m) := by
  delta State.sendVia
  repeat' first
    | with_reducible first
      | assumption | apply State.sendOn_keeps | intro _ | fail_if_no_progress apply mk_keeps
    | split

theorem State.flushHub_keeps {s t : State} (h : Keeps s t) : Keeps s (State.flushHub t) := by
  delta State.flushHub
  repeat' first
    | with_reducible first
      | assumption | apply State.sendVia_keeps | apply foldl_keeps | apply foldl_fst_keeps | apply foldl_snd_keeps
      | intro _ | fail_if_no_progress apply mk_keeps
    | split

theorem State.send_keeps {s t : State} (h : Keeps s t) (p typ dst : Nat) (fin : Bool) (status txn : Nat) (body :
    List Byte) : Keeps s (State.send t p typ dst fin status txn body) := by
  delta State.send
  repeat' first
    | with_reducible first
      | assumption | apply State.sendVia_keeps | apply State.emit_keeps
    | (fail_if_no_progress extract_lets +onlyGivenNames z
       first
         | (with_reducible refine keeps_cut (p := Keeps s z) ?_ ?_
            on_goal 2 => (intro _; clear_value z)
            on_goal 1 => try dsimp -zeta only [z])
         | clear_value z | skip)
    | split

theorem State.countRx_keeps {s t : State} (h : Keeps s t) (q : Nat) : Keeps s (State.countRx t q) := by
  delta State.countRx
  repeat' first
    | with_reducible first
      | assumption | apply State.bump_keeps
    | split

theorem State.freeRx_keeps {s t : State} (h : Keeps s t) (q typ body : Nat) : Keeps s (State.freeRx t q typ body) := by
  delta State.freeRx
  repeat' first
    | with_reducible first
      | assumption | apply State.setPort_keeps | fail_if_no_progress apply mk_keeps
    | (fail_if_no_progress extract_lets +onlyGivenNames z
       first
         | (with_reducible refine keeps_cut (p := Keeps s z) ?_ ?_
            on_goal 2 => (intro _; clear_value z)
            on_goal 1 => try dsimp -zeta only [z])
         | clear_value z | skip)
    | split

theorem State.consume_keeps {s t : State} (h : Keeps s t) (q typ body : Nat) : Keeps s (State.consume t q typ body) := by
  delta State.consume
  repeat' first
    | with_reducible first
      | assumption | apply State.countRx_keeps | apply State.freeRx_keeps

theorem State.discardMsg_keeps {s t : State} (h : Keeps s t) (q : Nat) : Keeps s (State.discardMsg t q) := by
  delta State.discardMsg
  repeat' first
    | with_reducible first
      | assumption | apply State.bump_keeps

theorem State.receiveReq_keeps {s t : State} (h : Keeps s t) (q typ rsp : Nat) (x4 : Hdr) (body : List Byte) (f :
    State → Nat → State) (k6 : ∀ x0 x1, Keeps s x0 → Keeps s (f x0 x1)) : Keeps s (State.receiveReq t q typ rsp
    x4 body f) := by
  delta State.receiveReq
  repeat' first
    | with_reducible first
      | assumption | apply k6 | apply State.consume_keeps | apply State.discardMsg_keeps | apply State.send_keeps
    | (fail_if_no_progress extract_lets +onlyGivenNames z
       first
         | (with_reducible refine keeps_cut (p := Keeps s z) ?_ ?_
            on_goal 2 => (intro _; clear_value z)
            on_goal 1 => try dsimp -zeta only [z])
         | clear_value z | skip)
    | split

theorem State.receive_keeps {s t : State} (h : Keeps s t) (q typ : Nat) (x3 : Hdr) (body : List Byte) (f : State
    → Nat → State) (k5 : ∀ x0 x1, Keeps s x0 → Keeps s (f x0 x1)) : Keeps s (State.receive t q typ x3 body f) := by
  delta State.receive
  repeat' first
    | with_reducible first
      | assumption | apply k5 | apply State.consume_keeps | apply State.discardMsg_keeps
    | (fail_if_no_progress extract_lets +onlyGivenNames z
       first
         | (with_reducible refine keeps_cut (p := Keeps s z) ?_ ?_
            on_goal 2 => (intro _; clear_value z)
            on_goal 1 => try dsimp -zeta only [z])
         | clear_value z | skip)
    | split

theorem State.receiveKept_keeps {s t : State} (h : Keeps s t) (q typ rsp : Nat) (x4 : Hdr) (body : List Byte) (f
    : State → Nat → State) (k6 : ∀ x0 x1, Keeps s x0 → Keeps s (f x0 x1)) : Keeps s (State.receiveKept t q typ
    rsp x4 body f) := by
  delta State.receiveKept
  repeat' first
    | with_reducible first
      | assumption | apply k6 | apply State.countRx_keeps | apply State.discardMsg_keeps | apply State.freeRx_keeps
      | apply State.send_keeps
    | (fail_if_no_progress extract_lets +onlyGivenNames z
       first
         | (with_reducible refine keeps_cut (p := Keeps s z) ?_ ?_
            on_goal 2 => (intro _; clear_value z)
            on_goal 1 => try dsimp -zeta only [z])
         | clear_value z | skip)
    | split

theorem State.setTree_keeps {s t : State} (h : Keeps s t) (p : Nat) : Keeps s (State.setTree t p) := by
  delta State.setTree
  repeat' first
    | with_reducible first
      | assumption | apply State.setf_keeps
    | (fail_if_no_progress extract_lets +onlyGivenNames z
       first
         | (with_reducible refine keeps_cut (p := Keeps s z) ?_ ?_
            on_goal 2 => (intro _; clear_value z)
            on_goal 1 => try dsimp -zeta only [z])
         | clear_value z | skip)

theorem State.confirmReq_keeps {s t : State} (h : Keeps s t) (p m : Nat) : Keeps s (State.confirmReq t p m) := by
  delta State.confirmReq
  repeat' first
    | with_reducible first
      | assumption | apply State.send_keeps

theorem State.emitFault_keeps {s t : State} (h : Keeps s t) (p : Nat) (x2 : FaultKey) (confirm ts count : Nat) :
    Keeps s (State.emitFault t p x2 confirm ts count) := by
  delta State.emitFault
  repeat' first
    | with_reducible first
      | assumption | apply State.setf_keeps | apply State.setPart_keeps | apply State.alert_keeps
      | apply State.bbPut_keeps | apply State.emit_keeps | fail_if_no_progress apply mk_keeps
    | (fail_if_no_progress extract_lets +onlyGivenNames z
       first
         | (with_reducible refine keeps_cut (p := Keeps s z) ?_ ?_
            on_goal 2 => (intro _; clear_value z)
            on_goal 1 => try dsimp -zeta only [z])
         | clear_value z | skip)
    | split

theorem State.forwardFault_keeps {s t : State} (h : Keeps s t) (p : Nat) (x2 : FaultKey) (count ts : Nat) : Keeps
    s (State.forwardFault t p x2 count ts) := by
  delta State.forwardFault
  repeat' first
    | with_reducible first
      | assumption | apply State.setf_keeps | apply State.bump_keeps | apply State.emitFault_keeps
      | apply State.send_keeps | intro _
    | (fail_if_no_progress extract_lets +onlyGivenNames z
       first
         | (with_reducible refine keeps_cut (p := Keeps s z) ?_ ?_
            on_goal 2 => (intro _; clear_value z)
            on_goal 1 => try dsimp -zeta only [z])
         | clear_value z | skip)
    | split

theorem State.faultIn_keeps {s t : State} (h : Keeps s t) (p : Nat) (x2 : FaultKey) (count ts : Nat) : Keeps s
    (State.faultIn t p x2 count ts) := by
  delta State.faultIn
  repeat' first
    | with_reducible first
      | assumption | apply State.bump_keeps | apply State.confirmReq_keeps | apply State.setPart_keeps
      | apply State.emitFault_keeps | apply State.forwardFault_keeps | fail_if_no_progress apply mk_keeps
    | (fail_if_no_progress extract_lets +onlyGivenNames z
       first
         | (with_reducible refine keeps_cut (p := Keeps s z) ?_ ?_
            on_goal 2 => (intro _; clear_value z)
            on_goal 1 => try dsimp -zeta only [z])
         | clear_value z | skip)
    | split

theorem State.bbWriteAt_keeps {s t : State} (h : Keeps s t) (p : Option Nat) (typ cls payload loc : Nat) : Keeps
    s (State.bbWriteAt t p typ cls payload loc) := by
  delta State.bbWriteAt
  repeat' first
    | with_reducible first
      | assumption | apply State.faultIn_keeps | apply State.bbPut_keeps
    | (fail_if_no_progress extract_lets +onlyGivenNames z
       first
         | (with_reducible refine keeps_cut (p := Keeps s z) ?_ ?_
            on_goal 2 => (intro _; clear_value z)
            on_goal 1 => try dsimp -zeta only [z])
         | clear_value z | skip)
    | split

theorem State.bbWrite_keeps {s t : State} (h : Keeps s t) (p : Option Nat) (typ cls payload : Nat) : Keeps s
    (State.bbWrite t p typ cls payload) := by
  delta State.bbWrite
  repeat' first
    | with_reducible first
      | assumption | apply State.bbWriteAt_keeps

theorem State.partRecord_keeps {s t : State} (h : Keeps s t) (p event : Nat) : Keeps s (State.partRecord t p event) := by
  delta State.partRecord
  repeat' first
    | with_reducible first
      | assumption | apply State.bbWrite_keeps
    | (fail_if_no_progress extract_lets +onlyGivenNames z
       first
         | (with_reducible refine keeps_cut (p := Keeps s z) ?_ ?_
            on_goal 2 => (intro _; clear_value z)
            on_goal 1 => try dsimp -zeta only [z])
         | clear_value z | skip)

theorem State.tryEmit_keeps {s t : State} (h : Keeps s t) (p : Nat) (x2 : FaultKey) : Keeps s (State.tryEmit t p x2) := by
  delta State.tryEmit
  repeat' first
    | with_reducible first
      | assumption | apply State.setPart_keeps | apply State.emitFault_keeps | fail_if_no_progress apply mk_keeps
    | (fail_if_no_progress extract_lets +onlyGivenNames z
       first
         | (with_reducible refine keeps_cut (p := Keeps s z) ?_ ?_
            on_goal 2 => (intro _; clear_value z)
            on_goal 1 => try dsimp -zeta only [z])
         | clear_value z | skip)
    | split

theorem State.confirmAlive_keeps {s t : State} (h : Keeps s t) (p m : Nat) : Keeps s (State.confirmAlive t p m) := by
  delta State.confirmAlive
  repeat' first
    | with_reducible first
      | assumption | apply State.setPart_keeps | apply State.tryEmit_keeps | apply foldl_keeps | intro _
      | fail_if_no_progress apply mk_keeps
    | (fail_if_no_progress extract_lets +onlyGivenNames z
       first
         | (with_reducible refine keeps_cut (p := Keeps s z) ?_ ?_
            on_goal 2 => (intro _; clear_value z)
            on_goal 1 => try dsimp -zeta only [z])
         | clear_value z | skip)
    | split

theorem State.countStall_keeps {s t : State} (h : Keeps s t) (p site : Nat) : Keeps s (State.countStall t p site) := by
  delta State.countStall
  repeat' first
    | with_reducible first
      | assumption | apply State.bump_keeps
    | split

theorem State.sendAbort_keeps {s t : State} (h : Keeps s t) (p ledger code : Nat) (detail : Word) : Keeps s
    (State.sendAbort t p ledger code detail) := by
  delta State.sendAbort
  repeat' first
    | with_reducible first
      | assumption | apply State.send_keeps | apply foldl_keeps | intro _
    | split

theorem State.chargeUp_keeps {s t : State} (h : Keeps s t) (p : Nat) : Keeps s (State.chargeUp t p) := by
  delta State.chargeUp
  repeat' first
    | with_reducible first
      | assumption | apply State.setPart_keeps | fail_if_no_progress apply mk_keeps
    | (fail_if_no_progress extract_lets +onlyGivenNames z
       first
         | (with_reducible refine keeps_cut (p := Keeps s z) ?_ ?_
            on_goal 2 => (intro _; clear_value z)
            on_goal 1 => try dsimp -zeta only [z])
         | clear_value z | skip)
    | split

theorem State.trace_keeps {s t : State} (h : Keeps s t) (p site unit typ payload : Nat) : Keeps s (State.trace t
    p site unit typ payload) := by
  delta State.trace
  repeat' first
    | with_reducible first
      | assumption | apply State.setf_keeps | intro _ | fail_if_no_progress apply mk_keeps
    | (fail_if_no_progress extract_lets +onlyGivenNames z
       first
         | (with_reducible refine keeps_cut (p := Keeps s z) ?_ ?_
            on_goal 2 => (intro _; clear_value z)
            on_goal 1 => try dsimp -zeta only [z])
         | clear_value z | skip)
    | split

theorem State.endStall_keeps {s t : State} (h : Keeps s t) (p site : Nat) : Keeps s (State.endStall t p site) := by
  delta State.endStall
  repeat' first
    | with_reducible first
      | assumption | apply State.setf_keeps | apply State.setSite_keeps | apply State.trace_keeps
      | apply State.countStall_keeps
    | (fail_if_no_progress extract_lets +onlyGivenNames z
       first
         | (with_reducible refine keeps_cut (p := Keeps s z) ?_ ?_
            on_goal 2 => (intro _; clear_value z)
            on_goal 1 => try dsimp -zeta only [z])
         | clear_value z | skip)
    | split

theorem State.haltFabric_keeps {s t : State} (h : Keeps s t) (p : Nat) : Keeps s (State.haltFabric t p) := by
  delta State.haltFabric
  repeat' first
    | with_reducible first
      | assumption | apply State.setf_keeps | apply State.setPart_keeps | apply State.setSite_keeps
      | apply State.endStall_keeps | apply State.freeRx_keeps | apply foldl_keeps | intro _
    | (fail_if_no_progress extract_lets +onlyGivenNames z
       first
         | (with_reducible refine keeps_cut (p := Keeps s z) ?_ ?_
            on_goal 2 => (intro _; clear_value z)
            on_goal 1 => try dsimp -zeta only [z])
         | clear_value z | skip)
    | split

theorem State.abortFiring_keeps {s t : State} (h : Keeps s t) (p code : Nat) (detail : Word) : Keeps s
    (State.abortFiring t p code detail) := by
  delta State.abortFiring
  repeat' first
    | with_reducible first
      | assumption | apply State.setPart_keeps | apply State.chargeUp_keeps | apply State.haltFabric_keeps
      | fail_if_no_progress apply mk_keeps
    | (fail_if_no_progress extract_lets +onlyGivenNames z
       first
         | (with_reducible refine keeps_cut (p := Keeps s z) ?_ ?_
            on_goal 2 => (intro _; clear_value z)
            on_goal 1 => try dsimp -zeta only [z])
         | clear_value z | skip)
    | split

theorem State.abortAdmitted_keeps {s t : State} (h : Keeps s t) (p code : Nat) (detail : Word) : Keeps s
    (State.abortAdmitted t p code detail) := by
  delta State.abortAdmitted
  repeat' first
    | with_reducible first
      | assumption | apply State.setPart_keeps
    | split

theorem State.abortSteps_keeps {s t : State} (h : Keeps s t) (p code : Nat) (detail : Word) (report : Bool) :
    Keeps s (State.abortSteps t p code detail report) := by
  delta State.abortSteps
  repeat' first
    | with_reducible first
      | assumption | apply State.sendAbort_keeps | apply State.abortFiring_keeps | apply State.abortAdmitted_keeps
      | apply foldl_keeps | intro _
    | (fail_if_no_progress extract_lets +onlyGivenNames z
       first
         | (with_reducible refine keeps_cut (p := Keeps s z) ?_ ?_
            on_goal 2 => (intro _; clear_value z)
            on_goal 1 => try dsimp -zeta only [z])
         | clear_value z | skip)
    | split

theorem State.linkLost_keeps {s t : State} (h : Keeps s t) (p partner port : Nat) : Keeps s (State.linkLost t p
    partner port) := by
  delta State.linkLost
  repeat' first
    | with_reducible first
      | assumption | apply State.faultIn_keeps | apply State.abortSteps_keeps

theorem State.abortRun_keeps {s t : State} (h : Keeps s t) (p code : Nat) (detail : Word) : Keeps s
    (State.abortRun t p code detail) := by
  delta State.abortRun
  repeat' first
    | with_reducible first
      | assumption | apply State.sendAbort_keeps | apply State.abortFiring_keeps
    | (fail_if_no_progress extract_lets +onlyGivenNames z
       first
         | (with_reducible refine keeps_cut (p := Keeps s z) ?_ ?_
            on_goal 2 => (intro _; clear_value z)
            on_goal 1 => try dsimp -zeta only [z])
         | clear_value z | skip)
    | split

theorem State.outputFull_keeps {s t : State} (h : Keeps s t) (site : Nat) : Keeps s (State.outputFull t site) := by
  delta State.outputFull
  repeat' first
    | with_reducible first
      | assumption | apply State.setSite_keeps

theorem State.sendStep_keeps {s t : State} (h : Keeps s t) (p typ dst : Nat) (fin : Bool) (txn : Nat) (body :
    List Byte) : Keeps s (State.sendStep t p typ dst fin txn body) := by
  delta State.sendStep
  repeat' first
    | with_reducible first
      | assumption | apply State.linkLost_keeps | apply State.send_keeps
    | split

theorem State.abortEntry_keeps {s t : State} (h : Keeps s t) (p idx code : Nat) (detail : Word) : Keeps s
    (State.abortEntry t p idx code detail) := by
  delta State.abortEntry
  repeat' first
    | with_reducible first
      | assumption | apply State.abortFiring_keeps | apply State.abortAdmitted_keeps | intro _
    | split

theorem State.beginStall_keeps {s t : State} (h : Keeps s t) (p site : Nat) : Keeps s (State.beginStall t p site) := by
  delta State.beginStall
  repeat' first
    | with_reducible first
      | assumption | apply State.setf_keeps | apply State.setv_keeps
    | split

theorem State.recause_keeps {s t : State} (h : Keeps s t) (p site cause : Nat) : Keeps s (State.recause t p site
    cause) := by
  delta State.recause
  repeat' first
    | with_reducible first
      | assumption | apply State.setf_keeps | apply State.setSite_keeps | apply State.trace_keeps
      | apply State.countStall_keeps | apply foldl_keeps | apply foldl_fst_keeps | apply foldl_snd_keeps | intro _
      | fail_if_no_progress apply mk_keeps
    | (fail_if_no_progress extract_lets +onlyGivenNames z
       first
         | (with_reducible refine keeps_cut (p := Keeps s z) ?_ ?_
            on_goal 2 => (intro _; clear_value z)
            on_goal 1 => try dsimp -zeta only [z])
         | (with_reducible refine keeps_cut (p := Keeps s z.1) ?_ ?_
            on_goal 2 => (intro _)
            on_goal 1 => try dsimp -zeta only [z])
         | (with_reducible refine keeps_cut (p := ∀ u x, Keeps s u → Keeps s (z u x)) ?_ ?_
            on_goal 2 => (intro _; clear_value z)
            on_goal 1 => try dsimp -zeta only [z])
         | (with_reducible refine keeps_cut (p := ∀ u, Keeps s u → Keeps s (z u)) ?_ ?_
            on_goal 2 => (intro _; clear_value z)
            on_goal 1 => try dsimp -zeta only [z])
         | (with_reducible refine keeps_cut (p := ∀ x, Keeps s (z x)) ?_ ?_
            on_goal 2 => (intro _; clear_value z)
            on_goal 1 => try dsimp -zeta only [z])
         | clear_value z | skip)
    | split
    | dsimp -zeta only
    | with_reducible apply_assumption

theorem State.progressBy_keeps {s t : State} (h : Keeps s t) (p site n : Nat) : Keeps s (State.progressBy t p
    site n) := by
  delta State.progressBy
  repeat' first
    | with_reducible first
      | assumption | apply State.bump_keeps | apply State.setPart_keeps | apply State.beginStall_keeps
      | apply State.endStall_keeps
    | (fail_if_no_progress extract_lets +onlyGivenNames z
       first
         | (with_reducible refine keeps_cut (p := Keeps s z) ?_ ?_
            on_goal 2 => (intro _; clear_value z)
            on_goal 1 => try dsimp -zeta only [z])
         | clear_value z | skip)

theorem State.proofHit_keeps {s t : State} (h : Keeps s t) (p site cause : Nat) : Keeps s (State.proofHit t p
    site cause) := by
  delta State.proofHit
  repeat' first
    | with_reducible first
      | assumption | apply State.setf_keeps | apply State.setv_keeps
    | split

theorem State.work_keeps {s t : State} (h : Keeps s t) (p site : Nat) (on : Bool) : Keeps s (State.work t p site on) := by
  delta State.work
  repeat' first
    | with_reducible first
      | assumption | apply State.setf_keeps | apply State.beginStall_keeps | apply State.endStall_keeps
    | split

theorem State.markerArrived_keeps {s t : State} (h : Keeps s t) (site port ctx : Nat) : Keeps s
    (State.markerArrived t site port ctx) := by
  delta State.markerArrived
  repeat' first
    | with_reducible first
      | assumption | apply State.chargeUp_keeps | apply State.work_keeps | apply State.setCu_keeps
      | fail_if_no_progress apply mk_keeps
    | (fail_if_no_progress extract_lets +onlyGivenNames z
       first
         | (with_reducible refine keeps_cut (p := Keeps s z) ?_ ?_
            on_goal 2 => (intro _; clear_value z)
            on_goal 1 => try dsimp -zeta only [z])
         | clear_value z | skip)
    | split

theorem State.progress_keeps {s t : State} (h : Keeps s t) (p site : Nat) : Keeps s (State.progress t p site) := by
  delta State.progress
  repeat' first
    | with_reducible first
      | assumption | apply State.progressBy_keeps

theorem State.storeOperand_keeps {s t : State} (h : Keeps s t) (site port : Nat) (o : Operand) : Keeps s
    (State.storeOperand t site port o) := by
  delta State.storeOperand
  repeat' first
    | with_reducible first
      | assumption | apply State.setf_keeps | apply State.setCu_keeps | fail_if_no_progress apply mk_keeps
    | (fail_if_no_progress extract_lets +onlyGivenNames z
       first
         | (with_reducible refine keeps_cut (p := Keeps s z) ?_ ?_
            on_goal 2 => (intro _; clear_value z)
            on_goal 1 => try dsimp -zeta only [z])
         | clear_value z | skip)
    | split

theorem State.deliverTo_keeps {s t : State} (h : Keeps s t) (site port : Nat) (o : Operand) : Keeps s
    (State.deliverTo t site port o) := by
  delta State.deliverTo
  repeat' first
    | with_reducible first
      | assumption | apply State.storeOperand_keeps | apply State.markerArrived_keeps
    | (fail_if_no_progress extract_lets +onlyGivenNames z
       first
         | (with_reducible refine keeps_cut (p := Keeps s z) ?_ ?_
            on_goal 2 => (intro _; clear_value z)
            on_goal 1 => try dsimp -zeta only [z])
         | clear_value z | skip)
    | split

theorem State.plateDefect_keeps {s t : State} (h : Keeps s t) (p site cause : Nat) : Keeps s (State.plateDefect t
    p site cause) := by
  delta State.plateDefect
  repeat' first
    | with_reducible first
      | assumption | apply State.proofHit_keeps | apply State.setPart_keeps | apply State.abortRun_keeps
      | fail_if_no_progress apply mk_keeps
    | split

theorem State.ownerMiss_keeps {s t : State} (h : Keeps s t) (p site : Nat) : Keeps s (State.ownerMiss t p site) := by
  delta State.ownerMiss
  repeat' first
    | with_reducible first
      | assumption | apply State.bump_keeps | apply State.plateDefect_keeps

theorem State.orphan_keeps {s t : State} (h : Keeps s t) (p site : Nat) : Keeps s (State.orphan t p site) := by
  delta State.orphan
  repeat' first
    | with_reducible first
      | assumption | apply State.setf_keeps | apply State.bump_keeps | apply State.plateDefect_keeps

theorem State.enterSu_keeps {s t : State} (h : Keeps s t) (site slot : Nat) (xs : List Xfer) : Keeps s
    (State.enterSu t site slot xs) := by
  delta State.enterSu
  repeat' first
    | with_reducible first
      | assumption | apply State.setSu_keeps
    | (fail_if_no_progress extract_lets +onlyGivenNames z
       first
         | (with_reducible refine keeps_cut (p := Keeps s z) ?_ ?_
            on_goal 2 => (intro _; clear_value z)
            on_goal 1 => try dsimp -zeta only [z])
         | clear_value z | skip)

theorem State.keepTile_keeps {s t : State} (h : Keeps s t) (a : Nat) (bs : List Byte) : Keeps s (State.keepTile t
    a bs) := by
  delta State.keepTile
  repeat' first
    | with_reducible first
      | assumption | (refine State.setHbm_cells_keeps ?_ ?_; on_goal 2 => (with_unfolding_all rfl)) | intro _
      | fail_if_no_progress apply mk_keeps
    | split

theorem execPerBankRefresh_keeps {s t : State} (h : Keeps s t) (rows : List Nat) : KeepsOut s (execPerBankRefresh
    rows t) := by
  delta execPerBankRefresh
  repeat' first
    | with_reducible first
      | assumption | apply KeepsOut.next
      | (refine State.setHbm_cells_keeps ?_ ?_; on_goal 2 => (with_unfolding_all rfl)) | intro _
    | split

theorem State.dirtyCount_keeps {s t : State} (h : Keeps s t) (page : Nat) : Keeps s (State.dirtyCount t page) := by
  delta State.dirtyCount
  repeat' first
    | with_reducible first
      | assumption | apply State.setf_keeps | apply foldl_keeps | intro _
    | (fail_if_no_progress extract_lets +onlyGivenNames z
       first
         | (with_reducible refine keeps_cut (p := Keeps s z) ?_ ?_
            on_goal 2 => (intro _; clear_value z)
            on_goal 1 => try dsimp -zeta only [z])
         | clear_value z | skip)
    | split

theorem State.setTag_keeps {s t : State} (h : Keeps s t) (page tag : Nat) : Keeps s (State.setTag t page tag) := by
  delta State.setTag
  repeat' first
    | with_reducible first
      | assumption | (refine State.setHbm_cells_keeps ?_ ?_; on_goal 2 => (with_unfolding_all rfl))
      | apply State.dirtyCount_keeps | intro _ | fail_if_no_progress apply mk_keeps
    | (fail_if_no_progress extract_lets +onlyGivenNames z
       first
         | (with_reducible refine keeps_cut (p := Keeps s z) ?_ ?_
            on_goal 2 => (intro _; clear_value z)
            on_goal 1 => try dsimp -zeta only [z])
         | (with_reducible refine keeps_cut (p := z = (z : Hbm) ∨ True) (.inr trivial) ?_; intro _)
         | clear_value z | skip)
    | split

theorem State.returnPage_keeps {s t : State} (h : Keeps s t) (page : Nat) : Keeps s (State.returnPage t page) := by
  delta State.returnPage
  repeat' first
    | with_reducible first
      | assumption | apply State.setPart_keeps | apply State.setTag_keeps
      | (refine State.setHbm_cells_keeps ?_ ?_; on_goal 2 => (with_unfolding_all rfl)) | intro _
      | fail_if_no_progress apply mk_keeps
    | (fail_if_no_progress extract_lets +onlyGivenNames z
       first
         | (with_reducible refine keeps_cut (p := Keeps s z) ?_ ?_
            on_goal 2 => (intro _; clear_value z)
            on_goal 1 => try dsimp -zeta only [z])
         | (with_reducible refine keeps_cut (p := z = (z : Hbm) ∨ True) (.inr trivial) ?_; intro _)
         | clear_value z | skip)
    | split

theorem State.refreshNear_keeps {s t : State} (h : Keeps s t) (row : Nat) : Keeps s (t.refreshNear row) := by
  have cut : ∀ x : Hbm, x.cells = t.hbm.cells → ∀ ix n, Keeps s ((t.setHbm x).bump .hbmRdistRefresh ix n) :=
    fun _ e _ _ => State.bump_keeps (State.setHbm_cells_keeps h e) _ _ _
  exact cut _ (by rfl) _ _

theorem State.activate_keeps {s t : State} (h : Keeps s t) (a : Nat) : Keeps s (t.activate a) :=
  State.setHbm_cells_keeps (foldl_keeps h fun _ _ k => State.refreshNear_keeps k _) rfl

theorem State.writeLine_keeps {s t : State} (h : Keeps s t) (a : Nat) (bs : List Byte) (first : Bool) :
    Keeps s (t.writeLine a bs first) := by
  unfold State.writeLine
  split
  · exact State.setHbm_keeps (State.activate_keeps h a) (Hbm.putLine_wf a bs)
  · exact State.setHbm_keeps h (Hbm.putLine_wf a bs)

theorem State.takeBack_keeps {s t : State} (h : Keeps s t) (line : Nat) : Keeps s (State.takeBack t line) := by
  delta State.takeBack
  repeat' first
    | with_reducible first
      | assumption | apply State.writeLine_keeps | fail_if_no_progress apply mk_keeps
    | (fail_if_no_progress extract_lets +onlyGivenNames z
       first
         | (with_reducible refine keeps_cut (p := Keeps s z) ?_ ?_
            on_goal 2 => (intro _; clear_value z)
            on_goal 1 => try dsimp -zeta only [z])
         | clear_value z | skip)
    | split

theorem State.recall_keeps {s t : State} (h : Keeps s t) (f : Nat → Bool) : Keeps s (State.recall t f) := by
  delta State.recall
  repeat' first
    | with_reducible first
      | assumption | apply State.setf_keeps | apply State.bump_keeps | apply State.setHost_keeps
      | apply State.takeBack_keeps | apply State.emits_keeps | apply foldl_keeps | intro _
      | fail_if_no_progress apply mk_keeps
    | (fail_if_no_progress extract_lets +onlyGivenNames z
       first
         | (with_reducible refine keeps_cut (p := Keeps s z) ?_ ?_
            on_goal 2 => (intro _; clear_value z)
            on_goal 1 => try dsimp -zeta only [z])
         | clear_value z | skip)
    | split

theorem State.recallPart_keeps {s t : State} (h : Keeps s t) (p : Nat) : Keeps s (State.recallPart t p) := by
  delta State.recallPart
  repeat' first
    | with_reducible first
      | assumption | apply State.recall_keeps | intro _
    | split

theorem State.hbmVector_keeps {s t : State} (h : Keeps s t) (f : Fld) (ix : List Nat) : Keeps s (State.hbmVector
    t f ix) := by
  delta State.hbmVector
  repeat' first
    | with_reducible first
      | assumption | apply State.setHost_keeps | apply State.msix_keeps | intro _
      | fail_if_no_progress apply mk_keeps
    | split

theorem State.hbmEvent_keeps {s t : State} (h : Keeps s t) (wasSet : Bool) (f : Fld) (ix : List Nat) : Keeps s
    (State.hbmEvent t wasSet f ix) := by
  delta State.hbmEvent
  repeat' first
    | with_reducible first
      | assumption | apply State.hbmVector_keeps | apply State.alert_keeps
    | split

theorem State.logUe_keeps {s t : State} (h : Keeps s t) (p : Option Nat) (src a : Nat) : Keeps s (State.logUe t p
    src a) := by
  delta State.logUe
  repeat' first
    | with_reducible first
      | assumption | apply State.bump_keeps | apply State.bbWrite_keeps
      | (refine State.setHbm_cells_keeps ?_ ?_; on_goal 2 => (with_unfolding_all rfl)) | apply State.hbmEvent_keeps
      | apply State.setv_keeps | intro _ | fail_if_no_progress apply mk_keeps
    | (fail_if_no_progress extract_lets +onlyGivenNames z
       first
         | (with_reducible refine keeps_cut (p := Keeps s z) ?_ ?_
            on_goal 2 => (intro _; clear_value z)
            on_goal 1 => try dsimp -zeta only [z])
         | (with_reducible refine keeps_cut (p := z = (z : Hbm) ∨ True) (.inr trivial) ?_; intro _)
         | clear_value z | skip)
    | split

theorem State.checkWords_keeps {s t : State} (h : Keeps s t) (p : Option Nat) (src : Nat) (l : List Nat) :
    Keeps s (t.checkWords p src l).1 := by
  induction l generalizing t with
  | nil => exact h
  | cons c l ih =>
    unfold State.checkWords
    dsimp only
    split
    · exact ih h
    · exact ih (State.setHbm_cells_keeps (State.bump_keeps h _ _ _) rfl)
    · exact ih (State.logUe_keeps h _ _ _)

theorem State.checkWords_keeps_eq {s t u : State} {z} {a1 : Option Nat} {a2 : Nat} {a3 : List Nat} (h : Keeps s
    t)  (e : State.checkWords t a1 a2 a3 = (u, z)) : Keeps s u := by
  have := State.checkWords_keeps h a1 a2 a3
  rw [e] at this
  exact this

theorem State.sharedRead_keeps {s t : State} (h : Keeps s t) (p src a : Nat) (first : Bool) :
    Keeps s (t.sharedRead p src a first).1 := by
  have cut : ∀ u : State, Keeps s u → ∀ x : Hbm, x.cells = u.hbm.cells → Keeps s (u.setHbm x) :=
    fun _ k _ e => State.setHbm_cells_keeps k e
  unfold State.sharedRead
  dsimp only
  split
  · split
    · exact State.activate_keeps (State.bump_keeps (State.checkWords_keeps h _ _ _) _ _ _) _
    · exact State.checkWords_keeps h _ _ _
  · split
    · exact h
    · split
      · exact State.bump_keeps (cut _ h _ (by rfl)) _ _ _
      · have k := State.activate_keeps (State.bump_keeps (State.checkWords_keeps h (some p) src (tileLines a))
          .hbmTcMisses [a / 2 ^ 39 % 8] 1) a
        split
        · exact cut _ k _ (by rfl)
        · exact k

theorem State.sharedRead_keeps_eq {s t u : State} {z} {a1 : Nat} {a2 : Nat} {a3 : Nat} {a4 : Bool} (h : Keeps s
    t)  (e : State.sharedRead t a1 a2 a3 a4 = (u, z)) : Keeps s u := by
  have := State.sharedRead_keeps h a1 a2 a3 a4
  rw [e] at this
  exact this

theorem State.readLine_keeps {s t : State} (h : Keeps s t) (p src a : Nat) (first : Bool) : Keeps s
    (State.readLine t p src a first).1 := by
  delta State.readLine
  repeat' first
    | with_reducible first
      | assumption | apply State.checkWords_keeps | refine State.checkWords_keeps_eq ?_ (by assumption)
      | apply State.sharedRead_keeps | refine State.sharedRead_keeps_eq ?_ (by assumption)
      | apply State.activate_keeps
    | (fail_if_no_progress extract_lets +onlyGivenNames z
       first
         | (with_reducible refine keeps_cut (p := Keeps s z) ?_ ?_
            on_goal 2 => (intro _; clear_value z)
            on_goal 1 => try dsimp -zeta only [z])
         | (with_reducible refine keeps_cut (p := Keeps s z.1) ?_ ?_
            on_goal 2 => (intro _)
            on_goal 1 => try dsimp -zeta only [z])
         | clear_value z | skip)
    | split

theorem State.touchAge_keeps {s t : State} (h : Keeps s t) (p tile : Nat) : Keeps s (State.touchAge t p tile) := by
  delta State.touchAge
  repeat' first
    | with_reducible first
      | assumption | apply State.setPart_keeps | intro _
    | (fail_if_no_progress extract_lets +onlyGivenNames z
       first
         | (with_reducible refine keeps_cut (p := Keeps s z) ?_ ?_
            on_goal 2 => (intro _; clear_value z)
            on_goal 1 => try dsimp -zeta only [z])
         | clear_value z | skip)
    | split

theorem State.readLines_keeps {s t : State} (h : Keeps s t) (p src : Nat) (first : Bool) (n a : Nat) :
    Keeps s (t.readLines p src first n a).1 := by
  induction n generalizing t first a with
  | zero => exact h
  | succ n ih =>
    unfold State.readLines
    refine ih ?_ _ _
    split
    · exact State.readLine_keeps (State.touchAge_keeps h _ _) _ _ _ _
    · exact h
    · exact h

theorem State.readLines_keeps_eq {s t u : State} {z} {a1 : Nat} {a2 : Nat} {a3 : Bool} {a4 : Nat} {a5 : Nat} (h :
    Keeps s t)  (e : State.readLines t a1 a2 a3 a4 a5 = (u, z)) : Keeps s u := by
  have := State.readLines_keeps h a1 a2 a3 a4 a5
  rw [e] at this
  exact this

theorem State.tagFault_keeps {s t : State} (h : Keeps s t) (p site a : Nat) (write : Bool) : Keeps s
    (State.tagFault t p site a write) := by
  delta State.tagFault
  repeat' first
    | with_reducible first
      | assumption | apply State.bump_keeps | apply State.plateDefect_keeps | apply State.bbWriteAt_keeps
      | apply State.hbmEvent_keeps | apply State.setv_keeps
    | (fail_if_no_progress extract_lets +onlyGivenNames z
       first
         | (with_reducible refine keeps_cut (p := Keeps s z) ?_ ?_
            on_goal 2 => (intro _; clear_value z)
            on_goal 1 => try dsimp -zeta only [z])
         | clear_value z | skip)
    | split

theorem State.readPart_keeps {s t : State} (h : Keeps s t) (p site src n a : Nat) : Keeps s (State.readPart t p
    site src n a).1 := by
  delta State.readPart
  repeat' first
    | with_reducible first
      | assumption | apply State.readLines_keeps | refine State.readLines_keeps_eq ?_ (by assumption)
      | apply State.ownerMiss_keeps | apply State.tagFault_keeps | apply foldl_keeps | apply foldl_fst_keeps
      | apply foldl_snd_keeps | apply KeepsSome.getD | intro _ | fail_if_no_progress apply mk_keeps
    | (fail_if_no_progress extract_lets +onlyGivenNames z
       first
         | (with_reducible refine keeps_cut (p := Keeps s z) ?_ ?_
            on_goal 2 => (intro _; clear_value z)
            on_goal 1 => try dsimp -zeta only [z])
         | (with_reducible refine keeps_cut (p := Keeps s z.1) ?_ ?_
            on_goal 2 => (intro _)
            on_goal 1 => try dsimp -zeta only [z])
         | (with_reducible refine keeps_cut (p := ∀ u x, Keeps s u → Keeps s (z u x)) ?_ ?_
            on_goal 2 => (intro _; clear_value z)
            on_goal 1 => try dsimp -zeta only [z])
         | (with_reducible refine keeps_cut (p := ∀ u, Keeps s u → Keeps s (z u)) ?_ ?_
            on_goal 2 => (intro _; clear_value z)
            on_goal 1 => try dsimp -zeta only [z])
         | (with_reducible refine keeps_cut (p := ∀ x, Keeps s (z x)) ?_ ?_
            on_goal 2 => (intro _; clear_value z)
            on_goal 1 => try dsimp -zeta only [z])
         | clear_value z | skip)
    | split
    | dsimp -zeta only
    | with_reducible apply_assumption

theorem State.readPart_keeps_eq {s t u : State} {z} {p : Nat} {site : Nat} {src : Nat} {n : Nat} {a : Nat} (h :
    Keeps s t)  (e : State.readPart t p site src n a = (u, z)) : Keeps s u := by
  have := State.readPart_keeps h p site src n a
  rw [e] at this
  exact this

theorem State.dirtyAll_keeps {s t : State} (h : Keeps s t) (pages : List Nat) : Keeps s (State.dirtyAll t pages) := by
  delta State.dirtyAll
  repeat' first
    | with_reducible first
      | assumption | apply State.setTag_keeps | apply foldl_keeps | intro _
    | split

theorem execScrubBurst_keeps {s t : State} (h : Keeps s t) (die stack : Nat) :
    KeepsOut s (execScrubBurst die stack t) := by
  have cut : ∀ u : State, Keeps s u → ∀ (x : Hbm) (c : Bool) ix, x.cells = u.hbm.cells →
      Keeps s (if c = true then (u.setHbm x).setv .hbmScrubPass ix ((u.setHbm x).now) else u.setHbm x) := by
    intro u k x c ix e
    split
    · exact State.setv_keeps (State.setHbm_cells_keeps k e) _ _ _
    · exact State.setHbm_cells_keeps k e
  unfold execScrubBurst
  dsimp only
  split
  · exact .next h
  · refine .next (cut _ ?_ _ _ _ (by rfl))
    split
    · exact h
    · exact State.setHbm_keeps (State.checkWords_keeps (State.activate_keeps h _) _ _ _) (Hbm.mend_wf _)

theorem execRowRemap_keeps {s t : State} (h : Keeps s t) (die stack channel place : Nat) :
    KeepsOut s (execRowRemap die stack channel place t) := by
  unfold execRowRemap
  generalize rowAt (die % 8) (stack % 4) (channel % 32) place = row
  dsimp only
  have k := State.activate_keeps h (row * 4096)
  have w : Memory.wf (t.activate (row * 4096)).hbm.cells = true →
    Memory.wf ((t.activate (row * 4096)).hbm.mend (row * 4096)).cells = true := Hbm.mend_wf _
  generalize t.activate (row * 4096) = u at k w
  generalize u.hbm.mend (row * 4096) = x at w
  split
  · exact .next h
  · split
    · exact .next (State.setHbm_keeps k w)
    · refine .next (State.bbWrite_keeps ?_ _ _ _ _)
      split
      · refine State.setf_keeps ?_ _ _ _
        exact State.setHbm_keeps k w
      · refine State.hbmVector_keeps (State.setf_keeps ?_ _ _ _) _ _
        exact State.setHbm_keeps k w

theorem State.activateAll_keeps {s t : State} (h : Keeps s t) (tiles : List Nat) : Keeps s (State.activateAll t
    tiles) := by
  delta State.activateAll
  repeat' first
    | with_reducible first
      | assumption | apply State.activate_keeps | apply foldl_keeps | intro _
    | split

theorem State.scrubbed_keeps {s t : State} (h : Keeps s t) (page : Nat) : Keeps s (State.scrubbed t page) := by
  delta State.scrubbed
  repeat' first
    | with_reducible first
      | assumption | apply State.setf_keeps | apply State.setPart_keeps | apply State.partRecord_keeps
      | apply foldl_keeps | intro _ | fail_if_no_progress apply mk_keeps
    | (fail_if_no_progress extract_lets +onlyGivenNames z
       first
         | (with_reducible refine keeps_cut (p := Keeps s z) ?_ ?_
            on_goal 2 => (intro _; clear_value z)
            on_goal 1 => try dsimp -zeta only [z])
         | clear_value z | skip)
    | split

theorem State.zeroed_keeps {s t : State} (h : Keeps s t) (die : Nat) : Keeps s (t.zeroed die) := by
  unfold State.zeroed
  split
  · exact h
  · split
    · exact h
    · exact State.returnPage_keeps (State.scrubbed_keeps (State.dirtyCount_keeps
        (State.setHbm_keeps (State.activateAll_keeps h _) (Hbm.zeroPage_wf _)) _) _) _

theorem execTargetedRefresh_keeps {s t : State} (h : Keeps s t) (row : Nat) : KeepsOut s (execTargetedRefresh row t) := by
  delta execTargetedRefresh
  repeat' first
    | with_reducible first
      | assumption | apply KeepsOut.next | apply State.refreshNear_keeps | intro _
    | split

theorem State.writeLines_keeps {s t : State} (h : Keeps s t) (p : Nat) (first : Bool) (n a : Nat) (bs : List Byte) :
    Keeps s (t.writeLines p first n a bs).1 := by
  induction n generalizing t first a bs with
  | zero => exact h
  | succ n ih =>
    unfold State.writeLines
    refine ih ?_ _ _ _
    split
    · dsimp only
      split
      · exact State.writeLine_keeps (State.touchAge_keeps (State.recall_keeps h _) _ _) _ _ _
      · exact State.touchAge_keeps (State.recall_keeps h _) _ _
    · exact h

theorem State.writeLines_keeps_eq {s t u : State} {z} {a1 : Nat} {a2 : Bool} {a3 : Nat} {a4 : Nat} {a5 : List
    Byte} (h : Keeps s t)  (e : State.writeLines t a1 a2 a3 a4 a5 = (u, z)) : Keeps s u := by
  have := State.writeLines_keeps h a1 a2 a3 a4 a5
  rw [e] at this
  exact this

theorem State.writePart_keeps {s t : State} (h : Keeps s t) (p site a : Nat) (bs : List Byte) : Keeps s
    (State.writePart t p site a bs).1 := by
  delta State.writePart
  repeat' first
    | with_reducible first
      | assumption | apply State.ownerMiss_keeps | apply State.tagFault_keeps | apply State.writeLines_keeps
      | refine State.writeLines_keeps_eq ?_ (by assumption) | apply foldl_keeps | apply foldl_fst_keeps
      | apply foldl_snd_keeps | apply KeepsSome.getD | intro _ | fail_if_no_progress apply mk_keeps
    | (fail_if_no_progress extract_lets +onlyGivenNames z
       first
         | (with_reducible refine keeps_cut (p := Keeps s z) ?_ ?_
            on_goal 2 => (intro _; clear_value z)
            on_goal 1 => try dsimp -zeta only [z])
         | (with_reducible refine keeps_cut (p := Keeps s z.1) ?_ ?_
            on_goal 2 => (intro _)
            on_goal 1 => try dsimp -zeta only [z])
         | (with_reducible refine keeps_cut (p := ∀ u x, Keeps s u → Keeps s (z u x)) ?_ ?_
            on_goal 2 => (intro _; clear_value z)
            on_goal 1 => try dsimp -zeta only [z])
         | (with_reducible refine keeps_cut (p := ∀ u, Keeps s u → Keeps s (z u)) ?_ ?_
            on_goal 2 => (intro _; clear_value z)
            on_goal 1 => try dsimp -zeta only [z])
         | (with_reducible refine keeps_cut (p := ∀ x, Keeps s (z x)) ?_ ?_
            on_goal 2 => (intro _; clear_value z)
            on_goal 1 => try dsimp -zeta only [z])
         | clear_value z | skip)
    | split
    | dsimp -zeta only
    | with_reducible apply_assumption

theorem State.writePart_keeps_eq {s t u : State} {z} {p : Nat} {site : Nat} {a : Nat} {bs : List Byte} (h : Keeps
    s t)  (e : State.writePart t p site a bs = (u, z)) : Keeps s u := by
  have := State.writePart_keeps h p site a bs
  rw [e] at this
  exact this

theorem execTagSelCapture_keeps {s t : State} (h : Keeps s t) (die : Nat) (w : Word) : KeepsOut s
    (execTagSelCapture die w t) := by
  delta execTagSelCapture
  repeat' first
    | with_reducible first
      | assumption | apply KeepsOut.next | apply State.setf_keeps | apply State.noteMiss_keeps
    | (fail_if_no_progress extract_lets +onlyGivenNames z
       first
         | (with_reducible refine keeps_cut (p := Keeps s z) ?_ ?_
            on_goal 2 => (intro _; clear_value z)
            on_goal 1 => try dsimp -zeta only [z])
         | clear_value z | skip)
    | split

theorem State.sendOut_keeps {s t : State} (h : Keeps s t) (site : Nat) (out : Sends) : Keeps s (State.sendOut t
    site out) := by
  delta State.sendOut
  repeat' first
    | with_reducible first
      | assumption | apply State.enterSu_keeps | apply foldl_keeps | apply foldl_fst_keeps | apply foldl_snd_keeps
      | intro _
    | split

theorem State.mismatch_keeps {s t : State} (h : Keeps s t) (f : Firing) (port : Nat) (long : Bool) : Keeps s
    (State.mismatch t f port long) := by
  delta State.mismatch
  repeat' first
    | with_reducible first
      | assumption | apply State.plateDefect_keeps | apply State.trace_keeps | intro _
    | split

theorem State.mismatches_keeps {s t : State} (h : Keeps s t) (f : Firing) : Keeps s (State.mismatches t f) := by
  delta State.mismatches
  repeat' first
    | with_reducible first
      | assumption | apply State.mismatch_keeps | apply foldl_keeps | apply foldl_fst_keeps | apply foldl_snd_keeps
      | intro _
    | (fail_if_no_progress extract_lets +onlyGivenNames z
       first
         | (with_reducible refine keeps_cut (p := Keeps s z) ?_ ?_
            on_goal 2 => (intro _; clear_value z)
            on_goal 1 => try dsimp -zeta only [z])
         | clear_value z | skip)
    | split

theorem State.consumed_keeps {s t : State} (h : Keeps s t) (f : Firing) : Keeps s (State.consumed t f) := by
  delta State.consumed
  repeat' first
    | with_reducible first
      | assumption | apply State.mismatches_keeps | apply State.setCu_keeps | intro _
      | fail_if_no_progress apply mk_keeps
    | (fail_if_no_progress extract_lets +onlyGivenNames z
       first
         | (with_reducible refine keeps_cut (p := Keeps s z) ?_ ?_
            on_goal 2 => (intro _; clear_value z)
            on_goal 1 => try dsimp -zeta only [z])
         | clear_value z | skip)
    | split

theorem State.orphansOn_keeps {s t : State} (h : Keeps s t) (p site ctx : Nat) (ports : List Nat) : Keeps s
    (State.orphansOn t p site ctx ports) := by
  delta State.orphansOn
  repeat' first
    | with_reducible first
      | assumption | apply State.orphan_keeps | apply State.setCu_keeps | apply foldl_keeps | intro _
      | fail_if_no_progress apply mk_keeps
    | (fail_if_no_progress extract_lets +onlyGivenNames z
       first
         | (with_reducible refine keeps_cut (p := Keeps s z) ?_ ?_
            on_goal 2 => (intro _; clear_value z)
            on_goal 1 => try dsimp -zeta only [z])
         | clear_value z | skip)
    | split

theorem State.flushPorts_keeps {s t : State} (h : Keeps s t) (p site ctx : Nat) (w : Stroke) (ports : List Nat) :
    Keeps s (State.flushPorts t p site ctx w ports) := by
  delta State.flushPorts
  repeat' first
    | with_reducible first
      | assumption | apply State.orphansOn_keeps | apply State.setCu_keeps | intro _
      | fail_if_no_progress apply mk_keeps
    | (fail_if_no_progress extract_lets +onlyGivenNames z
       first
         | (with_reducible refine keeps_cut (p := Keeps s z) ?_ ?_
            on_goal 2 => (intro _; clear_value z)
            on_goal 1 => try dsimp -zeta only [z])
         | clear_value z | skip)
    | split

theorem execOperandArrival_keeps {s t : State} (h : Keeps s t) (site slot : Nat) : KeepsOut s (execOperandArrival
    site slot t) := by
  delta execOperandArrival
  repeat' first
    | with_reducible first
      | assumption | apply KeepsOut.next | apply State.deliverTo_keeps | apply State.setSu_keeps
    | (fail_if_no_progress extract_lets +onlyGivenNames z
       first
         | (with_reducible refine keeps_cut (p := Keeps s z) ?_ ?_
            on_goal 2 => (intro _; clear_value z)
            on_goal 1 => try dsimp -zeta only [z])
         | clear_value z | skip)
    | split

theorem State.firingTrace_keeps {s t : State} (h : Keeps s t) (f : Firing) (eos : Bool) : Keeps s
    (State.firingTrace t f eos) := by
  delta State.firingTrace
  repeat' first
    | with_reducible first
      | assumption | apply State.trace_keeps | intro _
    | split

theorem execEndOfStreamFiring_keeps {s t : State} (h : Keeps s t) (site : Nat) : KeepsOut s
    (execEndOfStreamFiring site t) := by
  delta execEndOfStreamFiring
  repeat' first
    | with_reducible first
      | assumption | apply KeepsOut.next | apply State.deliverTo_keeps | apply State.outputFull_keeps
      | apply State.setPart_keeps | apply State.sendOut_keeps | apply State.progress_keeps
      | apply State.flushPorts_keeps | apply State.setCu_keeps | apply State.firingTrace_keeps | apply foldl_keeps
      | apply foldl_fst_keeps | apply foldl_snd_keeps | intro _ | fail_if_no_progress apply mk_keeps
    | (fail_if_no_progress extract_lets +onlyGivenNames z
       first
         | (with_reducible refine keeps_cut (p := Keeps s z) ?_ ?_
            on_goal 2 => (intro _; clear_value z)
            on_goal 1 => try dsimp -zeta only [z])
         | clear_value z | skip)
    | split

theorem State.fired_keeps {s t : State} (h : Keeps s t) (f : Firing) (out : Sends) : Keeps s (State.fired t f out) := by
  delta State.fired
  repeat' first
    | with_reducible first
      | assumption | apply State.setPart_keeps | apply State.sendOut_keeps | apply State.progress_keeps
      | apply State.firingTrace_keeps
    | (fail_if_no_progress extract_lets +onlyGivenNames z
       first
         | (with_reducible refine keeps_cut (p := Keeps s z) ?_ ?_
            on_goal 2 => (intro _; clear_value z)
            on_goal 1 => try dsimp -zeta only [z])
         | clear_value z | skip)

theorem State.fire_keeps {s t : State} (h : Keeps s t) (site op : Nat) (eff : State → Firing → Option (State × Sends))
    (k : ∀ u f, Keeps s u → KeepsPair s (eff u f)) : Keeps s (t.fire site op eff) := by
  unfold State.fire
  split
  · exact h
  · split
    · exact State.outputFull_keeps h _
    · rename_i e
      split
      · exact State.fired_keeps ((k _ _ (State.consumed_keeps h _)).get _ _ e) _ _
      · exact State.outputFull_keeps h _

theorem State.dstWrite_keeps {s t : State} (h : Keeps s t) (f : Firing) (ws : Words) : Keeps s (State.dstWrite t
    f ws).1 := by
  delta State.dstWrite
  repeat' first
    | with_reducible first
      | assumption | apply State.setCu_keeps | intro _ | fail_if_no_progress apply mk_keeps
    | (fail_if_no_progress extract_lets +onlyGivenNames z
       first
         | (with_reducible refine keeps_cut (p := Keeps s z) ?_ ?_
            on_goal 2 => (intro _; clear_value z)
            on_goal 1 => try dsimp -zeta only [z])
         | clear_value z | skip)
    | split

theorem State.dstLanes_keeps {s t : State} (h : Keeps s t) (f : Firing) (l : List Nat) : KeepsPair s
    (State.dstLanes t f l) := by
  delta State.dstLanes
  repeat' first
    | with_reducible first
      | assumption | apply KeepsPair.none | apply KeepsPair.some | apply State.dstWrite_keeps

end Sys2Proof.Machine
end

