-- ==== Sys2Proof/Laws/KeepsUnits.lean ====
section
/-! SUPPORT. What the operations and commands of atomics, the black box, the compute strokes, the switch unit and the memory unit keep. -/

namespace Sys2Proof.Machine

open Sys2Proof

set_option linter.unusedTactic false
set_option linter.unreachableTactic false

theorem State.queueAtom_keeps {s t : State} (h : Keeps s t) (site : Nat) (op : AtomOp) : KeepsSome s
    (State.queueAtom t site op) := by
  delta State.queueAtom
  repeat' first
    | with_reducible first
      | assumption | apply KeepsSome.none | apply KeepsSome.some | apply State.setMu_keeps | intro _
      | fail_if_no_progress apply mk_keeps
    | (fail_if_no_progress extract_lets +onlyGivenNames z
       first
         | (with_reducible refine keeps_cut (p := Keeps s z) ?_ ?_
            on_goal 2 => (intro _; clear_value z)
            on_goal 1 => try dsimp -zeta only [z])
         | clear_value z | skip)
    | split

theorem State.queueAtom_keeps_eq {s t u : State} {site : Nat} {op : AtomOp} (h : Keeps s t)  (e : State.queueAtom
    t site op = some u) : Keeps s u :=
  (State.queueAtom_keeps h site op).get _ e

theorem State.dispenserRequest_keeps {s t : State} (h : Keeps s t) (f : Firing) (kind x : Nat) : KeepsPair s
    (State.dispenserRequest t f kind x) := by
  delta State.dispenserRequest
  repeat' first
    | with_reducible first
      | assumption | apply KeepsPair.none | apply KeepsPair.some | apply KeepsPair.map
      | refine State.queueAtom_keeps_eq ?_ (by assumption) | apply State.queueAtom_keeps | intro _
    | (fail_if_no_progress extract_lets +onlyGivenNames z
       first
         | (with_reducible refine keeps_cut (p := Keeps s z) ?_ ?_
            on_goal 2 => (intro _; clear_value z)
            on_goal 1 => try dsimp -zeta only [z])
         | clear_value z | skip)
    | split

theorem State.takeWord_keeps {s t : State} (h : Keeps s t) (site : Nat) (x2 : HeldWrite) (w : Nat × Line) :
    KeepsSome s (State.takeWord t site x2 w) := by
  delta State.takeWord
  repeat' first
    | with_reducible first
      | assumption | apply KeepsSome.none | apply KeepsSome.some
      | refine State.queueAtom_keeps_eq ?_ (by assumption) | apply State.queueAtom_keeps | apply State.setMu_keeps
      | apply KeepsSome.getD | fail_if_no_progress apply mk_keeps
    | (fail_if_no_progress extract_lets +onlyGivenNames z
       first
         | (with_reducible refine keeps_cut (p := Keeps s z) ?_ ?_
            on_goal 2 => (intro _; clear_value z)
            on_goal 1 => try dsimp -zeta only [z])
         | clear_value z | skip)
    | split

theorem State.takeWords_keeps {s t : State} (h : Keeps s t) (site : Nat) (w : HeldWrite) (l : List (Nat × Line)) :
    Keeps s (t.takeWords site w l).1 := by
  induction l generalizing t with
  | nil => exact h
  | cons c l ih =>
    unfold State.takeWords
    split
    · rename_i e
      exact ih ((State.takeWord_keeps h _ _ _).get _ e)
    · exact h

theorem State.takeHeld_keeps {s t : State} (h : Keeps s t) (site : Nat) (shut : List Nat) (l : List HeldWrite) :
    Keeps s (t.takeHeld site shut l).1 := by
  induction l generalizing t shut with
  | nil => exact h
  | cons c l ih =>
    unfold State.takeHeld
    refine ih ?_ _
    split
    · exact h
    · exact State.takeWords_keeps h _ _ _

theorem State.semAdd_keeps {s t : State} (h : Keeps s t) (p site sem n : Nat) : Keeps s (State.semAdd t p site
    sem n) := by
  delta State.semAdd
  repeat' first
    | with_reducible first
      | assumption | apply State.bump_keeps | apply State.plateDefect_keeps | apply State.setMu_keeps
    | (fail_if_no_progress extract_lets +onlyGivenNames z
       first
         | (with_reducible refine keeps_cut (p := Keeps s z) ?_ ?_
            on_goal 2 => (intro _; clear_value z)
            on_goal 1 => try dsimp -zeta only [z])
         | clear_value z | skip)
    | split

theorem State.pumpHeld_keeps {s t : State} (h : Keeps s t) (site : Nat) : Keeps s (State.pumpHeld t site) := by
  delta State.pumpHeld
  repeat' first
    | with_reducible first
      | assumption | apply State.setMu_keeps | apply State.takeHeld_keeps
    | (fail_if_no_progress extract_lets +onlyGivenNames z
       first
         | (with_reducible refine keeps_cut (p := Keeps s z) ?_ ?_
            on_goal 2 => (intro _; clear_value z)
            on_goal 1 => try dsimp -zeta only [z])
         | (with_reducible refine keeps_cut (p := Keeps s z.1) ?_ ?_
            on_goal 2 => (intro _)
            on_goal 1 => try dsimp -zeta only [z])
         | clear_value z | skip)

theorem State.bankAck_keeps {s t : State} (h : Keeps s t) (p dst status txn site win words credits : Nat) : Keeps
    s (State.bankAck t p dst status txn site win words credits) := by
  delta State.bankAck
  repeat' first
    | with_reducible first
      | assumption | apply State.send_keeps

theorem State.semSignal_keeps {s t : State} (h : Keeps s t) (p site sem n : Nat) : Keeps s (State.semSignal t p
    site sem n) := by
  delta State.semSignal
  repeat' first
    | with_reducible first
      | assumption | apply State.setMu_keeps | apply State.semAdd_keeps | apply State.pumpHeld_keeps
      | apply State.bankAck_keeps | fail_if_no_progress apply mk_keeps
    | (fail_if_no_progress extract_lets +onlyGivenNames z
       first
         | (with_reducible refine keeps_cut (p := Keeps s z) ?_ ?_
            on_goal 2 => (intro _; clear_value z)
            on_goal 1 => try dsimp -zeta only [z])
         | clear_value z | skip)
    | split

theorem State.dispenserAnswer_keeps {s t : State} (h : Keeps s t) (op : AtomOp) (r : Response) : Keeps s
    (State.dispenserAnswer t op r) := by
  delta State.dispenserAnswer
  repeat' first
    | with_reducible first
      | assumption | apply State.deliverTo_keeps
    | split

theorem State.setEngine_keeps {s t : State} (h : Keeps s t) (site x2 : Nat) (x : Engine) : Keeps s
    (State.setEngine t site x2 x) := by
  delta State.setEngine
  repeat' first
    | with_reducible first
      | assumption | apply State.setMu_keeps | fail_if_no_progress apply mk_keeps
    | (fail_if_no_progress extract_lets +onlyGivenNames z
       first
         | (with_reducible refine keeps_cut (p := Keeps s z) ?_ ?_
            on_goal 2 => (intro _; clear_value z)
            on_goal 1 => try dsimp -zeta only [z])
         | clear_value z | skip)

theorem execSemaphoreGrant_keeps {s t : State} (h : Keeps s t) (site sem : Nat) : KeepsOut s (execSemaphoreGrant
    site sem t) := by
  delta execSemaphoreGrant
  repeat' first
    | with_reducible first
      | assumption | apply KeepsOut.next | apply State.setMu_keeps | apply State.setEngine_keeps
      | apply State.setCu_keeps | intro _ | fail_if_no_progress apply mk_keeps
    | (fail_if_no_progress extract_lets +onlyGivenNames z
       first
         | (with_reducible refine keeps_cut (p := Keeps s z) ?_ ?_
            on_goal 2 => (intro _; clear_value z)
            on_goal 1 => try dsimp -zeta only [z])
         | clear_value z | skip)
    | split

theorem State.wordDone_keeps {s t : State} (h : Keeps s t) (p site : Nat) (op : AtomOp) (ok : Bool) : Keeps s
    (State.wordDone t p site op ok) := by
  delta State.wordDone
  repeat' first
    | with_reducible first
      | assumption | apply State.setMu_keeps | apply State.bankAck_keeps | apply State.freeRx_keeps
      | apply foldl_keeps | intro _ | fail_if_no_progress apply mk_keeps
    | (fail_if_no_progress extract_lets +onlyGivenNames z
       first
         | (with_reducible refine keeps_cut (p := Keeps s z) ?_ ?_
            on_goal 2 => (intro _; clear_value z)
            on_goal 1 => try dsimp -zeta only [z])
         | clear_value z | skip)
    | split

theorem State.bankWord_keeps {s t : State} (h : Keeps s t) (p site : Nat) (op : AtomOp) : Keeps s (State.bankWord
    t p site op) := by
  delta State.bankWord
  repeat' first
    | with_reducible first
      | assumption | apply State.setMu_keeps | apply State.semAdd_keeps | apply State.wordDone_keeps
      | apply State.progress_keeps | apply State.ownerMiss_keeps
    | (fail_if_no_progress extract_lets +onlyGivenNames z
       first
         | (with_reducible refine keeps_cut (p := Keeps s z) ?_ ?_
            on_goal 2 => (intro _; clear_value z)
            on_goal 1 => try dsimp -zeta only [z])
         | clear_value z | skip)
    | split

theorem State.atomAnswer_keeps {s t : State} (h : Keeps s t) (op : AtomOp) (status old : Nat) : Keeps s
    (State.atomAnswer t op status old) := by
  delta State.atomAnswer
  repeat' first
    | with_reducible first
      | assumption | apply State.setEngine_keeps | apply State.send_keeps | intro _
      | fail_if_no_progress apply mk_keeps
    | (fail_if_no_progress extract_lets +onlyGivenNames z
       first
         | (with_reducible refine keeps_cut (p := Keeps s z) ?_ ?_
            on_goal 2 => (intro _; clear_value z)
            on_goal 1 => try dsimp -zeta only [z])
         | clear_value z | skip)
    | split

theorem State.doAtom_keeps {s t : State} (h : Keeps s t) (p site : Nat) (op : AtomOp) : Keeps s (State.doAtom t p
    site op) := by
  delta State.doAtom
  repeat' first
    | with_reducible first
      | assumption | apply State.bump_keeps | apply State.dispenserAnswer_keeps | apply State.plateDefect_keeps
      | apply State.setMu_keeps | apply State.fresh_keeps | apply State.bankWord_keeps
      | apply State.atomAnswer_keeps | apply State.progress_keeps | apply State.ownerMiss_keeps | apply foldl_keeps
      | apply foldl_fst_keeps | apply foldl_snd_keeps | intro _ | fail_if_no_progress apply mk_keeps
    | (fail_if_no_progress extract_lets +onlyGivenNames z
       first
         | (with_reducible refine keeps_cut (p := Keeps s z) ?_ ?_
            on_goal 2 => (intro _; clear_value z)
            on_goal 1 => try dsimp -zeta only [z])
         | (with_reducible refine keeps_cut (p := Keeps s z.1) ?_ ?_
            on_goal 2 => (intro _)
            on_goal 1 => try dsimp -zeta only [z])
         | (with_reducible refine keeps_cut (p := ∀ u x, Keeps s u → Keeps s (z u x)) ?_ ?_
            on_goal 2 => (intro _; clear_value z)
            on_goal 1 => try dsimp -zeta only [z])
         | (with_reducible refine keeps_cut (p := ∀ u, Keeps s u → Keeps s (z u)) ?_ ?_
            on_goal 2 => (intro _; clear_value z)
            on_goal 1 => try dsimp -zeta only [z])
         | (with_reducible refine keeps_cut (p := ∀ x, Keeps s (z x)) ?_ ?_
            on_goal 2 => (intro _; clear_value z)
            on_goal 1 => try dsimp -zeta only [z])
         | clear_value z | skip)
    | split
    | dsimp -zeta only
    | with_reducible apply_assumption

theorem State.semWait_keeps {s t : State} (h : Keeps s t) (site sem who n : Nat) : Keeps s (State.semWait t site
    sem who n).1 := by
  delta State.semWait
  repeat' first
    | with_reducible first
      | assumption | apply State.setMu_keeps | intro _ | fail_if_no_progress apply mk_keeps
    | (fail_if_no_progress extract_lets +onlyGivenNames z
       first
         | (with_reducible refine keeps_cut (p := Keeps s z) ?_ ?_
            on_goal 2 => (intro _; clear_value z)
            on_goal 1 => try dsimp -zeta only [z])
         | clear_value z | skip)
    | split

theorem State.semWait_keeps_eq {s t u : State} {z} {site : Nat} {sem : Nat} {who : Nat} {n : Nat} (h : Keeps s t)
     (e : State.semWait t site sem who n = (u, z)) : Keeps s u := by
  have := State.semWait_keeps h site sem who n
  rw [e] at this
  exact this

theorem State.nextAtom_keeps {s t : State} (h : Keeps s t) (site bank : Nat) (kinds : Nat → Bool) : Keeps s
    (State.nextAtom t site bank kinds) := by
  delta State.nextAtom
  repeat' first
    | with_reducible first
      | assumption | apply State.setMu_keeps | apply State.doAtom_keeps | intro _
      | fail_if_no_progress apply mk_keeps
    | (fail_if_no_progress extract_lets +onlyGivenNames z
       first
         | (with_reducible refine keeps_cut (p := Keeps s z) ?_ ?_
            on_goal 2 => (intro _; clear_value z)
            on_goal 1 => try dsimp -zeta only [z])
         | clear_value z | skip)
    | split

theorem State.vendorRsp_keeps {s t : State} (h : Keeps s t) (ep cmd code : Nat) (body : List Byte) : Keeps s
    (State.vendorRsp t ep cmd code body) := by
  delta State.vendorRsp
  repeat' first
    | with_reducible first
      | assumption | apply State.emit_keeps

theorem execState_keeps {s t : State} (h : Keeps s t) (ep : Nat) : KeepsOut s (execState ep t) := by
  delta execState
  repeat' first
    | with_reducible first
      | assumption | apply KeepsOut.next | apply State.vendorRsp_keeps

theorem State.sealRecord_keeps {s t : State} (h : Keeps s t) (op arg result : Nat) : Keeps s (State.sealRecord t
    op arg result) := by
  delta State.sealRecord
  repeat' first
    | with_reducible first
      | assumption | apply State.bbPut_keeps

theorem execRead_keeps {s t : State} (h : Keeps s t) (ep area start count : Nat) : KeepsOut s (execRead ep area
    start count t) := by
  delta execRead
  repeat' first
    | with_reducible first
      | assumption | apply KeepsOut.next | apply State.vendorRsp_keeps | intro _
    | (fail_if_no_progress extract_lets +onlyGivenNames z
       first
         | (with_reducible refine keeps_cut (p := Keeps s z) ?_ ?_
            on_goal 2 => (intro _; clear_value z)
            on_goal 1 => try dsimp -zeta only [z])
         | clear_value z | skip)
    | split

theorem State.blockRead_keeps {s t : State} (h : Keeps s t) (addr : Nat) (block : Option (List Byte)) : Keeps s
    (State.blockRead t addr block) := by
  delta State.blockRead
  repeat' first
    | with_reducible first
      | assumption | apply State.emits_keeps
    | (fail_if_no_progress extract_lets +onlyGivenNames z
       first
         | (with_reducible refine keeps_cut (p := Keeps s z) ?_ ?_
            on_goal 2 => (intro _; clear_value z)
            on_goal 1 => try dsimp -zeta only [z])
         | clear_value z | skip)
    | split

theorem State.showBBox_keeps {s t : State} (h : Keeps s t) : Keeps s (State.showBBox t) := by
  delta State.showBBox
  repeat' first
    | with_reducible first
      | assumption | apply State.setf_keeps
    | (fail_if_no_progress extract_lets +onlyGivenNames z
       first
         | (with_reducible refine keeps_cut (p := Keeps s z) ?_ ?_
            on_goal 2 => (intro _; clear_value z)
            on_goal 1 => try dsimp -zeta only [z])
         | clear_value z | skip)

theorem BBox.write_boots (b : BBox) (r : Line) (f : Bool) : (b.write r f).boots = b.boots := by
  unfold BBox.write
  dsimp only
  split
  · rw [BBox.save_boots]
  · rfl

theorem BBox.writes_boots (b : BBox) (l : List (Line × Bool)) :
    (l.foldl (fun b e => b.write e.1 e.2) b).boots = b.boots := by
  induction l generalizing b with
  | nil => rfl
  | cons e l ih => exact (ih _).trans (BBox.write_boots _ _ _)

theorem State.drainBBox_keeps {s t : State} (h : Keeps s t) : Keeps s t.drainBBox := by
  unfold State.drainBBox
  exact State.showBBox_keeps (State.setBBox_keeps h (by rw [BBox.writes_boots]))

theorem execOverflow_keeps {s t : State} (h : Keeps s t) : KeepsOut s (execOverflow t) := by
  delta execOverflow
  repeat' first
    | with_reducible first
      | assumption | apply KeepsOut.next
      | (refine State.setBBox_keeps ?_ ?_; on_goal 2 => (with_unfolding_all exact Nat.le_refl _))
      | apply State.bbPut_keeps | fail_if_no_progress apply mk_keeps
    | (fail_if_no_progress extract_lets +onlyGivenNames z
       first
         | (with_reducible refine keeps_cut (p := Keeps s z) ?_ ?_
            on_goal 2 => (intro _; clear_value z)
            on_goal 1 => try dsimp -zeta only [z])
         | (with_reducible refine keeps_cut (p := z = (z : BBox) ∨ True) (.inr trivial) ?_; intro _)
         | clear_value z | skip)
    | split

theorem execBlackBoxWrite_keeps {s t : State} (h : Keeps s t) : KeepsOut s (execBlackBoxWrite t) := by
  unfold execBlackBoxWrite
  split
  · exact .next (State.showBBox_keeps (State.setBBox_keeps h (by rw [BBox.write_boots])))
  · exact .next h

theorem execBlackBoxReadSelect_keeps {s t : State} (h : Keeps s t) (w : Word) : KeepsOut s
    (execBlackBoxReadSelect w t) := by
  delta execBlackBoxReadSelect
  repeat' first
    | with_reducible first
      | assumption | apply KeepsOut.next | apply State.setv_keeps | apply foldl_keeps | apply foldl_fst_keeps
      | apply foldl_snd_keeps | intro _
    | (fail_if_no_progress extract_lets +onlyGivenNames z
       first
         | (with_reducible refine keeps_cut (p := Keeps s z) ?_ ?_
            on_goal 2 => (intro _; clear_value z)
            on_goal 1 => try dsimp -zeta only [z])
         | clear_value z | skip)
    | split

theorem State.clearDone_keeps {s t : State} (h : Keeps s t) (token res : Nat) : Keeps s (State.clearDone t token
    res) := by
  delta State.clearDone
  repeat' first
    | with_reducible first
      | assumption | apply State.setv_keeps

theorem BBox.clear_boots (c : BBox) (r : Line) (a : Bool) (p : Prop) [Decidable p] :
    ((if p then { c.write r false with ffCount := 0 } else c.write r false : BBox).saveClear a).boots = c.boots := by
  have k : (if p then { c.write r false with ffCount := 0 } else c.write r false : BBox).boots = c.boots := by
    split
    · exact BBox.write_boots c r false
    · exact BBox.write_boots c r false
  generalize (if p then { c.write r false with ffCount := 0 } else c.write r false : BBox) = d at k
  cases d
  exact k

theorem execClear_keeps {s t : State} (h : Keeps s t) (token : Nat) (block : Option (List Byte)) :
    KeepsOut s (execClear token block t) := by
  unfold execClear
  extract_lets res arg op rd u b r c d e v src w
  have hr : Keeps s rd := by
    unfold rd
    split
    · exact h
    · exact State.blockRead_keeps h _ _
  have hu : Keeps s u := State.clearDone_keeps (State.setf_keeps (State.setf_keeps hr _ _ _) _ _ _) _ _
  clear_value u rd
  split
  · have hb : e.boots = b.boots := BBox.clear_boots c r (arg == 1) (arg = 1)
    clear_value e
    have hv : Keeps s v := State.setBBox_keeps hu (Nat.le_of_eq hb.symm)
    clear_value v
    refine .next (State.sealRecord_keeps (State.showBBox_keeps ?_) _ _ _)
    unfold w src
    split
    · exact State.setSeal_keeps hv (Nat.le_refl _) id (Nat.le_succ _)
    · exact hv
  · exact .next (State.sealRecord_keeps hu _ _ _)

theorem effVfma_keeps {s t : State} (h : Keeps s t) (f : Firing) : KeepsPair s (effVfma t f) := by
  delta effVfma
  repeat' first
    | with_reducible first
      | assumption | apply KeepsPair.none | apply KeepsPair.some | apply State.dstLanes_keeps | intro _
    | split

theorem execVfma_keeps {s t : State} (h : Keeps s t) (site : Nat) : KeepsOut s (execVfma site t) := by
  delta execVfma
  repeat' first
    | with_reducible first
      | assumption | apply KeepsOut.next | apply State.fire_keeps | apply effVfma_keeps | intro _

theorem done_keeps {s t : State} (h : Keeps s t) (out : Sends) : KeepsPair s (done t out) := by
  delta done
  repeat' first
    | with_reducible first
      | assumption | apply KeepsPair.none | apply KeepsPair.some

theorem done_keeps_eq {s t u : State} {z} {out : Sends} (h : Keeps s t)  (e : done t out = some (u, z)) : Keeps s
    u :=
  (done_keeps h out).get _ _ e

theorem effSyncSignal_keeps {s t : State} (h : Keeps s t) (f : Firing) : KeepsPair s (effSyncSignal t f) := by
  delta effSyncSignal
  repeat' first
    | with_reducible first
      | assumption | apply KeepsPair.none | apply KeepsPair.some | refine done_keeps_eq ?_ (by assumption)
      | apply done_keeps | apply State.semSignal_keeps
    | split

theorem State.vec2_keeps {s t : State} (h : Keeps s t) (f : Firing) (op : Nat → Nat → Nat) : KeepsPair s
    (State.vec2 t f op) := by
  delta State.vec2
  repeat' first
    | with_reducible first
      | assumption | apply KeepsPair.none | apply KeepsPair.some | apply State.dstLanes_keeps

theorem effVadd_keeps {s t : State} (h : Keeps s t) (f : Firing) : KeepsPair s (effVadd t f) := by
  delta effVadd
  repeat' first
    | with_reducible first
      | assumption | apply KeepsPair.none | apply KeepsPair.some | apply State.vec2_keeps | intro _
    | split

theorem execVadd_keeps {s t : State} (h : Keeps s t) (site : Nat) : KeepsOut s (execVadd site t) := by
  delta execVadd
  repeat' first
    | with_reducible first
      | assumption | apply KeepsOut.next | apply State.fire_keeps | apply effVadd_keeps | intro _

theorem State.matrix_keeps {s t : State} (h : Keeps s t) (f : Firing) : Keeps s (State.matrix t f) := by
  delta State.matrix
  repeat' first
    | with_reducible first
      | assumption | apply State.setCu_keeps | apply foldl_keeps | intro _
    | (fail_if_no_progress extract_lets +onlyGivenNames z
       first
         | (with_reducible refine keeps_cut (p := Keeps s z) ?_ ?_
            on_goal 2 => (intro _; clear_value z)
            on_goal 1 => try dsimp -zeta only [z])
         | clear_value z | skip)
    | split

theorem effMatrix_keeps {s t : State} (h : Keeps s t) (f : Firing) : KeepsPair s (effMatrix t f) := by
  delta effMatrix
  repeat' first
    | with_reducible first
      | assumption | apply KeepsPair.none | apply KeepsPair.some | apply done_keeps | apply State.matrix_keeps

theorem execMatrix_keeps {s t : State} (h : Keeps s t) (site : Nat) : KeepsOut s (execMatrix site t) := by
  delta execMatrix
  repeat' first
    | with_reducible first
      | assumption | apply KeepsOut.next | apply State.fire_keeps | apply effMatrix_keeps | intro _

theorem State.vec1_keeps {s t : State} (h : Keeps s t) (f : Firing) (op : Nat → Nat) : KeepsPair s (State.vec1 t
    f op) := by
  delta State.vec1
  repeat' first
    | with_reducible first
      | assumption | apply KeepsPair.none | apply KeepsPair.some | apply KeepsPair.map | apply State.dstLanes_keeps

theorem effVabs_keeps {s t : State} (h : Keeps s t) (f : Firing) : KeepsPair s (effVabs t f) := by
  delta effVabs
  repeat' first
    | with_reducible first
      | assumption | apply KeepsPair.none | apply KeepsPair.some | apply State.vec1_keeps | intro _
    | split

theorem execVabs_keeps {s t : State} (h : Keeps s t) (site : Nat) : KeepsOut s (execVabs site t) := by
  delta execVabs
  repeat' first
    | with_reducible first
      | assumption | apply KeepsOut.next | apply State.fire_keeps | apply effVabs_keeps | intro _

theorem effRetire_keeps {s t : State} (h : Keeps s t) (f : Firing) : KeepsPair s (effRetire t f) := by
  delta effRetire
  repeat' first
    | with_reducible first
      | assumption | apply KeepsPair.none | apply KeepsPair.some | apply State.dispenserRequest_keeps

theorem State.reduce_keeps {s t : State} (h : Keeps s t) (f : Firing) (op : List Nat → Nat) : KeepsPair s
    (State.reduce t f op) := by
  delta State.reduce
  repeat' first
    | with_reducible first
      | assumption | apply KeepsPair.none | apply KeepsPair.some | apply KeepsPair.map | apply State.dstLanes_keeps
    | (fail_if_no_progress extract_lets +onlyGivenNames z
       first
         | (with_reducible refine keeps_cut (p := Keeps s z) ?_ ?_
            on_goal 2 => (intro _; clear_value z)
            on_goal 1 => try dsimp -zeta only [z])
         | clear_value z | skip)

theorem effRedSum_keeps {s t : State} (h : Keeps s t) (f : Firing) : KeepsPair s (effRedSum t f) := by
  delta effRedSum
  repeat' first
    | with_reducible first
      | assumption | apply KeepsPair.none | apply KeepsPair.some | apply KeepsPair.map | apply State.reduce_keeps
      | intro _
    | split

theorem execRedSum_keeps {s t : State} (h : Keeps s t) (site : Nat) : KeepsOut s (execRedSum site t) := by
  delta execRedSum
  repeat' first
    | with_reducible first
      | assumption | apply KeepsOut.next | apply State.fire_keeps | apply effRedSum_keeps | intro _

theorem effSendEosOnly_keeps {s t : State} (h : Keeps s t) (f : Firing) : KeepsPair s (effSendEosOnly t f) := by
  delta effSendEosOnly
  repeat' first
    | with_reducible first
      | assumption | apply KeepsPair.none | apply KeepsPair.some | apply KeepsPair.map | apply done_keeps | intro _
    | split

theorem effTagSet_keeps {s t : State} (h : Keeps s t) (f : Firing) : KeepsPair s (effTagSet t f) := by
  delta effTagSet
  repeat' first
    | with_reducible first
      | assumption | apply KeepsPair.none | apply KeepsPair.some | apply State.dstWrite_keeps

theorem effAccZero_keeps {s t : State} (h : Keeps s t) (f : Firing) : KeepsPair s (effAccZero t f) := by
  delta effAccZero
  repeat' first
    | with_reducible first
      | assumption | apply KeepsPair.none | apply KeepsPair.some | apply done_keeps | apply State.setCu_keeps
      | apply foldl_keeps | apply foldl_fst_keeps | apply foldl_snd_keeps | intro _
    | (fail_if_no_progress extract_lets +onlyGivenNames z
       first
         | (with_reducible refine keeps_cut (p := Keeps s z) ?_ ?_
            on_goal 2 => (intro _; clear_value z)
            on_goal 1 => try dsimp -zeta only [z])
         | clear_value z | skip)
    | split

theorem effRouteSelect_keeps {s t : State} (h : Keeps s t) (f : Firing) : KeepsPair s (effRouteSelect t f) := by
  delta effRouteSelect
  repeat' first
    | with_reducible first
      | assumption | apply KeepsPair.none | apply KeepsPair.some | apply State.dstWrite_keeps | apply foldl_keeps
      | apply foldl_fst_keeps | apply foldl_snd_keeps | intro _
    | (fail_if_no_progress extract_lets +onlyGivenNames z
       first
         | (with_reducible refine keeps_cut (p := Keeps s z) ?_ ?_
            on_goal 2 => (intro _; clear_value z)
            on_goal 1 => try dsimp -zeta only [z])
         | (with_reducible refine keeps_cut (p := Keeps s z.1) ?_ ?_
            on_goal 2 => (intro _)
            on_goal 1 => try dsimp -zeta only [z])
         | clear_value z | skip)
    | split

theorem effSyncWait_keeps {s t : State} (h : Keeps s t) (f : Firing) : KeepsPair s (effSyncWait t f) := by
  delta effSyncWait
  repeat' first
    | with_reducible first
      | assumption | apply KeepsPair.none | apply KeepsPair.some | refine done_keeps_eq ?_ (by assumption)
      | apply done_keeps | apply State.semWait_keeps | refine State.semWait_keeps_eq ?_ (by assumption)
      | apply State.setCu_keeps
    | (fail_if_no_progress extract_lets +onlyGivenNames z
       first
         | (with_reducible refine keeps_cut (p := Keeps s z) ?_ ?_
            on_goal 2 => (intro _; clear_value z)
            on_goal 1 => try dsimp -zeta only [z])
         | (with_reducible refine keeps_cut (p := Keeps s z.1) ?_ ?_
            on_goal 2 => (intro _)
            on_goal 1 => try dsimp -zeta only [z])
         | clear_value z | skip)
    | split

theorem effVlog2_keeps {s t : State} (h : Keeps s t) (f : Firing) : KeepsPair s (effVlog2 t f) := by
  delta effVlog2
  repeat' first
    | with_reducible first
      | assumption | apply KeepsPair.none | apply KeepsPair.some | apply State.vec1_keeps

theorem execSyncWait_keeps {s t : State} (h : Keeps s t) (site : Nat) : KeepsOut s (execSyncWait site t) := by
  delta execSyncWait
  repeat' first
    | with_reducible first
      | assumption | apply KeepsOut.next | apply State.fire_keeps | apply effSyncWait_keeps | intro _

theorem effRedMax_keeps {s t : State} (h : Keeps s t) (f : Firing) : KeepsPair s (effRedMax t f) := by
  delta effRedMax
  repeat' first
    | with_reducible first
      | assumption | apply KeepsPair.none | apply KeepsPair.some | apply State.reduce_keeps

theorem effAppend_keeps {s t : State} (h : Keeps s t) (f : Firing) : KeepsPair s (effAppend t f) := by
  delta effAppend
  repeat' first
    | with_reducible first
      | assumption | apply KeepsPair.none | apply KeepsPair.some | apply KeepsPair.map
      | refine done_keeps_eq ?_ (by assumption) | apply done_keeps | intro _
    | (fail_if_no_progress extract_lets +onlyGivenNames z
       first
         | (with_reducible refine keeps_cut (p := Keeps s z) ?_ ?_
            on_goal 2 => (intro _; clear_value z)
            on_goal 1 => try dsimp -zeta only [z])
         | clear_value z | skip)
    | split

theorem execAppend_keeps {s t : State} (h : Keeps s t) (site : Nat) : KeepsOut s (execAppend site t) := by
  delta execAppend
  repeat' first
    | with_reducible first
      | assumption | apply KeepsOut.next | apply State.fire_keeps | apply effAppend_keeps | intro _

theorem effVmin_keeps {s t : State} (h : Keeps s t) (f : Firing) : KeepsPair s (effVmin t f) := by
  delta effVmin
  repeat' first
    | with_reducible first
      | assumption | apply KeepsPair.none | apply KeepsPair.some | apply State.vec2_keeps | intro _
    | split

theorem execVmin_keeps {s t : State} (h : Keeps s t) (site : Nat) : KeepsOut s (execVmin site t) := by
  delta execVmin
  repeat' first
    | with_reducible first
      | assumption | apply KeepsOut.next | apply State.fire_keeps | apply effVmin_keeps | intro _

theorem State.awaitEnd_keeps {s t : State} (h : Keeps s t) (p dst layer pass : Nat) : Keeps s (State.awaitEnd t p
    dst layer pass) := by
  delta State.awaitEnd
  repeat' first
    | with_reducible first
      | assumption | apply State.setPart_keeps | intro _ | fail_if_no_progress apply mk_keeps
    | (fail_if_no_progress extract_lets +onlyGivenNames z
       first
         | (with_reducible refine keeps_cut (p := Keeps s z) ?_ ?_
            on_goal 2 => (intro _; clear_value z)
            on_goal 1 => try dsimp -zeta only [z])
         | clear_value z | skip)
    | split

theorem State.sendEnds_keeps {s t : State} (h : Keeps s t) (p layer pass : Nat) : Keeps s (State.sendEnds t p
    layer pass) := by
  delta State.sendEnds
  repeat' first
    | with_reducible first
      | assumption | apply State.sendStep_keeps | apply foldl_keeps | intro _
    | split

theorem State.sendDispatch_keeps {s t : State} (h : Keeps s t) (p word : Nat) (chunk : Words) : Keeps s
    (State.sendDispatch t p word chunk) := by
  delta State.sendDispatch
  repeat' first
    | with_reducible first
      | assumption | apply State.awaitEnd_keeps | apply State.setPart_keeps | apply State.sendEnds_keeps
      | apply State.sendStep_keeps | intro _ | fail_if_no_progress apply mk_keeps
    | (fail_if_no_progress extract_lets +onlyGivenNames z
       first
         | (with_reducible refine keeps_cut (p := Keeps s z) ?_ ?_
            on_goal 2 => (intro _; clear_value z)
            on_goal 1 => try dsimp -zeta only [z])
         | clear_value z | skip)
    | split

theorem effRouteDispatch_keeps {s t : State} (h : Keeps s t) (f : Firing) : KeepsPair s (effRouteDispatch t f) := by
  delta effRouteDispatch
  repeat' first
    | with_reducible first
      | assumption | apply KeepsPair.none | apply KeepsPair.some | apply done_keeps
      | apply State.sendDispatch_keeps | intro _
    | (fail_if_no_progress extract_lets +onlyGivenNames z
       first
         | (with_reducible refine keeps_cut (p := Keeps s z) ?_ ?_
            on_goal 2 => (intro _; clear_value z)
            on_goal 1 => try dsimp -zeta only [z])
         | clear_value z | skip)
    | split

theorem execRouteDispatch_keeps {s t : State} (h : Keeps s t) (site : Nat) : KeepsOut s (execRouteDispatch site t) := by
  delta execRouteDispatch
  repeat' first
    | with_reducible first
      | assumption | apply KeepsOut.next | apply State.fire_keeps | apply effRouteDispatch_keeps | intro _

theorem effTagAction_keeps {s t : State} (h : Keeps s t) (f : Firing) : KeepsPair s (effTagAction t f) := by
  delta effTagAction
  repeat' first
    | with_reducible first
      | assumption | apply KeepsPair.none | apply KeepsPair.some | apply State.dstWrite_keeps

theorem effScoreRsum_keeps {s t : State} (h : Keeps s t) (f : Firing) : KeepsPair s (effScoreRsum t f) := by
  delta effScoreRsum
  repeat' first
    | with_reducible first
      | assumption | apply KeepsPair.none | apply KeepsPair.some | apply KeepsPair.map | apply State.dstWrite_keeps
    | (fail_if_no_progress extract_lets +onlyGivenNames z
       first
         | (with_reducible refine keeps_cut (p := Keeps s z) ?_ ?_
            on_goal 2 => (intro _; clear_value z)
            on_goal 1 => try dsimp -zeta only [z])
         | clear_value z | skip)
    | split

theorem execScoreRsum_keeps {s t : State} (h : Keeps s t) (site : Nat) : KeepsOut s (execScoreRsum site t) := by
  delta execScoreRsum
  repeat' first
    | with_reducible first
      | assumption | apply KeepsOut.next | apply State.fire_keeps | apply effScoreRsum_keeps | intro _

theorem effSteer_keeps {s t : State} (h : Keeps s t) (f : Firing) : KeepsPair s (effSteer t f) := by
  delta effSteer
  repeat' first
    | with_reducible first
      | assumption | apply KeepsPair.none | apply KeepsPair.some | apply KeepsPair.map | apply done_keeps | intro _
    | (fail_if_no_progress extract_lets +onlyGivenNames z
       first
         | (with_reducible refine keeps_cut (p := Keeps s z) ?_ ?_
            on_goal 2 => (intro _; clear_value z)
            on_goal 1 => try dsimp -zeta only [z])
         | clear_value z | skip)
    | split

theorem execSteer_keeps {s t : State} (h : Keeps s t) (site : Nat) : KeepsOut s (execSteer site t) := by
  delta execSteer
  repeat' first
    | with_reducible first
      | assumption | apply KeepsOut.next | apply State.fire_keeps | apply effSteer_keeps | intro _

theorem effVneg_keeps {s t : State} (h : Keeps s t) (f : Firing) : KeepsPair s (effVneg t f) := by
  delta effVneg
  repeat' first
    | with_reducible first
      | assumption | apply KeepsPair.none | apply KeepsPair.some | apply State.vec1_keeps | intro _
    | split

theorem execVneg_keeps {s t : State} (h : Keeps s t) (site : Nat) : KeepsOut s (execVneg site t) := by
  delta execVneg
  repeat' first
    | with_reducible first
      | assumption | apply KeepsOut.next | apply State.fire_keeps | apply effVneg_keeps | intro _

theorem effRedMin_keeps {s t : State} (h : Keeps s t) (f : Firing) : KeepsPair s (effRedMin t f) := by
  delta effRedMin
  repeat' first
    | with_reducible first
      | assumption | apply KeepsPair.none | apply KeepsPair.some | apply State.reduce_keeps

theorem execRedMin_keeps {s t : State} (h : Keeps s t) (site : Nat) : KeepsOut s (execRedMin site t) := by
  delta execRedMin
  repeat' first
    | with_reducible first
      | assumption | apply KeepsOut.next | apply State.fire_keeps | apply effRedMin_keeps | intro _

theorem effAccLoad_keeps {s t : State} (h : Keeps s t) (f : Firing) : KeepsPair s (effAccLoad t f) := by
  delta effAccLoad
  repeat' first
    | with_reducible first
      | assumption | apply KeepsPair.none | apply KeepsPair.some | apply State.dstLanes_keeps

theorem effVmax_keeps {s t : State} (h : Keeps s t) (f : Firing) : KeepsPair s (effVmax t f) := by
  delta effVmax
  repeat' first
    | with_reducible first
      | assumption | apply KeepsPair.none | apply KeepsPair.some | apply State.vec2_keeps | intro _
    | split

theorem execVmax_keeps {s t : State} (h : Keeps s t) (site : Nat) : KeepsOut s (execVmax site t) := by
  delta execVmax
  repeat' first
    | with_reducible first
      | assumption | apply KeepsOut.next | apply State.fire_keeps | apply effVmax_keeps | intro _

theorem effVsub_keeps {s t : State} (h : Keeps s t) (f : Firing) : KeepsPair s (effVsub t f) := by
  delta effVsub
  repeat' first
    | with_reducible first
      | assumption | apply KeepsPair.none | apply KeepsPair.some | apply State.vec2_keeps | intro _
    | split

theorem effRedSumsq_keeps {s t : State} (h : Keeps s t) (f : Firing) : KeepsPair s (effRedSumsq t f) := by
  delta effRedSumsq
  repeat' first
    | with_reducible first
      | assumption | apply KeepsPair.none | apply KeepsPair.some | apply KeepsPair.map | apply State.reduce_keeps
      | intro _
    | (fail_if_no_progress extract_lets +onlyGivenNames z
       first
         | (with_reducible refine keeps_cut (p := Keeps s z) ?_ ?_
            on_goal 2 => (intro _; clear_value z)
            on_goal 1 => try dsimp -zeta only [z])
         | clear_value z | skip)
    | split

theorem execRedSumsq_keeps {s t : State} (h : Keeps s t) (site : Nat) : KeepsOut s (execRedSumsq site t) := by
  delta execRedSumsq
  repeat' first
    | with_reducible first
      | assumption | apply KeepsOut.next | apply State.fire_keeps | apply effRedSumsq_keeps | intro _

theorem effAccAdd_keeps {s t : State} (h : Keeps s t) (f : Firing) : KeepsPair s (effAccAdd t f) := by
  delta effAccAdd
  repeat' first
    | with_reducible first
      | assumption | apply KeepsPair.none | apply KeepsPair.some | apply KeepsPair.map | apply State.dstLanes_keeps
      | intro _
    | (fail_if_no_progress extract_lets +onlyGivenNames z
       first
         | (with_reducible refine keeps_cut (p := Keeps s z) ?_ ?_
            on_goal 2 => (intro _; clear_value z)
            on_goal 1 => try dsimp -zeta only [z])
         | clear_value z | skip)
    | split

theorem execAccAdd_keeps {s t : State} (h : Keeps s t) (site : Nat) : KeepsOut s (execAccAdd site t) := by
  delta execAccAdd
  repeat' first
    | with_reducible first
      | assumption | apply KeepsOut.next | apply State.fire_keeps | apply effAccAdd_keeps | intro _

theorem execVlog2_keeps {s t : State} (h : Keeps s t) (site : Nat) : KeepsOut s (execVlog2 site t) := by
  delta execVlog2
  repeat' first
    | with_reducible first
      | assumption | apply KeepsOut.next | apply State.fire_keeps | apply effVlog2_keeps | intro _

theorem effSendEosAfter_keeps {s t : State} (h : Keeps s t) (f : Firing) : KeepsPair s (effSendEosAfter t f) := by
  delta effSendEosAfter
  repeat' first
    | with_reducible first
      | assumption | apply KeepsPair.none | apply KeepsPair.some | apply KeepsPair.map | apply done_keeps
      | apply State.dstWrite_keeps | intro _
    | (fail_if_no_progress extract_lets +onlyGivenNames z
       first
         | (with_reducible refine keeps_cut (p := Keeps s z) ?_ ?_
            on_goal 2 => (intro _; clear_value z)
            on_goal 1 => try dsimp -zeta only [z])
         | (with_reducible refine keeps_cut (p := Keeps s z.1) ?_ ?_
            on_goal 2 => (intro _)
            on_goal 1 => try dsimp -zeta only [z])
         | clear_value z | skip)
    | split

theorem execSendEosAfter_keeps {s t : State} (h : Keeps s t) (site : Nat) : KeepsOut s (execSendEosAfter site t) := by
  delta execSendEosAfter
  repeat' first
    | with_reducible first
      | assumption | apply KeepsOut.next | apply State.fire_keeps | apply effSendEosAfter_keeps | intro _

theorem effClaim_keeps {s t : State} (h : Keeps s t) (f : Firing) : KeepsPair s (effClaim t f) := by
  delta effClaim
  repeat' first
    | with_reducible first
      | assumption | apply KeepsPair.none | apply KeepsPair.some | apply State.dispenserRequest_keeps

theorem execClaim_keeps {s t : State} (h : Keeps s t) (site : Nat) : KeepsOut s (execClaim site t) := by
  delta execClaim
  repeat' first
    | with_reducible first
      | assumption | apply KeepsOut.next | apply State.fire_keeps | apply effClaim_keeps | intro _

theorem effMove_keeps {s t : State} (h : Keeps s t) (f : Firing) : KeepsPair s (effMove t f) := by
  delta effMove
  repeat' first
    | with_reducible first
      | assumption | apply KeepsPair.none | apply KeepsPair.some | apply State.dstWrite_keeps

theorem execMove_keeps {s t : State} (h : Keeps s t) (site : Nat) : KeepsOut s (execMove site t) := by
  delta execMove
  repeat' first
    | with_reducible first
      | assumption | apply KeepsOut.next | apply State.fire_keeps | apply effMove_keeps | intro _

theorem effSend_keeps {s t : State} (h : Keeps s t) (f : Firing) : KeepsPair s (effSend t f) := by
  delta effSend
  repeat' first
    | with_reducible first
      | assumption | apply KeepsPair.none | apply KeepsPair.some | apply State.dstWrite_keeps

theorem effVrsq_keeps {s t : State} (h : Keeps s t) (f : Firing) : KeepsPair s (effVrsq t f) := by
  delta effVrsq
  repeat' first
    | with_reducible first
      | assumption | apply KeepsPair.none | apply KeepsPair.some | apply State.vec1_keeps

theorem execVrsq_keeps {s t : State} (h : Keeps s t) (site : Nat) : KeepsOut s (execVrsq site t) := by
  delta execVrsq
  repeat' first
    | with_reducible first
      | assumption | apply KeepsOut.next | apply State.fire_keeps | apply effVrsq_keeps | intro _

theorem execRouteSelect_keeps {s t : State} (h : Keeps s t) (site : Nat) : KeepsOut s (execRouteSelect site t) := by
  delta execRouteSelect
  repeat' first
    | with_reducible first
      | assumption | apply KeepsOut.next | apply State.fire_keeps | apply effRouteSelect_keeps | intro _

theorem execTagAction_keeps {s t : State} (h : Keeps s t) (site : Nat) : KeepsOut s (execTagAction site t) := by
  delta execTagAction
  repeat' first
    | with_reducible first
      | assumption | apply KeepsOut.next | apply State.fire_keeps | apply effTagAction_keeps | intro _

theorem effVrcp_keeps {s t : State} (h : Keeps s t) (f : Firing) : KeepsPair s (effVrcp t f) := by
  delta effVrcp
  repeat' first
    | with_reducible first
      | assumption | apply KeepsPair.none | apply KeepsPair.some | apply State.vec1_keeps

theorem execVrcp_keeps {s t : State} (h : Keeps s t) (site : Nat) : KeepsOut s (execVrcp site t) := by
  delta execVrcp
  repeat' first
    | with_reducible first
      | assumption | apply KeepsOut.next | apply State.fire_keeps | apply effVrcp_keeps | intro _

theorem effMerge_keeps {s t : State} (h : Keeps s t) (f : Firing) : KeepsPair s (effMerge t f) := by
  delta effMerge
  repeat' first
    | with_reducible first
      | assumption | apply KeepsPair.none | apply KeepsPair.some | apply State.dstWrite_keeps

theorem effVcmp_keeps {s t : State} (h : Keeps s t) (f : Firing) : KeepsPair s (effVcmp t f) := by
  delta effVcmp
  repeat' first
    | with_reducible first
      | assumption | apply KeepsPair.none | apply KeepsPair.some | apply State.vec2_keeps | intro _
    | split

theorem effVsel_keeps {s t : State} (h : Keeps s t) (f : Firing) : KeepsPair s (effVsel t f) := by
  delta effVsel
  repeat' first
    | with_reducible first
      | assumption | apply KeepsPair.none | apply KeepsPair.some | apply State.vec2_keeps | intro _
    | split

theorem execVsel_keeps {s t : State} (h : Keeps s t) (site : Nat) : KeepsOut s (execVsel site t) := by
  delta execVsel
  repeat' first
    | with_reducible first
      | assumption | apply KeepsOut.next | apply State.fire_keeps | apply effVsel_keeps | intro _

theorem effAccRead_keeps {s t : State} (h : Keeps s t) (f : Firing) : KeepsPair s (effAccRead t f) := by
  delta effAccRead
  repeat' first
    | with_reducible first
      | assumption | apply KeepsPair.none | apply KeepsPair.some | apply State.dstLanes_keeps

theorem effVexp2_keeps {s t : State} (h : Keeps s t) (f : Firing) : KeepsPair s (effVexp2 t f) := by
  delta effVexp2
  repeat' first
    | with_reducible first
      | assumption | apply KeepsPair.none | apply KeepsPair.some | apply State.vec1_keeps | intro _
    | split

theorem execVexp2_keeps {s t : State} (h : Keeps s t) (site : Nat) : KeepsOut s (execVexp2 site t) := by
  delta execVexp2
  repeat' first
    | with_reducible first
      | assumption | apply KeepsOut.next | apply State.fire_keeps | apply effVexp2_keeps | intro _

theorem effTagData_keeps {s t : State} (h : Keeps s t) (f : Firing) : KeepsPair s (effTagData t f) := by
  delta effTagData
  repeat' first
    | with_reducible first
      | assumption | apply KeepsPair.none | apply KeepsPair.some | apply State.dstWrite_keeps

theorem execRedMax_keeps {s t : State} (h : Keeps s t) (site : Nat) : KeepsOut s (execRedMax site t) := by
  delta execRedMax
  repeat' first
    | with_reducible first
      | assumption | apply KeepsOut.next | apply State.fire_keeps | apply effRedMax_keeps | intro _

theorem execRetire_keeps {s t : State} (h : Keeps s t) (site : Nat) : KeepsOut s (execRetire site t) := by
  delta execRetire
  repeat' first
    | with_reducible first
      | assumption | apply KeepsOut.next | apply State.fire_keeps | apply effRetire_keeps | intro _

theorem effVmul_keeps {s t : State} (h : Keeps s t) (f : Firing) : KeepsPair s (effVmul t f) := by
  delta effVmul
  repeat' first
    | with_reducible first
      | assumption | apply KeepsPair.none | apply KeepsPair.some | apply State.vec2_keeps | intro _
    | split

theorem execMerge_keeps {s t : State} (h : Keeps s t) (site : Nat) : KeepsOut s (execMerge site t) := by
  delta execMerge
  repeat' first
    | with_reducible first
      | assumption | apply KeepsOut.next | apply State.fire_keeps | apply effMerge_keeps | intro _

theorem effNop_keeps {s t : State} (h : Keeps s t) (x1 : Firing) : KeepsPair s (effNop t x1) := by
  delta effNop
  repeat' first
    | with_reducible first
      | assumption | apply KeepsPair.none | apply KeepsPair.some | apply done_keeps

theorem execTagSet_keeps {s t : State} (h : Keeps s t) (site : Nat) : KeepsOut s (execTagSet site t) := by
  delta execTagSet
  repeat' first
    | with_reducible first
      | assumption | apply KeepsOut.next | apply State.fire_keeps | apply effTagSet_keeps | intro _

theorem execSyncSignal_keeps {s t : State} (h : Keeps s t) (site : Nat) : KeepsOut s (execSyncSignal site t) := by
  delta execSyncSignal
  repeat' first
    | with_reducible first
      | assumption | apply KeepsOut.next | apply State.fire_keeps | apply effSyncSignal_keeps | intro _

theorem execAccLoad_keeps {s t : State} (h : Keeps s t) (site : Nat) : KeepsOut s (execAccLoad site t) := by
  delta execAccLoad
  repeat' first
    | with_reducible first
      | assumption | apply KeepsOut.next | apply State.fire_keeps | apply effAccLoad_keeps | intro _

theorem effPack_keeps {s t : State} (h : Keeps s t) (f : Firing) : KeepsPair s (effPack t f) := by
  delta effPack
  repeat' first
    | with_reducible first
      | assumption | apply KeepsPair.none | apply KeepsPair.some | apply KeepsPair.map | apply State.setCu_keeps
      | apply State.dstWrite_keeps | intro _ | fail_if_no_progress apply mk_keeps
    | (fail_if_no_progress extract_lets +onlyGivenNames z
       first
         | (with_reducible refine keeps_cut (p := Keeps s z) ?_ ?_
            on_goal 2 => (intro _; clear_value z)
            on_goal 1 => try dsimp -zeta only [z])
         | (with_reducible refine keeps_cut (p := Keeps s z.1) ?_ ?_
            on_goal 2 => (intro _)
            on_goal 1 => try dsimp -zeta only [z])
         | clear_value z | skip)
    | split

theorem execPack_keeps {s t : State} (h : Keeps s t) (site : Nat) : KeepsOut s (execPack site t) := by
  delta execPack
  repeat' first
    | with_reducible first
      | assumption | apply KeepsOut.next | apply State.fire_keeps | apply effPack_keeps | intro _

theorem effScoreExpd_keeps {s t : State} (h : Keeps s t) (f : Firing) : KeepsPair s (effScoreExpd t f) := by
  delta effScoreExpd
  repeat' first
    | with_reducible first
      | assumption | apply KeepsPair.none | apply KeepsPair.some | apply State.vec1_keeps | intro _
    | (fail_if_no_progress extract_lets +onlyGivenNames z
       first
         | (with_reducible refine keeps_cut (p := Keeps s z) ?_ ?_
            on_goal 2 => (intro _; clear_value z)
            on_goal 1 => try dsimp -zeta only [z])
         | clear_value z | skip)
    | split

theorem execScoreExpd_keeps {s t : State} (h : Keeps s t) (site : Nat) : KeepsOut s (execScoreExpd site t) := by
  delta execScoreExpd
  repeat' first
    | with_reducible first
      | assumption | apply KeepsOut.next | apply State.fire_keeps | apply effScoreExpd_keeps | intro _

theorem effScoreMerge_keeps {s t : State} (h : Keeps s t) (f : Firing) : KeepsPair s (effScoreMerge t f) := by
  delta effScoreMerge
  repeat' first
    | with_reducible first
      | assumption | apply KeepsPair.none | apply KeepsPair.some | apply done_keeps | apply State.dstWrite_keeps
      | intro _
    | (fail_if_no_progress extract_lets +onlyGivenNames z
       first
         | (with_reducible refine keeps_cut (p := Keeps s z) ?_ ?_
            on_goal 2 => (intro _; clear_value z)
            on_goal 1 => try dsimp -zeta only [z])
         | (with_reducible refine keeps_cut (p := Keeps s z.1) ?_ ?_
            on_goal 2 => (intro _)
            on_goal 1 => try dsimp -zeta only [z])
         | clear_value z | skip)
    | split

theorem effVmov_keeps {s t : State} (h : Keeps s t) (f : Firing) : KeepsPair s (effVmov t f) := by
  delta effVmov
  repeat' first
    | with_reducible first
      | assumption | apply KeepsPair.none | apply KeepsPair.some | apply State.vec1_keeps | intro _
    | split

theorem execVmov_keeps {s t : State} (h : Keeps s t) (site : Nat) : KeepsOut s (execVmov site t) := by
  delta execVmov
  repeat' first
    | with_reducible first
      | assumption | apply KeepsOut.next | apply State.fire_keeps | apply effVmov_keeps | intro _

theorem execScoreMerge_keeps {s t : State} (h : Keeps s t) (site : Nat) : KeepsOut s (execScoreMerge site t) := by
  delta execScoreMerge
  repeat' first
    | with_reducible first
      | assumption | apply KeepsOut.next | apply State.fire_keeps | apply effScoreMerge_keeps | intro _

theorem execSendEosOnly_keeps {s t : State} (h : Keeps s t) (site : Nat) : KeepsOut s (execSendEosOnly site t) := by
  delta execSendEosOnly
  repeat' first
    | with_reducible first
      | assumption | apply KeepsOut.next | apply State.fire_keeps | apply effSendEosOnly_keeps | intro _

theorem execTagData_keeps {s t : State} (h : Keeps s t) (site : Nat) : KeepsOut s (execTagData site t) := by
  delta execTagData
  repeat' first
    | with_reducible first
      | assumption | apply KeepsOut.next | apply State.fire_keeps | apply effTagData_keeps | intro _

theorem execSend_keeps {s t : State} (h : Keeps s t) (site : Nat) : KeepsOut s (execSend site t) := by
  delta execSend
  repeat' first
    | with_reducible first
      | assumption | apply KeepsOut.next | apply State.fire_keeps | apply effSend_keeps | intro _

theorem execVmul_keeps {s t : State} (h : Keeps s t) (site : Nat) : KeepsOut s (execVmul site t) := by
  delta execVmul
  repeat' first
    | with_reducible first
      | assumption | apply KeepsOut.next | apply State.fire_keeps | apply effVmul_keeps | intro _

theorem execNop_keeps {s t : State} (h : Keeps s t) (site : Nat) : KeepsOut s (execNop site t) := by
  delta execNop
  repeat' first
    | with_reducible first
      | assumption | apply KeepsOut.next | apply State.fire_keeps | apply effNop_keeps | intro _

theorem execVcmp_keeps {s t : State} (h : Keeps s t) (site : Nat) : KeepsOut s (execVcmp site t) := by
  delta execVcmp
  repeat' first
    | with_reducible first
      | assumption | apply KeepsOut.next | apply State.fire_keeps | apply effVcmp_keeps | intro _

theorem effScoreRmax_keeps {s t : State} (h : Keeps s t) (f : Firing) : KeepsPair s (effScoreRmax t f) := by
  delta effScoreRmax
  repeat' first
    | with_reducible first
      | assumption | apply KeepsPair.none | apply KeepsPair.some | apply State.dstWrite_keeps
    | (fail_if_no_progress extract_lets +onlyGivenNames z
       first
         | (with_reducible refine keeps_cut (p := Keeps s z) ?_ ?_
            on_goal 2 => (intro _; clear_value z)
            on_goal 1 => try dsimp -zeta only [z])
         | (with_reducible refine keeps_cut (p := Keeps s z.1) ?_ ?_
            on_goal 2 => (intro _)
            on_goal 1 => try dsimp -zeta only [z])
         | clear_value z | skip)
    | split

theorem execAccZero_keeps {s t : State} (h : Keeps s t) (site : Nat) : KeepsOut s (execAccZero site t) := by
  delta execAccZero
  repeat' first
    | with_reducible first
      | assumption | apply KeepsOut.next | apply State.fire_keeps | apply effAccZero_keeps | intro _

theorem execAccRead_keeps {s t : State} (h : Keeps s t) (site : Nat) : KeepsOut s (execAccRead site t) := by
  delta execAccRead
  repeat' first
    | with_reducible first
      | assumption | apply KeepsOut.next | apply State.fire_keeps | apply effAccRead_keeps | intro _

theorem execScoreRmax_keeps {s t : State} (h : Keeps s t) (site : Nat) : KeepsOut s (execScoreRmax site t) := by
  delta execScoreRmax
  repeat' first
    | with_reducible first
      | assumption | apply KeepsOut.next | apply State.fire_keeps | apply effScoreRmax_keeps | intro _

theorem effArm_keeps {s t : State} (h : Keeps s t) (f : Firing) : KeepsPair s (effArm t f) := by
  delta effArm
  repeat' first
    | with_reducible first
      | assumption | apply KeepsPair.none | apply KeepsPair.some | apply State.dispenserRequest_keeps

theorem execArm_keeps {s t : State} (h : Keeps s t) (site : Nat) : KeepsOut s (execArm site t) := by
  delta execArm
  repeat' first
    | with_reducible first
      | assumption | apply KeepsOut.next | apply State.fire_keeps | apply effArm_keeps | intro _

theorem execVsub_keeps {s t : State} (h : Keeps s t) (site : Nat) : KeepsOut s (execVsub site t) := by
  delta execVsub
  repeat' first
    | with_reducible first
      | assumption | apply KeepsOut.next | apply State.fire_keeps | apply effVsub_keeps | intro _

theorem State.steerSettle_keeps {s t : State} (h : Keeps s t) (site n : Nat) : Keeps s (State.steerSettle t site n) := by
  delta State.steerSettle
  repeat' first
    | with_reducible first
      | assumption | apply State.setSu_keeps | intro _
    | (fail_if_no_progress extract_lets +onlyGivenNames z
       first
         | (with_reducible refine keeps_cut (p := Keeps s z) ?_ ?_
            on_goal 2 => (intro _; clear_value z)
            on_goal 1 => try dsimp -zeta only [z])
         | clear_value z | skip)
    | split

theorem execMergeEntryForward_keeps {s t : State} (h : Keeps s t) (site n : Nat) : KeepsOut s
    (execMergeEntryForward site n t) := by
  delta execMergeEntryForward
  repeat' first
    | with_reducible first
      | assumption | apply KeepsOut.next | apply State.setSu_keeps | apply State.steerSettle_keeps | intro _
      | fail_if_no_progress apply mk_keeps
    | (fail_if_no_progress extract_lets +onlyGivenNames z
       first
         | (with_reducible refine keeps_cut (p := Keeps s z) ?_ ?_
            on_goal 2 => (intro _; clear_value z)
            on_goal 1 => try dsimp -zeta only [z])
         | clear_value z | skip)
    | split

theorem execSteerEntryEos_keeps {s t : State} (h : Keeps s t) (site n input : Nat) : KeepsOut s
    (execSteerEntryEos site n input t) := by
  delta execSteerEntryEos
  repeat' first
    | with_reducible first
      | assumption | apply KeepsOut.next | apply State.setSu_keeps | apply State.orphan_keeps
      | apply State.steerSettle_keeps | apply foldl_keeps | apply foldl_fst_keeps | apply foldl_snd_keeps | intro _
      | fail_if_no_progress apply mk_keeps
    | (fail_if_no_progress extract_lets +onlyGivenNames z
       first
         | (with_reducible refine keeps_cut (p := Keeps s z) ?_ ?_
            on_goal 2 => (intro _; clear_value z)
            on_goal 1 => try dsimp -zeta only [z])
         | clear_value z | skip)
    | split

theorem execSlotTransfer_keeps {s t : State} (h : Keeps s t) (site port : Nat) : KeepsOut s (execSlotTransfer
    site port t) := by
  delta execSlotTransfer
  repeat' first
    | with_reducible first
      | assumption | apply KeepsOut.next | apply State.bump_keeps | apply State.setSu_keeps
      | apply State.steerSettle_keeps | intro _ | fail_if_no_progress apply mk_keeps
    | (fail_if_no_progress extract_lets +onlyGivenNames z
       first
         | (with_reducible refine keeps_cut (p := Keeps s z) ?_ ?_
            on_goal 2 => (intro _; clear_value z)
            on_goal 1 => try dsimp -zeta only [z])
         | clear_value z | skip)
    | split

theorem execSteerEntryArrival_keeps {s t : State} (h : Keeps s t) (site n input : Nat) : KeepsOut s
    (execSteerEntryArrival site n input t) := by
  delta execSteerEntryArrival
  repeat' first
    | with_reducible first
      | assumption | apply KeepsOut.next | apply State.setSu_keeps | apply State.orphan_keeps
      | apply State.steerSettle_keeps | intro _
    | (fail_if_no_progress extract_lets +onlyGivenNames z
       first
         | (with_reducible refine keeps_cut (p := Keeps s z) ?_ ?_
            on_goal 2 => (intro _; clear_value z)
            on_goal 1 => try dsimp -zeta only [z])
         | clear_value z | skip)
    | split

theorem State.sendColl_keeps {s t : State} (h : Keeps s t) (p key dst dir : Nat) (ws : Tab Line) (fin : Bool) :
    Keeps s (State.sendColl t p key dst dir ws fin) := by
  delta State.sendColl
  repeat' first
    | with_reducible first
      | assumption | apply State.sendStep_keeps | apply foldl_keeps | apply foldl_fst_keeps | apply foldl_snd_keeps
      | intro _
    | (fail_if_no_progress extract_lets +onlyGivenNames z
       first
         | (with_reducible refine keeps_cut (p := Keeps s z) ?_ ?_
            on_goal 2 => (intro _; clear_value z)
            on_goal 1 => try dsimp -zeta only [z])
         | clear_value z | skip)
    | split

theorem State.setColl_keeps {s t : State} (h : Keeps s t) (p : Nat) (c : Coll) : Keeps s (State.setColl t p c) := by
  delta State.setColl
  repeat' first
    | with_reducible first
      | assumption | apply State.setPart_keeps | intro _ | fail_if_no_progress apply mk_keeps
    | (fail_if_no_progress extract_lets +onlyGivenNames z
       first
         | (with_reducible refine keeps_cut (p := Keeps s z) ?_ ?_
            on_goal 2 => (intro _; clear_value z)
            on_goal 1 => try dsimp -zeta only [z])
         | clear_value z | skip)
    | split

theorem State.collSettle_keeps {s t : State} (h : Keeps s t) (p key : Nat) : Keeps s (State.collSettle t p key) := by
  delta State.collSettle
  repeat' first
    | with_reducible first
      | assumption | apply State.sendColl_keeps | apply State.setColl_keeps | apply foldl_keeps
      | apply foldl_fst_keeps | apply foldl_snd_keeps | intro _ | fail_if_no_progress apply mk_keeps
    | (fail_if_no_progress extract_lets +onlyGivenNames z
       first
         | (with_reducible refine keeps_cut (p := Keeps s z) ?_ ?_
            on_goal 2 => (intro _; clear_value z)
            on_goal 1 => try dsimp -zeta only [z])
         | clear_value z | skip)
    | split

theorem State.dropRound_keeps {s t : State} (h : Keeps s t) (p key : Nat) : Keeps s (State.dropRound t p key) := by
  delta State.dropRound
  repeat' first
    | with_reducible first
      | assumption | apply State.setPart_keeps | intro _
    | split

theorem execCollEnd_keeps {s t : State} (h : Keeps s t) (port : Nat) (x1 : Hdr) (body : List Byte) : KeepsOut s
    (execCollEnd port x1 body t) := by
  delta execCollEnd
  repeat' first
    | with_reducible first
      | assumption | apply KeepsOut.next | apply State.sendColl_keeps | apply State.setColl_keeps
      | apply State.receive_keeps | apply State.collSettle_keeps | apply State.dropRound_keeps | apply foldl_keeps
      | intro _ | fail_if_no_progress apply mk_keeps
    | (fail_if_no_progress extract_lets +onlyGivenNames z
       first
         | (with_reducible refine keeps_cut (p := Keeps s z) ?_ ?_
            on_goal 2 => (intro _; clear_value z)
            on_goal 1 => try dsimp -zeta only [z])
         | clear_value z | skip)
    | split

theorem execCollData_keeps {s t : State} (h : Keeps s t) (port : Nat) (x1 : Hdr) (body : List Byte) : KeepsOut s
    (execCollData port x1 body t) := by
  delta execCollData
  repeat' first
    | with_reducible first
      | assumption | apply KeepsOut.next | apply State.sendColl_keeps | apply State.setColl_keeps
      | apply State.receive_keeps | apply State.orphan_keeps | apply foldl_keeps | apply foldl_fst_keeps
      | apply foldl_snd_keeps | intro _ | fail_if_no_progress apply mk_keeps
    | (fail_if_no_progress extract_lets +onlyGivenNames z
       first
         | (with_reducible refine keeps_cut (p := Keeps s z) ?_ ?_
            on_goal 2 => (intro _; clear_value z)
            on_goal 1 => try dsimp -zeta only [z])
         | clear_value z | skip)
    | split

theorem State.collClose_keeps {s t : State} (h : Keeps s t) (p row : Nat) : Keeps s (State.collClose t p row) := by
  delta State.collClose
  repeat' first
    | with_reducible first
      | assumption | apply State.setColl_keeps | apply State.collSettle_keeps | apply foldl_keeps | intro _
    | split

theorem State.collWrite_keeps {s t : State} (h : Keeps s t) (p site off : Nat) (x : Line) : Keeps s
    (State.collWrite t p site off x) := by
  delta State.collWrite
  repeat' first
    | with_reducible first
      | assumption | apply State.setPart_keeps | apply State.setColl_keeps | apply State.orphan_keeps | intro _
      | fail_if_no_progress apply mk_keeps
    | (fail_if_no_progress extract_lets +onlyGivenNames z
       first
         | (with_reducible refine keeps_cut (p := Keeps s z) ?_ ?_
            on_goal 2 => (intro _; clear_value z)
            on_goal 1 => try dsimp -zeta only [z])
         | clear_value z | skip)
    | split

theorem State.endRounds_keeps {s t : State} (h : Keeps s t) (p idx : Nat) : Keeps s (State.endRounds t p idx) := by
  delta State.endRounds
  repeat' first
    | with_reducible first
      | assumption | apply State.setPart_keeps | intro _
    | split

theorem State.storedAt_keeps {s t : State} (h : Keeps s t) (x1 : Hatch) (pos : Nat) : Keeps s (State.storedAt t
    x1 pos) := by
  delta State.storedAt
  repeat' first
    | with_reducible first
      | assumption | apply State.setEngine_keeps | apply State.semSignal_keeps | apply foldl_keeps
      | apply foldl_fst_keeps | apply foldl_snd_keeps | intro _ | fail_if_no_progress apply mk_keeps
    | (fail_if_no_progress extract_lets +onlyGivenNames z
       first
         | (with_reducible refine keeps_cut (p := Keeps s z) ?_ ?_
            on_goal 2 => (intro _; clear_value z)
            on_goal 1 => try dsimp -zeta only [z])
         | clear_value z | skip)
    | split

theorem State.muRest_keeps {s t : State} (h : Keeps s t) (p site : Nat) : Keeps s (State.muRest t p site) := by
  delta State.muRest
  repeat' first
    | with_reducible first
      | assumption | apply State.work_keeps | intro _
    | (fail_if_no_progress extract_lets +onlyGivenNames z
       first
         | (with_reducible refine keeps_cut (p := Keeps s z) ?_ ?_
            on_goal 2 => (intro _; clear_value z)
            on_goal 1 => try dsimp -zeta only [z])
         | clear_value z | skip)
    | split

theorem State.muIdle_keeps {s t : State} (h : Keeps s t) (x1 : Hatch) : Keeps s (State.muIdle t x1) := by
  delta State.muIdle
  repeat' first
    | with_reducible first
      | assumption | apply State.muRest_keeps

theorem State.takeArm_keeps {s t : State} (h : Keeps s t) (p site x3 : Nat) : Keeps s (State.takeArm t p site x3) := by
  delta State.takeArm
  repeat' first
    | with_reducible first
      | assumption | apply State.setSu_keeps | apply State.progressBy_keeps | apply State.setEngine_keeps
      | fail_if_no_progress apply mk_keeps
    | (fail_if_no_progress extract_lets +onlyGivenNames z
       first
         | (with_reducible refine keeps_cut (p := Keeps s z) ?_ ?_
            on_goal 2 => (intro _; clear_value z)
            on_goal 1 => try dsimp -zeta only [z])
         | clear_value z | skip)
    | split

theorem State.engineNext_keeps {s t : State} (h : Keeps s t) (x1 : Hatch) : Keeps s (State.engineNext t x1) := by
  delta State.engineNext
  repeat' first
    | with_reducible first
      | assumption | apply State.setEngine_keeps | fail_if_no_progress apply mk_keeps
    | (fail_if_no_progress extract_lets +onlyGivenNames z
       first
         | (with_reducible refine keeps_cut (p := Keeps s z) ?_ ?_
            on_goal 2 => (intro _; clear_value z)
            on_goal 1 => try dsimp -zeta only [z])
         | clear_value z | skip)
    | split

theorem State.endWrite_keeps {s t : State} (h : Keeps s t) (x1 : Hatch) : Keeps s (State.endWrite t x1) := by
  delta State.endWrite
  repeat' first
    | with_reducible first
      | assumption | apply State.muIdle_keeps | apply State.setEngine_keeps | apply State.takeArm_keeps
      | apply State.engineNext_keeps | fail_if_no_progress apply mk_keeps
    | (fail_if_no_progress extract_lets +onlyGivenNames z
       first
         | (with_reducible refine keeps_cut (p := Keeps s z) ?_ ?_
            on_goal 2 => (intro _; clear_value z)
            on_goal 1 => try dsimp -zeta only [z])
         | clear_value z | skip)
    | split

theorem State.ringStored_keeps {s t : State} (h : Keeps s t) (x1 : Hatch) (b : BankOp) : Keeps s
    (State.ringStored t x1 b) := by
  delta State.ringStored
  repeat' first
    | with_reducible first
      | assumption | apply State.setEngine_keeps | fail_if_no_progress apply mk_keeps
    | (fail_if_no_progress extract_lets +onlyGivenNames z
       first
         | (with_reducible refine keeps_cut (p := Keeps s z) ?_ ?_
            on_goal 2 => (intro _; clear_value z)
            on_goal 1 => try dsimp -zeta only [z])
         | clear_value z | skip)

theorem State.bankWrite_keeps {s t : State} (h : Keeps s t) (p site : Nat) (r : BankReq) : Keeps s
    (State.bankWrite t p site r) := by
  delta State.bankWrite
  repeat' first
    | with_reducible first
      | assumption | apply State.setMu_keeps | apply State.storedAt_keeps | apply State.endWrite_keeps
      | apply State.setEngine_keeps | apply State.ownerMiss_keeps | apply State.ringStored_keeps | intro _
    | (fail_if_no_progress extract_lets +onlyGivenNames z
       first
         | (with_reducible refine keeps_cut (p := Keeps s z) ?_ ?_
            on_goal 2 => (intro _; clear_value z)
            on_goal 1 => try dsimp -zeta only [z])
         | clear_value z | skip)
    | split

theorem State.serveWord_keeps {s t : State} (h : Keeps s t) (p site w : Nat) : Keeps s (State.serveWord t p site w) := by
  delta State.serveWord
  repeat' first
    | with_reducible first
      | assumption | apply State.setPart_keeps | apply State.setMu_keeps | intro _
    | (fail_if_no_progress extract_lets +onlyGivenNames z
       first
         | (with_reducible refine keeps_cut (p := Keeps s z) ?_ ?_
            on_goal 2 => (intro _; clear_value z)
            on_goal 1 => try dsimp -zeta only [z])
         | clear_value z | skip)
    | split

theorem State.endQueue_keeps {s t : State} (h : Keeps s t) (x1 : Hatch) : Keeps s (State.endQueue t x1) := by
  delta State.endQueue
  repeat' first
    | with_reducible first
      | assumption | apply State.muIdle_keeps | apply State.engineNext_keeps
    | (fail_if_no_progress extract_lets +onlyGivenNames z
       first
         | (with_reducible refine keeps_cut (p := Keeps s z) ?_ ?_
            on_goal 2 => (intro _; clear_value z)
            on_goal 1 => try dsimp -zeta only [z])
         | clear_value z | skip)
    | split

theorem State.ringSend_keeps {s t : State} (h : Keeps s t) (x1 : Hatch) (w : Line) : Keeps s (State.ringSend t x1 w) := by
  delta State.ringSend
  repeat' first
    | with_reducible first
      | assumption | apply State.enterSu_keeps | apply State.setEngine_keeps | apply State.progress_keeps
      | apply State.endQueue_keeps | fail_if_no_progress apply mk_keeps
    | (fail_if_no_progress extract_lets +onlyGivenNames z
       first
         | (with_reducible refine keeps_cut (p := Keeps s z) ?_ ?_
            on_goal 2 => (intro _; clear_value z)
            on_goal 1 => try dsimp -zeta only [z])
         | clear_value z | skip)
    | split

theorem State.deliverOp_keeps {s t : State} (h : Keeps s t) (x1 : Hatch) (o : Operand) : Keeps s (State.deliverOp
    t x1 o) := by
  delta State.deliverOp
  repeat' first
    | with_reducible first
      | assumption | apply State.deliverTo_keeps | apply State.progressBy_keeps | apply State.enterSu_keeps
    | split

theorem State.endPass_keeps {s t : State} (h : Keeps s t) (x1 : Hatch) : Keeps s (State.endPass t x1) := by
  delta State.endPass
  repeat' first
    | with_reducible first
      | assumption | apply State.muIdle_keeps | apply State.setEngine_keeps | apply State.deliverOp_keeps
      | apply State.takeArm_keeps | apply State.engineNext_keeps | fail_if_no_progress apply mk_keeps
    | (fail_if_no_progress extract_lets +onlyGivenNames z
       first
         | (with_reducible refine keeps_cut (p := Keeps s z) ?_ ?_
            on_goal 2 => (intro _; clear_value z)
            on_goal 1 => try dsimp -zeta only [z])
         | clear_value z | skip)
    | split

theorem State.afterSend_keeps {s t : State} (h : Keeps s t) (x1 : Hatch) : Keeps s (State.afterSend t x1) := by
  delta State.afterSend
  repeat' first
    | with_reducible first
      | assumption | apply State.setEngine_keeps | apply State.semSignal_keeps | fail_if_no_progress apply mk_keeps
    | (fail_if_no_progress extract_lets +onlyGivenNames z
       first
         | (with_reducible refine keeps_cut (p := Keeps s z) ?_ ?_
            on_goal 2 => (intro _; clear_value z)
            on_goal 1 => try dsimp -zeta only [z])
         | clear_value z | skip)
    | split

theorem State.bankDone_keeps {s t : State} (h : Keeps s t) (x1 : Hatch) : Keeps s (State.bankDone t x1) := by
  delta State.bankDone
  repeat' first
    | with_reducible first
      | assumption | apply State.ringSend_keeps | apply State.endPass_keeps | apply State.afterSend_keeps
      | apply State.setEngine_keeps | apply State.deliverOp_keeps | intro _ | fail_if_no_progress apply mk_keeps
    | (fail_if_no_progress extract_lets +onlyGivenNames z
       first
         | (with_reducible refine keeps_cut (p := Keeps s z) ?_ ?_
            on_goal 2 => (intro _; clear_value z)
            on_goal 1 => try dsimp -zeta only [z])
         | clear_value z | skip)
    | split

theorem State.reapWrites_keeps {s t : State} (h : Keeps s t) (x1 : Hatch) : Keeps s (State.reapWrites t x1) := by
  delta State.reapWrites
  repeat' first
    | with_reducible first
      | assumption | apply State.storedAt_keeps | apply State.endWrite_keeps | apply State.setEngine_keeps
      | apply foldl_keeps | intro _ | fail_if_no_progress apply mk_keeps
    | (fail_if_no_progress extract_lets +onlyGivenNames z
       first
         | (with_reducible refine keeps_cut (p := Keeps s z) ?_ ?_
            on_goal 2 => (intro _; clear_value z)
            on_goal 1 => try dsimp -zeta only [z])
         | clear_value z | skip)
    | split

theorem State.bankSettle_keeps {s t : State} (h : Keeps s t) (site : Nat) : Keeps s (State.bankSettle t site) := by
  delta State.bankSettle
  repeat' first
    | with_reducible first
      | assumption | apply State.bankDone_keeps | apply State.reapWrites_keeps | apply foldl_keeps | intro _
    | split

theorem State.strictWaits_keeps {s t : State} (h : Keeps s t) (p site bank who : Nat) : Keeps s
    (State.strictWaits t p site bank who) := by
  delta State.strictWaits
  repeat' first
    | with_reducible first
      | assumption | apply State.bump_keeps | apply State.plateDefect_keeps | apply State.setMu_keeps
      | apply foldl_keeps | intro _ | fail_if_no_progress apply mk_keeps
    | (fail_if_no_progress extract_lets +onlyGivenNames z
       first
         | (with_reducible refine keeps_cut (p := Keeps s z) ?_ ?_
            on_goal 2 => (intro _; clear_value z)
            on_goal 1 => try dsimp -zeta only [z])
         | clear_value z | skip)
    | split

theorem State.bankGrant_keeps {s t : State} (h : Keeps s t) (p site bank who : Nat) : Keeps s (State.bankGrant t
    p site bank who) := by
  delta State.bankGrant
  repeat' first
    | with_reducible first
      | assumption | apply State.bankWrite_keeps | apply State.setMu_keeps | apply State.serveWord_keeps
      | apply State.pumpHeld_keeps | apply State.bankSettle_keeps | apply State.nextAtom_keeps
      | apply State.strictWaits_keeps | intro _
    | (fail_if_no_progress extract_lets +onlyGivenNames z
       first
         | (with_reducible refine keeps_cut (p := Keeps s z) ?_ ?_
            on_goal 2 => (intro _; clear_value z)
            on_goal 1 => try dsimp -zeta only [z])
         | clear_value z | skip)
    | split

theorem State.grantAlone_keeps {s t : State} (h : Keeps s t) (p site bank who : Nat) : Keeps s (State.grantAlone
    t p site bank who) := by
  delta State.grantAlone
  repeat' first
    | with_reducible first
      | assumption | apply State.bankGrant_keeps
    | split

theorem State.queueRead_keeps {s t : State} (h : Keeps s t) (x1 : Hatch) (r : ReadReq) : Keeps s (State.queueRead
    t x1 r) := by
  delta State.queueRead
  repeat' first
    | with_reducible first
      | assumption | apply State.setEngine_keeps | fail_if_no_progress apply mk_keeps
    | (fail_if_no_progress extract_lets +onlyGivenNames z
       first
         | (with_reducible refine keeps_cut (p := Keeps s z) ?_ ?_
            on_goal 2 => (intro _; clear_value z)
            on_goal 1 => try dsimp -zeta only [z])
         | clear_value z | skip)

theorem State.remoteRead_keeps {s t : State} (h : Keeps s t) (x1 : Hatch) (x2 addr n : Nat) : Keeps s
    (State.remoteRead t x1 x2 addr n) := by
  delta State.remoteRead
  repeat' first
    | with_reducible first
      | assumption | apply State.setPart_keeps | apply State.fresh_keeps | apply State.queueRead_keeps
      | apply State.sendStep_keeps | intro _ | fail_if_no_progress apply mk_keeps
    | (fail_if_no_progress extract_lets +onlyGivenNames z
       first
         | (with_reducible refine keeps_cut (p := Keeps s z) ?_ ?_
            on_goal 2 => (intro _; clear_value z)
            on_goal 1 => try dsimp -zeta only [z])
         | clear_value z | skip)
    | split

theorem State.bankRead_keeps {s t : State} (h : Keeps s t) (x1 : Hatch) (x2 addr : Nat) (margin : Bool) : Keeps s
    (State.bankRead t x1 x2 addr margin) := by
  delta State.bankRead
  repeat' first
    | with_reducible first
      | assumption | apply State.setMu_keeps | apply State.endPass_keeps | apply State.afterSend_keeps
      | apply State.setEngine_keeps | apply State.deliverOp_keeps | intro _ | fail_if_no_progress apply mk_keeps
    | (fail_if_no_progress extract_lets +onlyGivenNames z
       first
         | (with_reducible refine keeps_cut (p := Keeps s z) ?_ ?_
            on_goal 2 => (intro _; clear_value z)
            on_goal 1 => try dsimp -zeta only [z])
         | clear_value z | skip)
    | split

theorem State.sendSome_keeps {s t : State} (h : Keeps s t) (x : Hatch) (n : Nat) : Keeps s (t.sendSome x n) := by
  induction n generalizing t with
  | zero => exact h
  | succ n ih =>
    unfold State.sendSome
    dsimp only
    split
    · exact h
    · split
      · split
        · exact ih (State.afterSend_keeps (State.deliverOp_keeps (State.setEngine_keeps h _ _ _) _ _) _)
        · exact h
      · exact h

theorem State.sendReady_keeps {s t : State} (h : Keeps s t) (x1 : Hatch) : Keeps s (State.sendReady t x1) := by
  delta State.sendReady
  repeat' first
    | with_reducible first
      | assumption | apply State.sendSome_keeps | apply foldl_keeps | apply foldl_fst_keeps | apply foldl_snd_keeps
      | apply KeepsSome.getD | intro _ | fail_if_no_progress apply mk_keeps
    | (fail_if_no_progress extract_lets +onlyGivenNames z
       first
         | (with_reducible refine keeps_cut (p := Keeps s z) ?_ ?_
            on_goal 2 => (intro _; clear_value z)
            on_goal 1 => try dsimp -zeta only [z])
         | (with_reducible refine keeps_cut (p := Keeps s z.1) ?_ ?_
            on_goal 2 => (intro _)
            on_goal 1 => try dsimp -zeta only [z])
         | (with_reducible refine keeps_cut (p := ∀ u x, Keeps s u → Keeps s (z u x)) ?_ ?_
            on_goal 2 => (intro _; clear_value z)
            on_goal 1 => try dsimp -zeta only [z])
         | (with_reducible refine keeps_cut (p := ∀ u, Keeps s u → Keeps s (z u)) ?_ ?_
            on_goal 2 => (intro _; clear_value z)
            on_goal 1 => try dsimp -zeta only [z])
         | (with_reducible refine keeps_cut (p := ∀ x, Keeps s (z x)) ?_ ?_
            on_goal 2 => (intro _; clear_value z)
            on_goal 1 => try dsimp -zeta only [z])
         | clear_value z | skip)
    | split
    | dsimp -zeta only
    | with_reducible apply_assumption

theorem State.kvRead_keeps {s t : State} (h : Keeps s t) (x : Hatch) (k addr : Nat) (margin : Bool) :
    Keeps s (t.kvRead x k addr margin) := by
  have cut : ∀ r, Keeps s (((t.queueRead x r).sendReady x).endPass x) := fun _ =>
    State.endPass_keeps (State.sendReady_keeps (State.queueRead_keeps h _ _) _) _
  unfold State.kvRead
  dsimp only
  split
  · exact cut _
  · exact cut _
  · split
    · exact cut _
    · exact h
  · split
    · exact cut _
    · split
      · exact State.queueRead_keeps h _ _
      · exact h

theorem State.syncWait_keeps {s t : State} (h : Keeps s t) (x1 : Hatch) (x2 : Nat) : Keeps s (State.syncWait t x1
    x2).1 := by
  delta State.syncWait
  repeat' first
    | with_reducible first
      | assumption | apply State.semWait_keeps | refine State.semWait_keeps_eq ?_ (by assumption)
      | apply State.setEngine_keeps | fail_if_no_progress apply mk_keeps
    | (fail_if_no_progress extract_lets +onlyGivenNames z
       first
         | (with_reducible refine keeps_cut (p := Keeps s z) ?_ ?_
            on_goal 2 => (intro _; clear_value z)
            on_goal 1 => try dsimp -zeta only [z])
         | (with_reducible refine keeps_cut (p := Keeps s z.1) ?_ ?_
            on_goal 2 => (intro _)
            on_goal 1 => try dsimp -zeta only [z])
         | clear_value z | skip)
    | split

theorem State.syncWait_keeps_eq {s t u : State} {z} {x1 : Hatch} {x2 : Nat} (h : Keeps s t)  (e : State.syncWait
    t x1 x2 = (u, z)) : Keeps s u := by
  have := State.syncWait_keeps h x1 x2
  rw [e] at this
  exact this

theorem execHatchReadOperand_keeps {s t : State} (h : Keeps s t) (site e : Nat) :
    KeepsOut s (execHatchReadOperand site e t) := by
  unfold execHatchReadOperand
  split
  · exact .next h
  · rename_i x _
    split
    · exact .next h
    · have k := State.sendReady_keeps h x
      dsimp only
      split
      · exact .next (State.endPass_keeps k _)
      · split
        · rename_i q
          exact .next (State.syncWait_keeps_eq k q)
        · rename_i q
          have k := State.syncWait_keeps_eq k q
          split
          · exact .next (State.bankRead_keeps k _ _ _ _)
          · split
            · exact .next (State.kvRead_keeps k _ _ _ _)
            · split
              · exact .next (State.endPass_keeps (State.sendReady_keeps (State.queueRead_keeps k _ _) _) _)
              · split
                · exact .next k
                · split
                  · exact .next (State.remoteRead_keeps k _ _ _ _)
                  · exact .next (State.queueRead_keeps k _ _)

theorem execBankGrant_keeps {s t : State} (h : Keeps s t) (site bank : Nat) : KeepsOut s (execBankGrant site bank t) := by
  delta execBankGrant
  repeat' first
    | with_reducible first
      | assumption | apply KeepsOut.next | apply State.bankGrant_keeps
    | split

theorem State.dispPump_keeps {s t : State} (h : Keeps s t) (p : Nat) : Keeps s (State.dispPump t p) := by
  delta State.dispPump
  repeat' first
    | with_reducible first
      | assumption | apply State.setPart_keeps | apply State.progressBy_keeps | apply State.enterSu_keeps
      | apply State.muRest_keeps | apply foldl_keeps | apply foldl_fst_keeps | apply foldl_snd_keeps | intro _
    | (fail_if_no_progress extract_lets +onlyGivenNames z
       first
         | (with_reducible refine keeps_cut (p := Keeps s z) ?_ ?_
            on_goal 2 => (intro _; clear_value z)
            on_goal 1 => try dsimp -zeta only [z])
         | clear_value z | skip)
    | split

theorem State.extSend_keeps {s t : State} (h : Keeps s t) (x1 : Hatch) : Keeps s (State.extSend t x1) := by
  delta State.extSend
  repeat' first
    | with_reducible first
      | assumption | apply State.enterSu_keeps | apply State.setEngine_keeps | apply State.progress_keeps
      | apply State.endQueue_keeps | fail_if_no_progress apply mk_keeps
    | (fail_if_no_progress extract_lets +onlyGivenNames z
       first
         | (with_reducible refine keeps_cut (p := Keeps s z) ?_ ?_
            on_goal 2 => (intro _; clear_value z)
            on_goal 1 => try dsimp -zeta only [z])
         | clear_value z | skip)
    | split

theorem State.atomTurn_keeps {s t : State} (h : Keeps s t) (site bank kind : Nat) : Keeps s (State.atomTurn t
    site bank kind) := by
  delta State.atomTurn
  repeat' first
    | with_reducible first
      | assumption | apply State.bankGrant_keeps
    | split

theorem execDispenserRetire_keeps {s t : State} (h : Keeps s t) (site bank : Nat) : KeepsOut s
    (execDispenserRetire site bank t) := by
  delta execDispenserRetire
  repeat' first
    | with_reducible first
      | assumption | apply KeepsOut.next | apply State.atomTurn_keeps

theorem execDispenserArm_keeps {s t : State} (h : Keeps s t) (site bank : Nat) : KeepsOut s (execDispenserArm
    site bank t) := by
  delta execDispenserArm
  repeat' first
    | with_reducible first
      | assumption | apply KeepsOut.next | apply State.atomTurn_keeps

theorem State.proofOnly_keeps {s t : State} (h : Keeps s t) (p site cause : Nat) : Keeps s (State.proofOnly t p
    site cause) := by
  delta State.proofOnly
  repeat' first
    | with_reducible first
      | assumption | apply State.plateDefect_keeps
    | split

theorem State.spillWrite_keeps {s t : State} (h : Keeps s t) (x1 : Hatch) (f : Xfer) : Keeps s (State.spillWrite
    t x1 f) := by
  delta State.spillWrite
  repeat' first
    | with_reducible first
      | assumption | apply State.bump_keeps | apply State.proofOnly_keeps | apply State.setEngine_keeps
      | fail_if_no_progress apply mk_keeps
    | (fail_if_no_progress extract_lets +onlyGivenNames z
       first
         | (with_reducible refine keeps_cut (p := Keeps s z) ?_ ?_
            on_goal 2 => (intro _; clear_value z)
            on_goal 1 => try dsimp -zeta only [z])
         | clear_value z | skip)
    | split

theorem State.queueTake_keeps {s t : State} (h : Keeps s t) (x1 : Hatch) : Keeps s (State.queueTake t x1) := by
  delta State.queueTake
  repeat' first
    | with_reducible first
      | assumption | apply State.spillWrite_keeps | apply State.bump_keeps | apply State.setMu_keeps
      | apply State.setSu_keeps | apply State.enterSu_keeps | apply State.setEngine_keeps
      | apply State.progress_keeps | apply State.grantAlone_keeps | apply State.endQueue_keeps
      | fail_if_no_progress apply mk_keeps
    | (fail_if_no_progress extract_lets +onlyGivenNames z
       first
         | (with_reducible refine keeps_cut (p := Keeps s z) ?_ ?_
            on_goal 2 => (intro _; clear_value z)
            on_goal 1 => try dsimp -zeta only [z])
         | clear_value z | skip)
    | split

theorem State.queueSend_keeps {s t : State} (h : Keeps s t) (x1 : Hatch) : Keeps s (State.queueSend t x1) := by
  delta State.queueSend
  repeat' first
    | with_reducible first
      | assumption | apply State.extSend_keeps | apply State.setMu_keeps | apply State.setEngine_keeps
      | apply State.grantAlone_keeps | intro _ | fail_if_no_progress apply mk_keeps
    | (fail_if_no_progress extract_lets +onlyGivenNames z
       first
         | (with_reducible refine keeps_cut (p := Keeps s z) ?_ ?_
            on_goal 2 => (intro _; clear_value z)
            on_goal 1 => try dsimp -zeta only [z])
         | clear_value z | skip)
    | split

theorem execQueueTransfer_keeps {s t : State} (h : Keeps s t) (site x1 : Nat) : KeepsOut s (execQueueTransfer
    site x1 t) := by
  delta execQueueTransfer
  repeat' first
    | with_reducible first
      | assumption | apply KeepsOut.next | apply State.queueTake_keeps | apply State.queueSend_keeps
    | (fail_if_no_progress extract_lets +onlyGivenNames z
       first
         | (with_reducible refine keeps_cut (p := Keeps s z) ?_ ?_
            on_goal 2 => (intro _; clear_value z)
            on_goal 1 => try dsimp -zeta only [z])
         | clear_value z | skip)
    | split

theorem execDispenserClaim_keeps {s t : State} (h : Keeps s t) (site bank : Nat) : KeepsOut s (execDispenserClaim
    site bank t) := by
  delta execDispenserClaim
  repeat' first
    | with_reducible first
      | assumption | apply KeepsOut.next | apply State.atomTurn_keeps

theorem State.rearm_keeps {s t : State} (h : Keeps s t) (x1 : Hatch) (a : Option Nat) : Keeps s (State.rearm t x1 a) := by
  delta State.rearm
  repeat' first
    | with_reducible first
      | assumption | apply State.endPass_keeps | apply State.endWrite_keeps | apply State.setEngine_keeps
      | fail_if_no_progress apply mk_keeps
    | (fail_if_no_progress extract_lets +onlyGivenNames z
       first
         | (with_reducible refine keeps_cut (p := Keeps s z) ?_ ?_
            on_goal 2 => (intro _; clear_value z)
            on_goal 1 => try dsimp -zeta only [z])
         | clear_value z | skip)
    | split

theorem State.muWake_keeps {s t : State} (h : Keeps s t) (p site : Nat) : Keeps s (State.muWake t p site) := by
  delta State.muWake
  repeat' first
    | with_reducible first
      | assumption | apply State.work_keeps
    | split

theorem State.readBack_keeps {s t : State} (h : Keeps s t) (x : Hatch) (f : ReadReq → Bool) (n mark : Nat) (ws : Words) :
    Keeps s (t.readBack x f n mark ws) :=
  State.endPass_keeps (State.sendReady_keeps (State.setEngine_keeps h _ _ _) _) _

theorem execMuArmWrite_keeps {s t : State} (h : Keeps s t) (site x1 : Nat) (w : Word) : KeepsOut s
    (execMuArmWrite site x1 w t) := by
  delta execMuArmWrite
  repeat' first
    | with_reducible first
      | assumption | apply KeepsOut.next | apply State.setEngine_keeps | apply State.noteMiss_keeps
      | apply State.rearm_keeps | fail_if_no_progress apply mk_keeps
    | (fail_if_no_progress extract_lets +onlyGivenNames z
       first
         | (with_reducible refine keeps_cut (p := Keeps s z) ?_ ?_
            on_goal 2 => (intro _; clear_value z)
            on_goal 1 => try dsimp -zeta only [z])
         | clear_value z | skip)
    | split

theorem State.ueAbort_keeps {s t : State} (h : Keeps s t) (p a : Nat) : Keeps s (State.ueAbort t p a) := by
  delta State.ueAbort
  repeat' first
    | with_reducible first
      | assumption | apply State.abortRun_keeps

theorem State.kvBack_keeps {s t : State} (h : Keeps s t) (x1 : Hatch) (first : ReadReq → Bool) (addr : Nat) :
    Keeps s (State.kvBack t x1 first addr) := by
  delta State.kvBack
  repeat' first
    | with_reducible first
      | assumption | apply State.readPart_keeps | refine State.readPart_keeps_eq ?_ (by assumption)
      | apply State.readBack_keeps | apply State.ueAbort_keeps
    | (fail_if_no_progress extract_lets +onlyGivenNames z
       first
         | (with_reducible refine keeps_cut (p := Keeps s z) ?_ ?_
            on_goal 2 => (intro _; clear_value z)
            on_goal 1 => try dsimp -zeta only [z])
         | (with_reducible refine keeps_cut (p := Keeps s z.1) ?_ ?_
            on_goal 2 => (intro _)
            on_goal 1 => try dsimp -zeta only [z])
         | clear_value z | skip)
    | split

theorem execRearmWord_keeps {s t : State} (h : Keeps s t) (site x1 : Nat) : KeepsOut s (execRearmWord site x1 t) := by
  delta execRearmWord
  repeat' first
    | with_reducible first
      | assumption | apply KeepsOut.next | apply State.setSu_keeps | apply State.progressBy_keeps
      | apply State.rearm_keeps
    | (fail_if_no_progress extract_lets +onlyGivenNames z
       first
         | (with_reducible refine keeps_cut (p := Keeps s z) ?_ ?_
            on_goal 2 => (intro _; clear_value z)
            on_goal 1 => try dsimp -zeta only [z])
         | clear_value z | skip)
    | split

theorem State.spillBack_keeps {s t : State} (h : Keeps s t) (x1 : Hatch) : Keeps s (State.spillBack t x1) := by
  delta State.spillBack
  repeat' first
    | with_reducible first
      | assumption | apply State.readPart_keeps | refine State.readPart_keeps_eq ?_ (by assumption)
      | apply State.extSend_keeps | apply State.setEngine_keeps | apply State.ueAbort_keeps
      | fail_if_no_progress apply mk_keeps
    | (fail_if_no_progress extract_lets +onlyGivenNames z
       first
         | (with_reducible refine keeps_cut (p := Keeps s z) ?_ ?_
            on_goal 2 => (intro _; clear_value z)
            on_goal 1 => try dsimp -zeta only [z])
         | (with_reducible refine keeps_cut (p := Keeps s z.1) ?_ ?_
            on_goal 2 => (intro _)
            on_goal 1 => try dsimp -zeta only [z])
         | clear_value z | skip)
    | split

theorem execCreditReturn_keeps {s t : State} (h : Keeps s t) (site port slot : Nat) : KeepsOut s
    (execCreditReturn site port slot t) := by
  delta execCreditReturn
  repeat' first
    | with_reducible first
      | assumption | apply KeepsOut.next | apply State.setSu_keeps | apply State.endPass_keeps
      | apply State.dispPump_keeps | apply State.sendReady_keeps | apply State.queueSend_keeps | apply foldl_keeps
      | apply foldl_fst_keeps | apply foldl_snd_keeps | apply KeepsSome.getD | intro _
      | fail_if_no_progress apply mk_keeps
    | (fail_if_no_progress extract_lets +onlyGivenNames z
       first
         | (with_reducible refine keeps_cut (p := Keeps s z) ?_ ?_
            on_goal 2 => (intro _; clear_value z)
            on_goal 1 => try dsimp -zeta only [z])
         | (with_reducible refine keeps_cut (p := Keeps s z.1) ?_ ?_
            on_goal 2 => (intro _)
            on_goal 1 => try dsimp -zeta only [z])
         | (with_reducible refine keeps_cut (p := ∀ u x, Keeps s u → Keeps s (z u x)) ?_ ?_
            on_goal 2 => (intro _; clear_value z)
            on_goal 1 => try dsimp -zeta only [z])
         | (with_reducible refine keeps_cut (p := ∀ u, Keeps s u → Keeps s (z u)) ?_ ?_
            on_goal 2 => (intro _; clear_value z)
            on_goal 1 => try dsimp -zeta only [z])
         | (with_reducible refine keeps_cut (p := ∀ x, Keeps s (z x)) ?_ ?_
            on_goal 2 => (intro _; clear_value z)
            on_goal 1 => try dsimp -zeta only [z])
         | (with_reducible refine keeps_cut (p := ∀ x y, Keeps s (z x y)) ?_ ?_
            on_goal 2 => (intro _; clear_value z)
            on_goal 1 => try dsimp -zeta only [z])
         | clear_value z | skip)
    | split
    | dsimp -zeta only
    | with_reducible apply_assumption

theorem execHbmReadResponse_keeps {s t : State} (h : Keeps s t) (site e : Nat) :
    KeepsOut s (execHbmReadResponse site e t) := by
  unfold execHbmReadResponse
  split
  · exact .next h
  · dsimp only
    split
    · exact .next (State.spillBack_keeps h _)
    · split
      · exact .next h
      · split
        · exact .next (State.endPass_keeps (State.sendReady_keeps h _) _)
        · split
          · exact .next (State.kvBack_keeps h _ _ _)
          · split
            · split
              · exact .next (State.readBack_keeps h _ _ _ _ _)
              · exact .next h
            · split
              · exact .next h
              · split
                · exact .next (State.ueAbort_keeps (State.readPart_keeps h _ _ _ _ _) _ _)
                · exact .next (State.readBack_keeps (State.readPart_keeps h _ _ _ _ _) _ _ _ _ _)

end Sys2Proof.Machine
end

