-- ==== Sys2Proof/Laws/KeepsRemote.lean ====
section
/-! SUPPORT. What the operations and commands of commit records, messages between modules and plates keep. -/

namespace Sys2Proof.Machine

open Sys2Proof

set_option linter.unusedTactic false
set_option linter.unreachableTactic false

theorem State.commitEnd_keeps {s t : State} (h : Keeps s t) (r : Rg) (ix : List Nat) (result check : Nat) : Keeps
    s (State.commitEnd t r ix result check) := by
  delta State.commitEnd
  repeat' first
    | with_reducible first
      | assumption | apply State.bbWrite_keeps | apply State.setv_keeps
    | (fail_if_no_progress extract_lets +onlyGivenNames z
       first
         | (with_reducible refine keeps_cut (p := Keeps s z) ?_ ?_
            on_goal 2 => (intro _; clear_value z)
            on_goal 1 => try dsimp -zeta only [z])
         | clear_value z | skip)
    | split

theorem State.carryTrace_keeps {s t : State} (h : Keeps s t) : Keeps s (State.carryTrace t) := by
  delta State.carryTrace
  repeat' first
    | with_reducible first
      | assumption | apply State.setPart_keeps | apply foldl_keeps | intro _
    | split

theorem State.commitGo_keeps {s t : State} (h : Keeps s t) (r : Rg) (ix : List Nat) (token : Nat) :
    Keeps s (t.commitGo r ix token) := by
  have k : ∀ u, Keeps s u → Keeps s (u.setRegs { u.regs with pnd := tabReplace u.regs.pnd u.regs.stg (blkBase r ix) (blkEnd r ix) }) :=
    fun u w => State.setRegs_keeps w fun k => by
      rw [Regs.wf_mk] at *
      exact ⟨k.1, k.2.1, k.2.2.1, tabWf_tabReplace (Nat.le_add_right _ _) k.2.2.2 k.2.2.1⟩
  unfold State.commitGo
  split
  · exact State.setv_keeps h _ _ _
  · dsimp only
    split
    · exact State.carryTrace_keeps (k _ (State.setv_keeps h _ _ _))
    · exact k _ (State.setv_keeps h _ _ _)

theorem State.takePending_keeps {s t : State} (h : Keeps s t) (r : Rg) (ix : List Nat) :
    Keeps s (t.takePending r ix) := by
  refine State.setRegs_keeps h fun k => ?_
  rw [Regs.wf_mk] at *
  exact ⟨k.1, tabWf_tabReplace (Nat.le_add_right _ _) k.2.1 k.2.2.2, k.2.2.1, k.2.2.2⟩

theorem State.commitSite_keeps {s t : State} (h : Keeps s t) (site : Nat) : Keeps s (State.commitSite t site) := by
  delta State.commitSite
  repeat' first
    | with_reducible first
      | assumption | apply State.setf_keeps | apply State.takePending_keeps | apply State.commitEnd_keeps
    | (fail_if_no_progress extract_lets +onlyGivenNames z
       first
         | (with_reducible refine keeps_cut (p := Keeps s z) ?_ ?_
            on_goal 2 => (intro _; clear_value z)
            on_goal 1 => try dsimp -zeta only [z])
         | clear_value z | skip)
    | split

theorem State.commitCancel_keeps {s t : State} (h : Keeps s t) (r : Rg) (ix : List Nat) : Keeps s
    (State.commitCancel t r ix) := by
  delta State.commitCancel
  repeat' first
    | with_reducible first
      | assumption | apply State.commitEnd_keeps
    | split

theorem State.statusEffect_keeps {s t : State} (h : Keeps s t) (p site status a src : Nat) : Keeps s
    (State.statusEffect t p site status a src) := by
  delta State.statusEffect
  repeat' first
    | with_reducible first
      | assumption | apply State.plateDefect_keeps | apply State.abortRun_keeps | apply State.ueAbort_keeps
    | split

theorem State.acceptWrite_keeps {s t : State} (h : Keeps s t) (r : Request) : Keeps s (State.acceptWrite t r) := by
  delta State.acceptWrite
  repeat' first
    | with_reducible first
      | assumption | apply State.reapWrites_keeps | apply State.setEngine_keeps | intro _
      | fail_if_no_progress apply mk_keeps
    | (fail_if_no_progress extract_lets +onlyGivenNames z
       first
         | (with_reducible refine keeps_cut (p := Keeps s z) ?_ ?_
            on_goal 2 => (intro _; clear_value z)
            on_goal 1 => try dsimp -zeta only [z])
         | clear_value z | skip)
    | split

theorem State.takeReq_keeps {s t : State} (h : Keeps s t) (p typ src txn : Nat) : Keeps s (State.takeReq t p typ
    src txn).1 := by
  delta State.takeReq
  repeat' first
    | with_reducible first
      | assumption | apply State.setPart_keeps | intro _ | fail_if_no_progress apply mk_keeps
    | (fail_if_no_progress extract_lets +onlyGivenNames z
       first
         | (with_reducible refine keeps_cut (p := Keeps s z) ?_ ?_
            on_goal 2 => (intro _; clear_value z)
            on_goal 1 => try dsimp -zeta only [z])
         | clear_value z | skip)
    | split

theorem State.takeReq_keeps_eq {s t u : State} {z} {p : Nat} {typ : Nat} {src : Nat} {txn : Nat} (h : Keeps s t)
    (e : State.takeReq t p typ src txn = (u, z)) : Keeps s u := by
  have := State.takeReq_keeps h p typ src txn
  rw [e] at this
  exact this

theorem execWrAck_keeps {s t : State} (h : Keeps s t) (port : Nat) (x1 : Hdr) (body : List Byte) : KeepsOut s
    (execWrAck port x1 body t) := by
  delta execWrAck
  repeat' first
    | with_reducible first
      | assumption | apply KeepsOut.next | apply State.receive_keeps | apply State.statusEffect_keeps
      | apply State.acceptWrite_keeps | apply State.takeReq_keeps
      | refine State.takeReq_keeps_eq ?_ (by assumption) | intro _
    | split

theorem State.mergeWrite_keeps {s t : State} (h : Keeps s t) (p site a : Nat) (bs : List Byte) : Keeps s
    (State.mergeWrite t p site a bs) := by
  delta State.mergeWrite
  repeat' first
    | with_reducible first
      | assumption | apply State.readPart_keeps | refine State.readPart_keeps_eq ?_ (by assumption)
      | apply State.writePart_keeps | refine State.writePart_keeps_eq ?_ (by assumption)
      | apply State.ueAbort_keeps
    | (fail_if_no_progress extract_lets +onlyGivenNames z
       first
         | (with_reducible refine keeps_cut (p := Keeps s z) ?_ ?_
            on_goal 2 => (intro _; clear_value z)
            on_goal 1 => try dsimp -zeta only [z])
         | (with_reducible refine keeps_cut (p := Keeps s z.1) ?_ ?_
            on_goal 2 => (intro _)
            on_goal 1 => try dsimp -zeta only [z])
         | clear_value z | skip)
    | split

theorem State.appendLanded_keeps {s t : State} (h : Keeps s t) (p site : Nat) (w : AppendWrite) (rest : List
    AppendWrite) : Keeps s (State.appendLanded t p site w rest) := by
  delta State.appendLanded
  repeat' first
    | with_reducible first
      | assumption | apply State.setPart_keeps | apply State.setMu_keeps | apply State.progressBy_keeps
      | apply State.mergeWrite_keeps | apply State.muRest_keeps | fail_if_no_progress apply mk_keeps
    | (fail_if_no_progress extract_lets +onlyGivenNames z
       first
         | (with_reducible refine keeps_cut (p := Keeps s z) ?_ ?_
            on_goal 2 => (intro _; clear_value z)
            on_goal 1 => try dsimp -zeta only [z])
         | clear_value z | skip)
    | split

theorem execHbmWriteAcknowledge_keeps {s t : State} (h : Keeps s t) (site x1 : Nat) : KeepsOut s
    (execHbmWriteAcknowledge site x1 t) := by
  delta execHbmWriteAcknowledge
  repeat' first
    | with_reducible first
      | assumption | apply KeepsOut.next | apply State.storedAt_keeps | apply State.progressBy_keeps
      | apply State.endWrite_keeps | apply State.setEngine_keeps | apply State.writePart_keeps
      | refine State.writePart_keeps_eq ?_ (by assumption) | apply State.appendLanded_keeps
      | apply State.queueSend_keeps | intro _ | fail_if_no_progress apply mk_keeps
    | (fail_if_no_progress extract_lets +onlyGivenNames z
       first
         | (with_reducible refine keeps_cut (p := Keeps s z) ?_ ?_
            on_goal 2 => (intro _; clear_value z)
            on_goal 1 => try dsimp -zeta only [z])
         | (with_reducible refine keeps_cut (p := Keeps s z.1) ?_ ?_
            on_goal 2 => (intro _)
            on_goal 1 => try dsimp -zeta only [z])
         | clear_value z | skip)
    | split

theorem State.sendReq_keeps {s t : State} (h : Keeps s t) (p typ dst site eng info : Nat) (body : List Byte) :
    Keeps s (State.sendReq t p typ dst site eng info body) := by
  delta State.sendReq
  repeat' first
    | with_reducible first
      | assumption | apply State.setPart_keeps | apply State.fresh_keeps | apply State.sendStep_keeps
      | fail_if_no_progress apply mk_keeps
    | (fail_if_no_progress extract_lets +onlyGivenNames z
       first
         | (with_reducible refine keeps_cut (p := Keeps s z) ?_ ?_
            on_goal 2 => (intro _; clear_value z)
            on_goal 1 => try dsimp -zeta only [z])
         | clear_value z | skip)

theorem State.remoteWords_keeps {s t : State} (h : Keeps s t) (x1 : Hatch) (pos : Nat) (ws : List (Nat × Line)) :
    Keeps s (State.remoteWords t x1 pos ws) := by
  delta State.remoteWords
  repeat' first
    | with_reducible first
      | assumption | apply State.sendReq_keeps | apply State.setMu_keeps | apply State.setEngine_keeps | intro _
      | fail_if_no_progress apply mk_keeps
    | (fail_if_no_progress extract_lets +onlyGivenNames z
       first
         | (with_reducible refine keeps_cut (p := Keeps s z) ?_ ?_
            on_goal 2 => (intro _; clear_value z)
            on_goal 1 => try dsimp -zeta only [z])
         | clear_value z | skip)
    | split

theorem State.remoteMore_keeps {s t : State} (h : Keeps s t) (x1 : Hatch) : Keeps s (State.remoteMore t x1) := by
  delta State.remoteMore
  repeat' first
    | with_reducible first
      | assumption | apply State.progressBy_keeps | apply State.remoteWords_keeps | intro _
    | split

theorem execBankAck_keeps {s t : State} (h : Keeps s t) (port : Nat) (x1 : Hdr) (body : List Byte) : KeepsOut s
    (execBankAck port x1 body t) := by
  delta execBankAck
  repeat' first
    | with_reducible first
      | assumption | apply KeepsOut.next | apply State.setMu_keeps | apply State.remoteMore_keeps
      | apply State.receive_keeps | apply State.statusEffect_keeps | apply State.acceptWrite_keeps
      | apply State.takeReq_keeps | refine State.takeReq_keeps_eq ?_ (by assumption) | apply foldl_keeps | intro _
      | fail_if_no_progress apply mk_keeps
    | (fail_if_no_progress extract_lets +onlyGivenNames z
       first
         | (with_reducible refine keeps_cut (p := Keeps s z) ?_ ?_
            on_goal 2 => (intro _; clear_value z)
            on_goal 1 => try dsimp -zeta only [z])
         | clear_value z | skip)
    | split

theorem execRdRsp_keeps {s t : State} (h : Keeps s t) (port : Nat) (x1 : Hdr) (body : List Byte) : KeepsOut s
    (execRdRsp port x1 body t) := by
  delta execRdRsp
  repeat' first
    | with_reducible first
      | assumption | apply KeepsOut.next | apply State.receive_keeps | apply State.statusEffect_keeps
      | apply State.readBack_keeps | apply State.takeReq_keeps | refine State.takeReq_keeps_eq ?_ (by assumption)
      | intro _
    | (fail_if_no_progress extract_lets +onlyGivenNames z
       first
         | (with_reducible refine keeps_cut (p := Keeps s z) ?_ ?_
            on_goal 2 => (intro _; clear_value z)
            on_goal 1 => try dsimp -zeta only [z])
         | clear_value z | skip)
    | split

theorem execStallWatchExpire_keeps {s t : State} (h : Keeps s t) (p : Nat) : KeepsOut s (execStallWatchExpire p t) := by
  delta execStallWatchExpire
  repeat' first
    | with_reducible first
      | assumption | apply KeepsOut.next | apply State.bbWriteAt_keeps | apply State.abortRun_keeps
    | (fail_if_no_progress extract_lets +onlyGivenNames z
       first
         | (with_reducible refine keeps_cut (p := Keeps s z) ?_ ?_
            on_goal 2 => (intro _; clear_value z)
            on_goal 1 => try dsimp -zeta only [z])
         | clear_value z | skip)
    | split

theorem execAppendArrival_keeps {s t : State} (h : Keeps s t) (site : Nat) : KeepsOut s (execAppendArrival site t) := by
  delta execAppendArrival
  repeat' first
    | with_reducible first
      | assumption | apply KeepsOut.next | apply State.bump_keeps | apply State.setPart_keeps
      | apply State.setMu_keeps | apply State.setSu_keeps | apply State.progressBy_keeps | apply State.orphan_keeps
      | apply State.muRest_keeps | apply State.muWake_keeps | intro _ | fail_if_no_progress apply mk_keeps
    | (fail_if_no_progress extract_lets +onlyGivenNames z
       first
         | (with_reducible refine keeps_cut (p := Keeps s z) ?_ ?_
            on_goal 2 => (intro _; clear_value z)
            on_goal 1 => try dsimp -zeta only [z])
         | clear_value z | skip)
    | split

theorem State.atomReq_keeps {s t : State} (h : Keeps s t) (kind port : Nat) (hd : Hdr) (body : List Byte) :
    Keeps s (t.atomReq kind port hd body) := by
  unfold State.atomReq
  dsimp only
  split
  · exact h
  · refine State.receiveReq_keeps h _ _ _ _ _ _ fun u p k => ?_
    split
    · exact State.send_keeps k _ _ _ _ _ _ _
    · split
      · exact State.send_keeps k _ _ _ _ _ _ _
      · split
        · rename_i e
          exact State.grantAlone_keeps ((State.queueAtom_keeps k _ _).get _ e) _ _ _ _
        · exact k

theorem execAtomAnd_keeps {s t : State} (h : Keeps s t) (port : Nat) (x1 : Hdr) (body : List Byte) : KeepsOut s
    (execAtomAnd port x1 body t) := by
  delta execAtomAnd
  repeat' first
    | with_reducible first
      | assumption | apply KeepsOut.next | apply State.atomReq_keeps

theorem execAtomCas_keeps {s t : State} (h : Keeps s t) (port : Nat) (x1 : Hdr) (body : List Byte) : KeepsOut s
    (execAtomCas port x1 body t) := by
  delta execAtomCas
  repeat' first
    | with_reducible first
      | assumption | apply KeepsOut.next | apply State.atomReq_keeps

theorem execAtomMin_keeps {s t : State} (h : Keeps s t) (port : Nat) (x1 : Hdr) (body : List Byte) : KeepsOut s
    (execAtomMin port x1 body t) := by
  delta execAtomMin
  repeat' first
    | with_reducible first
      | assumption | apply KeepsOut.next | apply State.atomReq_keeps

theorem State.atomicWord_keeps {s t : State} (h : Keeps s t) (x1 : Hatch) (pos : Nat) (x : Line) : KeepsSome s
    (State.atomicWord t x1 pos x) := by
  delta State.atomicWord
  repeat' first
    | with_reducible first
      | assumption | apply KeepsSome.none | apply KeepsSome.some
      | refine State.queueAtom_keeps_eq ?_ (by assumption) | apply State.queueAtom_keeps
      | apply State.plateDefect_keeps | apply State.sendReq_keeps | apply State.fresh_keeps
      | apply State.storedAt_keeps | apply State.setEngine_keeps | fail_if_no_progress apply mk_keeps
    | (fail_if_no_progress extract_lets +onlyGivenNames z
       first
         | (with_reducible refine keeps_cut (p := Keeps s z) ?_ ?_
            on_goal 2 => (intro _; clear_value z)
            on_goal 1 => try dsimp -zeta only [z])
         | clear_value z | skip)
    | split

theorem State.atomicWord_keeps_eq {s t u : State} {x1 : Hatch} {pos : Nat} {x : Line} (h : Keeps s t)  (e :
    State.atomicWord t x1 pos x = some u) : Keeps s u :=
  (State.atomicWord_keeps h x1 pos x).get _ e

theorem State.storeOp_keeps {s t : State} (h : Keeps s t) (x1 : Hatch) (pos addr : Nat) (ws : Words) : KeepsSome
    s (State.storeOp t x1 pos addr ws) := by
  delta State.storeOp
  repeat' first
    | with_reducible first
      | assumption | apply KeepsSome.none | apply KeepsSome.some | apply KeepsSome.map | apply KeepsSome.foldlM
      | apply State.sendReq_keeps | apply State.setMu_keeps | apply State.storedAt_keeps
      | apply State.remoteWords_keeps | apply State.setEngine_keeps | apply State.collWrite_keeps
      | refine State.atomicWord_keeps_eq ?_ (by assumption) | apply State.atomicWord_keeps | apply foldl_keeps
      | apply foldl_fst_keeps | apply foldl_snd_keeps | apply KeepsSome.getD | intro _
      | fail_if_no_progress apply mk_keeps
    | (fail_if_no_progress extract_lets +onlyGivenNames z
       first
         | (with_reducible refine keeps_cut (p := Keeps s z) ?_ ?_
            on_goal 2 => (intro _; clear_value z)
            on_goal 1 => try dsimp -zeta only [z])
         | clear_value z | skip)
    | split

theorem State.storeOp_keeps_eq {s t u : State} {x1 : Hatch} {pos : Nat} {addr : Nat} {ws : Words} (h : Keeps s t)
     (e : State.storeOp t x1 pos addr ws = some u) : Keeps s u :=
  (State.storeOp_keeps h x1 pos addr ws).get _ e

theorem execWriteStreamOperand_keeps {s t : State} (h : Keeps s t) (site x1 : Nat) : KeepsOut s
    (execWriteStreamOperand site x1 t) := by
  delta execWriteStreamOperand
  repeat' first
    | with_reducible first
      | assumption | apply KeepsOut.next | apply State.plateDefect_keeps | apply State.remoteMore_keeps
      | apply State.setSu_keeps | apply State.progressBy_keeps | refine State.storeOp_keeps_eq ?_ (by assumption)
      | apply State.storeOp_keeps | apply State.orphan_keeps | apply State.trace_keeps | apply State.endWrite_keeps
      | apply State.setEngine_keeps | apply State.syncWait_keeps
      | refine State.syncWait_keeps_eq ?_ (by assumption) | apply foldl_keeps | apply foldl_fst_keeps
      | apply foldl_snd_keeps | intro _ | fail_if_no_progress apply mk_keeps
    | (fail_if_no_progress extract_lets +onlyGivenNames z
       first
         | (with_reducible refine keeps_cut (p := Keeps s z) ?_ ?_
            on_goal 2 => (intro _; clear_value z)
            on_goal 1 => try dsimp -zeta only [z])
         | (with_reducible refine keeps_cut (p := Keeps s z.1) ?_ ?_
            on_goal 2 => (intro _)
            on_goal 1 => try dsimp -zeta only [z])
         | (with_reducible refine keeps_cut (p := ∀ u x, Keeps s u → Keeps s (z u x)) ?_ ?_
            on_goal 2 => (intro _; clear_value z)
            on_goal 1 => try dsimp -zeta only [z])
         | (with_reducible refine keeps_cut (p := ∀ u, Keeps s u → Keeps s (z u)) ?_ ?_
            on_goal 2 => (intro _; clear_value z)
            on_goal 1 => try dsimp -zeta only [z])
         | (with_reducible refine keeps_cut (p := ∀ x, Keeps s (z x)) ?_ ?_
            on_goal 2 => (intro _; clear_value z)
            on_goal 1 => try dsimp -zeta only [z])
         | clear_value z | skip)
    | split
    | dsimp -zeta only
    | with_reducible apply_assumption

theorem execAtomAdd_keeps {s t : State} (h : Keeps s t) (port : Nat) (x1 : Hdr) (body : List Byte) : KeepsOut s
    (execAtomAdd port x1 body t) := by
  delta execAtomAdd
  repeat' first
    | with_reducible first
      | assumption | apply KeepsOut.next | apply State.atomReq_keeps

theorem State.holdMsg_keeps {s t : State} (h : Keeps s t) (q typ : Nat) (x3 : Hdr) (body : List Byte) : Keeps s
    (State.holdMsg t q typ x3 body) := by
  delta State.holdMsg
  repeat' first
    | with_reducible first
      | assumption | fail_if_no_progress apply mk_keeps

theorem State.wrReq_keeps {s t : State} (h : Keeps s t) (q : Nat) (x2 : Hdr) (body : List Byte) : Keeps s
    (State.wrReq t q x2 body) := by
  delta State.wrReq
  repeat' first
    | with_reducible first
      | assumption | apply State.holdMsg_keeps | apply State.receiveReq_keeps | apply State.writePart_keeps
      | apply State.send_keeps | intro _
    | (fail_if_no_progress extract_lets +onlyGivenNames z
       first
         | (with_reducible refine keeps_cut (p := Keeps s z) ?_ ?_
            on_goal 2 => (intro _; clear_value z)
            on_goal 1 => try dsimp -zeta only [z])
         | (with_reducible refine keeps_cut (p := Keeps s z.1) ?_ ?_
            on_goal 2 => (intro _)
            on_goal 1 => try dsimp -zeta only [z])
         | clear_value z | skip)
    | split

theorem execWrReq_keeps {s t : State} (h : Keeps s t) (port : Nat) (x1 : Hdr) (body : List Byte) : KeepsOut s
    (execWrReq port x1 body t) := by
  delta execWrReq
  repeat' first
    | with_reducible first
      | assumption | apply KeepsOut.next | apply State.wrReq_keeps

theorem State.creditHeld_keeps {s t : State} (h : Keeps s t) (p site src : Nat) : Keeps s (State.creditHeld t p
    site src) := by
  delta State.creditHeld
  repeat' first
    | with_reducible first
      | assumption | apply State.proofHit_keeps | apply State.bump_keeps | apply State.plateDefect_keeps
      | apply State.abortRun_keeps
    | (fail_if_no_progress extract_lets +onlyGivenNames z
       first
         | (with_reducible refine keeps_cut (p := Keeps s z) ?_ ?_
            on_goal 2 => (intro _; clear_value z)
            on_goal 1 => try dsimp -zeta only [z])
         | clear_value z | skip)
    | split

theorem State.holdWords_keeps {s t : State} (h : Keeps s t) (p site : Nat) (x3 : HeldWrite) : Keeps s
    (State.holdWords t p site x3) := by
  delta State.holdWords
  repeat' first
    | with_reducible first
      | assumption | apply State.setMu_keeps | apply State.pumpHeld_keeps | apply State.grantAlone_keeps
      | apply State.creditHeld_keeps | apply foldl_keeps | apply foldl_fst_keeps | apply foldl_snd_keeps | intro _
    | (fail_if_no_progress extract_lets +onlyGivenNames z
       first
         | (with_reducible refine keeps_cut (p := Keeps s z) ?_ ?_
            on_goal 2 => (intro _; clear_value z)
            on_goal 1 => try dsimp -zeta only [z])
         | clear_value z | skip)
    | split

theorem execAtomMax_keeps {s t : State} (h : Keeps s t) (port : Nat) (x1 : Hdr) (body : List Byte) : KeepsOut s
    (execAtomMax port x1 body t) := by
  delta execAtomMax
  repeat' first
    | with_reducible first
      | assumption | apply KeepsOut.next | apply State.atomReq_keeps

theorem execAtomOr_keeps {s t : State} (h : Keeps s t) (port : Nat) (x1 : Hdr) (body : List Byte) : KeepsOut s
    (execAtomOr port x1 body t) := by
  delta execAtomOr
  repeat' first
    | with_reducible first
      | assumption | apply KeepsOut.next | apply State.atomReq_keeps

theorem State.rdReq_keeps {s t : State} (h : Keeps s t) (q : Nat) (x2 : Hdr) (body : List Byte) : Keeps s
    (State.rdReq t q x2 body) := by
  delta State.rdReq
  repeat' first
    | with_reducible first
      | assumption | apply State.readPart_keeps | refine State.readPart_keeps_eq ?_ (by assumption)
      | apply State.holdMsg_keeps | apply State.receiveReq_keeps | apply State.send_keeps | intro _
    | (fail_if_no_progress extract_lets +onlyGivenNames z
       first
         | (with_reducible refine keeps_cut (p := Keeps s z) ?_ ?_
            on_goal 2 => (intro _; clear_value z)
            on_goal 1 => try dsimp -zeta only [z])
         | (with_reducible refine keeps_cut (p := Keeps s z.1) ?_ ?_
            on_goal 2 => (intro _)
            on_goal 1 => try dsimp -zeta only [z])
         | clear_value z | skip)
    | split

theorem State.pumpMsgs_keeps {s t : State} (h : Keeps s t) : Keeps s (State.pumpMsgs t) := by
  delta State.pumpMsgs
  repeat' first
    | with_reducible first
      | assumption | apply State.wrReq_keeps | apply State.rdReq_keeps | apply foldl_keeps | apply foldl_fst_keeps
      | apply foldl_snd_keeps | intro _ | fail_if_no_progress apply mk_keeps
    | split

theorem execRdReq_keeps {s t : State} (h : Keeps s t) (port : Nat) (x1 : Hdr) (body : List Byte) : KeepsOut s
    (execRdReq port x1 body t) := by
  delta execRdReq
  repeat' first
    | with_reducible first
      | assumption | apply KeepsOut.next | apply State.rdReq_keeps

theorem execAtomRsp_keeps {s t : State} (h : Keeps s t) (port : Nat) (x1 : Hdr) (body : List Byte) : KeepsOut s
    (execAtomRsp port x1 body t) := by
  delta execAtomRsp
  repeat' first
    | with_reducible first
      | assumption | apply KeepsOut.next | apply State.receive_keeps | apply State.statusEffect_keeps
      | apply State.acceptWrite_keeps | apply State.takeReq_keeps
      | refine State.takeReq_keeps_eq ?_ (by assumption) | intro _
    | split

theorem execAtomFadd_keeps {s t : State} (h : Keeps s t) (port : Nat) (x1 : Hdr) (body : List Byte) : KeepsOut s
    (execAtomFadd port x1 body t) := by
  delta execAtomFadd
  repeat' first
    | with_reducible first
      | assumption | apply KeepsOut.next | apply State.atomReq_keeps

theorem State.creditOutside_keeps {s t : State} (h : Keeps s t) (p site src : Nat) : Keeps s (State.creditOutside
    t p site src) := by
  delta State.creditOutside
  repeat' first
    | with_reducible first
      | assumption | apply State.proofHit_keeps | apply State.bump_keeps | apply State.abortRun_keeps
    | (fail_if_no_progress extract_lets +onlyGivenNames z
       first
         | (with_reducible refine keeps_cut (p := Keeps s z) ?_ ?_
            on_goal 2 => (intro _; clear_value z)
            on_goal 1 => try dsimp -zeta only [z])
         | clear_value z | skip)
    | split

theorem execBankWr_keeps {s t : State} (h : Keeps s t) (port : Nat) (x1 : Hdr) (body : List Byte) : KeepsOut s
    (execBankWr port x1 body t) := by
  delta execBankWr
  repeat' first
    | with_reducible first
      | assumption | apply KeepsOut.next | apply State.receiveKept_keeps | apply State.holdWords_keeps
      | apply State.bankAck_keeps | apply State.creditOutside_keeps | apply State.freeRx_keeps | apply foldl_keeps
      | apply foldl_fst_keeps | apply foldl_snd_keeps | intro _
    | (fail_if_no_progress extract_lets +onlyGivenNames z
       first
         | (with_reducible refine keeps_cut (p := Keeps s z) ?_ ?_
            on_goal 2 => (intro _; clear_value z)
            on_goal 1 => try dsimp -zeta only [z])
         | clear_value z | skip)
    | split

theorem execAtomSwap_keeps {s t : State} (h : Keeps s t) (port : Nat) (x1 : Hdr) (body : List Byte) : KeepsOut s
    (execAtomSwap port x1 body t) := by
  delta execAtomSwap
  repeat' first
    | with_reducible first
      | assumption | apply KeepsOut.next | apply State.atomReq_keeps

theorem State.dropUncarried_keeps {s t : State} (h : Keeps s t) (p carry : Nat) : Keeps s (State.dropUncarried t
    p carry) := by
  delta State.dropUncarried
  repeat' first
    | with_reducible first
      | assumption | apply State.orphan_keeps | apply State.setCu_keeps | apply foldl_keeps | intro _
      | fail_if_no_progress apply mk_keeps
    | (fail_if_no_progress extract_lets +onlyGivenNames z
       first
         | (with_reducible refine keeps_cut (p := Keeps s z) ?_ ?_
            on_goal 2 => (intro _; clear_value z)
            on_goal 1 => try dsimp -zeta only [z])
         | clear_value z | skip)
    | split

theorem State.assignExt_keeps {s t : State} (h : Keeps s t) (p : Nat) : Keeps s (State.assignExt t p) := by
  delta State.assignExt
  repeat' first
    | with_reducible first
      | assumption | apply State.setPart_keeps

theorem State.setOwners_keeps {s t : State} (h : Keeps s t) (site : Nat) (w : Word) : Keeps s (t.setOwners site w) := by
  refine State.setRegs_keeps h fun k => ?_
  rw [Regs.wf_mk] at *
  exact ⟨k.1, tabWf_tabSet _ _ k.2.1, tabWf_tabSet _ _ k.2.2.1, k.2.2.2⟩

theorem State.flipSite_keeps {s t : State} (h : Keeps s t) (fmts scales : Tab Nat) (site : Nat) : Keeps s
    (State.flipSite fmts scales t site) := by
  delta State.flipSite
  repeat' first
    | with_reducible first
      | assumption | apply State.setSite_keeps | apply State.commitSite_keeps | apply State.setOwners_keeps
      | apply State.setv_keeps | fail_if_no_progress apply mk_keeps
    | (fail_if_no_progress extract_lets +onlyGivenNames z
       first
         | (with_reducible refine keeps_cut (p := Keeps s z) ?_ ?_
            on_goal 2 => (intro _; clear_value z)
            on_goal 1 => try dsimp -zeta only [z])
         | clear_value z | skip)
    | split

theorem State.showPlates_keeps {s t : State} (h : Keeps s t) (p : Nat) : Keeps s (State.showPlates t p) := by
  delta State.showPlates
  repeat' first
    | with_reducible first
      | assumption | apply State.setf_keeps
    | (fail_if_no_progress extract_lets +onlyGivenNames z
       first
         | (with_reducible refine keeps_cut (p := Keeps s z) ?_ ?_
            on_goal 2 => (intro _; clear_value z)
            on_goal 1 => try dsimp -zeta only [z])
         | clear_value z | skip)

theorem State.exchange_keeps {s t : State} (h : Keeps s t) (p carry ticks : Nat) : Keeps s (State.exchange t p
    carry ticks) := by
  delta State.exchange
  repeat' first
    | with_reducible first
      | assumption | apply State.setf_keeps | apply State.bump_keeps | apply State.setPart_keeps
      | apply State.dropUncarried_keeps | apply State.assignExt_keeps | apply State.flipSite_keeps
      | apply State.showPlates_keeps | apply foldl_keeps | intro _ | fail_if_no_progress apply mk_keeps
    | (fail_if_no_progress extract_lets +onlyGivenNames z
       first
         | (with_reducible refine keeps_cut (p := Keeps s z) ?_ ?_
            on_goal 2 => (intro _; clear_value z)
            on_goal 1 => try dsimp -zeta only [z])
         | clear_value z | skip)
    | split

theorem State.setPhase_keeps {s t : State} (h : Keeps s t) (p n : Nat) : Keeps s (State.setPhase t p n) := by
  delta State.setPhase
  repeat' first
    | with_reducible first
      | assumption | apply State.setf_keeps

theorem State.initSems_keeps {s t : State} (h : Keeps s t) (p : Nat) : Keeps s (State.initSems t p) := by
  delta State.initSems
  repeat' first
    | with_reducible first
      | assumption | apply State.setMu_keeps | apply foldl_keeps | intro _
    | split

theorem State.takeEntries_keeps {s t : State} (h : Keeps s t) (site section_ : Nat) : Keeps s (State.takeEntries
    t site section_) := by
  delta State.takeEntries
  repeat' first
    | with_reducible first
      | assumption | apply State.setMu_keeps | intro _ | fail_if_no_progress apply mk_keeps
    | (fail_if_no_progress extract_lets +onlyGivenNames z
       first
         | (with_reducible refine keeps_cut (p := Keeps s z) ?_ ?_
            on_goal 2 => (intro _; clear_value z)
            on_goal 1 => try dsimp -zeta only [z])
         | clear_value z | skip)
    | split

theorem State.enterUnit_keeps {s t : State} (h : Keeps s t) (sec site p : Nat) : Keeps s (State.enterUnit t sec
    site p) := by
  delta State.enterUnit
  repeat' first
    | with_reducible first
      | assumption | apply State.takeEntries_keeps | apply State.work_keeps | apply State.setCu_keeps
    | (fail_if_no_progress extract_lets +onlyGivenNames z
       first
         | (with_reducible refine keeps_cut (p := Keeps s z) ?_ ?_
            on_goal 2 => (intro _; clear_value z)
            on_goal 1 => try dsimp -zeta only [z])
         | clear_value z | skip)
    | split

theorem State.enterSection_keeps {s t : State} (h : Keeps s t) (p ticks : Nat) : Keeps s (State.enterSection t p
    ticks) := by
  delta State.enterSection
  repeat' first
    | with_reducible first
      | assumption | apply State.setf_keeps | apply State.setPart_keeps | apply State.assignExt_keeps
      | apply State.setPhase_keeps | apply State.initSems_keeps | apply State.enterUnit_keeps | apply foldl_keeps
      | intro _ | fail_if_no_progress apply mk_keeps
    | (fail_if_no_progress extract_lets +onlyGivenNames z
       first
         | (with_reducible refine keeps_cut (p := Keeps s z) ?_ ?_
            on_goal 2 => (intro _; clear_value z)
            on_goal 1 => try dsimp -zeta only [z])
         | clear_value z | skip)
    | split

theorem State.fireFirst_keeps {s t : State} (h : Keeps s t) (p carry : Nat) (y : Step) : Keeps s (State.fireFirst
    t p carry y) := by
  delta State.fireFirst
  repeat' first
    | with_reducible first
      | assumption | apply State.setPart_keeps | intro _ | fail_if_no_progress apply mk_keeps
    | split

theorem execPlateFlip_keeps {s t : State} (h : Keeps s t) (p : Nat) : KeepsOut s (execPlateFlip p t) := by
  delta execPlateFlip
  repeat' first
    | with_reducible first
      | assumption | apply KeepsOut.next | apply State.fresh_keeps | apply State.exchange_keeps
      | apply State.enterSection_keeps | apply State.fireFirst_keeps
    | (fail_if_no_progress extract_lets +onlyGivenNames z
       first
         | (with_reducible refine keeps_cut (p := Keeps s z) ?_ ?_
            on_goal 2 => (intro _; clear_value z)
            on_goal 1 => try dsimp -zeta only [z])
         | clear_value z | skip)
    | split

theorem State.endLoadStep_keeps {s t : State} (h : Keeps s t) (p : Nat) (key : Nat × Nat) (code : Nat) (detail :
    Word) : Keeps s (State.endLoadStep t p key code detail) := by
  delta State.endLoadStep
  repeat' first
    | with_reducible first
      | assumption | apply State.sendAbort_keeps | apply State.abortRun_keeps | apply State.abortAdmitted_keeps
      | intro _
    | (fail_if_no_progress extract_lets +onlyGivenNames z
       first
         | (with_reducible refine keeps_cut (p := Keeps s z) ?_ ?_
            on_goal 2 => (intro _; clear_value z)
            on_goal 1 => try dsimp -zeta only [z])
         | clear_value z | skip)
    | split

theorem execPlateLoadStart_keeps {s t : State} (h : Keeps s t) (p : Nat) : KeepsOut s (execPlateLoadStart p t) := by
  delta execPlateLoadStart
  repeat' first
    | with_reducible first
      | assumption | apply KeepsOut.next | apply State.setPart_keeps | apply State.showPlates_keeps
      | apply State.endLoadStep_keeps
    | split

theorem execSectionSwitch_keeps {s t : State} (h : Keeps s t) (p : Nat) : KeepsOut s (execSectionSwitch p t) := by
  delta execSectionSwitch
  repeat' first
    | with_reducible first
      | assumption | apply KeepsOut.next | apply State.fresh_keeps | apply State.dropUncarried_keeps
      | apply State.enterSection_keeps
    | split

theorem State.showBetween_keeps {s t : State} (h : Keeps s t) (p : Nat) : Keeps s (State.showBetween t p) := by
  delta State.showBetween
  repeat' first
    | with_reducible first
      | assumption | apply State.setPhase_keeps
    | split

theorem State.fillBack_keeps {s t : State} (h : Keeps s t) (p : Nat) (rd : Reader) (l : Load) : Keeps s
    (State.fillBack t p rd l) := by
  delta State.fillBack
  repeat' first
    | with_reducible first
      | assumption | apply State.setf_keeps | apply State.bump_keeps | apply State.setPart_keeps
      | apply State.setSite_keeps | apply State.showPlates_keeps | apply State.showBetween_keeps
      | apply foldl_keeps | intro _
    | (fail_if_no_progress extract_lets +onlyGivenNames z
       first
         | (with_reducible refine keeps_cut (p := Keeps s z) ?_ ?_
            on_goal 2 => (intro _; clear_value z)
            on_goal 1 => try dsimp -zeta only [z])
         | clear_value z | skip)
    | split

theorem State.readImage_keeps {s t : State} (h : Keeps s t) (p : Nat) (e : Edition) (last : Nat) (l : List Nat) :
    Keeps s (t.readImage p e last l).1 := by
  induction l generalizing t last with
  | nil => exact h
  | cons a l ih =>
    unfold State.readImage
    split
    · exact ih h _
    · rename_i m _
      have k := ih (State.sharedRead_keeps h p 1 m (m / 4096 != last)) (m / 4096)
      dsimp only
      split <;> exact k

theorem State.readImage_keeps_eq {s t u : State} {z} {a1 : Nat} {a2 : Edition} {a3 : Nat} {a4 : List Nat} (h :
    Keeps s t)  (e : State.readImage t a1 a2 a3 a4 = (u, z)) : Keeps s u := by
  have := State.readImage_keeps h a1 a2 a3 a4
  rw [e] at this
  exact this

theorem State.recordRefusal_keeps {s t : State} (h : Keeps s t) (p : Nat) (l : Load) (f : Nat × Nat × Nat × Nat)
    : Keeps s (State.recordRefusal t p l f) := by
  delta State.recordRefusal
  repeat' first
    | with_reducible first
      | assumption | apply State.setf_keeps
    | (fail_if_no_progress extract_lets +onlyGivenNames z
       first
         | (with_reducible refine keeps_cut (p := Keeps s z) ?_ ?_
            on_goal 2 => (intro _; clear_value z)
            on_goal 1 => try dsimp -zeta only [z])
         | clear_value z | skip)
    | split

theorem execPlateLoadComplete_keeps {s t : State} (h : Keeps s t) (p : Nat) : KeepsOut s (execPlateLoadComplete p t) := by
  delta execPlateLoadComplete
  repeat' first
    | with_reducible first
      | assumption | apply KeepsOut.next | apply State.setPart_keeps | apply State.showPlates_keeps
      | apply State.endLoadStep_keeps | apply State.fillBack_keeps | apply State.readImage_keeps
      | refine State.readImage_keeps_eq ?_ (by assumption) | apply State.recordRefusal_keeps | apply foldl_keeps
      | apply foldl_fst_keeps | apply foldl_snd_keeps | intro _ | fail_if_no_progress apply mk_keeps
    | (fail_if_no_progress extract_lets +onlyGivenNames z
       first
         | (with_reducible refine keeps_cut (p := Keeps s z) ?_ ?_
            on_goal 2 => (intro _; clear_value z)
            on_goal 1 => try dsimp -zeta only [z])
         | (with_reducible refine keeps_cut (p := Keeps s z.1) ?_ ?_
            on_goal 2 => (intro _)
            on_goal 1 => try dsimp -zeta only [z])
         | (with_reducible refine keeps_cut (p := ∀ u x, Keeps s u → Keeps s (z u x)) ?_ ?_
            on_goal 2 => (intro _; clear_value z)
            on_goal 1 => try dsimp -zeta only [z])
         | (with_reducible refine keeps_cut (p := ∀ u, Keeps s u → Keeps s (z u)) ?_ ?_
            on_goal 2 => (intro _; clear_value z)
            on_goal 1 => try dsimp -zeta only [z])
         | (with_reducible refine keeps_cut (p := ∀ x, Keeps s (z x)) ?_ ?_
            on_goal 2 => (intro _; clear_value z)
            on_goal 1 => try dsimp -zeta only [z])
         | (with_reducible refine keeps_cut (p := ∀ x y w, Keeps s (z x y w)) ?_ ?_
            on_goal 2 => (intro _; clear_value z)
            on_goal 1 => try dsimp -zeta only [z])
         | clear_value z | skip)
    | split
    | dsimp -zeta only
    | with_reducible apply_assumption

theorem execSectionDrain_keeps {s t : State} (h : Keeps s t) (p : Nat) : KeepsOut s (execSectionDrain p t) := by
  delta execSectionDrain
  repeat' first
    | with_reducible first
      | assumption | apply KeepsOut.next | apply State.setPart_keeps | apply State.chargeUp_keeps
      | apply State.setPhase_keeps | apply State.work_keeps | apply State.collClose_keeps | apply foldl_keeps
      | intro _ | fail_if_no_progress apply mk_keeps
    | (fail_if_no_progress extract_lets +onlyGivenNames z
       first
         | (with_reducible refine keeps_cut (p := Keeps s z) ?_ ?_
            on_goal 2 => (intro _; clear_value z)
            on_goal 1 => try dsimp -zeta only [z])
         | clear_value z | skip)
    | split

theorem State.endHold_keeps {s t : State} (h : Keeps s t) (p : Nat) : Keeps s (State.endHold t p) := by
  delta State.endHold
  repeat' first
    | with_reducible first
      | assumption | apply State.setPart_keeps | apply State.setPhase_keeps
    | (fail_if_no_progress extract_lets +onlyGivenNames z
       first
         | (with_reducible refine keeps_cut (p := Keeps s z) ?_ ?_
            on_goal 2 => (intro _; clear_value z)
            on_goal 1 => try dsimp -zeta only [z])
         | clear_value z | skip)
    | split

end Sys2Proof.Machine
end

