-- ==== Sys2Proof/Laws/KeepsServe.lean ====
section
/-! SUPPORT. What the operations and commands of the serving engine, its page pool and the dispatcher keep. -/

namespace Sys2Proof.Machine

open Sys2Proof

set_option linter.unusedTactic false
set_option linter.unreachableTactic false

theorem State.dropFrame_keeps {s t : State} (h : Keeps s t) (p f : Nat) : Keeps s (State.dropFrame t p f) := by
  delta State.dropFrame
  repeat' first
    | with_reducible first
      | assumption | apply State.setPart_keeps | apply foldl_keeps | intro _
    | (fail_if_no_progress extract_lets +onlyGivenNames z
       first
         | (with_reducible refine keeps_cut (p := Keeps s z) ?_ ?_
            on_goal 2 => (intro _; clear_value z)
            on_goal 1 => try dsimp -zeta only [z])
         | clear_value z | skip)

theorem State.putDir_keeps {s t : State} (h : Keeps s t) (x1 : Nat) (x2 : Option DirEntry) : Keeps s
    (State.putDir t x1 x2) := by
  delta State.putDir
  repeat' first
    | with_reducible first
      | assumption | apply State.setDir_keeps | intro _
    | split

theorem State.dropDir_keeps {s t : State} (h : Keeps s t) (x1 : Nat) : Keeps s (State.dropDir t x1) := by
  delta State.dropDir
  repeat' first
    | with_reducible first
      | assumption | apply State.dropFrame_keeps | apply State.putDir_keeps
    | split

theorem State.setSeq_keeps {s t : State} (h : Keeps s t) (n : Nat) (x : Seq) : Keeps s (State.setSeq t n x) := by
  delta State.setSeq
  repeat' first
    | with_reducible first
      | assumption | apply State.setSeqs_keeps | intro _
    | split

theorem State.setBlock_keeps {s t : State} (h : Keeps s t) (seq b : Nat) (swapped : Bool) (f : Nat) : Keeps s
    (State.setBlock t seq b swapped f) := by
  delta State.setBlock
  repeat' first
    | with_reducible first
      | assumption | apply State.setBlocks_keeps | intro _
    | split

theorem State.swapBlock_keeps {s t : State} (h : Keeps s t) (p seq : Nat) (b : Nat × Nat) : Keeps s
    (State.swapBlock t p seq b) := by
  delta State.swapBlock
  repeat' first
    | with_reducible first
      | assumption | apply State.setPart_keeps | apply State.setBlock_keeps | intro _
      | fail_if_no_progress apply mk_keeps
    | (fail_if_no_progress extract_lets +onlyGivenNames z
       first
         | (with_reducible refine keeps_cut (p := Keeps s z) ?_ ?_
            on_goal 2 => (intro _; clear_value z)
            on_goal 1 => try dsimp -zeta only [z])
         | clear_value z | skip)
    | split

theorem State.swapStart_keeps {s t : State} (h : Keeps s t) (p seq : Nat) : Keeps s (State.swapStart t p seq) := by
  delta State.swapStart
  repeat' first
    | with_reducible first
      | assumption | apply State.setSeq_keeps | apply State.swapBlock_keeps | apply foldl_keeps
      | apply foldl_fst_keeps | apply foldl_snd_keeps | intro _ | fail_if_no_progress apply mk_keeps
    | (fail_if_no_progress extract_lets +onlyGivenNames z
       first
         | (with_reducible refine keeps_cut (p := Keeps s z) ?_ ?_
            on_goal 2 => (intro _; clear_value z)
            on_goal 1 => try dsimp -zeta only [z])
         | (with_reducible refine keeps_cut (p := Keeps s z.1) ?_ ?_
            on_goal 2 => (intro _)
            on_goal 1 => try dsimp -zeta only [z])
         | (with_reducible refine keeps_cut (p := ∀ u x, Keeps s u → Keeps s (z u x)) ?_ ?_
            on_goal 2 => (intro _; clear_value z)
            on_goal 1 => try dsimp -zeta only [z])
         | (with_reducible refine keeps_cut (p := ∀ u, Keeps s u → Keeps s (z u)) ?_ ?_
            on_goal 2 => (intro _; clear_value z)
            on_goal 1 => try dsimp -zeta only [z])
         | (with_reducible refine keeps_cut (p := ∀ x, Keeps s (z x)) ?_ ?_
            on_goal 2 => (intro _; clear_value z)
            on_goal 1 => try dsimp -zeta only [z])
         | clear_value z | skip)
    | split
    | dsimp -zeta only
    | with_reducible apply_assumption

theorem State.checkTiles_keeps {s t : State} (h : Keeps s t) (p : Nat) (l : List Nat) : Keeps s (t.checkTiles p l).1 := by
  induction l generalizing t with
  | nil => exact h
  | cons a l ih =>
    unfold State.checkTiles
    split
    · dsimp only
      split
      · exact State.checkWords_keeps h _ _ _
      · exact ih (State.checkWords_keeps h _ _ _)
    · exact ih h

theorem State.checkTiles_keeps_eq {s t u : State} {z} {a1 : Nat} {a2 : List Nat} (h : Keeps s t)  (e :
    State.checkTiles t a1 a2 = (u, z)) : Keeps s u := by
  have := State.checkTiles_keeps h a1 a2
  rw [e] at this
  exact this

theorem State.gatherFor_keeps {s t : State} (h : Keeps s t) (p need : Nat) (ln7 reclaim : Bool) : Keeps s
    (State.gatherFor t p need ln7 reclaim).1 := by
  delta State.gatherFor
  repeat' first
    | with_reducible first
      | assumption | apply State.bump_keeps | apply State.dropDir_keeps | apply State.swapStart_keeps
      | apply State.checkTiles_keeps | refine State.checkTiles_keeps_eq ?_ (by assumption)
    | (fail_if_no_progress extract_lets +onlyGivenNames z
       first
         | (with_reducible refine keeps_cut (p := Keeps s z) ?_ ?_
            on_goal 2 => (intro _; clear_value z)
            on_goal 1 => try dsimp -zeta only [z])
         | (with_reducible refine keeps_cut (p := Keeps s z.1) ?_ ?_
            on_goal 2 => (intro _)
            on_goal 1 => try dsimp -zeta only [z])
         | clear_value z | skip)
    | split

theorem State.gather_keeps {s t : State} (h : Keeps s t) (p need : Nat) (ln7 : Bool) (n : Nat) (b : Bool) :
    Keeps s (t.gather p need ln7 n b).1 := by
  induction n generalizing t b with
  | zero => exact h
  | succ n ih =>
    unfold State.gather
    dsimp only
    have k := State.gatherFor_keeps h p need ln7 b
    split
    · split
      · exact ih k _
      · exact k
    · exact k

theorem State.gather_keeps_eq {s t u : State} {z} {a1 : Nat} {a2 : Nat} {a3 : Bool} {a4 : Nat} {a5 : Bool} (h :
    Keeps s t)  (e : State.gather t a1 a2 a3 a4 a5 = (u, z)) : Keeps s u := by
  have := State.gather_keeps h a1 a2 a3 a4 a5
  rw [e] at this
  exact this

theorem State.openFrame_keeps {s t : State} (h : Keeps s t) (p seq : Nat) (x3 : Edition) (fmt b : Nat) : Keeps s
    (State.openFrame t p seq x3 fmt b) := by
  delta State.openFrame
  repeat' first
    | with_reducible first
      | assumption | apply State.setPart_keeps | apply State.setBlock_keeps | apply foldl_keeps
      | apply foldl_fst_keeps | apply foldl_snd_keeps | intro _ | fail_if_no_progress apply mk_keeps
    | (fail_if_no_progress extract_lets +onlyGivenNames z
       first
         | (with_reducible refine keeps_cut (p := Keeps s z) ?_ ?_
            on_goal 2 => (intro _; clear_value z)
            on_goal 1 => try dsimp -zeta only [z])
         | clear_value z | skip)
    | split

theorem State.recallPage_keeps {s t : State} (h : Keeps s t) (p pg : Nat) : Keeps s (State.recallPage t p pg) := by
  delta State.recallPage
  repeat' first
    | with_reducible first
      | assumption | apply State.recall_keeps | intro _
    | (fail_if_no_progress extract_lets +onlyGivenNames z
       first
         | (with_reducible refine keeps_cut (p := Keeps s z) ?_ ?_
            on_goal 2 => (intro _; clear_value z)
            on_goal 1 => try dsimp -zeta only [z])
         | clear_value z | skip)
    | split

theorem execSwapOut_keeps {s t : State} (h : Keeps s t) (p : Nat) : KeepsOut s (execSwapOut p t) := by
  delta execSwapOut
  repeat' first
    | with_reducible first
      | assumption | apply KeepsOut.next | apply State.recallPage_keeps | apply State.bump_keeps
      | apply State.setPart_keeps | apply State.emits_keeps | apply foldl_keeps | apply foldl_fst_keeps
      | apply foldl_snd_keeps | intro _
    | (fail_if_no_progress extract_lets +onlyGivenNames z
       first
         | (with_reducible refine keeps_cut (p := Keeps s z) ?_ ?_
            on_goal 2 => (intro _; clear_value z)
            on_goal 1 => try dsimp -zeta only [z])
         | clear_value z | skip)
    | split

theorem State.poolZeroed_keeps {s t : State} (h : Keeps s t) (p : Nat) : Keeps s (t.poolZeroed p) := by
  have cut : ∀ u : State, Keeps s u → ∀ (x : Hbm) a b, x.cells = tabClear u.hbm.cells a b → Keeps s (u.setHbm x) :=
    fun _ k _ a b e => State.setHbm_keeps k fun w => e ▸ tabWf_tabClear a b w
  unfold State.poolZeroed
  split
  · exact h
  · split
    · split
      · exact h
      · exact State.setPart_keeps (cut _ (State.activateAll_keeps (State.recallPage_keeps h _ _) _) _ _ _ rfl) _ _
    · exact State.setPart_keeps (State.recallPage_keeps h _ _) _ _

theorem execPageZeroed_keeps {s t : State} (h : Keeps s t) (pool : Bool) (n : Nat) : KeepsOut s (execPageZeroed
    pool n t) := by
  delta execPageZeroed
  repeat' first
    | with_reducible first
      | assumption | apply KeepsOut.next | apply State.poolZeroed_keeps | apply State.zeroed_keeps
    | split

theorem State.settlePool_keeps {s t : State} (h : Keeps s t) (p : Nat) : Keeps s (State.settlePool t p) := by
  delta State.settlePool
  repeat' first
    | with_reducible first
      | assumption | apply State.setPart_keeps | apply foldl_keeps | apply foldl_fst_keeps | apply foldl_snd_keeps
      | intro _ | fail_if_no_progress apply mk_keeps
    | (fail_if_no_progress extract_lets +onlyGivenNames z
       first
         | (with_reducible refine keeps_cut (p := Keeps s z) ?_ ?_
            on_goal 2 => (intro _; clear_value z)
            on_goal 1 => try dsimp -zeta only [z])
         | clear_value z | skip)
    | split

theorem State.releaseSeq_keeps {s t : State} (h : Keeps s t) (p seq : Nat) : Keeps s (State.releaseSeq t p seq) := by
  delta State.releaseSeq
  repeat' first
    | with_reducible first
      | assumption | apply State.dropFrame_keeps | apply State.setPart_keeps | apply State.setBlocks_keeps
      | apply foldl_keeps | apply foldl_fst_keeps | apply foldl_snd_keeps | intro _
    | (fail_if_no_progress extract_lets +onlyGivenNames z
       first
         | (with_reducible refine keeps_cut (p := Keeps s z) ?_ ?_
            on_goal 2 => (intro _; clear_value z)
            on_goal 1 => try dsimp -zeta only [z])
         | clear_value z | skip)
    | split

theorem State.takeFrame_keeps {s t : State} (h : Keeps s t) (p f : Nat) : Keeps s (State.takeFrame t p f) := by
  delta State.takeFrame
  repeat' first
    | with_reducible first
      | assumption | apply State.setPart_keeps | apply foldl_keeps | intro _
    | (fail_if_no_progress extract_lets +onlyGivenNames z
       first
         | (with_reducible refine keeps_cut (p := Keeps s z) ?_ ?_
            on_goal 2 => (intro _; clear_value z)
            on_goal 1 => try dsimp -zeta only [z])
         | clear_value z | skip)

theorem State.swapAsk_keeps {s t : State} (h : Keeps s t) (x1 : Nat × Nat) : Keeps s (State.swapAsk t x1) := by
  delta State.swapAsk
  repeat' first
    | with_reducible first
      | assumption | fail_if_no_progress apply mk_keeps
    | (fail_if_no_progress extract_lets +onlyGivenNames z
       first
         | (with_reducible refine keeps_cut (p := Keeps s z) ?_ ?_
            on_goal 2 => (intro _; clear_value z)
            on_goal 1 => try dsimp -zeta only [z])
         | clear_value z | skip)
    | split

theorem State.dirInsert_keeps {s t : State} (h : Keeps s t) (p ns hash frame : Nat) : Keeps s (State.dirInsert t
    p ns hash frame) := by
  delta State.dirInsert
  repeat' first
    | with_reducible first
      | assumption | apply State.bump_keeps | apply State.dropDir_keeps | apply State.takeFrame_keeps
      | apply State.putDir_keeps | apply foldl_keeps | apply foldl_fst_keeps | apply foldl_snd_keeps | intro _
      | fail_if_no_progress apply mk_keeps
    | (fail_if_no_progress extract_lets +onlyGivenNames z
       first
         | (with_reducible refine keeps_cut (p := Keeps s z) ?_ ?_
            on_goal 2 => (intro _; clear_value z)
            on_goal 1 => try dsimp -zeta only [z])
         | (with_reducible refine keeps_cut (p := Keeps s z.1) ?_ ?_
            on_goal 2 => (intro _)
            on_goal 1 => try dsimp -zeta only [z])
         | (with_reducible refine keeps_cut (p := ∀ u x, Keeps s u → Keeps s (z u x)) ?_ ?_
            on_goal 2 => (intro _; clear_value z)
            on_goal 1 => try dsimp -zeta only [z])
         | (with_reducible refine keeps_cut (p := ∀ u, Keeps s u → Keeps s (z u)) ?_ ?_
            on_goal 2 => (intro _; clear_value z)
            on_goal 1 => try dsimp -zeta only [z])
         | (with_reducible refine keeps_cut (p := ∀ x, Keeps s (z x)) ?_ ?_
            on_goal 2 => (intro _; clear_value z)
            on_goal 1 => try dsimp -zeta only [z])
         | clear_value z | skip)
    | split
    | dsimp -zeta only
    | with_reducible apply_assumption

theorem State.publish_keeps {s t : State} (h : Keeps s t) (p ns hash frame : Nat) (toks : List Nat) : Keeps s
    (State.publish t p ns hash frame toks) := by
  delta State.publish
  repeat' first
    | with_reducible first
      | assumption | apply State.dirInsert_keeps | intro _
    | split

theorem execNskeyInvalidationDone_keeps {s t : State} (h : Keeps s t) (p ns : Nat) : KeepsOut s
    (execNskeyInvalidationDone p ns t) := by
  delta execNskeyInvalidationDone
  repeat' first
    | with_reducible first
      | assumption | apply KeepsOut.next | apply State.setf_keeps | apply State.dropDir_keeps | apply foldl_keeps
      | apply foldl_fst_keeps | apply foldl_snd_keeps | intro _
    | (fail_if_no_progress extract_lets +onlyGivenNames z
       first
         | (with_reducible refine keeps_cut (p := Keeps s z) ?_ ?_
            on_goal 2 => (intro _; clear_value z)
            on_goal 1 => try dsimp -zeta only [z])
         | clear_value z | skip)
    | split

theorem execSeqSelCapture_keeps {s t : State} (h : Keeps s t) (w : Word) : KeepsOut s (execSeqSelCapture w t) := by
  delta execSeqSelCapture
  repeat' first
    | with_reducible first
      | assumption | apply KeepsOut.next | apply State.setf_keeps | apply State.setv_keeps | apply foldl_keeps
      | intro _
    | (fail_if_no_progress extract_lets +onlyGivenNames z
       first
         | (with_reducible refine keeps_cut (p := Keeps s z) ?_ ?_
            on_goal 2 => (intro _; clear_value z)
            on_goal 1 => try dsimp -zeta only [z])
         | clear_value z | skip)
    | split

theorem execNskeyApply_keeps {s t : State} (h : Keeps s t) (p : Nat) (w : Word) : KeepsOut s (execNskeyApply p w t) := by
  delta execNskeyApply
  repeat' first
    | with_reducible first
      | assumption | apply KeepsOut.next | apply State.setf_keeps | apply State.setPart_keeps
      | apply State.setSeqs_keeps | intro _ | fail_if_no_progress apply mk_keeps
    | (fail_if_no_progress extract_lets +onlyGivenNames z
       first
         | (with_reducible refine keeps_cut (p := Keeps s z) ?_ ?_
            on_goal 2 => (intro _; clear_value z)
            on_goal 1 => try dsimp -zeta only [z])
         | clear_value z | skip)
    | split

theorem State.setAdmitted_keeps {s t : State} (h : Keeps s t) (p : Nat) (x : Step) : Keeps s (State.setAdmitted t
    p x) := by
  delta State.setAdmitted
  repeat' first
    | with_reducible first
      | assumption | apply State.setPart_keeps

theorem State.control_keeps {s t : State} (h : Keeps s t) (p code : Nat) (f : State → Step → Nat → State × Option
    (Nat × Nat)) (k3 : ∀ x0 x1 x2, Keeps s x0 → Keeps s (f x0 x1 x2).1) : Keeps s (State.control t p code f) := by
  delta State.control
  repeat' first
    | with_reducible first
      | assumption | apply k3 | apply State.setAdmitted_keeps | apply foldl_keeps | apply foldl_fst_keeps
      | apply foldl_snd_keeps | intro _ | fail_if_no_progress apply mk_keeps
    | (fail_if_no_progress extract_lets +onlyGivenNames z
       first
         | (with_reducible refine keeps_cut (p := Keeps s z) ?_ ?_
            on_goal 2 => (intro _; clear_value z)
            on_goal 1 => try dsimp -zeta only [z])
         | (with_reducible refine keeps_cut (p := Keeps s z.1) ?_ ?_
            on_goal 2 => (intro _)
            on_goal 1 => try dsimp -zeta only [z])
         | (with_reducible refine keeps_cut (p := ∀ u x, Keeps s u → Keeps s (z u x)) ?_ ?_
            on_goal 2 => (intro _; clear_value z)
            on_goal 1 => try dsimp -zeta only [z])
         | (with_reducible refine keeps_cut (p := ∀ u, Keeps s u → Keeps s (z u)) ?_ ?_
            on_goal 2 => (intro _; clear_value z)
            on_goal 1 => try dsimp -zeta only [z])
         | (with_reducible refine keeps_cut (p := ∀ x, Keeps s (z x)) ?_ ?_
            on_goal 2 => (intro _; clear_value z)
            on_goal 1 => try dsimp -zeta only [z])
         | clear_value z | skip)
    | split
    | dsimp -zeta only
    | with_reducible apply_assumption

theorem State.endGather_keeps {s t : State} (h : Keeps s t) (p : Nat) (x : Step) : Keeps s (State.endGather t p x) := by
  delta State.endGather
  repeat' first
    | with_reducible first
      | assumption | apply State.bump_keeps | apply State.setAdmitted_keeps | fail_if_no_progress apply mk_keeps
    | split

theorem State.resumeBlock_keeps {s t : State} (h : Keeps s t) (p seq len : Nat) (b : Nat × Nat) (blobs : List
    (List Byte)) : Keeps s (State.resumeBlock t p seq len b blobs) := by
  delta State.resumeBlock
  repeat' first
    | with_reducible first
      | assumption | apply State.setPart_keeps | apply State.setBlock_keeps | apply State.writePart_keeps
      | apply foldl_keeps | apply foldl_fst_keeps | apply foldl_snd_keeps | intro _
      | fail_if_no_progress apply mk_keeps
    | (fail_if_no_progress extract_lets +onlyGivenNames z
       first
         | (with_reducible refine keeps_cut (p := Keeps s z) ?_ ?_
            on_goal 2 => (intro _; clear_value z)
            on_goal 1 => try dsimp -zeta only [z])
         | (with_reducible refine keeps_cut (p := Keeps s z.1) ?_ ?_
            on_goal 2 => (intro _)
            on_goal 1 => try dsimp -zeta only [z])
         | clear_value z | skip)
    | split

theorem State.resumeBlocks_keeps {s t : State} (h : Keeps s t) (p seq len : Nat) (l : List (Nat × Nat))
    (blobs : List (List Byte)) : Keeps s (t.resumeBlocks p seq len l blobs) := by
  induction l generalizing t blobs with
  | nil => exact h
  | cons b l ih => exact ih (State.resumeBlock_keeps h _ _ _ _ _) _

theorem execResume_keeps {s t : State} (h : Keeps s t) (p : Nat) (blobs : Option (List (List Byte))) : KeepsOut s
    (execResume p blobs t) := by
  delta execResume
  repeat' first
    | with_reducible first
      | assumption | apply KeepsOut.next | apply State.bump_keeps | apply State.setSeq_keeps
      | apply State.control_keeps | apply State.endGather_keeps | apply State.resumeBlocks_keeps
      | apply State.emits_keeps | apply State.swapAsk_keeps | apply State.setAdmitted_keeps
      | apply State.gather_keeps | refine State.gather_keeps_eq ?_ (by assumption) | apply State.linkErr_keeps
      | apply foldl_keeps | apply foldl_fst_keeps | apply foldl_snd_keeps | intro _
      | fail_if_no_progress apply mk_keeps
    | (fail_if_no_progress extract_lets +onlyGivenNames z
       first
         | (with_reducible refine keeps_cut (p := Keeps s z) ?_ ?_
            on_goal 2 => (intro _; clear_value z)
            on_goal 1 => try dsimp -zeta only [z])
         | (with_reducible refine keeps_cut (p := Keeps s z.1) ?_ ?_
            on_goal 2 => (intro _)
            on_goal 1 => try dsimp -zeta only [z])
         | clear_value z | skip)
    | split

theorem State.noteTokens_keeps {s t : State} (h : Keeps s t) (p : Nat) (toks : List Nat) (r : Rec) : Keeps s
    (State.noteTokens t p toks r) := by
  delta State.noteTokens
  repeat' first
    | with_reducible first
      | assumption | apply State.setPart_keeps | apply foldl_keeps | intro _ | fail_if_no_progress apply mk_keeps
    | (fail_if_no_progress extract_lets +onlyGivenNames z
       first
         | (with_reducible refine keeps_cut (p := Keeps s z) ?_ ?_
            on_goal 2 => (intro _; clear_value z)
            on_goal 1 => try dsimp -zeta only [z])
         | clear_value z | skip)
    | split

theorem State.appendTables_keeps {s t : State} (h : Keeps s t) (p : Nat) (fmts : Tab Nat) : Keeps s
    (State.appendTables t p fmts) := by
  delta State.appendTables
  repeat' first
    | with_reducible first
      | assumption | apply State.setCu_keeps | apply foldl_keeps | intro _
    | split

theorem State.writeRuns_keeps {s t : State} (h : Keeps s t) (p : Nat) (rs : List Rec) : Keeps s (State.writeRuns
    t p rs) := by
  delta State.writeRuns
  repeat' first
    | with_reducible first
      | assumption | apply State.setMu_keeps | apply foldl_keeps | intro _
    | (fail_if_no_progress extract_lets +onlyGivenNames z
       first
         | (with_reducible refine keeps_cut (p := Keeps s z) ?_ ?_
            on_goal 2 => (intro _; clear_value z)
            on_goal 1 => try dsimp -zeta only [z])
         | clear_value z | skip)
    | split

theorem State.deliver_keeps {s t : State} (h : Keeps s t) (p : Nat) (x : Step) : Keeps s (State.deliver t p x) := by
  delta State.deliver
  repeat' first
    | with_reducible first
      | assumption | apply State.bump_keeps | apply State.setPart_keeps | apply State.noteTokens_keeps
      | apply State.appendTables_keeps | apply State.setPhase_keeps | apply State.writeRuns_keeps
      | apply foldl_keeps | apply foldl_fst_keeps | apply foldl_snd_keeps | intro _
      | fail_if_no_progress apply mk_keeps
    | (fail_if_no_progress extract_lets +onlyGivenNames z
       first
         | (with_reducible refine keeps_cut (p := Keeps s z) ?_ ?_
            on_goal 2 => (intro _; clear_value z)
            on_goal 1 => try dsimp -zeta only [z])
         | clear_value z | skip)
    | split

theorem State.failAdmitted_keeps {s t : State} (h : Keeps s t) (p : Nat) (x : Step) (code : Nat) (detail : Word)
    : Keeps s (State.failAdmitted t p x code detail) := by
  delta State.failAdmitted
  repeat' first
    | with_reducible first
      | assumption | apply State.setAdmitted_keeps

theorem State.failGather_keeps {s t : State} (h : Keeps s t) (p : Nat) (x : Step) (a : Nat) : Keeps s
    (State.failGather t p x a) := by
  delta State.failGather
  repeat' first
    | with_reducible first
      | assumption | apply State.bump_keeps | apply State.failAdmitted_keeps | fail_if_no_progress apply mk_keeps

theorem State.loseRecord_keeps {s t : State} (h : Keeps s t) (p : Nat) (x : Step) (r : Rec) : Keeps s
    (State.loseRecord t p x r) := by
  delta State.loseRecord
  repeat' first
    | with_reducible first
      | assumption | apply State.bump_keeps | apply State.setSeq_keeps | apply State.swapStart_keeps
      | apply State.failGather_keeps | apply State.releaseSeq_keeps | apply State.checkTiles_keeps
      | refine State.checkTiles_keeps_eq ?_ (by assumption) | apply State.setAdmitted_keeps
    | (fail_if_no_progress extract_lets +onlyGivenNames z
       first
         | (with_reducible refine keeps_cut (p := Keeps s z) ?_ ?_
            on_goal 2 => (intro _; clear_value z)
            on_goal 1 => try dsimp -zeta only [z])
         | (with_reducible refine keeps_cut (p := Keeps s z.1) ?_ ?_
            on_goal 2 => (intro _)
            on_goal 1 => try dsimp -zeta only [z])
         | clear_value z | skip)
    | split

theorem State.gatherRecords_keeps {s t : State} (h : Keeps s t) (p : Nat) (e : Edition) (n : Nat) :
    Keeps s (t.gatherRecords p e n) := by
  induction n generalizing t with
  | zero => exact h
  | succ n ih =>
    unfold State.gatherRecords
    split
    · exact h
    · split
      · exact h
      · split
        · exact h
        · dsimp only
          split
          · exact ih (State.setAdmitted_keeps h _ _)
          · split
            · exact h
            have k := fun a b c d e => State.gather_keeps h (t := t) a b c d e
            split
            · exact ih (State.setAdmitted_keeps (foldl_keeps (k _ _ _ _ _) fun u x w => State.openFrame_keeps w _ _ _ _ _) _ _)
            · exact State.setAdmitted_keeps (k _ _ _ _ _) _ _
            · exact State.failGather_keeps (k _ _ _ _ _) _ _ _
            · exact ih (State.loseRecord_keeps (k _ _ _ _ _) _ _ _)

theorem State.sendBatch_keeps {s t : State} (h : Keeps s t) (p idx : Nat) (bs : List Byte) : Keeps s
    (State.sendBatch t p idx bs) := by
  delta State.sendBatch
  repeat' first
    | with_reducible first
      | assumption | apply State.sendStep_keeps | apply foldl_keeps | intro _
    | (fail_if_no_progress extract_lets +onlyGivenNames z
       first
         | (with_reducible refine keeps_cut (p := Keeps s z) ?_ ?_
            on_goal 2 => (intro _; clear_value z)
            on_goal 1 => try dsimp -zeta only [z])
         | clear_value z | skip)
    | split

theorem State.nameSeq_keeps {s t : State} (h : Keeps s t) (p : Nat) (r : Rec) : Keeps s (State.nameSeq t p r) := by
  delta State.nameSeq
  repeat' first
    | with_reducible first
      | assumption | apply State.setSeq_keeps | apply State.releaseSeq_keeps | fail_if_no_progress apply mk_keeps
    | (fail_if_no_progress extract_lets +onlyGivenNames z
       first
         | (with_reducible refine keeps_cut (p := Keeps s z) ?_ ?_
            on_goal 2 => (intro _; clear_value z)
            on_goal 1 => try dsimp -zeta only [z])
         | clear_value z | skip)
    | split

theorem State.showGuard_keeps {s t : State} (h : Keeps s t) (p : Nat) (g : GuardHit) : Keeps s (State.showGuard t
    p g) := by
  delta State.showGuard
  repeat' first
    | with_reducible first
      | assumption | apply State.setv_keeps
    | (fail_if_no_progress extract_lets +onlyGivenNames z
       first
         | (with_reducible refine keeps_cut (p := Keeps s z) ?_ ?_
            on_goal 2 => (intro _; clear_value z)
            on_goal 1 => try dsimp -zeta only [z])
         | clear_value z | skip)

theorem State.guard_keeps {s t : State} (h : Keeps s t) (p : Nat) (x2 : Edition) (x : Step) : Keeps s
    (State.guard t p x2 x).1 := by
  delta State.guard
  repeat' first
    | with_reducible first
      | assumption | apply State.proofHit_keeps | apply State.showGuard_keeps
    | (fail_if_no_progress extract_lets +onlyGivenNames z
       first
         | (with_reducible refine keeps_cut (p := Keeps s z) ?_ ?_
            on_goal 2 => (intro _; clear_value z)
            on_goal 1 => try dsimp -zeta only [z])
         | clear_value z | skip)
    | split

theorem State.guard_keeps_eq {s t u : State} {z} {p : Nat} {x2 : Edition} {x : Step} (h : Keeps s t)  (e :
    State.guard t p x2 x = (u, z)) : Keeps s u := by
  have := State.guard_keeps h p x2 x
  rw [e] at this
  exact this

theorem State.checkBatch_keeps {s t : State} (h : Keeps s t) (p : Nat) (x2 : Edition) (x : Step) (batch : Option
    (List Byte)) : Keeps s (State.checkBatch t p x2 x batch) := by
  delta State.checkBatch
  repeat' first
    | with_reducible first
      | assumption | apply State.bump_keeps | apply State.sendBatch_keeps | apply State.nameSeq_keeps
      | apply State.emits_keeps | apply State.failAdmitted_keeps | apply State.guard_keeps
      | refine State.guard_keeps_eq ?_ (by assumption) | apply State.setAdmitted_keeps | apply State.linkErr_keeps
      | apply foldl_keeps | apply foldl_fst_keeps | apply foldl_snd_keeps | intro _
      | fail_if_no_progress apply mk_keeps
    | (fail_if_no_progress extract_lets +onlyGivenNames z
       first
         | (with_reducible refine keeps_cut (p := Keeps s z) ?_ ?_
            on_goal 2 => (intro _; clear_value z)
            on_goal 1 => try dsimp -zeta only [z])
         | (with_reducible refine keeps_cut (p := Keeps s z.1) ?_ ?_
            on_goal 2 => (intro _)
            on_goal 1 => try dsimp -zeta only [z])
         | clear_value z | skip)
    | split

theorem State.deliverBatch_keeps {s t : State} (h : Keeps s t) (p : Nat) (x2 : Edition) (x : Step) (batch :
    Option (List Byte)) : Keeps s (State.deliverBatch t p x2 x batch) := by
  delta State.deliverBatch
  repeat' first
    | with_reducible first
      | assumption | apply State.deliver_keeps | apply State.gatherRecords_keeps | apply State.checkBatch_keeps
    | (fail_if_no_progress extract_lets +onlyGivenNames z
       first
         | (with_reducible refine keeps_cut (p := Keeps s z) ?_ ?_
            on_goal 2 => (intro _; clear_value z)
            on_goal 1 => try dsimp -zeta only [z])
         | clear_value z | skip)
    | split

theorem State.admitEntry_keeps {s t : State} (h : Keeps s t) (p : Nat) (x2 : Entry) (start : Nat) : Keeps s
    (State.admitEntry t p x2 start) := by
  delta State.admitEntry
  repeat' first
    | with_reducible first
      | assumption | apply State.setPart_keeps | apply State.sendStep_keeps | apply State.recallPart_keeps
      | apply foldl_keeps | apply foldl_fst_keeps | apply foldl_snd_keeps | intro _
      | fail_if_no_progress apply mk_keeps
    | (fail_if_no_progress extract_lets +onlyGivenNames z
       first
         | (with_reducible refine keeps_cut (p := Keeps s z) ?_ ?_
            on_goal 2 => (intro _; clear_value z)
            on_goal 1 => try dsimp -zeta only [z])
         | clear_value z | skip)
    | split

theorem State.admitNext_keeps {s t : State} (h : Keeps s t) (p : Nat) : Keeps s (State.admitNext t p) := by
  delta State.admitNext
  repeat' first
    | with_reducible first
      | assumption | apply State.setPart_keeps | apply State.admitEntry_keeps | fail_if_no_progress apply mk_keeps
    | (fail_if_no_progress extract_lets +onlyGivenNames z
       first
         | (with_reducible refine keeps_cut (p := Keeps s z) ?_ ?_
            on_goal 2 => (intro _; clear_value z)
            on_goal 1 => try dsimp -zeta only [z])
         | clear_value z | skip)
    | split

theorem State.memberAdmit_keeps {s t : State} (h : Keeps s t) (p : Nat) : Keeps s (State.memberAdmit t p) := by
  delta State.memberAdmit
  repeat' first
    | with_reducible first
      | assumption | apply State.admitNext_keeps
    | split

theorem State.lookupWalk_keeps {s t : State} (h : Keeps s t) (p seq ns key : Nat) (toks : List Nat) (n b x : Nat) :
    Keeps s (t.lookupWalk p seq ns key toks n b x).1 := by
  induction n generalizing t b x with
  | zero => exact h
  | succ n ih =>
    unfold State.lookupWalk
    extract_lets t32 h' c
    have k : Keeps s c := State.bump_keeps h _ _ _
    clear_value c
    split
    · exact State.bump_keeps k _ _ _
    · exact ih (State.bump_keeps (State.setBlock_keeps (State.takeFrame_keeps (State.putDir_keeps k _ _) _ _) _ _ _ _)
        _ _ _) _ _

theorem State.lookupWalk_keeps_eq {s t u : State} {z} {a1 : Nat} {a2 : Nat} {a3 : Nat} {a4 : Nat} {a5 : List Nat}
    {a6 : Nat} {a7 : Nat} {a8 : Nat} (h : Keeps s t)  (e : State.lookupWalk t a1 a2 a3 a4 a5 a6 a7 a8 = (u, z)) :
    Keeps s u := by
  have := State.lookupWalk_keeps h a1 a2 a3 a4 a5 a6 a7 a8
  rw [e] at this
  exact this

theorem State.noteDefect_keeps {s t : State} (h : Keeps s t) (p : Nat) (x : Step) (o : Nat × Word) : Keeps s
    (State.noteDefect t p x o) := by
  delta State.noteDefect
  repeat' first
    | with_reducible first
      | assumption | apply State.setv_keeps
    | split

theorem State.delivering_keeps {s t : State} (h : Keeps s t) (p : Nat) (f : State → State) (k2 : ∀ x0, Keeps s x0
    → Keeps s (f x0)) : Keeps s (State.delivering t p f) := by
  delta State.delivering
  repeat' first
    | with_reducible first
      | assumption | apply k2 | apply State.setPart_keeps | apply State.chargeUp_keeps
      | apply State.haltFabric_keeps
    | (fail_if_no_progress extract_lets +onlyGivenNames z
       first
         | (with_reducible refine keeps_cut (p := Keeps s z) ?_ ?_
            on_goal 2 => (intro _; clear_value z)
            on_goal 1 => try dsimp -zeta only [z])
         | clear_value z | skip)
    | split

theorem execBatchDelivery_keeps {s t : State} (h : Keeps s t) (p : Nat) (batch : Option (List Byte)) : KeepsOut s
    (execBatchDelivery p batch t) := by
  delta execBatchDelivery
  repeat' first
    | with_reducible first
      | assumption | apply KeepsOut.next | apply State.delivering_keeps | apply State.deliverBatch_keeps
      | apply State.memberAdmit_keeps | intro _
    | split

theorem State.setDeficit_keeps {s t : State} (h : Keeps s t) (p : Nat) (d : ℤ) : Keeps s (State.setDeficit t p d) := by
  delta State.setDeficit
  repeat' first
    | with_reducible first
      | assumption | apply State.setPart_keeps

theorem State.advance_keeps {s t : State} (h : Keeps s t) (p : Nat) (r : Rec) : Keeps s (State.advance t p r) := by
  delta State.advance
  repeat' first
    | with_reducible first
      | assumption | apply State.setSeq_keeps | apply State.setPart_keeps | apply State.publish_keeps
      | apply foldl_keeps | apply foldl_fst_keeps | apply foldl_snd_keeps | intro _
    | (fail_if_no_progress extract_lets +onlyGivenNames z
       first
         | (with_reducible refine keeps_cut (p := Keeps s z) ?_ ?_
            on_goal 2 => (intro _; clear_value z)
            on_goal 1 => try dsimp -zeta only [z])
         | clear_value z | skip)
    | split

theorem State.passDown_keeps {s t : State} (h : Keeps s t) (p typ : Nat) (body : List Byte) : Keeps s
    (State.passDown t p typ body) := by
  delta State.passDown
  repeat' first
    | with_reducible first
      | assumption | apply State.sendStep_keeps | apply foldl_keeps | intro _
    | split

theorem State.sendShare_keeps {s t : State} (h : Keeps s t) (p : Nat) (x : Step) (status : Nat) (detail : Word) :
    Keeps s (State.sendShare t p x status detail) := by
  delta State.sendShare
  repeat' first
    | with_reducible first
      | assumption | apply State.sendStep_keeps | apply foldl_keeps | apply foldl_fst_keeps | apply foldl_snd_keeps
      | intro _
    | (fail_if_no_progress extract_lets +onlyGivenNames z
       first
         | (with_reducible refine keeps_cut (p := Keeps s z) ?_ ?_
            on_goal 2 => (intro _; clear_value z)
            on_goal 1 => try dsimp -zeta only [z])
         | clear_value z | skip)
    | split

theorem State.settle_keeps {s t : State} (h : Keeps s t) (p charge : Nat) : Keeps s (State.settle t p charge) := by
  delta State.settle
  repeat' first
    | with_reducible first
      | assumption | apply State.bump_keeps | apply State.setDeficit_keeps
    | (fail_if_no_progress extract_lets +onlyGivenNames z
       first
         | (with_reducible refine keeps_cut (p := Keeps s z) ?_ ?_
            on_goal 2 => (intro _; clear_value z)
            on_goal 1 => try dsimp -zeta only [z])
         | clear_value z | skip)

theorem State.hostComplete_keeps {s t : State} (h : Keeps s t) (p : Nat) (ws : List (Nat × List Byte)) (irq :
    Bool) : Keeps s (State.hostComplete t p ws irq) := by
  delta State.hostComplete
  repeat' first
    | with_reducible first
      | assumption | apply State.setHost_keeps | apply State.emits_keeps | apply State.msix_keeps | intro _
      | fail_if_no_progress apply mk_keeps
    | (fail_if_no_progress extract_lets +onlyGivenNames z
       first
         | (with_reducible refine keeps_cut (p := Keeps s z) ?_ ?_
            on_goal 2 => (intro _; clear_value z)
            on_goal 1 => try dsimp -zeta only [z])
         | clear_value z | skip)
    | split

theorem State.finishStep_keeps {s t : State} (h : Keeps s t) (p : Nat) (x : Step) (ended : Nat) : Keeps s
    (State.finishStep t p x ended) := by
  delta State.finishStep
  repeat' first
    | with_reducible first
      | assumption | apply State.settle_keeps | apply State.sendShare_keeps | apply State.hostComplete_keeps
      | apply State.advance_keeps | apply State.noteDefect_keeps | apply foldl_keeps | apply foldl_fst_keeps
      | apply foldl_snd_keeps | intro _
    | (fail_if_no_progress extract_lets +onlyGivenNames z
       first
         | (with_reducible refine keeps_cut (p := Keeps s z) ?_ ?_
            on_goal 2 => (intro _; clear_value z)
            on_goal 1 => try dsimp -zeta only [z])
         | clear_value z | skip)
    | split

theorem State.countGather_keeps {s t : State} (h : Keeps s t) (p : Nat) (x : Step) : Keeps s (State.countGather t
    p x) := by
  delta State.countGather
  repeat' first
    | with_reducible first
      | assumption | apply State.bump_keeps
    | split

theorem State.finishControl_keeps {s t : State} (h : Keeps s t) (p : Nat) (x : Step) (ended : Nat) : Keeps s
    (State.finishControl t p x ended) := by
  delta State.finishControl
  repeat' first
    | with_reducible first
      | assumption | apply State.settle_keeps | apply State.hostComplete_keeps
    | (fail_if_no_progress extract_lets +onlyGivenNames z
       first
         | (with_reducible refine keeps_cut (p := Keeps s z) ?_ ?_
            on_goal 2 => (intro _; clear_value z)
            on_goal 1 => try dsimp -zeta only [z])
         | clear_value z | skip)
    | split

theorem State.finish_keeps {s t : State} (h : Keeps s t) (p : Nat) (x : Step) (ended : Nat) : Keeps s
    (State.finish t p x ended) := by
  delta State.finish
  repeat' first
    | with_reducible first
      | assumption | apply State.finishControl_keeps | apply State.finishStep_keeps
    | split

theorem execStepComplete_keeps {s t : State} (h : Keeps s t) (p : Nat) : KeepsOut s (execStepComplete p t) := by
  delta execStepComplete
  repeat' first
    | with_reducible first
      | assumption | apply KeepsOut.next | apply State.countGather_keeps | apply State.setPart_keeps
      | apply State.memberAdmit_keeps | apply State.finish_keeps | apply State.setPhase_keeps
      | apply State.haltFabric_keeps | apply State.endRounds_keeps
    | (fail_if_no_progress extract_lets +onlyGivenNames z
       first
         | (with_reducible refine keeps_cut (p := Keeps s z) ?_ ?_
            on_goal 2 => (intro _; clear_value z)
            on_goal 1 => try dsimp -zeta only [z])
         | clear_value z | skip)
    | split

theorem execStepDesc_keeps {s t : State} (h : Keeps s t) (port : Nat) (x1 : Hdr) (body : List Byte) : KeepsOut s
    (execStepDesc port x1 body t) := by
  delta execStepDesc
  repeat' first
    | with_reducible first
      | assumption | apply KeepsOut.next | apply State.setPart_keeps | apply State.passDown_keeps
      | apply State.receive_keeps | apply State.memberAdmit_keeps | intro _
    | (fail_if_no_progress extract_lets +onlyGivenNames z
       first
         | (with_reducible refine keeps_cut (p := Keeps s z) ?_ ?_
            on_goal 2 => (intro _; clear_value z)
            on_goal 1 => try dsimp -zeta only [z])
         | clear_value z | skip)
    | split

theorem State.onStep_keeps {s t : State} (h : Keeps s t) (p idx : Nat) (f : Step → Step) : Keeps s (State.onStep
    t p idx f) := by
  delta State.onStep
  repeat' first
    | with_reducible first
      | assumption | apply State.setPart_keeps | fail_if_no_progress apply mk_keeps
    | (fail_if_no_progress extract_lets +onlyGivenNames z
       first
         | (with_reducible refine keeps_cut (p := Keeps s z) ?_ ?_
            on_goal 2 => (intro _; clear_value z)
            on_goal 1 => try dsimp -zeta only [z])
         | clear_value z | skip)
    | split

theorem execStepDone_keeps {s t : State} (h : Keeps s t) (port : Nat) (x1 : Hdr) (body : List Byte) : KeepsOut s
    (execStepDone port x1 body t) := by
  delta execStepDone
  repeat' first
    | with_reducible first
      | assumption | apply KeepsOut.next | apply State.sendAbort_keeps | apply State.receive_keeps
      | apply State.onStep_keeps | apply State.abortEntry_keeps | intro _
    | (fail_if_no_progress extract_lets +onlyGivenNames z
       first
         | (with_reducible refine keeps_cut (p := Keeps s z) ?_ ?_
            on_goal 2 => (intro _; clear_value z)
            on_goal 1 => try dsimp -zeta only [z])
         | clear_value z | skip)
    | split

theorem execSequenceReleaseComplete_keeps {s t : State} (h : Keeps s t) (seq : Nat) : KeepsOut s
    (execSequenceReleaseComplete seq t) := by
  delta execSequenceReleaseComplete
  repeat' first
    | with_reducible first
      | assumption | apply KeepsOut.next | apply State.setSeq_keeps
    | split

theorem execLookup_keeps {s t : State} (h : Keeps s t) (p : Nat) (tokens : Option (List Nat)) : KeepsOut s
    (execLookup p tokens t) := by
  delta execLookup
  repeat' first
    | with_reducible first
      | assumption | apply KeepsOut.next | apply State.bump_keeps | apply State.setSeq_keeps
      | apply State.control_keeps | apply State.lookupWalk_keeps
      | refine State.lookupWalk_keeps_eq ?_ (by assumption) | apply State.failAdmitted_keeps
      | apply State.emit_keeps | apply State.linkErr_keeps | intro _
    | (fail_if_no_progress extract_lets +onlyGivenNames z
       first
         | (with_reducible refine keeps_cut (p := Keeps s z) ?_ ?_
            on_goal 2 => (intro _; clear_value z)
            on_goal 1 => try dsimp -zeta only [z])
         | (with_reducible refine keeps_cut (p := Keeps s z.1) ?_ ?_
            on_goal 2 => (intro _)
            on_goal 1 => try dsimp -zeta only [z])
         | clear_value z | skip)
    | split

theorem execHist_keeps {s t : State} (h : Keeps s t) (port : Nat) (x1 : Hdr) (body : List Byte) : KeepsOut s
    (execHist port x1 body t) := by
  delta execHist
  repeat' first
    | with_reducible first
      | assumption | apply KeepsOut.next | apply State.receive_keeps | apply State.onStep_keeps | apply foldl_keeps
      | intro _ | fail_if_no_progress apply mk_keeps
    | (fail_if_no_progress extract_lets +onlyGivenNames z
       first
         | (with_reducible refine keeps_cut (p := Keeps s z) ?_ ?_
            on_goal 2 => (intro _; clear_value z)
            on_goal 1 => try dsimp -zeta only [z])
         | clear_value z | skip)
    | split

theorem State.takeData_keeps {s t : State} (h : Keeps s t) (p idx off : Nat) (bs : List Byte) : Keeps s
    (State.takeData t p idx off bs) := by
  delta State.takeData
  repeat' first
    | with_reducible first
      | assumption | apply State.setPart_keeps | apply State.onStep_keeps | intro _
      | fail_if_no_progress apply mk_keeps
    | (fail_if_no_progress extract_lets +onlyGivenNames z
       first
         | (with_reducible refine keeps_cut (p := Keeps s z) ?_ ?_
            on_goal 2 => (intro _; clear_value z)
            on_goal 1 => try dsimp -zeta only [z])
         | clear_value z | skip)
    | split

theorem execStepData_keeps {s t : State} (h : Keeps s t) (port : Nat) (x1 : Hdr) (body : List Byte) : KeepsOut s
    (execStepData port x1 body t) := by
  delta execStepData
  repeat' first
    | with_reducible first
      | assumption | apply KeepsOut.next | apply State.passDown_keeps | apply State.receive_keeps
      | apply State.takeData_keeps | intro _
    | (fail_if_no_progress extract_lets +onlyGivenNames z
       first
         | (with_reducible refine keeps_cut (p := Keeps s z) ?_ ?_
            on_goal 2 => (intro _; clear_value z)
            on_goal 1 => try dsimp -zeta only [z])
         | clear_value z | skip)
    | split

theorem execClose_keeps {s t : State} (h : Keeps s t) (p : Nat) : KeepsOut s (execClose p t) := by
  delta execClose
  repeat' first
    | with_reducible first
      | assumption | apply KeepsOut.next | apply State.setSeq_keeps | apply State.control_keeps
      | apply State.releaseSeq_keeps | intro _ | fail_if_no_progress apply mk_keeps
    | (fail_if_no_progress extract_lets +onlyGivenNames z
       first
         | (with_reducible refine keeps_cut (p := Keeps s z) ?_ ?_
            on_goal 2 => (intro _; clear_value z)
            on_goal 1 => try dsimp -zeta only [z])
         | clear_value z | skip)
    | split

theorem execOpen_keeps {s t : State} (h : Keeps s t) (p : Nat) : KeepsOut s (execOpen p t) := by
  delta execOpen
  repeat' first
    | with_reducible first
      | assumption | apply KeepsOut.next | apply State.setSeq_keeps | apply State.control_keeps | intro _
    | (fail_if_no_progress extract_lets +onlyGivenNames z
       first
         | (with_reducible refine keeps_cut (p := Keeps s z) ?_ ?_
            on_goal 2 => (intro _; clear_value z)
            on_goal 1 => try dsimp -zeta only [z])
         | clear_value z | skip)
    | split

theorem execStepAbort_keeps {s t : State} (h : Keeps s t) (port : Nat) (x1 : Hdr) (body : List Byte) : KeepsOut s
    (execStepAbort port x1 body t) := by
  delta execStepAbort
  repeat' first
    | with_reducible first
      | assumption | apply KeepsOut.next | apply State.sendAbort_keeps | apply State.receive_keeps
      | apply State.abortEntry_keeps | intro _
    | (fail_if_no_progress extract_lets +onlyGivenNames z
       first
         | (with_reducible refine keeps_cut (p := Keeps s z) ?_ ?_
            on_goal 2 => (intro _; clear_value z)
            on_goal 1 => try dsimp -zeta only [z])
         | clear_value z | skip)
    | split

theorem execPark_keeps {s t : State} (h : Keeps s t) (p : Nat) : KeepsOut s (execPark p t) := by
  delta execPark
  repeat' first
    | with_reducible first
      | assumption | apply KeepsOut.next | apply State.setSeq_keeps | apply State.control_keeps | intro _
      | fail_if_no_progress apply mk_keeps
    | (fail_if_no_progress extract_lets +onlyGivenNames z
       first
         | (with_reducible refine keeps_cut (p := Keeps s z) ?_ ?_
            on_goal 2 => (intro _; clear_value z)
            on_goal 1 => try dsimp -zeta only [z])
         | clear_value z | skip)
    | split

theorem State.scheduleRounds_keeps {s t : State} (h : Keeps s t) (ready : List Nat) : Keeps s
    (State.scheduleRounds t ready) := by
  delta State.scheduleRounds
  repeat' first
    | with_reducible first
      | assumption | apply State.setDeficit_keeps | apply foldl_keeps | intro _
    | (fail_if_no_progress extract_lets +onlyGivenNames z
       first
         | (with_reducible refine keeps_cut (p := Keeps s z) ?_ ?_
            on_goal 2 => (intro _; clear_value z)
            on_goal 1 => try dsimp -zeta only [z])
         | clear_value z | skip)
    | split

theorem execSchedulerChoose_keeps {s t : State} (h : Keeps s t) : KeepsOut s (execSchedulerChoose t) := by
  delta execSchedulerChoose
  repeat' first
    | with_reducible first
      | assumption | apply KeepsOut.next | apply State.setf_keeps | apply State.scheduleRounds_keeps
      | apply State.admitNext_keeps | intro _
    | (fail_if_no_progress extract_lets +onlyGivenNames z
       first
         | (with_reducible refine keeps_cut (p := Keeps s z) ?_ ?_
            on_goal 2 => (intro _; clear_value z)
            on_goal 1 => try dsimp -zeta only [z])
         | clear_value z | skip)
    | split

theorem State.takeTurn_keeps {s t : State} (h : Keeps s t) (p : Nat) : Keeps s (State.takeTurn t p) := by
  delta State.takeTurn
  repeat' first
    | with_reducible first
      | assumption | apply State.setPart_keeps | apply foldl_keeps | intro _
    | (fail_if_no_progress extract_lets +onlyGivenNames z
       first
         | (with_reducible refine keeps_cut (p := Keeps s z) ?_ ?_
            on_goal 2 => (intro _; clear_value z)
            on_goal 1 => try dsimp -zeta only [z])
         | clear_value z | skip)
    | split

theorem State.bookLayer_keeps {s t : State} (h : Keeps s t) (p rl : Nat) (b : Books) : Keeps s (State.bookLayer t
    p rl b) := by
  delta State.bookLayer
  repeat' first
    | with_reducible first
      | assumption | apply State.bump_keeps | apply State.setPart_keeps | apply foldl_keeps | apply foldl_fst_keeps
      | apply foldl_snd_keeps | intro _ | fail_if_no_progress apply mk_keeps
    | (fail_if_no_progress extract_lets +onlyGivenNames z
       first
         | (with_reducible refine keeps_cut (p := Keeps s z) ?_ ?_
            on_goal 2 => (intro _; clear_value z)
            on_goal 1 => try dsimp -zeta only [z])
         | clear_value z | skip)
    | split

theorem execDispatchLayerDecide_keeps {s t : State} (h : Keeps s t) (p mode : Nat) (entries : List Nat) :
    KeepsOut s (execDispatchLayerDecide p mode entries t) := by
  unfold execDispatchLayerDecide
  split
  · split
    · exact .next h
    · extract_lets d src0 done r lists named on here lines rd s1 table env b dfr u1 u2 own owed n0 n1 dd due src u3 u4 u5
      split
      · exact .next (foldl_keeps (State.setPart_keeps h _ _) fun u x k => State.muRest_keeps k _ _)
      · split
        · exact .next h
        · have h0 : Keeps s rd.1 := foldl_fst_keeps h fun u x k => State.readPart_keeps k _ _ _ _ _
          clear_value rd
          split
          · exact .next (State.abortRun_keeps h0 _ _ _)
          · have h1 : Keeps s s1 := h0
            clear_value s1 b lists n0 n1 dfr
            have h2 : Keeps s u2 :=
              foldl_keeps (State.bookLayer_keeps h1 _ _ _) fun u x k => State.plateDefect_keeps k _ _ _
            clear_value u2
            split
            · exact .next h2
            · have h3 : Keeps s u3 := State.setPart_keeps h2 _ _
              clear_value u3
              have h4 : Keeps s u4 := by
                unfold u4
                split
                · exact State.sendEnds_keeps h3 _ _ _
                · exact h3
              clear_value u4
              refine .next (State.dispPump_keeps ?_ _)
              unfold u5
              split
              · exact State.sendEnds_keeps h4 _ _ _
              · exact h4
  · exact .next h

theorem State.endCame_keeps {s t : State} (h : Keeps s t) (p src layer pass : Nat) : Keeps s (State.endCame t p
    src layer pass) := by
  delta State.endCame
  repeat' first
    | with_reducible first
      | assumption | apply State.setPart_keeps | intro _ | fail_if_no_progress apply mk_keeps
    | (fail_if_no_progress extract_lets +onlyGivenNames z
       first
         | (with_reducible refine keeps_cut (p := Keeps s z) ?_ ?_
            on_goal 2 => (intro _; clear_value z)
            on_goal 1 => try dsimp -zeta only [z])
         | clear_value z | skip)
    | split

theorem State.deliverPair_keeps {s t : State} (h : Keeps s t) (p ctx : Nat) (body : List Byte) (i : Nat × Nat) :
    Keeps s (State.deliverPair t p ctx body i) := by
  delta State.deliverPair
  repeat' first
    | with_reducible first
      | assumption | apply State.setPart_keeps | apply State.muWake_keeps | intro _
      | fail_if_no_progress apply mk_keeps
    | (fail_if_no_progress extract_lets +onlyGivenNames z
       first
         | (with_reducible refine keeps_cut (p := Keeps s z) ?_ ?_
            on_goal 2 => (intro _; clear_value z)
            on_goal 1 => try dsimp -zeta only [z])
         | clear_value z | skip)
    | split

theorem execDispatchEnd_keeps {s t : State} (h : Keeps s t) (port : Nat) (x1 : Hdr) (body : List Byte) : KeepsOut
    s (execDispatchEnd port x1 body t) := by
  delta execDispatchEnd
  repeat' first
    | with_reducible first
      | assumption | apply KeepsOut.next | apply State.setPart_keeps | apply State.receive_keeps
      | apply State.endCame_keeps | apply State.dispPump_keeps | apply State.muWake_keeps
      | apply State.discardMsg_keeps | apply foldl_keeps | apply foldl_fst_keeps | apply foldl_snd_keeps | intro _
      | fail_if_no_progress apply mk_keeps
    | (fail_if_no_progress extract_lets +onlyGivenNames z
       first
         | (with_reducible refine keeps_cut (p := Keeps s z) ?_ ?_
            on_goal 2 => (intro _; clear_value z)
            on_goal 1 => try dsimp -zeta only [z])
         | clear_value z | skip)
    | split

theorem execCandidateListArrival_keeps {s t : State} (h : Keeps s t) (site : Nat) : KeepsOut s
    (execCandidateListArrival site t) := by
  delta execCandidateListArrival
  repeat' first
    | with_reducible first
      | assumption | apply KeepsOut.next | apply State.takeTurn_keeps | apply State.bump_keeps
      | apply State.plateDefect_keeps | apply State.setPart_keeps | apply State.setSu_keeps
      | apply State.progressBy_keeps | apply State.muRest_keeps | apply State.muWake_keeps | apply foldl_keeps
      | apply foldl_fst_keeps | apply foldl_snd_keeps | intro _ | fail_if_no_progress apply mk_keeps
    | (fail_if_no_progress extract_lets +onlyGivenNames z
       first
         | (with_reducible refine keeps_cut (p := Keeps s z) ?_ ?_
            on_goal 2 => (intro _; clear_value z)
            on_goal 1 => try dsimp -zeta only [z])
         | (with_reducible refine keeps_cut (p := Keeps s z.1) ?_ ?_
            on_goal 2 => (intro _)
            on_goal 1 => try dsimp -zeta only [z])
         | (with_reducible refine keeps_cut (p := ∀ u x, Keeps s u → Keeps s (z u x)) ?_ ?_
            on_goal 2 => (intro _; clear_value z)
            on_goal 1 => try dsimp -zeta only [z])
         | (with_reducible refine keeps_cut (p := ∀ u, Keeps s u → Keeps s (z u)) ?_ ?_
            on_goal 2 => (intro _; clear_value z)
            on_goal 1 => try dsimp -zeta only [z])
         | (with_reducible refine keeps_cut (p := ∀ x, Keeps s (z x)) ?_ ?_
            on_goal 2 => (intro _; clear_value z)
            on_goal 1 => try dsimp -zeta only [z])
         | clear_value z | skip)
    | split
    | dsimp -zeta only
    | with_reducible apply_assumption

theorem State.warn_keeps {s t : State} (h : Keeps s t) (p : Nat) : Keeps s (State.warn t p) := by
  delta State.warn
  repeat' first
    | with_reducible first
      | assumption | apply State.setPart_keeps | fail_if_no_progress apply mk_keeps
    | split

theorem execDispatch_keeps {s t : State} (h : Keeps s t) (port : Nat) (x1 : Hdr) (body : List Byte) : KeepsOut s
    (execDispatch port x1 body t) := by
  delta execDispatch
  repeat' first
    | with_reducible first
      | assumption | apply KeepsOut.next | apply State.warn_keeps | apply State.receive_keeps
      | apply State.dispPump_keeps | apply State.deliverPair_keeps | apply State.discardMsg_keeps
      | apply foldl_keeps | apply foldl_fst_keeps | apply foldl_snd_keeps | intro _
    | (fail_if_no_progress extract_lets +onlyGivenNames z
       first
         | (with_reducible refine keeps_cut (p := Keeps s z) ?_ ?_
            on_goal 2 => (intro _; clear_value z)
            on_goal 1 => try dsimp -zeta only [z])
         | clear_value z | skip)
    | split

end Sys2Proof.Machine
end

