-- ==== Sys2Proof/Laws/KeepsHub.lean ====
section
/-! SUPPORT. What the operations and commands of the hub, the host port, the optical ports, power, the seal unit and partitions keep. -/

namespace Sys2Proof.Machine

open Sys2Proof

set_option linter.unusedTactic false
set_option linter.unreachableTactic false

theorem execMemLinkDown_keeps {s t : State} (h : Keeps s t) (edge : Nat) : KeepsOut s (execMemLinkDown edge t) := by
  delta execMemLinkDown
  repeat' first
    | with_reducible first
      | assumption | apply KeepsOut.next | apply State.setf_keeps
    | split

theorem State.timeRecord_keeps {s t : State} (h : Keeps s t) (p : Option Nat) (event err : Nat) : Keeps s
    (State.timeRecord t p event err) := by
  delta State.timeRecord
  repeat' first
    | with_reducible first
      | assumption | apply State.bbWrite_keeps

theorem State.exchangeFailed_keeps {s t : State} (h : Keeps s t) (p : Nat) : Keeps s (State.exchangeFailed t p) := by
  delta State.exchangeFailed
  repeat' first
    | with_reducible first
      | assumption | apply State.setf_keeps | apply State.setTime_keeps | apply State.timeRecord_keeps
      | fail_if_no_progress apply mk_keeps
    | (fail_if_no_progress extract_lets +onlyGivenNames z
       first
         | (with_reducible refine keeps_cut (p := Keeps s z) ?_ ?_
            on_goal 2 => (intro _; clear_value z)
            on_goal 1 => try dsimp -zeta only [z])
         | clear_value z | skip)
    | split

theorem execRefRestored_keeps {s t : State} (h : Keeps s t) : KeepsOut s (execRefRestored t) := by
  delta execRefRestored
  repeat' first
    | with_reducible first
      | assumption | apply KeepsOut.next | apply State.setf_keeps | apply State.timeRecord_keeps
    | (fail_if_no_progress extract_lets +onlyGivenNames z
       first
         | (with_reducible refine keeps_cut (p := Keeps s z) ?_ ?_
            on_goal 2 => (intro _; clear_value z)
            on_goal 1 => try dsimp -zeta only [z])
         | clear_value z | skip)
    | split

theorem execPpsInEdge_keeps {s t : State} (h : Keeps s t) : KeepsOut s (execPpsInEdge t) := by
  delta execPpsInEdge
  repeat' first
    | with_reducible first
      | assumption | apply KeepsOut.next | apply State.setv_keeps | apply foldl_keeps | intro _
    | split

theorem State.snapState_keeps {s t : State} (h : Keeps s t) (p code : Nat) : Keeps s (State.snapState t p code) := by
  delta State.snapState
  repeat' first
    | with_reducible first
      | assumption | apply State.setf_keeps

theorem State.armSnap_keeps {s t : State} (h : Keeps s t) (p x2 seq : Nat) : Keeps s (State.armSnap t p x2 seq) := by
  delta State.armSnap
  repeat' first
    | with_reducible first
      | assumption | apply State.setf_keeps | apply State.setTime_keeps | apply State.snapState_keeps
      | fail_if_no_progress apply mk_keeps
    | (fail_if_no_progress extract_lets +onlyGivenNames z
       first
         | (with_reducible refine keeps_cut (p := Keeps s z) ?_ ?_
            on_goal 2 => (intro _; clear_value z)
            on_goal 1 => try dsimp -zeta only [z])
         | clear_value z | skip)

theorem execSnapshotArmReceive_keeps {s t : State} (h : Keeps s t) (p : Nat) (x1 : Word) (seq : Nat) : KeepsOut s
    (execSnapshotArmReceive p x1 seq t) := by
  delta execSnapshotArmReceive
  repeat' first
    | with_reducible first
      | assumption | apply KeepsOut.next | apply State.armSnap_keeps
    | split

theorem execSnapshotLatch_keeps {s t : State} (h : Keeps s t) (site : Nat) : KeepsOut s (execSnapshotLatch site t) := by
  delta execSnapshotLatch
  repeat' first
    | with_reducible first
      | assumption | apply KeepsOut.next | apply State.setTime_keeps | intro _ | fail_if_no_progress apply mk_keeps
    | (fail_if_no_progress extract_lets +onlyGivenNames z
       first
         | (with_reducible refine keeps_cut (p := Keeps s z) ?_ ?_
            on_goal 2 => (intro _; clear_value z)
            on_goal 1 => try dsimp -zeta only [z])
         | clear_value z | skip)
    | split

theorem execTimeExchangeTimer_keeps {s t : State} (h : Keeps s t) (p : Nat) : KeepsOut s (execTimeExchangeTimer p t) := by
  delta execTimeExchangeTimer
  repeat' first
    | with_reducible first
      | assumption | apply KeepsOut.next | apply State.exchangeFailed_keeps | apply State.setTime_keeps
      | apply State.send_keeps | fail_if_no_progress apply mk_keeps
    | (fail_if_no_progress extract_lets +onlyGivenNames z
       first
         | (with_reducible refine keeps_cut (p := Keeps s z) ?_ ?_
            on_goal 2 => (intro _; clear_value z)
            on_goal 1 => try dsimp -zeta only [z])
         | clear_value z | skip)
    | split

theorem State.snapSettle_keeps {s t : State} (h : Keeps s t) (p : Nat) : Keeps s (State.snapSettle t p) := by
  delta State.snapSettle
  repeat' first
    | with_reducible first
      | assumption | apply State.setf_keeps | apply State.setTime_keeps | apply State.snapState_keeps
    | split

theorem execRefLost_keeps {s t : State} (h : Keeps s t) : KeepsOut s (execRefLost t) := by
  delta execRefLost
  repeat' first
    | with_reducible first
      | assumption | apply KeepsOut.next | apply State.setf_keeps | apply State.timeRecord_keeps
    | (fail_if_no_progress extract_lets +onlyGivenNames z
       first
         | (with_reducible refine keeps_cut (p := Keeps s z) ?_ ?_
            on_goal 2 => (intro _; clear_value z)
            on_goal 1 => try dsimp -zeta only [z])
         | clear_value z | skip)
    | split

theorem execReferenceLocked_keeps {s t : State} (h : Keeps s t) : KeepsOut s (execReferenceLocked t) := by
  delta execReferenceLocked
  repeat' first
    | with_reducible first
      | assumption | apply KeepsOut.next | apply State.setf_keeps | apply State.timeRecord_keeps
    | (fail_if_no_progress extract_lets +onlyGivenNames z
       first
         | (with_reducible refine keeps_cut (p := Keeps s z) ?_ ?_
            on_goal 2 => (intro _; clear_value z)
            on_goal 1 => try dsimp -zeta only [z])
         | clear_value z | skip)
    | split

theorem State.latchSite_keeps {s t : State} (h : Keeps s t) (p site ts seq : Nat) : Keeps s (State.latchSite t p
    site ts seq) := by
  delta State.latchSite
  repeat' first
    | with_reducible first
      | assumption | apply State.setf_keeps | apply State.setTime_keeps | apply State.setv_keeps
      | apply foldl_keeps | apply foldl_fst_keeps | apply foldl_snd_keeps | intro _
      | fail_if_no_progress apply mk_keeps
    | (fail_if_no_progress extract_lets +onlyGivenNames z
       first
         | (with_reducible refine keeps_cut (p := Keeps s z) ?_ ?_
            on_goal 2 => (intro _; clear_value z)
            on_goal 1 => try dsimp -zeta only [z])
         | clear_value z | skip)
    | split

theorem State.snapTick_keeps {s t : State} (h : Keeps s t) (p : Nat) : Keeps s (State.snapTick t p) := by
  delta State.snapTick
  repeat' first
    | with_reducible first
      | assumption | apply State.latchSite_keeps | apply State.snapSettle_keeps | apply foldl_keeps
      | apply foldl_fst_keeps | apply foldl_snd_keeps | intro _
    | (fail_if_no_progress extract_lets +onlyGivenNames z
       first
         | (with_reducible refine keeps_cut (p := Keeps s z) ?_ ?_
            on_goal 2 => (intro _; clear_value z)
            on_goal 1 => try dsimp -zeta only [z])
         | clear_value z | skip)
    | split

theorem execD2dLinkDown_keeps {s t : State} (h : Keeps s t) (die : Nat) : KeepsOut s (execD2dLinkDown die t) := by
  delta execD2dLinkDown
  repeat' first
    | with_reducible first
      | assumption | apply KeepsOut.next | apply State.setf_keeps
    | split

theorem execMemLinkRetrainDone_keeps {s t : State} (h : Keeps s t) (edge : Nat) : KeepsOut s
    (execMemLinkRetrainDone edge t) := by
  delta execMemLinkRetrainDone
  repeat' first
    | with_reducible first
      | assumption | apply KeepsOut.next | apply State.setf_keeps
    | split

theorem execSnapAtWrite_keeps {s t : State} (h : Keeps s t) (p : Nat) (x1 : Word) : KeepsOut s (execSnapAtWrite p
    x1 t) := by
  delta execSnapAtWrite
  repeat' first
    | with_reducible first
      | assumption | apply KeepsOut.next | apply State.armSnap_keeps | apply State.snapState_keeps
      | apply State.setv_keeps | apply State.emit_keeps | apply foldl_keeps | intro _
    | (fail_if_no_progress extract_lets +onlyGivenNames z
       first
         | (with_reducible refine keeps_cut (p := Keeps s z) ?_ ?_
            on_goal 2 => (intro _; clear_value z)
            on_goal 1 => try dsimp -zeta only [z])
         | clear_value z | skip)
    | split

theorem execTimeRsp_keeps {s t : State} (h : Keeps s t) (port : Nat) (hd : Hdr) (body : List Byte) :
    KeepsOut s (execTimeRsp port hd body t) := by
  unfold execTimeRsp
  refine .next (State.receive_keeps h _ _ _ _ _ fun t p h => ?_)
  extract_lets x po peer err enc u1 synced u2 u3 y
  clear_value x err enc
  split
  · exact State.confirmAlive_keeps h _ _
  · split
    · have h1 : Keeps s u1 := State.setf_keeps h _ _ _
      clear_value u1
      have h2 : Keeps s u2 := by
        unfold u2
        split
        · exact State.setf_keeps h1 _ _ _
        · exact h1
      clear_value u2
      have h3 : Keeps s u3 := by
        unfold u3
        split
        · exact State.timeRecord_keeps (State.setf_keeps h2 _ _ _) _ _ _
        · exact h2
      clear_value u3
      split
      · exact State.setTime_keeps h3 _ _
      · exact State.setf_keeps (State.setTime_keeps h3 _ _) _ _ _
    · exact h

theorem execTimeReq_keeps {s t : State} (h : Keeps s t) (port : Nat) (x1 : Hdr) (body : List Byte) : KeepsOut s
    (execTimeReq port x1 body t) := by
  delta execTimeReq
  repeat' first
    | with_reducible first
      | assumption | apply KeepsOut.next | apply State.receive_keeps | apply State.send_keeps | intro _
    | split

theorem State.linkDown_keeps {s t : State} (h : Keeps s t) : Keeps s (State.linkDown t) := by
  delta State.linkDown
  repeat' first
    | with_reducible first
      | assumption | apply State.setf_keeps | apply State.linkErr_keeps

theorem execIdeFailure_keeps {s t : State} (h : Keeps s t) (stream : Nat) : KeepsOut s (execIdeFailure stream t) := by
  delta execIdeFailure
  repeat' first
    | with_reducible first
      | assumption | apply KeepsOut.next | apply State.setf_keeps | apply State.linkDown_keeps
      | apply State.bbWrite_keeps | apply State.linkErr_keeps
    | (fail_if_no_progress extract_lets +onlyGivenNames z
       first
         | (with_reducible refine keeps_cut (p := Keeps s z) ?_ ?_
            on_goal 2 => (intro _; clear_value z)
            on_goal 1 => try dsimp -zeta only [z])
         | clear_value z | skip)
    | split

theorem State.keepSnoop_keeps {s t : State} (h : Keeps s t) (addr : Nat) : Keeps s (State.keepSnoop t addr) := by
  delta State.keepSnoop
  repeat' first
    | with_reducible first
      | assumption | apply State.emit_keeps
    | (fail_if_no_progress extract_lets +onlyGivenNames z
       first
         | (with_reducible refine keeps_cut (p := Keeps s z) ?_ ?_
            on_goal 2 => (intro _; clear_value z)
            on_goal 1 => try dsimp -zeta only [z])
         | clear_value z | skip)
    | split

theorem execSnpcur_keeps {s t : State} (h : Keeps s t) (addr : Nat) : KeepsOut s (execSnpcur addr t) := by
  delta execSnpcur
  repeat' first
    | with_reducible first
      | assumption | apply KeepsOut.next | apply State.keepSnoop_keeps

theorem State.clearEnable_keeps {s t : State} (h : Keeps s t) (p : Nat) : Keeps s (t.clearEnable p) := by
  refine State.setRegs_keeps h fun k => ?_
  rw [Regs.wf_mk] at *
  exact ⟨k.1, tabWf_tabSet _ _ k.2.1, tabWf_tabSet _ _ k.2.2.1, tabWf_tabSet _ _ k.2.2.2⟩

theorem State.wakeLedger_keeps {s t : State} (h : Keeps s t) (p : Nat) : Keeps s (State.wakeLedger t p) := by
  delta State.wakeLedger
  repeat' first
    | with_reducible first
      | assumption | apply State.setPart_keeps | fail_if_no_progress apply mk_keeps
    | (fail_if_no_progress extract_lets +onlyGivenNames z
       first
         | (with_reducible refine keeps_cut (p := Keeps s z) ?_ ?_
            on_goal 2 => (intro _; clear_value z)
            on_goal 1 => try dsimp -zeta only [z])
         | clear_value z | skip)
    | split

theorem State.hostStore_keeps {s t : State} (h : Keeps s t) (p a : Nat) (bs : List Byte) : Keeps s
    (State.hostStore t p a bs) := by
  delta State.hostStore
  repeat' first
    | with_reducible first
      | assumption | apply State.setHost_keeps | apply State.writePart_keeps | intro _
      | fail_if_no_progress apply mk_keeps
    | (fail_if_no_progress extract_lets +onlyGivenNames z
       first
         | (with_reducible refine keeps_cut (p := Keeps s z) ?_ ?_
            on_goal 2 => (intro _; clear_value z)
            on_goal 1 => try dsimp -zeta only [z])
         | (with_reducible refine keeps_cut (p := Keeps s z.1) ?_ ?_
            on_goal 2 => (intro _)
            on_goal 1 => try dsimp -zeta only [z])
         | clear_value z | skip)
    | split

theorem State.filterAdd_keeps {s t : State} (h : Keeps s t) (line : Nat) : Keeps s (State.filterAdd t line) := by
  delta State.filterAdd
  repeat' first
    | with_reducible first
      | assumption | apply State.setf_keeps | apply State.setHost_keeps | apply State.recall_keeps | intro _
      | fail_if_no_progress apply mk_keeps
    | (fail_if_no_progress extract_lets +onlyGivenNames z
       first
         | (with_reducible refine keeps_cut (p := Keeps s z) ?_ ?_
            on_goal 2 => (intro _; clear_value z)
            on_goal 1 => try dsimp -zeta only [z])
         | clear_value z | skip)
    | split

theorem State.hubServe_keeps {s t : State} (h : Keeps s t) (r : HubReq) : Keeps s (State.hubServe t r) := by
  delta State.hubServe
  repeat' first
    | with_reducible first
      | assumption | apply State.readPart_keeps | apply State.recall_keeps | apply State.hostStore_keeps
      | apply State.filterAdd_keeps | apply State.emit_keeps | intro _
    | (fail_if_no_progress extract_lets +onlyGivenNames z
       first
         | (with_reducible refine keeps_cut (p := Keeps s z) ?_ ?_
            on_goal 2 => (intro _; clear_value z)
            on_goal 1 => try dsimp -zeta only [z])
         | (with_reducible refine keeps_cut (p := Keeps s z.1) ?_ ?_
            on_goal 2 => (intro _)
            on_goal 1 => try dsimp -zeta only [z])
         | clear_value z | skip)
    | split

theorem State.hubPump_keeps {s t : State} (h : Keeps s t) : Keeps s (State.hubPump t) := by
  delta State.hubPump
  repeat' first
    | with_reducible first
      | assumption | apply State.hubServe_keeps | apply foldl_keeps | intro _ | fail_if_no_progress apply mk_keeps
    | (fail_if_no_progress extract_lets +onlyGivenNames z
       first
         | (with_reducible refine keeps_cut (p := Keeps s z) ?_ ?_
            on_goal 2 => (intro _; clear_value z)
            on_goal 1 => try dsimp -zeta only [z])
         | clear_value z | skip)
    | split

theorem State.hubResume_keeps {s t : State} (h : Keeps s t) : Keeps s (State.hubResume t) := by
  delta State.hubResume
  repeat' first
    | with_reducible first
      | assumption | apply State.flushHub_keeps | apply State.hubPump_keeps | apply State.pumpMsgs_keeps

theorem State.evictTile_keeps {s t : State} (h : Keeps s t) (p n : Nat) : Keeps s (t.evictTile p n) := by
  have cut : ∀ u : State, Keeps s u → ∀ x, Keeps s (u.setHbm { u.hbm with returns := x }) := fun _ k _ =>
    State.setHbm_cells_keeps k rfl
  unfold State.evictTile
  split
  · exact h
  · exact State.setf_keeps (State.bump_keeps (State.setTag_keeps (cut _ (State.setPart_keeps (State.emits_keeps
      (State.checkWords_keeps (State.activateAll_keeps (State.recall_keeps h _) _) _ _ _) _) _ _) _) _ _) _ _ _) _ _ _

theorem execBringIn_keeps {s t : State} (h : Keeps s t) (p tile : Nat) (blob : List Byte) : KeepsOut s
    (execBringIn p tile blob t) := by
  delta execBringIn
  repeat' first
    | with_reducible first
      | assumption | apply KeepsOut.next | apply State.setf_keeps | apply State.bump_keeps
      | apply State.setPart_keeps | apply State.hubResume_keeps | apply State.evictTile_keeps
      | apply State.writePart_keeps | refine State.writePart_keeps_eq ?_ (by assumption)
      | apply State.swapAsk_keeps | apply State.emit_keeps | intro _ | fail_if_no_progress apply mk_keeps
    | (fail_if_no_progress extract_lets +onlyGivenNames z
       first
         | (with_reducible refine keeps_cut (p := Keeps s z) ?_ ?_
            on_goal 2 => (intro _; clear_value z)
            on_goal 1 => try dsimp -zeta only [z])
         | (with_reducible refine keeps_cut (p := Keeps s z.1) ?_ ?_
            on_goal 2 => (intro _)
            on_goal 1 => try dsimp -zeta only [z])
         | clear_value z | skip)
    | split

theorem State.endIde_keeps {s t : State} (h : Keeps s t) : Keeps s (State.endIde t) := by
  delta State.endIde
  repeat' first
    | with_reducible first
      | assumption | apply State.setf_keeps | apply State.setHost_keeps | fail_if_no_progress apply mk_keeps

theorem State.ledgerOff_keeps {s t : State} (h : Keeps s t) (p : Nat) : Keeps s (State.ledgerOff t p) := by
  delta State.ledgerOff
  repeat' first
    | with_reducible first
      | assumption | apply State.setPart_keeps

theorem State.flushMsix_keeps {s t : State} (h : Keeps s t) : Keeps s (State.flushMsix t) := by
  delta State.flushMsix
  repeat' first
    | with_reducible first
      | assumption | apply State.setHost_keeps | apply State.emits_keeps | intro _
      | fail_if_no_progress apply mk_keeps
    | (fail_if_no_progress extract_lets +onlyGivenNames z
       first
         | (with_reducible refine keeps_cut (p := Keeps s z) ?_ ?_
            on_goal 2 => (intro _; clear_value z)
            on_goal 1 => try dsimp -zeta only [z])
         | clear_value z | skip)
    | split

theorem State.writeCompletions_keeps {s t : State} (h : Keeps s t) : Keeps s (State.writeCompletions t) := by
  delta State.writeCompletions
  repeat' first
    | with_reducible first
      | assumption | apply State.setHost_keeps | apply State.emits_keeps | apply State.msix_keeps
      | apply foldl_keeps | apply foldl_fst_keeps | apply foldl_snd_keeps | intro _
      | fail_if_no_progress apply mk_keeps
    | (fail_if_no_progress extract_lets +onlyGivenNames z
       first
         | (with_reducible refine keeps_cut (p := Keeps s z) ?_ ?_
            on_goal 2 => (intro _; clear_value z)
            on_goal 1 => try dsimp -zeta only [z])
         | clear_value z | skip)
    | split

theorem State.flushLinkErr_keeps {s t : State} (h : Keeps s t) : Keeps s (State.flushLinkErr t) := by
  delta State.flushLinkErr
  repeat' first
    | with_reducible first
      | assumption | apply State.setHost_keeps | apply State.msix_keeps | apply foldl_keeps | intro _
      | fail_if_no_progress apply mk_keeps
    | (fail_if_no_progress extract_lets +onlyGivenNames z
       first
         | (with_reducible refine keeps_cut (p := Keeps s z) ?_ ?_
            on_goal 2 => (intro _; clear_value z)
            on_goal 1 => try dsimp -zeta only [z])
         | clear_value z | skip)
    | split

theorem State.flushHbm_keeps {s t : State} (h : Keeps s t) : Keeps s (State.flushHbm t) := by
  delta State.flushHbm
  repeat' first
    | with_reducible first
      | assumption | apply State.setHost_keeps | apply State.msix_keeps | apply foldl_keeps | apply foldl_fst_keeps
      | apply foldl_snd_keeps | intro _ | fail_if_no_progress apply mk_keeps
    | (fail_if_no_progress extract_lets +onlyGivenNames z
       first
         | (with_reducible refine keeps_cut (p := Keeps s z) ?_ ?_
            on_goal 2 => (intro _; clear_value z)
            on_goal 1 => try dsimp -zeta only [z])
         | clear_value z | skip)
    | split

theorem State.inL0_keeps {s t : State} (h : Keeps s t) : Keeps s (State.inL0 t) := by
  delta State.inL0
  repeat' first
    | with_reducible first
      | assumption | apply State.flushMsix_keeps | apply State.writeCompletions_keeps | apply State.setPart_keeps
      | apply State.flushLinkErr_keeps | apply State.wakeLedger_keeps | apply State.flushHbm_keeps
      | apply foldl_keeps | intro _
    | (fail_if_no_progress extract_lets +onlyGivenNames z
       first
         | (with_reducible refine keeps_cut (p := Keeps s z) ?_ ?_
            on_goal 2 => (intro _; clear_value z)
            on_goal 1 => try dsimp -zeta only [z])
         | clear_value z | skip)
    | split

theorem execLinkReturnsL0_keeps {s t : State} (h : Keeps s t) : KeepsOut s (execLinkReturnsL0 t) := by
  delta execLinkReturnsL0
  repeat' first
    | with_reducible first
      | assumption | apply KeepsOut.next | apply State.setf_keeps | apply State.inL0_keeps
    | split

theorem execD2dLinkTraining_keeps {s t : State} (h : Keeps s t) (die : Nat) (mod0 mod1 : Bool) (repaired : Nat) :
    KeepsOut s (execD2dLinkTraining die mod0 mod1 repaired t) := by
  delta execD2dLinkTraining
  repeat' first
    | with_reducible first
      | assumption | apply KeepsOut.next | apply State.setf_keeps | apply State.hubResume_keeps
    | (fail_if_no_progress extract_lets +onlyGivenNames z
       first
         | (with_reducible refine keeps_cut (p := Keeps s z) ?_ ?_
            on_goal 2 => (intro _; clear_value z)
            on_goal 1 => try dsimp -zeta only [z])
         | clear_value z | skip)
    | split

theorem execHostPortReset_keeps {s t : State} (h : Keeps s t) : KeepsOut s (execHostPortReset t) := by
  delta execHostPortReset
  repeat' first
    | with_reducible first
      | assumption | apply KeepsOut.next | apply State.setf_keeps | apply State.bump_keeps
      | apply State.ledgerOff_keeps | apply State.setHost_keeps | apply State.endIde_keeps
      | apply State.clearEnable_keeps | apply State.linkErr_keeps | apply foldl_keeps | intro _
      | fail_if_no_progress apply mk_keeps
    | (fail_if_no_progress extract_lets +onlyGivenNames z
       first
         | (with_reducible refine keeps_cut (p := Keeps s z) ?_ ?_
            on_goal 2 => (intro _; clear_value z)
            on_goal 1 => try dsimp -zeta only [z])
         | clear_value z | skip)
    | split

theorem execSnpinv_keeps {s t : State} (h : Keeps s t) (addr : Nat) : KeepsOut s (execSnpinv addr t) := by
  delta execSnpinv
  repeat' first
    | with_reducible first
      | assumption | apply KeepsOut.next | apply State.setPart_keeps | apply State.wakeLedger_keeps
      | apply State.emit_keeps
    | (fail_if_no_progress extract_lets +onlyGivenNames z
       first
         | (with_reducible refine keeps_cut (p := Keeps s z) ?_ ?_
            on_goal 2 => (intro _; clear_value z)
            on_goal 1 => try dsimp -zeta only [z])
         | clear_value z | skip)
    | split

theorem State.ledgerOn_keeps {s t : State} (h : Keeps s t) (p : Nat) : Keeps s (State.ledgerOn t p) := by
  delta State.ledgerOn
  repeat' first
    | with_reducible first
      | assumption | apply State.setf_keeps | apply State.setPart_keeps
    | (fail_if_no_progress extract_lets +onlyGivenNames z
       first
         | (with_reducible refine keeps_cut (p := Keeps s z) ?_ ?_
            on_goal 2 => (intro _; clear_value z)
            on_goal 1 => try dsimp -zeta only [z])
         | clear_value z | skip)

theorem State.hubAccess_keeps {s t : State} (h : Keeps s t) (r : HubReq) : Keeps s (State.hubAccess t r) := by
  delta State.hubAccess
  repeat' first
    | with_reducible first
      | assumption | apply State.hubServe_keeps | intro _ | fail_if_no_progress apply mk_keeps
    | split

theorem execTableAccess_keeps {s t : State} (h : Keeps s t) : KeepsOut s (execTableAccess t) := by
  delta execTableAccess
  repeat' first
    | with_reducible first
      | assumption | apply KeepsOut.next | apply State.emit_keeps
    | split

theorem execLedgerEntryFetch_keeps {s t : State} (h : Keeps s t) (p : Nat) (raw : Option (BitVec 2048)) :
    KeepsOut s (execLedgerEntryFetch p raw t) := by
  delta execLedgerEntryFetch
  repeat' first
    | with_reducible first
      | assumption | apply KeepsOut.next | apply State.setf_keeps | apply State.setPart_keeps
      | apply State.emits_keeps | apply State.emit_keeps | apply State.linkErr_keeps
      | fail_if_no_progress apply mk_keeps
    | (fail_if_no_progress extract_lets +onlyGivenNames z
       first
         | (with_reducible refine keeps_cut (p := Keeps s z) ?_ ?_
            on_goal 2 => (intro _; clear_value z)
            on_goal 1 => try dsimp -zeta only [z])
         | clear_value z | skip)
    | split

theorem execHostLinkTrained_keeps {s t : State} (h : Keeps s t) (width speed : Nat) (flit256 lopt : Bool) (cfg :
    HostConfig) : KeepsOut s (execHostLinkTrained width speed flit256 lopt cfg t) := by
  delta execHostLinkTrained
  repeat' first
    | with_reducible first
      | assumption | apply KeepsOut.next | apply State.setf_keeps | apply State.setHost_keeps
      | apply State.endIde_keeps | apply State.inL0_keeps | apply State.linkErr_keeps
      | fail_if_no_progress apply mk_keeps
    | (fail_if_no_progress extract_lets +onlyGivenNames z
       first
         | (with_reducible refine keeps_cut (p := Keeps s z) ?_ ?_
            on_goal 2 => (intro _; clear_value z)
            on_goal 1 => try dsimp -zeta only [z])
         | clear_value z | skip)
    | split

theorem State.hdmMiss_keeps {s t : State} (h : Keeps s t) : Keeps s (State.hdmMiss t) := by
  delta State.hdmMiss
  repeat' first
    | with_reducible first
      | assumption | apply State.bump_keeps

theorem execHostMemRead_keeps {s t : State} (h : Keeps s t) (off : Nat) (cacheable : Bool) : KeepsOut s
    (execHostMemRead off cacheable t) := by
  delta execHostMemRead
  repeat' first
    | with_reducible first
      | assumption | apply KeepsOut.next | apply State.hdmMiss_keeps | apply State.hubAccess_keeps
      | apply State.emit_keeps
    | split

theorem execHostMemWrite_keeps {s t : State} (h : Keeps s t) (off : Nat) (data : Line) : KeepsOut s
    (execHostMemWrite off data t) := by
  delta execHostMemWrite
  repeat' first
    | with_reducible first
      | assumption | apply KeepsOut.next | apply State.hdmMiss_keeps | apply State.hubAccess_keeps
      | apply State.emit_keeps
    | split

theorem execD2dRetrainDone_keeps {s t : State} (h : Keeps s t) (die : Nat) (mod0 mod1 : Bool) (repaired : Nat) :
    KeepsOut s (execD2dRetrainDone die mod0 mod1 repaired t) := by
  delta execD2dRetrainDone
  repeat' first
    | with_reducible first
      | assumption | apply KeepsOut.next | apply State.setf_keeps | apply State.bump_keeps
      | apply State.hubResume_keeps
    | (fail_if_no_progress extract_lets +onlyGivenNames z
       first
         | (with_reducible refine keeps_cut (p := Keeps s z) ?_ ?_
            on_goal 2 => (intro _; clear_value z)
            on_goal 1 => try dsimp -zeta only [z])
         | clear_value z | skip)
    | split

theorem execTailLineRead_keeps {s t : State} (h : Keeps s t) (p tail : Nat) : KeepsOut s (execTailLineRead p tail t) := by
  delta execTailLineRead
  repeat' first
    | with_reducible first
      | assumption | apply KeepsOut.next | apply State.setPart_keeps | apply State.emit_keeps
      | fail_if_no_progress apply mk_keeps
    | (fail_if_no_progress extract_lets +onlyGivenNames z
       first
         | (with_reducible refine keeps_cut (p := Keeps s z) ?_ ?_
            on_goal 2 => (intro _; clear_value z)
            on_goal 1 => try dsimp -zeta only [z])
         | clear_value z | skip)
    | split

theorem execIdeKm_keeps {s t : State} (h : Keeps s t) (session stream : Nat) (key : List Byte) (go : Bool) :
    KeepsOut s (execIdeKm session stream key go t) := by
  delta execIdeKm
  repeat' first
    | with_reducible first
      | assumption | apply KeepsOut.next | apply State.setf_keeps | apply State.setHost_keeps
      | apply State.emit_keeps | intro _ | fail_if_no_progress apply mk_keeps
    | (fail_if_no_progress extract_lets +onlyGivenNames z
       first
         | (with_reducible refine keeps_cut (p := Keeps s z) ?_ ?_
            on_goal 2 => (intro _; clear_value z)
            on_goal 1 => try dsimp -zeta only [z])
         | clear_value z | skip)
    | split

theorem execSnpdata_keeps {s t : State} (h : Keeps s t) (addr : Nat) : KeepsOut s (execSnpdata addr t) := by
  delta execSnpdata
  repeat' first
    | with_reducible first
      | assumption | apply KeepsOut.next | apply State.keepSnoop_keeps

theorem execDoeDiscovery_keeps {s t : State} (h : Keeps s t) (index : Nat) : KeepsOut s (execDoeDiscovery index t) := by
  delta execDoeDiscovery
  repeat' first
    | with_reducible first
      | assumption | apply KeepsOut.next | apply State.emit_keeps
    | (fail_if_no_progress extract_lets +onlyGivenNames z
       first
         | (with_reducible refine keeps_cut (p := Keeps s z) ?_ ?_
            on_goal 2 => (intro _; clear_value z)
            on_goal 1 => try dsimp -zeta only [z])
         | clear_value z | skip)
    | split

theorem execLinkLeavesL0_keeps {s t : State} (h : Keeps s t) : KeepsOut s (execLinkLeavesL0 t) := by
  delta execLinkLeavesL0
  repeat' first
    | with_reducible first
      | assumption | apply KeepsOut.next | apply State.linkDown_keeps
    | split

theorem State.replay_keeps {s t : State} (h : Keeps s t) (q : Nat) : Keeps s (State.replay t q) := by
  delta State.replay
  repeat' first
    | with_reducible first
      | assumption | apply State.bump_keeps | apply State.setPort_keeps | apply State.emits_keeps | intro _
      | fail_if_no_progress apply mk_keeps
    | (fail_if_no_progress extract_lets +onlyGivenNames z
       first
         | (with_reducible refine keeps_cut (p := Keeps s z) ?_ ?_
            on_goal 2 => (intro _; clear_value z)
            on_goal 1 => try dsimp -zeta only [z])
         | clear_value z | skip)
    | split

theorem State.enterPort_keeps {s t : State} (h : Keeps s t) (q st : Nat) : Keeps s (State.enterPort t q st) := by
  delta State.enterPort
  repeat' first
    | with_reducible first
      | assumption | apply State.setf_keeps | apply State.bump_keeps | apply State.setPort_keeps
      | apply State.alert_keeps | apply State.bbWrite_keeps | fail_if_no_progress apply mk_keeps
    | (fail_if_no_progress extract_lets +onlyGivenNames z
       first
         | (with_reducible refine keeps_cut (p := Keeps s z) ?_ ?_
            on_goal 2 => (intro _; clear_value z)
            on_goal 1 => try dsimp -zeta only [z])
         | clear_value z | skip)
    | split

theorem State.losePort_keeps {s t : State} (h : Keeps s t) (q : Nat) : Keeps s (State.losePort t q) := by
  delta State.losePort
  repeat' first
    | with_reducible first
      | assumption | apply State.setPort_keeps | apply State.linkLost_keeps | apply foldl_keeps | intro _
      | fail_if_no_progress apply mk_keeps
    | (fail_if_no_progress extract_lets +onlyGivenNames z
       first
         | (with_reducible refine keeps_cut (p := Keeps s z) ?_ ?_
            on_goal 2 => (intro _; clear_value z)
            on_goal 1 => try dsimp -zeta only [z])
         | clear_value z | skip)
    | split

theorem State.goDark_keeps {s t : State} (h : Keeps s t) (q : Nat) : Keeps s (State.goDark t q) := by
  delta State.goDark
  repeat' first
    | with_reducible first
      | assumption | apply State.enterPort_keeps | apply State.losePort_keeps
    | split

theorem State.train_keeps {s t : State} (h : Keeps s t) (q : Nat) : Keeps s (State.train t q) := by
  delta State.train
  repeat' first
    | with_reducible first
      | assumption | apply State.enterPort_keeps | apply State.bump_keeps | apply State.goDark_keeps
      | apply State.emit_keeps

theorem State.forgetSends_keeps {s t : State} (h : Keeps s t) (q : Nat) : Keeps s (State.forgetSends t q) := by
  delta State.forgetSends
  repeat' first
    | with_reducible first
      | assumption | apply State.setPort_keeps | intro _ | fail_if_no_progress apply mk_keeps
    | (fail_if_no_progress extract_lets +onlyGivenNames z
       first
         | (with_reducible refine keeps_cut (p := Keeps s z) ?_ ?_
            on_goal 2 => (intro _; clear_value z)
            on_goal 1 => try dsimp -zeta only [z])
         | clear_value z | skip)
    | split

theorem State.takeAck_keeps {s t : State} (h : Keeps s t) (q hdr : Nat) : Keeps s (State.takeAck t q hdr) := by
  delta State.takeAck
  repeat' first
    | with_reducible first
      | assumption | apply State.setPort_keeps | apply State.pump_keeps | apply State.replay_keeps
      | apply State.train_keeps | apply State.goDark_keeps | apply State.forgetSends_keeps | intro _
      | fail_if_no_progress apply mk_keeps
    | (fail_if_no_progress extract_lets +onlyGivenNames z
       first
         | (with_reducible refine keeps_cut (p := Keeps s z) ?_ ?_
            on_goal 2 => (intro _; clear_value z)
            on_goal 1 => try dsimp -zeta only [z])
         | clear_value z | skip)
    | split

theorem State.countFec_keeps {s t : State} (h : Keeps s t) (q : Nat) (cws : List Nat) : Keeps s (State.countFec t
    q cws) := by
  delta State.countFec
  repeat' first
    | with_reducible first
      | assumption | apply State.bump_keeps | apply foldl_keeps | intro _
    | (fail_if_no_progress extract_lets +onlyGivenNames z
       first
         | (with_reducible refine keeps_cut (p := Keeps s z) ?_ ?_
            on_goal 2 => (intro _; clear_value z)
            on_goal 1 => try dsimp -zeta only [z])
         | clear_value z | skip)
    | split

theorem execFlitReceive_keeps {s t : State} (h : Keeps s t) (port : Nat) (flit : List Byte) (cws : List Nat) :
    KeepsOut s (execFlitReceive port flit cws t) := by
  delta execFlitReceive
  repeat' first
    | with_reducible first
      | assumption | apply KeepsOut.next | apply State.bump_keeps | apply State.takeAck_keeps
      | apply State.setPort_keeps | apply State.countFec_keeps | apply State.sendIdle_keeps
      | fail_if_no_progress apply mk_keeps
    | (fail_if_no_progress extract_lets +onlyGivenNames z
       first
         | (with_reducible refine keeps_cut (p := Keeps s z) ?_ ?_
            on_goal 2 => (intro _; clear_value z)
            on_goal 1 => try dsimp -zeta only [z])
         | clear_value z | skip)
    | split

theorem State.laneFails_keeps {s t : State} (h : Keeps s t) (port wave l : Nat) (audit : Option (Nat × Nat)) :
    Keeps s (State.laneFails t port wave l audit) := by
  delta State.laneFails
  repeat' first
    | with_reducible first
      | assumption | apply State.setf_keeps | apply State.train_keeps | apply State.setv_keeps
    | (fail_if_no_progress extract_lets +onlyGivenNames z
       first
         | (with_reducible refine keeps_cut (p := Keeps s z) ?_ ?_
            on_goal 2 => (intro _; clear_value z)
            on_goal 1 => try dsimp -zeta only [z])
         | clear_value z | skip)
    | split

theorem execSwitchOut_keeps {s t : State} (h : Keeps s t) (port wave : Nat) : KeepsOut s (execSwitchOut port wave t) := by
  delta execSwitchOut
  repeat' first
    | with_reducible first
      | assumption | apply KeepsOut.next | apply State.setf_keeps | apply State.setPort_keeps
      | apply State.consume_keeps | apply State.setv_keeps | fail_if_no_progress apply mk_keeps
    | (fail_if_no_progress extract_lets +onlyGivenNames z
       first
         | (with_reducible refine keeps_cut (p := Keeps s z) ?_ ?_
            on_goal 2 => (intro _; clear_value z)
            on_goal 1 => try dsimp -zeta only [z])
         | clear_value z | skip)
    | split

theorem State.testTick_keeps {s t : State} (h : Keeps s t) (q : Nat) : Keeps s (State.testTick t q) := by
  delta State.testTick
  repeat' first
    | with_reducible first
      | assumption | apply State.bump_keeps | apply State.fresh_keeps | apply foldl_keeps | intro _
    | split

theorem execAckTimer_keeps {s t : State} (h : Keeps s t) (port : Nat) : KeepsOut s (execAckTimer port t) := by
  delta execAckTimer
  repeat' first
    | with_reducible first
      | assumption | apply KeepsOut.next | apply State.sendIdle_keeps
    | split

theorem execMessageForward_keeps {s t : State} (h : Keeps s t) (port typ : Nat) (x2 : Hdr) (body : List Byte) :
    KeepsOut s (execMessageForward port typ x2 body t) := by
  delta execMessageForward
  repeat' first
    | with_reducible first
      | assumption | apply KeepsOut.next | apply State.bump_keeps | apply State.consume_keeps
      | apply State.sendOn_keeps | apply State.discardMsg_keeps
    | (fail_if_no_progress extract_lets +onlyGivenNames z
       first
         | (with_reducible refine keeps_cut (p := Keeps s z) ?_ ?_
            on_goal 2 => (intro _; clear_value z)
            on_goal 1 => try dsimp -zeta only [z])
         | clear_value z | skip)
    | split

theorem execRingsLocked_keeps {s t : State} (h : Keeps s t) (port : Nat) : KeepsOut s (execRingsLocked port t) := by
  delta execRingsLocked
  repeat' first
    | with_reducible first
      | assumption | apply KeepsOut.next | apply State.train_keeps
    | split

theorem execLaserInputRestored_keeps {s t : State} (h : Keeps s t) (engine : Nat) (inputB : Bool) : KeepsOut s
    (execLaserInputRestored engine inputB t) := by
  delta execLaserInputRestored
  repeat' first
    | with_reducible first
      | assumption | apply KeepsOut.next | apply State.setf_keeps
    | split

theorem State.sendLink_keeps {s t : State} (h : Keeps s t) (q typ : Nat) (body : List Byte) : Keeps s
    (State.sendLink t q typ body) := by
  delta State.sendLink
  repeat' first
    | with_reducible first
      | assumption | apply State.sendOn_keeps

theorem execLinkId_keeps {s t : State} (h : Keeps s t) (port : Nat) (body : List Byte) : KeepsOut s (execLinkId
    port body t) := by
  delta execLinkId
  repeat' first
    | with_reducible first
      | assumption | apply KeepsOut.next | apply State.countRx_keeps | apply State.setPort_keeps
      | apply State.consume_keeps | apply State.setv_keeps
    | (fail_if_no_progress extract_lets +onlyGivenNames z
       first
         | (with_reducible refine keeps_cut (p := Keeps s z) ?_ ?_
            on_goal 2 => (intro _; clear_value z)
            on_goal 1 => try dsimp -zeta only [z])
         | clear_value z | skip)
    | split

theorem execLossOfSignal_keeps {s t : State} (h : Keeps s t) (port : Nat) : KeepsOut s (execLossOfSignal port t) := by
  delta execLossOfSignal
  repeat' first
    | with_reducible first
      | assumption | apply KeepsOut.next | apply State.train_keeps
    | split

theorem execSwitchBack_keeps {s t : State} (h : Keeps s t) (port wave : Nat) : KeepsOut s (execSwitchBack port
    wave t) := by
  delta execSwitchBack
  repeat' first
    | with_reducible first
      | assumption | apply KeepsOut.next | apply State.setf_keeps | apply State.setPort_keeps
      | apply State.consume_keeps | apply State.sendLink_keeps | apply State.setv_keeps
      | fail_if_no_progress apply mk_keeps
    | (fail_if_no_progress extract_lets +onlyGivenNames z
       first
         | (with_reducible refine keeps_cut (p := Keeps s z) ?_ ?_
            on_goal 2 => (intro _; clear_value z)
            on_goal 1 => try dsimp -zeta only [z])
         | clear_value z | skip)
    | split

theorem execAuditDwellEnd_keeps {s t : State} (h : Keeps s t) (port bits errs : Nat) : KeepsOut s
    (execAuditDwellEnd port bits errs t) := by
  delta execAuditDwellEnd
  repeat' first
    | with_reducible first
      | assumption | apply KeepsOut.next | apply State.bump_keeps | apply State.sendLink_keeps
    | (fail_if_no_progress extract_lets +onlyGivenNames z
       first
         | (with_reducible refine keeps_cut (p := Keeps s z) ?_ ?_
            on_goal 2 => (intro _; clear_value z)
            on_goal 1 => try dsimp -zeta only [z])
         | clear_value z | skip)
    | split

theorem execAuditPeriod_keeps {s t : State} (h : Keeps s t) (port : Nat) : KeepsOut s (execAuditPeriod port t) := by
  delta execAuditPeriod
  repeat' first
    | with_reducible first
      | assumption | apply KeepsOut.next | apply State.setPort_keeps | apply State.sendLink_keeps | intro _
      | fail_if_no_progress apply mk_keeps
    | (fail_if_no_progress extract_lets +onlyGivenNames z
       first
         | (with_reducible refine keeps_cut (p := Keeps s z) ?_ ?_
            on_goal 2 => (intro _; clear_value z)
            on_goal 1 => try dsimp -zeta only [z])
         | clear_value z | skip)
    | split

theorem execTestEnd_keeps {s t : State} (h : Keeps s t) (port wave result : Nat) : KeepsOut s (execTestEnd port
    wave result t) := by
  delta execTestEnd
  repeat' first
    | with_reducible first
      | assumption | apply KeepsOut.next | apply State.setf_keeps | apply State.setPort_keeps
      | apply State.alert_keeps | apply State.bbWrite_keeps | apply State.consume_keeps
      | apply State.sendLink_keeps | apply State.setv_keeps | fail_if_no_progress apply mk_keeps
    | (fail_if_no_progress extract_lets +onlyGivenNames z
       first
         | (with_reducible refine keeps_cut (p := Keeps s z) ?_ ?_
            on_goal 2 => (intro _; clear_value z)
            on_goal 1 => try dsimp -zeta only [z])
         | clear_value z | skip)
    | split

theorem execPortDownRetry_keeps {s t : State} (h : Keeps s t) (port : Nat) : KeepsOut s (execPortDownRetry port t) := by
  delta execPortDownRetry
  repeat' first
    | with_reducible first
      | assumption | apply KeepsOut.next | apply State.train_keeps
    | split

theorem execPortTrained_keeps {s t : State} (h : Keeps s t) (port healthy : Nat) : KeepsOut s (execPortTrained
    port healthy t) := by
  delta execPortTrained
  repeat' first
    | with_reducible first
      | assumption | apply KeepsOut.next | apply State.setf_keeps | apply State.enterPort_keeps
      | apply State.pump_keeps | apply State.replay_keeps | apply State.setv_keeps | intro _
    | (fail_if_no_progress extract_lets +onlyGivenNames z
       first
         | (with_reducible refine keeps_cut (p := Keeps s z) ?_ ?_
            on_goal 2 => (intro _; clear_value z)
            on_goal 1 => try dsimp -zeta only [z])
         | clear_value z | skip)
    | split

theorem execReplayTimeout_keeps {s t : State} (h : Keeps s t) (port : Nat) : KeepsOut s (execReplayTimeout port t) := by
  delta execReplayTimeout
  repeat' first
    | with_reducible first
      | assumption | apply KeepsOut.next | apply State.train_keeps
    | split

theorem execAuditStart_keeps {s t : State} (h : Keeps s t) (port wave : Nat) : KeepsOut s (execAuditStart port
    wave t) := by
  delta execAuditStart
  repeat' first
    | with_reducible first
      | assumption | apply KeepsOut.next | apply State.setPort_keeps | apply State.consume_keeps
      | apply State.sendLink_keeps
    | (fail_if_no_progress extract_lets +onlyGivenNames z
       first
         | (with_reducible refine keeps_cut (p := Keeps s z) ?_ ?_
            on_goal 2 => (intro _; clear_value z)
            on_goal 1 => try dsimp -zeta only [z])
         | clear_value z | skip)
    | split

theorem execWavelengthFail_keeps {s t : State} (h : Keeps s t) (port wave : Nat) : KeepsOut s (execWavelengthFail
    port wave t) := by
  delta execWavelengthFail
  repeat' first
    | with_reducible first
      | assumption | apply KeepsOut.next | apply State.setPort_keeps | apply State.laneFails_keeps
      | apply State.setv_keeps
    | (fail_if_no_progress extract_lets +onlyGivenNames z
       first
         | (with_reducible refine keeps_cut (p := Keeps s z) ?_ ?_
            on_goal 2 => (intro _; clear_value z)
            on_goal 1 => try dsimp -zeta only [z])
         | clear_value z | skip)
    | split

theorem execPortTrainTimeout_keeps {s t : State} (h : Keeps s t) (port : Nat) : KeepsOut s (execPortTrainTimeout
    port t) := by
  delta execPortTrainTimeout
  repeat' first
    | with_reducible first
      | assumption | apply KeepsOut.next | apply State.enterPort_keeps | apply State.losePort_keeps
    | split

theorem State.applyPortCtl_keeps {s t : State} (h : Keeps s t) (q : Nat) : Keeps s (State.applyPortCtl t q) := by
  delta State.applyPortCtl
  repeat' first
    | with_reducible first
      | assumption | apply State.enterPort_keeps | apply State.setPort_keeps | apply State.train_keeps
      | apply State.goDark_keeps
    | (fail_if_no_progress extract_lets +onlyGivenNames z
       first
         | (with_reducible refine keeps_cut (p := Keeps s z) ?_ ?_
            on_goal 2 => (intro _; clear_value z)
            on_goal 1 => try dsimp -zeta only [z])
         | clear_value z | skip)
    | split

theorem execLaserInputLost_keeps {s t : State} (h : Keeps s t) (engine : Nat) (inputB : Bool) : KeepsOut s
    (execLaserInputLost engine inputB t) := by
  delta execLaserInputLost
  repeat' first
    | with_reducible first
      | assumption | apply KeepsOut.next | apply State.setf_keeps | apply State.enterPort_keeps
      | apply State.bbWrite_keeps | apply State.losePort_keeps | apply foldl_keeps | intro _
    | (fail_if_no_progress extract_lets +onlyGivenNames z
       first
         | (with_reducible refine keeps_cut (p := Keeps s z) ?_ ?_
            on_goal 2 => (intro _; clear_value z)
            on_goal 1 => try dsimp -zeta only [z])
         | clear_value z | skip)
    | split

theorem State.setSupply_keeps {s t : State} (h : Keeps s t) (d code : Nat) : Keeps s (State.setSupply t d code) := by
  delta State.setSupply
  repeat' first
    | with_reducible first
      | assumption | apply State.setv_keeps
    | split

theorem State.setSupplies_keeps {s t : State} (h : Keeps s t) (code : Nat) : Keeps s (State.setSupplies t code) := by
  delta State.setSupplies
  repeat' first
    | with_reducible first
      | assumption | apply State.setSupply_keeps | apply foldl_keeps | intro _
    | split

theorem State.endZeroRate_keeps {s t : State} (h : Keeps s t) : Keeps s (State.endZeroRate t) := by
  delta State.endZeroRate
  repeat' first
    | with_reducible first
      | assumption | apply State.setPart_keeps | apply State.setPower_keeps | apply foldl_keeps | intro _
      | fail_if_no_progress apply mk_keeps
    | split

theorem State.powerRecord_keeps {s t : State} (h : Keeps s t) (old new cls : Nat) : Keeps s (State.powerRecord t
    old new cls) := by
  delta State.powerRecord
  repeat' first
    | with_reducible first
      | assumption | apply State.bbWrite_keeps | apply foldl_keeps | intro _

theorem State.enterPower_keeps {s t : State} (h : Keeps s t) (st cls : Nat) : Keeps s (State.enterPower t st cls) := by
  delta State.enterPower
  repeat' first
    | with_reducible first
      | assumption | apply State.setf_keeps | apply State.platformEvent_keeps | apply State.powerRecord_keeps
    | (fail_if_no_progress extract_lets +onlyGivenNames z
       first
         | (with_reducible refine keeps_cut (p := Keeps s z) ?_ ?_
            on_goal 2 => (intro _; clear_value z)
            on_goal 1 => try dsimp -zeta only [z])
         | clear_value z | skip)

theorem State.clearBrake_keeps {s t : State} (h : Keeps s t) (cause : Nat) : Keeps s (State.clearBrake t cause) := by
  delta State.clearBrake
  repeat' first
    | with_reducible first
      | assumption | apply State.setf_keeps | apply State.endZeroRate_keeps | apply State.enterPower_keeps
    | (fail_if_no_progress extract_lets +onlyGivenNames z
       first
         | (with_reducible refine keeps_cut (p := Keeps s z) ?_ ?_
            on_goal 2 => (intro _; clear_value z)
            on_goal 1 => try dsimp -zeta only [z])
         | clear_value z | skip)
    | split

theorem State.setLimit_keeps {s t : State} (h : Keeps s t) (l : Nat) : Keeps s (State.setLimit t l) := by
  delta State.setLimit
  repeat' first
    | with_reducible first
      | assumption | apply State.setf_keeps | apply State.setPower_keeps | fail_if_no_progress apply mk_keeps

theorem State.brake_keeps {s t : State} (h : Keeps s t) : Keeps s (State.brake t) := by
  delta State.brake
  repeat' first
    | with_reducible first
      | assumption | apply State.setf_keeps | apply State.setLimit_keeps | apply State.setSupplies_keeps
      | apply State.setPower_keeps | fail_if_no_progress apply mk_keeps
    | (fail_if_no_progress extract_lets +onlyGivenNames z
       first
         | (with_reducible refine keeps_cut (p := Keeps s z) ?_ ?_
            on_goal 2 => (intro _; clear_value z)
            on_goal 1 => try dsimp -zeta only [z])
         | clear_value z | skip)
    | split

theorem State.unpark_keeps {s t : State} (h : Keeps s t) : Keeps s (State.unpark t) := by
  delta State.unpark
  repeat' first
    | with_reducible first
      | assumption | apply State.enterPort_keeps | apply State.setSupplies_keeps | apply State.setPower_keeps
      | apply foldl_keeps | intro _ | fail_if_no_progress apply mk_keeps
    | (fail_if_no_progress extract_lets +onlyGivenNames z
       first
         | (with_reducible refine keeps_cut (p := Keeps s z) ?_ ?_
            on_goal 2 => (intro _; clear_value z)
            on_goal 1 => try dsimp -zeta only [z])
         | clear_value z | skip)
    | split

theorem State.clearPark_keeps {s t : State} (h : Keeps s t) (cause : Nat) : Keeps s (State.clearPark t cause) := by
  delta State.clearPark
  repeat' first
    | with_reducible first
      | assumption | apply State.setf_keeps | apply State.bump_keeps | apply State.enterPower_keeps
      | apply State.brake_keeps | apply State.unpark_keeps
    | (fail_if_no_progress extract_lets +onlyGivenNames z
       first
         | (with_reducible refine keeps_cut (p := Keeps s z) ?_ ?_
            on_goal 2 => (intro _; clear_value z)
            on_goal 1 => try dsimp -zeta only [z])
         | clear_value z | skip)
    | split

theorem execFlowOkNRestored_keeps {s t : State} (h : Keeps s t) : KeepsOut s (execFlowOkNRestored t) := by
  delta execFlowOkNRestored
  repeat' first
    | with_reducible first
      | assumption | apply KeepsOut.next | apply State.clearBrake_keeps | apply State.clearPark_keeps

theorem execHotClear_keeps {s t : State} (h : Keeps s t) : KeepsOut s (execHotClear t) := by
  delta execHotClear
  repeat' first
    | with_reducible first
      | assumption | apply KeepsOut.next | apply State.clearBrake_keeps

theorem execPwrBrakeNRelease_keeps {s t : State} (h : Keeps s t) : KeepsOut s (execPwrBrakeNRelease t) := by
  delta execPwrBrakeNRelease
  repeat' first
    | with_reducible first
      | assumption | apply KeepsOut.next | apply State.clearBrake_keeps

theorem State.park_keeps {s t : State} (h : Keeps s t) : Keeps s (State.park t) := by
  delta State.park
  repeat' first
    | with_reducible first
      | assumption | apply State.enterPort_keeps | apply State.losePort_keeps | apply State.abortSteps_keeps
      | apply State.setSupplies_keeps | apply State.setPower_keeps | apply foldl_keeps | intro _
      | fail_if_no_progress apply mk_keeps
    | (fail_if_no_progress extract_lets +onlyGivenNames z
       first
         | (with_reducible refine keeps_cut (p := Keeps s z) ?_ ?_
            on_goal 2 => (intro _; clear_value z)
            on_goal 1 => try dsimp -zeta only [z])
         | clear_value z | skip)
    | split

theorem State.raisePark_keeps {s t : State} (h : Keeps s t) (cause : Nat) : Keeps s (State.raisePark t cause) := by
  delta State.raisePark
  repeat' first
    | with_reducible first
      | assumption | apply State.setf_keeps | apply State.bump_keeps | apply State.enterPower_keeps
      | apply State.powerEvent_keeps | apply State.park_keeps
    | (fail_if_no_progress extract_lets +onlyGivenNames z
       first
         | (with_reducible refine keeps_cut (p := Keeps s z) ?_ ?_
            on_goal 2 => (intro _; clear_value z)
            on_goal 1 => try dsimp -zeta only [z])
         | clear_value z | skip)
    | split

theorem execFlowJunctionSample_keeps {s t : State} (h : Keeps s t) (temps : List Nat) : KeepsOut s
    (execFlowJunctionSample temps t) := by
  delta execFlowJunctionSample
  repeat' first
    | with_reducible first
      | assumption | apply KeepsOut.next | apply State.raisePark_keeps | apply State.setPower_keeps | intro _
      | fail_if_no_progress apply mk_keeps
    | (fail_if_no_progress extract_lets +onlyGivenNames z
       first
         | (with_reducible refine keeps_cut (p := Keeps s z) ?_ ?_
            on_goal 2 => (intro _; clear_value z)
            on_goal 1 => try dsimp -zeta only [z])
         | clear_value z | skip)
    | split

theorem execCapdropClear_keeps {s t : State} (h : Keeps s t) : KeepsOut s (execCapdropClear t) := by
  delta execCapdropClear
  repeat' first
    | with_reducible first
      | assumption | apply KeepsOut.next | apply State.clearBrake_keeps

theorem State.nextSupplies_keeps {s t : State} (h : Keeps s t) (aim : Nat) : Keeps s (State.nextSupplies t aim) := by
  delta State.nextSupplies
  repeat' first
    | with_reducible first
      | assumption | apply State.setPower_keeps | apply State.setSupply_keeps | apply foldl_keeps | intro _
      | fail_if_no_progress apply mk_keeps
    | (fail_if_no_progress extract_lets +onlyGivenNames z
       first
         | (with_reducible refine keeps_cut (p := Keeps s z) ?_ ?_
            on_goal 2 => (intro _; clear_value z)
            on_goal 1 => try dsimp -zeta only [z])
         | clear_value z | skip)
    | split

theorem State.raiseBrake_keeps {s t : State} (h : Keeps s t) (cause : Nat) (event : Fld) : Keeps s
    (State.raiseBrake t cause event) := by
  delta State.raiseBrake
  repeat' first
    | with_reducible first
      | assumption | apply State.setf_keeps | apply State.bump_keeps | apply State.enterPower_keeps
      | apply State.brake_keeps | apply State.powerEvent_keeps
    | (fail_if_no_progress extract_lets +onlyGivenNames z
       first
         | (with_reducible refine keeps_cut (p := Keeps s z) ?_ ?_
            on_goal 2 => (intro _; clear_value z)
            on_goal 1 => try dsimp -zeta only [z])
         | clear_value z | skip)
    | split

theorem execHot_keeps {s t : State} (h : Keeps s t) : KeepsOut s (execHot t) := by
  delta execHot
  repeat' first
    | with_reducible first
      | assumption | apply KeepsOut.next | apply State.raiseBrake_keeps

theorem execUndervoltClear_keeps {s t : State} (h : Keeps s t) : KeepsOut s (execUndervoltClear t) := by
  delta execUndervoltClear
  repeat' first
    | with_reducible first
      | assumption | apply KeepsOut.next | apply State.clearBrake_keeps

theorem State.checkParkCap_keeps {s t : State} (h : Keeps s t) : Keeps s (State.checkParkCap t) := by
  delta State.checkParkCap
  repeat' first
    | with_reducible first
      | assumption | apply State.raisePark_keeps | apply State.clearPark_keeps
    | (fail_if_no_progress extract_lets +onlyGivenNames z
       first
         | (with_reducible refine keeps_cut (p := Keeps s z) ?_ ?_
            on_goal 2 => (intro _; clear_value z)
            on_goal 1 => try dsimp -zeta only [z])
         | clear_value z | skip)
    | split

theorem State.applyCap_keeps {s t : State} (h : Keeps s t) : Keeps s (State.applyCap t) := by
  delta State.applyCap
  repeat' first
    | with_reducible first
      | assumption | apply State.raiseBrake_keeps | apply State.setPower_keeps | fail_if_no_progress apply mk_keeps
    | (fail_if_no_progress extract_lets +onlyGivenNames z
       first
         | (with_reducible refine keeps_cut (p := Keeps s z) ?_ ?_
            on_goal 2 => (intro _; clear_value z)
            on_goal 1 => try dsimp -zeta only [z])
         | clear_value z | skip)
    | split

theorem execPwrBrakeNAssert_keeps {s t : State} (h : Keeps s t) : KeepsOut s (execPwrBrakeNAssert t) := by
  delta execPwrBrakeNAssert
  repeat' first
    | with_reducible first
      | assumption | apply KeepsOut.next | apply State.raiseBrake_keeps

theorem State.stackTemps_keeps {s t : State} (h : Keeps s t) (l : List Nat) : Keeps s (State.stackTemps t l) := by
  delta State.stackTemps
  repeat' first
    | with_reducible first
      | assumption | apply State.setf_keeps | apply foldl_keeps | intro _
    | split

theorem State.stepLimit_keeps {s t : State} (h : Keeps s t) : Keeps s (State.stepLimit t) := by
  delta State.stepLimit
  repeat' first
    | with_reducible first
      | assumption | apply State.setf_keeps | apply State.setLimit_keeps | apply State.setPower_keeps
      | fail_if_no_progress apply mk_keeps
    | (fail_if_no_progress extract_lets +onlyGivenNames z
       first
         | (with_reducible refine keeps_cut (p := Keeps s z) ?_ ?_
            on_goal 2 => (intro _; clear_value z)
            on_goal 1 => try dsimp -zeta only [z])
         | clear_value z | skip)
    | split

theorem execFlowOkNRelease_keeps {s t : State} (h : Keeps s t) : KeepsOut s (execFlowOkNRelease t) := by
  delta execFlowOkNRelease
  repeat' first
    | with_reducible first
      | assumption | apply KeepsOut.next | apply State.raiseBrake_keeps | apply State.setPower_keeps
      | fail_if_no_progress apply mk_keeps

theorem State.measure_keeps {s t : State} (h : Keeps s t) (m : PowerSample) : Keeps s (State.measure t m) := by
  delta State.measure
  repeat' first
    | with_reducible first
      | assumption | apply State.stackTemps_keeps | apply State.setPower_keeps | apply State.setv_keeps
      | apply foldl_keeps | intro _ | fail_if_no_progress apply mk_keeps
    | (fail_if_no_progress extract_lets +onlyGivenNames z
       first
         | (with_reducible refine keeps_cut (p := Keeps s z) ?_ ?_
            on_goal 2 => (intro _; clear_value z)
            on_goal 1 => try dsimp -zeta only [z])
         | clear_value z | skip)
    | split

theorem State.refill_keeps {s t : State} (h : Keeps s t) (n : Nat) : Keeps s (State.refill t n) := by
  delta State.refill
  repeat' first
    | with_reducible first
      | assumption | apply State.setPart_keeps | apply foldl_keeps | intro _ | fail_if_no_progress apply mk_keeps
    | (fail_if_no_progress extract_lets +onlyGivenNames z
       first
         | (with_reducible refine keeps_cut (p := Keeps s z) ?_ ?_
            on_goal 2 => (intro _; clear_value z)
            on_goal 1 => try dsimp -zeta only [z])
         | clear_value z | skip)
    | split

theorem execControlInterval_keeps {s t : State} (h : Keeps s t) (m : PowerSample) : KeepsOut s
    (execControlInterval m t) := by
  delta execControlInterval
  repeat' first
    | with_reducible first
      | assumption | apply KeepsOut.next | apply State.endZeroRate_keeps | apply State.refill_keeps
      | apply State.measure_keeps | apply State.nextSupplies_keeps | apply State.powerEvent_keeps
      | apply State.stepLimit_keeps | apply State.setPower_keeps | apply State.checkParkCap_keeps | intro _
      | fail_if_no_progress apply mk_keeps
    | (fail_if_no_progress extract_lets +onlyGivenNames z
       first
         | (with_reducible refine keeps_cut (p := Keeps s z) ?_ ?_
            on_goal 2 => (intro _; clear_value z)
            on_goal 1 => try dsimp -zeta only [z])
         | clear_value z | skip)
    | split

theorem execHeartbeatLost_keeps {s t : State} (h : Keeps s t) : KeepsOut s (execHeartbeatLost t) := by
  delta execHeartbeatLost
  repeat' first
    | with_reducible first
      | assumption | apply KeepsOut.next | apply State.setf_keeps | apply State.powerEvent_keeps
      | apply State.checkParkCap_keeps | apply State.powerRecord_keeps
    | (fail_if_no_progress extract_lets +onlyGivenNames z
       first
         | (with_reducible refine keeps_cut (p := Keeps s z) ?_ ?_
            on_goal 2 => (intro _; clear_value z)
            on_goal 1 => try dsimp -zeta only [z])
         | clear_value z | skip)
    | split

theorem execUndervolt_keeps {s t : State} (h : Keeps s t) : KeepsOut s (execUndervolt t) := by
  delta execUndervolt
  repeat' first
    | with_reducible first
      | assumption | apply KeepsOut.next | apply State.raiseBrake_keeps

theorem State.sealDone_keeps {s t : State} (h : Keeps s t) (via : Option Nat) (token op arg res : Nat) : Keeps s
    (State.sealDone t via token op arg res) := by
  delta State.sealDone
  repeat' first
    | with_reducible first
      | assumption | apply State.sealRecord_keeps | apply State.vendorRsp_keeps | apply State.setv_keeps
    | (fail_if_no_progress extract_lets +onlyGivenNames z
       first
         | (with_reducible refine keeps_cut (p := Keeps s z) ?_ ?_
            on_goal 2 => (intro _; clear_value z)
            on_goal 1 => try dsimp -zeta only [z])
         | clear_value z | skip)
    | split

theorem State.sealRun_keeps {s t : State} (h : Keeps s t) (via : Option Nat) (token op : Nat)
    (block : Option (List Byte)) (check : List Byte → Nat) (act : List Byte → Seal → Seal)
    (k1 : ∀ b u, u.fused ≤ (act b u).fused) (k2 : ∀ b u, (act b u).primaryRevoked = u.primaryRevoked)
    (k3 : ∀ b u, u.nonce ≤ (act b u).nonce) : Keeps s (t.sealRun via token op block check act) := by
  unfold State.sealRun
  split
  · exact State.sealDone_keeps h _ _ _ _ _
  · dsimp only
    refine State.sealDone_keeps ?_ _ _ _ _ _
    by_cases hc : (if leAt ‹List Byte› 0 1 ≠ op then 1 else check ‹List Byte›) = 0
    · rw [if_pos hc]
      exact State.setSeal_keeps h (k1 _ _) (fun w => (k2 _ _).trans w) (k3 _ _)
    · rw [if_neg hc]
      exact h

theorem State.sealCommand_keeps {s t : State} (h : Keeps s t) (via : Option Nat) (token op : Nat)
    (block : Option (List Byte)) (check : List Byte → Nat) (act : List Byte → Seal → Seal)
    (k1 : ∀ b u, u.fused ≤ (act b u).fused) (k2 : ∀ b u, (act b u).primaryRevoked = u.primaryRevoked)
    (k3 : ∀ b u, u.nonce ≤ (act b u).nonce) : Keeps s (t.sealCommand via token op block check act) := by
  unfold State.sealCommand
  split
  · exact State.sealRun_keeps (State.blockRead_keeps h _ _) _ _ _ _ _ _ k1 k2 k3
  · split
    · exact State.vendorRsp_keeps h _ _ _ _
    · split
      · exact State.vendorRsp_keeps h _ _ _ _
      · exact State.sealRun_keeps h _ _ _ _ _ _ k1 k2 k3

theorem State.showDebug_keeps {s t : State} (h : Keeps s t) (p : Nat) : Keeps s (State.showDebug t p) := by
  delta State.showDebug
  repeat' first
    | with_reducible first
      | assumption | apply State.setf_keeps
    | (fail_if_no_progress extract_lets +onlyGivenNames z
       first
         | (with_reducible refine keeps_cut (p := Keeps s z) ?_ ?_
            on_goal 2 => (intro _; clear_value z)
            on_goal 1 => try dsimp -zeta only [z])
         | clear_value z | skip)

theorem State.setDebug_keeps {s t : State} (h : Keeps s t) (p : Nat) (d : Debug) : Keeps s (State.setDebug t p d) := by
  delta State.setDebug
  repeat' first
    | with_reducible first
      | assumption | apply State.setPart_keeps

theorem execDebugSet_keeps {s t : State} (h : Keeps s t) (p : Nat) : KeepsOut s (execDebugSet p t) := by
  delta execDebugSet
  repeat' first
    | with_reducible first
      | assumption | apply KeepsOut.next | apply State.setf_keeps | apply State.showDebug_keeps
      | apply State.setDebug_keeps | fail_if_no_progress apply mk_keeps
    | (fail_if_no_progress extract_lets +onlyGivenNames z
       first
         | (with_reducible refine keeps_cut (p := Keeps s z) ?_ ?_
            on_goal 2 => (intro _; clear_value z)
            on_goal 1 => try dsimp -zeta only [z])
         | clear_value z | skip)
    | split

theorem State.lockDebug_keeps {s t : State} (h : Keeps s t) (p : Nat) : Keeps s (State.lockDebug t p) := by
  delta State.lockDebug
  repeat' first
    | with_reducible first
      | assumption | apply State.showDebug_keeps | apply State.setDebug_keeps

theorem execDebugUnlock_keeps {s t : State} (h : Keeps s t) (p : Nat) : KeepsOut s (execDebugUnlock p t) := by
  delta execDebugUnlock
  repeat' first
    | with_reducible first
      | assumption | apply KeepsOut.next | apply State.setf_keeps | apply State.showDebug_keeps
      | apply State.setDebug_keeps | apply State.lockDebug_keeps | fail_if_no_progress apply mk_keeps
    | (fail_if_no_progress extract_lets +onlyGivenNames z
       first
         | (with_reducible refine keeps_cut (p := Keeps s z) ?_ ?_
            on_goal 2 => (intro _; clear_value z)
            on_goal 1 => try dsimp -zeta only [z])
         | clear_value z | skip)
    | split

theorem execDebugLock_keeps {s t : State} (h : Keeps s t) (p : Nat) : KeepsOut s (execDebugLock p t) := by
  delta execDebugLock
  repeat' first
    | with_reducible first
      | assumption | apply KeepsOut.next | apply State.lockDebug_keeps
    | split

theorem execEnrol_keeps {s t : State} (h : Keeps s t) (via : Option Nat) (token : Nat)
    (block : Option (List Byte)) : KeepsOut s (execEnrol via token block t) :=
  .next (State.sealCommand_keeps h _ _ _ _ _ _ (fun _ _ => Nat.le_refl _) (fun _ _ => rfl) (fun _ _ => Nat.le_succ _))

theorem execTakeOwnership_keeps {s t : State} (h : Keeps s t) (via : Option Nat) (token : Nat)
    (block : Option (List Byte)) : KeepsOut s (execTakeOwnership via token block t) :=
  .next (State.sealCommand_keeps h _ _ _ _ _ _ (fun _ _ => Nat.le_refl _) (fun _ _ => rfl) (fun _ _ => Nat.le_refl _))

theorem execTrngHealthFail_keeps {s t : State} (h : Keeps s t) : KeepsOut s (execTrngHealthFail t) := by
  unfold execTrngHealthFail
  refine .next (State.setf_keeps (State.setSeal_keeps h ?_ ?_ ?_) _ _ _)
  · exact Nat.le_refl _
  · exact id
  · exact Nat.le_refl _

theorem execSvnCommit_keeps {s t : State} (h : Keeps s t) (via : Option Nat) (token : Nat)
    (block : Option (List Byte)) : KeepsOut s (execSvnCommit via token block t) := by
  refine .next (State.sealCommand_keeps h _ _ _ _ _ _ (fun b u => ?_) (fun b u => ?_) (fun b u => ?_))
  · dsimp only
    split <;> exact Nat.le_max_left _ _
  · dsimp only
    split <;> rfl
  · dsimp only
    split
    · exact Nat.le_succ _
    · exact Nat.le_refl _

theorem execRevoke_keeps {s t : State} (h : Keeps s t) (via : Option Nat) (token : Nat)
    (block : Option (List Byte)) : KeepsOut s (execRevoke via token block t) :=
  .next (State.sealCommand_keeps h _ _ _ _ _ _ (fun _ _ => Nat.le_refl _) (fun _ _ => rfl) (fun _ _ => Nat.le_succ _))

theorem execRelease_keeps {s t : State} (h : Keeps s t) (via : Option Nat) (token : Nat)
    (block : Option (List Byte)) : KeepsOut s (execRelease via token block t) :=
  .next (State.sealCommand_keeps h _ _ _ _ _ _ (fun _ _ => Nat.le_refl _) (fun _ _ => rfl) (fun _ _ => Nat.le_succ _))

theorem execFault_keeps {s t : State} (h : Keeps s t) (port : Nat) (x1 : Hdr) (body : List Byte) : KeepsOut s
    (execFault port x1 body t) := by
  delta execFault
  repeat' first
    | with_reducible first
      | assumption | apply KeepsOut.next | apply State.receive_keeps | apply State.faultIn_keeps | intro _
    | split

theorem execEmittedEntryExpire_keeps {s t : State} (h : Keeps s t) (p slot : Nat) : KeepsOut s
    (execEmittedEntryExpire p slot t) := by
  delta execEmittedEntryExpire
  repeat' first
    | with_reducible first
      | assumption | apply KeepsOut.next | apply State.setPart_keeps | fail_if_no_progress apply mk_keeps
    | (fail_if_no_progress extract_lets +onlyGivenNames z
       first
         | (with_reducible refine keeps_cut (p := Keeps s z) ?_ ?_
            on_goal 2 => (intro _; clear_value z)
            on_goal 1 => try dsimp -zeta only [z])
         | clear_value z | skip)
    | split

theorem execFaultAck_keeps {s t : State} (h : Keeps s t) (p : Nat) : KeepsOut s (execFaultAck p t) := by
  delta execFaultAck
  repeat' first
    | with_reducible first
      | assumption | apply KeepsOut.next | apply State.setPart_keeps
    | split

theorem execLeadFaultWindowClose_keeps {s t : State} (h : Keeps s t) (p slot : Nat) : KeepsOut s
    (execLeadFaultWindowClose p slot t) := by
  delta execLeadFaultWindowClose
  repeat' first
    | with_reducible first
      | assumption | apply KeepsOut.next | apply State.setPart_keeps | apply State.tryEmit_keeps
      | fail_if_no_progress apply mk_keeps
    | (fail_if_no_progress extract_lets +onlyGivenNames z
       first
         | (with_reducible refine keeps_cut (p := Keeps s z) ?_ ?_
            on_goal 2 => (intro _; clear_value z)
            on_goal 1 => try dsimp -zeta only [z])
         | clear_value z | skip)
    | split

theorem State.setEpoch_keeps {s t : State} (h : Keeps s t) (p : Nat) (w : Word) : Keeps s (t.setEpoch p w) := by
  have cut : ∀ u : State, Keeps s u → ∀ a b c d e f, Keeps s (u.setRegs { u.regs with
      act := tabSet rwsReset u.regs.act a b, stg := tabSet rwsReset u.regs.stg c d,
      pnd := tabSet rwsReset u.regs.pnd e f }) := fun u k a b c d e f => by
    refine State.setRegs_keeps k fun w => ?_
    rw [Regs.wf_mk] at *
    exact ⟨w.1, tabWf_tabSet _ _ w.2.1, tabWf_tabSet _ _ w.2.2.1, tabWf_tabSet _ _ w.2.2.2⟩
  have k := fun a b c d e f => cut _ (State.setf_keeps (State.abortSteps_keeps h p Status.epoch
    (BitVec.ofNat 64 (getBits w 63 32)) false) .partEpochEpoch [p] (getBits w 63 32)) a b c d e f
  unfold State.setEpoch
  refine State.partRecord_keeps (State.setTree_keeps (State.setPart_keeps ?_ _ _) _) _ _
  split
  · exact State.setTime_keeps (k _ _ _ _ _ _) _ _
  · exact k _ _ _ _ _ _

theorem execPartnerSilent_keeps {s t : State} (h : Keeps s t) (p m : Nat) : KeepsOut s (execPartnerSilent p m t) := by
  delta execPartnerSilent
  repeat' first
    | with_reducible first
      | assumption | apply KeepsOut.next | apply State.bump_keeps | apply State.faultIn_keeps
      | apply State.abortSteps_keeps
    | (fail_if_no_progress extract_lets +onlyGivenNames z
       first
         | (with_reducible refine keeps_cut (p := Keeps s z) ?_ ?_
            on_goal 2 => (intro _; clear_value z)
            on_goal 1 => try dsimp -zeta only [z])
         | clear_value z | skip)
    | split

theorem execEpochSet_keeps {s t : State} (h : Keeps s t) (p : Nat) (w : Word) : KeepsOut s (execEpochSet p w t) := by
  delta execEpochSet
  repeat' first
    | with_reducible first
      | assumption | apply KeepsOut.next | apply State.setf_keeps | apply State.setEpoch_keeps
    | split

theorem execFaultWindowClose_keeps {s t : State} (h : Keeps s t) (p slot : Nat) : KeepsOut s
    (execFaultWindowClose p slot t) := by
  delta execFaultWindowClose
  repeat' first
    | with_reducible first
      | assumption | apply KeepsOut.next | apply State.setPart_keeps | apply State.forwardFault_keeps
      | fail_if_no_progress apply mk_keeps
    | (fail_if_no_progress extract_lets +onlyGivenNames z
       first
         | (with_reducible refine keeps_cut (p := Keeps s z) ?_ ?_
            on_goal 2 => (intro _; clear_value z)
            on_goal 1 => try dsimp -zeta only [z])
         | clear_value z | skip)
    | split

theorem execConfirmationTimeout_keeps {s t : State} (h : Keeps s t) (p slot : Nat) : KeepsOut s
    (execConfirmationTimeout p slot t) := by
  delta execConfirmationTimeout
  repeat' first
    | with_reducible first
      | assumption | apply KeepsOut.next | apply State.confirmReq_keeps | apply State.setPart_keeps
      | apply State.tryEmit_keeps | fail_if_no_progress apply mk_keeps
    | (fail_if_no_progress extract_lets +onlyGivenNames z
       first
         | (with_reducible refine keeps_cut (p := Keeps s z) ?_ ?_
            on_goal 2 => (intro _; clear_value z)
            on_goal 1 => try dsimp -zeta only [z])
         | clear_value z | skip)
    | split

theorem State.killShare_keeps {s t : State} (h : Keeps s t) (p : Nat) : Keeps s (State.killShare t p) := by
  delta State.killShare
  repeat' first
    | with_reducible first
      | assumption | apply State.setPart_keeps | apply State.send_keeps
    | (fail_if_no_progress extract_lets +onlyGivenNames z
       first
         | (with_reducible refine keeps_cut (p := Keeps s z) ?_ ?_
            on_goal 2 => (intro _; clear_value z)
            on_goal 1 => try dsimp -zeta only [z])
         | clear_value z | skip)
    | split

theorem State.dropPlates_keeps {s t : State} (h : Keeps s t) (p : Nat) : Keeps s (State.dropPlates t p) := by
  delta State.dropPlates
  repeat' first
    | with_reducible first
      | assumption | apply State.setPart_keeps | apply State.showPlates_keeps | apply State.setPhase_keeps

theorem State.killEntries_keeps {s t : State} (h : Keeps s t) (p : Nat) : Keeps s (State.killEntries t p) := by
  delta State.killEntries
  repeat' first
    | with_reducible first
      | assumption | apply State.setPart_keeps | apply State.finish_keeps | apply foldl_keeps | intro _
      | fail_if_no_progress apply mk_keeps
    | (fail_if_no_progress extract_lets +onlyGivenNames z
       first
         | (with_reducible refine keeps_cut (p := Keeps s z) ?_ ?_
            on_goal 2 => (intro _; clear_value z)
            on_goal 1 => try dsimp -zeta only [z])
         | clear_value z | skip)
    | split

theorem State.killSupply_keeps {s t : State} (h : Keeps s t) (p code : Nat) : Keeps s (State.killSupply t p code) := by
  delta State.killSupply
  repeat' first
    | with_reducible first
      | assumption | apply State.setSupply_keeps | apply foldl_keeps | intro _
    | split

theorem State.killCommits_keeps {s t : State} (h : Keeps s t) (p : Nat) (sites : List Nat) : Keeps s
    (State.killCommits t p sites) := by
  delta State.killCommits
  repeat' first
    | with_reducible first
      | assumption | apply State.commitCancel_keeps | apply foldl_keeps | intro _
    | split

theorem State.killHost_keeps {s t : State} (h : Keeps s t) (p : Nat) : Keeps s (State.killHost t p) := by
  delta State.killHost
  repeat' first
    | with_reducible first
      | assumption | apply State.hubServe_keeps | apply State.discardMsg_keeps | apply State.freeRx_keeps
      | apply State.emit_keeps | apply foldl_keeps | apply foldl_fst_keeps | apply foldl_snd_keeps | intro _
      | fail_if_no_progress apply mk_keeps
    | (fail_if_no_progress extract_lets +onlyGivenNames z
       first
         | (with_reducible refine keeps_cut (p := Keeps s z) ?_ ?_
            on_goal 2 => (intro _; clear_value z)
            on_goal 1 => try dsimp -zeta only [z])
         | clear_value z | skip)
    | split

theorem State.kill_keeps {s t : State} (h : Keeps s t) (p : Nat) : Keeps s (State.kill t p) := by
  delta State.kill
  repeat' first
    | with_reducible first
      | assumption | apply State.setf_keeps | apply State.setPart_keeps | apply State.killShare_keeps
      | apply State.chargeUp_keeps | apply State.dropPlates_keeps | apply State.killEntries_keeps
      | apply State.killSupply_keeps | apply State.haltFabric_keeps | apply State.killCommits_keeps
      | apply State.snapState_keeps | apply State.killHost_keeps | fail_if_no_progress apply mk_keeps
    | (fail_if_no_progress extract_lets +onlyGivenNames z
       first
         | (with_reducible refine keeps_cut (p := Keeps s z) ?_ ?_
            on_goal 2 => (intro _; clear_value z)
            on_goal 1 => try dsimp -zeta only [z])
         | clear_value z | skip)
    | split

theorem State.killPages_keeps {s t : State} (h : Keeps s t) (p : Nat) : Keeps s (State.killPages t p) := by
  delta State.killPages
  repeat' first
    | with_reducible first
      | assumption | apply State.setf_keeps | apply State.setPart_keeps | apply State.resetRange_keeps
      | apply State.dirtyAll_keeps | apply State.recallPart_keeps
      | (refine State.setHbm_cells_keeps ?_ ?_; on_goal 2 => (with_unfolding_all rfl)) | intro _
      | fail_if_no_progress apply mk_keeps
    | (fail_if_no_progress extract_lets +onlyGivenNames z
       first
         | (with_reducible refine keeps_cut (p := Keeps s z) ?_ ?_
            on_goal 2 => (intro _; clear_value z)
            on_goal 1 => try dsimp -zeta only [z])
         | (with_reducible refine keeps_cut (p := z = (z : Hbm) ∨ True) (.inr trivial) ?_; intro _)
         | clear_value z | skip)
    | split

theorem State.debugBank_keeps {s t : State} (h : Keeps s t) (p site w : Nat) : Keeps s (State.debugBank t p site w) := by
  delta State.debugBank
  repeat' first
    | with_reducible first
      | assumption | apply State.setMu_keeps | apply State.grantAlone_keeps | intro _
      | fail_if_no_progress apply mk_keeps
    | (fail_if_no_progress extract_lets +onlyGivenNames z
       first
         | (with_reducible refine keeps_cut (p := Keeps s z) ?_ ?_
            on_goal 2 => (intro _; clear_value z)
            on_goal 1 => try dsimp -zeta only [z])
         | clear_value z | skip)
    | split

theorem State.killKeys_keeps {s t : State} (h : Keeps s t) (p : Nat) : Keeps s (t.killKeys p) :=
  State.setv_keeps (State.setv_keeps (State.setv_keeps (State.setv_keeps (State.setPart_keeps
    (State.setSwapKeys_keeps h _) _ _) _ _ _) _ _ _) _ _ _) _ _ _

theorem State.releaseSites_keeps {s t : State} (h : Keeps s t) (sites : List Nat) : Keeps s (State.releaseSites t
    sites) := by
  delta State.releaseSites
  repeat' first
    | with_reducible first
      | assumption | apply State.setf_keeps | apply State.setSite_keeps | apply foldl_keeps | intro _
    | split

theorem State.killSequences_keeps {s t : State} (h : Keeps s t) (p : Nat) : Keeps s (State.killSequences t p) := by
  delta State.killSequences
  repeat' first
    | with_reducible first
      | assumption | apply State.setPart_keeps | apply State.setSeqs_keeps | apply State.setDir_keeps
      | apply State.setBlocks_keeps | apply foldl_keeps | apply foldl_fst_keeps | apply foldl_snd_keeps | intro _
    | (fail_if_no_progress extract_lets +onlyGivenNames z
       first
         | (with_reducible refine keeps_cut (p := Keeps s z) ?_ ?_
            on_goal 2 => (intro _; clear_value z)
            on_goal 1 => try dsimp -zeta only [z])
         | clear_value z | skip)
    | split

theorem State.killRest_keeps {s t : State} (h : Keeps s t) (p : Nat) : Keeps s (State.killRest t p) := by
  delta State.killRest
  repeat' first
    | with_reducible first
      | assumption | apply State.killSequences_keeps | apply State.setf_keeps | apply State.releaseSites_keeps
      | apply State.killPages_keeps | apply State.setTraceQ_keeps | apply State.partRecord_keeps
      | apply State.killSupply_keeps | apply State.killKeys_keeps | intro _
    | (fail_if_no_progress extract_lets +onlyGivenNames z
       first
         | (with_reducible refine keeps_cut (p := Keeps s z) ?_ ?_
            on_goal 2 => (intro _; clear_value z)
            on_goal 1 => try dsimp -zeta only [z])
         | clear_value z | skip)
    | split

theorem State.killTick_keeps {s t : State} (h : Keeps s t) (p : Nat) : Keeps s (State.killTick t p) := by
  delta State.killTick
  repeat' first
    | with_reducible first
      | assumption | apply State.killRest_keeps
    | split

theorem State.showWord_keeps {s t : State} (h : Keeps s t) (p : Nat) (x : Line) : Keeps s (State.showWord t p x) := by
  delta State.showWord
  repeat' first
    | with_reducible first
      | assumption | apply State.setDebug_keeps

theorem execKill_keeps {s t : State} (h : Keeps s t) (p : Nat) (w : Word) : KeepsOut s (execKill p w t) := by
  delta execKill
  repeat' first
    | with_reducible first
      | assumption | apply KeepsOut.next | apply State.kill_keeps
    | split

theorem execDebugAddrSelect_keeps {s t : State} (h : Keeps s t) (p : Nat) (w : Word) : KeepsOut s
    (execDebugAddrSelect p w t) := by
  delta execDebugAddrSelect
  repeat' first
    | with_reducible first
      | assumption | apply KeepsOut.next | apply State.setf_keeps | apply State.debugBank_keeps
      | apply State.showWord_keeps | apply State.setv_keeps | apply foldl_keeps | apply foldl_fst_keeps
      | apply foldl_snd_keeps | intro _ | fail_if_no_progress apply mk_keeps
    | (fail_if_no_progress extract_lets +onlyGivenNames z
       first
         | (with_reducible refine keeps_cut (p := Keeps s z) ?_ ?_
            on_goal 2 => (intro _; clear_value z)
            on_goal 1 => try dsimp -zeta only [z])
         | (with_reducible refine keeps_cut (p := Keeps s z.1) ?_ ?_
            on_goal 2 => (intro _)
            on_goal 1 => try dsimp -zeta only [z])
         | (with_reducible refine keeps_cut (p := ∀ u x, Keeps s u → Keeps s (z u x)) ?_ ?_
            on_goal 2 => (intro _; clear_value z)
            on_goal 1 => try dsimp -zeta only [z])
         | (with_reducible refine keeps_cut (p := ∀ u, Keeps s u → Keeps s (z u)) ?_ ?_
            on_goal 2 => (intro _; clear_value z)
            on_goal 1 => try dsimp -zeta only [z])
         | (with_reducible refine keeps_cut (p := ∀ x, Keeps s (z x)) ?_ ?_
            on_goal 2 => (intro _; clear_value z)
            on_goal 1 => try dsimp -zeta only [z])
         | clear_value z | skip)
    | split
    | dsimp -zeta only
    | with_reducible apply_assumption

end Sys2Proof.Machine
end

