-- ==== Sys2Proof/Laws/KeepsModule.lean ====
section
/-! SUPPORT. What the operations and commands of the flash library, management, start-up, commits, register writes and the tick keep. -/

namespace Sys2Proof.Machine

open Sys2Proof

set_option linter.unusedTactic false
set_option linter.unreachableTactic false

theorem State.showLibrary_keeps {s t : State} (h : Keeps s t) : Keeps s (State.showLibrary t) := by
  delta State.showLibrary
  repeat' first
    | with_reducible first
      | assumption | apply State.setf_keeps | intro _
    | (fail_if_no_progress extract_lets +onlyGivenNames z
       first
         | (with_reducible refine keeps_cut (p := Keeps s z) ?_ ?_
            on_goal 2 => (intro _; clear_value z)
            on_goal 1 => try dsimp -zeta only [z])
         | clear_value z | skip)
    | split

theorem State.setSlot_keeps {s t : State} (h : Keeps s t) (n : Nat) (x2 : Edition) : Keeps s (State.setSlot t n x2) := by
  delta State.setSlot
  repeat' first
    | with_reducible first
      | assumption | apply State.showLibrary_keeps | apply State.setFlash_keeps | intro _
      | fail_if_no_progress apply mk_keeps
    | split

theorem State.degrade_keeps {s t : State} (h : Keeps s t) (n j : Nat) : Keeps s (State.degrade t n j) := by
  delta State.degrade
  repeat' first
    | with_reducible first
      | assumption | apply State.setSlot_keeps | apply State.bbWrite_keeps | fail_if_no_progress apply mk_keeps
    | (fail_if_no_progress extract_lets +onlyGivenNames z
       first
         | (with_reducible refine keeps_cut (p := Keeps s z) ?_ ?_
            on_goal 2 => (intro _; clear_value z)
            on_goal 1 => try dsimp -zeta only [z])
         | clear_value z | skip)
    | split

theorem State.judge_keeps {s t : State} (h : Keeps s t) (n : Nat) (js : List Nat) : Keeps s (State.judge t n js).1 := by
  delta State.judge
  repeat' first
    | with_reducible first
      | assumption | apply State.degrade_keeps
    | split

theorem State.judge_keeps_eq {s t u : State} {z} {n : Nat} {js : List Nat} (h : Keeps s t)  (e : State.judge t n
    js = (u, z)) : Keeps s u := by
  have := State.judge_keeps h n js
  rw [e] at this
  exact this

theorem State.countReads_keeps {s t : State} (h : Keeps s t) (blocks : List Nat) : Keeps s (State.countReads t
    blocks) := by
  delta State.countReads
  repeat' first
    | with_reducible first
      | assumption | apply State.setFlash_keeps | apply foldl_keeps | intro _ | fail_if_no_progress apply mk_keeps
    | (fail_if_no_progress extract_lets +onlyGivenNames z
       first
         | (with_reducible refine keeps_cut (p := Keeps s z) ?_ ?_
            on_goal 2 => (intro _; clear_value z)
            on_goal 1 => try dsimp -zeta only [z])
         | clear_value z | skip)
    | split

theorem State.noteUe_keeps {s t : State} (h : Keeps s t) (l : Nat) : Keeps s (State.noteUe t l) := by
  delta State.noteUe
  repeat' first
    | with_reducible first
      | assumption | apply State.bump_keeps | apply State.bbWrite_keeps
    | (fail_if_no_progress extract_lets +onlyGivenNames z
       first
         | (with_reducible refine keeps_cut (p := Keeps s z) ?_ ?_
            on_goal 2 => (intro _; clear_value z)
            on_goal 1 => try dsimp -zeta only [z])
         | clear_value z | skip)

theorem State.noteMedia_keeps {s t : State} (h : Keeps s t) (n : Nat) (r : FlashRead) : Keeps s (State.noteMedia
    t n r) := by
  delta State.noteMedia
  repeat' first
    | with_reducible first
      | assumption | apply State.setSlot_keeps | apply State.setFlash_keeps | apply foldl_keeps
      | apply foldl_fst_keeps | apply foldl_snd_keeps | intro _ | fail_if_no_progress apply mk_keeps
    | (fail_if_no_progress extract_lets +onlyGivenNames z
       first
         | (with_reducible refine keeps_cut (p := Keeps s z) ?_ ?_
            on_goal 2 => (intro _; clear_value z)
            on_goal 1 => try dsimp -zeta only [z])
         | clear_value z | skip)
    | split

theorem State.readShards_keeps {s t : State} (h : Keeps s t) (n : Nat) (ks : List Nat) (r : FlashRead) : Keeps s
    (State.readShards t n ks r) := by
  delta State.readShards
  repeat' first
    | with_reducible first
      | assumption | apply State.countReads_keeps | apply State.bump_keeps | apply State.noteUe_keeps
      | apply State.noteMedia_keeps | apply foldl_keeps | apply foldl_fst_keeps | apply foldl_snd_keeps | intro _
    | (fail_if_no_progress extract_lets +onlyGivenNames z
       first
         | (with_reducible refine keeps_cut (p := Keeps s z) ?_ ?_
            on_goal 2 => (intro _; clear_value z)
            on_goal 1 => try dsimp -zeta only [z])
         | clear_value z | skip)
    | split

theorem State.readAndJudge_keeps {s t : State} (h : Keeps s t) (n : Nat) (ks : List Nat) (r : FlashRead) : Keeps
    s (State.readAndJudge t n ks r) := by
  delta State.readAndJudge
  repeat' first
    | with_reducible first
      | assumption | apply State.judge_keeps | apply State.readShards_keeps | intro _
    | (fail_if_no_progress extract_lets +onlyGivenNames z
       first
         | (with_reducible refine keeps_cut (p := Keeps s z) ?_ ?_
            on_goal 2 => (intro _; clear_value z)
            on_goal 1 => try dsimp -zeta only [z])
         | (with_reducible refine keeps_cut (p := Keeps s z.1) ?_ ?_
            on_goal 2 => (intro _)
            on_goal 1 => try dsimp -zeta only [z])
         | clear_value z | skip)
    | split

theorem State.scrubEdition_keeps {s t : State} (h : Keeps s t) (n : Nat) (r : FlashRead) : Keeps s
    (State.scrubEdition t n r) := by
  delta State.scrubEdition
  repeat' first
    | with_reducible first
      | assumption | apply State.readAndJudge_keeps | apply State.setFlash_keeps | intro _
      | fail_if_no_progress apply mk_keeps
    | (fail_if_no_progress extract_lets +onlyGivenNames z
       first
         | (with_reducible refine keeps_cut (p := Keeps s z) ?_ ?_
            on_goal 2 => (intro _; clear_value z)
            on_goal 1 => try dsimp -zeta only [z])
         | clear_value z | skip)
    | split

theorem State.showChannel_keeps {s t : State} (h : Keeps s t) (c : Nat) : Keeps s (State.showChannel t c) := by
  delta State.showChannel
  repeat' first
    | with_reducible first
      | assumption | apply State.setv_keeps | intro _
    | (fail_if_no_progress extract_lets +onlyGivenNames z
       first
         | (with_reducible refine keeps_cut (p := Keeps s z) ?_ ?_
            on_goal 2 => (intro _; clear_value z)
            on_goal 1 => try dsimp -zeta only [z])
         | clear_value z | skip)
    | split

theorem State.program_keeps {s t : State} (h : Keeps s t) (n c : Nat) (x3 : Tab Byte) : Keeps s (State.program t
    n c x3).1 := by
  delta State.program
  repeat' first
    | with_reducible first
      | assumption | apply State.setSlot_keeps | apply State.setFlash_keeps | intro _
      | fail_if_no_progress apply mk_keeps
    | (fail_if_no_progress extract_lets +onlyGivenNames z
       first
         | (with_reducible refine keeps_cut (p := Keeps s z) ?_ ?_
            on_goal 2 => (intro _; clear_value z)
            on_goal 1 => try dsimp -zeta only [z])
         | clear_value z | skip)
    | split

theorem State.program_keeps_eq {s t u : State} {z} {n : Nat} {c : Nat} {x3 : Tab Byte} (h : Keeps s t)  (e :
    State.program t n c x3 = (u, z)) : Keeps s u := by
  have := State.program_keeps h n c x3
  rw [e] at this
  exact this

theorem State.rebuildShard_keeps {s t : State} (h : Keeps s t) (n c x3 : Nat) : Keeps s (State.rebuildShard t n c
    x3) := by
  delta State.rebuildShard
  repeat' first
    | with_reducible first
      | assumption | apply State.bump_keeps | apply State.fresh_keeps | apply State.setSlot_keeps
      | apply State.program_keeps | refine State.program_keeps_eq ?_ (by assumption)
    | (fail_if_no_progress extract_lets +onlyGivenNames z
       first
         | (with_reducible refine keeps_cut (p := Keeps s z) ?_ ?_
            on_goal 2 => (intro _; clear_value z)
            on_goal 1 => try dsimp -zeta only [z])
         | (with_reducible refine keeps_cut (p := Keeps s z.1) ?_ ?_
            on_goal 2 => (intro _)
            on_goal 1 => try dsimp -zeta only [z])
         | clear_value z | skip)
    | split

theorem State.rebuildEdition_keeps {s t : State} (h : Keeps s t) (c n : Nat) : Keeps s (State.rebuildEdition t c n) := by
  delta State.rebuildEdition
  repeat' first
    | with_reducible first
      | assumption | apply State.rebuildShard_keeps | apply State.setSlot_keeps | apply State.readAndJudge_keeps
      | apply foldl_keeps | intro _
    | (fail_if_no_progress extract_lets +onlyGivenNames z
       first
         | (with_reducible refine keeps_cut (p := Keeps s z) ?_ ?_
            on_goal 2 => (intro _; clear_value z)
            on_goal 1 => try dsimp -zeta only [z])
         | clear_value z | skip)
    | split

theorem State.flashDone_keeps {s t : State} (h : Keeps s t) (c : FlashCmd) (code detail : Nat) : Keeps s
    (State.flashDone t c code detail) := by
  delta State.flashDone
  repeat' first
    | with_reducible first
      | assumption | apply State.alert_keeps | apply State.msix_keeps | apply State.setFlash_keeps
      | fail_if_no_progress apply mk_keeps
    | (fail_if_no_progress extract_lets +onlyGivenNames z
       first
         | (with_reducible refine keeps_cut (p := Keeps s z) ?_ ?_
            on_goal 2 => (intro _; clear_value z)
            on_goal 1 => try dsimp -zeta only [z])
         | clear_value z | skip)

theorem execRetentionScrub_keeps {s t : State} (h : Keeps s t) (rs : List (Nat × FlashRead)) : KeepsOut s
    (execRetentionScrub rs t) := by
  delta execRetentionScrub
  repeat' first
    | with_reducible first
      | assumption | apply KeepsOut.next | apply State.scrubEdition_keeps | apply foldl_keeps
      | apply foldl_fst_keeps | apply foldl_snd_keeps | intro _
    | split

theorem State.eraseBlock_keeps {s t : State} (h : Keeps s t) (b : Nat) (failed : Bool) : Keeps s
    (State.eraseBlock t b failed) := by
  delta State.eraseBlock
  repeat' first
    | with_reducible first
      | assumption | apply State.bump_keeps | apply State.setFlash_keeps | intro _
      | fail_if_no_progress apply mk_keeps
    | (fail_if_no_progress extract_lets +onlyGivenNames z
       first
         | (with_reducible refine keeps_cut (p := Keeps s z) ?_ ?_
            on_goal 2 => (intro _; clear_value z)
            on_goal 1 => try dsimp -zeta only [z])
         | clear_value z | skip)
    | split

theorem State.eraseUnused_keeps {s t : State} (h : Keeps s t) : Keeps s (State.eraseUnused t) := by
  delta State.eraseUnused
  repeat' first
    | with_reducible first
      | assumption | apply State.eraseBlock_keeps | apply foldl_keeps | apply foldl_fst_keeps
      | apply foldl_snd_keeps | intro _
    | (fail_if_no_progress extract_lets +onlyGivenNames z
       first
         | (with_reducible refine keeps_cut (p := Keeps s z) ?_ ?_
            on_goal 2 => (intro _; clear_value z)
            on_goal 1 => try dsimp -zeta only [z])
         | clear_value z | skip)
    | split

theorem State.fillPage_keeps {s t : State} (h : Keeps s t) (page view : Nat) (bs : List Byte) :
    Keeps s (t.fillPage page view bs) := by
  unfold State.fillPage
  refine State.setTag_keeps (State.setHbm_keeps (State.activateAll_keeps h _) fun w => ?_) _ _
  exact tabWf_tabReplace (Nat.le_add_right _ _) w (fill_wf (bs.take 65536) (page * 65536) 0)

theorem State.flashTake_keeps {s t : State} (h : Keeps s t) (c : FlashCmd) : Keeps s (State.flashTake t c) := by
  delta State.flashTake
  repeat' first
    | with_reducible first
      | assumption | apply State.setFlash_keeps | fail_if_no_progress apply mk_keeps

theorem State.flashSweep_keeps {s t : State} (h : Keeps s t) (n : Nat) : Keeps s (State.flashSweep n t) := by
  induction n generalizing t with
  | zero => exact h
  | succ n ih =>
    have k := fun c code d => ih (State.flashDone_keeps (State.flashTake_keeps h c) c code d)
    unfold State.flashSweep
    split
    · split
      · exact k _ _ _
      · split
        · split
          · exact k _ _ _
          · exact h
        · exact h
    · split
      · exact k _ _ _
      · exact h
    · exact h

theorem State.flashEnqueue_keeps {s t : State} (h : Keeps s t) (w : Word) : Keeps s (State.flashEnqueue t w) := by
  delta State.flashEnqueue
  repeat' first
    | with_reducible first
      | assumption | apply State.setf_keeps | apply State.flashSweep_keeps | apply State.setFlash_keeps
      | fail_if_no_progress apply mk_keeps
    | (fail_if_no_progress extract_lets +onlyGivenNames z
       first
         | (with_reducible refine keeps_cut (p := Keeps s z) ?_ ?_
            on_goal 2 => (intro _; clear_value z)
            on_goal 1 => try dsimp -zeta only [z])
         | clear_value z | skip)
    | split

theorem State.setUsed_keeps {s t : State} (h : Keeps s t) (n : Nat) : Keeps s (State.setUsed t n) := by
  delta State.setUsed
  repeat' first
    | with_reducible first
      | assumption | apply State.showLibrary_keeps | apply State.setFlash_keeps
      | fail_if_no_progress apply mk_keeps

theorem State.dropInstall_keeps {s t : State} (h : Keeps s t) (n : Nat) : Keeps s (State.dropInstall t n) := by
  delta State.dropInstall
  repeat' first
    | with_reducible first
      | assumption | apply State.setUsed_keeps | apply State.setSlot_keeps

theorem State.discardPages_keeps {s t : State} (h : Keeps s t) (pages : List Nat) : Keeps s (State.discardPages t
    pages) := by
  delta State.discardPages
  repeat' first
    | with_reducible first
      | assumption | apply State.setTag_keeps | apply State.dirtyAll_keeps | apply foldl_keeps | intro _
    | split

theorem State.unstage_keeps {s t : State} (h : Keeps s t) (n : Nat) : Keeps s (State.unstage t n) := by
  delta State.unstage
  repeat' first
    | with_reducible first
      | assumption | apply State.setSlot_keeps | apply State.discardPages_keeps
      | fail_if_no_progress apply mk_keeps
    | (fail_if_no_progress extract_lets +onlyGivenNames z
       first
         | (with_reducible refine keeps_cut (p := Keeps s z) ?_ ?_
            on_goal 2 => (intro _; clear_value z)
            on_goal 1 => try dsimp -zeta only [z])
         | clear_value z | skip)

theorem execChannelRebuildDone_keeps {s t : State} (h : Keeps s t) (channel : Nat) : KeepsOut s
    (execChannelRebuildDone channel t) := by
  delta execChannelRebuildDone
  repeat' first
    | with_reducible first
      | assumption | apply KeepsOut.next | apply State.showChannel_keeps | apply State.bbWrite_keeps
      | apply State.rebuildEdition_keeps | apply State.setFlash_keeps | apply foldl_keeps | apply foldl_fst_keeps
      | apply foldl_snd_keeps | intro _ | fail_if_no_progress apply mk_keeps
    | (fail_if_no_progress extract_lets +onlyGivenNames z
       first
         | (with_reducible refine keeps_cut (p := Keeps s z) ?_ ?_
            on_goal 2 => (intro _; clear_value z)
            on_goal 1 => try dsimp -zeta only [z])
         | clear_value z | skip)
    | split

theorem State.channelDown_keeps {s t : State} (h : Keeps s t) (c : Nat) : Keeps s (State.channelDown t c) := by
  delta State.channelDown
  repeat' first
    | with_reducible first
      | assumption | apply State.showChannel_keeps | apply State.bbWrite_keeps | apply State.setFlash_keeps
      | fail_if_no_progress apply mk_keeps
    | (fail_if_no_progress extract_lets +onlyGivenNames z
       first
         | (with_reducible refine keeps_cut (p := Keeps s z) ?_ ?_
            on_goal 2 => (intro _; clear_value z)
            on_goal 1 => try dsimp -zeta only [z])
         | clear_value z | skip)
    | split

theorem State.writeStripe_keeps {s t : State} (h : Keeps s t) (n : Nat) (content : Tab Byte) (j : Nat) : Keeps s
    (State.writeStripe t n content j) := by
  delta State.writeStripe
  repeat' first
    | with_reducible first
      | assumption | apply State.setSlot_keeps | apply State.program_keeps | apply foldl_keeps
      | apply foldl_fst_keeps | apply foldl_snd_keeps | intro _ | fail_if_no_progress apply mk_keeps
    | (fail_if_no_progress extract_lets +onlyGivenNames z
       first
         | (with_reducible refine keeps_cut (p := Keeps s z) ?_ ?_
            on_goal 2 => (intro _; clear_value z)
            on_goal 1 => try dsimp -zeta only [z])
         | (with_reducible refine keeps_cut (p := Keeps s z.1) ?_ ?_
            on_goal 2 => (intro _)
            on_goal 1 => try dsimp -zeta only [z])
         | clear_value z | skip)
    | split

theorem State.installFinish_keeps {s t : State} (h : Keeps s t) (pkg : Option (List Byte)) : Keeps s
    (State.installFinish t pkg).1 := by
  delta State.installFinish
  repeat' first
    | with_reducible first
      | assumption | apply State.setUsed_keeps | apply State.dropInstall_keeps | apply State.setSlot_keeps
      | apply State.eraseUnused_keeps | apply State.writeStripe_keeps | apply foldl_keeps | apply foldl_fst_keeps
      | apply foldl_snd_keeps | intro _
    | (fail_if_no_progress extract_lets +onlyGivenNames z
       first
         | (with_reducible refine keeps_cut (p := Keeps s z) ?_ ?_
            on_goal 2 => (intro _; clear_value z)
            on_goal 1 => try dsimp -zeta only [z])
         | clear_value z | skip)
    | split

theorem State.installFinish_keeps_eq {s t u : State} {z} {pkg : Option (List Byte)} (h : Keeps s t)  (e :
    State.installFinish t pkg = (u, z)) : Keeps s u := by
  have := State.installFinish_keeps h pkg
  rw [e] at this
  exact this

theorem State.flashEnd_keeps {s t : State} (h : Keeps s t) (c : FlashCmd) (f : State → State × Nat × Nat) (k2 : ∀
    x0, Keeps s x0 → Keeps s (f x0).1) : Keeps s (State.flashEnd t c f) := by
  delta State.flashEnd
  repeat' first
    | with_reducible first
      | assumption | apply k2 | apply State.flashSweep_keeps | apply State.flashDone_keeps | apply foldl_keeps
      | apply foldl_fst_keeps | apply foldl_snd_keeps | intro _ | fail_if_no_progress apply mk_keeps
    | (fail_if_no_progress extract_lets +onlyGivenNames z
       first
         | (with_reducible refine keeps_cut (p := Keeps s z) ?_ ?_
            on_goal 2 => (intro _; clear_value z)
            on_goal 1 => try dsimp -zeta only [z])
         | (with_reducible refine keeps_cut (p := Keeps s z.1) ?_ ?_
            on_goal 2 => (intro _)
            on_goal 1 => try dsimp -zeta only [z])
         | (with_reducible refine keeps_cut (p := ∀ u x, Keeps s u → Keeps s (z u x)) ?_ ?_
            on_goal 2 => (intro _; clear_value z)
            on_goal 1 => try dsimp -zeta only [z])
         | (with_reducible refine keeps_cut (p := ∀ u, Keeps s u → Keeps s (z u)) ?_ ?_
            on_goal 2 => (intro _; clear_value z)
            on_goal 1 => try dsimp -zeta only [z])
         | (with_reducible refine keeps_cut (p := ∀ x, Keeps s (z x)) ?_ ?_
            on_goal 2 => (intro _; clear_value z)
            on_goal 1 => try dsimp -zeta only [z])
         | clear_value z | skip)
    | split
    | dsimp -zeta only
    | with_reducible apply_assumption

theorem State.moveShard_keeps {s t : State} (h : Keeps s t) (d n x3 : Nat) : Keeps s (State.moveShard t d n x3) := by
  delta State.moveShard
  repeat' first
    | with_reducible first
      | assumption | apply State.bump_keeps | apply State.setSlot_keeps | apply State.setFlash_keeps | intro _
      | fail_if_no_progress apply mk_keeps
    | (fail_if_no_progress extract_lets +onlyGivenNames z
       first
         | (with_reducible refine keeps_cut (p := Keeps s z) ?_ ?_
            on_goal 2 => (intro _; clear_value z)
            on_goal 1 => try dsimp -zeta only [z])
         | clear_value z | skip)
    | split

theorem execBlockRelocation_keeps {s t : State} (h : Keeps s t) (channel die block : Nat) (programFailed
    eraseFailed : Bool) (rs : List (Nat × FlashRead)) : KeepsOut s (execBlockRelocation channel die block
    programFailed eraseFailed rs t) := by
  delta execBlockRelocation
  repeat' first
    | with_reducible first
      | assumption | apply KeepsOut.next | apply State.moveShard_keeps | apply State.bump_keeps
      | apply State.eraseBlock_keeps | apply State.readAndJudge_keeps | apply foldl_keeps | apply foldl_fst_keeps
      | apply foldl_snd_keeps | intro _
    | (fail_if_no_progress extract_lets +onlyGivenNames z
       first
         | (with_reducible refine keeps_cut (p := Keeps s z) ?_ ?_
            on_goal 2 => (intro _; clear_value z)
            on_goal 1 => try dsimp -zeta only [z])
         | clear_value z | skip)
    | split

theorem State.mountChannel_keeps {s t : State} (h : Keeps s t) (c dies : Nat) : Keeps s (State.mountChannel t c
    dies) := by
  delta State.mountChannel
  repeat' first
    | with_reducible first
      | assumption | apply State.showChannel_keeps | apply State.channelDown_keeps | apply State.setFlash_keeps
      | intro _ | fail_if_no_progress apply mk_keeps
    | (fail_if_no_progress extract_lets +onlyGivenNames z
       first
         | (with_reducible refine keeps_cut (p := Keeps s z) ?_ ?_
            on_goal 2 => (intro _; clear_value z)
            on_goal 1 => try dsimp -zeta only [z])
         | clear_value z | skip)
    | split

theorem State.mountLibrary_keeps {s t : State} (h : Keeps s t) (dies : List Nat) : Keeps s (State.mountLibrary t
    dies) := by
  delta State.mountLibrary
  repeat' first
    | with_reducible first
      | assumption | apply State.setf_keeps | apply State.mountChannel_keeps | apply State.flashSweep_keeps
      | apply State.showLibrary_keeps | apply State.setFlash_keeps | apply foldl_keeps | intro _
      | fail_if_no_progress apply mk_keeps
    | (fail_if_no_progress extract_lets +onlyGivenNames z
       first
         | (with_reducible refine keeps_cut (p := Keeps s z) ?_ ?_
            on_goal 2 => (intro _; clear_value z)
            on_goal 1 => try dsimp -zeta only [z])
         | clear_value z | skip)
    | split

theorem State.countRebuilds_keeps {s t : State} (h : Keeps s t) (x1 : Edition) (shards : List Nat) : Keeps s
    (State.countRebuilds t x1 shards) := by
  delta State.countRebuilds
  repeat' first
    | with_reducible first
      | assumption | apply State.bump_keeps | intro _
    | split

theorem State.stageSet_keeps {s t : State} (h : Keeps s t) (n set : Nat) (r : FlashRead) : Keeps s
    (State.stageSet t n set r).1 := by
  delta State.stageSet
  repeat' first
    | with_reducible first
      | assumption | apply State.judge_keeps | refine State.judge_keeps_eq ?_ (by assumption)
      | apply State.setSlot_keeps | apply State.readShards_keeps | apply State.countRebuilds_keeps
      | apply State.fillPage_keeps | apply foldl_keeps | apply foldl_fst_keeps | apply foldl_snd_keeps | intro _
      | fail_if_no_progress apply mk_keeps
    | (fail_if_no_progress extract_lets +onlyGivenNames z
       first
         | (with_reducible refine keeps_cut (p := Keeps s z) ?_ ?_
            on_goal 2 => (intro _; clear_value z)
            on_goal 1 => try dsimp -zeta only [z])
         | (with_reducible refine keeps_cut (p := Keeps s z.1) ?_ ?_
            on_goal 2 => (intro _)
            on_goal 1 => try dsimp -zeta only [z])
         | clear_value z | skip)
    | split

theorem State.stageSet_keeps_eq {s t u : State} {z} {n : Nat} {set : Nat} {r : FlashRead} (h : Keeps s t)  (e :
    State.stageSet t n set r = (u, z)) : Keeps s u := by
  have := State.stageSet_keeps h n set r
  rw [e] at this
  exact this

theorem State.stageSets_keeps {s t : State} (h : Keeps s t) (n : Nat) (l : List Nat) : Keeps s (t.stageSets n l).1 := by
  induction l generalizing t with
  | nil => exact h
  | cons k l ih =>
    unfold State.stageSets
    dsimp only
    split
    · exact ih (State.stageSet_keeps h _ _ _)
    · exact State.stageSet_keeps h _ _ _

theorem State.stageSets_keeps_eq {s t u : State} {z} {a1 : Nat} {a2 : List Nat} (h : Keeps s t)  (e :
    State.stageSets t a1 a2 = (u, z)) : Keeps s u := by
  have := State.stageSets_keeps h a1 a2
  rw [e] at this
  exact this

theorem State.flashStart_keeps {s t : State} (h : Keeps s t) (op : Nat) (f : State → FlashCmd → State × Option
    (Nat × Nat)) (k2 : ∀ x0 x1, Keeps s x0 → Keeps s (f x0 x1).1) : Keeps s (State.flashStart t op f) := by
  delta State.flashStart
  repeat' first
    | with_reducible first
      | assumption | apply k2 | apply State.flashTake_keeps | apply State.flashSweep_keeps
      | apply State.setFlash_keeps | apply State.flashDone_keeps | apply foldl_keeps | apply foldl_fst_keeps
      | apply foldl_snd_keeps | intro _ | fail_if_no_progress apply mk_keeps
    | (fail_if_no_progress extract_lets +onlyGivenNames z
       first
         | (with_reducible refine keeps_cut (p := Keeps s z) ?_ ?_
            on_goal 2 => (intro _; clear_value z)
            on_goal 1 => try dsimp -zeta only [z])
         | (with_reducible refine keeps_cut (p := Keeps s z.1) ?_ ?_
            on_goal 2 => (intro _)
            on_goal 1 => try dsimp -zeta only [z])
         | (with_reducible refine keeps_cut (p := ∀ u x, Keeps s u → Keeps s (z u x)) ?_ ?_
            on_goal 2 => (intro _; clear_value z)
            on_goal 1 => try dsimp -zeta only [z])
         | (with_reducible refine keeps_cut (p := ∀ u, Keeps s u → Keeps s (z u)) ?_ ?_
            on_goal 2 => (intro _; clear_value z)
            on_goal 1 => try dsimp -zeta only [z])
         | (with_reducible refine keeps_cut (p := ∀ x, Keeps s (z x)) ?_ ?_
            on_goal 2 => (intro _; clear_value z)
            on_goal 1 => try dsimp -zeta only [z])
         | clear_value z | skip)
    | split
    | dsimp -zeta only
    | with_reducible apply_assumption

theorem execInstall_keeps {s t : State} (h : Keeps s t) (pkg : Option (List Byte)) (c0 : Nat) : KeepsOut s
    (execInstall pkg c0 t) := by
  delta execInstall
  repeat' first
    | with_reducible first
      | assumption | apply KeepsOut.next | apply State.setUsed_keeps | apply State.setSlot_keeps
      | apply State.installFinish_keeps | refine State.installFinish_keeps_eq ?_ (by assumption)
      | apply State.flashStart_keeps | apply State.flashEnd_keeps | intro _
    | (fail_if_no_progress extract_lets +onlyGivenNames z
       first
         | (with_reducible refine keeps_cut (p := Keeps s z) ?_ ?_
            on_goal 2 => (intro _; clear_value z)
            on_goal 1 => try dsimp -zeta only [z])
         | clear_value z | skip)
    | split

theorem execSetStage_keeps {s t : State} (h : Keeps s t) (r : FlashRead) : KeepsOut s (execSetStage r t) := by
  delta execSetStage
  repeat' first
    | with_reducible first
      | assumption | apply KeepsOut.next | apply State.flashStart_keeps | apply State.stageSet_keeps
      | refine State.stageSet_keeps_eq ?_ (by assumption) | intro _
    | (fail_if_no_progress extract_lets +onlyGivenNames z
       first
         | (with_reducible refine keeps_cut (p := Keeps s z) ?_ ?_
            on_goal 2 => (intro _; clear_value z)
            on_goal 1 => try dsimp -zeta only [z])
         | (with_reducible refine keeps_cut (p := Keeps s z.1) ?_ ?_
            on_goal 2 => (intro _)
            on_goal 1 => try dsimp -zeta only [z])
         | clear_value z | skip)
    | split

theorem State.stageFinish_keeps {s t : State} (h : Keeps s t) (c : FlashCmd) (r : FlashRead) : Keeps s
    (State.stageFinish t c r).1 := by
  delta State.stageFinish
  repeat' first
    | with_reducible first
      | assumption | apply State.stageSets_keeps | refine State.stageSets_keeps_eq ?_ (by assumption)
      | apply State.judge_keeps | refine State.judge_keeps_eq ?_ (by assumption) | apply State.setSlot_keeps
      | apply State.readShards_keeps | apply State.unstage_keeps | apply State.countRebuilds_keeps
      | apply State.fillPage_keeps | apply foldl_keeps | apply foldl_fst_keeps | apply foldl_snd_keeps | intro _
    | (fail_if_no_progress extract_lets +onlyGivenNames z
       first
         | (with_reducible refine keeps_cut (p := Keeps s z) ?_ ?_
            on_goal 2 => (intro _; clear_value z)
            on_goal 1 => try dsimp -zeta only [z])
         | (with_reducible refine keeps_cut (p := Keeps s z.1) ?_ ?_
            on_goal 2 => (intro _)
            on_goal 1 => try dsimp -zeta only [z])
         | clear_value z | skip)
    | split

theorem State.stageFinish_keeps_eq {s t u : State} {z} {c : FlashCmd} {r : FlashRead} (h : Keeps s t)  (e :
    State.stageFinish t c r = (u, z)) : Keeps s u := by
  have := State.stageFinish_keeps h c r
  rw [e] at this
  exact this

theorem execStage_keeps {s t : State} (h : Keeps s t) (r : FlashRead) : KeepsOut s (execStage r t) := by
  delta execStage
  repeat' first
    | with_reducible first
      | assumption | apply KeepsOut.next | apply State.stageFinish_keeps
      | refine State.stageFinish_keeps_eq ?_ (by assumption) | apply State.setSlot_keeps
      | apply State.flashStart_keeps | apply State.flashEnd_keeps | apply foldl_keeps | apply foldl_fst_keeps
      | apply foldl_snd_keeps | intro _ | fail_if_no_progress apply mk_keeps
    | (fail_if_no_progress extract_lets +onlyGivenNames z
       first
         | (with_reducible refine keeps_cut (p := Keeps s z) ?_ ?_
            on_goal 2 => (intro _; clear_value z)
            on_goal 1 => try dsimp -zeta only [z])
         | (with_reducible refine keeps_cut (p := Keeps s z.1) ?_ ?_
            on_goal 2 => (intro _)
            on_goal 1 => try dsimp -zeta only [z])
         | clear_value z | skip)
    | split

theorem execChannelOutOfService_keeps {s t : State} (h : Keeps s t) (channel : Nat) : KeepsOut s
    (execChannelOutOfService channel t) := by
  delta execChannelOutOfService
  repeat' first
    | with_reducible first
      | assumption | apply KeepsOut.next | apply State.channelDown_keeps | apply State.setFlash_keeps
      | fail_if_no_progress apply mk_keeps
    | (fail_if_no_progress extract_lets +onlyGivenNames z
       first
         | (with_reducible refine keeps_cut (p := Keeps s z) ?_ ?_
            on_goal 2 => (intro _; clear_value z)
            on_goal 1 => try dsimp -zeta only [z])
         | clear_value z | skip)
    | split

theorem execFlashRetraining_keeps {s t : State} (h : Keeps s t) : KeepsOut s (execFlashRetraining t) := by
  delta execFlashRetraining
  repeat' first
    | with_reducible first
      | assumption | apply KeepsOut.next

theorem execCmdAck_keeps {s t : State} (h : Keeps s t) : KeepsOut s (execCmdAck t) := by
  delta execCmdAck
  repeat' first
    | with_reducible first
      | assumption | apply KeepsOut.next | apply State.flashSweep_keeps | apply State.noteMiss_keeps
      | apply State.setFlash_keeps | fail_if_no_progress apply mk_keeps
    | split

theorem execRepair_keeps {s t : State} (h : Keeps s t) (r : FlashRead) : KeepsOut s (execRepair r t) := by
  delta execRepair
  repeat' first
    | with_reducible first
      | assumption | apply KeepsOut.next | apply State.judge_keeps | refine State.judge_keeps_eq ?_ (by assumption)
      | apply State.setTag_keeps | apply State.setSlot_keeps | apply State.flashStart_keeps
      | apply State.readShards_keeps | apply State.countRebuilds_keeps | apply State.fillPage_keeps | intro _
      | fail_if_no_progress apply mk_keeps
    | (fail_if_no_progress extract_lets +onlyGivenNames z
       first
         | (with_reducible refine keeps_cut (p := Keeps s z) ?_ ?_
            on_goal 2 => (intro _; clear_value z)
            on_goal 1 => try dsimp -zeta only [z])
         | (with_reducible refine keeps_cut (p := Keeps s z.1) ?_ ?_
            on_goal 2 => (intro _)
            on_goal 1 => try dsimp -zeta only [z])
         | clear_value z | skip)
    | split

theorem State.abandonAhead_keeps {s t : State} (h : Keeps s t) (n : Nat) : Keeps s (State.abandonAhead n t) := by
  induction n generalizing t with
  | zero => exact h
  | succ n ih =>
    unfold State.abandonAhead
    split
    · split
      · exact ih (State.flashDone_keeps (State.flashTake_keeps h _) _ _ _)
      · exact h
    · exact h

theorem execEvict_keeps {s t : State} (h : Keeps s t) : KeepsOut s (execEvict t) := by
  delta execEvict
  repeat' first
    | with_reducible first
      | assumption | apply KeepsOut.next | apply State.abandonAhead_keeps | apply State.flashTake_keeps
      | apply State.flashSweep_keeps | apply State.flashStart_keeps | apply State.unstage_keeps
      | apply State.flashDone_keeps | intro _
    | (fail_if_no_progress extract_lets +onlyGivenNames z
       first
         | (with_reducible refine keeps_cut (p := Keeps s z) ?_ ?_
            on_goal 2 => (intro _; clear_value z)
            on_goal 1 => try dsimp -zeta only [z])
         | clear_value z | skip)
    | split

theorem execDelete_keeps {s t : State} (h : Keeps s t) : KeepsOut s (execDelete t) := by
  delta execDelete
  repeat' first
    | with_reducible first
      | assumption | apply KeepsOut.next | apply State.setUsed_keeps | apply State.setSlot_keeps
      | apply State.eraseUnused_keeps | apply State.flashStart_keeps | intro _
    | (fail_if_no_progress extract_lets +onlyGivenNames z
       first
         | (with_reducible refine keeps_cut (p := Keeps s z) ?_ ?_
            on_goal 2 => (intro _; clear_value z)
            on_goal 1 => try dsimp -zeta only [z])
         | clear_value z | skip)
    | split

theorem execSetEvict_keeps {s t : State} (h : Keeps s t) : KeepsOut s (execSetEvict t) := by
  delta execSetEvict
  repeat' first
    | with_reducible first
      | assumption | apply KeepsOut.next | apply State.setSlot_keeps | apply State.dirtyAll_keeps
      | apply State.flashStart_keeps | intro _ | fail_if_no_progress apply mk_keeps
    | (fail_if_no_progress extract_lets +onlyGivenNames z
       first
         | (with_reducible refine keeps_cut (p := Keeps s z) ?_ ?_
            on_goal 2 => (intro _; clear_value z)
            on_goal 1 => try dsimp -zeta only [z])
         | clear_value z | skip)
    | split

theorem State.channelUp_keeps {s t : State} (h : Keeps s t) (c : Nat) : Keeps s (State.channelUp t c) := by
  delta State.channelUp
  repeat' first
    | with_reducible first
      | assumption | apply State.showChannel_keeps | apply State.eraseUnused_keeps | apply State.setFlash_keeps
      | intro _ | fail_if_no_progress apply mk_keeps
    | split

theorem State.flashApplied_keeps {s t : State} (h : Keeps s t) (old : Word) : Keeps s (State.flashApplied t old) := by
  delta State.flashApplied
  repeat' first
    | with_reducible first
      | assumption | apply State.channelUp_keeps | apply State.channelDown_keeps | apply foldl_keeps | intro _
    | (fail_if_no_progress extract_lets +onlyGivenNames z
       first
         | (with_reducible refine keeps_cut (p := Keeps s z) ?_ ?_
            on_goal 2 => (intro _; clear_value z)
            on_goal 1 => try dsimp -zeta only [z])
         | clear_value z | skip)
    | split

theorem State.controlRsp_keeps {s t : State} (h : Keeps s t) (ep cmd : Nat) (body : List Byte) : Keeps s
    (State.controlRsp t ep cmd body) := by
  delta State.controlRsp
  repeat' first
    | with_reducible first
      | assumption | apply State.emit_keeps

theorem State.pldmRsp_keeps {s t : State} (h : Keeps s t) (ep cmd code : Nat) (body : List Byte) : Keeps s
    (State.pldmRsp t ep cmd code body) := by
  delta State.pldmRsp
  repeat' first
    | with_reducible first
      | assumption | apply State.emit_keeps

theorem State.requestData_keeps {s t : State} (h : Keeps s t) : Keeps s (State.requestData t) := by
  delta State.requestData
  repeat' first
    | with_reducible first
      | assumption | apply State.emit_keeps
    | split

theorem execRequestUpdate_keeps {s t : State} (h : Keeps s t) (ep : Nat) : KeepsOut s (execRequestUpdate ep t) := by
  delta execRequestUpdate
  repeat' first
    | with_reducible first
      | assumption | apply KeepsOut.next | apply State.setMgmt_keeps | apply State.pldmRsp_keeps
      | apply State.requestData_keeps | fail_if_no_progress apply mk_keeps
    | split

theorem execI3cDynamicAddress_keeps {s t : State} (h : Keeps s t) (addr : Nat) : KeepsOut s
    (execI3cDynamicAddress addr t) := by
  delta execI3cDynamicAddress
  repeat' first
    | with_reducible first
      | assumption | apply KeepsOut.next | apply State.setMgmt_keeps | fail_if_no_progress apply mk_keeps

theorem State.spdmRsp_keeps {s t : State} (h : Keeps s t) (ep code : Nat) (content : List Byte) : Keeps s
    (State.spdmRsp t ep code content) := by
  delta State.spdmRsp
  repeat' first
    | with_reducible first
      | assumption | apply State.emit_keeps

theorem execGetMeasurements_keeps {s t : State} (h : Keeps s t) (ep index : Nat) (nonce : List Byte) : KeepsOut s
    (execGetMeasurements ep index nonce t) := by
  delta execGetMeasurements
  repeat' first
    | with_reducible first
      | assumption | apply KeepsOut.next | apply State.spdmRsp_keeps
    | (fail_if_no_progress extract_lets +onlyGivenNames z
       first
         | (with_reducible refine keeps_cut (p := Keeps s z) ?_ ?_
            on_goal 2 => (intro _; clear_value z)
            on_goal 1 => try dsimp -zeta only [z])
         | clear_value z | skip)
    | split

theorem execGetFirmwareParameters_keeps {s t : State} (h : Keeps s t) (ep : Nat) : KeepsOut s
    (execGetFirmwareParameters ep t) := by
  delta execGetFirmwareParameters
  repeat' first
    | with_reducible first
      | assumption | apply KeepsOut.next | apply State.pldmRsp_keeps
    | (fail_if_no_progress extract_lets +onlyGivenNames z
       first
         | (with_reducible refine keeps_cut (p := Keeps s z) ?_ ?_
            on_goal 2 => (intro _; clear_value z)
            on_goal 1 => try dsimp -zeta only [z])
         | clear_value z | skip)
    | split

theorem execChallenge_keeps {s t : State} (h : Keeps s t) (ep : Nat) (nonce : List Byte) : KeepsOut s
    (execChallenge ep nonce t) := by
  delta execChallenge
  repeat' first
    | with_reducible first
      | assumption | apply KeepsOut.next | apply State.spdmRsp_keeps
    | split

theorem execKeyUpdate_keeps {s t : State} (h : Keeps s t) (ep session : Nat) : KeepsOut s (execKeyUpdate ep
    session t) := by
  delta execKeyUpdate
  repeat' first
    | with_reducible first
      | assumption | apply KeepsOut.next | apply State.setMgmt_keeps | apply State.spdmRsp_keeps | intro _
      | fail_if_no_progress apply mk_keeps
    | (fail_if_no_progress extract_lets +onlyGivenNames z
       first
         | (with_reducible refine keeps_cut (p := Keeps s z) ?_ ?_
            on_goal 2 => (intro _; clear_value z)
            on_goal 1 => try dsimp -zeta only [z])
         | clear_value z | skip)
    | split

theorem execVerifyComplete_keeps {s t : State} (h : Keeps s t) (ep : Nat) (release : Nat × Nat × Nat) (svn1 svn2
    : Nat) (check : BankCheck) : KeepsOut s (execVerifyComplete ep release svn1 svn2 check t) := by
  delta execVerifyComplete
  repeat' first
    | with_reducible first
      | assumption | apply KeepsOut.next | apply State.setMgmt_keeps | apply State.pldmRsp_keeps
      | apply State.bbWrite_keeps | fail_if_no_progress apply mk_keeps
    | (fail_if_no_progress extract_lets +onlyGivenNames z
       first
         | (with_reducible refine keeps_cut (p := Keeps s z) ?_ ?_
            on_goal 2 => (intro _; clear_value z)
            on_goal 1 => try dsimp -zeta only [z])
         | clear_value z | skip)
    | split

theorem execGetVendorDefinedMessageSupport_keeps {s t : State} (h : Keeps s t) (ep : Nat) : KeepsOut s
    (execGetVendorDefinedMessageSupport ep t) := by
  delta execGetVendorDefinedMessageSupport
  repeat' first
    | with_reducible first
      | assumption | apply KeepsOut.next | apply State.controlRsp_keeps
    | split

theorem execKeyExchange_keeps {s t : State} (h : Keeps s t) (r : SessionReq) : KeepsOut s (execKeyExchange r t) := by
  delta execKeyExchange
  repeat' first
    | with_reducible first
      | assumption | apply KeepsOut.next | apply State.fresh_keeps | apply State.setMgmt_keeps
      | apply State.spdmRsp_keeps | intro _ | fail_if_no_progress apply mk_keeps
    | (fail_if_no_progress extract_lets +onlyGivenNames z
       first
         | (with_reducible refine keeps_cut (p := Keeps s z) ?_ ?_
            on_goal 2 => (intro _; clear_value z)
            on_goal 1 => try dsimp -zeta only [z])
         | clear_value z | skip)
    | split

theorem execGetMessageTypeSupport_keeps {s t : State} (h : Keeps s t) (ep : Nat) : KeepsOut s
    (execGetMessageTypeSupport ep t) := by
  delta execGetMessageTypeSupport
  repeat' first
    | with_reducible first
      | assumption | apply KeepsOut.next | apply State.controlRsp_keeps
    | split

theorem execHeartbeat_keeps {s t : State} (h : Keeps s t) (ep x1 : Nat) : KeepsOut s (execHeartbeat ep x1 t) := by
  delta execHeartbeat
  repeat' first
    | with_reducible first
      | assumption | apply KeepsOut.next | apply State.setf_keeps | apply State.vendorRsp_keeps
      | apply State.setPower_keeps | apply State.checkParkCap_keeps | apply State.powerRecord_keeps
      | fail_if_no_progress apply mk_keeps
    | (fail_if_no_progress extract_lets +onlyGivenNames z
       first
         | (with_reducible refine keeps_cut (p := Keeps s z) ?_ ?_
            on_goal 2 => (intro _; clear_value z)
            on_goal 1 => try dsimp -zeta only [z])
         | clear_value z | skip)
    | split

theorem execGetEndpointId_keeps {s t : State} (h : Keeps s t) (ep : Nat) : KeepsOut s (execGetEndpointId ep t) := by
  delta execGetEndpointId
  repeat' first
    | with_reducible first
      | assumption | apply KeepsOut.next | apply State.controlRsp_keeps
    | split

theorem execSpdmHeartbeat_keeps {s t : State} (h : Keeps s t) (ep session : Nat) : KeepsOut s (execSpdmHeartbeat
    ep session t) := by
  delta execSpdmHeartbeat
  repeat' first
    | with_reducible first
      | assumption | apply KeepsOut.next | apply State.spdmRsp_keeps | intro _
    | split

theorem execSetEndpointId_keeps {s t : State} (h : Keeps s t) (ep eid : Nat) : KeepsOut s (execSetEndpointId ep
    eid t) := by
  delta execSetEndpointId
  repeat' first
    | with_reducible first
      | assumption | apply KeepsOut.next | apply State.controlRsp_keeps | apply State.setMgmt_keeps
      | fail_if_no_progress apply mk_keeps
    | (fail_if_no_progress extract_lets +onlyGivenNames z
       first
         | (with_reducible refine keeps_cut (p := Keeps s z) ?_ ?_
            on_goal 2 => (intro _; clear_value z)
            on_goal 1 => try dsimp -zeta only [z])
         | clear_value z | skip)
    | split

theorem execFirmwareData_keeps {s t : State} (h : Keeps s t) (data : List Byte) : KeepsOut s (execFirmwareData
    data t) := by
  delta execFirmwareData
  repeat' first
    | with_reducible first
      | assumption | apply KeepsOut.next | apply State.setMgmt_keeps | apply State.requestData_keeps
      | fail_if_no_progress apply mk_keeps
    | (fail_if_no_progress extract_lets +onlyGivenNames z
       first
         | (with_reducible refine keeps_cut (p := Keeps s z) ?_ ?_
            on_goal 2 => (intro _; clear_value z)
            on_goal 1 => try dsimp -zeta only [z])
         | clear_value z | skip)
    | split

theorem execGetCertificate_keeps {s t : State} (h : Keeps s t) (ep off len : Nat) : KeepsOut s
    (execGetCertificate ep off len t) := by
  delta execGetCertificate
  repeat' first
    | with_reducible first
      | assumption | apply KeepsOut.next | apply State.spdmRsp_keeps
    | split

theorem execGetSensorReading_keeps {s t : State} (h : Keeps s t) (ep n : Nat) : KeepsOut s (execGetSensorReading
    ep n t) := by
  delta execGetSensorReading
  repeat' first
    | with_reducible first
      | assumption | apply KeepsOut.next | apply State.emit_keeps
    | split

theorem execGetMctpVersionSupport_keeps {s t : State} (h : Keeps s t) (ep : Nat) : KeepsOut s
    (execGetMctpVersionSupport ep t) := by
  delta execGetMctpVersionSupport
  repeat' first
    | with_reducible first
      | assumption | apply KeepsOut.next | apply State.controlRsp_keeps | apply State.fresh_keeps
    | split

theorem execSetEventReceiver_keeps {s t : State} (h : Keeps s t) (ep eid : Nat) : KeepsOut s
    (execSetEventReceiver ep eid t) := by
  delta execSetEventReceiver
  repeat' first
    | with_reducible first
      | assumption | apply KeepsOut.next | apply State.setMgmt_keeps | apply State.pldmRsp_keeps
      | fail_if_no_progress apply mk_keeps
    | split

theorem State.loseContents_keeps {s t : State} (h : Keeps s t) (d : Nat) : Keeps s (t.loseContents d) := by
  unfold State.loseContents
  split
  · exact State.setTraceQ_keeps (mk_keeps h) _
  · split
    · dsimp only
      refine foldl_keeps ?_ fun u x k => ?_
      · have k : Keeps s (t.setHbm (t.hbm.loseDie (d - 16))) := State.setHbm_keeps h (Hbm.loseDie_wf _)
        split
        · exact State.setf_keeps (State.setf_keeps k _ _ _) _ _ _
        · exact k
      · split
        · exact State.setf_keeps (State.setf_keeps k _ _ _) _ _ _
        · exact k
    · split
      · exact mk_keeps h
      · split
        · exact foldl_keeps (mk_keeps (State.setHost_keeps h _)) fun u x k => State.ledgerOff_keeps k _
        · exact State.setFlash_keeps h _

theorem State.resetWhere_keeps {s t : State} (h : Keeps s t) (f : Nat → Bool) : Keeps s (t.resetWhere f) := by
  refine State.setRegs_keeps h fun k => ?_
  rw [Regs.wf_mk] at *
  exact ⟨tabWf_filter _ k.1, tabWf_filter _ k.2.1, tabWf_filter _ k.2.2.1, tabWf_filter _ k.2.2.2⟩

theorem State.switchOff_keeps {s t : State} (h : Keeps s t) (d : Nat) : Keeps s (State.switchOff t d) := by
  delta State.switchOff
  repeat' first
    | with_reducible first
      | assumption | apply State.loseContents_keeps | apply State.resetWhere_keeps | apply State.setv_keeps
      | apply State.setSupply_keeps | intro _
    | (fail_if_no_progress extract_lets +onlyGivenNames z
       first
         | (with_reducible refine keeps_cut (p := Keeps s z) ?_ ?_
            on_goal 2 => (intro _; clear_value z)
            on_goal 1 => try dsimp -zeta only [z])
         | clear_value z | skip)
    | split

theorem State.testEdges_keeps {s t : State} (h : Keeps s t) (die : Nat) (codes : List Nat) : Keeps s
    (State.testEdges t die codes) := by
  delta State.testEdges
  repeat' first
    | with_reducible first
      | assumption | apply State.setf_keeps | apply foldl_keeps | apply foldl_fst_keeps | apply foldl_snd_keeps
      | intro _
    | split

theorem State.trainDie_keeps {s t : State} (h : Keeps s t) (x1 : Nat) (codes : List Nat) : Keeps s
    (State.trainDie t x1 codes) := by
  delta State.trainDie
  repeat' first
    | with_reducible first
      | assumption | apply State.setf_keeps | apply State.setv_keeps | apply foldl_keeps | intro _
    | (fail_if_no_progress extract_lets +onlyGivenNames z
       first
         | (with_reducible refine keeps_cut (p := Keeps s z) ?_ ?_
            on_goal 2 => (intro _; clear_value z)
            on_goal 1 => try dsimp -zeta only [z])
         | clear_value z | skip)
    | split

theorem State.domainUsable_keeps {s t : State} (h : Keeps s t) (d : Nat) (codes : List Nat) : Keeps s
    (State.domainUsable t d codes) := by
  delta State.domainUsable
  repeat' first
    | with_reducible first
      | assumption | apply State.enterPort_keeps | apply State.testEdges_keeps | apply State.mountLibrary_keeps
      | apply State.setv_keeps | apply State.setSupply_keeps | apply State.trainDie_keeps | apply foldl_keeps
      | intro _
    | (fail_if_no_progress extract_lets +onlyGivenNames z
       first
         | (with_reducible refine keeps_cut (p := Keeps s z) ?_ ?_
            on_goal 2 => (intro _; clear_value z)
            on_goal 1 => try dsimp -zeta only [z])
         | clear_value z | skip)
    | split

theorem State.loseParts_keeps {s t : State} (h : Keeps s t) : Keeps s (State.loseParts t) := by
  delta State.loseParts
  repeat' first
    | with_reducible first
      | assumption | apply State.setf_keeps
      | (refine State.setSeal_keeps ?_ ?_ ?_ ?_; on_goal 2 => (with_unfolding_all exact Nat.le_refl _); on_goal 2 => (with_unfolding_all exact id); on_goal 2 => (with_unfolding_all exact Nat.le_refl _))
      | apply State.setv_keeps | apply foldl_keeps | apply foldl_fst_keeps | apply foldl_snd_keeps | intro _
      | apply State.setSwapKeys_keeps | fail_if_no_progress apply mk_keeps
    | (fail_if_no_progress extract_lets +onlyGivenNames z
       first
         | (with_reducible refine keeps_cut (p := Keeps s z) ?_ ?_
            on_goal 2 => (intro _; clear_value z)
            on_goal 1 => try dsimp -zeta only [z])
         | (with_reducible refine keeps_cut (p := z = (z : Seal) ∨ True) (.inr trivial) ?_; intro _)
         | clear_value z | skip)
    | split

theorem State.switchOffAll_keeps {s t : State} (h : Keeps s t) (ds : List Nat) : Keeps s (State.switchOffAll t ds) := by
  delta State.switchOffAll
  repeat' first
    | with_reducible first
      | assumption | apply State.switchOff_keeps | apply foldl_keeps | intro _

theorem execModResetNAssert_keeps {s t : State} (h : Keeps s t) : KeepsOut s (execModResetNAssert t) := by
  delta execModResetNAssert
  repeat' first
    | with_reducible first
      | assumption | apply KeepsOut.next | apply State.setMgmt_keeps | apply State.loseParts_keeps
      | apply State.switchOffAll_keeps | apply State.setPower_keeps | intro _ | fail_if_no_progress apply mk_keeps
    | (fail_if_no_progress extract_lets +onlyGivenNames z
       first
         | (with_reducible refine keeps_cut (p := Keeps s z) ?_ ?_
            on_goal 2 => (intro _; clear_value z)
            on_goal 1 => try dsimp -zeta only [z])
         | clear_value z | skip)
    | split

theorem execAllPowerLost_holds (t : State) : HoldsOut t (execAllPowerLost t) := by
  unfold execAllPowerLost
  dsimp only
  refine .next (rebuilt_holds rfl rfl rfl ⟨Nat.le_refl _, id, Nat.le_refl _, ?_⟩)
  dsimp only [BBox.powerOff]
  split
  · exact Nat.le_of_eq (BBox.write_boots _ _ _).symm
  · exact Nat.le_refl _

theorem State.mountBBox_keeps {s t : State} (h : Keeps s t) : Keeps s t.mountBBox :=
  State.setf_keeps (State.showBBox_keeps (State.setBBox_keeps h (Nat.le_succ _))) _ _ _

theorem State.restart_holds (t : State) : Holds t t.restart :=
  rebuilt_holds rfl rfl rfl ⟨Nat.le_refl _, id, Nat.le_refl _, Nat.le_refl _⟩

theorem State.fwFailed_keeps {s t : State} (h : Keeps s t) (b : FwBank) (c : BankCheck) : Keeps s (State.fwFailed
    t b c) := by
  delta State.fwFailed
  repeat' first
    | with_reducible first
      | assumption | apply State.bbWrite_keeps
    | (fail_if_no_progress extract_lets +onlyGivenNames z
       first
         | (with_reducible refine keeps_cut (p := Keeps s z) ?_ ?_
            on_goal 2 => (intro _; clear_value z)
            on_goal 1 => try dsimp -zeta only [z])
         | clear_value z | skip)
    | split

theorem State.bootRecord_keeps {s t : State} (h : Keeps s t) (recovery : Bool) : Keeps s (State.bootRecord t
    recovery) := by
  delta State.bootRecord
  repeat' first
    | with_reducible first
      | assumption | apply State.bbWrite_keeps
    | (fail_if_no_progress extract_lets +onlyGivenNames z
       first
         | (with_reducible refine keeps_cut (p := Keeps s z) ?_ ?_
            on_goal 2 => (intro _; clear_value z)
            on_goal 1 => try dsimp -zeta only [z])
         | clear_value z | skip)
    | split

theorem State.showFw_keeps {s t : State} (h : Keeps s t) (recovery : Bool) : Keeps s (State.showFw t recovery) := by
  delta State.showFw
  repeat' first
    | with_reducible first
      | assumption | apply State.setf_keeps
    | (fail_if_no_progress extract_lets +onlyGivenNames z
       first
         | (with_reducible refine keeps_cut (p := Keeps s z) ?_ ?_
            on_goal 2 => (intro _; clear_value z)
            on_goal 1 => try dsimp -zeta only [z])
         | clear_value z | skip)
    | split

theorem execStartUp_holds (t : State) (a b : BankCheck) : HoldsOut t (execStartUp a b t) := by
  unfold execStartUp
  split
  · exact .next (State.setPower_keeps (Keeps.refl t) _).toHolds
  · have hr := State.restart_holds t
    generalize t.restart = v at hr
    extract_lets t0 t1 t2 m pick first f g ok1 ok2 t3 t4 run src t5 t6 dead
    have hr : Holds t t0 := hr
    clear_value t0
    have h0 : Keeps t0 t0 := Keeps.refl _
    have h1 : Keeps t0 t1 := State.setf_keeps (State.setf_keeps h0 _ _ _) _ _ _
    clear_value t1
    have h2 : Keeps t0 t2 := State.setf_keeps (State.mountBBox_keeps h1) _ _ _
    clear_value t2
    have h3 : Keeps t0 t3 := by
      unfold t3
      split
      · exact h2
      · exact State.fwFailed_keeps h2 _ _
    clear_value t3
    have h4 : Keeps t0 t4 := by
      unfold t4
      split
      · exact h3
      · exact State.fwFailed_keeps h3 _ _
    clear_value t4
    have h5 : Keeps t0 t5 := State.setMgmt_keeps h4 _
    have h6 : Keeps t0 t6 := State.setf_keeps (State.setf_keeps h5 _ _ _) _ _ _
    clear_value t6
    exact .next (hr.trans (State.setStage_keeps (State.bootRecord_keeps (State.showFw_keeps h6 _) _) _).toHolds)

theorem execControlledStop_keeps {s t : State} (h : Keeps s t) (trigger : Nat) : KeepsOut s (execControlledStop
    trigger t) := by
  unfold execControlledStop
  split
  · exact .next h
  · extract_lets a b c d
    have ka : Keeps s a := State.switchOffAll_keeps (State.loseParts_keeps (State.setf_keeps h _ _ _)) _
    have kc : Keeps s c := State.drainBBox_keeps (State.bbWrite_keeps ka _ _ _ _)
    exact .next (State.platformEvent_keeps (State.setMgmt_keeps (State.switchOffAll_keeps (State.setSave_keeps kc) _) _) _ _)

theorem execDomainUsable_keeps {s t : State} (h : Keeps s t) (d : Nat) (codes : List Nat) : KeepsOut s
    (execDomainUsable d codes t) := by
  delta execDomainUsable
  repeat' first
    | with_reducible first
      | assumption | apply KeepsOut.next | apply State.domainUsable_keeps
    | split

theorem execActivateFirmware_keeps {s t : State} (h : Keeps s t) (ep : Nat) (selfContained : Bool) : KeepsOut s
    (execActivateFirmware ep selfContained t) := by
  delta execActivateFirmware
  repeat' first
    | with_reducible first
      | assumption | apply KeepsOut.next | apply State.setf_keeps | apply State.setMgmt_keeps
      | apply State.setStage_keeps | apply State.pldmRsp_keeps | fail_if_no_progress apply mk_keeps
    | (fail_if_no_progress extract_lets +onlyGivenNames z
       first
         | (with_reducible refine keeps_cut (p := Keeps s z) ?_ ?_
            on_goal 2 => (intro _; clear_value z)
            on_goal 1 => try dsimp -zeta only [z])
         | clear_value z | skip)
    | split

theorem execHardwareTrip_keeps {s t : State} (h : Keeps s t) (source junction : Nat) : KeepsOut s
    (execHardwareTrip source junction t) := by
  delta execHardwareTrip
  repeat' first
    | with_reducible first
      | assumption | apply KeepsOut.next | apply State.setf_keeps | apply State.setMgmt_keeps
      | apply State.loseParts_keeps | apply State.switchOffAll_keeps | apply State.bbWrite_keeps
      | apply State.platformEvent_keeps | apply State.setPower_keeps | apply State.drainBBox_keeps
      | fail_if_no_progress apply mk_keeps
    | (fail_if_no_progress extract_lets +onlyGivenNames z
       first
         | (with_reducible refine keeps_cut (p := Keeps s z) ?_ ?_
            on_goal 2 => (intro _; clear_value z)
            on_goal 1 => try dsimp -zeta only [z])
         | clear_value z | skip)
    | split

theorem execMainInputStable_keeps {s t : State} (h : Keeps s t) (training edgeFail dies : List Nat) (trngOk : Bool) :
    KeepsOut s (execMainInputStable training edgeFail dies trngOk t) := by
  unfold execMainInputStable
  extract_lets stage t1 t2 t3 t4 t5 t6 t7 src t8
  split
  · exact .next h
  · split
    · exact .next (State.setv_keeps h _ _ _)
    · split
      · exact .next h
      · have h1 : Keeps s t1 := State.setStage_keeps (State.setAll_keeps h _ _ _) _
        clear_value t1
        have h2 : Keeps s t2 := State.domainUsable_keeps h1 _ _
        have h3 : Keeps s t3 := State.domainUsable_keeps h2 _ _
        clear_value t3
        have h4 : Keeps s t4 := foldl_keeps h3 fun u x k => State.domainUsable_keeps k _ _
        clear_value t4
        have h5 : Keeps s t5 := foldl_keeps h4 fun u x k => State.setf_keeps (State.setf_keeps k _ _ _) _ _ _
        clear_value t5
        have h6 : Keeps s t6 := foldl_keeps h5 fun u x k => State.domainUsable_keeps k _ _
        clear_value t6
        have h7 : Keeps s t7 := foldl_keeps h6 fun u x k => State.domainUsable_keeps k _ _
        clear_value t7
        have h8 : Keeps s t8 := State.setf_keeps (State.setTrngFail_keeps h7 _) _ _ _
        clear_value t8
        split
        · exact .next (State.setStage_keeps (State.setf_keeps h8 _ _ _) _)
        · exact .next h8

theorem State.readReg_keeps {s t : State} (h : Keeps s t) (a width : Nat) : Keeps s (State.readReg t a width).1 := by
  delta State.readReg
  repeat' first
    | with_reducible first
      | assumption | apply State.noteMiss_keeps
    | (fail_if_no_progress extract_lets +onlyGivenNames z
       first
         | (with_reducible refine keeps_cut (p := Keeps s z) ?_ ?_
            on_goal 2 => (intro _; clear_value z)
            on_goal 1 => try dsimp -zeta only [z])
         | clear_value z | skip)
    | split

theorem State.applyHbm_keeps {s t : State} (h : Keeps s t) (d : Nat) : Keeps s (State.applyHbm t d) := by
  delta State.applyHbm
  repeat' first
    | with_reducible first
      | assumption | (refine State.setHbm_cells_keeps ?_ ?_; on_goal 2 => (with_unfolding_all rfl))
      | apply State.takePending_keeps | fail_if_no_progress apply mk_keeps
    | (fail_if_no_progress extract_lets +onlyGivenNames z
       first
         | (with_reducible refine keeps_cut (p := Keeps s z) ?_ ?_
            on_goal 2 => (intro _; clear_value z)
            on_goal 1 => try dsimp -zeta only [z])
         | (with_reducible refine keeps_cut (p := z = (z : Hbm) ∨ True) (.inr trivial) ?_; intro _)
         | clear_value z | skip)
    | split

theorem State.applyTime_keeps {s t : State} (h : Keeps s t) : Keeps s (State.applyTime t) := by
  delta State.applyTime
  repeat' first
    | with_reducible first
      | assumption | apply State.setPart_keeps | apply State.takePending_keeps | apply State.setv_keeps
      | apply foldl_keeps | intro _
    | split

theorem State.addSegment_keeps {s t : State} (h : Keeps s t) (p n : Nat) : Keeps s (State.addSegment t p n) := by
  delta State.addSegment
  repeat' first
    | with_reducible first
      | assumption | apply State.setf_keeps | apply State.setPart_keeps | apply State.setTag_keeps
      | apply foldl_keeps | apply foldl_fst_keeps | apply foldl_snd_keeps | intro _
      | fail_if_no_progress apply mk_keeps
    | (fail_if_no_progress extract_lets +onlyGivenNames z
       first
         | (with_reducible refine keeps_cut (p := Keeps s z) ?_ ?_
            on_goal 2 => (intro _; clear_value z)
            on_goal 1 => try dsimp -zeta only [z])
         | clear_value z | skip)
    | split

theorem execCommitGo_keeps {s t : State} (h : Keeps s t) (base token : Nat) : KeepsOut s (execCommitGo base token t) := by
  delta execCommitGo
  repeat' first
    | with_reducible first
      | assumption | apply KeepsOut.next | apply State.commitGo_keeps | apply State.noteMiss_keeps
    | split

theorem execCommitCancel_keeps {s t : State} (h : Keeps s t) (base : Nat) : KeepsOut s (execCommitCancel base t) := by
  delta execCommitCancel
  repeat' first
    | with_reducible first
      | assumption | apply KeepsOut.next | apply State.commitCancel_keeps | apply State.noteMiss_keeps
    | split

theorem State.applyOptic_keeps {s t : State} (h : Keeps s t) (x1 : Nat) : Keeps s (State.applyOptic t x1) := by
  delta State.applyOptic
  repeat' first
    | with_reducible first
      | assumption | apply State.applyPortCtl_keeps | apply State.takePending_keeps | apply foldl_keeps | intro _
    | split

theorem State.setSpill_keeps {s t : State} (h : Keeps s t) (p : Nat) : Keeps s (State.setSpill t p) := by
  delta State.setSpill
  repeat' first
    | with_reducible first
      | assumption | apply State.setPart_keeps
    | (fail_if_no_progress extract_lets +onlyGivenNames z
       first
         | (with_reducible refine keeps_cut (p := Keeps s z) ?_ ?_
            on_goal 2 => (intro _; clear_value z)
            on_goal 1 => try dsimp -zeta only [z])
         | clear_value z | skip)

theorem State.applyServe_keeps {s t : State} (h : Keeps s t) : Keeps s (State.applyServe t) := by
  delta State.applyServe
  repeat' first
    | with_reducible first
      | assumption | apply State.setPart_keeps | apply State.setSpill_keeps | apply State.takePending_keeps
      | apply foldl_keeps | intro _
    | split

theorem State.applySeal_keeps {s t : State} (h : Keeps s t) : Keeps s (State.applySeal t) := by
  delta State.applySeal
  repeat' first
    | with_reducible first
      | assumption | apply State.lockDebug_keeps | apply State.takePending_keeps | apply foldl_keeps | intro _
    | (fail_if_no_progress extract_lets +onlyGivenNames z
       first
         | (with_reducible refine keeps_cut (p := Keeps s z) ?_ ?_
            on_goal 2 => (intro _; clear_value z)
            on_goal 1 => try dsimp -zeta only [z])
         | clear_value z | skip)
    | split

theorem State.setReturns_keeps {s t : State} (h : Keeps s t) (x : Tab (Option Nat)) :
    Keeps s (t.setHbm { t.hbm with returns := x }) := State.setHbm_cells_keeps h rfl

theorem State.dropSegment_keeps {s t : State} (h : Keeps s t) (p n : Nat) (g : SegRow) : Keeps s (t.dropSegment p n g) := by
  unfold State.dropSegment
  extract_lets x inSeg held t1 src t2 t3 t4
  have h4 : Keeps s t4 :=
    State.dirtyAll_keeps (State.recall_keeps (State.setReturns_keeps (State.setPart_keeps h _ _) _) _) _
  clear_value t4
  split
  · exact h4
  · exact State.setf_keeps h4 _ _ _

theorem State.applyGroup_keeps {s t : State} (h : Keeps s t) (p : Nat) (before : State) (h2 : Keeps s before) :
    Keeps s (State.applyGroup t p before) := by
  delta State.applyGroup
  repeat' first
    | with_reducible first
      | assumption | apply State.setPart_keeps | apply State.ledgerOff_keeps | apply State.ledgerOn_keeps
      | apply State.wakeLedger_keeps | apply State.dropSegment_keeps | apply State.addSegment_keeps
      | apply foldl_keeps | intro _
    | (fail_if_no_progress extract_lets +onlyGivenNames z
       first
         | (with_reducible refine keeps_cut (p := Keeps s z) ?_ ?_
            on_goal 2 => (intro _; clear_value z)
            on_goal 1 => try dsimp -zeta only [z])
         | clear_value z | skip)
    | split

theorem State.applyHost_keeps {s t : State} (h : Keeps s t) : Keeps s (State.applyHost t) := by
  delta State.applyHost
  repeat' first
    | with_reducible first
      | assumption | apply State.applyGroup_keeps | apply State.takePending_keeps | apply foldl_keeps | intro _
    | split

theorem State.assignSites_keeps {s t : State} (h : Keeps s t) (p : Nat) (sites : List Nat) : Keeps s
    (State.assignSites t p sites) := by
  delta State.assignSites
  repeat' first
    | with_reducible first
      | assumption | apply State.setf_keeps | apply foldl_keeps | intro _
    | split

theorem State.form_keeps {s t : State} (h : Keeps s t) (p : Nat) : Keeps s (t.form p) := by
  unfold State.form
  refine State.partRecord_keeps (State.showPlates_keeps (State.setSpill_keeps (State.fresh_keeps
    (State.setSwapKeys_keeps ?_ _)) _) _) _ _
  refine State.setf_keeps (State.setv_keeps (State.setTree_keeps (State.setv_keeps (State.setf_keeps (State.setf_keeps
    ?_ _ _ _) _ _ _) _ _ _) _) _ _ _) _ _ _
  exact State.assignSites_keeps (State.setPart_keeps h _ _) _ _

theorem State.moveBorder_keeps {s t : State} (h : Keeps s t) (p : Nat) (old : List Nat) : Keeps s
    (State.moveBorder t p old) := by
  delta State.moveBorder
  repeat' first
    | with_reducible first
      | assumption | apply State.releaseSites_keeps | apply State.dropPlates_keeps | apply State.setSpill_keeps
      | apply State.partRecord_keeps | apply State.assignSites_keeps | apply State.setTree_keeps | intro _
    | (fail_if_no_progress extract_lets +onlyGivenNames z
       first
         | (with_reducible refine keeps_cut (p := Keeps s z) ?_ ?_
            on_goal 2 => (intro _; clear_value z)
            on_goal 1 => try dsimp -zeta only [z])
         | clear_value z | skip)
    | split

theorem State.applyPart_keeps {s t : State} (h : Keeps s t) (p : Nat) : Keeps s (State.applyPart t p) := by
  delta State.applyPart
  repeat' first
    | with_reducible first
      | assumption | apply State.kill_keeps | apply State.form_keeps | apply State.setSpill_keeps
      | apply State.moveBorder_keeps | apply State.takePending_keeps | apply State.setTree_keeps
      | apply State.commitEnd_keeps
    | (fail_if_no_progress extract_lets +onlyGivenNames z
       first
         | (with_reducible refine keeps_cut (p := Keeps s z) ?_ ?_
            on_goal 2 => (intro _; clear_value z)
            on_goal 1 => try dsimp -zeta only [z])
         | clear_value z | skip)
    | split

theorem State.applyFlash_keeps {s t : State} (h : Keeps s t) : Keeps s (State.applyFlash t) := by
  delta State.applyFlash
  repeat' first
    | with_reducible first
      | assumption | apply State.flashApplied_keeps | apply State.takePending_keeps
    | (fail_if_no_progress extract_lets +onlyGivenNames z
       first
         | (with_reducible refine keeps_cut (p := Keeps s z) ?_ ?_
            on_goal 2 => (intro _; clear_value z)
            on_goal 1 => try dsimp -zeta only [z])
         | clear_value z | skip)

theorem State.applyPower_keeps {s t : State} (h : Keeps s t) : Keeps s t.applyPower := by
  unfold State.applyPower
  extract_lets off t1 t2 t3 t4 t5
  have h1 : Keeps s t1 := State.takePending_keeps h _ _
  clear_value t1
  have h2 : Keeps s t2 := by
    unfold t2
    split
    · exact h1
    · exact State.applyCap_keeps h1
  have h3 : Keeps s t3 := State.checkParkCap_keeps h2
  clear_value t3
  have h4 : Keeps s t4 := by
    unfold t4
    split
    · exact State.setSave_keeps h3
    · exact h3
  have h5 : Keeps s t5 := State.switchOffAll_keeps h4 _
  clear_value t5
  split
  · exact State.setStage_keeps h5 _
  · exact h5

theorem State.commitApply_keeps {s t : State} (h : Keeps s t) (r : Rg) (ix : List Nat) : Keeps s
    (State.commitApply t r ix) := by
  delta State.commitApply
  repeat' first
    | with_reducible first
      | assumption | apply State.applyTime_keeps | apply State.applyHbm_keeps | apply State.applyOptic_keeps
      | apply State.applyServe_keeps | apply State.commitSite_keeps | apply State.applySeal_keeps
      | apply State.applyHost_keeps | apply State.applyPart_keeps | apply State.applyFlash_keeps
      | apply State.takePending_keeps | apply State.applyPower_keeps | apply State.commitEnd_keeps
    | (fail_if_no_progress extract_lets +onlyGivenNames z
       first
         | (with_reducible refine keeps_cut (p := Keeps s z) ?_ ?_
            on_goal 2 => (intro _; clear_value z)
            on_goal 1 => try dsimp -zeta only [z])
         | clear_value z | skip)
    | split

theorem State.commitBoundary_keeps {s t : State} (h : Keeps s t) (r : Rg) (ix : List Nat) : Keeps s
    (State.commitBoundary t r ix) := by
  delta State.commitBoundary
  repeat' first
    | with_reducible first
      | assumption | apply State.commitApply_keeps | apply State.commitEnd_keeps
    | split

theorem execCommitBoundary_keeps {s t : State} (h : Keeps s t) (base : Nat) : KeepsOut s (execCommitBoundary base t) := by
  delta execCommitBoundary
  repeat' first
    | with_reducible first
      | assumption | apply KeepsOut.next | apply State.commitBoundary_keeps
    | split

theorem landed_keeps {s t : State} (h : Keeps s t) {o : Host.Outcome State Fault Refusal} (k : KeepsOut s o) :
    Keeps s (landed o t) := by
  cases k with
  | next h => exact h

theorem State.dbgCtlWrite_keeps {s t : State} (h : Keeps s t) (p : Nat) (w : Word) : Keeps s (State.dbgCtlWrite t
    p w) := by
  delta State.dbgCtlWrite
  repeat' first
    | with_reducible first
      | assumption | apply execDebugLock_keeps | apply landed_keeps | apply execDebugUnlock_keeps
      | apply execDebugSet_keeps
    | (fail_if_no_progress extract_lets +onlyGivenNames z
       first
         | (with_reducible refine keeps_cut (p := Keeps s z) ?_ ?_
            on_goal 2 => (intro _; clear_value z)
            on_goal 1 => try dsimp -zeta only [z])
         | clear_value z | skip)
    | split

theorem State.clrWrite_keeps {s t : State} (h : Keeps s t) (token : Nat) (block : Option (List Byte)) : Keeps s
    (State.clrWrite t token block) := by
  delta State.clrWrite
  repeat' first
    | with_reducible first
      | assumption | apply State.setf_keeps | apply landed_keeps | apply State.sealRecord_keeps
      | apply execClear_keeps | apply State.clearDone_keeps
    | split

theorem State.writePlain_keeps {s t : State} (h : Keeps s t) (r : Rg) (ix : List Nat) (w m : Word) : Keeps s
    (State.writePlain t r ix w m) := by
  delta State.writePlain
  repeat' first
    | with_reducible first
      | assumption | apply State.sets_keeps | apply State.setv_keeps
    | (fail_if_no_progress extract_lets +onlyGivenNames z
       first
         | (with_reducible refine keeps_cut (p := Keeps s z) ?_ ?_
            on_goal 2 => (intro _; clear_value z)
            on_goal 1 => try dsimp -zeta only [z])
         | clear_value z | skip)
    | split

theorem execRegRead_keeps {s t : State} (h : Keeps s t) (ep off : Nat) : KeepsOut s (execRegRead ep off t) := by
  delta execRegRead
  repeat' first
    | with_reducible first
      | assumption | apply KeepsOut.next | apply State.readReg_keeps | apply State.vendorRsp_keeps
    | (fail_if_no_progress extract_lets +onlyGivenNames z
       first
         | (with_reducible refine keeps_cut (p := Keeps s z) ?_ ?_
            on_goal 2 => (intro _; clear_value z)
            on_goal 1 => try dsimp -zeta only [z])
         | (with_reducible refine keeps_cut (p := Keeps s z.1) ?_ ?_
            on_goal 2 => (intro _)
            on_goal 1 => try dsimp -zeta only [z])
         | clear_value z | skip)
    | split

theorem State.sealCmdRun_keeps {s t : State} (h : Keeps s t) (token : Nat) (b : List Byte) : Keeps s
    (State.sealCmdRun t token b) := by
  delta State.sealCmdRun
  repeat' first
    | with_reducible first
      | assumption | apply landed_keeps | apply execTakeOwnership_keeps | apply execRevoke_keeps
      | apply execEnrol_keeps | apply execSvnCommit_keeps | apply State.blockRead_keeps
      | apply State.sealDone_keeps | apply execRelease_keeps
    | (fail_if_no_progress extract_lets +onlyGivenNames z
       first
         | (with_reducible refine keeps_cut (p := Keeps s z) ?_ ?_
            on_goal 2 => (intro _; clear_value z)
            on_goal 1 => try dsimp -zeta only [z])
         | clear_value z | skip)
    | split

theorem State.commitWrite_keeps {s t : State} (h : Keeps s t) (base : Nat) (w : Word) : Keeps s
    (State.commitWrite t base w) := by
  delta State.commitWrite
  repeat' first
    | with_reducible first
      | assumption | apply State.commitCancel_keeps | apply State.commitGo_keeps
    | split

theorem State.sealCmdWrite_keeps {s t : State} (h : Keeps s t) (token : Nat) (block : Option (List Byte)) : Keeps
    s (State.sealCmdWrite t token block) := by
  delta State.sealCmdWrite
  repeat' first
    | with_reducible first
      | assumption | apply State.setf_keeps | apply State.sealCmdRun_keeps
    | split

theorem State.writeWo_keeps {s t : State} (h : Keeps s t) (r : Rg) (ix : List Nat) (w : Word) (block : Option
    (List Byte)) : Keeps s (State.writeWo t r ix w block) := by
  delta State.writeWo
  repeat' first
    | with_reducible first
      | assumption | apply execCmdAck_keeps | apply execMuArmWrite_keeps | apply State.commitWrite_keeps
      | apply execFaultAck_keeps | apply landed_keeps | apply execKill_keeps | apply execEpochSet_keeps
      | apply State.dbgCtlWrite_keeps | apply State.setDebug_keeps | apply State.flashEnqueue_keeps
      | apply execNskeyApply_keeps | apply State.sealCmdWrite_keeps | apply State.clrWrite_keeps
      | apply State.setv_keeps | apply foldl_keeps | apply foldl_fst_keeps | apply foldl_snd_keeps | intro _
      | fail_if_no_progress apply mk_keeps
    | (fail_if_no_progress extract_lets +onlyGivenNames z
       first
         | (with_reducible refine keeps_cut (p := Keeps s z) ?_ ?_
            on_goal 2 => (intro _; clear_value z)
            on_goal 1 => try dsimp -zeta only [z])
         | (with_reducible refine keeps_cut (p := Keeps s z.1) ?_ ?_
            on_goal 2 => (intro _)
            on_goal 1 => try dsimp -zeta only [z])
         | (with_reducible refine keeps_cut (p := ∀ u x, Keeps s u → Keeps s (z u x)) ?_ ?_
            on_goal 2 => (intro _; clear_value z)
            on_goal 1 => try dsimp -zeta only [z])
         | (with_reducible refine keeps_cut (p := ∀ u, Keeps s u → Keeps s (z u)) ?_ ?_
            on_goal 2 => (intro _; clear_value z)
            on_goal 1 => try dsimp -zeta only [z])
         | (with_reducible refine keeps_cut (p := ∀ x, Keeps s (z x)) ?_ ?_
            on_goal 2 => (intro _; clear_value z)
            on_goal 1 => try dsimp -zeta only [z])
         | clear_value z | skip)
    | split
    | dsimp -zeta only
    | with_reducible apply_assumption

theorem State.traceWrite_keeps {s t : State} (h : Keeps s t) (p : Nat) : Keeps s (State.traceWrite t p) := by
  delta State.traceWrite
  repeat' first
    | with_reducible first
      | assumption | apply State.setPart_keeps

theorem State.afterWrite_keeps {s t : State} (h : Keeps s t) (r : Rg) (ix : List Nat) (before : State) (h3 :
    Keeps s before) : Keeps s (State.afterWrite t r ix before) := by
  delta State.afterWrite
  repeat' first
    | with_reducible first
      | assumption | apply State.setf_keeps | apply State.traceWrite_keeps | apply execDebugAddrSelect_keeps
      | apply landed_keeps | apply execSnapAtWrite_keeps | apply execBlackBoxReadSelect_keeps
      | apply execTagSelCapture_keeps | apply execSeqSelCapture_keeps | apply State.emit_keeps
    | (fail_if_no_progress extract_lets +onlyGivenNames z
       first
         | (with_reducible refine keeps_cut (p := Keeps s z) ?_ ?_
            on_goal 2 => (intro _; clear_value z)
            on_goal 1 => try dsimp -zeta only [z])
         | clear_value z | skip)
    | split

theorem State.writeAt_keeps {s t : State} (h : Keeps s t) (r : Rg) (ix : List Nat) (w m : Word) (block : Option
    (List Byte)) : Keeps s (State.writeAt t r ix w m block) := by
  delta State.writeAt
  repeat' first
    | with_reducible first
      | assumption | apply State.writeWo_keeps | apply State.writePlain_keeps | apply State.afterWrite_keeps
    | split

theorem State.writeReg_keeps {s t : State} (h : Keeps s t) (a width : Nat) (w : Word) (block : Option (List
    Byte)) : Keeps s (State.writeReg t a width w block) := by
  delta State.writeReg
  repeat' first
    | with_reducible first
      | assumption | apply State.writeAt_keeps | apply State.noteMiss_keeps
    | (fail_if_no_progress extract_lets +onlyGivenNames z
       first
         | (with_reducible refine keeps_cut (p := Keeps s z) ?_ ?_
            on_goal 2 => (intro _; clear_value z)
            on_goal 1 => try dsimp -zeta only [z])
         | clear_value z | skip)
    | split

theorem execRegWrite_keeps {s t : State} (h : Keeps s t) (ep off : Nat) (value : Word) (block : Option (List
    Byte)) : KeepsOut s (execRegWrite ep off value block t) := by
  delta execRegWrite
  repeat' first
    | with_reducible first
      | assumption | apply KeepsOut.next | apply State.writeReg_keeps | apply State.vendorRsp_keeps
    | split

theorem execRegisterWrite_keeps {s t : State} (h : Keeps s t) (addr width : Nat) (data : Word) (block : Option
    (List Byte)) : KeepsOut s (execRegisterWrite addr width data block t) := by
  delta execRegisterWrite
  repeat' first
    | with_reducible first
      | assumption | apply KeepsOut.next | apply State.writeReg_keeps

theorem State.stallTick_keeps {s t : State} (h : Keeps s t) (p site : Nat) : Keeps s (State.stallTick t p site) := by
  delta State.stallTick
  repeat' first
    | with_reducible first
      | assumption | apply State.bump_keeps | apply State.recause_keeps
    | (fail_if_no_progress extract_lets +onlyGivenNames z
       first
         | (with_reducible refine keeps_cut (p := Keeps s z) ?_ ?_
            on_goal 2 => (intro _; clear_value z)
            on_goal 1 => try dsimp -zeta only [z])
         | clear_value z | skip)
    | split

theorem State.stallTicks_keeps {s t : State} (h : Keeps s t) : Keeps s (State.stallTicks t) := by
  delta State.stallTicks
  repeat' first
    | with_reducible first
      | assumption | apply State.stallTick_keeps | apply foldl_keeps | intro _
    | split

theorem State.ringWrite_keeps {s t : State} (h : Keeps s t) (r : TraceRec) : Keeps s (State.ringWrite t r) := by
  delta State.ringWrite
  repeat' first
    | with_reducible first
      | assumption | apply State.readPart_keeps | apply State.setf_keeps | apply State.writePart_keeps
    | (fail_if_no_progress extract_lets +onlyGivenNames z
       first
         | (with_reducible refine keeps_cut (p := Keeps s z) ?_ ?_
            on_goal 2 => (intro _; clear_value z)
            on_goal 1 => try dsimp -zeta only [z])
         | (with_reducible refine keeps_cut (p := Keeps s z.1) ?_ ?_
            on_goal 2 => (intro _)
            on_goal 1 => try dsimp -zeta only [z])
         | clear_value z | skip)
    | split

theorem State.drainTrace_keeps {s t : State} (h : Keeps s t) (die : Nat) : Keeps s (State.drainTrace t die) := by
  delta State.drainTrace
  repeat' first
    | with_reducible first
      | assumption | apply State.ringWrite_keeps | apply State.setTraceQ_keeps | intro _
    | split

theorem State.migTicks_keeps {s t : State} (h : Keeps s t) : Keeps s (State.migTicks t) := by
  delta State.migTicks
  repeat' first
    | with_reducible first
      | assumption | apply State.bump_keeps | apply foldl_keeps | intro _
    | split

theorem State.countTicks_keeps {s t : State} (h : Keeps s t) : Keeps s (State.countTicks t) := by
  delta State.countTicks
  repeat' first
    | with_reducible first
      | assumption | apply State.stallTicks_keeps | apply State.migTicks_keeps | apply State.testTick_keeps
      | apply foldl_keeps | intro _

theorem State.tick_holds (t : State) :
    Holds t t.tick ∧ t.tick.now = if t.power.inReset then t.now else t.now + 1 := by
  unfold State.tick
  split
  · exact ⟨(Keeps.refl t).toHolds, rfl⟩
  · have b : Keeps t ((List.range 32).foldl State.killTick t.countTicks) :=
      foldl_keeps (State.countTicks_keeps (Keeps.refl t)) fun v x k => State.killTick_keeps k _
    dsimp only
    generalize (List.range 32).foldl State.killTick t.countTicks = w at b
    have a : Keeps t (w.setPower { w.power with boundary := false }) := State.setPower_keeps b _
    generalize w.setPower { w.power with boundary := false } = u at a
    have k : Holds u u.advanceTime := ⟨rfl, List.prefix_refl _, id, Nat.le_refl _, id, Nat.le_refl _, Nat.le_refl _⟩
    have h : Keeps u.advanceTime ((List.range 8).foldl State.drainTrace
        ((List.range 32).foldl (fun u p => (u.endHold p).snapTick p) u.advanceTime)) :=
      foldl_keeps (foldl_keeps (Keeps.refl _) fun v x k => State.snapTick_keeps (State.endHold_keeps k _) _)
        fun v x k => State.drainTrace_keeps k _
    exact ⟨a.toHolds.trans (k.trans h.toHolds), h.clock.trans (congrArg (· + 1) a.clock)⟩

end Sys2Proof.Machine
end

