-- ==== Sys2Proof/Laws/State.lean ====
section
/-! SUPPORT. One lemma per field of the state and per update: what the update makes of the field. -/

namespace Sys2Proof.Machine

open Sys2Proof

variable (s : State)

@[simp] theorem State.setPower_pending (x : Power) : (s.setPower x).pending = s.pending := rfl
@[simp] theorem State.setPower_out (x : Power) : (s.setPower x).out = s.out := rfl
@[simp] theorem State.setPower_now (x : Power) : (s.setPower x).now = s.now := rfl
@[simp] theorem State.setPower_free (x : Power) : (s.setPower x).free = s.free := rfl
@[simp] theorem State.setPower_regs (x : Power) : (s.setPower x).regs = s.regs := rfl
@[simp] theorem State.setPower_parts (x : Power) : (s.setPower x).parts = s.parts := rfl
@[simp] theorem State.setPower_sites (x : Power) : (s.setPower x).sites = s.sites := rfl
@[simp] theorem State.setPower_hbm (x : Power) : (s.setPower x).hbm = s.hbm := rfl
@[simp] theorem State.setPower_flash (x : Power) : (s.setPower x).flash = s.flash := rfl
@[simp] theorem State.setPower_seqs (x : Power) : (s.setPower x).seqs = s.seqs := rfl
@[simp] theorem State.setPower_blocks (x : Power) : (s.setPower x).blocks = s.blocks := rfl
@[simp] theorem State.setPower_dir (x : Power) : (s.setPower x).dir = s.dir := rfl
@[simp] theorem State.setPower_traceQ (x : Power) : (s.setPower x).traceQ = s.traceQ := rfl
@[simp] theorem State.setPower_traceSeq (x : Power) : (s.setPower x).traceSeq = s.traceSeq := rfl
@[simp] theorem State.setPower_hubWait (x : Power) : (s.setPower x).hubWait = s.hubWait := rfl
@[simp] theorem State.setPower_hubMsgs (x : Power) : (s.setPower x).hubMsgs = s.hubMsgs := rfl
@[simp] theorem State.setPower_hubOut (x : Power) : (s.setPower x).hubOut = s.hubOut := rfl
@[simp] theorem State.setPower_swapPath (x : Power) : (s.setPower x).swapPath = s.swapPath := rfl
@[simp] theorem State.setPower_bbox (x : Power) : (s.setPower x).bbox = s.bbox := rfl
@[simp] theorem State.setPower_sealUnit (x : Power) : (s.setPower x).sealUnit = s.sealUnit := rfl
@[simp] theorem State.setPower_power (x : Power) : (s.setPower x).power = x := rfl
@[simp] theorem State.setPower_mgmt (x : Power) : (s.setPower x).mgmt = s.mgmt := rfl
@[simp] theorem State.setPower_ports (x : Power) : (s.setPower x).ports = s.ports := rfl
@[simp] theorem State.setPower_host (x : Power) : (s.setPower x).host = s.host := rfl

@[simp] theorem State.setHost_pending (x : HostPort) : (s.setHost x).pending = s.pending := rfl
@[simp] theorem State.setHost_out (x : HostPort) : (s.setHost x).out = s.out := rfl
@[simp] theorem State.setHost_now (x : HostPort) : (s.setHost x).now = s.now := rfl
@[simp] theorem State.setHost_free (x : HostPort) : (s.setHost x).free = s.free := rfl
@[simp] theorem State.setHost_regs (x : HostPort) : (s.setHost x).regs = s.regs := rfl
@[simp] theorem State.setHost_parts (x : HostPort) : (s.setHost x).parts = s.parts := rfl
@[simp] theorem State.setHost_sites (x : HostPort) : (s.setHost x).sites = s.sites := rfl
@[simp] theorem State.setHost_hbm (x : HostPort) : (s.setHost x).hbm = s.hbm := rfl
@[simp] theorem State.setHost_flash (x : HostPort) : (s.setHost x).flash = s.flash := rfl
@[simp] theorem State.setHost_seqs (x : HostPort) : (s.setHost x).seqs = s.seqs := rfl
@[simp] theorem State.setHost_blocks (x : HostPort) : (s.setHost x).blocks = s.blocks := rfl
@[simp] theorem State.setHost_dir (x : HostPort) : (s.setHost x).dir = s.dir := rfl
@[simp] theorem State.setHost_traceQ (x : HostPort) : (s.setHost x).traceQ = s.traceQ := rfl
@[simp] theorem State.setHost_traceSeq (x : HostPort) : (s.setHost x).traceSeq = s.traceSeq := rfl
@[simp] theorem State.setHost_hubWait (x : HostPort) : (s.setHost x).hubWait = s.hubWait := rfl
@[simp] theorem State.setHost_hubMsgs (x : HostPort) : (s.setHost x).hubMsgs = s.hubMsgs := rfl
@[simp] theorem State.setHost_hubOut (x : HostPort) : (s.setHost x).hubOut = s.hubOut := rfl
@[simp] theorem State.setHost_swapPath (x : HostPort) : (s.setHost x).swapPath = s.swapPath := rfl
@[simp] theorem State.setHost_bbox (x : HostPort) : (s.setHost x).bbox = s.bbox := rfl
@[simp] theorem State.setHost_sealUnit (x : HostPort) : (s.setHost x).sealUnit = s.sealUnit := rfl
@[simp] theorem State.setHost_power (x : HostPort) : (s.setHost x).power = s.power := rfl
@[simp] theorem State.setHost_mgmt (x : HostPort) : (s.setHost x).mgmt = s.mgmt := rfl
@[simp] theorem State.setHost_ports (x : HostPort) : (s.setHost x).ports = s.ports := rfl
@[simp] theorem State.setHost_host (x : HostPort) : (s.setHost x).host = x := rfl

@[simp] theorem State.setMgmt_pending (x : Mgmt) : (s.setMgmt x).pending = s.pending := rfl
@[simp] theorem State.setMgmt_out (x : Mgmt) : (s.setMgmt x).out = s.out := rfl
@[simp] theorem State.setMgmt_now (x : Mgmt) : (s.setMgmt x).now = s.now := rfl
@[simp] theorem State.setMgmt_free (x : Mgmt) : (s.setMgmt x).free = s.free := rfl
@[simp] theorem State.setMgmt_regs (x : Mgmt) : (s.setMgmt x).regs = s.regs := rfl
@[simp] theorem State.setMgmt_parts (x : Mgmt) : (s.setMgmt x).parts = s.parts := rfl
@[simp] theorem State.setMgmt_sites (x : Mgmt) : (s.setMgmt x).sites = s.sites := rfl
@[simp] theorem State.setMgmt_hbm (x : Mgmt) : (s.setMgmt x).hbm = s.hbm := rfl
@[simp] theorem State.setMgmt_flash (x : Mgmt) : (s.setMgmt x).flash = s.flash := rfl
@[simp] theorem State.setMgmt_seqs (x : Mgmt) : (s.setMgmt x).seqs = s.seqs := rfl
@[simp] theorem State.setMgmt_blocks (x : Mgmt) : (s.setMgmt x).blocks = s.blocks := rfl
@[simp] theorem State.setMgmt_dir (x : Mgmt) : (s.setMgmt x).dir = s.dir := rfl
@[simp] theorem State.setMgmt_traceQ (x : Mgmt) : (s.setMgmt x).traceQ = s.traceQ := rfl
@[simp] theorem State.setMgmt_traceSeq (x : Mgmt) : (s.setMgmt x).traceSeq = s.traceSeq := rfl
@[simp] theorem State.setMgmt_hubWait (x : Mgmt) : (s.setMgmt x).hubWait = s.hubWait := rfl
@[simp] theorem State.setMgmt_hubMsgs (x : Mgmt) : (s.setMgmt x).hubMsgs = s.hubMsgs := rfl
@[simp] theorem State.setMgmt_hubOut (x : Mgmt) : (s.setMgmt x).hubOut = s.hubOut := rfl
@[simp] theorem State.setMgmt_swapPath (x : Mgmt) : (s.setMgmt x).swapPath = s.swapPath := rfl
@[simp] theorem State.setMgmt_bbox (x : Mgmt) : (s.setMgmt x).bbox = s.bbox := rfl
@[simp] theorem State.setMgmt_sealUnit (x : Mgmt) : (s.setMgmt x).sealUnit = s.sealUnit := rfl
@[simp] theorem State.setMgmt_power (x : Mgmt) : (s.setMgmt x).power = s.power := rfl
@[simp] theorem State.setMgmt_mgmt (x : Mgmt) : (s.setMgmt x).mgmt = x := rfl
@[simp] theorem State.setMgmt_ports (x : Mgmt) : (s.setMgmt x).ports = s.ports := rfl
@[simp] theorem State.setMgmt_host (x : Mgmt) : (s.setMgmt x).host = s.host := rfl

@[simp] theorem State.setSeal_pending (x : Seal) : (s.setSeal x).pending = s.pending := rfl
@[simp] theorem State.setSeal_out (x : Seal) : (s.setSeal x).out = s.out := rfl
@[simp] theorem State.setSeal_now (x : Seal) : (s.setSeal x).now = s.now := rfl
@[simp] theorem State.setSeal_free (x : Seal) : (s.setSeal x).free = s.free := rfl
@[simp] theorem State.setSeal_regs (x : Seal) : (s.setSeal x).regs = s.regs := rfl
@[simp] theorem State.setSeal_parts (x : Seal) : (s.setSeal x).parts = s.parts := rfl
@[simp] theorem State.setSeal_sites (x : Seal) : (s.setSeal x).sites = s.sites := rfl
@[simp] theorem State.setSeal_hbm (x : Seal) : (s.setSeal x).hbm = s.hbm := rfl
@[simp] theorem State.setSeal_flash (x : Seal) : (s.setSeal x).flash = s.flash := rfl
@[simp] theorem State.setSeal_seqs (x : Seal) : (s.setSeal x).seqs = s.seqs := rfl
@[simp] theorem State.setSeal_blocks (x : Seal) : (s.setSeal x).blocks = s.blocks := rfl
@[simp] theorem State.setSeal_dir (x : Seal) : (s.setSeal x).dir = s.dir := rfl
@[simp] theorem State.setSeal_traceQ (x : Seal) : (s.setSeal x).traceQ = s.traceQ := rfl
@[simp] theorem State.setSeal_traceSeq (x : Seal) : (s.setSeal x).traceSeq = s.traceSeq := rfl
@[simp] theorem State.setSeal_hubWait (x : Seal) : (s.setSeal x).hubWait = s.hubWait := rfl
@[simp] theorem State.setSeal_hubMsgs (x : Seal) : (s.setSeal x).hubMsgs = s.hubMsgs := rfl
@[simp] theorem State.setSeal_hubOut (x : Seal) : (s.setSeal x).hubOut = s.hubOut := rfl
@[simp] theorem State.setSeal_swapPath (x : Seal) : (s.setSeal x).swapPath = s.swapPath := rfl
@[simp] theorem State.setSeal_bbox (x : Seal) : (s.setSeal x).bbox = s.bbox := rfl
@[simp] theorem State.setSeal_sealUnit (x : Seal) : (s.setSeal x).sealUnit = x := rfl
@[simp] theorem State.setSeal_power (x : Seal) : (s.setSeal x).power = s.power := rfl
@[simp] theorem State.setSeal_mgmt (x : Seal) : (s.setSeal x).mgmt = s.mgmt := rfl
@[simp] theorem State.setSeal_ports (x : Seal) : (s.setSeal x).ports = s.ports := rfl
@[simp] theorem State.setSeal_host (x : Seal) : (s.setSeal x).host = s.host := rfl

@[simp] theorem State.setBBox_pending (x : BBox) : (s.setBBox x).pending = s.pending := rfl
@[simp] theorem State.setBBox_out (x : BBox) : (s.setBBox x).out = s.out := rfl
@[simp] theorem State.setBBox_now (x : BBox) : (s.setBBox x).now = s.now := rfl
@[simp] theorem State.setBBox_free (x : BBox) : (s.setBBox x).free = s.free := rfl
@[simp] theorem State.setBBox_regs (x : BBox) : (s.setBBox x).regs = s.regs := rfl
@[simp] theorem State.setBBox_parts (x : BBox) : (s.setBBox x).parts = s.parts := rfl
@[simp] theorem State.setBBox_sites (x : BBox) : (s.setBBox x).sites = s.sites := rfl
@[simp] theorem State.setBBox_hbm (x : BBox) : (s.setBBox x).hbm = s.hbm := rfl
@[simp] theorem State.setBBox_flash (x : BBox) : (s.setBBox x).flash = s.flash := rfl
@[simp] theorem State.setBBox_seqs (x : BBox) : (s.setBBox x).seqs = s.seqs := rfl
@[simp] theorem State.setBBox_blocks (x : BBox) : (s.setBBox x).blocks = s.blocks := rfl
@[simp] theorem State.setBBox_dir (x : BBox) : (s.setBBox x).dir = s.dir := rfl
@[simp] theorem State.setBBox_traceQ (x : BBox) : (s.setBBox x).traceQ = s.traceQ := rfl
@[simp] theorem State.setBBox_traceSeq (x : BBox) : (s.setBBox x).traceSeq = s.traceSeq := rfl
@[simp] theorem State.setBBox_hubWait (x : BBox) : (s.setBBox x).hubWait = s.hubWait := rfl
@[simp] theorem State.setBBox_hubMsgs (x : BBox) : (s.setBBox x).hubMsgs = s.hubMsgs := rfl
@[simp] theorem State.setBBox_hubOut (x : BBox) : (s.setBBox x).hubOut = s.hubOut := rfl
@[simp] theorem State.setBBox_swapPath (x : BBox) : (s.setBBox x).swapPath = s.swapPath := rfl
@[simp] theorem State.setBBox_bbox (x : BBox) : (s.setBBox x).bbox = x := rfl
@[simp] theorem State.setBBox_sealUnit (x : BBox) : (s.setBBox x).sealUnit = s.sealUnit := rfl
@[simp] theorem State.setBBox_power (x : BBox) : (s.setBBox x).power = s.power := rfl
@[simp] theorem State.setBBox_mgmt (x : BBox) : (s.setBBox x).mgmt = s.mgmt := rfl
@[simp] theorem State.setBBox_ports (x : BBox) : (s.setBBox x).ports = s.ports := rfl
@[simp] theorem State.setBBox_host (x : BBox) : (s.setBBox x).host = s.host := rfl

@[simp] theorem State.setHbm_pending (x : Hbm) : (s.setHbm x).pending = s.pending := rfl
@[simp] theorem State.setHbm_out (x : Hbm) : (s.setHbm x).out = s.out := rfl
@[simp] theorem State.setHbm_now (x : Hbm) : (s.setHbm x).now = s.now := rfl
@[simp] theorem State.setHbm_free (x : Hbm) : (s.setHbm x).free = s.free := rfl
@[simp] theorem State.setHbm_regs (x : Hbm) : (s.setHbm x).regs = s.regs := rfl
@[simp] theorem State.setHbm_parts (x : Hbm) : (s.setHbm x).parts = s.parts := rfl
@[simp] theorem State.setHbm_sites (x : Hbm) : (s.setHbm x).sites = s.sites := rfl
@[simp] theorem State.setHbm_hbm (x : Hbm) : (s.setHbm x).hbm = x := rfl
@[simp] theorem State.setHbm_flash (x : Hbm) : (s.setHbm x).flash = s.flash := rfl
@[simp] theorem State.setHbm_seqs (x : Hbm) : (s.setHbm x).seqs = s.seqs := rfl
@[simp] theorem State.setHbm_blocks (x : Hbm) : (s.setHbm x).blocks = s.blocks := rfl
@[simp] theorem State.setHbm_dir (x : Hbm) : (s.setHbm x).dir = s.dir := rfl
@[simp] theorem State.setHbm_traceQ (x : Hbm) : (s.setHbm x).traceQ = s.traceQ := rfl
@[simp] theorem State.setHbm_traceSeq (x : Hbm) : (s.setHbm x).traceSeq = s.traceSeq := rfl
@[simp] theorem State.setHbm_hubWait (x : Hbm) : (s.setHbm x).hubWait = s.hubWait := rfl
@[simp] theorem State.setHbm_hubMsgs (x : Hbm) : (s.setHbm x).hubMsgs = s.hubMsgs := rfl
@[simp] theorem State.setHbm_hubOut (x : Hbm) : (s.setHbm x).hubOut = s.hubOut := rfl
@[simp] theorem State.setHbm_swapPath (x : Hbm) : (s.setHbm x).swapPath = s.swapPath := rfl
@[simp] theorem State.setHbm_bbox (x : Hbm) : (s.setHbm x).bbox = s.bbox := rfl
@[simp] theorem State.setHbm_sealUnit (x : Hbm) : (s.setHbm x).sealUnit = s.sealUnit := rfl
@[simp] theorem State.setHbm_power (x : Hbm) : (s.setHbm x).power = s.power := rfl
@[simp] theorem State.setHbm_mgmt (x : Hbm) : (s.setHbm x).mgmt = s.mgmt := rfl
@[simp] theorem State.setHbm_ports (x : Hbm) : (s.setHbm x).ports = s.ports := rfl
@[simp] theorem State.setHbm_host (x : Hbm) : (s.setHbm x).host = s.host := rfl

@[simp] theorem State.setFlash_pending (x : Flash) : (s.setFlash x).pending = s.pending := rfl
@[simp] theorem State.setFlash_out (x : Flash) : (s.setFlash x).out = s.out := rfl
@[simp] theorem State.setFlash_now (x : Flash) : (s.setFlash x).now = s.now := rfl
@[simp] theorem State.setFlash_free (x : Flash) : (s.setFlash x).free = s.free := rfl
@[simp] theorem State.setFlash_regs (x : Flash) : (s.setFlash x).regs = s.regs := rfl
@[simp] theorem State.setFlash_parts (x : Flash) : (s.setFlash x).parts = s.parts := rfl
@[simp] theorem State.setFlash_sites (x : Flash) : (s.setFlash x).sites = s.sites := rfl
@[simp] theorem State.setFlash_hbm (x : Flash) : (s.setFlash x).hbm = s.hbm := rfl
@[simp] theorem State.setFlash_flash (x : Flash) : (s.setFlash x).flash = x := rfl
@[simp] theorem State.setFlash_seqs (x : Flash) : (s.setFlash x).seqs = s.seqs := rfl
@[simp] theorem State.setFlash_blocks (x : Flash) : (s.setFlash x).blocks = s.blocks := rfl
@[simp] theorem State.setFlash_dir (x : Flash) : (s.setFlash x).dir = s.dir := rfl
@[simp] theorem State.setFlash_traceQ (x : Flash) : (s.setFlash x).traceQ = s.traceQ := rfl
@[simp] theorem State.setFlash_traceSeq (x : Flash) : (s.setFlash x).traceSeq = s.traceSeq := rfl
@[simp] theorem State.setFlash_hubWait (x : Flash) : (s.setFlash x).hubWait = s.hubWait := rfl
@[simp] theorem State.setFlash_hubMsgs (x : Flash) : (s.setFlash x).hubMsgs = s.hubMsgs := rfl
@[simp] theorem State.setFlash_hubOut (x : Flash) : (s.setFlash x).hubOut = s.hubOut := rfl
@[simp] theorem State.setFlash_swapPath (x : Flash) : (s.setFlash x).swapPath = s.swapPath := rfl
@[simp] theorem State.setFlash_bbox (x : Flash) : (s.setFlash x).bbox = s.bbox := rfl
@[simp] theorem State.setFlash_sealUnit (x : Flash) : (s.setFlash x).sealUnit = s.sealUnit := rfl
@[simp] theorem State.setFlash_power (x : Flash) : (s.setFlash x).power = s.power := rfl
@[simp] theorem State.setFlash_mgmt (x : Flash) : (s.setFlash x).mgmt = s.mgmt := rfl
@[simp] theorem State.setFlash_ports (x : Flash) : (s.setFlash x).ports = s.ports := rfl
@[simp] theorem State.setFlash_host (x : Flash) : (s.setFlash x).host = s.host := rfl

@[simp] theorem State.setSeqs_pending (x : Tab Seq) : (s.setSeqs x).pending = s.pending := rfl
@[simp] theorem State.setSeqs_out (x : Tab Seq) : (s.setSeqs x).out = s.out := rfl
@[simp] theorem State.setSeqs_now (x : Tab Seq) : (s.setSeqs x).now = s.now := rfl
@[simp] theorem State.setSeqs_free (x : Tab Seq) : (s.setSeqs x).free = s.free := rfl
@[simp] theorem State.setSeqs_regs (x : Tab Seq) : (s.setSeqs x).regs = s.regs := rfl
@[simp] theorem State.setSeqs_parts (x : Tab Seq) : (s.setSeqs x).parts = s.parts := rfl
@[simp] theorem State.setSeqs_sites (x : Tab Seq) : (s.setSeqs x).sites = s.sites := rfl
@[simp] theorem State.setSeqs_hbm (x : Tab Seq) : (s.setSeqs x).hbm = s.hbm := rfl
@[simp] theorem State.setSeqs_flash (x : Tab Seq) : (s.setSeqs x).flash = s.flash := rfl
@[simp] theorem State.setSeqs_seqs (x : Tab Seq) : (s.setSeqs x).seqs = x := rfl
@[simp] theorem State.setSeqs_blocks (x : Tab Seq) : (s.setSeqs x).blocks = s.blocks := rfl
@[simp] theorem State.setSeqs_dir (x : Tab Seq) : (s.setSeqs x).dir = s.dir := rfl
@[simp] theorem State.setSeqs_traceQ (x : Tab Seq) : (s.setSeqs x).traceQ = s.traceQ := rfl
@[simp] theorem State.setSeqs_traceSeq (x : Tab Seq) : (s.setSeqs x).traceSeq = s.traceSeq := rfl
@[simp] theorem State.setSeqs_hubWait (x : Tab Seq) : (s.setSeqs x).hubWait = s.hubWait := rfl
@[simp] theorem State.setSeqs_hubMsgs (x : Tab Seq) : (s.setSeqs x).hubMsgs = s.hubMsgs := rfl
@[simp] theorem State.setSeqs_hubOut (x : Tab Seq) : (s.setSeqs x).hubOut = s.hubOut := rfl
@[simp] theorem State.setSeqs_swapPath (x : Tab Seq) : (s.setSeqs x).swapPath = s.swapPath := rfl
@[simp] theorem State.setSeqs_bbox (x : Tab Seq) : (s.setSeqs x).bbox = s.bbox := rfl
@[simp] theorem State.setSeqs_sealUnit (x : Tab Seq) : (s.setSeqs x).sealUnit = s.sealUnit := rfl
@[simp] theorem State.setSeqs_power (x : Tab Seq) : (s.setSeqs x).power = s.power := rfl
@[simp] theorem State.setSeqs_mgmt (x : Tab Seq) : (s.setSeqs x).mgmt = s.mgmt := rfl
@[simp] theorem State.setSeqs_ports (x : Tab Seq) : (s.setSeqs x).ports = s.ports := rfl
@[simp] theorem State.setSeqs_host (x : Tab Seq) : (s.setSeqs x).host = s.host := rfl

@[simp] theorem State.setBlocks_pending (x : Tab Nat) : (s.setBlocks x).pending = s.pending := rfl
@[simp] theorem State.setBlocks_out (x : Tab Nat) : (s.setBlocks x).out = s.out := rfl
@[simp] theorem State.setBlocks_now (x : Tab Nat) : (s.setBlocks x).now = s.now := rfl
@[simp] theorem State.setBlocks_free (x : Tab Nat) : (s.setBlocks x).free = s.free := rfl
@[simp] theorem State.setBlocks_regs (x : Tab Nat) : (s.setBlocks x).regs = s.regs := rfl
@[simp] theorem State.setBlocks_parts (x : Tab Nat) : (s.setBlocks x).parts = s.parts := rfl
@[simp] theorem State.setBlocks_sites (x : Tab Nat) : (s.setBlocks x).sites = s.sites := rfl
@[simp] theorem State.setBlocks_hbm (x : Tab Nat) : (s.setBlocks x).hbm = s.hbm := rfl
@[simp] theorem State.setBlocks_flash (x : Tab Nat) : (s.setBlocks x).flash = s.flash := rfl
@[simp] theorem State.setBlocks_seqs (x : Tab Nat) : (s.setBlocks x).seqs = s.seqs := rfl
@[simp] theorem State.setBlocks_blocks (x : Tab Nat) : (s.setBlocks x).blocks = x := rfl
@[simp] theorem State.setBlocks_dir (x : Tab Nat) : (s.setBlocks x).dir = s.dir := rfl
@[simp] theorem State.setBlocks_traceQ (x : Tab Nat) : (s.setBlocks x).traceQ = s.traceQ := rfl
@[simp] theorem State.setBlocks_traceSeq (x : Tab Nat) : (s.setBlocks x).traceSeq = s.traceSeq := rfl
@[simp] theorem State.setBlocks_hubWait (x : Tab Nat) : (s.setBlocks x).hubWait = s.hubWait := rfl
@[simp] theorem State.setBlocks_hubMsgs (x : Tab Nat) : (s.setBlocks x).hubMsgs = s.hubMsgs := rfl
@[simp] theorem State.setBlocks_hubOut (x : Tab Nat) : (s.setBlocks x).hubOut = s.hubOut := rfl
@[simp] theorem State.setBlocks_swapPath (x : Tab Nat) : (s.setBlocks x).swapPath = s.swapPath := rfl
@[simp] theorem State.setBlocks_bbox (x : Tab Nat) : (s.setBlocks x).bbox = s.bbox := rfl
@[simp] theorem State.setBlocks_sealUnit (x : Tab Nat) : (s.setBlocks x).sealUnit = s.sealUnit := rfl
@[simp] theorem State.setBlocks_power (x : Tab Nat) : (s.setBlocks x).power = s.power := rfl
@[simp] theorem State.setBlocks_mgmt (x : Tab Nat) : (s.setBlocks x).mgmt = s.mgmt := rfl
@[simp] theorem State.setBlocks_ports (x : Tab Nat) : (s.setBlocks x).ports = s.ports := rfl
@[simp] theorem State.setBlocks_host (x : Tab Nat) : (s.setBlocks x).host = s.host := rfl

@[simp] theorem State.setDir_pending (x : Tab (Option DirEntry)) : (s.setDir x).pending = s.pending := rfl
@[simp] theorem State.setDir_out (x : Tab (Option DirEntry)) : (s.setDir x).out = s.out := rfl
@[simp] theorem State.setDir_now (x : Tab (Option DirEntry)) : (s.setDir x).now = s.now := rfl
@[simp] theorem State.setDir_free (x : Tab (Option DirEntry)) : (s.setDir x).free = s.free := rfl
@[simp] theorem State.setDir_regs (x : Tab (Option DirEntry)) : (s.setDir x).regs = s.regs := rfl
@[simp] theorem State.setDir_parts (x : Tab (Option DirEntry)) : (s.setDir x).parts = s.parts := rfl
@[simp] theorem State.setDir_sites (x : Tab (Option DirEntry)) : (s.setDir x).sites = s.sites := rfl
@[simp] theorem State.setDir_hbm (x : Tab (Option DirEntry)) : (s.setDir x).hbm = s.hbm := rfl
@[simp] theorem State.setDir_flash (x : Tab (Option DirEntry)) : (s.setDir x).flash = s.flash := rfl
@[simp] theorem State.setDir_seqs (x : Tab (Option DirEntry)) : (s.setDir x).seqs = s.seqs := rfl
@[simp] theorem State.setDir_blocks (x : Tab (Option DirEntry)) : (s.setDir x).blocks = s.blocks := rfl
@[simp] theorem State.setDir_dir (x : Tab (Option DirEntry)) : (s.setDir x).dir = x := rfl
@[simp] theorem State.setDir_traceQ (x : Tab (Option DirEntry)) : (s.setDir x).traceQ = s.traceQ := rfl
@[simp] theorem State.setDir_traceSeq (x : Tab (Option DirEntry)) : (s.setDir x).traceSeq = s.traceSeq := rfl
@[simp] theorem State.setDir_hubWait (x : Tab (Option DirEntry)) : (s.setDir x).hubWait = s.hubWait := rfl
@[simp] theorem State.setDir_hubMsgs (x : Tab (Option DirEntry)) : (s.setDir x).hubMsgs = s.hubMsgs := rfl
@[simp] theorem State.setDir_hubOut (x : Tab (Option DirEntry)) : (s.setDir x).hubOut = s.hubOut := rfl
@[simp] theorem State.setDir_swapPath (x : Tab (Option DirEntry)) : (s.setDir x).swapPath = s.swapPath := rfl
@[simp] theorem State.setDir_bbox (x : Tab (Option DirEntry)) : (s.setDir x).bbox = s.bbox := rfl
@[simp] theorem State.setDir_sealUnit (x : Tab (Option DirEntry)) : (s.setDir x).sealUnit = s.sealUnit := rfl
@[simp] theorem State.setDir_power (x : Tab (Option DirEntry)) : (s.setDir x).power = s.power := rfl
@[simp] theorem State.setDir_mgmt (x : Tab (Option DirEntry)) : (s.setDir x).mgmt = s.mgmt := rfl
@[simp] theorem State.setDir_ports (x : Tab (Option DirEntry)) : (s.setDir x).ports = s.ports := rfl
@[simp] theorem State.setDir_host (x : Tab (Option DirEntry)) : (s.setDir x).host = s.host := rfl

@[simp] theorem State.setRegs_pending (x : Regs) : (s.setRegs x).pending = s.pending := rfl
@[simp] theorem State.setRegs_out (x : Regs) : (s.setRegs x).out = s.out := rfl
@[simp] theorem State.setRegs_now (x : Regs) : (s.setRegs x).now = s.now := rfl
@[simp] theorem State.setRegs_free (x : Regs) : (s.setRegs x).free = s.free := rfl
@[simp] theorem State.setRegs_regs (x : Regs) : (s.setRegs x).regs = x := rfl
@[simp] theorem State.setRegs_parts (x : Regs) : (s.setRegs x).parts = s.parts := rfl
@[simp] theorem State.setRegs_sites (x : Regs) : (s.setRegs x).sites = s.sites := rfl
@[simp] theorem State.setRegs_hbm (x : Regs) : (s.setRegs x).hbm = s.hbm := rfl
@[simp] theorem State.setRegs_flash (x : Regs) : (s.setRegs x).flash = s.flash := rfl
@[simp] theorem State.setRegs_seqs (x : Regs) : (s.setRegs x).seqs = s.seqs := rfl
@[simp] theorem State.setRegs_blocks (x : Regs) : (s.setRegs x).blocks = s.blocks := rfl
@[simp] theorem State.setRegs_dir (x : Regs) : (s.setRegs x).dir = s.dir := rfl
@[simp] theorem State.setRegs_traceQ (x : Regs) : (s.setRegs x).traceQ = s.traceQ := rfl
@[simp] theorem State.setRegs_traceSeq (x : Regs) : (s.setRegs x).traceSeq = s.traceSeq := rfl
@[simp] theorem State.setRegs_hubWait (x : Regs) : (s.setRegs x).hubWait = s.hubWait := rfl
@[simp] theorem State.setRegs_hubMsgs (x : Regs) : (s.setRegs x).hubMsgs = s.hubMsgs := rfl
@[simp] theorem State.setRegs_hubOut (x : Regs) : (s.setRegs x).hubOut = s.hubOut := rfl
@[simp] theorem State.setRegs_swapPath (x : Regs) : (s.setRegs x).swapPath = s.swapPath := rfl
@[simp] theorem State.setRegs_bbox (x : Regs) : (s.setRegs x).bbox = s.bbox := rfl
@[simp] theorem State.setRegs_sealUnit (x : Regs) : (s.setRegs x).sealUnit = s.sealUnit := rfl
@[simp] theorem State.setRegs_power (x : Regs) : (s.setRegs x).power = s.power := rfl
@[simp] theorem State.setRegs_mgmt (x : Regs) : (s.setRegs x).mgmt = s.mgmt := rfl
@[simp] theorem State.setRegs_ports (x : Regs) : (s.setRegs x).ports = s.ports := rfl
@[simp] theorem State.setRegs_host (x : Regs) : (s.setRegs x).host = s.host := rfl

@[simp] theorem State.setTraceQ_pending (x : Tab (List TraceRec)) : (s.setTraceQ x).pending = s.pending := rfl
@[simp] theorem State.setTraceQ_out (x : Tab (List TraceRec)) : (s.setTraceQ x).out = s.out := rfl
@[simp] theorem State.setTraceQ_now (x : Tab (List TraceRec)) : (s.setTraceQ x).now = s.now := rfl
@[simp] theorem State.setTraceQ_free (x : Tab (List TraceRec)) : (s.setTraceQ x).free = s.free := rfl
@[simp] theorem State.setTraceQ_regs (x : Tab (List TraceRec)) : (s.setTraceQ x).regs = s.regs := rfl
@[simp] theorem State.setTraceQ_parts (x : Tab (List TraceRec)) : (s.setTraceQ x).parts = s.parts := rfl
@[simp] theorem State.setTraceQ_sites (x : Tab (List TraceRec)) : (s.setTraceQ x).sites = s.sites := rfl
@[simp] theorem State.setTraceQ_hbm (x : Tab (List TraceRec)) : (s.setTraceQ x).hbm = s.hbm := rfl
@[simp] theorem State.setTraceQ_flash (x : Tab (List TraceRec)) : (s.setTraceQ x).flash = s.flash := rfl
@[simp] theorem State.setTraceQ_seqs (x : Tab (List TraceRec)) : (s.setTraceQ x).seqs = s.seqs := rfl
@[simp] theorem State.setTraceQ_blocks (x : Tab (List TraceRec)) : (s.setTraceQ x).blocks = s.blocks := rfl
@[simp] theorem State.setTraceQ_dir (x : Tab (List TraceRec)) : (s.setTraceQ x).dir = s.dir := rfl
@[simp] theorem State.setTraceQ_traceQ (x : Tab (List TraceRec)) : (s.setTraceQ x).traceQ = x := rfl
@[simp] theorem State.setTraceQ_traceSeq (x : Tab (List TraceRec)) : (s.setTraceQ x).traceSeq = s.traceSeq := rfl
@[simp] theorem State.setTraceQ_hubWait (x : Tab (List TraceRec)) : (s.setTraceQ x).hubWait = s.hubWait := rfl
@[simp] theorem State.setTraceQ_hubMsgs (x : Tab (List TraceRec)) : (s.setTraceQ x).hubMsgs = s.hubMsgs := rfl
@[simp] theorem State.setTraceQ_hubOut (x : Tab (List TraceRec)) : (s.setTraceQ x).hubOut = s.hubOut := rfl
@[simp] theorem State.setTraceQ_swapPath (x : Tab (List TraceRec)) : (s.setTraceQ x).swapPath = s.swapPath := rfl
@[simp] theorem State.setTraceQ_bbox (x : Tab (List TraceRec)) : (s.setTraceQ x).bbox = s.bbox := rfl
@[simp] theorem State.setTraceQ_sealUnit (x : Tab (List TraceRec)) : (s.setTraceQ x).sealUnit = s.sealUnit := rfl
@[simp] theorem State.setTraceQ_power (x : Tab (List TraceRec)) : (s.setTraceQ x).power = s.power := rfl
@[simp] theorem State.setTraceQ_mgmt (x : Tab (List TraceRec)) : (s.setTraceQ x).mgmt = s.mgmt := rfl
@[simp] theorem State.setTraceQ_ports (x : Tab (List TraceRec)) : (s.setTraceQ x).ports = s.ports := rfl
@[simp] theorem State.setTraceQ_host (x : Tab (List TraceRec)) : (s.setTraceQ x).host = s.host := rfl

@[simp] theorem State.setPending_pending (x : List Instr) : (s.setPending x).pending = x := rfl
@[simp] theorem State.setPending_out (x : List Instr) : (s.setPending x).out = s.out := rfl
@[simp] theorem State.setPending_now (x : List Instr) : (s.setPending x).now = s.now := rfl
@[simp] theorem State.setPending_free (x : List Instr) : (s.setPending x).free = s.free := rfl
@[simp] theorem State.setPending_regs (x : List Instr) : (s.setPending x).regs = s.regs := rfl
@[simp] theorem State.setPending_parts (x : List Instr) : (s.setPending x).parts = s.parts := rfl
@[simp] theorem State.setPending_sites (x : List Instr) : (s.setPending x).sites = s.sites := rfl
@[simp] theorem State.setPending_hbm (x : List Instr) : (s.setPending x).hbm = s.hbm := rfl
@[simp] theorem State.setPending_flash (x : List Instr) : (s.setPending x).flash = s.flash := rfl
@[simp] theorem State.setPending_seqs (x : List Instr) : (s.setPending x).seqs = s.seqs := rfl
@[simp] theorem State.setPending_blocks (x : List Instr) : (s.setPending x).blocks = s.blocks := rfl
@[simp] theorem State.setPending_dir (x : List Instr) : (s.setPending x).dir = s.dir := rfl
@[simp] theorem State.setPending_traceQ (x : List Instr) : (s.setPending x).traceQ = s.traceQ := rfl
@[simp] theorem State.setPending_traceSeq (x : List Instr) : (s.setPending x).traceSeq = s.traceSeq := rfl
@[simp] theorem State.setPending_hubWait (x : List Instr) : (s.setPending x).hubWait = s.hubWait := rfl
@[simp] theorem State.setPending_hubMsgs (x : List Instr) : (s.setPending x).hubMsgs = s.hubMsgs := rfl
@[simp] theorem State.setPending_hubOut (x : List Instr) : (s.setPending x).hubOut = s.hubOut := rfl
@[simp] theorem State.setPending_swapPath (x : List Instr) : (s.setPending x).swapPath = s.swapPath := rfl
@[simp] theorem State.setPending_bbox (x : List Instr) : (s.setPending x).bbox = s.bbox := rfl
@[simp] theorem State.setPending_sealUnit (x : List Instr) : (s.setPending x).sealUnit = s.sealUnit := rfl
@[simp] theorem State.setPending_power (x : List Instr) : (s.setPending x).power = s.power := rfl
@[simp] theorem State.setPending_mgmt (x : List Instr) : (s.setPending x).mgmt = s.mgmt := rfl
@[simp] theorem State.setPending_ports (x : List Instr) : (s.setPending x).ports = s.ports := rfl
@[simp] theorem State.setPending_host (x : List Instr) : (s.setPending x).host = s.host := rfl

@[simp] theorem State.emits_pending (o : List Out) : (s.emits o).pending = s.pending := rfl
@[simp] theorem State.emits_out (o : List Out) : (s.emits o).out = s.out ++ o := rfl
@[simp] theorem State.emits_now (o : List Out) : (s.emits o).now = s.now := rfl
@[simp] theorem State.emits_free (o : List Out) : (s.emits o).free = s.free := rfl
@[simp] theorem State.emits_regs (o : List Out) : (s.emits o).regs = s.regs := rfl
@[simp] theorem State.emits_parts (o : List Out) : (s.emits o).parts = s.parts := rfl
@[simp] theorem State.emits_sites (o : List Out) : (s.emits o).sites = s.sites := rfl
@[simp] theorem State.emits_hbm (o : List Out) : (s.emits o).hbm = s.hbm := rfl
@[simp] theorem State.emits_flash (o : List Out) : (s.emits o).flash = s.flash := rfl
@[simp] theorem State.emits_seqs (o : List Out) : (s.emits o).seqs = s.seqs := rfl
@[simp] theorem State.emits_blocks (o : List Out) : (s.emits o).blocks = s.blocks := rfl
@[simp] theorem State.emits_dir (o : List Out) : (s.emits o).dir = s.dir := rfl
@[simp] theorem State.emits_traceQ (o : List Out) : (s.emits o).traceQ = s.traceQ := rfl
@[simp] theorem State.emits_traceSeq (o : List Out) : (s.emits o).traceSeq = s.traceSeq := rfl
@[simp] theorem State.emits_hubWait (o : List Out) : (s.emits o).hubWait = s.hubWait := rfl
@[simp] theorem State.emits_hubMsgs (o : List Out) : (s.emits o).hubMsgs = s.hubMsgs := rfl
@[simp] theorem State.emits_hubOut (o : List Out) : (s.emits o).hubOut = s.hubOut := rfl
@[simp] theorem State.emits_swapPath (o : List Out) : (s.emits o).swapPath = s.swapPath := rfl
@[simp] theorem State.emits_bbox (o : List Out) : (s.emits o).bbox = s.bbox := rfl
@[simp] theorem State.emits_sealUnit (o : List Out) : (s.emits o).sealUnit = s.sealUnit := rfl
@[simp] theorem State.emits_power (o : List Out) : (s.emits o).power = s.power := rfl
@[simp] theorem State.emits_mgmt (o : List Out) : (s.emits o).mgmt = s.mgmt := rfl
@[simp] theorem State.emits_ports (o : List Out) : (s.emits o).ports = s.ports := rfl
@[simp] theorem State.emits_host (o : List Out) : (s.emits o).host = s.host := rfl

@[simp] theorem State.emit_pending (o : Out) : (s.emit o).pending = s.pending := rfl
@[simp] theorem State.emit_out (o : Out) : (s.emit o).out = s.out ++ [o] := rfl
@[simp] theorem State.emit_now (o : Out) : (s.emit o).now = s.now := rfl
@[simp] theorem State.emit_free (o : Out) : (s.emit o).free = s.free := rfl
@[simp] theorem State.emit_regs (o : Out) : (s.emit o).regs = s.regs := rfl
@[simp] theorem State.emit_parts (o : Out) : (s.emit o).parts = s.parts := rfl
@[simp] theorem State.emit_sites (o : Out) : (s.emit o).sites = s.sites := rfl
@[simp] theorem State.emit_hbm (o : Out) : (s.emit o).hbm = s.hbm := rfl
@[simp] theorem State.emit_flash (o : Out) : (s.emit o).flash = s.flash := rfl
@[simp] theorem State.emit_seqs (o : Out) : (s.emit o).seqs = s.seqs := rfl
@[simp] theorem State.emit_blocks (o : Out) : (s.emit o).blocks = s.blocks := rfl
@[simp] theorem State.emit_dir (o : Out) : (s.emit o).dir = s.dir := rfl
@[simp] theorem State.emit_traceQ (o : Out) : (s.emit o).traceQ = s.traceQ := rfl
@[simp] theorem State.emit_traceSeq (o : Out) : (s.emit o).traceSeq = s.traceSeq := rfl
@[simp] theorem State.emit_hubWait (o : Out) : (s.emit o).hubWait = s.hubWait := rfl
@[simp] theorem State.emit_hubMsgs (o : Out) : (s.emit o).hubMsgs = s.hubMsgs := rfl
@[simp] theorem State.emit_hubOut (o : Out) : (s.emit o).hubOut = s.hubOut := rfl
@[simp] theorem State.emit_swapPath (o : Out) : (s.emit o).swapPath = s.swapPath := rfl
@[simp] theorem State.emit_bbox (o : Out) : (s.emit o).bbox = s.bbox := rfl
@[simp] theorem State.emit_sealUnit (o : Out) : (s.emit o).sealUnit = s.sealUnit := rfl
@[simp] theorem State.emit_power (o : Out) : (s.emit o).power = s.power := rfl
@[simp] theorem State.emit_mgmt (o : Out) : (s.emit o).mgmt = s.mgmt := rfl
@[simp] theorem State.emit_ports (o : Out) : (s.emit o).ports = s.ports := rfl
@[simp] theorem State.emit_host (o : Out) : (s.emit o).host = s.host := rfl

@[simp] theorem State.fresh_pending : (s.fresh).pending = s.pending := rfl
@[simp] theorem State.fresh_out : (s.fresh).out = s.out := rfl
@[simp] theorem State.fresh_now : (s.fresh).now = s.now := rfl
@[simp] theorem State.fresh_free : (s.fresh).free = s.free + 1 := rfl
@[simp] theorem State.fresh_regs : (s.fresh).regs = s.regs := rfl
@[simp] theorem State.fresh_parts : (s.fresh).parts = s.parts := rfl
@[simp] theorem State.fresh_sites : (s.fresh).sites = s.sites := rfl
@[simp] theorem State.fresh_hbm : (s.fresh).hbm = s.hbm := rfl
@[simp] theorem State.fresh_flash : (s.fresh).flash = s.flash := rfl
@[simp] theorem State.fresh_seqs : (s.fresh).seqs = s.seqs := rfl
@[simp] theorem State.fresh_blocks : (s.fresh).blocks = s.blocks := rfl
@[simp] theorem State.fresh_dir : (s.fresh).dir = s.dir := rfl
@[simp] theorem State.fresh_traceQ : (s.fresh).traceQ = s.traceQ := rfl
@[simp] theorem State.fresh_traceSeq : (s.fresh).traceSeq = s.traceSeq := rfl
@[simp] theorem State.fresh_hubWait : (s.fresh).hubWait = s.hubWait := rfl
@[simp] theorem State.fresh_hubMsgs : (s.fresh).hubMsgs = s.hubMsgs := rfl
@[simp] theorem State.fresh_hubOut : (s.fresh).hubOut = s.hubOut := rfl
@[simp] theorem State.fresh_swapPath : (s.fresh).swapPath = s.swapPath := rfl
@[simp] theorem State.fresh_bbox : (s.fresh).bbox = s.bbox := rfl
@[simp] theorem State.fresh_sealUnit : (s.fresh).sealUnit = s.sealUnit := rfl
@[simp] theorem State.fresh_power : (s.fresh).power = s.power := rfl
@[simp] theorem State.fresh_mgmt : (s.fresh).mgmt = s.mgmt := rfl
@[simp] theorem State.fresh_ports : (s.fresh).ports = s.ports := rfl
@[simp] theorem State.fresh_host : (s.fresh).host = s.host := rfl

@[simp] theorem State.setPart_pending (p : Nat) (x : Part) : (s.setPart p x).pending = s.pending := rfl
@[simp] theorem State.setPart_out (p : Nat) (x : Part) : (s.setPart p x).out = s.out := rfl
@[simp] theorem State.setPart_now (p : Nat) (x : Part) : (s.setPart p x).now = s.now := rfl
@[simp] theorem State.setPart_free (p : Nat) (x : Part) : (s.setPart p x).free = s.free := rfl
@[simp] theorem State.setPart_regs (p : Nat) (x : Part) : (s.setPart p x).regs = s.regs := rfl
@[simp] theorem State.setPart_parts (p : Nat) (x : Part) :
    (s.setPart p x).parts = tabSet (fun _ => Part.reset) s.parts p x := rfl
@[simp] theorem State.setPart_sites (p : Nat) (x : Part) : (s.setPart p x).sites = s.sites := rfl
@[simp] theorem State.setPart_hbm (p : Nat) (x : Part) : (s.setPart p x).hbm = s.hbm := rfl
@[simp] theorem State.setPart_flash (p : Nat) (x : Part) : (s.setPart p x).flash = s.flash := rfl
@[simp] theorem State.setPart_seqs (p : Nat) (x : Part) : (s.setPart p x).seqs = s.seqs := rfl
@[simp] theorem State.setPart_blocks (p : Nat) (x : Part) : (s.setPart p x).blocks = s.blocks := rfl
@[simp] theorem State.setPart_dir (p : Nat) (x : Part) : (s.setPart p x).dir = s.dir := rfl
@[simp] theorem State.setPart_traceQ (p : Nat) (x : Part) : (s.setPart p x).traceQ = s.traceQ := rfl
@[simp] theorem State.setPart_traceSeq (p : Nat) (x : Part) : (s.setPart p x).traceSeq = s.traceSeq := rfl
@[simp] theorem State.setPart_hubWait (p : Nat) (x : Part) : (s.setPart p x).hubWait = s.hubWait := rfl
@[simp] theorem State.setPart_hubMsgs (p : Nat) (x : Part) : (s.setPart p x).hubMsgs = s.hubMsgs := rfl
@[simp] theorem State.setPart_hubOut (p : Nat) (x : Part) : (s.setPart p x).hubOut = s.hubOut := rfl
@[simp] theorem State.setPart_swapPath (p : Nat) (x : Part) : (s.setPart p x).swapPath = s.swapPath := rfl
@[simp] theorem State.setPart_bbox (p : Nat) (x : Part) : (s.setPart p x).bbox = s.bbox := rfl
@[simp] theorem State.setPart_sealUnit (p : Nat) (x : Part) : (s.setPart p x).sealUnit = s.sealUnit := rfl
@[simp] theorem State.setPart_power (p : Nat) (x : Part) : (s.setPart p x).power = s.power := rfl
@[simp] theorem State.setPart_mgmt (p : Nat) (x : Part) : (s.setPart p x).mgmt = s.mgmt := rfl
@[simp] theorem State.setPart_ports (p : Nat) (x : Part) : (s.setPart p x).ports = s.ports := rfl
@[simp] theorem State.setPart_host (p : Nat) (x : Part) : (s.setPart p x).host = s.host := rfl

@[simp] theorem State.setTime_pending (p : Nat) (x : PTime) : (s.setTime p x).pending = s.pending := rfl
@[simp] theorem State.setTime_out (p : Nat) (x : PTime) : (s.setTime p x).out = s.out := rfl
@[simp] theorem State.setTime_now (p : Nat) (x : PTime) : (s.setTime p x).now = s.now := rfl
@[simp] theorem State.setTime_free (p : Nat) (x : PTime) : (s.setTime p x).free = s.free := rfl
@[simp] theorem State.setTime_regs (p : Nat) (x : PTime) : (s.setTime p x).regs = s.regs := rfl
@[simp] theorem State.setTime_parts (p : Nat) (x : PTime) :
    (s.setTime p x).parts = tabSet (fun _ => Part.reset) s.parts p { s.part p with time := x } := rfl
@[simp] theorem State.setTime_sites (p : Nat) (x : PTime) : (s.setTime p x).sites = s.sites := rfl
@[simp] theorem State.setTime_hbm (p : Nat) (x : PTime) : (s.setTime p x).hbm = s.hbm := rfl
@[simp] theorem State.setTime_flash (p : Nat) (x : PTime) : (s.setTime p x).flash = s.flash := rfl
@[simp] theorem State.setTime_seqs (p : Nat) (x : PTime) : (s.setTime p x).seqs = s.seqs := rfl
@[simp] theorem State.setTime_blocks (p : Nat) (x : PTime) : (s.setTime p x).blocks = s.blocks := rfl
@[simp] theorem State.setTime_dir (p : Nat) (x : PTime) : (s.setTime p x).dir = s.dir := rfl
@[simp] theorem State.setTime_traceQ (p : Nat) (x : PTime) : (s.setTime p x).traceQ = s.traceQ := rfl
@[simp] theorem State.setTime_traceSeq (p : Nat) (x : PTime) : (s.setTime p x).traceSeq = s.traceSeq := rfl
@[simp] theorem State.setTime_hubWait (p : Nat) (x : PTime) : (s.setTime p x).hubWait = s.hubWait := rfl
@[simp] theorem State.setTime_hubMsgs (p : Nat) (x : PTime) : (s.setTime p x).hubMsgs = s.hubMsgs := rfl
@[simp] theorem State.setTime_hubOut (p : Nat) (x : PTime) : (s.setTime p x).hubOut = s.hubOut := rfl
@[simp] theorem State.setTime_swapPath (p : Nat) (x : PTime) : (s.setTime p x).swapPath = s.swapPath := rfl
@[simp] theorem State.setTime_bbox (p : Nat) (x : PTime) : (s.setTime p x).bbox = s.bbox := rfl
@[simp] theorem State.setTime_sealUnit (p : Nat) (x : PTime) : (s.setTime p x).sealUnit = s.sealUnit := rfl
@[simp] theorem State.setTime_power (p : Nat) (x : PTime) : (s.setTime p x).power = s.power := rfl
@[simp] theorem State.setTime_mgmt (p : Nat) (x : PTime) : (s.setTime p x).mgmt = s.mgmt := rfl
@[simp] theorem State.setTime_ports (p : Nat) (x : PTime) : (s.setTime p x).ports = s.ports := rfl
@[simp] theorem State.setTime_host (p : Nat) (x : PTime) : (s.setTime p x).host = s.host := rfl

@[simp] theorem State.setSite_pending (i : Nat) (x : Site) : (s.setSite i x).pending = s.pending := rfl
@[simp] theorem State.setSite_out (i : Nat) (x : Site) : (s.setSite i x).out = s.out := rfl
@[simp] theorem State.setSite_now (i : Nat) (x : Site) : (s.setSite i x).now = s.now := rfl
@[simp] theorem State.setSite_free (i : Nat) (x : Site) : (s.setSite i x).free = s.free := rfl
@[simp] theorem State.setSite_regs (i : Nat) (x : Site) : (s.setSite i x).regs = s.regs := rfl
@[simp] theorem State.setSite_parts (i : Nat) (x : Site) : (s.setSite i x).parts = s.parts := rfl
@[simp] theorem State.setSite_sites (i : Nat) (x : Site) :
    (s.setSite i x).sites = tabSet (fun _ => Site.reset) s.sites i x := rfl
@[simp] theorem State.setSite_hbm (i : Nat) (x : Site) : (s.setSite i x).hbm = s.hbm := rfl
@[simp] theorem State.setSite_flash (i : Nat) (x : Site) : (s.setSite i x).flash = s.flash := rfl
@[simp] theorem State.setSite_seqs (i : Nat) (x : Site) : (s.setSite i x).seqs = s.seqs := rfl
@[simp] theorem State.setSite_blocks (i : Nat) (x : Site) : (s.setSite i x).blocks = s.blocks := rfl
@[simp] theorem State.setSite_dir (i : Nat) (x : Site) : (s.setSite i x).dir = s.dir := rfl
@[simp] theorem State.setSite_traceQ (i : Nat) (x : Site) : (s.setSite i x).traceQ = s.traceQ := rfl
@[simp] theorem State.setSite_traceSeq (i : Nat) (x : Site) : (s.setSite i x).traceSeq = s.traceSeq := rfl
@[simp] theorem State.setSite_hubWait (i : Nat) (x : Site) : (s.setSite i x).hubWait = s.hubWait := rfl
@[simp] theorem State.setSite_hubMsgs (i : Nat) (x : Site) : (s.setSite i x).hubMsgs = s.hubMsgs := rfl
@[simp] theorem State.setSite_hubOut (i : Nat) (x : Site) : (s.setSite i x).hubOut = s.hubOut := rfl
@[simp] theorem State.setSite_swapPath (i : Nat) (x : Site) : (s.setSite i x).swapPath = s.swapPath := rfl
@[simp] theorem State.setSite_bbox (i : Nat) (x : Site) : (s.setSite i x).bbox = s.bbox := rfl
@[simp] theorem State.setSite_sealUnit (i : Nat) (x : Site) : (s.setSite i x).sealUnit = s.sealUnit := rfl
@[simp] theorem State.setSite_power (i : Nat) (x : Site) : (s.setSite i x).power = s.power := rfl
@[simp] theorem State.setSite_mgmt (i : Nat) (x : Site) : (s.setSite i x).mgmt = s.mgmt := rfl
@[simp] theorem State.setSite_ports (i : Nat) (x : Site) : (s.setSite i x).ports = s.ports := rfl
@[simp] theorem State.setSite_host (i : Nat) (x : Site) : (s.setSite i x).host = s.host := rfl

@[simp] theorem State.setCu_pending (i : Nat) (x : Cu) : (s.setCu i x).pending = s.pending := rfl
@[simp] theorem State.setCu_out (i : Nat) (x : Cu) : (s.setCu i x).out = s.out := rfl
@[simp] theorem State.setCu_now (i : Nat) (x : Cu) : (s.setCu i x).now = s.now := rfl
@[simp] theorem State.setCu_free (i : Nat) (x : Cu) : (s.setCu i x).free = s.free := rfl
@[simp] theorem State.setCu_regs (i : Nat) (x : Cu) : (s.setCu i x).regs = s.regs := rfl
@[simp] theorem State.setCu_parts (i : Nat) (x : Cu) : (s.setCu i x).parts = s.parts := rfl
@[simp] theorem State.setCu_sites (i : Nat) (x : Cu) :
    (s.setCu i x).sites = tabSet (fun _ => Site.reset) s.sites i { s.site i with cu := x } := rfl
@[simp] theorem State.setCu_hbm (i : Nat) (x : Cu) : (s.setCu i x).hbm = s.hbm := rfl
@[simp] theorem State.setCu_flash (i : Nat) (x : Cu) : (s.setCu i x).flash = s.flash := rfl
@[simp] theorem State.setCu_seqs (i : Nat) (x : Cu) : (s.setCu i x).seqs = s.seqs := rfl
@[simp] theorem State.setCu_blocks (i : Nat) (x : Cu) : (s.setCu i x).blocks = s.blocks := rfl
@[simp] theorem State.setCu_dir (i : Nat) (x : Cu) : (s.setCu i x).dir = s.dir := rfl
@[simp] theorem State.setCu_traceQ (i : Nat) (x : Cu) : (s.setCu i x).traceQ = s.traceQ := rfl
@[simp] theorem State.setCu_traceSeq (i : Nat) (x : Cu) : (s.setCu i x).traceSeq = s.traceSeq := rfl
@[simp] theorem State.setCu_hubWait (i : Nat) (x : Cu) : (s.setCu i x).hubWait = s.hubWait := rfl
@[simp] theorem State.setCu_hubMsgs (i : Nat) (x : Cu) : (s.setCu i x).hubMsgs = s.hubMsgs := rfl
@[simp] theorem State.setCu_hubOut (i : Nat) (x : Cu) : (s.setCu i x).hubOut = s.hubOut := rfl
@[simp] theorem State.setCu_swapPath (i : Nat) (x : Cu) : (s.setCu i x).swapPath = s.swapPath := rfl
@[simp] theorem State.setCu_bbox (i : Nat) (x : Cu) : (s.setCu i x).bbox = s.bbox := rfl
@[simp] theorem State.setCu_sealUnit (i : Nat) (x : Cu) : (s.setCu i x).sealUnit = s.sealUnit := rfl
@[simp] theorem State.setCu_power (i : Nat) (x : Cu) : (s.setCu i x).power = s.power := rfl
@[simp] theorem State.setCu_mgmt (i : Nat) (x : Cu) : (s.setCu i x).mgmt = s.mgmt := rfl
@[simp] theorem State.setCu_ports (i : Nat) (x : Cu) : (s.setCu i x).ports = s.ports := rfl
@[simp] theorem State.setCu_host (i : Nat) (x : Cu) : (s.setCu i x).host = s.host := rfl

@[simp] theorem State.setSu_pending (i : Nat) (x : Su) : (s.setSu i x).pending = s.pending := rfl
@[simp] theorem State.setSu_out (i : Nat) (x : Su) : (s.setSu i x).out = s.out := rfl
@[simp] theorem State.setSu_now (i : Nat) (x : Su) : (s.setSu i x).now = s.now := rfl
@[simp] theorem State.setSu_free (i : Nat) (x : Su) : (s.setSu i x).free = s.free := rfl
@[simp] theorem State.setSu_regs (i : Nat) (x : Su) : (s.setSu i x).regs = s.regs := rfl
@[simp] theorem State.setSu_parts (i : Nat) (x : Su) : (s.setSu i x).parts = s.parts := rfl
@[simp] theorem State.setSu_sites (i : Nat) (x : Su) :
    (s.setSu i x).sites = tabSet (fun _ => Site.reset) s.sites i { s.site i with su := x } := rfl
@[simp] theorem State.setSu_hbm (i : Nat) (x : Su) : (s.setSu i x).hbm = s.hbm := rfl
@[simp] theorem State.setSu_flash (i : Nat) (x : Su) : (s.setSu i x).flash = s.flash := rfl
@[simp] theorem State.setSu_seqs (i : Nat) (x : Su) : (s.setSu i x).seqs = s.seqs := rfl
@[simp] theorem State.setSu_blocks (i : Nat) (x : Su) : (s.setSu i x).blocks = s.blocks := rfl
@[simp] theorem State.setSu_dir (i : Nat) (x : Su) : (s.setSu i x).dir = s.dir := rfl
@[simp] theorem State.setSu_traceQ (i : Nat) (x : Su) : (s.setSu i x).traceQ = s.traceQ := rfl
@[simp] theorem State.setSu_traceSeq (i : Nat) (x : Su) : (s.setSu i x).traceSeq = s.traceSeq := rfl
@[simp] theorem State.setSu_hubWait (i : Nat) (x : Su) : (s.setSu i x).hubWait = s.hubWait := rfl
@[simp] theorem State.setSu_hubMsgs (i : Nat) (x : Su) : (s.setSu i x).hubMsgs = s.hubMsgs := rfl
@[simp] theorem State.setSu_hubOut (i : Nat) (x : Su) : (s.setSu i x).hubOut = s.hubOut := rfl
@[simp] theorem State.setSu_swapPath (i : Nat) (x : Su) : (s.setSu i x).swapPath = s.swapPath := rfl
@[simp] theorem State.setSu_bbox (i : Nat) (x : Su) : (s.setSu i x).bbox = s.bbox := rfl
@[simp] theorem State.setSu_sealUnit (i : Nat) (x : Su) : (s.setSu i x).sealUnit = s.sealUnit := rfl
@[simp] theorem State.setSu_power (i : Nat) (x : Su) : (s.setSu i x).power = s.power := rfl
@[simp] theorem State.setSu_mgmt (i : Nat) (x : Su) : (s.setSu i x).mgmt = s.mgmt := rfl
@[simp] theorem State.setSu_ports (i : Nat) (x : Su) : (s.setSu i x).ports = s.ports := rfl
@[simp] theorem State.setSu_host (i : Nat) (x : Su) : (s.setSu i x).host = s.host := rfl

@[simp] theorem State.setMu_pending (i : Nat) (x : Mu) : (s.setMu i x).pending = s.pending := rfl
@[simp] theorem State.setMu_out (i : Nat) (x : Mu) : (s.setMu i x).out = s.out := rfl
@[simp] theorem State.setMu_now (i : Nat) (x : Mu) : (s.setMu i x).now = s.now := rfl
@[simp] theorem State.setMu_free (i : Nat) (x : Mu) : (s.setMu i x).free = s.free := rfl
@[simp] theorem State.setMu_regs (i : Nat) (x : Mu) : (s.setMu i x).regs = s.regs := rfl
@[simp] theorem State.setMu_parts (i : Nat) (x : Mu) : (s.setMu i x).parts = s.parts := rfl
@[simp] theorem State.setMu_sites (i : Nat) (x : Mu) :
    (s.setMu i x).sites = tabSet (fun _ => Site.reset) s.sites i { s.site i with mu := x } := rfl
@[simp] theorem State.setMu_hbm (i : Nat) (x : Mu) : (s.setMu i x).hbm = s.hbm := rfl
@[simp] theorem State.setMu_flash (i : Nat) (x : Mu) : (s.setMu i x).flash = s.flash := rfl
@[simp] theorem State.setMu_seqs (i : Nat) (x : Mu) : (s.setMu i x).seqs = s.seqs := rfl
@[simp] theorem State.setMu_blocks (i : Nat) (x : Mu) : (s.setMu i x).blocks = s.blocks := rfl
@[simp] theorem State.setMu_dir (i : Nat) (x : Mu) : (s.setMu i x).dir = s.dir := rfl
@[simp] theorem State.setMu_traceQ (i : Nat) (x : Mu) : (s.setMu i x).traceQ = s.traceQ := rfl
@[simp] theorem State.setMu_traceSeq (i : Nat) (x : Mu) : (s.setMu i x).traceSeq = s.traceSeq := rfl
@[simp] theorem State.setMu_hubWait (i : Nat) (x : Mu) : (s.setMu i x).hubWait = s.hubWait := rfl
@[simp] theorem State.setMu_hubMsgs (i : Nat) (x : Mu) : (s.setMu i x).hubMsgs = s.hubMsgs := rfl
@[simp] theorem State.setMu_hubOut (i : Nat) (x : Mu) : (s.setMu i x).hubOut = s.hubOut := rfl
@[simp] theorem State.setMu_swapPath (i : Nat) (x : Mu) : (s.setMu i x).swapPath = s.swapPath := rfl
@[simp] theorem State.setMu_bbox (i : Nat) (x : Mu) : (s.setMu i x).bbox = s.bbox := rfl
@[simp] theorem State.setMu_sealUnit (i : Nat) (x : Mu) : (s.setMu i x).sealUnit = s.sealUnit := rfl
@[simp] theorem State.setMu_power (i : Nat) (x : Mu) : (s.setMu i x).power = s.power := rfl
@[simp] theorem State.setMu_mgmt (i : Nat) (x : Mu) : (s.setMu i x).mgmt = s.mgmt := rfl
@[simp] theorem State.setMu_ports (i : Nat) (x : Mu) : (s.setMu i x).ports = s.ports := rfl
@[simp] theorem State.setMu_host (i : Nat) (x : Mu) : (s.setMu i x).host = s.host := rfl

@[simp] theorem State.setv_pending (r : Rg) (ix : List Nat) (w : Word) : (s.setv r ix w).pending = s.pending := rfl
@[simp] theorem State.setv_out (r : Rg) (ix : List Nat) (w : Word) : (s.setv r ix w).out = s.out := rfl
@[simp] theorem State.setv_now (r : Rg) (ix : List Nat) (w : Word) : (s.setv r ix w).now = s.now := rfl
@[simp] theorem State.setv_free (r : Rg) (ix : List Nat) (w : Word) : (s.setv r ix w).free = s.free := rfl
@[simp] theorem State.setv_regs (r : Rg) (ix : List Nat) (w : Word) :
    (s.setv r ix w).regs = { s.regs with val := tabSet valReset s.regs.val (r.at ix) w } := rfl
@[simp] theorem State.setv_parts (r : Rg) (ix : List Nat) (w : Word) : (s.setv r ix w).parts = s.parts := rfl
@[simp] theorem State.setv_sites (r : Rg) (ix : List Nat) (w : Word) : (s.setv r ix w).sites = s.sites := rfl
@[simp] theorem State.setv_hbm (r : Rg) (ix : List Nat) (w : Word) : (s.setv r ix w).hbm = s.hbm := rfl
@[simp] theorem State.setv_flash (r : Rg) (ix : List Nat) (w : Word) : (s.setv r ix w).flash = s.flash := rfl
@[simp] theorem State.setv_seqs (r : Rg) (ix : List Nat) (w : Word) : (s.setv r ix w).seqs = s.seqs := rfl
@[simp] theorem State.setv_blocks (r : Rg) (ix : List Nat) (w : Word) : (s.setv r ix w).blocks = s.blocks := rfl
@[simp] theorem State.setv_dir (r : Rg) (ix : List Nat) (w : Word) : (s.setv r ix w).dir = s.dir := rfl
@[simp] theorem State.setv_traceQ (r : Rg) (ix : List Nat) (w : Word) : (s.setv r ix w).traceQ = s.traceQ := rfl
@[simp] theorem State.setv_traceSeq (r : Rg) (ix : List Nat) (w : Word) :
    (s.setv r ix w).traceSeq = s.traceSeq := rfl
@[simp] theorem State.setv_hubWait (r : Rg) (ix : List Nat) (w : Word) : (s.setv r ix w).hubWait = s.hubWait := rfl
@[simp] theorem State.setv_hubMsgs (r : Rg) (ix : List Nat) (w : Word) : (s.setv r ix w).hubMsgs = s.hubMsgs := rfl
@[simp] theorem State.setv_hubOut (r : Rg) (ix : List Nat) (w : Word) : (s.setv r ix w).hubOut = s.hubOut := rfl
@[simp] theorem State.setv_swapPath (r : Rg) (ix : List Nat) (w : Word) : (s.setv r ix w).swapPath = s.swapPath := rfl
@[simp] theorem State.setv_bbox (r : Rg) (ix : List Nat) (w : Word) : (s.setv r ix w).bbox = s.bbox := rfl
@[simp] theorem State.setv_sealUnit (r : Rg) (ix : List Nat) (w : Word) :
    (s.setv r ix w).sealUnit = s.sealUnit := rfl
@[simp] theorem State.setv_power (r : Rg) (ix : List Nat) (w : Word) : (s.setv r ix w).power = s.power := rfl
@[simp] theorem State.setv_mgmt (r : Rg) (ix : List Nat) (w : Word) : (s.setv r ix w).mgmt = s.mgmt := rfl
@[simp] theorem State.setv_ports (r : Rg) (ix : List Nat) (w : Word) : (s.setv r ix w).ports = s.ports := rfl
@[simp] theorem State.setv_host (r : Rg) (ix : List Nat) (w : Word) : (s.setv r ix w).host = s.host := rfl

@[simp] theorem State.sets_pending (r : Rg) (ix : List Nat) (w : Word) : (s.sets r ix w).pending = s.pending := rfl
@[simp] theorem State.sets_out (r : Rg) (ix : List Nat) (w : Word) : (s.sets r ix w).out = s.out := rfl
@[simp] theorem State.sets_now (r : Rg) (ix : List Nat) (w : Word) : (s.sets r ix w).now = s.now := rfl
@[simp] theorem State.sets_free (r : Rg) (ix : List Nat) (w : Word) : (s.sets r ix w).free = s.free := rfl
@[simp] theorem State.sets_regs (r : Rg) (ix : List Nat) (w : Word) :
    (s.sets r ix w).regs = { s.regs with stg := tabSet rwsReset s.regs.stg (r.at ix) w } := rfl
@[simp] theorem State.sets_parts (r : Rg) (ix : List Nat) (w : Word) : (s.sets r ix w).parts = s.parts := rfl
@[simp] theorem State.sets_sites (r : Rg) (ix : List Nat) (w : Word) : (s.sets r ix w).sites = s.sites := rfl
@[simp] theorem State.sets_hbm (r : Rg) (ix : List Nat) (w : Word) : (s.sets r ix w).hbm = s.hbm := rfl
@[simp] theorem State.sets_flash (r : Rg) (ix : List Nat) (w : Word) : (s.sets r ix w).flash = s.flash := rfl
@[simp] theorem State.sets_seqs (r : Rg) (ix : List Nat) (w : Word) : (s.sets r ix w).seqs = s.seqs := rfl
@[simp] theorem State.sets_blocks (r : Rg) (ix : List Nat) (w : Word) : (s.sets r ix w).blocks = s.blocks := rfl
@[simp] theorem State.sets_dir (r : Rg) (ix : List Nat) (w : Word) : (s.sets r ix w).dir = s.dir := rfl
@[simp] theorem State.sets_traceQ (r : Rg) (ix : List Nat) (w : Word) : (s.sets r ix w).traceQ = s.traceQ := rfl
@[simp] theorem State.sets_traceSeq (r : Rg) (ix : List Nat) (w : Word) :
    (s.sets r ix w).traceSeq = s.traceSeq := rfl
@[simp] theorem State.sets_hubWait (r : Rg) (ix : List Nat) (w : Word) : (s.sets r ix w).hubWait = s.hubWait := rfl
@[simp] theorem State.sets_hubMsgs (r : Rg) (ix : List Nat) (w : Word) : (s.sets r ix w).hubMsgs = s.hubMsgs := rfl
@[simp] theorem State.sets_hubOut (r : Rg) (ix : List Nat) (w : Word) : (s.sets r ix w).hubOut = s.hubOut := rfl
@[simp] theorem State.sets_swapPath (r : Rg) (ix : List Nat) (w : Word) : (s.sets r ix w).swapPath = s.swapPath := rfl
@[simp] theorem State.sets_bbox (r : Rg) (ix : List Nat) (w : Word) : (s.sets r ix w).bbox = s.bbox := rfl
@[simp] theorem State.sets_sealUnit (r : Rg) (ix : List Nat) (w : Word) :
    (s.sets r ix w).sealUnit = s.sealUnit := rfl
@[simp] theorem State.sets_power (r : Rg) (ix : List Nat) (w : Word) : (s.sets r ix w).power = s.power := rfl
@[simp] theorem State.sets_mgmt (r : Rg) (ix : List Nat) (w : Word) : (s.sets r ix w).mgmt = s.mgmt := rfl
@[simp] theorem State.sets_ports (r : Rg) (ix : List Nat) (w : Word) : (s.sets r ix w).ports = s.ports := rfl
@[simp] theorem State.sets_host (r : Rg) (ix : List Nat) (w : Word) : (s.sets r ix w).host = s.host := rfl

@[simp] theorem State.setAll_pending (r : Rg) (ix : List Nat) (w : Word) :
    (s.setAll r ix w).pending = s.pending := rfl
@[simp] theorem State.setAll_out (r : Rg) (ix : List Nat) (w : Word) : (s.setAll r ix w).out = s.out := rfl
@[simp] theorem State.setAll_now (r : Rg) (ix : List Nat) (w : Word) : (s.setAll r ix w).now = s.now := rfl
@[simp] theorem State.setAll_free (r : Rg) (ix : List Nat) (w : Word) : (s.setAll r ix w).free = s.free := rfl
@[simp] theorem State.setAll_parts (r : Rg) (ix : List Nat) (w : Word) : (s.setAll r ix w).parts = s.parts := rfl
@[simp] theorem State.setAll_sites (r : Rg) (ix : List Nat) (w : Word) : (s.setAll r ix w).sites = s.sites := rfl
@[simp] theorem State.setAll_hbm (r : Rg) (ix : List Nat) (w : Word) : (s.setAll r ix w).hbm = s.hbm := rfl
@[simp] theorem State.setAll_flash (r : Rg) (ix : List Nat) (w : Word) : (s.setAll r ix w).flash = s.flash := rfl
@[simp] theorem State.setAll_seqs (r : Rg) (ix : List Nat) (w : Word) : (s.setAll r ix w).seqs = s.seqs := rfl
@[simp] theorem State.setAll_blocks (r : Rg) (ix : List Nat) (w : Word) : (s.setAll r ix w).blocks = s.blocks := rfl
@[simp] theorem State.setAll_dir (r : Rg) (ix : List Nat) (w : Word) : (s.setAll r ix w).dir = s.dir := rfl
@[simp] theorem State.setAll_traceQ (r : Rg) (ix : List Nat) (w : Word) : (s.setAll r ix w).traceQ = s.traceQ := rfl
@[simp] theorem State.setAll_traceSeq (r : Rg) (ix : List Nat) (w : Word) :
    (s.setAll r ix w).traceSeq = s.traceSeq := rfl
@[simp] theorem State.setAll_hubWait (r : Rg) (ix : List Nat) (w : Word) :
    (s.setAll r ix w).hubWait = s.hubWait := rfl
@[simp] theorem State.setAll_bbox (r : Rg) (ix : List Nat) (w : Word) : (s.setAll r ix w).bbox = s.bbox := rfl
@[simp] theorem State.setAll_sealUnit (r : Rg) (ix : List Nat) (w : Word) :
    (s.setAll r ix w).sealUnit = s.sealUnit := rfl
@[simp] theorem State.setAll_power (r : Rg) (ix : List Nat) (w : Word) : (s.setAll r ix w).power = s.power := rfl
@[simp] theorem State.setAll_mgmt (r : Rg) (ix : List Nat) (w : Word) : (s.setAll r ix w).mgmt = s.mgmt := rfl
@[simp] theorem State.setAll_ports (r : Rg) (ix : List Nat) (w : Word) : (s.setAll r ix w).ports = s.ports := rfl
@[simp] theorem State.setAll_host (r : Rg) (ix : List Nat) (w : Word) : (s.setAll r ix w).host = s.host := rfl

@[simp] theorem State.setf_pending (f : Fld) (ix : List Nat) (n : Nat) : (s.setf f ix n).pending = s.pending := rfl
@[simp] theorem State.setf_out (f : Fld) (ix : List Nat) (n : Nat) : (s.setf f ix n).out = s.out := rfl
@[simp] theorem State.setf_now (f : Fld) (ix : List Nat) (n : Nat) : (s.setf f ix n).now = s.now := rfl
@[simp] theorem State.setf_free (f : Fld) (ix : List Nat) (n : Nat) : (s.setf f ix n).free = s.free := rfl
@[simp] theorem State.setf_parts (f : Fld) (ix : List Nat) (n : Nat) : (s.setf f ix n).parts = s.parts := rfl
@[simp] theorem State.setf_sites (f : Fld) (ix : List Nat) (n : Nat) : (s.setf f ix n).sites = s.sites := rfl
@[simp] theorem State.setf_hbm (f : Fld) (ix : List Nat) (n : Nat) : (s.setf f ix n).hbm = s.hbm := rfl
@[simp] theorem State.setf_flash (f : Fld) (ix : List Nat) (n : Nat) : (s.setf f ix n).flash = s.flash := rfl
@[simp] theorem State.setf_seqs (f : Fld) (ix : List Nat) (n : Nat) : (s.setf f ix n).seqs = s.seqs := rfl
@[simp] theorem State.setf_blocks (f : Fld) (ix : List Nat) (n : Nat) : (s.setf f ix n).blocks = s.blocks := rfl
@[simp] theorem State.setf_dir (f : Fld) (ix : List Nat) (n : Nat) : (s.setf f ix n).dir = s.dir := rfl
@[simp] theorem State.setf_traceQ (f : Fld) (ix : List Nat) (n : Nat) : (s.setf f ix n).traceQ = s.traceQ := rfl
@[simp] theorem State.setf_traceSeq (f : Fld) (ix : List Nat) (n : Nat) :
    (s.setf f ix n).traceSeq = s.traceSeq := rfl
@[simp] theorem State.setf_hubWait (f : Fld) (ix : List Nat) (n : Nat) : (s.setf f ix n).hubWait = s.hubWait := rfl
@[simp] theorem State.setf_hubMsgs (f : Fld) (ix : List Nat) (n : Nat) : (s.setf f ix n).hubMsgs = s.hubMsgs := rfl
@[simp] theorem State.setf_hubOut (f : Fld) (ix : List Nat) (n : Nat) : (s.setf f ix n).hubOut = s.hubOut := rfl
@[simp] theorem State.setf_swapPath (f : Fld) (ix : List Nat) (n : Nat) : (s.setf f ix n).swapPath = s.swapPath := rfl
@[simp] theorem State.setf_bbox (f : Fld) (ix : List Nat) (n : Nat) : (s.setf f ix n).bbox = s.bbox := rfl
@[simp] theorem State.setf_sealUnit (f : Fld) (ix : List Nat) (n : Nat) :
    (s.setf f ix n).sealUnit = s.sealUnit := rfl
@[simp] theorem State.setf_power (f : Fld) (ix : List Nat) (n : Nat) : (s.setf f ix n).power = s.power := rfl
@[simp] theorem State.setf_mgmt (f : Fld) (ix : List Nat) (n : Nat) : (s.setf f ix n).mgmt = s.mgmt := rfl
@[simp] theorem State.setf_ports (f : Fld) (ix : List Nat) (n : Nat) : (s.setf f ix n).ports = s.ports := rfl
@[simp] theorem State.setf_host (f : Fld) (ix : List Nat) (n : Nat) : (s.setf f ix n).host = s.host := rfl

@[simp] theorem State.bump_pending (r : Rg) (ix : List Nat) (k : Nat) : (s.bump r ix k).pending = s.pending := rfl
@[simp] theorem State.bump_out (r : Rg) (ix : List Nat) (k : Nat) : (s.bump r ix k).out = s.out := rfl
@[simp] theorem State.bump_now (r : Rg) (ix : List Nat) (k : Nat) : (s.bump r ix k).now = s.now := rfl
@[simp] theorem State.bump_free (r : Rg) (ix : List Nat) (k : Nat) : (s.bump r ix k).free = s.free := rfl
@[simp] theorem State.bump_parts (r : Rg) (ix : List Nat) (k : Nat) : (s.bump r ix k).parts = s.parts := rfl
@[simp] theorem State.bump_sites (r : Rg) (ix : List Nat) (k : Nat) : (s.bump r ix k).sites = s.sites := rfl
@[simp] theorem State.bump_hbm (r : Rg) (ix : List Nat) (k : Nat) : (s.bump r ix k).hbm = s.hbm := rfl
@[simp] theorem State.bump_flash (r : Rg) (ix : List Nat) (k : Nat) : (s.bump r ix k).flash = s.flash := rfl
@[simp] theorem State.bump_seqs (r : Rg) (ix : List Nat) (k : Nat) : (s.bump r ix k).seqs = s.seqs := rfl
@[simp] theorem State.bump_blocks (r : Rg) (ix : List Nat) (k : Nat) : (s.bump r ix k).blocks = s.blocks := rfl
@[simp] theorem State.bump_dir (r : Rg) (ix : List Nat) (k : Nat) : (s.bump r ix k).dir = s.dir := rfl
@[simp] theorem State.bump_traceQ (r : Rg) (ix : List Nat) (k : Nat) : (s.bump r ix k).traceQ = s.traceQ := rfl
@[simp] theorem State.bump_traceSeq (r : Rg) (ix : List Nat) (k : Nat) :
    (s.bump r ix k).traceSeq = s.traceSeq := rfl
@[simp] theorem State.bump_hubWait (r : Rg) (ix : List Nat) (k : Nat) : (s.bump r ix k).hubWait = s.hubWait := rfl
@[simp] theorem State.bump_hubMsgs (r : Rg) (ix : List Nat) (k : Nat) : (s.bump r ix k).hubMsgs = s.hubMsgs := rfl
@[simp] theorem State.bump_hubOut (r : Rg) (ix : List Nat) (k : Nat) : (s.bump r ix k).hubOut = s.hubOut := rfl
@[simp] theorem State.bump_swapPath (r : Rg) (ix : List Nat) (k : Nat) : (s.bump r ix k).swapPath = s.swapPath := rfl
@[simp] theorem State.bump_bbox (r : Rg) (ix : List Nat) (k : Nat) : (s.bump r ix k).bbox = s.bbox := rfl
@[simp] theorem State.bump_sealUnit (r : Rg) (ix : List Nat) (k : Nat) :
    (s.bump r ix k).sealUnit = s.sealUnit := rfl
@[simp] theorem State.bump_power (r : Rg) (ix : List Nat) (k : Nat) : (s.bump r ix k).power = s.power := rfl
@[simp] theorem State.bump_mgmt (r : Rg) (ix : List Nat) (k : Nat) : (s.bump r ix k).mgmt = s.mgmt := rfl
@[simp] theorem State.bump_ports (r : Rg) (ix : List Nat) (k : Nat) : (s.bump r ix k).ports = s.ports := rfl
@[simp] theorem State.bump_host (r : Rg) (ix : List Nat) (k : Nat) : (s.bump r ix k).host = s.host := rfl

@[simp] theorem State.resetRange_pending (lo : Nat) (hi : Nat) : (s.resetRange lo hi).pending = s.pending := rfl
@[simp] theorem State.resetRange_out (lo : Nat) (hi : Nat) : (s.resetRange lo hi).out = s.out := rfl
@[simp] theorem State.resetRange_now (lo : Nat) (hi : Nat) : (s.resetRange lo hi).now = s.now := rfl
@[simp] theorem State.resetRange_free (lo : Nat) (hi : Nat) : (s.resetRange lo hi).free = s.free := rfl
@[simp] theorem State.resetRange_parts (lo : Nat) (hi : Nat) : (s.resetRange lo hi).parts = s.parts := rfl
@[simp] theorem State.resetRange_sites (lo : Nat) (hi : Nat) : (s.resetRange lo hi).sites = s.sites := rfl
@[simp] theorem State.resetRange_hbm (lo : Nat) (hi : Nat) : (s.resetRange lo hi).hbm = s.hbm := rfl
@[simp] theorem State.resetRange_flash (lo : Nat) (hi : Nat) : (s.resetRange lo hi).flash = s.flash := rfl
@[simp] theorem State.resetRange_seqs (lo : Nat) (hi : Nat) : (s.resetRange lo hi).seqs = s.seqs := rfl
@[simp] theorem State.resetRange_blocks (lo : Nat) (hi : Nat) : (s.resetRange lo hi).blocks = s.blocks := rfl
@[simp] theorem State.resetRange_dir (lo : Nat) (hi : Nat) : (s.resetRange lo hi).dir = s.dir := rfl
@[simp] theorem State.resetRange_traceQ (lo : Nat) (hi : Nat) : (s.resetRange lo hi).traceQ = s.traceQ := rfl
@[simp] theorem State.resetRange_traceSeq (lo : Nat) (hi : Nat) : (s.resetRange lo hi).traceSeq = s.traceSeq := rfl
@[simp] theorem State.resetRange_hubWait (lo : Nat) (hi : Nat) : (s.resetRange lo hi).hubWait = s.hubWait := rfl
@[simp] theorem State.resetRange_hubMsgs (lo : Nat) (hi : Nat) : (s.resetRange lo hi).hubMsgs = s.hubMsgs := rfl
@[simp] theorem State.resetRange_hubOut (lo : Nat) (hi : Nat) : (s.resetRange lo hi).hubOut = s.hubOut := rfl
@[simp] theorem State.resetRange_swapPath (lo : Nat) (hi : Nat) : (s.resetRange lo hi).swapPath = s.swapPath := rfl
@[simp] theorem State.resetRange_bbox (lo : Nat) (hi : Nat) : (s.resetRange lo hi).bbox = s.bbox := rfl
@[simp] theorem State.resetRange_sealUnit (lo : Nat) (hi : Nat) : (s.resetRange lo hi).sealUnit = s.sealUnit := rfl
@[simp] theorem State.resetRange_power (lo : Nat) (hi : Nat) : (s.resetRange lo hi).power = s.power := rfl
@[simp] theorem State.resetRange_mgmt (lo : Nat) (hi : Nat) : (s.resetRange lo hi).mgmt = s.mgmt := rfl
@[simp] theorem State.resetRange_ports (lo : Nat) (hi : Nat) : (s.resetRange lo hi).ports = s.ports := rfl
@[simp] theorem State.resetRange_host (lo : Nat) (hi : Nat) : (s.resetRange lo hi).host = s.host := rfl

end Sys2Proof.Machine
end

