-- ==== Sys2Proof/Laws/Regs.lean ====
section
/-! SUPPORT. Reads of registers and fields after writes of them. -/

namespace Sys2Proof

theorem getBits_testBit (w : Word) (hi lo i : Nat) :
    (getBits w hi lo).testBit i = (w.getLsbD (lo + i) && decide (i < hi + 1 - lo)) := by
  unfold getBits
  rw [BitVec.testBit_toNat, BitVec.getLsbD_and, BitVec.getLsbD_ushiftRight, BitVec.getLsbD_ofNat,
    Nat.testBit_two_pow_sub_one]
  by_cases h : lo + i < 64
  · have : i < 64 := by omega
    simp [this]
  · simp [BitVec.getLsbD_of_ge w (lo + i) (by omega)]

theorem putBits_getLsbD (w : Word) (hi lo n i : Nat) (h : hi < 64) (k : lo ≤ hi) :
    (putBits w hi lo n).getLsbD i =
      if lo ≤ i ∧ i ≤ hi then n.testBit (i - lo) else w.getLsbD i := by
  unfold putBits rangeMask
  simp only [BitVec.getLsbD_or, BitVec.getLsbD_and, BitVec.getLsbD_not, BitVec.getLsbD_shiftLeft, BitVec.getLsbD_ofNat,
    Nat.testBit_two_pow_sub_one, Nat.testBit_mod_two_pow]
  by_cases hi64 : i < 64
  · by_cases h1 : lo ≤ i
    · by_cases h2 : i ≤ hi
      · have : i - lo < hi + 1 - lo := by omega
        have h3 : i - lo < 64 := by omega
        have h4 : ¬ i < lo := by omega
        simp [hi64, h1, h2, this, h3, h4]
      · have : ¬ i - lo < hi + 1 - lo := by omega
        simp [hi64, h1, h2, this]
    · have h4 : i < lo := by omega
      simp [hi64, h1, h4]
  · have : ¬ (lo ≤ i ∧ i ≤ hi) := by omega
    simp [hi64, this, BitVec.getLsbD_of_ge w i (by omega)]

/-- A field read back after it has been set. -/
theorem getBits_putBits_same (w : Word) (hi lo n : Nat) (h : hi < 64) (k : lo ≤ hi) :
    getBits (putBits w hi lo n) hi lo = n % 2 ^ (hi + 1 - lo) := by
  apply Nat.eq_of_testBit_eq
  intro i
  rw [getBits_testBit, putBits_getLsbD w hi lo n _ h k, Nat.testBit_mod_two_pow]
  by_cases hi' : i < hi + 1 - lo
  · have : lo ≤ lo + i ∧ lo + i ≤ hi := by omega
    simp [hi', this]
  · simp [hi']

/-- A field read after another field of the register has been set. -/
theorem getBits_putBits_disjoint (w : Word) (hi lo n a b : Nat) (h : hi < 64) (k : lo ≤ hi) (d : a < lo ∨ hi < b) :
    getBits (putBits w hi lo n) a b = getBits w a b := by
  apply Nat.eq_of_testBit_eq
  intro i
  rw [getBits_testBit, getBits_testBit, putBits_getLsbD w hi lo n _ h k]
  by_cases hi' : i < a + 1 - b
  · have : ¬ (lo ≤ b + i ∧ b + i ≤ hi) := by omega
    simp [this]
  · simp [hi']

/-- A bit range of a number stored as a word. -/
theorem getBits_ofNat (n hi lo : Nat) (h : hi < 64) :
    getBits (BitVec.ofNat 64 n) hi lo = n / 2 ^ lo % 2 ^ (hi + 1 - lo) := by
  apply Nat.eq_of_testBit_eq
  intro i
  rw [getBits_testBit, BitVec.getLsbD_ofNat, Nat.testBit_mod_two_pow, Nat.testBit_div_two_pow]
  by_cases k : i < hi + 1 - lo
  · have : lo + i < 64 := by omega
    simp [k, this, Nat.add_comm]
  · simp [k]

namespace Machine

/-! ### Registers -/

theorem State.wf_val {s : State} (h : s.wf = true) : tabSorted s.regs.val = true := by
  simp only [State.wf, Regs.wf, Bool.and_eq_true] at h
  exact tabWf.sorted h.2.1.1.1

theorem State.rv_setv_same {s : State} (h : s.wf = true) (r : Rg) (ix : List Nat) (w : Word) :
    (s.setv r ix w).rv r ix = w := tabGet_tabSet_same _ _ _ _ (State.wf_val h)

theorem State.rv_setv_ne (s : State) {r q : Rg} {ix jx : List Nat} (w : Word) (h : q.at jx ≠ r.at ix) :
    (s.setv r ix w).rv q jx = s.rv q jx := tabGet_tabSet_ne _ _ _ h

@[simp] theorem State.ra_setv (s : State) (r q : Rg) (ix jx : List Nat) (w : Word) :
    (s.setv r ix w).ra q jx = s.ra q jx := rfl

@[simp] theorem State.rs_setv (s : State) (r q : Rg) (ix jx : List Nat) (w : Word) :
    (s.setv r ix w).rs q jx = s.rs q jx := rfl

@[simp] theorem State.rp_setv (s : State) (r q : Rg) (ix jx : List Nat) (w : Word) :
    (s.setv r ix w).rp q jx = s.rp q jx := rfl

/-- A field read back after it has been set. -/
theorem State.fv_setf_same {s : State} (h : s.wf = true) (f : Fld) (ix : List Nat) (n : Nat) (b : f.hi < 64)
    (k : f.lo ≤ f.hi) : (s.setf f ix n).fv f ix = n % 2 ^ (f.hi + 1 - f.lo) := by
  unfold State.fv State.setf Fld.get Fld.put
  rw [State.rv_setv_same h, getBits_putBits_same _ _ _ _ b k]

/-- A field of another register or instance. -/
theorem State.fv_setf_ne (s : State) {f g : Fld} {ix jx : List Nat} (n : Nat) (h : g.reg.at jx ≠ f.reg.at ix) :
    (s.setf f ix n).fv g jx = s.fv g jx := by
  unfold State.fv State.setf
  rw [State.rv_setv_ne _ _ h]

/-- Another field of the same register. -/
theorem State.fv_setf_disjoint {s : State} (h : s.wf = true) {f g : Fld} (e : g.reg = f.reg) (ix : List Nat) (n : Nat)
    (b : f.hi < 64) (k : f.lo ≤ f.hi) (d : g.hi < f.lo ∨ f.hi < g.lo) : (s.setf f ix n).fv g ix = s.fv g ix := by
  unfold State.fv State.setf Fld.get Fld.put
  rw [e, State.rv_setv_same h, getBits_putBits_disjoint _ _ _ _ _ _ b k d]

/-- A register write keeps the canonical form. -/
theorem State.setv_wf {s : State} (h : s.wf = true) (r : Rg) (ix : List Nat) (w : Word) : (s.setv r ix w).wf = true := by
  simp only [State.wf, Regs.wf, Bool.and_eq_true] at h ⊢
  exact ⟨h.1, ⟨⟨tabWf_tabSet _ _ h.2.1.1.1, h.2.1.1.2⟩, h.2.1.2⟩, h.2.2⟩

theorem State.setf_wf {s : State} (h : s.wf = true) (f : Fld) (ix : List Nat) (n : Nat) : (s.setf f ix n).wf = true :=
  State.setv_wf h _ _ _

/-- A counter read back after it has been raised (R110). -/
theorem State.bump_same {s : State} (h : s.wf = true) (r : Rg) (ix : List Nat) (k : Nat) :
    ((s.bump r ix k).rv r ix).toNat = ((s.rv r ix).toNat + k) % 2 ^ 48 := by
  unfold State.bump
  rw [State.rv_setv_same h, BitVec.toNat_ofNat]
  exact Nat.mod_eq_of_lt (Nat.lt_trans (Nat.mod_lt _ (by decide)) (by decide))

/-! ### What changes in registers only -/

theorem State.onlyRegs_refl (s : State) (l : List (Rg × List Nat)) : s.onlyRegs s l := ⟨rfl, fun _ _ => rfl⟩

theorem State.onlyRegs_setv (s : State) (r : Rg) (ix : List Nat) (w : Word) : s.onlyRegs (s.setv r ix w) [(r, ix)] :=
  ⟨rfl, fun a h => tabGet_tabSet_ne _ _ _ (fun e => h (by simp [e]))⟩

theorem State.onlyRegs_setf (s : State) (f : Fld) (ix : List Nat) (n : Nat) :
    s.onlyRegs (s.setf f ix n) [(f.reg, ix)] := State.onlyRegs_setv s _ _ _

theorem State.onlyRegs_bump (s : State) (r : Rg) (ix : List Nat) (k : Nat) :
    s.onlyRegs (s.bump r ix k) [(r, ix)] := State.onlyRegs_setv s _ _ _

theorem State.onlyRegs.trans {s t u : State} {l m : List (Rg × List Nat)} (h : s.onlyRegs t l) (k : t.onlyRegs u m) :
    s.onlyRegs u (l ++ m) := by
  refine ⟨?_, fun a ha => ?_⟩
  · rw [k.1, h.1]
    rfl
  · rw [List.map_append, List.mem_append, not_or] at ha
    rw [k.2 a ha.2, h.2 a ha.1]

theorem State.onlyRegs.mono {s t : State} {l m : List (Rg × List Nat)} (h : s.onlyRegs t l) (k : ∀ x ∈ l, x ∈ m) :
    s.onlyRegs t m :=
  ⟨h.1, fun a ha => h.2 a (fun c => by
    obtain ⟨x, hx, e⟩ := List.mem_map.1 c
    exact ha (List.mem_map.2 ⟨x, k x hx, e⟩))⟩

/-- A change of registers only leaves memory alone. -/
theorem State.onlyRegs.sameBytes {s t : State} {l : List (Rg × List Nat)} (h : s.onlyRegs t l) : s.sameBytes t :=
  fun a => by rw [h.1]; rfl

/-! ### Memory -/

theorem Memory.wf_sorted {m : List (Nat × Byte)} (h : Memory.wf m = true) : tabSorted m = true := tabWf.sorted h

/-- A byte outside the bytes that a write stores. -/
theorem putBytes_outside (m : List (Nat × Byte)) (a : Nat) (bs : List Byte) (b : Nat)
    (h : b < a ∨ a + bs.length ≤ b) : tabGet hbmZero (putBytes m a bs) b = tabGet hbmZero m b := by
  induction bs generalizing m a with
  | nil => rfl
  | cons x bs ih =>
    simp only [List.length_cons] at h
    rw [putBytes, ih _ _ (by omega), tabGet_tabSet_ne _ _ _ (by omega)]

/-- A byte that a write stores. -/
theorem putBytes_inside {m : List (Nat × Byte)} (w : Memory.wf m = true) (a : Nat) (bs : List Byte) (i : Nat)
    (h : i < bs.length) : tabGet hbmZero (putBytes m a bs) (a + i) = bs[i] := by
  induction bs generalizing m a i with
  | nil => simp at h
  | cons x bs ih =>
    rw [putBytes]
    cases i with
    | zero =>
      rw [putBytes_outside _ _ _ _ (by omega)]
      exact tabGet_tabSet_same _ _ _ _ (Memory.wf_sorted w)
    | succ i =>
      have : a + (i + 1) = a + 1 + i := by omega
      rw [this, ih (tabWf_tabSet _ _ w) _ i (by simpa using h)]
      rfl

end Machine

end Sys2Proof
end

