-- ==== Sys2Proof/WellFormed.lean ====
section
/-! DEFINITION. Well-formed commands: every operand that names a place of the module names one that exists. The meanings
are total on ill-formed commands too; claims are made of well-formed ones. -/

namespace Sys2Proof

/-- A site of the array of 128 by 48 (R73). -/
def okSite (n : Nat) : Bool := decide (n < 6144)

/-- A partition of the module, 0 to 31 (R483). -/
def okPart (n : Nat) : Bool := decide (n < 32)

/-- A fabric die, 0 to 7 (R17). -/
def okDie (n : Nat) : Bool := decide (n < 8)

/-- An HBM stack of a die (R359). -/
def okStack (n : Nat) : Bool := decide (n < 4)

/-- A hatch engine of a memory unit (R201). -/
def okEngine (n : Nat) : Bool := decide (n < 4)

/-- A bank of a memory unit (R192). -/
def okBank (n : Nat) : Bool := decide (n < 16)

/-- A semaphore of a memory unit (R213). -/
def okSem (n : Nat) : Bool := decide (n < 64)

/-- A slot of a switch unit's port (R88). -/
def okSlot (n : Nat) : Bool := decide (n < 8)

/-- An output of a switch unit: four neighbours and local (R73). -/
def okSuPort (n : Nat) : Bool := decide (n < 5)

/-- An input of a switch unit, or the local store (5), whose freed place returns a credit (R90). -/
def okCreditPort (n : Nat) : Bool := decide (n < 6)

/-- A steering entry of a switch unit (R95). -/
def okSteer (n : Nat) : Bool := decide (n < 4)

/-- An input of a steering entry (R95). -/
def okInput (n : Nat) : Bool := decide (n < 4)

/-- An optical port (R444). -/
def okLink (n : Nat) : Bool := decide (n < 128)

/-- Where a message arrives: an optical port, or the module's own delivery (128). -/
def okPort (n : Nat) : Bool := decide (n < 129)

/-- A wavelength of a port (R446). -/
def okWave (n : Nat) : Bool := decide (n < 9)

/-- An optical engine (R444). -/
def okLaser (n : Nat) : Bool := decide (n < 16)

/-- A die edge with switch and memory links (R28). -/
def okEdge (n : Nat) : Bool := decide (n < 10)

/-- A switched supply domain (R507). -/
def okDomain (n : Nat) : Bool := decide (n < 42)

/-- A management endpoint: I3C, CXL vendor messages, DOE (R567). -/
def okEndpoint (n : Nat) : Bool := decide (n < 3)

/-- A module index, or an index of a ledger entry: 12 bits (R261, R481). -/
def okModule (n : Nat) : Bool := decide (n < 4096)

/-- A row, named by its tile: those of user data, then those of the firmware regions (R358, R359). -/
def okHbmRow (n : Nat) : Bool := decide (n < 2 ^ 30 + 2 ^ 19)

/-- A flash channel (R381). -/
def okChannel (n : Nat) : Bool := decide (n < 64)

/-- A die of a flash channel and a block number of its four planes (R381, R388). -/
def okBlock (die n : Nat) : Bool := decide (die < 8) && decide (n < 2 ^ 12)

/-- A junction: eight dies and the hub (R518). -/
def okJunction (n : Nat) : Bool := decide (n < 9)

/-- What triggers a controlled stop: host order or undervoltage (R517). -/
def okTrigger (n : Nat) : Bool := decide (n < 2)

/-- The width of a register access, in bits; 32 and 64 take effect (R11). -/
def okWidth (n : Nat) : Bool := n == 8 || n == 16 || n == 32 || n == 64

/-- TOKEN of a commit (R31). -/
def okToken16 (n : Nat) : Bool := decide (n < 2 ^ 16)

/-- A 32-bit register offset of a management command (R569). -/
def okOffset (n : Nat) : Bool := decide (n < 2 ^ 32)

/-- A message body of at most 4,128 bytes (R461). -/
def okBody (b : List Byte) : Bool := decide (b.length ≤ 4128)

/-- A flit of 256 bytes (R450). -/
def okFlit (b : List Byte) : Bool := b.length == 256

/-- A header whose fields fit their widths (R461). -/
def Hdr.wf (h : Hdr) : Bool :=
  decide (h.status < 16) && decide (h.dst < 4096) && decide (h.src < 4096) && decide (h.ptag < 2 ^ 16) &&
    decide (h.epoch < 2 ^ 16) && decide (h.txn < 2 ^ 32)

/-- Every operand of a command names something that exists. -/
def Instr.wf (i : Instr) : Bool :=
  match i with
  | .registerWrite _ width _ _ => okWidth width
  | .commitGo _ token => okToken16 token
  | .commitCancel _ => true
  | .commitBoundary _ => true
  | .d2dLinkTraining die _ _ _ => okDie die
  | .d2dLinkDown die => okDie die
  | .d2dRetrainDone die _ _ _ => okDie die
  | .memLinkDown edge => okEdge edge
  | .refLost => true
  | .refRestored => true
  | .ppsInEdge => true
  | .timeExchangeTimer p => okPart p
  | .timeReq port h body => okPort port && h.wf && okBody body
  | .timeRsp port h body => okPort port && h.wf && okBody body
  | .snapAtWrite p _ => okPart p
  | .snapshotArmReceive p _ _ => okPart p
  | .snapshotLatch site => okSite site
  | .operandArrival site slot => okSite site && okSlot slot
  | .endOfStreamFiring site => okSite site
  | .nop site => okSite site
  | .move site => okSite site
  | .matrix site => okSite site
  | .accZero site => okSite site
  | .accRead site => okSite site
  | .accAdd site => okSite site
  | .accLoad site => okSite site
  | .vadd site => okSite site
  | .vsub site => okSite site
  | .vmul site => okSite site
  | .vfma site => okSite site
  | .vmin site => okSite site
  | .vmax site => okSite site
  | .vcmp site => okSite site
  | .vsel site => okSite site
  | .vexp2 site => okSite site
  | .vlog2 site => okSite site
  | .vrcp site => okSite site
  | .vrsq site => okSite site
  | .vabs site => okSite site
  | .vneg site => okSite site
  | .vmov site => okSite site
  | .redSum site => okSite site
  | .redMax site => okSite site
  | .redMin site => okSite site
  | .redSumsq site => okSite site
  | .pack site => okSite site
  | .steer site => okSite site
  | .merge site => okSite site
  | .tagAction site => okSite site
  | .tagSet site => okSite site
  | .tagData site => okSite site
  | .send site => okSite site
  | .sendEosAfter site => okSite site
  | .sendEosOnly site => okSite site
  | .syncWait site => okSite site
  | .syncSignal site => okSite site
  | .semaphoreGrant site sem => okSite site && okSem sem
  | .claim site => okSite site
  | .arm site => okSite site
  | .retire site => okSite site
  | .dispenserClaim site bank => okSite site && okBank bank
  | .dispenserArm site bank => okSite site && okBank bank
  | .dispenserRetire site bank => okSite site && okBank bank
  | .routeSelect site => okSite site
  | .routeDispatch site => okSite site
  | .append site => okSite site
  | .scoreRmax site => okSite site
  | .scoreExpd site => okSite site
  | .scoreRsum site => okSite site
  | .scoreMerge site => okSite site
  | .slotTransfer site port => okSite site && okSuPort port
  | .creditReturn site port slot => okSite site && okCreditPort port && okSlot slot
  | .steerEntryArrival site n input => okSite site && okSteer n && okInput input
  | .steerEntryEos site n input => okSite site && okSteer n && okInput input
  | .mergeEntryForward site n => okSite site && okSteer n
  | .queueTransfer site e => okSite site && okEngine e
  | .bankGrant site bank => okSite site && okBank bank
  | .hatchReadOperand site e => okSite site && okEngine e
  | .hbmReadResponse site e => okSite site && okEngine e
  | .writeStreamOperand site e => okSite site && okEngine e
  | .rearmWord site e => okSite site && okEngine e
  | .muArmWrite site e _ => okSite site && okEngine e
  | .appendArrival site => okSite site
  | .stallWatchExpire p => okPart p
  | .snpinv _ => true
  | .snpdata _ => true
  | .snpcur _ => true
  | .tailLineRead p tail => okPart p && okModule tail
  | .ledgerEntryFetch p _ => okPart p
  | .schedulerChoose => true
  | .batchDelivery p _ => okPart p
  | .swapOut p => okPart p
  | .plateLoadStart p => okPart p
  | .plateLoadComplete p => okPart p
  | .plateFlip p => okPart p
  | .sectionSwitch p => okPart p
  | .sectionDrain p => okPart p
  | .stepComplete p => okPart p
  | .openSeq p => okPart p
  | .park p => okPart p
  | .resume p _ => okPart p
  | .close p => okPart p
  | .lookup p _ => okPart p
  | .sequenceReleaseComplete _ => true
  | .nskeyApply p _ => okPart p
  | .nskeyInvalidationDone p _ => okPart p
  | .seqSelCapture _ => true
  | .candidateListArrival site => okSite site
  | .dispatchLayerDecide p _ _ => okPart p
  | .dispatch port h body => okPort port && h.wf && okBody body
  | .dispatchEnd port h body => okPort port && h.wf && okBody body
  | .scrubBurst die stack => okDie die && okStack stack
  | .targetedRefresh row => okHbmRow row
  | .rowRemap die stack channel place => okDie die && okStack stack && decide (channel < 32) && decide (place < 2 ^ 20 + 2 ^ 9)
  | .pageZeroed _ _ => true
  | .tagSelCapture die _ => okDie die
  | .install _ _ => true
  | .delete => true
  | .stage _ => true
  | .evict => true
  | .setStage _ => true
  | .setEvict => true
  | .repair _ => true
  | .cmdAck => true
  | .blockRelocation channel die block _ _ _ => okChannel channel && okBlock die block
  | .retentionScrub _ => true
  | .channelOutOfService channel => okChannel channel
  | .channelRebuildDone channel => okChannel channel
  | .flashRetraining => true
  | .hostLinkTrained _ _ _ _ _ => true
  | .linkLeavesL0 => true
  | .linkReturnsL0 => true
  | .hostPortReset => true
  | .hostMemRead _ _ => true
  | .hostMemWrite _ _ => true
  | .bringIn p _ _ => okPart p
  | .ideFailure _ => true
  | .doeDiscovery _ => true
  | .tableAccess => true
  | .ideKm _ _ _ _ => true
  | .laserInputLost engine _ => okLaser engine
  | .ringsLocked port => okLink port
  | .portTrained port _ => okLink port
  | .portTrainTimeout port => okLink port
  | .portDownRetry port => okLink port
  | .wavelengthFail port wave => okLink port && okWave wave
  | .lossOfSignal port => okLink port
  | .flitReceive port flit _ => okLink port && okFlit flit
  | .ackTimer port => okLink port
  | .replayTimeout port => okLink port
  | .linkId port body => okLink port && okBody body
  | .auditPeriod port => okLink port
  | .auditStart port wave => okLink port && okWave wave
  | .switchOut port wave => okLink port && okWave wave
  | .auditDwellEnd port _ _ => okLink port
  | .testEnd port wave _ => okLink port && okWave wave
  | .switchBack port wave => okLink port && okWave wave
  | .messageForward port _ h body => okPort port && h.wf && okBody body
  | .stepDesc port h body => okPort port && h.wf && okBody body
  | .stepData port h body => okPort port && h.wf && okBody body
  | .stepDone port h body => okPort port && h.wf && okBody body
  | .hist port h body => okPort port && h.wf && okBody body
  | .stepAbort port h body => okPort port && h.wf && okBody body
  | .rdReq port h body => okPort port && h.wf && okBody body
  | .rdRsp port h body => okPort port && h.wf && okBody body
  | .wrReq port h body => okPort port && h.wf && okBody body
  | .wrAck port h body => okPort port && h.wf && okBody body
  | .bankWr port h body => okPort port && h.wf && okBody body
  | .bankAck port h body => okPort port && h.wf && okBody body
  | .atomAdd port h body => okPort port && h.wf && okBody body
  | .atomMax port h body => okPort port && h.wf && okBody body
  | .atomMin port h body => okPort port && h.wf && okBody body
  | .atomAnd port h body => okPort port && h.wf && okBody body
  | .atomOr port h body => okPort port && h.wf && okBody body
  | .atomSwap port h body => okPort port && h.wf && okBody body
  | .atomCas port h body => okPort port && h.wf && okBody body
  | .atomFadd port h body => okPort port && h.wf && okBody body
  | .atomRsp port h body => okPort port && h.wf && okBody body
  | .collData port h body => okPort port && h.wf && okBody body
  | .collEnd port h body => okPort port && h.wf && okBody body
  | .partnerSilent p m => okPart p && okModule m
  | .fault port h body => okPort port && h.wf && okBody body
  | .faultWindowClose p _ => okPart p
  | .leadFaultWindowClose p _ => okPart p
  | .emittedEntryExpire p _ => okPart p
  | .confirmationTimeout p _ => okPart p
  | .faultAck p => okPart p
  | .epochSet p _ => okPart p
  | .kill p _ => okPart p
  | .controlInterval _ => true
  | .pwrBrakeNAssert => true
  | .pwrBrakeNRelease => true
  | .undervolt => true
  | .undervoltClear => true
  | .capdropClear => true
  | .flowOkNRelease => true
  | .flowOkNRestored => true
  | .flowJunctionSample _ => true
  | .hot => true
  | .hotClear => true
  | .hardwareTrip source _ => okJunction source
  | .controlledStop trigger => okTrigger trigger
  | .heartbeat ep _ => okEndpoint ep
  | .heartbeatLost => true
  | .domainUsable d _ => okDomain d
  | .takeOwnership _ _ _ => true
  | .enrol _ _ _ => true
  | .revoke _ _ _ => true
  | .release _ _ _ => true
  | .svnCommit _ _ _ => true
  | .trngHealthFail => true
  | .debugSet p => okPart p
  | .debugUnlock p => okPart p
  | .debugLock p => okPart p
  | .debugAddrSelect p _ => okPart p
  | .blackBoxWrite => true
  | .overflow => true
  | .blackBoxReadSelect _ => true
  | .clear _ _ => true
  | .read ep _ _ _ => okEndpoint ep
  | .state ep => okEndpoint ep
  | .regRead ep off => okEndpoint ep && okOffset off
  | .regWrite ep off _ _ => okEndpoint ep && okOffset off
  | .setEndpointId ep _ => okEndpoint ep
  | .getEndpointId ep => okEndpoint ep
  | .getMctpVersionSupport ep => okEndpoint ep
  | .getMessageTypeSupport ep => okEndpoint ep
  | .getVendorDefinedMessageSupport ep => okEndpoint ep
  | .i3cDynamicAddress _ => true
  | .getSensorReading ep _ => okEndpoint ep
  | .setEventReceiver ep _ => okEndpoint ep
  | .getCertificate ep _ _ => okEndpoint ep
  | .challenge ep _ => okEndpoint ep
  | .getMeasurements ep _ _ => okEndpoint ep
  | .keyExchange _ => true
  | .keyUpdate ep _ => okEndpoint ep
  | .requestUpdate ep => okEndpoint ep
  | .firmwareData _ => true
  | .verifyComplete ep _ _ _ _ => okEndpoint ep
  | .activateFirmware ep _ => okEndpoint ep
  | .getFirmwareParameters ep => okEndpoint ep
  | .modResetNAssert => true
  | .startUp _ _ => true
  | .mainInputStable _ _ _ _ => true
  | .memLinkRetrainDone edge => okEdge edge
  | .laserInputRestored engine _ => okLaser engine
  | .perBankRefresh rows => rows.all okHbmRow
  | .hbmWriteAcknowledge site e => okSite site && okEngine e
  | .referenceLocked => true
  | .allPowerLost => true
  | .spdmHeartbeat ep _ => okEndpoint ep

end Sys2Proof
end

