-- ==== Sys2Proof/Tests/Slice0.lean ====
section
/-! SUPPORT. One-step tests with values worked out by hand from the manual, a smoke test of well-formedness, and for every
obligation with hypotheses a state and operands that meet them. -/

namespace Sys2Proof.Tests

set_option Elab.async false

open Sys2Proof Sys2Proof.Machine

/-! ### Small states -/

/-- A formed partition 0 that this module leads, with members 0 and 1, tag 5 and epoch 1. -/
def wOne : State :=
  ((((State.reset.setf .partStatusActive [0] 1).setf .partStatusIsLead [0] 1).setf .partEpochEpoch [0] 1).setAll
    .partMembers [0, 0] 3).setAll .partId [0] (BitVec.ofNat 64 (Fld.partIdPtag.put 0 5).toNat)

/-- The same with another lead. -/
def wTwo : State := wOne.setf .partStatusIsLead [0] 0

/-- The header of a message from module 1 to module 0 in that partition. -/
def wHdr : Hdr := ⟨0, false, 0, 1, 5, 1, 7⟩

/-- A step of partition 0 that is admitted: a CONTROL entry with one operation on sequence 0. -/
def wCtl (op : Nat) : Step := Step.new ⟨0, BitVec.ofNat 2048 (2 + 2 ^ 96 + op * 2 ^ 1024), 0, 0⟩ true 0

/-- The partition with that entry admitted and one sequence number. -/
def wOp (op : Nat) : State :=
  let s := wOne.setAll .serveSeqRange [0] (Fld.serveSeqRangeCount.put 0 1)
  s.setPart 0 { s.part 0 with admitted := some (wCtl op) }

/-- A STEP entry of partition 0 for edition 5, admitted, and that edition resident. -/
def wStepEntry : Step := Step.new ⟨0, BitVec.ofNat 2048 (5 * 2 ^ 32), 0, 0⟩ true 0

def wRes : State := wOne.setFlash { Flash.reset with slots := [(0, { Edition.reset with id := 5, state := 4 })] }

def wAdm (x : Step) : State := wRes.setPart 0 { wRes.part 0 with admitted := some x }

def wFire (x : Step) : State := wRes.setPart 0 { wRes.part 0 with firing := some x }

/-- The same entry with its batch and one row, and the plate of that row. -/
def wRow : Step := { wStepEntry with rows := [(0, 0)], delivered := true }

def wPl : Plate := ⟨5, 0, 0, [], []⟩

/-- Edition 5 with one plate, resident in page 7, whose plate 0 has a header without dies, one section and one run; a load
of it runs in partition 0, whose rectangle is empty. -/
def wEd : Edition := { Edition.reset with id := 5, state := 4, manifest := [0, 0, 0, 0, 0, 0, 1], pages := [(0, 7)] }

def wImg (bytes : List (Nat × Byte)) : State :=
  let s := wOne.setFlash { Flash.reset with slots := [(0, wEd)] }
  let t := s.setHbm { s.hbm with cells := bytes.map (fun e => (458752 + e.1, e.2)) }
  t.setPart 0 { t.part 0 with load := some ⟨5, 0, (0, 0), 0⟩ }

def wHead : List (Nat × Byte) :=
  [(0, 0x54), (1, 0x50), (2, 0x39), (3, 0x4C), (4, 1), (7, 1), (8, 5), (24, 1), (256, 1)]

/-- A stroke of a kind whose sources and destination are empty. -/
def wWord (kind : Nat) : Nat :=
  let op := kind / 64
  let sub := kind % 64
  let low := if op = 0x20 then sub * 2 ^ 36 else if op = 0x30 then sub * 2 ^ 35 else if op = 0x40 then sub * 2 ^ 37
    else if op = 0x80 then (if sub = 1 then 2 ^ 39 else if sub = 2 then 2 ^ 38 else 0)
    else if op = 0xD0 then sub * 2 ^ 37 else sub * 2 ^ 38
  op * 2 ^ 120 + low

/-- A compute unit at site 0 of partition 0 whose entry 0 names that stroke and whose port 0 holds one operand. -/
def wStroke (kind : Nat) : State :=
  let s := ((wFire { wStepEntry with row := some 0 }).setf .partPlateStatePhase [0] 1).setv .siteId [0]
    (BitVec.ofNat 64 (Fld.siteIdOwned.put 0 1).toNat)
  let t := s.setPart 0 { s.part 0 with tokens := 1 }
  let x := t.site 0
  t.setSite 0 { x with
    front := { x.front with strokes := [(0, BitVec.ofNat 128 (wWord kind))], trig := [(0, 2 ^ 31 + 2 ^ 27)] }
    cu := { x.cu with stores := [[⟨0, false, 0, []⟩], [], [], []] } }

def wFiring (kind : Nat) : Firing := ⟨0, 0, 0, wWord kind, 0, 0, [(0, ⟨0, false, 0, []⟩)]⟩

/-- SEND with EOS_ONLY to port 0, whose local input slot 0 has no credit. -/
def wNoRoom : State :=
  let s := wStroke 0
  let x := s.site 0
  s.setSite 0 { x with
    front := { x.front with strokes := [(0, BitVec.ofNat 128 (2 ^ 127 + 2 ^ 77 + 2 ^ 64 + 2 ^ 38))], localIn := 1 }
    su := x.su.setCredit (slotKey 5 0) 0 }

/-- Partition 0 fires a step at site 0, whose switch unit and front image are given. -/
def wSu (u : Su) (m : SiteImg) : State :=
  let s := wStroke 0
  s.setSite 0 { s.site 0 with su := u, front := m }

/-- Partition 0 fires at the memory unit 1, whose engine 0 runs descriptor 0. -/
def wMu (d : Nat) (eng : Engine) (u : Su) : State :=
  let s := (wStroke 0).setv .siteId [1] (BitVec.ofNat 64 (Fld.siteIdOwned.put 0 1).toNat)
  let x := s.site 1
  s.setSite 1 { x with
    su := u, front := { x.front with descs := [(0, BitVec.ofNat 256 d)] }
    mu := { x.mu with engines := x.mu.engines.set 0 { eng with active := true } } }

/-! ### Well-formed commands: one that is, and one term that each check refuses -/

theorem test_wf_accepts : [Instr.registerWrite 8 64 0 none, .nop 6143, .timeReq 128 wHdr [], .bankGrant 0 15, .creditReturn 0 5 7,
    .steerEntryArrival 0 3 3, .slotTransfer 0 4].all Instr.wf = true := by decide

theorem test_wf_refuses_width : (Instr.registerWrite 8 24 0 none).wf = false := by decide

theorem test_wf_refuses_token : (Instr.commitGo 0 65536).wf = false := by decide

theorem test_wf_refuses_places : [Instr.nop 6144, .timeExchangeTimer 32, .d2dLinkDown 8, .scrubBurst 0 4, .hatchReadOperand 0 4,
    .bankGrant 0 16, .semaphoreGrant 0 64, .operandArrival 0 8, .slotTransfer 0 5, .creditReturn 0 6 0, .steerEntryEos 0 4 0,
    .steerEntryEos 0 0 4].all (fun i => !i.wf) = true := by decide

theorem test_wf_refuses_links : [Instr.ringsLocked 128, .linkId 129 [], .wavelengthFail 0 9, .laserInputLost 16 false,
    .memLinkDown 10, .flitReceive 0 [] [], .channelOutOfService 64, .blockRelocation 0 0 4096 false false [],
    .rowRemap 0 0 0 1049088].all (fun i => !i.wf) = true := by
  decide +kernel

theorem test_wf_refuses_headers : [Instr.timeReq 129 wHdr [], .timeReq 0 { wHdr with dst := 4096 } [], .timeReq 0 { wHdr with
    ptag := 65536 } [], .timeReq 0 { wHdr with status := 16 } [], .timeReq 0 wHdr (List.replicate 4129 0)].all (fun i => !i.wf) =
    true := by decide +kernel

/-! ### Numbers, by hand from the formats (R121, R124, R166 to R175) -/

theorem test_fp32_sum_of_one_and_two : toFp32 (numSum [ofFp32 0x3F800000, ofFp32 0x40000000]) = 0x40400000 := by decide +kernel

theorem test_fp32_sum_ties_to_even : toFp32 (numSum [ofFp32 0x4B800000, ofFp32 0x3F800000]) = 0x4B800000 := by decide +kernel

theorem test_fp32_sum_overflows_to_infinity : toFp32 (numSum [ofFp32 0x7F7FFFFF, ofFp32 0x7F7FFFFF]) = 0x7F800000 := by
  decide +kernel

theorem test_fp32_infinities_cancel_to_nan : toFp32 (numSum [ofFp32 0x7F800000, ofFp32 0xFF800000]) = 0x7FC00000 := by
  decide +kernel

theorem test_fp32_product : toFp32 (numMul (ofFp32 0xC0000000) (ofFp32 0x40400000)) = 0xC0C00000 := by decide +kernel

theorem test_fp32_smallest_subnormal_is_kept : toFp32 (ofFp32 1) = 1 := by decide +kernel

theorem test_fp32_product_keeps_subnormals : toFp32 (numMul (ofFp32 0x00800000) (ofFp32 0x3F000000)) = 0x00400000 := by
  decide +kernel

theorem test_bf16_ties_to_even : bf16.encode rne true (ofFp32 0x3F808000) = 0x3F80 := by decide +kernel

theorem test_bf16_rounds_up : bf16.encode rne true (ofFp32 0x3F818000) = 0x3F82 := by decide +kernel

theorem test_fp16_saturates : fp16.encode rne true (ofFp32 0x477FF000) = 0x7BFF := by decide +kernel

theorem test_e4m3_saturates_at_448 : e4m3.encode rne true (ofFp32 0x447A0000) = 0x7E := by decide +kernel

theorem test_e4m3_decodes_its_largest : toFp32 (e4m3.decode 0x7E) = 0x43E00000 := by decide +kernel

theorem test_e4m3_has_one_nan_magnitude : e4m3.decode 0x7F = .nan := by decide +kernel

theorem test_e5m2_decodes_its_largest : toFp32 (e5m2.decode 0x7B) = 0x47600000 := by decide +kernel

theorem test_e2m1_decodes_six : toFp32 (e2m1.decode 7) = 0x40C00000 := by decide +kernel

theorem test_e2m1_ties_to_even : e2m1.encode rne true (ofFp32 0x40A00000) = 6 := by decide +kernel

theorem test_int8_saturates : encodeInt 8 rne 0 (ofFp32 0x43480000) = 127 := by decide +kernel

theorem test_int8_ties_to_even : encodeInt 8 rne 0 (ofFp32 0x40200000) = 2 := by decide +kernel

theorem test_truncation_towards_zero : encodeInt 8 rtz 0 (ofFp32 0xC0300000) = 254 := by decide +kernel

/-! ### Check values -/

theorem test_crc32c_check_value : crc32c [0x31, 0x32, 0x33, 0x34, 0x35, 0x36, 0x37, 0x38, 0x39] = 0xE3069283 := by decide +kernel

/-! ### Strokes (R143, R145, R147) -/

/-- The first lane of the activation-buffer line 0 after a stroke of two FP32 sources on ports 0 and 1 with destination
line 0. -/
def tVec (kind : Nat) (eff : State → Firing → Option (State × Sends)) (a b : Nat) : Option Nat :=
  let w := wWord kind + 0x2000 * 2 ^ 96 + 0x2800 * 2 ^ 80 + 0x4000 * 2 ^ 64
  let op (x : Nat) : Operand := ⟨0, false, 0, laneWords (List.replicate 64 x)⟩
  let f : Firing := ⟨0, 0, 0, w, 0, 0, [(0, op a), (1, op b)]⟩
  (eff (wStroke 0) f).map (fun r => (tabGet (fun _ => 0) (r.1.site 0).cu.abuf 0).toNat % 2 ^ 32)

theorem test_vadd : tVec (vecKind 0) effVadd 0x3F800000 0x40000000 = some 0x40400000 := by decide +kernel

theorem test_vsub : tVec (vecKind 1) effVsub 0x3F800000 0x40000000 = some 0xBF800000 := by decide +kernel

theorem test_vmul : tVec (vecKind 2) effVmul 0x40400000 0x40000000 = some 0x40C00000 := by decide +kernel

theorem test_vmin : tVec (vecKind 4) effVmin 0xBF800000 0x40000000 = some 0xBF800000 := by decide +kernel

theorem test_vmax : tVec (vecKind 5) effVmax 0xBF800000 0x40000000 = some 0x40000000 := by decide +kernel

theorem test_vabs : tVec (vecKind 12) effVabs 0xBF800000 0 = some 0x3F800000 := by decide +kernel

theorem test_vneg : tVec (vecKind 13) effVneg 0x3F800000 0 = some 0xBF800000 := by decide +kernel

theorem test_a_stroke_consumes_its_operand : (match execNop 0 (wStroke 0) with
    | .next t => ((t.site 0).cu.stores, t.rv .siteFirings [0])
    | _ => ([], 0)) = ([[], [], [], []], 1) := by decide +kernel

/-! ### Registers and commits (R12, R32 to R37) -/

/-- The state after a command. -/
def tAfter (i : Instr) (s : State) : State := match exec i s with
  | .next t => t
  | _ => State.reset

theorem test_rws_write_stages_only :
    let t := tAfter (.registerWrite (Rg.partRoute.at [0, 1]) 64 0x8182838485868788 none) State.reset
    t.rs .partRoute [0, 1] = 0x8182838485868788 ∧ t.ra .partRoute [0, 1] = 0 := by decide +kernel

theorem test_ro_write_is_ignored :
    (tAfter (.registerWrite (Rg.partEpoch.at [0]) 64 7 none) State.reset).rv .partEpoch [0] = 0 := by decide +kernel

theorem test_w1c_write_clears :
    (tAfter (.registerWrite (Rg.partStatus.at [0]) 64 (2 ^ 61) none) (State.reset.setf .partStatusEpochRefused [0] 1)).fv
      .partStatusEpochRefused [0] = 0 := by decide +kernel

theorem test_narrow_accesses_have_no_effect :
    tAfter (.registerWrite (Rg.partRoute.at [0, 1]) 16 7 none) State.reset = State.reset := by decide +kernel

theorem test_commit_go_is_pending :
    let b := (Rg.partCommit.at [0]) - 0x0FF0
    (tAfter (.commitGo b 0x1234) State.reset).rv .partCommitStatus [0] = 0x12340100 := by decide +kernel

/-! ### Units, memory, messages -/

theorem test_claim_advances : (Dispenser.mk 3 5 3 1).claim 0 = (⟨4, 5, 4, 1⟩, some (0, 3)) := by decide +kernel

theorem test_claim_of_an_exhausted_dispenser : ((Dispenser.mk 5 5 5 1).claim 0).1 = ⟨5, 5, 5, 1⟩ := by decide +kernel

theorem test_arm_while_tiles_are_out_is_busy : ((Dispenser.mk 5 5 5 4).arm 9 false).2.map (·.1) = some 2 := by decide +kernel

theorem test_semaphore_gives_to_the_head :
    let s := (wMu 0 Engine.reset Su.reset)
    let t := s.setMu 1 { (s.site 1).mu with sems := [(3, 5)], waiters := [(3, [(4, 2), (5, 1)])] }
    let u := (tAfter (.semaphoreGrant 1 3) t).site 1
    u.mu.sem 3 = 3 ∧ u.mu.queue 3 = [(5, 1)] := by decide +kernel

theorem test_atomic_max_is_unsigned : atomResult 1 (2 ^ 63) 1 0 = 2 ^ 63 := by decide +kernel

theorem test_cas_stores_on_equality : atomResult 6 7 9 7 = 9 ∧ atomResult 6 8 9 7 = 8 := by decide +kernel

theorem test_zeroing_frees_the_page :
    let h : Hbm := { Hbm.reset with cells := [(65536, 1), (131072, 2)], tags := [(1, 16384)], dirty := [1] }
    (h.zeroPage 1).byte 65536 = 0 ∧ (h.zeroPage 1).byte 131072 = 2 ∧ (h.zeroPage 1).tag 1 = 0 := by decide +kernel

theorem test_stack_of_an_address : stackOf (3 * 2 ^ 39 + 4096 * 6) = [3, 2] := by decide

theorem test_fault_ack_drops_the_oldest :
    let r (n : Nat) : FaultRec := ⟨⟨n, 0, 1⟩, 1, 0, 1, 1, 0⟩
    let s := wOne.setPart 0 { wOne.part 0 with faultQ := [r 1, r 2] }
    ((tAfter (.faultAck 0) s).part 0).faultQ = [r 2] := by decide +kernel

theorem test_stale_epoch_is_refused :
    let t := tAfter (.epochSet 0 (BitVec.ofNat 64 (2 ^ 32))) wOne
    t.fv .partStatusEpochRefused [0] = 1 ∧ t.epoch 0 = 1 := by decide +kernel

theorem test_epoch_set : (tAfter (.epochSet 0 (BitVec.ofNat 64 (2 ^ 33 + 1))) wOne).epoch 0 = 2 := by decide +kernel

theorem test_kill_needs_its_confirm_value : tAfter (.kill 0 0x4B4D) wOne = wOne := by decide +kernel

theorem test_kill_unforms_the_partition : (tAfter (.kill 0 0x4B4C) wOne).formed 0 = false := by decide +kernel

theorem test_rings_locked_trains :
    (tAfter (.ringsLocked 5) ((State.reset.setAll .opticPortCtl (portIx 5) (BitVec.ofNat 64 (Fld.opticPortCtlEnable.put 0 1).toNat)).setf .opticPortStateState (portIx 5) 1)).portState 5 = 2 := by decide +kernel

theorem test_seven_wavelengths_are_half_rate :
    (tAfter (.portTrained 5 0x7F) (State.reset.setf .opticPortStateState (portIx 5) 2)).portState 5 = 4 := by decide +kernel

theorem test_flash_ack_drops_the_result :
    let c : FlashCmd := ⟨2, 1, 5, 0⟩
    let s := (State.reset.setv .powerDomainOn [] (2 ^ 41)).setFlash { Flash.reset with results := [(c, 0, 0), (c, 1, 0)] }
    (tAfter .cmdAck s).flash.results = [(c, 1, 0)] := by decide +kernel

theorem test_the_dispatcher_takes_the_free_replica :
    let entry := (2 ^ 63 + 1) + 2 ^ 64 * (2 ^ 63 + 2 ^ 51 + 1)
    let v : DecideEnv := ⟨2, some ⟨false, [entry % 2 ^ 32 + 2 ^ 63 + 0x10000 + 2 ^ 64 * (2 ^ 63 + 2 ^ 51 + 0x10000), 0]⟩, [0, 1], []⟩
    let b := decideLayer v [(0, 0, [(0, 1)]), (1, 0, [(0, 1)]), (2, 0, [(0, 1)])]
    b.accepted.map (fun c => (c.slot, c.module_)) = [(0, 0), (1, 1)] ∧ b.dropped = 1 := by decide +kernel

theorem test_empty_queue_is_a_tick : (match step State.reset with
    | .next t => t.now
    | _ => 0) = 1 := by decide +kernel

theorem test_step_takes_the_front : (match step { State.reset with pending := [.refLost, .refRestored] } with
    | .next t => t.pending
    | _ => []) = [.refRestored] := by decide +kernel

-- FIPS 180-4, SHA-384 of "abc".
theorem test_sha384_abc : beNat (sha384Bytes [0x61, 0x62, 0x63]) =
    0xcb00753f45a35e8bb5a03d699ac65007272c32ab0eded1631a8b605a43ff5bed8086072ba1e7cc2358baeca134c825a7 := by decide +kernel

-- FIPS 197, appendix C.3: AES-256.
theorem test_aes256_fips197 : aesEncrypt (aesKeys (List.range 32)) ((List.range 16).map (17 * ·)) =
    [0x8e, 0xa2, 0xb7, 0xca, 0x51, 0x67, 0x45, 0xbf, 0xea, 0xfc, 0x49, 0x90, 0x4b, 0x49, 0x60, 0x89] := by decide +kernel

/-! ### Hypotheses of the obligations that a state meets -/

theorem witness_EmptyQueueTicks : State.reset.pending = [] := rfl

theorem witness_NoCommandChangesModuleTime : (∀ a b, Instr.refLost ≠ .startUp a b) ∧ Instr.refLost ≠ .allPowerLost :=
  ⟨fun _ _ h => (nomatch h), fun h => (nomatch h)⟩

theorem witness_ResetState :
    regAt (Rg.at .opticPortCtl [15, 7]) = some (.opticPortCtl, [15, 7]) ∧ Rg.opticPortCtl.spec.rst ≠ 0 ∧
      regAt (Rg.at .partStatus [31]) = some (.partStatus, [31]) ∧ Rg.partStatus.spec.rst = 0 := by decide +kernel

theorem witness_CanonicalFormIsKept : State.reset.wf = true ∧ ∃ t, step State.reset = .next t := ⟨rfl, _, rfl⟩

theorem witness_StepTakesExactlyTheFrontCommand :
    ∃ t, step (State.reset.setPending [.refLost, .pwrBrakeNAssert]) = .next t := ⟨_, rfl⟩

theorem witness_FusesAndCountersNeverGoBack :
    ∃ t, step (State.reset.setPending [.allPowerLost]) = .next t := ⟨_, rfl⟩

theorem witness_RegisterWriteStagesRwsFields :
    State.reset.wf = true ∧ accessOk 0x20000 64 = true ∧ State.reset.missed 0x20000 = none ∧
      State.reset.groupClosed 0x20000 = false ∧ (regAt 0x20000).isSome = true ∧
      (∀ r ∈ (regAt 0x20000).map (·.1), r.spec.wo = false ∧ r ∉ [Rg.siteMuBankOwn, .timeSnapAt, .serveSeqSel,
        .hbmTagSel, .bboxRdSel, .partDbgAddr, .hubDomainMiss, .hubAlert]) := by decide

theorem witness_RegisterWriteStagesRwsFields_halves :
    let on := (State.reset.setv .powerDomainOn [] (BitVec.ofNat 64 (2 ^ 64 - 1))).setf .hubD2dUp [0] 1
    (∀ a ∈ [0x20008, 0x2000C, Rg.at .hubDomainMiss [] + 4, Rg.at .hubAlert []], accessOk a 32 = true ∧
      State.reset.missed a = none ∧ State.reset.groupClosed a = false ∧ (regAt (a / 8 * 8)).any (fun x => !x.1.spec.wo) = true) ∧
      regAt (Rg.at .hubDomainMiss []) = some (.hubDomainMiss, []) ∧ regAt (Rg.at .hubAlert []) = some (.hubAlert, []) ∧
      (∀ i ∈ [0, 1], regAt (Rg.at .siteMuBankOwn [i]) = some (.siteMuBankOwn, [i]) ∧ on.missed (Rg.at .siteMuBankOwn [i]) = none ∧
        on.groupClosed (Rg.at .siteMuBankOwn [i]) = false ∧ Rg.siteMuBankOwn.spec.wo = false) ∧
      isMu 0 = false ∧ isMu 1 = true ∧ on.wf = true := by decide +kernel

theorem witness_RegisterAccessesWithoutEffect :
    accessOk 4 64 = false ∧ accessOk 0x100000 64 = true ∧ State.reset.missed 0x100000 = some 40 ∧
      State.reset.groupClosed 0x11000 = true ∧ State.reset.missed 0x11000 = none ∧ regAt 0x9F00000 = none := by decide

theorem witness_WoRegistersTakeWholeValues :
    State.reset.missed 0x20FF0 = none ∧ ∀ x ∈ regAt (0x20FF0 / 8 * 8), x.1.spec.wo = true := by decide

theorem witness_VendorRegisterAccess :
    let up := State.reset.setf .hubBootStage [] 2
    State.reset.mgmtUp = false ∧ up.mgmtUp = true ∧ vendorBlock 0x100000 = false ∧
      vendorBlock 0x20008 = true ∧ up.wf = true ∧ accessOk 0x20008 64 = true ∧ up.missed 0x20008 = none ∧ up.groupClosed 0x20008 = false ∧
      regAt 0x20008 = some (.powerCap, []) ∧ Rg.powerCap.spec.wo = false := by decide

theorem witness_CommitGoCopiesStagedToPending :
    State.reset.wf = true ∧ (blockAt 0x20000).isSome = true ∧ State.reset.missed 0x20000 = none ∧
      ∀ x ∈ blockAt 0x20000, State.reset.commitPending x.1 x.2 = false := by decide

theorem witness_CommitWhilePendingAndCancel :
    (State.reset.setv .powerCommitStatus [] 0x100).wf = true ∧ blockAt 0x20000 = some (.powerCommitStatus, []) ∧
      (State.reset.setv .powerCommitStatus [] 0x100).missed 0x20000 = none ∧
      (State.reset.setv .powerCommitStatus [] 0x100).commitPending .powerCommitStatus [] = true ∧
      State.reset.commitPending .powerCommitStatus [] = false ∧ (2 : Word).getLsbD 1 = true ∧
      (blockAt 0x100000).isSome = true ∧ State.reset.missed 0x100000 = some 40 ∧ blockAt 4 = none := by decide

theorem witness_CommitBoundaryRejects :
    ∃ s : State, s.wf = true ∧ blockAt 0x20000 = some (.powerCommitStatus, []) ∧
      s.commitPending .powerCommitStatus [] = true ∧ s.quiescent .powerCommitStatus [] = true ∧
      (s.commitChecks .powerCommitStatus []).isSome = true :=
  ⟨((State.reset.setPower { State.reset.power with boundary := true }).setv .powerCommitStatus [] 0x100).setAll
    .powerCap [] 0, by decide⟩

theorem witness_CommitBoundaryApplies :
    let pend (r : Rg) (ix : List Nat) : State :=
      (State.reset.setPower { State.reset.power with boundary := true }).setv r ix 0x100
    ∀ x ∈ [(Rg.bboxCommitStatus, ([] : List Nat)), (.timeCommitStatus, []), (.powerCommitStatus, []), (.sealCommitStatus, []),
        (.hostCommitStatus, []), (.flashCommitStatus, []), (.hbmCommitStatus, [0]), (.opticCommitStatus, [0]),
        (.serveCommitStatus, []), (.siteCommitStatus, [0])],
      (pend x.1 x.2).wf = true ∧ blockAt (blkBase x.1 x.2) = some x ∧ (pend x.1 x.2).commitPending x.1 x.2 = true ∧
        (pend x.1 x.2).quiescent x.1 x.2 = true ∧ (pend x.1 x.2).commitChecks x.1 x.2 = none := by decide +kernel

theorem witness_CommitBoundaryApplies_part :
    let cells (w : Nat) : Word := Fld.partCellsFormed.put (Fld.partCellsCh.put (Fld.partCellsCw.put 0 w) 1) 1
    let ask (w : Word) (s : State) : State := (s.setRegs { s.regs with pnd := tabSet rwsReset s.regs.pnd (Rg.at .partCells [0]) w }).setv
      .partCommitStatus [0] 0x100
    let free : State := ((State.reset.setAll .partMembers [0, 0] 1).setAll .partId [0]
      (BitVec.ofNat 64 (Fld.partIdPtag.put 0 5).toNat)).setf .hubBootStage [] 4
    let one : State := wOne.setAll .partMembers [0, 0] 1
    let two : State := one.setAll .partCells [0] (cells 1)
    let good (s : State) (formed : Bool) (next : Nat) : Bool := s.wf && s.commitPending .partCommitStatus [0] &&
      s.quiescent .partCommitStatus [0] && (s.commitChecks .partCommitStatus [0]).isNone && s.formed 0 == formed &&
      s.fp .partCellsFormed [0] == next
    blockAt (blkBase .partCommitStatus [0]) = some (.partCommitStatus, [0]) ∧ good (ask 0 one) true 0 = true ∧
      good (ask 0 free) false 0 = true ∧ good (ask (cells 1) free) false 1 = true ∧ good (ask (cells 2) two) true 1 = true ∧
      ((ask (cells 2) two).takePending .partCommitStatus [0]).rect 0 ≠ (ask (cells 2) two).rect 0 ∧
      good (ask (cells 1) two) true 1 = true ∧
      ((ask (cells 1) two).takePending .partCommitStatus [0]).rect 0 = (ask (cells 1) two).rect 0 := by decide +kernel

theorem witness_DieAndMemoryLinks :
    ∃ s : State, s.domainOn 16 = true ∧ s.fv .hubD2dUp [0] = 0 ∧ (0 : Nat) < 8 ∧ (9 : Nat) < 10 :=
  ⟨State.reset.setv .powerDomainOn [] 0x10000, by decide⟩

theorem witness_ReferenceEventsKeepTime :
    (∃ s : State, s.fa .timeRefAlt [] ≠ 0xFF ∧ s.fv .timeStatusInUse [] ≠ s.fa .timeRefAlt []) ∧
      (∃ s : State, s.fa .timeRefAlt [] = 0xFF) ∧ State.reset.fv .timeStatusHoldover [] ≠ 1 ∧
      (State.reset.setf .timeStatusHoldover [] 1).fv .timeStatusHoldover [] = 1 ∧
      (∃ s : State, s.fa .timeRefAlt [] ≠ 0xFF ∧ s.fv .timeStatusInUse [] = s.fa .timeRefAlt [] ∧
        s.fv .timeStatusLocked [] = 0) :=
  ⟨⟨State.reset.setAll .timeRef [] (Fld.timeRefAlt.put 0 3), by decide⟩,
    ⟨State.reset.setAll .timeRef [] (Fld.timeRefAlt.put 0 0xFF), by decide⟩, by decide, by decide,
    ⟨(State.reset.setAll .timeRef [] (Fld.timeRefAlt.put 0 3)).setf .timeStatusInUse [] 3, by decide⟩⟩

theorem witness_PpsLatchesPartitionTime : wOne.wf = true ∧ wOne.formed 0 = true ∧ wOne.formed 1 = false := by decide

theorem witness_TimeExchange :
    wTwo.formed 0 = true ∧ wTwo.isLead 0 = false ∧ (wTwo.part 0).time.t1 = none ∧ wOne.isLead 0 = true ∧
      wTwo.formed 1 = false ∧
      (wTwo.setTime 0 { (wTwo.part 0).time with t1 := some 0 }).isLead 0 = false ∧
      ((wTwo.setTime 0 { (wTwo.part 0).time with t1 := some 0, fails := 15 }).part 0).time.fails + 1 = 16 ∧
      (wTwo.consume 128 0x03 8).accept wHdr = .ok 0 ∧ (wOne.consume 128 0x04 8).accept wHdr = .ok 0 ∧
      (∀ q, (wTwo.consume 128 0x04 8).accept { wHdr with dst := 3 } ≠ .ok q) ∧
      ((wTwo.setTime 0 { (wTwo.part 0).time with t1 := some 0 }).part 0).time.t1 = some (leAt [] 0 8) ∧
      wTwo.fv .timePsyncHoldover [0] ≠ 1 ∧ (wTwo.setf .timePsyncHoldover [0] 1).fv .timePsyncHoldover [0] = 1 ∧
      wTwo.fv .timePsyncSynced [0] ≠ 1 ∧ (wTwo.setf .timePsyncSynced [0] 1).fv .timePsyncSynced [0] = 1 := by
  refine ⟨by decide, by decide, by decide, by decide, by decide, by decide, by decide, by decide, by decide, ?_, by decide,
    by decide, by decide, by decide, by decide⟩
  have h : (wTwo.consume 128 0x04 8).accept { wHdr with dst := 3 } = .bad := by decide
  intro q
  rw [h]
  exact fun c => nomatch c

theorem witness_CounterSnapshots :
    wOne.formed 0 = true ∧ wOne.isLead 0 = true ∧ wTwo.formed 0 = true ∧ wTwo.isLead 0 = false ∧ wOne.formed 1 = false ∧
      (799999 : Word).toNat < wOne.pnow 0 + 800000 ∧ wOne.pnow 0 + 2 ^ 36 < (2 ^ 36 + 1 : Word).toNat ∧
      wOne.pnow 0 + 800000 ≤ (800000 : Word).toNat ∧ (2 ^ 36 : Word).toNat ≤ wOne.pnow 0 + 2 ^ 36 ∧
      (wOne.part 0).time.snap = none ∧ ((wOne.armSnap 0 900000 1).part 0).time.snap.isSome = true ∧
      State.reset.ownerOf 1 = none ∧ ((wOne.setv .siteId [1] (BitVec.ofNat 64 (Fld.siteIdOwned.put 0 1).toNat)).ownerOf 1 =
        some 0) ∧
      (∃ s : State, s.ownerOf 1 = some 0 ∧ (s.part 0).time.snap = some (0, 1) ∧ 0 ≤ s.pnow 0 ∧
        s.fv .siteStateWork [1] = 1 ∧ (s.toLatch 0).contains 1 = true ∧ s.wf = true) ∧
      (∃ s : State, s.ownerOf 1 = some 0 ∧ (s.part 0).time.snap = some (900000, 1) ∧ s.pnow 0 < 900000) ∧
      (∃ s : State, (s.part 0).time.snap = some (0, 1) ∧ s.pnow 0 < 0 + 64 ∧ (s.toLatch 0).filter (fun i =>
        (s.part 0).time.latching.any (fun e => e.1 == i && decide (e.2 < s.pnow 0))) = []) :=
  ⟨by decide, by decide, by decide, by decide, by decide, by decide, by decide, by decide, by decide, by decide, by decide,
    by decide, by decide,
    ⟨((((wOne.setAll .partCells [0] 0x210000).armSnap 0 0 1).setv .siteId [1]
      (BitVec.ofNat 64 (Fld.siteIdOwned.put 0 1).toNat)).setv .powerDomainOn [] 1).setf .siteStateWork [1] 1, by decide⟩,
    ⟨((wOne.armSnap 0 900000 1).setv .siteId [1] (BitVec.ofNat 64 (Fld.siteIdOwned.put 0 1).toNat)), by decide⟩,
    ⟨wOne.armSnap 0 0 1, by decide⟩⟩

theorem witness_BrakeCausesArise :
    State.reset.powerState = 0 ∧ (State.reset.setf .powerPwrStatusState [] 1).powerState = 1 ∧
      (State.reset.setf .powerPwrStatusState [] 2).powerState = 2 := by decide

theorem witness_BrakeSetsLimitAndSupplies : State.reset.wf = true ∧ State.reset.powerState = 0 := by decide

theorem witness_BrakeCausesClear :
    (∀ n ∈ [0, 1, 2, 3, 4], ∀ st ∈ [1, 2], ∀ c ∈ [2 ^ n, 31],
      ((State.reset.setf .powerPwrStatusState [] st).setf .powerPwrStatusBrakeCauses [] c).fv .powerPwrStatusBrakeCauses [] = c ∧
      ((State.reset.setf .powerPwrStatusState [] st).setf .powerPwrStatusBrakeCauses [] c).powerState = st ∧
      c.testBit n = true) ∧ (0 : Nat).testBit 3 = false ∧
    (∀ k ∈ [2, 3], ((State.reset.setf .powerPwrStatusState [] 2).setf .powerPwrStatusParkCauses [] k).fv
      .powerPwrStatusParkCauses [] = k ∧ k.testBit 1 = true) ∧ State.reset.power.zeroRate = false := by decide

theorem witness_ControlIntervalMeasuresAndLimits : State.reset.wf = true ∧ State.reset.powerState = 0 ∧
    State.reset.power.ramp = none ∧ State.reset.fv .powerPwrStatusHbLost [] = 0 ∧
    (State.reset.fv .powerPwrStatusParkCauses []).testBit 0 = false ∧
    State.reset.fa .powerBrakeCfgParkBelow [] ≤ State.reset.fa .powerCapLimit [] := by decide

theorem witness_HeartbeatAndFlowSamples :
    (State.reset.setf .hubBootStage [] 4).mgmtUp = true ∧
      (State.reset.setf .hubBootStage [] 4).fv .powerPwrStatusHbLost [] = 0 ∧
      ((State.reset.setf .hubBootStage [] 4).setf .powerPwrStatusHbLost [] 1).mgmtUp = true ∧
      (State.reset.setf .powerPwrStatusHbLost [] 1).fv .powerPwrStatusHbLost [] = 1 ∧ State.reset.powerState < 3 ∧
      ((State.reset.setf .powerPwrStatusBrakeCauses [] 8).fv .powerPwrStatusBrakeCauses []).testBit 3 = true ∧
      (List.range 9).any (fun i => decide (State.reset.power.flowTemps.getD i 0 + 3 ≤ [100].getD i 0)) = true ∧
      (State.reset.fv .powerPwrStatusBrakeCauses []).testBit 3 = false := by decide

theorem witness_StopTripAndResetEndTheRun :
    (State.reset.setv .powerDomainOn [] 1).powerState < 3 ∧ (State.reset.setv .powerDomainOn [] 1).rv .powerDomainOn [] ≠ 0 ∧
      State.reset.rv .powerDomainOn [] = 0 ∧ State.reset.powerState ≠ 4 ∧
      (State.reset.setf .powerPwrStatusState [] 4).powerState = 4 := by decide

theorem witness_NothingOfAPartitionOutlivesItsDomains : wOne.wf = true ∧ wOne.powerState ≠ 4 ∧ wOne.formed 0 = true ∧
    wOne.mgmt.update = none ∧ (wOne.setv .powerDomainOn [] (BitVec.ofNat 64 (2 ^ 41))).wf = true ∧
    (wOne.setv .powerDomainOn [] (BitVec.ofNat 64 (2 ^ 41))).powerState < 3 ∧
    (wOne.setv .powerDomainOn [] (BitVec.ofNat 64 (2 ^ 41))).rv .powerDomainOn [] ≠ 0 ∧
    (wOne.setv .powerDomainOn [] (BitVec.ofNat 64 (2 ^ 41))).domainOn 41 = true := by
  decide

theorem witness_LossOfPowerAndStartUp :
    State.reset.bbReady = false ∧ State.reset.canStart = true ∧ State.reset.mgmt.update = none ∧
      State.reset.mgmt.runB = false ∧ State.reset.mgmt.pendingBank = false ∧
      State.reset.bankOk State.reset.mgmt.bankA ⟨some Config.primaryKey, some Config.primaryKey⟩ = true ∧
      State.reset.bankOk State.reset.mgmt.bankA ⟨none, none⟩ = false ∧
      State.reset.bankOk State.reset.mgmt.bankB ⟨none, none⟩ = false ∧
      ((State.reset.setf .bboxBbStateReady [] 1).bbPut none 1 0 0).bbReady = true ∧
      ((State.reset.setf .bboxBbStateReady [] 1).bbPut none 1 0 0).bbox.queue ≠ [] := by
  refine ⟨by decide, by decide, by decide, by decide, by decide, ?_, by decide, by decide, by decide, by decide⟩
  show (true && (some Config.primaryKey == some Config.primaryKey) && (some Config.primaryKey == some Config.primaryKey) &&
    decide (0 ≤ 0) && decide (0 ≤ 0)) = true
  simp

theorem witness_DomainsAndActivation :
    let up := State.reset.setf .hubBootStage [] 2
    let rec5 := State.reset.setf .hubBootStage [] 5
    let en := State.reset.setAll .powerDomainEn [] 1
    (0 : Nat) < 42 ∧ en.domainOn 0 = false ∧ (en.ra .powerDomainEn []).toNat.testBit 0 = true ∧ en.powerState < 3 ∧
      en.power.inReset = false ∧ rec5.power.inReset = false ∧ rec5.powerState < 3 ∧ rec5.fv .hubBootStage [] = 5 ∧
      State.reset.controlUp 0 = false ∧ up.controlUp 0 = true ∧ up.fv .hubBootStage [] ≠ 5 ∧ up.mgmt.update = none ∧ rec5.controlUp 0 = true ∧
      (up.setMgmt { up.mgmt with update := some [], verified := true }).mgmt.update.isSome = true ∧
      (up.setMgmt { up.mgmt with update := some [], verified := true }).mgmt.verified = true ∧
      (up.setMgmt { up.mgmt with update := some [] }).mgmt.verified = false := by decide

theorem witness_MainInputBringsTheModuleToReady :
    let s := State.reset.setf .hubBootStage [] 2
    s.wf = true ∧ s.power.inReset = false ∧ s.powerState < 3 ∧ s.fv .hubBootStage [] = 2 := by decide

theorem witness_ManagementControlMessages :
    (State.reset.setf .hubBootStage [] 4).controlUp 0 = true ∧ (State.reset.setf .hubBootStage [] 4).mgmtUp = true ∧
      ((State.reset.setf .hubBootStage [] 4).setv .powerDomainOn [] 0x10000000000).controlUp 1 = true ∧
      (State.reset.setf .hubBootStage [] 4).stage ≠ 5 ∧ (State.reset.setf .hubBootStage [] 5).stage = 5 ∧
      (State.reset.setf .hubBootStage [] 5).controlUp 0 = true ∧ (1 : Nat) < 2 ∧
      (State.reset.setf .hubBootStage [] 5).controlUp 1 = false := by decide

theorem witness_AttestationMessages :
    let s := State.reset.setf .hubBootStage [] 4
    let full := s.setMgmt { s.mgmt with sessions := [(0, 0, 2), (1, 0, 2), (2, 0, 2), (3, 0, 2)] }
    s.spdmOn 2 = true ∧ State.reset.spdmOn 0 = false ∧ full.spdmOn 2 = true ∧ full.mgmt.sessions.any (fun e => e.1 = 3) = true ∧
      firstBelow 4 (fun i => s.mgmt.sessions.all (fun e => e.1 ≠ i)) = some 0 ∧
      firstBelow 4 (fun i => full.mgmt.sessions.all (fun e => e.1 ≠ i)) = none ∧ (1 : Nat) ≤ 7 := by decide

theorem witness_FirmwareUpdateMessages :
    let s := State.reset.setf .hubBootStage [] 4
    let on := s.setMgmt { s.mgmt with update := some [] }
    s.controlUp 0 = true ∧ s.controlUp 1 = false ∧ s.mgmt.update = none ∧ on.controlUp 0 = true ∧ on.mgmt.update = some [] ∧
      s.mgmt.pendingBank = false ∧ (s.setMgmt { s.mgmt with pendingBank := true }).mgmt.pendingBank = true ∧
      s.mgmt.runB = false ∧ (s.setMgmt { s.mgmt with runB := true }).mgmt.runB = true ∧ ([] : List Byte).length < 4096 ∧
      4096 ≤ (List.replicate 4096 (0 : Byte)).length ∧
      (s.signedOk (some Config.primaryKey) && decide (s.sealUnit.fused ≤ 0)) = true ∧
      (s.signedOk (some Config.primaryKey) && decide (s.sealUnit.fused ≤ 0) && decide (([] : List Byte).length ≤ 24 * 2 ^ 20)) =
        true ∧ (s.signedOk none && decide (s.sealUnit.fused ≤ 0)) = false ∧
      (s.signedOk none && decide (s.sealUnit.fused ≤ 0) && decide (([] : List Byte).length ≤ 24 * 2 ^ 20)) = false := by
  have k : (State.reset.setf .hubBootStage [] 4).signedOk (some Config.primaryKey) = true := by
    show (some Config.primaryKey == some Config.primaryKey) = true
    simp
  have f : (State.reset.setf .hubBootStage [] 4).sealUnit.fused = 0 := by decide
  refine ⟨by decide, by decide, by decide, by decide, by decide, by decide, by decide, by decide, by decide, by decide,
    Nat.le_of_eq (List.length_replicate ..).symm, ?_, ?_, by decide, by decide⟩
  · rw [k, f]; rfl
  · rw [k, f]; decide

theorem witness_SealCommandsComplete :
    let up := State.reset.setStage 2
    let c := Instr.takeOwnership (some 0) 0 (some [1])
    c ∈ [Instr.svnCommit (some 0) 0 (some [1]), c, .enrol (some 0) 0 (some [1]), .revoke (some 0) 0 (some [1]),
        .release (some 0) 0 (some [1])] ∧
      State.reset.mgmtUp = false ∧ (up.setf .sealCmdStatusBusy [] 1).mgmtUp = true ∧
      (up.setf .sealCmdStatusBusy [] 1).fv .sealCmdStatusBusy [] = 1 ∧ up.mgmtUp = true ∧ up.fv .sealCmdStatusBusy [] = 0 ∧
    leAt [1] 0 1 = 1 ∧ leAt [2] 0 1 = 2 ∧ leAt [3] 0 1 = 3 ∧ leAt [4] 0 1 = 4 ∧ leAt [5] 0 1 = 5 ∧
      leAt [5] 8 8 = 0 ∧ ((([5] : List Byte).drop 112).take 96).all (· == 0) = true := by decide

theorem witness_DebugAccess :
    let d := (wOne.part 0).dbg
    let on := (wOne.setAll .sealPolicy [] (Fld.sealPolicyDebugEn.put 0 1)).setDebug 0 { d with stored := some 0 }
    let wrong := on.setDebug 0 { d with stored := some 1 }
    let open_ := wOne.setDebug 0 { d with unlocked := true }
    let mine := open_.setv .siteId [1] (BitVec.ofNat 64 (Fld.siteIdOwned.put 0 1).toNat)
    wOne.formed 0 = true ∧ (wOne.part 0).dbg.stored = none ∧ (on.part 0).dbg.stored = some 0 ∧ on.formed 0 = true ∧
      wOne.fa .sealPolicyDebugEn [] = 0 ∧ on.fa .sealPolicyDebugEn [] ≠ 0 ∧ (on.part 0).dbg.fails < 7 ∧ ((wrong.setDebug 0 { d with stored := some 1, fails := 7 }).part 0).dbg.fails = 7 ∧
      (0 : BitVec 128) = (on.part 0).dbg.written ∧ (wrong.part 0).dbg.stored = some 1 ∧
      (1 : BitVec 128) ≠ (wrong.part 0).dbg.written ∧ (open_.part 0).dbg.unlocked = true ∧
      (wOne.part 0).dbg.unlocked = false ∧ mine.ownerOf (getBits (1 <<< 32) 44 32) = some 0 ∧
      open_.ownerOf (getBits (9 <<< 32) 44 32) ≠ some 0 ∧
      (getBits (1 <<< 32) 63 62 = 0 ∧ isMu (getBits (1 <<< 32) 44 32) = true ∧ getBits (1 <<< 32) 13 0 < 12288) ∧
      ¬ (getBits (1 <<< 62 ||| 1 <<< 32) 63 62 = 0) := by decide

theorem witness_BlackBoxCommands :
    let up := State.reset.setf .bboxBbStateReady [] 1
    up.bbReady = true ∧ (up.bbPut none 1 0 0).bbReady = true ∧ (up.bbPut none 1 0 0).bbox.queue ≠ [] ∧
      State.reset.bbReady = false ∧ State.reset.bbox.queue.length < 512 ∧
      (State.reset.setBBox { State.reset.bbox with lostNow := 3 }).bbox.lostNow ≠ 0 ∧
      State.reset.clearResult none ≠ 0 ∧ up.bbox.queue = [] ∧ (1 : Nat) ≤ 16 := by decide

theorem witness_ClearMovesTheOldestRecord :
    let up := State.reset.setf .bboxBbStateReady [] 1
    up.bbReady = true ∧ up.powerState < 3 ∧ up.sealUnit.owner = none ∧ leAt [0x40] 0 1 = 0x40 ∧ leAt [0x40] 4 1 ≤ 1 ∧
      leAt [0x40, 0, 0, 0, 1] 4 1 = 1 ∧ leAt [0x40] 8 8 = 0 ∧ ((([0x40] : List Byte).drop 112).take 96).all (· == 0) = true := by
  decide

theorem witness_HostLinkEvents :
    (State.reset.setf .hostLinkStatusUp [] 1).linkUp = true ∧ (State.reset.setf .hostLinkStatusWidth [] 8).linkUp = false ∧
      (State.reset.setf .hostLinkStatusWidth [] 8).fv .hostLinkStatusWidth [] ≠ 0 ∧
      (State.reset.setMgmt { State.reset.mgmt with sessions := [(0, 0, 2)] }).mgmt.sessions.any (fun x => x.1 == 0 && x.2.2 == 2) = true ∧
      State.reset.mgmt.sessions.any (fun x => x.1 == 0 && x.2.2 == 2) = false ∧
      (5 : Nat) ≤ 6 ∧ (16 : Nat) ≤ 16 ∧ (8 : Nat) ≤ 8 ∧ (8 : Nat) < 16 ∧ (4 : Nat) < 8 ∧ (0 : Nat) % 2 = 0 ∧
      (1 : Nat) % 2 = 1 := by decide

theorem witness_TailLinesAndLedgerFetch :
    let on := ((wOne.setAll .hostLedgerCtl [0] (Fld.hostLedgerCtlEnable.put 0 1)).setAll .hostTailAddr [0] 0x1000).setf
      .hostLinkStatusUp [] 1
    let go := on.setPart 0 { on.part 0 with awake := true, fetchTo := some 5 }
    State.reset.tailOwner 0 = none ∧ go.tailOwner 0x1000 = some 0 ∧ go.enabled 0 = true ∧ go.isLead 0 = true ∧
      go.linkUp = true ∧ on.linkUp = true ∧ (on.part 0).fetchTo = none ∧ (go.part 0).awake = true ∧ (go.part 0).fetchTo = some 5 ∧
      fetchCheck ⟨0, 0, 0, 0⟩ 1 = some 1 ∧ fetchCheck ⟨0, 0, 0, 0⟩ (State.reset.fv .serveLedgerStateLap [0]) = none := by
  decide +kernel

theorem witness_HostMemoryAccesses :
    let seg := (wOne.setAll .hostSeg [0, 0] (Fld.hostSegPages.put (Fld.hostSegValid.put 0 1) 4)).setf .hostLinkStatusUp [] 1
    let held := seg.setPart 0 { seg.part 0 with map := [(1, some 7)], reserve := [(0, [9])] }
    let up := (held.setf .hubD2dUp [0] 1).setv .powerDomainOn [] 0x10000
    State.reset.hdmTarget 0 = none ∧ held.hdmTarget 65536 = some (0, 65536) ∧
      up.hubReady ⟨0, 65536, [], true⟩ = true ∧ up.hubWait = [] ∧ held.hubReady ⟨0, 65536, [], true⟩ = false ∧
      held.segmentOf 0 2 = some 0 ∧ held.segment 0 0 = some (4, 0, 0, false, 0) ∧
      tabGet (fun _ => none) (held.part 0).map 2 = none ∧ held.linkUp = true ∧ up.dieUp 0 = true ∧ held.dieUp 0 = false ∧
      (up.swapAsk (0, 2 ^ 33 + 2)).swapTurn (0, 2 ^ 33 + 2) = true ∧
      ((up.swapAsk (0, 2 ^ 33 + 3)).swapAsk (0, 2 ^ 33 + 2)).swapTurn (0, 2 ^ 33 + 2) = false ∧
      tabGet (fun _ => []) (held.part 0).reserve 0 = [9] := by decide +kernel

theorem witness_ControlOperations :
    let a (op st : Nat) (pfx : Bool) : State := (wOp op).setSeq 0 { Seq.reset with state := st, pfx := pfx }
    let down (op : Nat) : State := (wOp op).setPart 0 { (wOp op).part 0 with keys := [(0, some 7)] }
    (∀ op ∈ [1, 2, 3, 4, 5 + 33 * 2 ^ 32], ((wOp op).part 0).firing = none ∧ ((wOp op).part 0).admitted = some (wCtl op) ∧
      (wCtl op).entry.kind = 1 ∧ (wCtl op).outcome = none ∧ (wCtl op).results.length < (wCtl op).entry.opCount ∧
      opCode ((wCtl op).entry.op 0) = op % 16 ∧ (wOp op).inRange 0 0 = true ∧ opSeq ((wCtl op).entry.op 0) = 0) ∧
      (∀ op ∈ [1, 2, 3, 4, 5], (wOp (op + 2 ^ 14)).inRange 0 (opSeq ((wCtl (op + 2 ^ 14)).entry.op 0)) = false ∧
        opCode ((wCtl (op + 2 ^ 14)).entry.op 0) = op) ∧ (wOne.part 0).admitted = none ∧
      (∀ st ∈ [0, 1, 2, 3, 4, 5], ((a 2 st true).seqOf 0).state = st) ∧ ((a 5 1 true).seqOf 0).pfx = true ∧
      ((a 5 1 false).seqOf 0).pfx = false ∧ ((a 5 1 true).seqOf 0).length = 0 ∧
      (((a 5 1 true).setSeq 0 { Seq.reset with length := 5 }).seqOf 0).length ≠ 0 ∧
      (wOp 3).linkUp = false ∧ ((wOp 3).setf .hostLinkStatusUp [] 1).linkUp = true ∧
      (wOp 5).nsKey 0 0 = none ∧ (down 5).nsKey 0 0 = some 7 ∧ ((down 5).fv .serveNskeyStateClearing [0]).testBit 0 = false ∧
      (((down 5).setf .serveNskeyStateClearing [0] 1).fv .serveNskeyStateClearing [0]).testBit 0 = true ∧
      ((wOp 3).part 0).swapping = [] ∧ (wCtl 3).reclaim = false ∧ ({ wCtl 3 with reclaim := true }).reclaim = true ∧
      (((wOp 3).setPart 0 { (wOp 3).part 0 with swapping := [(0, 0)] }).part 0).swapping ≠ [] := by decide +kernel

theorem witness_ControlOperations_pool :
    let up (n : Nat) : State := ((wOp 3).setSeq 0 { Seq.reset with state := n }).setf .hostLinkStatusUp [] 1
    let full := ((up 3).setPart 0 { (up 3).part 0 with swapFrames := [(0, [7])] }).setBlocks [(0, 2 ^ 31 + 2 ^ 30)]
    let late := full.setPart 0 { full.part 0 with zeroQ := [3], admitted := some { wCtl 3 with reclaim := true } }
    let far := (up 3).setAll .partCells [0] 0x210000
    let v (s : State) : State := ((s.gather 0 0 false s.gatherFuel false).1.endGather 0 (wCtl 3)).swapAsk (0, 2 ^ 32)
    ((up 3).seqOf 0).state = 3 ∧ (up 3).linkUp = true ∧ ((up 3).part 0).admitted = some (wCtl 3) ∧
      (up 3).blockList 0 true = [] ∧ (up 3).canGather 0 0 (up 3).gatherFuel false = true ∧
      ((up 3).gather 0 0 false (up 3).gatherFuel false).2 = .got ∧
      full.blockList 0 true = [(0, 0)] ∧ full.canGather 0 1 full.gatherFuel false = false ∧
      (full.gather 0 1 false full.gatherFuel true).2 = .fails ∧ (late.gather 0 1 false late.gatherFuel true).2 = .wait true ∧
      (late.part 0).admitted = some { wCtl 3 with reclaim := true } ∧ (v (up 3)).diesUp 0 = true ∧
      (v (up 3)).swapTurn (0, 2 ^ 32) = true ∧ (far.gather 0 0 false far.gatherFuel false).2 = .got ∧
      (v far).diesUp 0 = false := by decide +kernel

theorem witness_SchedulerDeliveryAndCompletion :
    let a := wAdm wStepEntry
    let done : Step := { wStepEntry with outcome := some (0, 0) }
    let up := (wFire done).setf .hostLinkStatusUp [] 1
    let ready : State := wOne.setPart 0 { wOne.part 0 with fetched := [⟨0, 0, 0, 0⟩], deficit := 1 }
    let got := (a.checkBatch 0 { Edition.reset with id := 5, state := 4 } wStepEntry none).gatherRecords 0
      { Edition.reset with id := 5, state := 4 } 1
    let fine := (a.checkBatch 0 { Edition.reset with id := 5, state := 4 } wStepEntry (some [])).gatherRecords 0
      { Edition.reset with id := 5, state := 4 } 1
    a.powerState < 2 ∧ a.plateReady 0 wStepEntry = true ∧ (a.part 0).firing = none ∧ (a.part 0).admitted = some wStepEntry ∧ wStepEntry.outcome = none ∧
      wStepEntry.entry.kind = 0 ∧ a.isLead 0 = true ∧ wStepEntry.entry.seqCount = 0 ∧ wStepEntry.checked = false ∧
      a.resident wStepEntry.edition = some { Edition.reset with id := 5, state := 4 } ∧
      (got.part 0).admitted.map (fun z => got.gathered 0 z) = some false ∧
      (fine.part 0).admitted.map (fun z => fine.gathered 0 z) = some true ∧
      up.roomToComplete 0 done = true ∧ (up.part 0).firing = some done ∧ up.canComplete 0 done = true ∧
      ((wAdm done).part 0).admitted = some done ∧ ((wAdm done).part 0).firing = none ∧ (wAdm done).roomToComplete 0 done = true ∧
      (up.setf .powerPwrStatusState [] 2).powerState = 2 ∧ a.linkUp = false ∧ (a.setf .hostLinkStatusUp [] 1).linkUp = true ∧
      wStepEntry.delivered = false ∧ ((wFire wStepEntry).part 0).firing = some wStepEntry ∧
      (wFire wStepEntry).canComplete 0 wStepEntry = false ∧ ((wAdm done).setHost { (wAdm done).host with
        held := [(0, [], false), (0, [], false)] }).roomToComplete 0 done = false ∧
      ((List.range 32).map (fun i => ((ready.scheduleRounds ready.readySet).fv .serveSchedStateLast [] + 1 + i) % 32)).find?
        (fun p => ready.readySet.contains p && decide (0 < ((ready.scheduleRounds ready.readySet).part p).deficit)) = some 0 ∧
      ((List.range 32).map (fun i => ((a.scheduleRounds a.readySet).fv .serveSchedStateLast [] + 1 + i) % 32)).find?
        (fun p => a.readySet.contains p && decide (0 < ((a.scheduleRounds a.readySet).part p).deficit)) = none := by
  decide +kernel

theorem witness_StepMessages :
    let two := wTwo.setAll .partId [0] (BitVec.ofNat 64 (Fld.partIdLead.put (Fld.partIdPtag.put 0 5) 1).toNat)
    let adm := (two.setPart 0 { two.part 0 with admitted := some wStepEntry }).setf .timePsyncSynced [0] 1
    let fire := two.setPart 0 { two.part 0 with firing := some wStepEntry }
    (two.consume 128 6 0).accept wHdr = .ok 0 ∧ (two.consume 128 6 0).fromParent 0 wHdr.src = true ∧
      (two.consume 128 6 0).fv .timePsyncSynced [0] = 0 ∧ (wOne.consume 128 6 0).accept wHdr = .ok 0 ∧
      (wOne.consume 128 6 0).fromParent 0 wHdr.src = false ∧
      (adm.consume 128 7 0).accept wHdr = .ok 0 ∧ (adm.consume 128 7 0).fromParent 0 wHdr.src = true ∧
      (adm.consume 128 7 0).fv .timePsyncSynced [0] ≠ 0 ∧
      ((adm.consume 128 7 0).part 0).admitted.any (fun x => x.entry.idx == leAt [] 0 2 % 4096) = true ∧
      ((adm.consume 128 7 0).part 0).admitted.any (fun x => x.entry.idx == leAt [1] 0 2 % 4096) = false ∧
      ((adm.consume 128 7 0).part 0).firing.any (fun x => x.entry.idx == leAt [1] 0 2 % 4096) = false ∧
      ranToEnd (leAt [] 2 2, BitVec.ofNat 64 (leAt [] 8 8)) = true ∧
      ranToEnd (leAt [0, 0, 4, 0] 2 2, BitVec.ofNat 64 (leAt [0, 0, 4, 0] 8 8)) = false ∧
      ((fire.consume 128 10 0).part 0).firing.any (fun x => x.entry.idx == 0) = true ∧
      ((two.consume 128 10 0).part 0).firing.any (fun x => x.entry.idx == 0) = false ∧
      ((two.consume 128 10 0).part 0).admitted.any (fun x => x.entry.idx == 0) = false ∧
      ((wFire wStepEntry).consume 128 8 0).accept wHdr = .ok 0 ∧
      (((wFire wStepEntry).consume 128 10 0).part 0).firing.any (fun x => x.entry.idx == 0) = true ∧
      ((wFire wStepEntry).consume 128 10 0).isLead 0 = true ∧
      (two.consume 128 6 0).accept { wHdr with dst := 3 } = .bad := by decide +kernel

theorem witness_NamespacesSequencesAndPages :
    let clr := wOne.setf .serveNskeyStateClearing [0] 4
    let sw := (wOne.setf .hostLinkStatusUp [] 1).setPart 0 { wOne.part 0 with swapping := [(3, 1)], zeroQ := [3] }
    let seg := sw.setAll .hostSeg [0, 0] (Fld.hostSegPages.put (Fld.hostSegValid.put 0 1) 4)
    let got := { seg.setPart 0 { seg.part 0 with map := [(3, some 7)] } with swapPath := [(0, 1)] }
    wOne.formed 0 = true ∧ got.pageUp 0 3 = false ∧
      ((got.setf .hubD2dUp [0] 1).setv .powerDomainOn [] 0x10000).pageUp 0 3 = true ∧ (0x8000000000000003 : Word).getLsbD 63 = true ∧ clr.formed 0 = true ∧
      (clr.fv .serveNskeyStateClearing [0]).testBit (2 % 16) = true ∧ got.linkUp = true ∧
      (got.part 0).swapping = [(3, 1)] ∧ (got.recallPage 0 3).place 0 ((got.recallPage 0 3).poolAddr 0 3) = .hbm (7 * 65536) ∧
      (got.part 0).zeroQ = [3] ∧ got.swapTurn (0, 1) = true ∧ ({ got with swapPath := [] } : State).swapTurn (0, 1) = false ∧
      (wOne.part 0).zeroQ = [] ∧ (wOne.part 0).swapping = [] ∧ got.place 0 (got.poolAddr 0 3) = .hbm (7 * 65536) ∧
      got.selfRefresh (7 * 65536 / 2 ^ 39 % 8) = true ∧
      ((got.setf .hubD2dUp [0] 1).setv .powerDomainOn [] 0x10000).selfRefresh (7 * 65536 / 2 ^ 39 % 8) = false ∧ ({ State.reset.hbm with dirty := [1] } : Hbm).dirty.find? (fun x => dieOfPage x == 0) = some 1 ∧ State.reset.selfRefresh 0 = true ∧
      (((State.reset.setv .powerDomainOn [] 0x10000).setf .powerPwrStatusState [] 0).selfRefresh 0 = false) := by
  decide +kernel

theorem witness_PlateLoadsAndFlips :
    let adm := wAdm wRow
    let bad := (adm.setf .partLoadRefuseValid [0] 1).setf .partRefuseEditionEdition [0] 5
    let good := wImg wHead
    let worn := good.setHbm { good.hbm with errs := [(7168, [(0, 1), (1, 1), (2, 1), (3, 1), (4, 1)])] }
    let far := good.setAll .partCells [0] 0x210000
    let words (s : State) := s.readImage 0 wEd (2 ^ 30) (imageWords (s.reader wEd (wEd.imageBase 0)) (wEd.imageBase 0)
      (diesOf (s.rect 0)))
    let fails (s : State) := loadFailure (s.reader wEd (wEd.imageBase 0)) (wEd.imageBase 0) (s.loadEnv 0 ⟨5, 0, (0, 0), 0⟩ wEd)
    State.reset.loadWanted 0 = none ∧
      adm.loadWanted 0 = some (5, 0, (0, 0)) ∧ adm.refused 0 5 0 = false ∧ bad.loadWanted 0 = some (5, 0, (0, 0)) ∧
      bad.refused 0 5 0 = true ∧ adm.diesUp 0 = true ∧ far.diesUp 0 = false ∧ (good.part 0).load = some ⟨5, 0, (0, 0), 0⟩ ∧
      good.resident 5 = some wEd ∧ (words good).2 = none ∧ (words (wImg [])).2 = none ∧
      fails (wImg []) = some (0, 1, 0, 0) ∧ (words worn).2 = some 0 ∧ worn.resident 5 = some wEd := by decide +kernel

theorem witness_PlateLoadsAndFlips_good : loadFailure ((wImg wHead).reader wEd (wEd.imageBase 0)) (wEd.imageBase 0)
    ((wImg wHead).loadEnv 0 ⟨5, 0, (0, 0), 0⟩ wEd) = none := by decide +kernel

theorem witness_PlateLoadsAndFlips_entry :
    let put (s : State) (front back : Option Plate) : State := s.setPart 0 { s.part 0 with front := front, back := back }
    let run := (put (wFire { wRow with row := some 0 }) (some wPl) none).setf .partPlateStatePhase [0] 1
    let late : State := { run with now := 2 ^ 30 }
    (put (wFire wRow) (some wPl) none).entering 0 = some (wRow, 0, 0) ∧
      (put (wFire wRow) none (some wPl)).entering 0 = some (wRow, 0, 0) ∧
      ((put (wFire wRow) none (some wPl)).part 0).back = some wPl ∧ ((put (wFire wRow) none (some wPl)).part 0).front = none ∧
      (put (wAdm wRow) none (some wPl)).entering 0 = none ∧
      (put (wAdm wRow) none (some wPl)).flipFirst 0 = some (wRow, 0, 0) ∧
      holds (some wPl) wRow.edition 0 = true ∧ holds (none : Option Plate) wRow.edition 0 = false ∧
      holds (some wPl) wRow.edition 1 = false ∧ State.reset.flipFirst 0 = none ∧ State.reset.entering 0 = none ∧
      (run.part 0).firing = some { wRow with row := some 0 } ∧ run.phase 0 = 1 ∧ wRow.outcome = none ∧ run.drained 0 = true ∧
      run.watchArmed 0 = true ∧ (run.part 0).front = some wPl ∧ late.watchArmed 0 = true ∧
      (late.part 0).progress + 2 ^ 24 ≤ late.pnow 0 := by decide +kernel

theorem witness_StrokesFireWithTheirEffect :
    (∀ e ∈ ([(0, effNop), (64 * 0x01, effMove), (64 * 0x10, effMatrix), (64 * 0x20, effAccZero), (64 * 0x20 + 1,
      effAccRead), (64 * 0x20 + 2, effAccAdd), (64 * 0x20 + 3, effAccLoad), (vecKind 0, effVadd), (vecKind 1,
      effVsub), (vecKind 2, effVmul), (vecKind 3, effVfma), (vecKind 4, effVmin), (vecKind 5, effVmax), (vecKind 6,
      effVcmp), (vecKind 7, effVsel), (vecKind 8, effVexp2), (vecKind 9, effVlog2), (vecKind 10, effVrcp), (vecKind
      11, effVrsq), (vecKind 12, effVabs), (vecKind 13, effVneg), (vecKind 14, effVmov), (64 * 0x40, effRedSum), (64
      * 0x40 + 1, effRedMax), (64 * 0x40 + 2, effRedMin), (64 * 0x40 + 3, effRedSumsq), (64 * 0x50, effPack), (64 *
      0x60, effSteer), (64 * 0x61, effMerge), (64 * 0x70, effTagAction), (64 * 0x70 + 1, effTagSet), (64 * 0x70 + 2,
      effTagData), (64 * 0x80, effSend), (64 * 0x80 + 1, effSendEosAfter), (64 * 0x80 + 2, effSendEosOnly), (64 *
      0x90, effSyncWait), (64 * 0x90 + 1, effSyncSignal), (64 * 0xA0, effClaim), (64 * 0xA0 + 1, effArm), (64 *
      0xA1, effRetire), (64 * 0xB0, effRouteSelect), (64 * 0xB0 + 1, effRouteDispatch), (64 * 0xC0, effAppend), (64
      * 0xD0, effScoreRmax), (64 * 0xD0 + 1, effScoreExpd), (64 * 0xD0 + 2, effScoreRsum), (64 * 0xD0 + 3,
      effScoreMerge)] :
        List (Nat × (State → Firing → Option (State × Sends)))),
      (wStroke e.1).matched 0 e.1 = some (wFiring e.1) ∧
        (e.2 ((wStroke e.1).consumed (wFiring e.1)) (wFiring e.1)).any (fun r => (wStroke e.1).roomFor 0 r.2) =
      true) ∧
      wNoRoom.matched 0 (64 * 0x80 + 2) = some { wFiring 0 with w := 2 ^ 127 + 2 ^ 77 + 2 ^ 64 + 2 ^ 38 } ∧
      wNoRoom.roomFor 0 [(0, marker 0)] = false :=
  by decide +kernel

theorem witness_RoundingIsExactOnItsOwnValues :
    ofFp32 0 ≠ .nan ∧ ofFp32 1 ≠ .nan ∧ ofFp32 0x80000000 ≠ .nan ∧ ofFp32 0xFF7FFFFF ≠ .nan ∧ ofFp32 0xFF800000 ≠ .nan := by
  decide +kernel

theorem witness_SwitchUnitMovesTransfers :
    let f : Xfer := ⟨0, true, false, 0, 0⟩
    let u := Su.reset
    let img := (wStroke 0).site 0 |>.front
    let slots : SiteImg := { img with slots := [(slotKey 4 2, 2 ^ 15 + 5 * 2 ^ 12), (slotKey 0 2, 2 ^ 15 + 5 * 2 ^ 12), (slotKey 2 2, 2 ^ 15 + 5 * 2 ^ 12)] }
    let at5 (x : Xfer) : Su := u.setInq 40 [(0, x)]
    let ready (s : State) (port : Nat) := (List.range 8).filterMap (fun j => ((s.site 0).waiting (slotKey port j)).map (fun w =>
      (slotKey port j, w)))
    let goes (s : State) (port : Nat) := (ready s port).find? (fun r => decide ((s.site 0).su.credit r.1 > 0))
    let full := (List.range 4).foldl (fun v q => v.setCredit (slotKey q 2) 0) (at5 f)
    let both (v : Su) := (wSu v slots).setv .siteId [128] (BitVec.ofNat 64 (Fld.siteIdOwned.put 0 1).toNat)
    let pop (x : Xfer) := (at5 x).popHead 40
    State.reset.worksFor 0 = none ∧
    (wSu (at5 f) slots).worksFor 0 = some 0 ∧ (wSu (at5 f) slots).portOpen 0 0 4 = true ∧
      goes (wSu (at5 f) slots) 4 = some (slotKey 4 2, .input 40, f) ∧
      neighbour 0 2 = some 128 ∧ (both full).portOpen 0 0 2 = true ∧ (both full).worksFor 0 = some 0 ∧ ready (both full) 2 ≠ [] ∧
      goes (both full) 2 = none ∧ (both (at5 f)).portOpen 0 0 2 = true ∧
      goes (both (at5 f)) 2 = some (slotKey 2 2, .input 40, f) ∧
      (wSu (at5 f) slots).portOpen 0 0 0 = false ∧
      tabGet (fun _ => 0) (pop f).owed 40 = 1 ∧ (wSu (pop f) img).worksFor 0 = some 0 ∧
      tabGet (fun _ => 0) ((u.owe (slotKey 0 2) 1).owe (slotKey 2 2) 1).owed (slotKey 0 2) = 1 ∧
      tabGet (fun _ => 0) (u.owe (slotKey 4 2) 1).owed (slotKey 4 2) = 1 ∧ neighbour 0 0 = none ∧
      isMu 0 = false ∧ headOperand ((u.setOutFifo 3 [f]).outFifo 3) = some (⟨0, false, 0, [0]⟩, []) ∧
      headOperand (u.outFifo 3) = none ∧
      0 < (wSu (u.setOutFifo 3 [f]) img).matchFree 0 0 := by
  decide +kernel

theorem witness_SwitchUnitMovesTransfers_ends :
    let ending (kind : Nat) : State := (wStroke kind).setSite 0 { (wStroke kind).site 0 with cu := { ((wStroke kind).site 0).cu with stores :=
      [[⟨0, true, 0, []⟩], [], [], []] } }
    (∀ kind ∈ [0, 64 * 0x61, 64 * 0xA0], (ending kind).mayFire 0 = some 0 ∧
      ((ending kind).site 0).cu.choose ((ending kind).site 0).front = some (0, true, 0)) ∧
      State.reset.mayFire 0 = none ∧
      Stroke.opcode (wWord 0) = 0 ∧ Stroke.opcode (wWord (64 * 0x61)) = 0x61 ∧ Stroke.opcode (wWord (64 * 0xA0)) = 0xA0 ∧
      (ending 0).roomFor 0 [] = true ∧ (ending (64 * 0xA0)).matchFree 0 (Stroke.low (wWord (64 * 0xA0)) 34 33) ≠ 0 ∧
      Stroke.eosPorts (wWord 0) = [] := by
  decide +kernel

theorem witness_SwitchUnitMovesTransfers_entries :
    let f : Xfer := ⟨0, true, false, 0, 0⟩
    let d : Xfer := ⟨0, true, true, 0, 0⟩
    let u := Su.reset
    let img := (wStroke 0).site 0 |>.front
    let at5 (x : Xfer) : Su := u.setInq 40 [(0, x)]
    let one (typ : Nat) : SiteImg := { img with steer := [(0, 2 ^ 7 + typ * 2 ^ 5 + 2 ^ 15 + 5 * 2 ^ 12)] }
    let se (typ : Nat) := 2 ^ 7 + typ * 2 ^ 5 + 2 ^ 15 + 5 * 2 ^ 12 + 2 ^ 23 + 5 * 2 ^ 20
    steerType (se 0) = some 0 ∧ steerIn (se 0) 0 = some 40 ∧ steerIn (se 0) 1 = some 40 ∧
      (at5 f).head 40 = some (0, f) ∧ (at5 d).head 40 = some (0, d) ∧ (u.entry 0).held = false ∧
      ((u.setEntry 0 { u.entry 0 with items := [⟨1, f⟩] }).entry 0).held = true ∧ u.head 40 = none ∧
      ((u.setEntry 0 { u.entry 0 with ends := [(1, 0)] }).entry 0).ends.find? (fun j => j.1 == 1 && tagCtx j.2 == tagCtx d.tag) = some (1, 0) ∧
      ([1, 2].all (fun c => [f, d].all (fun x =>
        let t := (wSu (at5 x) (one c)).steerSettle 0 0
        let v := if c = 1 then (t.site 0).su else (t.site 0).su.takeHeads (tabGet (fun _ => 0) (one c).steer 0) 0
        decide (v.mergeNext (tabGet (fun _ => 0) (one c).steer 0) 0 c = some (0, 0, x) ∧
          (v.entry 0).passing = none ∧ (v.entry 0).pairs = [] ∧
          steerType (tabGet (fun _ => 0) (one c).steer 0) = some c))) = true) := by
  decide +kernel

theorem witness_MemoryUnitStreamsAndGrants :
    let d (mode space port : Nat) : Nat := port * 2 ^ 213 + mode * 2 ^ 207 + space * 2 ^ 205 + 3 * 2 ^ 217 + 7 * 2 ^ 146 + 7 * 2 ^ 150
    let e := Engine.reset
    let f : Xfer := ⟨0, true, false, 0, 0⟩
    let u := Su.reset.setOutFifo 0 [f]
    let read (k : Nat) := wMu (d 0 k 4) e u
    let asks := wMu (d 0 1 4) { e with reads := [⟨0, 64, none, [(0, 1, 0)], none⟩] } u
    let wr := wMu (d 1 0 4) e u
    let qu := wMu (d 2 0 4) e u
    isMu 1 = true ∧ ((read 0).hatch 1 0).map (fun h => (h.part, h.cs, h.d)) = some (0, [1, 1, 1, 1, 1, 1], d 0 0 4) ∧
      ([0, 1, 2, 3].all (fun k => ((read k).hatch 1 0).all (fun h =>
        let t := (read k).sendReady h
        let r := t.syncWait h 0
        decide ((t.engine 1 0).pos < passTotal h.cs) && h.d.mode == 0 && h.d.space == k && r.2 && r.1.roomAt h h.d.len &&
          (r.1.engine 1 0).bank.isNone && mayRequest (r.1.engine 1 0) (64 * h.d.len) &&
          wholeMargin h.d h.shape (nestIx h.cs (r.1.engine 1 0).pos) == false)) = true) ∧
      (asks.engine 1 0).reads.find? (fun k => k.data.isNone && k.txn.isNone) = some ⟨0, 64, none, [(0, 1, 0)], none⟩ ∧
      (asks.hatch 1 0).isSome = true ∧ (wr.hatch 1 0).map (fun h => h.d.mode) = some 1 ∧
      headOperand ((wr.site 1).su.outFifo 0) = some (⟨0, false, 0, [0]⟩, []) ∧ Desc.context (d 1 0 4) = 0 ∧ tagCtx 0 = 0 ∧
      ((wr.hatch 1 0).all (fun h => let m := wr.remoteMore h
        decide (headOperand ((m.site 1).su.outFifo 0) = some (⟨0, false, 0, [0]⟩, []) ∧ (m.engine 1 0).bank = none ∧
          (m.engine 1 0).ended = false) && (m.syncWait h 0).2 && ((m.syncWait h 0).1.storeOp h 0 0 [0]).isSome) = true) ∧
      ((qu.hatch 1 0).all (fun h => let t := qu.queueSend h
        decide (h.d.mode = 2) && (t.hatch 1 0).isSome && decide ((t.site 1).su.outFifo 0 = [f]) &&
          decide (0 < (t.site 1).su.credit (slotKey 5 0))) = true) := by
  decide +kernel

theorem witness_MemoryUnitStreamsAndGrants_units :
    let d (mode space port : Nat) : Nat := port * 2 ^ 213 + mode * 2 ^ 207 + space * 2 ^ 205 + 3 * 2 ^ 217 + 7 * 2 ^ 146 + 7 * 2 ^ 150
    let arms : Engine := { Engine.reset with entry := 2 ^ 32 }
    let s := wMu (d 0 0 4 + 2 ^ 212) arms (Su.reset.setOutFifo 0 [⟨0, true, false, 0, 0⟩])
    let put (m : Mu) : State := s.setMu 1 m
    let m := (s.site 1).mu
    let req : BankReq := ⟨4, 0, none, false, false⟩
    let set : BankReq := { req with wdata := some 0 }
    let op (k : Nat) : AtomOp := { kind := k, addr := 0, x := 0, y := 0, dest := 0, a := 0, b := 0, c := 0, tag := 0, eosExh := false, data := 0 }
    let pw : PostedWrite := ⟨0, 0, [0], 0, 0⟩
    let wp := wMu (d 1 1 4) { Engine.reset with posted := [pw] } Su.reset
    s.worksFor 1 = some 0 ∧ (s.hatch 1 0).map (fun h => h.d.persist) = some true ∧ entryArm (s.engine 1 0).entry = true ∧
      (s.engine 1 0).arm = none ∧ entryArmSlot (s.engine 1 0).entry = 0 ∧ s.missed (Rg.siteMuArm.at [1, 0]) ≠ none ∧
      ((put { m with waiters := [(0, [(3, 0), (4, 0)])] }).site 1).mu.queue 0 = [(3, 0), (4, 0)] ∧ neighbour 1 3 = some 0 ∧
      ((put { m with waiters := [(0, [(4, 0)])] }).site 1).mu.queue 0 = [(4, 0)] ∧ 0 ≤ m.sem 0 ∧
      ([8, 9, 10].all (fun k => decide (((put { m with atoms := [(0, [op k])] }).site 1).mu.atomQueue 0 = [op k] ∧
        ((put { m with atoms := [(0, [op k])] }).bankOrder 1 0).head? = some 8 ∧
        ((put { m with atoms := [(0, [op k])] }).bankActor 1 0 8).1 = 8)) = true) ∧
      ([req, set].all (fun r => decide (((put { m with reqs := [r] }).bankOrder 1 0).head? = some 4 ∧
        ((put { m with reqs := [r] }).bankActor 1 0 4).1 = 4)) = true) ∧
      ((put { m with appends := [⟨0, [], none⟩] }).site 1).mu.appends = [⟨0, [], none⟩] ∧
      (wp.hatch 1 0).isSome = true ∧ (wp.engine 1 0).posted.find? (fun k => k.kind == 0) = some pw ∧
      (let ed : Edition := { wEd with manifest := List.replicate 3072 0 ++ [1, 0x80] }
       let t := s.setFlash { s.flash with slots := [(0, ed)] }
       (t.setPart 0 { t.part 0 with front := some ⟨5, 0, 0, [], []⟩ }).isAppendSite 0 1 = true) ∧
      headOperand ([⟨0, true, true, 0, 0⟩] : List Xfer) = some (⟨0, true, 0, []⟩, [])  := by
  decide +kernel

theorem witness_AtomicsActOnTheirWord :
    let own (b : Nat) : State := ((wMu 0 Engine.reset Su.reset).setAll .siteMuBankOwn [1] (BitVec.ofNat 64 b))
    let body (k : Nat) : List Byte := leBytes 8 (2 ^ 63 + 2 ^ 20) ++ leBytes 8 k ++ leBytes 8 5 ++ leBytes 8 7
    let op (k : Nat) : AtomOp := ⟨k, 0, 5, 7, 2, 0, 1, 7, 0, false, 0⟩
    let at_ (b : Nat) : State := (own b).consume 128 0x16 32
    let queued (b k : Nat) : State := (at_ b).setMu 1 { ((at_ b).site 1).mu with atoms := [(0, [op k])] }
    let turn (b k : Nat) : State := (queued b k).setMu 1 { ((queued b k).site 1).mu with last := [(0, 8)] }
    ([0, 1, 2, 3, 4, 5, 6, 7].all (fun k => decide (leAt (body k) 8 1 = k ∧ bitsOf (leAt (body k) 0 8) 32 20 = 1)) = true) ∧
      (leAt (body 0) 0 8).testBit 63 = true ∧ (leAt [] 0 8).testBit 63 = false ∧ leAt [] 8 1 = 0 ∧
      bitsOf (leAt [] 0 8) 32 20 = 0 ∧ ((at_ 9).site 1).mu.atomQueue 0 = [] ∧
      ((own 9).site 1).mu.atomQueue 0 = [] ∧ (at_ 9).accept wHdr = .ok 0 ∧ (at_ 9).accept { wHdr with epoch := 2 } = .stale 0 ∧
      (at_ 9).accept { wHdr with ptag := 9 } = .bad ∧
      (at_ 9).ownMu 0 1 = true ∧ wOne.ownMu 0 1 = false ∧ (wOne.consume 128 0x16 0).accept wHdr = .ok 0 ∧
      (own 9).atomicMay 1 0 = true ∧ (own 0).atomicMay 1 0 = false ∧ (at_ 0).ownMu 0 1 = true ∧
      ([0, 7].all (fun k => [0, 9].all (fun b => decide ((queued b k).bankOrder 1 0 = [8] ∧
        ((queued b k).site 1).mu.atomQueue 0 = [op k] ∧ ((turn b k).site 1).mu.atomQueue 0 = [op k] ∧
        (turn b k).atomFor 1 = some 0))) = true) := by
  decide +kernel

theorem witness_RemoteMemoryAndCollectiveMessages :
    let own : State := (wOne.setv .siteId [1] (BitVec.ofNat 64 (Fld.siteIdOwned.put 0 1).toNat)).setAll
      .siteMuBankOwn [1] (BitVec.ofNat 64 9)
    let req (typ : Nat) : State := own.setPart 0 { own.part 0 with reqs := [⟨1, 7, typ, 1, 0, 0⟩] }
    let bank : List Byte := leBytes 8 (2 ^ 63 + 2 ^ 20)
    let winState : State := own.setSite 1 { own.site 1 with front := { (own.site 1).front with xwin := [(0, 2 ^ 15 + 2 ^ 48)] } }
    let down : List Byte := leBytes 8 0 ++ [1]
    let sender : State := (own.setAll .partCells [0] (BitVec.ofNat 64 (Fld.partCellsCw.put (Fld.partCellsCh.put 0 1) 1).toNat)).setSite 1 { own.site 1 with front := { (own.site 1).front with
      rwin := [(0, 2 ^ 15 + 1)], descs := [(0, BitVec.ofNat 256 (2 * 2 ^ 205 + (2 ^ 37 + 2 ^ 14) * 2 ^ 164))] } }
    let map (tag : Nat) (errs : Tab (List (Nat × Nat))) : State :=
      let s := wImg []
      let s := s.setHbm { s.hbm with tags := [(7, tag)], errs := errs }
      s.setPart 0 { s.part 0 with firing := some wStepEntry }
    let got (s : State) := (s.readPart 0 0x1FFF 0 1 (2 ^ 43)).2
    own.accept wHdr = .ok 0 ∧ own.mustWait 128 wHdr (leAt bank 0 8) 0 = false ∧ (leAt bank 0 8).testBit 63 = true ∧
      bitsOf (leAt bank 0 8) 32 20 = 1 ∧ own.ownMu 0 1 = true ∧ (own.readPart 0 0x1FFF 0 0 0).2.ue = none ∧
      (own.readPart 0 0x1FFF 0 0 0).2.denied = none ∧ (got (map 0 [])).denied ≠ none ∧ (got (map 0 [])).ue = none ∧
      (got (map 32768 [(7168, [(0, 1), (1, 1), (2, 1), (3, 1), (4, 1)])])).ue ≠ none ∧
      (((map 0 []).setf .hubD2dUp [0] 1).setv .powerDomainOn [] 0x10000).mustWait 128 wHdr (2 ^ 43) 1 = false ∧ (map 0 []).accept wHdr = .ok 0 ∧
      ([0x10, 0x12, 0x14, 0x16].all (fun k => ((req k).takeReq 0 k 1 7).2 == some ⟨1, 7, k, 1, 0, 0⟩) = true) ∧
      (own.takeReq 0 0x14 1 7).2 = none ∧ winState.windowOf 1 0 = some 0 ∧ winState.ownMu 0 1 = true ∧
      wOne.ownMu 0 1 = false ∧ leAt down 8 1 % 2 = 1 ∧ leAt ([] : List Byte) 8 1 % 2 = 0 ∧
      (sender.takeReq 0 0x14 1 7).1.senderWindow 0 1 1 0 = some (1, 0) ∧
      own.accept { wHdr with epoch := 2 } = .stale 0 ∧ own.accept { wHdr with ptag := 9 } = .bad := by
  decide +kernel

/-- Edition 5 with an expert map of one routed layer, whose plate 0 has dispatch site 1; it fires in partition 0. -/
def wRouted (layer : Nat) (ended : List Nat) (f : List Xfer) : State :=
  let ed : Edition := { wEd with manifest := [0, 0, 0, 0, 0, 0, 1, 1] ++ List.replicate 4096 0 ++ [1, 0x80] }
  let s := (wMu 0 Engine.reset (Su.reset.setOutFifo 6 f))
  let s := s.setFlash { s.flash with slots := [(0, ed)] }
  s.setPart 0 { s.part 0 with
    front := some ⟨5, 0, 0, [], []⟩, disp := { Disp.reset with ended := ended, layer := layer, turn := ended.length }
    firing := some { wStepEntry with row := some 0, records := [⟨0, 0, 1, false, false, false, false, 0, false, 0, 0, 0, false⟩] } }

theorem witness_ExpertDispatcherCommands :
    let f : Xfer := ⟨0, true, false, 0, 0⟩
    let s := wRouted 0 [] [f]
    let again : State := s.setPart 0 { s.part 0 with disp := { Disp.reset with lists := [(0, 1, [])] } }
    let done := wRouted 0 [1] []
    s.worksFor 1 = some 0 ∧ State.reset.worksFor 1 = none ∧
      headOperand ((s.site 1).su.outFifo 6) = some (⟨0, false, 0, [0]⟩, []) ∧
      (s.frontDispatch 0).any (fun i => i.2 == 1) = true ∧ (s.part 0).disp.sending = false ∧ s.layerEnded 0 = false ∧
      (s.part 0).disp.ended.contains 1 = false ∧ (done.part 0).disp.ended.contains 1 = true ∧
      headOperand ([⟨0, true, true, 0, 0⟩] : List Xfer) = some (⟨0, true, 0, []⟩, []) ∧
      (again.part 0).disp.lists.any (fun l => l.1 == 0) = true ∧ again.layerEnded 0 = false ∧
      done.firingNow 0 = true ∧ done.layerEnded 0 = true ∧ done.dispTurn 0 = true ∧
      ((done.part 0).firing.all (fun x => (done.resident x.edition).all (fun e => decide (0 < e.rlayers))) = true) ∧
      (wRouted 1 [1] []).layerEnded 0 = true ∧ (wRouted 1 [1] []).dispTurn 0 = true ∧
      s.accept wHdr = .ok 0 ∧ s.fabricWaits 0 = false ∧ (s.consume 128 0x20 0).accept wHdr = .ok 0 ∧
      ((s.consume 128 0x20 0).dispCtx 0 0 0).isSome = true ∧ (((s.consume 128 0x20 0).endCame 0 1 0 0).dispCtx 0 0 0).isSome = true ∧
      ((s.consume 128 0x20 0).endCame 0 1 0 0).firingNow 0 = true ∧ (s.consume 128 0x20 0).firingNow 0 = true ∧
      (wOne.consume 128 0x20 0).firingNow 0 = false ∧ wOne.fabricWaits 0 = false ∧
      (wAdm wStepEntry).fabricWaits 0 = true ∧ (wAdm wStepEntry).accept wHdr = .ok 0 ∧
      s.accept { wHdr with epoch := 2 } = .stale 0 := by
  decide +kernel

/-- Die 0 is reached: its domains are on, the module runs, and the link to it is up. -/
def wDie : State :=
  (State.reset.setv .powerDomainOn [] (BitVec.ofNat 64 0xFFFFFFFF)).setf .hubD2dUp [0] 1

theorem witness_MemoryMaintenance :
    let s := wDie
    let put (at_ acts : Nat) : State := s.setHbm { s.hbm with scrubAt := [(0, at_)], acts := [(0, acts)] }
    State.reset.selfRefresh 0 = true ∧ (put 0 0).selfRefresh 0 = false ∧ dieOfRow 0 = 0 ∧
      tabGet (fun _ => 0) (put 0 0).hbm.scrubAt 0 + 1 ≠ 2 ^ 25 + 2 ^ 14 ∧
      tabGet (fun _ => 0) (put (2 ^ 25 + 2 ^ 14 - 1) 0).hbm.scrubAt 0 + 1 = 2 ^ 25 + 2 ^ 14 ∧
      tabGet (fun _ => 0) (put 0 0).hbm.acts 0 < (put 0 0).fa .hbmRdistCtlThreshold [0] ∧
      (put 0 (2 ^ 32)).fa .hbmRdistCtlThreshold [0] ≤ tabGet (fun _ => 0) (put 0 (2 ^ 32)).hbm.acts 0 ∧
      (s.setHbm { s.hbm with due := [(0, 1)] }).hbm.due.any (fun e => e.1 == 0) = true ∧
      s.missed (Rg.hbmTagSel.at [0]) = none ∧ State.reset.missed (Rg.hbmTagSel.at [0]) ≠ none := by
  decide +kernel

theorem witness_MemoryMaintenance_spares :
    let s (n : Nat) := wDie.setHbm { wDie.hbm with spares := [(Config.bankOf 0 % 1024, n)], fixes := [(0, 8)] }
    rowAt (0 % 8) (0 % 4) (0 % 32) 0 = 0 ∧ channelOfRow 0 = 0 ∧ wDie.selfRefresh 0 = false ∧ ∀ n ∈ [30, 31, 32], (s n).regs = wDie.regs ∧ tabGet (fun _ => 0) (s n).hbm.fixes 0 = 8 ∧
      tabGet (fun _ => 0) (s n).hbm.spares ((0 * 32 + channelOfRow 0) * 1024 + Config.bankOf 0 % 1024) = n := by
  refine ⟨rfl, rfl, by decide +kernel, fun n _ => ⟨rfl, rfl, ?_⟩⟩
  show tabGet _ [(Config.bankOf 0 % 1024, n)] _ = n
  simp [tabGet, channelOfRow]

theorem witness_MemoryMaintenance_spares_out :
    wDie.fv .hbmStackStatusSparesOut [0, 0] ≠ 1 ∧ (wDie.setf .hbmStackStatusSparesOut [0, 0] 1).fv .hbmStackStatusSparesOut [0, 0] = 1 := by
  decide +kernel

/-- The mounted library with a command in its queue and edition 5 in slot 0. -/
def wLib (op : Nat) (a : Word) (e : Edition) (used : Bool) : State :=
  let s := State.reset.setf .flashLibStateReady [] 1
  let s := if used then (wFire wStepEntry).setf .flashLibStateReady [] 1 else s
  s.setFlash { Flash.reset with slots := [(0, { e with id := 5 })], queue := [⟨op, 3, a, 0⟩] }

theorem witness_FlashLibraryCommands :
    let e (st : Nat) : Edition := { Edition.reset with id := 5, state := st }
    let c (op : Nat) (a : Word) : FlashCmd := ⟨op, 3, a, 0⟩
    let s (op st : Nat) := wLib op 5 (e st) false
    let run (op st : Nat) : State := (s op st).setFlash { (s op st).flash with running := [c op 5], queue := [] }
    let both : State := (s 4 3).setFlash { (s 4 3).flash with running := [c 3 5] }
    let ok (inst : Bool) (op st : Nat) : Bool := decide ((s op st).flashFront inst = some (c op 5)) && (c op 5).legal &&
      decide (((s op st).flashTake (c op 5)).installed 5 = some 0) &&
      decide (((s op st).flashTake (c op 5)).flash.slot 0 = e st)
    let none_ (inst : Bool) (op : Nat) : Bool := decide ((wLib op 9 (e 2) false).flashFront inst = some (c op 9)) && (c op 9).legal &&
      decide (((wLib op 9 (e 2) false).flashTake (c op 9)).installed 9 = none)
    (run 1 1).flash.running.find? (fun x => x.op == 1) = some (c 1 5) ∧ (run 1 1).flashRoom 0 = true ∧
      (run 3 3).flash.running.find? (fun x => x.op == 3) = some (c 3 5) ∧ (run 3 3).flashRoom 0 = true ∧
      (run 3 3).stageWaits (c 3 5) = false ∧
      (wLib 1 4096 (e 2) false).flashFront true = some (c 1 4096) ∧ (c 1 4096).legal = true ∧
      (wLib 1 4096 (e 2) false).flash.running = [] ∧
      (((wLib 1 4096 (e 2) false).flashTake (c 1 4096)).installRefused (c 1 4096) []).isSome = true ∧
      (none_ true 2 && ok true 2 2 && ok true 2 4 && none_ false 3 && ok false 3 4 && ok false 3 2 && none_ false 4 &&
        ok false 4 2 && ok false 4 4 && none_ false 5 && ok false 5 2 && ok false 5 4 && none_ false 6 && ok false 6 2 &&
        ok false 6 4) = true ∧ (s 3 2).flash.running.find? (fun x => x.op == 3) = none ∧
      State.reset.flashFront false = none ∧ State.reset.flashFront true = none ∧
      (both.abandonAhead 8).evictRunning = some (c 3 5, c 4 5) ∧ (both.abandonAhead 8).stagingSlot = some 0 ∧
      (both.abandonAhead 8).flashRoom 1 = true ∧ (both.abandonAhead 8).flash.overtaken = none ∧
      ((s 4 4).abandonAhead 8).flash.overtaken = none ∧ ((s 4 4).abandonAhead 8).evictRunning = none ∧
      ((s 4 4).abandonAhead 8).flashFront false = some (c 4 5) ∧
      (((s 4 4).abandonAhead 8).flashTake (c 4 5)).editionUsed 5 = false ∧
      ((wLib 4 5 (e 4) true).flashTake (c 4 5)).editionUsed 5 = true ∧
      (s 5 4).setWaits = false ∧ (s 7 2).repairWaits = false ∧
      ((s 6 4).flashTake (c 6 5)).setNamed 5 0 = false ∧ ((s 7 2).flashTake (c 7 5)).residentTile 0 = none ∧
      (s 7 2).flashFront false = some (c 7 5) ∧ (c 7 5).legal = true ∧
      State.reset.missed (Rg.flashCmdAck.at []) ≠ none ∧
      (State.reset.setv .powerDomainOn [] (BitVec.ofNat 64 (2 ^ 64 - 1))).missed (Rg.flashCmdAck.at []) = none := by
  decide +kernel

theorem fresh_of_first (s : State) (c : Nat)
    (h : (s.flash.erased (c * 2 ^ 15 + 0) && (s.rv .flashChStatus [c]).toNat.testBit ((c * 2 ^ 15 + 0) / 2 ^ 12 % 8)) = true) :
    (s.freshBlock c).isSome = true := by
  have keep : ∀ (l : List Nat) (x : Nat), (l.foldl (fun (best : Option Nat) b =>
      if s.flash.erased b && (s.rv .flashChStatus [c]).toNat.testBit (b / 2 ^ 12 % 8) &&
        best.all (fun x => decide (s.flash.wear b < s.flash.wear x)) then some b else best) (some x)).isSome = true := by
    intro l
    induction l with
    | nil => intro x; rfl
    | cons b l ih =>
      intro x
      rw [List.foldl_cons]
      split
      · exact ih _
      · exact ih _
  unfold State.freshBlock
  rw [show (2 ^ 15 : Nat) = 32767 + 1 from rfl, List.range_succ_eq_map, List.map_cons, List.foldl_cons]
  rw [if_pos (by simpa using h)]
  exact keep _ _

theorem witness_FlashLibraryCommands_channels :
    let e (st : Nat) : Edition := { Edition.reset with id := 5, state := st }
    let s := (wLib 1 5 (e 2) false).setf .flashChStatusDiesOk [0] 0xFF
    let t := s.setFlash { s.flash with failed := [0], rebuilding := [0] }
    s.relocates 0 false = false ∧ s.relocates 0 true = true ∧ (s.flash.erased 0 && (s.rv .flashChStatus [0]).toNat.testBit 0) = true ∧
      s.flash.failed.contains 0 = false ∧ t.flash.failed.contains 0 = true ∧ t.flash.rebuilding.contains 0 = true ∧
      t.libraryUp = true ∧ State.reset.libraryUp = false := by
  decide +kernel

theorem witness_OpticalPortsMoveByTheTable :
    let s (st : Nat) := State.reset.setf .opticPortStateState (portIx 3) st
    let up (m : Nat) := (s 3).setv .opticLaneMap (portIx 3) (BitVec.ofNat 64 m)
    let lit := ((s 6).setf .opticEngStatusLaserAOk [0] 1).setAll .opticPortCtl (portIx 3) (BitVec.ofNat 64 (Fld.opticPortCtlEnable.put 0 1).toNat)
    let kept := (s 4).setPort 3 { (s 4).port 3 with kept := [⟨0, 0, 0, 0, List.replicate 244 0, 1⟩] }
    (s 1).portState 3 = 1 ∧ (s 2).portState 3 = 2 ∧ ((List.range 9).filter (fun w => (511 : Nat).testBit w)).length = 9 ∧
      ((List.range 9).filter (fun w => (31 : Nat).testBit w)).length = 5 ∧ lit.portState 3 = 6 ∧ lit.laserOk 0 = true ∧ lit.fa .opticPortCtlEnable (portIx 3) = 1 ∧ ((s 2).port 3).linkId = false ∧
      (((s 2).setPort 3 { (s 2).port 3 with linkId := true }).port 3).linkId = true ∧ ((s 2).setPort 3 { (s 2).port 3 with linkId := true }).portState 3 = 2 ∧
      waveLane ((up 0xF76543218).rv .opticLaneMap (portIx 3)) 0 = none ∧ (up 0xF76543218).portUp 3 = true ∧
      (s 3).portUp 3 = true ∧ kept.portUp 3 = true ∧ (kept.port 3).kept ≠ [] ∧
      getBits ((up 0x876543210).rv .opticLaneMap (portIx 3)) 35 32 = 8 ∧ (up 0x876543210).portUp 3 = true ∧
      waveLane ((up 0x876543210).rv .opticLaneMap (portIx 3)) 2 = some 2 ∧ (up 0xF76543210).portState 3 = 3 ∧
      getBits ((up 0xF76543210).rv .opticLaneMap (portIx 3)) 35 32 = 0xF ∧
      waveLane ((up 0xF76543210).rv .opticLaneMap (portIx 3)) 2 = some 2 ∧ (s 4).portState 3 = 4 ∧ (s 4).portUp 3 = true := by
  decide +kernel

theorem witness_FlitsAuditsAndForwarding :
    let s := State.reset.setf .opticPortStateState (portIx 3) 3
    let put (f : Port → Port) : State := s.setPort 3 (f (s.port 3))
    let flit (h : Nat) : List Byte :=
      let b := leBytes 8 h ++ List.replicate 244 0
      b ++ leBytes 4 (crc32c b)
    let rx := (put (fun x => { x with naking := true }))
    let aud (a : Option (Nat × Nat)) : State := (put (fun x => { x with audit := a })).setv .opticLaneMap (portIx 3) 0x876543210
    let on := (aud none).setAll .opticPortCtl (portIx 3) (BitVec.ofNat 64 (Fld.opticPortCtlAuditEn.put 0 1).toNat)
    let away := { wHdr with dst := 9 }
    let routed := wOne.setAll .partRoute [0, 1] (BitVec.ofNat 64 (2 ^ 64 - 1))
    s.portUp 3 = true ∧ (((s.port 3).codewords []).2.2 = false ∧ ((s.port 3).codewords [16]).2.2 = true) ∧ decide (crc32c ((flit 0).take 252) ≠ leAt (flit 0) 252 4) = false ∧
      decide (crc32c (([] : List Byte).take 252) ≠ leAt [] 252 4) = false ∧ bitOf (leAt [] 0 8) 38 = false ∧
      bitsOf (leAt (flit 0) 0 8) 63 52 = ((((s.setPort 3 ((s.port 3).codewords []).1).countFec 3 ((s.port 3).codewords []).2.1).port 3).rxSeq + 1) % 4096 ∧
      bitsOf (leAt (flit (2 ^ 52)) 0 8) 63 52 ≠ ((((s.setPort 3 ((s.port 3).codewords []).1).countFec 3 ((s.port 3).codewords []).2.1).port 3).rxSeq + 1) % 4096 ∧
      (((s.setPort 3 ((s.port 3).codewords []).1).countFec 3 ((s.port 3).codewords []).2.1).port 3).naking = false ∧ (((rx.setPort 3 ((rx.port 3).codewords []).1).countFec 3 ((rx.port 3).codewords []).2.1).port 3).naking = true ∧ rx.portUp 3 = true ∧
      bitOf (leAt (flit (2 ^ 38)) 0 8) 38 = true ∧ decide (crc32c ((flit (2 ^ 38)).take 252) ≠ leAt (flit (2 ^ 38)) 252 4) = false ∧
      on.portState 3 = 3 ∧ on.fa .opticPortCtlAuditEn (portIx 3) = 1 ∧ (on.port 3).auditStop = false ∧ ((on.port 3).audit.all (fun b => b.2 == 0)) = true ∧
      getBits (on.rv .opticLaneMap (portIx 3)) 35 32 = 8 ∧ (nextWave (on.rv .opticLaneMap (portIx 3)) (on.port 3).auditNext).isSome ∧
      (((aud (some (2, 0))).consume 3 2 3).port 3).audit = some (2, 0) ∧
      waveLane (((aud (some (2, 0))).consume 3 2 3).rv .opticLaneMap (portIx 3)) 2 = some 2 ∧
      (((aud (some (2, 1))).consume 3 2 3).port 3).audit = some (2, 1) ∧
      waveLane (((aud none).setv .opticLaneMap (portIx 3) 0x876543810).rv .opticLaneMap (portIx 3)) 8 = some 2 ∧
      ((put (fun x => { x with auditRx := some 2 })).port 3).auditRx = some 2 ∧
      (((aud (some (2, 2))).consume 3 2 3).port 3).audit = some (2, 2) ∧
      (wOne.consume 3 5 0).partOfTag 9 = none ∧ (wOne.consume 3 5 0).partOfTag away.ptag = some 0 ∧
      away.dst ≠ (wOne.consume 3 5 0).coord 0 ∧ wHdr.dst = (wOne.consume 3 5 0).coord 0 ∧ (wOne.consume 3 5 0).partOfTag wHdr.ptag = some 0 ∧ (wOne.consume 3 5 0).route 0 9 = none ∧
      ((routed.consume 3 5 0).route 0 9).isSome = true ∧ (routed.consume 3 5 0).partOfTag away.ptag = some 0 := by
  decide +kernel

theorem witness_FaultReportsEpochAndKill :
    let asked : State := wOne.setPart 0 { wOne.part 0 with reqs := [⟨1, 7, 0x10, 1, 0, 0⟩] }
    let e : FaultEntry := ⟨⟨1, 0, 1⟩, 1, 0, 0, false, none, 0, false⟩
    let put (s : State) (g : FaultEntry) : State := s.setPart 0 { s.part 0 with faults := [g] }
    asked.formed 0 = true ∧ asked.isMember 0 1 = true ∧ 1 ≠ asked.coord 0 ∧ asked.awaits 0 1 = true ∧
      (wOne.consume 128 5 0).accept wHdr = .ok 0 ∧ (wOne.consume 128 5 0).accept { wHdr with ptag := 9 } = .bad ∧
      ((put wOne e).part 0).faults[0]? = some e ∧ (put wOne e).isLead 0 = true ∧ (put wTwo e).isLead 0 = false ∧
      ((put wTwo e).part 0).faults[0]? = some e ∧ e.confirm = none ∧ e.tries < 3 ∧ 3 ≤ ({ e with tries := 3 } : FaultEntry).tries ∧
      ((put wOne { e with emitted := true }).part 0).faults[0]? = some { e with emitted := true } ∧
      wOne.formed 0 = true ∧ wOne.epoch 0 < getBits (BitVec.ofNat 64 (2 ^ 33 + 1)) 63 32 ∧
      wOne.isMember 0 (getBits (BitVec.ofNat 64 (2 ^ 33 + 1)) 11 0) = true ∧ getBits (0 : Word) 63 32 ≤ wOne.epoch 0 ∧
      wOne.isMember 0 (getBits (BitVec.ofNat 64 (2 ^ 33 + 9)) 11 0) = false ∧ State.reset.formed 0 = false ∧
      getBits (0x4B4C : Word) 15 0 = 0x4B4C ∧ getBits (0 : Word) 15 0 ≠ 0x4B4C := by
  decide +kernel

theorem witness_RemoteRequestsRespectOwnership :
    let map (tag : Nat) : State :=
      let s := wImg []
      let s := s.setHbm { s.hbm with tags := [(7, tag)] }
      s.setPart 0 { s.part 0 with firing := some wStepEntry }
    (map 32768).wf = true ∧ (map 32768).variantOffset 0 (2 ^ 43) = none ∧ (map 32768).place 0 (2 ^ 43) = .hbm 458752 ∧
      tagAllows ((map 32768).hbm.tag (458752 / 65536)) 0 true = true ∧ (List.replicate 64 (1 : Byte)).length = 64 ∧
      (map 32768).accept wHdr = .ok 0 ∧ tagAllows ((map 0).hbm.tag (458752 / 65536)) 0 true = false ∧ (map 0).wf = true ∧
      (map 0).accept { wHdr with ptag := 9 } = .bad ∧
      (∀ c ∈ [Instr.rdReq 128 wHdr [], .wrReq 128 wHdr []], (match exec c (map 0) with | .next _ => true | _ => false) = true) := by
  decide +kernel

end Sys2Proof.Tests
end

section
/-! SUPPORT. The address map: no two registers occupy one address, every register is found at each of its indices, and
what an unlisted register reads as is the reset value of its row (R16, R25). -/

namespace Sys2Proof

/-- How far the repetitions reach whose stride is not a multiple of m. -/
def reachWithin (m : Nat) : List (Nat × Nat) → Nat
  | [] => 0
  | (st, c) :: t => (if m ∣ st then 0 else st * (c - 1)) + reachWithin m t

/-- An offset that repetitions spell is a multiple of m and a rest within their reach. -/
theorem locateDims_decompose (m : Nat) {l : List (Nat × Nat)} {d : Nat} {ix : List Nat} (h : locateDims l d = some ix) :
    ∃ k x, d = m * k + x ∧ x ≤ reachWithin m l := by
  induction l generalizing d ix with
  | nil =>
    have hd : d = 0 ∧ ix = [] := by simpa [locateDims] using h
    exact ⟨0, 0, by simpa using hd.1, Nat.le_refl 0⟩
  | cons e t ih =>
    obtain ⟨st, c⟩ := e
    simp only [locateDims] at h
    split at h
    case isFalse => exact absurd h (by simp)
    case isTrue hc =>
      obtain ⟨jx, hj, -⟩ := Option.map_eq_some_iff.1 h
      obtain ⟨k, x, hd, hx⟩ := ih hj
      have hdiv := Nat.div_add_mod d st
      simp only [reachWithin]
      by_cases hm : m ∣ st
      · obtain ⟨q, rfl⟩ := hm
        refine ⟨q * (d / (m * q)) + k, x, ?_, by simpa using hx⟩
        rw [Nat.mul_add, ← Nat.mul_assoc, Nat.add_assoc, ← hd, hdiv]
      · have room : st * (d / st) ≤ st * (c - 1) := Nat.mul_le_mul_left _ (by omega)
        exact ⟨k, st * (d / st) + x, by omega, by rw [if_neg hm]; omega⟩

/-- The last residue modulo m that an address of a register has. -/
def Rg.lastResidue (r : Rg) (m : Nat) : Nat := r.spec.addr % m + reachWithin m r.spec.dims

/-- The residue of each address of a register lies between those of its first and of its last one. -/
theorem Rg.locate_residue {r : Rg} {a m : Nat} {ix : List Nat} (h : r.locate a = some ix) (hm : r.lastResidue m < m) :
    r.spec.addr % m ≤ a % m ∧ a % m ≤ r.lastResidue m := by
  unfold Rg.locate at h
  unfold Rg.lastResidue at *
  split at h
  case isTrue => exact absurd h (by simp)
  case isFalse hlow =>
    obtain ⟨k, x, hd, hx⟩ := locateDims_decompose m h
    have ha : a = r.spec.addr + x + m * k := by omega
    have hmod : a % m = r.spec.addr % m + x := by
      rw [ha, Nat.add_mul_mod_self_left, Nat.add_mod, Nat.mod_eq_of_lt (a := x) (by omega), Nat.mod_eq_of_lt (by omega)]
    omega

/-- The addresses of two registers differ in their residues modulo one of the strides of the map, or modulo its size. -/
def Rg.apart (r q : Rg) : Bool :=
  [2 ^ 28, 2 ^ 20, 2 ^ 16, 2 ^ 12, 2 ^ 8, 2 ^ 7, 2 ^ 5].any (fun m =>
    decide (r.lastResidue m < m) && decide (q.lastResidue m < m) &&
      (decide (r.lastResidue m < q.spec.addr % m) || decide (q.lastResidue m < r.spec.addr % m)))

theorem Rg.mem_all (r : Rg) : r ∈ Rg.all := List.mem_of_getElem? (i := r.ctorIdx) (by cases r <;> rfl)

/-- The table of the map: each pair of its rows is apart. -/
theorem Rg.all_apart : Rg.all.Pairwise (fun r q => r.apart q = true) := by decide +kernel

theorem Rg.apart_symm {r q : Rg} (h : r.apart q = true) : q.apart r = true := by
  simp only [Rg.apart, List.any_eq_true, Bool.and_eq_true, Bool.or_eq_true] at h ⊢
  obtain ⟨m, hm, ⟨hr, hq⟩, hd⟩ := h
  exact ⟨m, hm, ⟨hq, hr⟩, hd.symm⟩

theorem Rg.apart_of_ne {r q : Rg} (h : r ≠ q) : r.apart q = true :=
  have : Std.Symm (fun r q : Rg => r.apart q = true) := ⟨fun _ _ => Rg.apart_symm⟩
  Rg.all_apart.forall r.mem_all q.mem_all h

/-- No two registers occupy one address. -/
theorem Rg.locate_unique {r q : Rg} {a : Nat} {ix jx : List Nat} (hr : r.locate a = some ix) (hq : q.locate a = some jx) :
    r = q := by
  by_contra hne
  have h := Rg.apart_of_ne hne
  simp only [Rg.apart, List.any_eq_true, Bool.and_eq_true, Bool.or_eq_true, decide_eq_true_eq] at h
  obtain ⟨m, -, ⟨hrm, hqm⟩, hd⟩ := h
  have := Rg.locate_residue hr hrm
  have := Rg.locate_residue hq hqm
  omega

theorem locateIn_some {l : List Rg} {a : Nat} {r : Rg} {ix : List Nat} (h : locateIn l a = some (r, ix)) :
    r.locate a = some ix := by
  induction l with
  | nil => exact absurd h (by simp [locateIn])
  | cons q l ih =>
    simp only [locateIn] at h
    split at h
    next jx hq =>
      obtain ⟨rfl, rfl⟩ := Prod.mk.inj (Option.some.inj h)
      exact hq
    next => exact ih h

theorem locateIn_of_locate {l : List Rg} {a : Nat} {r : Rg} {ix : List Nat} (hr : r ∈ l) (h : r.locate a = some ix) :
    locateIn l a = some (r, ix) := by
  induction l with
  | nil => exact absurd hr List.not_mem_nil
  | cons q l ih =>
    simp only [locateIn]
    split
    next jx hq =>
      obtain rfl := Rg.locate_unique h hq
      rw [Option.some.inj (h.symm.trans hq)]
    next hq => exact ih ((List.mem_cons.1 hr).resolve_left (fun e => by rw [e, hq] at h; exact absurd h (by simp)))

/-- The register at an address is the one that spells indices there. -/
theorem regAt_eq_some_iff {a : Nat} {r : Rg} {ix : List Nat} : regAt a = some (r, ix) ↔ r.locate a = some ix :=
  ⟨locateIn_some, locateIn_of_locate r.mem_all⟩

/-- A register without repetition has the empty list of indices. -/
theorem ix_nil_of_regAt {a : Nat} {r : Rg} {ix : List Nat} (h : regAt a = some (r, ix)) (hd : r.spec.dims = []) :
    ix = [] := by
  have hl := regAt_eq_some_iff.1 h
  simp only [Rg.locate, hd, locateDims] at hl
  split at hl
  · exact absurd hl (by simp)
  · split at hl
    · exact (Option.some.inj hl).symm
    · exact absurd hl (by simp)

/-! ### Reset values -/

theorem Rg.rst_zero_of_not_mem_withReset {r : Rg} (h : r ∉ Rg.withReset) : r.spec.rst = 0 :=
  (show ∀ q ∈ Rg.all, q ∉ Rg.withReset → q.spec.rst = 0 by decide +kernel) r r.mem_all h

/-- Among the registers with a reset value an assigned address finds its register, or none where its reset value is
zero. -/
theorem locateIn_withReset {a : Nat} {r : Rg} {ix : List Nat} (h : r.locate a = some ix) :
    locateIn Rg.withReset a = some (r, ix) ∨ locateIn Rg.withReset a = none ∧ r.spec.rst = 0 := by
  cases hl : locateIn Rg.withReset a with
  | some p =>
    obtain rfl := Rg.locate_unique h (locateIn_some hl)
    rw [Option.some.inj (h.symm.trans (locateIn_some hl))]
    exact .inl rfl
  | none =>
    refine .inr ⟨rfl, Rg.rst_zero_of_not_mem_withReset (fun hr => ?_)⟩
    rw [locateIn_of_locate hr h] at hl
    exact absurd hl (by simp)

/-- What an unlisted register reads as: the bits of its row's reset value that are not RWS. -/
theorem valReset_of_regAt {a : Nat} {r : Rg} {ix : List Nat} (h : regAt a = some (r, ix)) :
    valReset a = BitVec.ofNat 64 r.spec.rst &&& ~~~(BitVec.ofNat 64 r.spec.rws) := by
  unfold valReset
  rcases locateIn_withReset (regAt_eq_some_iff.1 h) with hl | ⟨hl, hz⟩
  · rw [hl]
  · rw [hl, hz]; simp

/-- What an unlisted copy of RWS fields reads as: the RWS bits of its row's reset value. -/
theorem rwsReset_of_regAt {a : Nat} {r : Rg} {ix : List Nat} (h : regAt a = some (r, ix)) :
    rwsReset a = BitVec.ofNat 64 r.spec.rst &&& BitVec.ofNat 64 r.spec.rws := by
  unfold rwsReset
  rcases locateIn_withReset (regAt_eq_some_iff.1 h) with hl | ⟨hl, hz⟩
  · rw [hl]
  · rw [hl, hz]; simp

/-! ### The place of every register -/

/-- Each index is below the count of its repetition. -/
def Rg.inRange (r : Rg) (ix : List Nat) : Prop := List.Forall₂ (fun d i => i < d.2) r.spec.dims ix

/-- Every repetition lies within one stride of the repetition around it, and none is empty. -/
def dimsNested : List (Nat × Nat) → Bool
  | [] => true
  | (st, c) :: t => decide (reachWithin 0 t < st) && decide (0 < c) && dimsNested t

/-- The table of the map: the repetitions of each row are nested. -/
theorem Rg.dims_nested (r : Rg) : dimsNested r.spec.dims = true :=
  (show ∀ q ∈ Rg.all, dimsNested q.spec.dims = true by decide +kernel) r r.mem_all

/-- The offset that indices stand for within their register. -/
def offsetOf (l : List (Nat × Nat)) (ix : List Nat) : Nat := (List.zipWith (fun d i => d.1 * i) l ix).sum

theorem Rg.at_eq (r : Rg) (ix : List Nat) : r.at ix = r.spec.addr + offsetOf r.spec.dims ix := by
  rw [Rg.at, offsetOf, List.sum_eq_foldl]

theorem offsetOf_le_reach {l : List (Nat × Nat)} {ix : List Nat} (n : dimsNested l = true)
    (h : List.Forall₂ (fun d i => i < d.2) l ix) : offsetOf l ix ≤ reachWithin 0 l := by
  induction h with
  | nil => exact Nat.le_refl 0
  | @cons d i t jx hi _ ih =>
    obtain ⟨st, c⟩ := d
    simp only [dimsNested, Bool.and_eq_true, decide_eq_true_eq] at n
    obtain ⟨⟨hst, -⟩, ht⟩ := n
    have hz : ¬ 0 ∣ st := fun e => by rw [Nat.zero_dvd] at e; omega
    have := Nat.mul_le_mul_left st (show i ≤ c - 1 by simp only at hi; omega)
    have := ih ht
    simp only [offsetOf, reachWithin, List.zipWith_cons_cons, List.sum_cons, if_neg hz] at *
    omega

theorem locateDims_offsetOf {l : List (Nat × Nat)} {ix : List Nat} (n : dimsNested l = true)
    (h : List.Forall₂ (fun d i => i < d.2) l ix) : locateDims l (offsetOf l ix) = some ix := by
  induction h with
  | nil => rfl
  | @cons d i t jx hi ht ih =>
    obtain ⟨st, c⟩ := d
    simp only [dimsNested, Bool.and_eq_true, decide_eq_true_eq] at n
    obtain ⟨⟨hst, -⟩, nt⟩ := n
    have room : offsetOf t jx < st := Nat.lt_of_le_of_lt (offsetOf_le_reach nt ht) hst
    have hoff : offsetOf ((st, c) :: t) (i :: jx) = st * i + offsetOf t jx := by simp [offsetOf]
    have hdiv : (st * i + offsetOf t jx) / st = i := by
      rw [Nat.mul_add_div (by omega), Nat.div_eq_of_lt room, Nat.add_zero]
    have hmod : (st * i + offsetOf t jx) % st = offsetOf t jx := by
      rw [Nat.mul_add_mod, Nat.mod_eq_of_lt room]
    rw [hoff, locateDims, hdiv, hmod, if_pos hi, ih nt]
    rfl

/-- Every register stands in the map at each of its indices. -/
theorem Rg.regAt_at {r : Rg} {ix : List Nat} (h : r.inRange ix) : regAt (r.at ix) = some (r, ix) := by
  rw [regAt_eq_some_iff, Rg.at_eq, Rg.locate, if_neg (by omega), Nat.add_sub_cancel_left,
    locateDims_offsetOf r.dims_nested h]

theorem count_pos_of_dimsNested {l : List (Nat × Nat)} (n : dimsNested l = true) : ∀ d ∈ l, 0 < d.2 := by
  induction l with
  | nil => simp
  | cons e t ih =>
    simp only [dimsNested, Bool.and_eq_true, decide_eq_true_eq] at n
    obtain ⟨⟨-, hc⟩, nt⟩ := n
    exact List.forall_mem_cons.2 ⟨hc, ih nt⟩

theorem Rg.count_pos {r : Rg} {d : Nat × Nat} (h : d ∈ r.spec.dims) : 0 < d.2 :=
  count_pos_of_dimsNested r.dims_nested d h

/-- One index of each repetition, all below their counts, by a rule. -/
theorem Rg.inRange_map {r : Rg} {f : Nat × Nat → Nat} (h : ∀ d ∈ r.spec.dims, f d < d.2) :
    r.inRange (r.spec.dims.map f) := by
  rw [Rg.inRange, List.forall₂_map_right_iff, List.forall₂_same]
  exact h

end Sys2Proof
end

section
/-! SUPPORT. The state after reset. -/

namespace Sys2Proof.Machine

/-- Settles O4: an unlisted register reads as the reset value of its row, as each address belongs to one register. -/
theorem resetState : Obligations.ResetState := by
  unfold Obligations.ResetState
  refine ⟨rfl, rfl, rfl, rfl, fun r ix h => ?_, fun r => ⟨?_, ?_⟩⟩
  · have hv : State.reset.rv r ix = _ := valReset_of_regAt h
    have hs : State.reset.rs r ix = _ := rwsReset_of_regAt h
    refine ⟨hv, hs, rfl, rfl, fun hz => ?_⟩
    rw [hv, hs, hz]
    simp
  · exact Rg.regAt_at (Rg.inRange_map fun d hd => Rg.count_pos hd)
  · exact Rg.regAt_at (Rg.inRange_map fun d hd => Nat.sub_one_lt_of_lt (Rg.count_pos hd))

end Sys2Proof.Machine
end

section
/-! SUPPORT. What a write of BAR0 does (R11 to R15, R26, R27), case by case, and what the plain effect of a register write
changes and leaves. -/

namespace Sys2Proof.Machine

theorem exec_registerWrite (s : State) (a width : Nat) (w : Word) (b : Option (List Byte)) :
    exec (.registerWrite a width w b) s = .next (s.writeReg a width w b) := rfl

/-! ### The cases of a write of BAR0 -/

theorem State.writeReg_of_misaligned {s : State} {a width : Nat} (h : accessOk a width = false) (w : Word)
    (b : Option (List Byte)) : s.writeReg a width w b = s := if_pos h

theorem State.writeReg_of_missed {s : State} {a width d : Nat} (h : accessOk a width = true) (hd : s.missed a = some d)
    (w : Word) (b : Option (List Byte)) : s.writeReg a width w b = s.noteMiss a d := by
  rw [State.writeReg, h, hd]
  rfl

theorem State.writeReg_of_unreached {s : State} {a : Nat} (hm : s.missed a = none)
    (hc : s.groupClosed a = true ∨ regAt (a / 8 * 8) = none) (width : Nat) (w : Word) (b : Option (List Byte)) :
    s.writeReg a width w b = s := by
  rw [State.writeReg, hm]
  rcases hc with hc | hc <;> simp [hc]

/-- The bits of the register that an access reaches (R11). -/
def accessMask (a width : Nat) : Word := if width = 64 then BitVec.allOnes 64 else (0xFFFFFFFF : Word) <<< (8 * (a % 8))

/-- The written value, at the place of the bits that the access reaches (R11). -/
def accessValue (a width : Nat) (w : Word) : Word := if width = 64 then w else (w &&& 0xFFFFFFFF) <<< (8 * (a % 8))

/-- A write that reaches a register acts on it under its mask. -/
theorem State.writeReg_of_assigned {s : State} {a width : Nat} {r : Rg} {ix : List Nat} (h : accessOk a width = true)
    (hm : s.missed a = none) (hc : s.groupClosed a = false) (hr : regAt (a / 8 * 8) = some (r, ix)) (w : Word)
    (b : Option (List Byte)) :
    s.writeReg a width w b = s.writeAt r ix (accessValue a width w) (accessMask a width) b := by
  rw [State.writeReg, h, hm]
  simp only [hc, hr, accessValue, accessMask]
  by_cases hw : width = 64 <;> simp [hw]

/-- An access of half a register never reaches all of its bits. -/
theorem accessMask_half_ne (a : Nat) : accessMask a 32 ≠ BitVec.allOnes 64 :=
  (show ∀ k < 8, (0xFFFFFFFF : Word) <<< (8 * k) ≠ BitVec.allOnes 64 by decide) (a % 8) (Nat.mod_lt a (by decide))

theorem State.writeAt_wo_half {s : State} {r : Rg} (hw : r.spec.wo = true) (ix : List Nat) (v : Word) (a : Nat)
    (b : Option (List Byte)) : s.writeAt r ix v (accessMask a 32) b = s := by
  rw [State.writeAt, if_pos hw, if_neg (accessMask_half_ne a)]

theorem State.writeAt_siteWithoutMu {s : State} {ix : List Nat} (h : isMu (ix.getD 0 0) = false) (v m : Word)
    (b : Option (List Byte)) : s.writeAt .siteMuBankOwn ix v m b = s := by
  rw [State.writeAt, if_neg (by decide), if_pos ⟨rfl, h⟩]

theorem State.writeAt_plain {s : State} {r : Rg} {ix : List Nat} (hw : r.spec.wo = false)
    (hmu : r = .siteMuBankOwn → isMu (ix.getD 0 0) = true) (v m : Word) (b : Option (List Byte)) :
    s.writeAt r ix v m b = (s.writePlain r ix v m).afterWrite r ix s := by
  rw [State.writeAt, if_neg (by simp [hw]), if_neg]
  rintro ⟨hr, hn⟩
  exact absurd ((hmu hr).symm.trans hn) (by decide)

/-! ### The plain effect -/

theorem State.wf_stg {s : State} (h : s.wf = true) : tabSorted s.regs.stg = true := by
  simp only [State.wf, Regs.wf, Bool.and_eq_true] at h
  obtain ⟨-, ⟨-, hstg⟩, -⟩ := h
  exact tabWf.sorted hstg

theorem State.rs_sets_same {s : State} (h : s.wf = true) (r : Rg) (ix : List Nat) (w : Word) :
    (s.sets r ix w).rs r ix = w := tabGet_tabSet_same _ _ _ _ (State.wf_stg h)

theorem State.rs_sets_ne (s : State) {r q : Rg} {ix jx : List Nat} (w : Word) (h : q.at jx ≠ r.at ix) :
    (s.sets r ix w).rs q jx = s.rs q jx := tabGet_tabSet_ne _ _ _ h

@[simp] theorem State.rv_sets (s : State) (r q : Rg) (ix jx : List Nat) (w : Word) :
    (s.sets r ix w).rv q jx = s.rv q jx := rfl

/-- The stored word after a write under a mask: RW bits take the value, a 1 clears a W1C bit (R12, R14). -/
def writtenWord (r : Rg) (x v m : Word) : Word :=
  ((x &&& ~~~(BitVec.ofNat 64 r.spec.rw &&& m)) ||| (v &&& (BitVec.ofNat 64 r.spec.rw &&& m))) &&&
    ~~~(BitVec.ofNat 64 r.spec.w1c &&& m &&& v)

/-- The staged copy after a write under a mask (R15). -/
def writtenStaged (r : Rg) (x v m : Word) : Word := (x &&& ~~~(stagedMask r &&& m)) ||| (v &&& (stagedMask r &&& m))

/-- What a host write of a register makes of the copies: the stored word is x, the staged copy takes the value v under the
mask m where the register has RWS bits, and every other register and the active and the pending copies stand. -/
structure State.Written (s t : State) (r : Rg) (ix : List Nat) (x v m : Word) : Prop where
  act : t.regs.act = s.regs.act
  pnd : t.regs.pnd = s.regs.pnd
  word : t.rv r ix = x
  staged : r.spec.rws ≠ 0 → r.spec.rws < 2 ^ 64 → t.rs r ix = writtenStaged r (s.rs r ix) v m
  others : ∀ q jx, q.at jx ≠ r.at ix → t.rv q jx = s.rv q jx ∧ t.rs q jx = s.rs q jx

theorem State.writePlain_eq (s : State) (r : Rg) (ix : List Nat) (v m : Word) :
    s.writePlain r ix v m =
      if BitVec.ofNat 64 r.spec.rws = 0 then s.setv r ix (writtenWord r (s.rv r ix) v m)
      else (s.setv r ix (writtenWord r (s.rv r ix) v m)).sets r ix (writtenStaged r (s.rs r ix) v m) := rfl

/-- The plain effect changes registers only. -/
theorem State.writePlain_setRegs (s : State) (r : Rg) (ix : List Nat) (v m : Word) :
    s.writePlain r ix v m = s.setRegs (s.writePlain r ix v m).regs := by
  rw [State.writePlain_eq]
  split <;> rfl

theorem State.writePlain_written {s : State} (h : s.wf = true) (r : Rg) (ix : List Nat) (v m : Word) :
    s.Written (s.writePlain r ix v m) r ix (writtenWord r (s.rv r ix) v m) v m := by
  rw [State.writePlain_eq]
  split
  next hz =>
    refine ⟨rfl, rfl, State.rv_setv_same h r ix _, fun hne hlt => ?_, fun q jx hq => ⟨State.rv_setv_ne s _ hq, rfl⟩⟩
    have hn := congrArg BitVec.toNat hz
    rw [BitVec.toNat_ofNat, Nat.mod_eq_of_lt hlt] at hn
    exact absurd hn hne
  next =>
    refine ⟨rfl, rfl, State.rv_setv_same h r ix _, fun _ _ => ?_, fun q jx hq => ⟨State.rv_setv_ne s _ hq, ?_⟩⟩
    · exact State.rs_sets_same (State.setv_wf h r ix _) r ix _
    · exact State.rs_sets_ne _ _ hq

theorem State.writePlain_wf {s : State} (h : s.wf = true) (r : Rg) (ix : List Nat) (v m : Word) :
    (s.writePlain r ix v m).wf = true := (State.writePlain_keeps (Keeps.refl s) r ix v m).wf h

/-- A field of the written register that the module sets afterwards. -/
theorem State.Written.setf {s t : State} {f : Fld} {ix : List Nat} {x v m : Word} (h : s.Written t f.reg ix x v m)
    (wf : t.wf = true) (n : Nat) : s.Written (t.setf f ix n) f.reg ix (f.put x n) v m where
  act := h.act
  pnd := h.pnd
  word := by rw [State.setf, State.rv_setv_same wf, h.word]
  staged := h.staged
  others q jx hq := ⟨(State.rv_setv_ne t _ hq).trans (h.others q jx hq).1, (h.others q jx hq).2⟩

/-- A field that is set leaves a change of registers only. -/
theorem State.setf_setRegs {s t : State} (h : t = s.setRegs t.regs) (f : Fld) (ix : List Nat) (n : Nat) :
    t.setf f ix n = s.setRegs (t.setf f ix n).regs := by
  obtain ⟨x, rfl⟩ : ∃ x, t = s.setRegs x := ⟨_, h⟩
  rfl

/-- Only the copies of the registers matter. -/
theorem State.Written.of_regs {s t u : State} {r : Rg} {ix : List Nat} {x v m : Word} (h : s.Written t r ix x v m)
    (e : u.regs = t.regs) : s.Written u r ix x v m where
  act := by rw [e, h.act]
  pnd := by rw [e, h.pnd]
  word := by rw [State.rv, e]; exact h.word
  staged := by rw [State.rs, e]; exact h.staged
  others := by simp only [State.rv, State.rs, e]; exact h.others

/-! ### What follows a write -/

theorem State.afterWrite_of_no_effect {r : Rg}
    (h : r ∉ [Rg.timeSnapAt, .serveSeqSel, .hbmTagSel, .bboxRdSel, .partDbgAddr, .hubDomainMiss, .hubAlert])
    (t : State) (ix : List Nat) (before : State) :
    t.afterWrite r ix before = if r ∈ [Rg.timeTraceBase, .timeTraceCtl] then t.traceWrite (ix.getD 0 0) else t := by
  unfold State.afterWrite
  split <;> simp_all

/-- A write without an effect of its own changes the register's copies and the note of the trace fields only (R67). -/
theorem State.afterWrite_plain (s : State) {r : Rg}
    (h : r ∉ [Rg.timeSnapAt, .serveSeqSel, .hbmTagSel, .bboxRdSel, .partDbgAddr, .hubDomainMiss, .hubAlert])
    (ix : List Nat) (v m : Word) :
    (s.writePlain r ix v m).afterWrite r ix s =
      (if r ∈ [Rg.timeTraceBase, .timeTraceCtl] then s.traceWrite (ix.getD 0 0) else s).setRegs
        (s.writePlain r ix v m).regs := by
  rw [State.afterWrite_of_no_effect h, State.writePlain_setRegs]
  split <;> rfl

/-- DOMAIN_MISS: COUNT goes with VALID (R27). -/
theorem State.afterWrite_domainMiss {s : State} (h : s.wf = true) (v m : Word) :
    let t := (s.writePlain .hubDomainMiss [] v m).afterWrite .hubDomainMiss [] s
    let x := writtenWord .hubDomainMiss (s.rv .hubDomainMiss []) v m
    t = s.setRegs t.regs ∧ s.Written t .hubDomainMiss []
      (if Fld.hubDomainMissValid.get x = 0 then Fld.hubDomainMissCount.put x 0 else x) v m := by
  intro t x
  have hp := State.writePlain_written h .hubDomainMiss [] v m
  have hvalid : (s.writePlain .hubDomainMiss [] v m).fv .hubDomainMissValid [] = Fld.hubDomainMissValid.get x :=
    congrArg Fld.hubDomainMissValid.get hp.word
  have ht : t = if Fld.hubDomainMissValid.get x = 0 then (s.writePlain .hubDomainMiss [] v m).setf .hubDomainMissCount [] 0
      else s.writePlain .hubDomainMiss [] v m := by rw [← hvalid]; rfl
  rw [ht]
  split
  · exact ⟨State.setf_setRegs (State.writePlain_setRegs s .hubDomainMiss [] v m) .hubDomainMissCount [] 0,
      hp.setf (f := .hubDomainMissCount) (State.writePlain_wf h _ _ _ _) 0⟩
  · exact ⟨State.writePlain_setRegs s .hubDomainMiss [] v m, hp⟩

/-- ALERT: the in-band interrupt where the write lets ALERT_N assert (R567, R582). -/
theorem State.afterWrite_alert {s : State} (h : s.wf = true) (v m : Word) :
    let t := (s.writePlain .hubAlert [] v m).afterWrite .hubAlert [] s
    t = (if (t.alertAsserted && !s.alertAsserted) = true then s.emit (.ibi 1) else s).setRegs t.regs ∧
      s.Written t .hubAlert [] (writtenWord .hubAlert (s.rv .hubAlert []) v m) v m := by
  intro t
  have hp := State.writePlain_written h .hubAlert [] v m
  have hs := State.writePlain_setRegs s .hubAlert [] v m
  have ht : t = if ((s.writePlain .hubAlert [] v m).alertAsserted && !s.alertAsserted) = true
      then (s.writePlain .hubAlert [] v m).emit (.ibi 1) else s.writePlain .hubAlert [] v m := rfl
  rw [ht]
  split
  next hi =>
    refine ⟨?_, hp.of_regs rfl⟩
    rw [if_pos (by exact hi)]
    exact congrArg (·.emit (.ibi 1)) hs
  next => exact ⟨hs, hp⟩

/-! ### Register writes -/

/-- Settles O9: each kind of register by the lemma of what follows its write. -/
theorem registerWriteStagesRwsFields : Obligations.RegisterWriteStagesRwsFields := by
  unfold Obligations.RegisterWriteStagesRwsFields
  intro s a width w b r ix wf hok hm hc hr hwo m v rw stg new written
  have run : exec (.registerWrite a width w b) s = .next (s.writeAt r ix v m b) :=
    congrArg _ (State.writeReg_of_assigned hok hm hc hr w b)
  have plain (hmu : r = .siteMuBankOwn → isMu (ix.getD 0 0) = true) :
      exec (.registerWrite a width w b) s = .next ((s.writePlain r ix v m).afterWrite r ix s) := by
    rw [run, State.writeAt_plain hwo hmu]
  have spell {t : State} {x : Word} (h : s.Written t r ix x v m) : written t x :=
    ⟨h.act, h.pnd, h.word, h.staged, h.others⟩
  refine ⟨fun hrg hmu => ?_, fun hno hmu => ?_, fun hrg => ?_, fun hrg => ?_⟩
  · subst hrg
    rw [run, State.writeAt_siteWithoutMu hmu]
  · refine ⟨_, (plain hmu).trans (congrArg _ (State.afterWrite_plain s hno ix v m)), rfl, spell ?_⟩
    exact (State.writePlain_written wf r ix v m).of_regs rfl
  · subst hrg
    obtain rfl := ix_nil_of_regAt hr rfl
    obtain ⟨hregs, hw⟩ := State.afterWrite_domainMiss wf v m
    exact ⟨_, plain (fun e => nomatch e), hregs, spell hw⟩
  · subst hrg
    obtain rfl := ix_nil_of_regAt hr rfl
    obtain ⟨hregs, hw⟩ := State.afterWrite_alert wf v m
    exact ⟨_, plain (fun e => nomatch e), hregs, spell hw⟩

/-! ### Misses -/

theorem State.noteMiss_onlyRegs (s : State) (a d : Nat) : s.onlyRegs (s.noteMiss a d) [(.hubDomainMiss, [])] := by
  unfold State.noteMiss
  split
  · exact State.onlyRegs_setf s .hubDomainMissCount [] _
  · exact State.onlyRegs_setv s .hubDomainMiss [] _

/-- The word that the first miss stores in DOMAIN_MISS: VALID, DOMAIN, a COUNT of one, and ADDR (R27). -/
theorem State.noteMiss_first {s : State} (h : s.wf = true) (hv : s.fv .hubDomainMissValid [] = 0) (a d : Nat) :
    (s.noteMiss a d).rv .hubDomainMiss [] = BitVec.ofNat 64 (2 ^ 63 + d % 256 * 2 ^ 48 + 2 ^ 32 + a % 2 ^ 28) := by
  rw [State.noteMiss, if_neg (by rw [hv]; decide), State.rv_setv_same h]

theorem State.noteMiss_first_fields {s : State} (h : s.wf = true) (hv : s.fv .hubDomainMissValid [] = 0) {a d : Nat}
    (ha : a < 2 ^ 28) (hd : d < 2 ^ 8) :
    (s.noteMiss a d).fv .hubDomainMissValid [] = 1 ∧ (s.noteMiss a d).fv .hubDomainMissDomain [] = d ∧
      (s.noteMiss a d).fv .hubDomainMissCount [] = 1 ∧ (s.noteMiss a d).fv .hubDomainMissAddr [] = a := by
  simp only [State.fv, State.noteMiss_first h hv, Fld.get, getBits_ofNat, Nat.reduceLT]
  omega

/-- Settles O10: the cases of State.writeReg that reach no register. -/
theorem registerAccessesWithoutEffect : Obligations.RegisterAccessesWithoutEffect := by
  unfold Obligations.RegisterAccessesWithoutEffect
  intro s a width w b
  refine ⟨fun hok => ?_, fun hok d hd => ⟨?_, s.noteMiss_onlyRegs a d, fun wf hv ha hb => ?_⟩, fun _ hm hc => ?_⟩
  · rw [exec_registerWrite, State.writeReg_of_misaligned hok]
  · rw [exec_registerWrite, State.writeReg_of_missed hok hd]
  · exact State.noteMiss_first_fields wf hv ha hb
  · rw [exec_registerWrite, State.writeReg_of_unreached hm hc]

/-- Settles O11: half a register is never the whole mask that a WO register asks for. -/
theorem woRegistersTakeWholeValues : Obligations.WoRegistersTakeWholeValues := by
  unfold Obligations.WoRegistersTakeWholeValues
  intro s a w b r ix hm hr hwo
  rw [exec_registerWrite]
  cases hok : accessOk a 32 with
  | false => rw [State.writeReg_of_misaligned hok]
  | true =>
    cases hc : s.groupClosed a with
    | true => rw [State.writeReg_of_unreached hm (.inl hc)]
    | false => rw [State.writeReg_of_assigned hok hm hc hr, State.writeAt_wo_half hwo]

/-! ### Management's access -/

theorem exec_regRead (s : State) (ep off : Nat) : exec (.regRead ep off) s = execRegRead ep off s := rfl

theorem exec_regWrite (s : State) (ep off : Nat) (v : Word) (b : Option (List Byte)) :
    exec (.regWrite ep off v b) s = execRegWrite ep off v b s := rfl

theorem execRegWrite_permitted {s : State} {off : Nat} (hup : s.mgmtUp = true) (hb : vendorBlock off = true) (ep : Nat)
    (v : Word) (b : Option (List Byte)) :
    execRegWrite ep off v b s = .next ((s.writeReg off 64 v b).vendorRsp ep 0x21 0 []) := by
  rw [execRegWrite, if_neg (by simp [hup]), if_neg (by simp [hb])]

theorem aligned_of_accessOk {a : Nat} (h : accessOk a 64 = true) : a / 8 * 8 = a := by
  simp only [accessOk, Bool.and_eq_true, Bool.or_eq_true, beq_iff_eq, decide_eq_true_eq] at h
  omega

/-- Settles O12: REG_WRITE is the 64-bit host write of O9 with an answer. -/
theorem vendorRegisterAccess : Obligations.VendorRegisterAccess := by
  unfold Obligations.VendorRegisterAccess
  intro s ep off v b r ix rw new
  refine ⟨fun hup => ⟨?_, ?_⟩, fun hup hb => ⟨?_, ?_⟩, fun hup hb => ⟨?_, ⟨_, rfl, ?_⟩, ?_⟩⟩
  · rw [exec_regRead, execRegRead, if_pos hup]
  · rw [exec_regWrite, execRegWrite, if_pos hup]
  · rw [exec_regRead, execRegRead, if_neg (by simp [hup]), if_pos hb]
  · rw [exec_regWrite, execRegWrite, if_neg (by simp [hup]), if_pos hb]
  · rw [exec_regRead, execRegRead, if_neg (by simp [hup]), if_neg (by simp [hb])]
  · rw [exec_regWrite, execRegWrite_permitted hup hb]
  · intro wf hok hm hc hr hwo hno
    simp only [List.mem_cons, List.not_mem_nil, or_false, not_or] at hno
    obtain ⟨hmu, hsnap, hbase, hctl, hseq, htag, hrd, hdbg, hmiss, halert⟩ := hno
    obtain ⟨-, hplain, -, -⟩ := registerWriteStagesRwsFields s off 64 v b r ix wf hok hm hc
      ((aligned_of_accessOk hok).symm ▸ hr) hwo
    obtain ⟨t, ht, hregs, hact, hpnd, hword, hstaged, hothers⟩ :=
      hplain (by simp [hsnap, hseq, htag, hrd, hdbg, hmiss, halert]) (fun e => absurd e hmu)
    rw [exec_registerWrite] at ht
    simp only [if_pos, BitVec.and_allOnes] at hword hstaged
    refine ⟨t, ?_, by simpa [hbase, hctl] using hregs, hact, hpnd, hword, hstaged, hothers⟩
    rw [exec_regWrite, execRegWrite_permitted hup hb, Host.Outcome.next.inj ht]

end Sys2Proof.Machine
end

section
/-! SUPPORT. The commit machinery of a block (R33 to R40): where a block's COMMIT_STATUS lies, what the start, the discard,
the abandonment and the boundary of a commit change, and what they leave. -/

namespace Sys2Proof

/-- Indices that an offset spells stand for that offset. -/
theorem offsetOf_of_locateDims {l : List (Nat × Nat)} {d : Nat} {ix : List Nat} (h : locateDims l d = some ix) :
    offsetOf l ix = d := by
  induction l generalizing d ix with
  | nil =>
    simp only [locateDims, Option.ite_none_right_eq_some, Option.some.injEq] at h
    obtain ⟨rfl, rfl⟩ := h
    rfl
  | cons e t ih =>
    simp only [locateDims, Option.ite_none_right_eq_some, Option.map_eq_some_iff] at h
    obtain ⟨-, jx, hj, rfl⟩ := h
    have hsum : offsetOf (e :: t) (d / e.1 :: jx) = e.1 * (d / e.1) + offsetOf t jx := by simp [offsetOf]
    rw [hsum, ih hj, Nat.div_add_mod]

/-- The register that stands at an address has that address at its indices there. -/
theorem at_of_regAt {a : Nat} {r : Rg} {ix : List Nat} (h : regAt a = some (r, ix)) : r.at ix = a := by
  have hl := regAt_eq_some_iff.1 h
  simp only [Rg.locate, Option.ite_none_left_eq_some] at hl
  obtain ⟨hlow, hd⟩ := hl
  rw [Rg.at_eq, offsetOf_of_locateDims hd]
  omega

namespace Machine

/-! ### The place of a block -/

/-- A block stands where its COMMIT_STATUS does, which is not the black box's LOST. -/
theorem regAt_of_blockAt {base : Nat} {r : Rg} {ix : List Nat} (h : blockAt base = some (r, ix)) :
    regAt (base + 0xFF8) = some (r, ix) ∧ r ≠ .bboxLost := by
  unfold blockAt at h
  split at h
  next q jx hq =>
    obtain ⟨hmem, he⟩ := Option.ite_none_right_eq_some.1 h
    obtain ⟨rfl, rfl⟩ := Prod.mk.inj (Option.some.inj he)
    exact ⟨hq, fun hl => absurd (hl ▸ hmem) (by decide)⟩
  next => exact absurd h (by simp)

theorem at_ne_lost_of_blockAt {base : Nat} {r : Rg} {ix : List Nat} (h : blockAt base = some (r, ix)) :
    r.at ix ≠ Rg.at .bboxLost [] := by
  intro e
  obtain ⟨hr, hne⟩ := regAt_of_blockAt h
  have hlost : regAt (Rg.at .bboxLost []) = some (.bboxLost, []) := Rg.regAt_at List.Forall₂.nil
  rw [← at_of_regAt hr, e, hlost] at hr
  exact hne (Prod.mk.inj (Option.some.inj hr)).1.symm

theorem ix_nil_of_blockAt {base : Nat} {r : Rg} {ix : List Nat} (h : blockAt base = some (r, ix)) (hd : r.spec.dims = []) :
    ix = [] := ix_nil_of_regAt (regAt_of_blockAt h).1 hd

/-! ### The end of a commit -/

/-- A record of class 0 makes no fault report. -/
theorem State.bbWrite_class_zero (s : State) (p : Option Nat) (typ payload : Nat) :
    s.bbWrite p typ 0 payload = s.bbPut p typ 0 payload := by
  cases p <;> rfl

/-- The stored word of COMMIT_STATUS after the end of a commit (R34). -/
def endedWord (w : Word) (result check : Nat) : Word := putBits (putBits (putBits w 47 32 check) 10 8 result) 0 0 1

/-- What a state keeps of another and what may differ in it, where one register is written and a record may be put in the
black box: that register's word, LOST of the black box, and the black box. -/
structure State.Recorded (s t : State) (r : Rg) (ix : List Nat) (w : Word) : Prop where
  word : t.rv r ix = w
  act : t.regs.act = s.regs.act
  stg : t.regs.stg = s.regs.stg
  pnd : t.regs.pnd = s.regs.pnd
  others : ∀ q jx, q.at jx ≠ r.at ix → q.at jx ≠ Rg.at .bboxLost [] → t.rv q jx = s.rv q jx
  rest : t = (s.setRegs t.regs).setBBox t.bbox

theorem State.setv_recorded {s : State} (h : s.wf = true) (r : Rg) (ix : List Nat) (w : Word) :
    s.Recorded (s.setv r ix w) r ix w where
  word := State.rv_setv_same h r ix w
  act := rfl
  stg := rfl
  pnd := rfl
  others _ _ hq _ := State.rv_setv_ne s w hq
  rest := rfl

/-- A record of the black box, kept or lost, touches no other register than LOST. -/
theorem State.Recorded.bbPut {s t : State} {r : Rg} {ix : List Nat} {w : Word} (h : s.Recorded t r ix w)
    (hlost : r.at ix ≠ Rg.at .bboxLost []) (p : Option Nat) (typ cls payload : Nat) :
    s.Recorded (t.bbPut p typ cls payload) r ix w := by
  unfold State.bbPut
  obtain ⟨x, y, rfl⟩ : ∃ x y, t = (s.setRegs x).setBBox y := ⟨_, _, h.rest⟩
  split
  · exact ⟨h.word, h.act, h.stg, h.pnd, h.others, rfl⟩
  · refine ⟨?_, h.act, h.stg, h.pnd, fun q jx hq hl => ?_, rfl⟩
    · exact (State.rv_setv_ne _ _ hlost).trans h.word
    · exact (State.rv_setv_ne _ _ hl).trans (h.others q jx hq hl)

/-- The end of a commit writes COMMIT_STATUS of its block, and a record for every block but SITE (R34, R553). -/
theorem State.commitEnd_recorded {s : State} (h : s.wf = true) {base : Nat} {r : Rg} {ix : List Nat}
    (hb : blockAt base = some (r, ix)) (result check : Nat) :
    s.Recorded (s.commitEnd r ix result check) r ix (endedWord (s.rv r ix) result check) := by
  have hset := State.setv_recorded h r ix (endedWord (s.rv r ix) result check)
  unfold State.commitEnd
  split
  · exact hset
  · rw [State.bbWrite_class_zero]
    exact hset.bbPut (at_ne_lost_of_blockAt hb) _ _ _ _

theorem getBits_endedWord_result (w : Word) (result check : Nat) :
    getBits (endedWord w result check) 10 8 = result % 8 := by
  rw [endedWord, getBits_putBits_disjoint _ _ _ _ _ _ (by decide) (by decide) (by decide)]
  exact getBits_putBits_same _ _ _ _ (by decide) (by decide)

theorem getBits_endedWord_done (w : Word) (result check : Nat) : getBits (endedWord w result check) 0 0 = 1 :=
  getBits_putBits_same _ _ _ _ (by decide) (by decide)

theorem getBits_endedWord_check (w : Word) (result check : Nat) :
    getBits (endedWord w result check) 47 32 = check % 2 ^ 16 := by
  rw [endedWord, getBits_putBits_disjoint _ _ _ _ _ _ (by decide) (by decide) (by decide),
    getBits_putBits_disjoint _ _ _ _ _ _ (by decide) (by decide) (by decide),
    getBits_putBits_same _ _ _ _ (by decide) (by decide)]

/-! ### The start of a commit -/

theorem State.carryTrace_setRegs (s : State) (x : Regs) : (s.setRegs x).carryTrace = s.carryTrace.setRegs x := by
  unfold State.carryTrace
  refine List.foldl_hom (State.setRegs · x) (fun t p => ?_)
  change (if (t.part p).traceSet then _ else _) = State.setRegs (if (t.part p).traceSet then _ else _) x
  split <;> rfl

/-- The stored word of COMMIT_STATUS after a COMMIT write that is accepted (R33). -/
def startedWord (w : Word) (token : Nat) : Word := putBits (putBits (putBits w 47 32 0) 31 16 token) 10 8 1

/-- The registers after an accepted COMMIT write: the staged copy of the block stands in the pending one, and COMMIT_STATUS
shows the commit (R33). -/
def State.startedRegs (s : State) (r : Rg) (ix : List Nat) (token : Nat) : Regs :=
  { (s.setv r ix (startedWord (s.rv r ix) token)).regs with
    pnd := tabReplace s.regs.pnd s.regs.stg (blkBase r ix) (blkEnd r ix) }

theorem State.commitGo_of_pending {s : State} {r : Rg} {ix : List Nat} (h : s.commitPending r ix = true) (token : Nat) :
    s.commitGo r ix token = s.setv r ix (putBits (s.rv r ix) 1 1 1) := if_pos h

/-- An accepted COMMIT write changes registers, and for TIME the note of the trace fields written (R67). -/
theorem State.commitGo_of_idle {s : State} {r : Rg} {ix : List Nat} (h : s.commitPending r ix = false) (token : Nat) :
    s.commitGo r ix token =
      (if r = .timeCommitStatus then s.carryTrace else s).setRegs (s.startedRegs r ix token) := by
  rw [State.commitGo, if_neg (by simp [h])]
  split
  · exact State.carryTrace_setRegs s (s.startedRegs r ix token)
  · rfl

theorem getBits_startedWord_result (w : Word) (token : Nat) : getBits (startedWord w token) 10 8 = 1 :=
  getBits_putBits_same _ _ _ _ (by decide) (by decide)

theorem getBits_startedWord_token (w : Word) (token : Nat) : getBits (startedWord w token) 31 16 = token % 2 ^ 16 := by
  rw [startedWord, getBits_putBits_disjoint _ _ _ _ _ _ (by decide) (by decide) (by decide)]
  exact getBits_putBits_same _ _ _ _ (by decide) (by decide)

theorem blkBase_le_blkEnd (r : Rg) (ix : List Nat) : blkBase r ix ≤ blkEnd r ix := Nat.le_add_right _ _

/-! ### The commands -/

theorem exec_commitGo (s : State) (base token : Nat) : exec (.commitGo base token) s = execCommitGo base token s := rfl

theorem exec_commitCancel (s : State) (base : Nat) : exec (.commitCancel base) s = execCommitCancel base s := rfl

theorem exec_commitBoundary (s : State) (base : Nat) : exec (.commitBoundary base) s = execCommitBoundary base s := rfl

theorem exec_commitGo_of_powered {s : State} {base : Nat} {r : Rg} {ix : List Nat} (hb : blockAt base = some (r, ix))
    (hm : s.missed base = none) (token : Nat) : exec (.commitGo base token) s = .next (s.commitGo r ix token) := by
  rw [exec_commitGo]
  unfold execCommitGo
  rw [hb, hm]

theorem exec_commitCancel_of_powered {s : State} {base : Nat} {r : Rg} {ix : List Nat} (hb : blockAt base = some (r, ix))
    (hm : s.missed base = none) : exec (.commitCancel base) s = .next (s.commitCancel r ix) := by
  rw [exec_commitCancel]
  unfold execCommitCancel
  rw [hb, hm]

/-- A COMMIT write to a block without power is a missed access (R27). -/
theorem exec_commit_of_missed {s : State} {base d : Nat} {x : Rg × List Nat} (hb : blockAt base = some x)
    (hm : s.missed base = some d) (token : Nat) :
    exec (.commitGo base token) s = .next (s.noteMiss (base + 0xFF0) d) ∧
      exec (.commitCancel base) s = .next (s.noteMiss (base + 0xFF0) d) := by
  rw [exec_commitGo, exec_commitCancel]
  unfold execCommitGo execCommitCancel
  rw [hb, hm]
  exact ⟨rfl, rfl⟩

theorem exec_commit_of_no_block {base : Nat} (hb : blockAt base = none) (s : State) (token : Nat) :
    exec (.commitGo base token) s = .next s ∧ exec (.commitCancel base) s = .next s := by
  rw [exec_commitGo, exec_commitCancel]
  unfold execCommitGo execCommitCancel
  rw [hb]
  exact ⟨rfl, rfl⟩

theorem State.commitCancel_of_pending {s : State} {r : Rg} {ix : List Nat} (h : s.commitPending r ix = true) :
    s.commitCancel r ix = s.commitEnd r ix 4 0 := if_pos h

theorem State.commitCancel_of_idle {s : State} {r : Rg} {ix : List Nat} (h : s.commitPending r ix = false) :
    s.commitCancel r ix = s := if_neg (by simp [h])

theorem State.commitWrite_cancel {s : State} {base : Nat} {r : Rg} {ix : List Nat} (hb : blockAt base = some (r, ix))
    {w : Word} (hw : w.getLsbD 1 = true) : s.commitWrite base w = s.commitCancel r ix := by
  unfold State.commitWrite
  rw [hb]
  exact if_pos hw

/-- Settles O13: an accepted COMMIT write by its registers, and a later host write by the copies it leaves. -/
theorem commitGoCopiesStagedToPending : Obligations.CommitGoCopiesStagedToPending := by
  unfold Obligations.CommitGoCopiesStagedToPending
  intro s base token r ix wf hb hm hidle
  refine ⟨⟨_, exec_commitGo_of_powered hb hm token, ?_⟩, fun q jx w m => ?_⟩
  · rw [State.commitGo_of_idle hidle]
    have hword : (s.setv r ix (startedWord (s.rv r ix) token)).rv r ix = startedWord (s.rv r ix) token :=
      State.rv_setv_same wf r ix _
    refine ⟨fun a => ?_, rfl, rfl, ?_, ?_, fun q jx hq => ?_, rfl⟩
    · exact tabGet_tabReplace rwsReset s.regs.pnd s.regs.stg (blkBase_le_blkEnd r ix) a
    · exact (congrArg (getBits · 10 8) hword).trans (getBits_startedWord_result _ _)
    · exact (congrArg (getBits · 31 16) hword).trans (getBits_startedWord_token _ _)
    · exact State.rv_setv_ne s _ hq
  · have hw := State.writePlain_written wf q jx w m
    exact ⟨hw.act, hw.pnd⟩

/-- Settles O14: a discarded COMMIT write by the bit that it sets, an abandoned commit by its end. -/
theorem commitWhilePendingAndCancel : Obligations.CommitWhilePendingAndCancel := by
  unfold Obligations.CommitWhilePendingAndCancel
  intro s base token w
  refine ⟨fun r ix wf hb hm => ⟨fun hp => ⟨?_, ?_, ?_⟩, fun hp => ?_, fun hi => ?_, fun hw => ?_⟩, fun x d hb hm => ?_,
    fun hb => ?_⟩
  · rw [exec_commitGo_of_powered hb hm, State.commitGo_of_pending hp]
  · rw [State.rv_setv_same wf]
    exact getBits_putBits_same _ _ _ _ (by decide) (by decide)
  · rw [State.commitPending, State.rv_setv_same wf,
      getBits_putBits_disjoint _ _ _ _ _ _ (by decide) (by decide) (by decide)]
    exact hp
  · obtain ⟨hword, hact, hstg, hpnd, hothers, hrest⟩ := State.commitEnd_recorded wf hb 4 0
    refine ⟨_, exec_commitCancel_of_powered hb hm, ?_⟩
    rw [State.commitCancel_of_pending hp]
    refine ⟨hword, ?_, ?_, ?_, hact, hstg, hpnd, hothers, hrest⟩
    · rw [hword, getBits_endedWord_result]
    · rw [hword, getBits_endedWord_done]
    · rw [State.commitPending, hword, getBits_endedWord_result]
      rfl
  · rw [exec_commitCancel_of_powered hb hm, State.commitCancel_of_idle hi]
  · rw [exec_commitCancel_of_powered hb hm, State.commitWrite_cancel hb hw]
  · exact exec_commit_of_missed hb hm token
  · exact exec_commit_of_no_block hb s token

/-! ### The boundary -/

theorem exec_commitBoundary_of_block {base : Nat} {r : Rg} {ix : List Nat} (hb : blockAt base = some (r, ix)) (s : State) :
    exec (.commitBoundary base) s =
      .next (if s.commitPending r ix && s.quiescent r ix then s.commitBoundary r ix else s) := by
  rw [exec_commitBoundary]
  unfold execCommitBoundary
  rw [hb]

theorem exec_commitBoundary_of_fails {s : State} {base c : Nat} {r : Rg} {ix : List Nat} (hb : blockAt base = some (r, ix))
    (hp : s.commitPending r ix = true) (hq : s.quiescent r ix = true) (hc : s.commitChecks r ix = some c) :
    exec (.commitBoundary base) s = .next (s.commitEnd r ix 3 c) := by
  rw [exec_commitBoundary_of_block hb, if_pos (by simp [hp, hq]), State.commitBoundary, hc]

theorem exec_commitBoundary_of_passes {s : State} {base : Nat} {r : Rg} {ix : List Nat} (hb : blockAt base = some (r, ix))
    (hp : s.commitPending r ix = true) (hq : s.quiescent r ix = true) (hc : s.commitChecks r ix = none) :
    exec (.commitBoundary base) s = .next (s.commitApply r ix) := by
  rw [exec_commitBoundary_of_block hb, if_pos (by simp [hp, hq]), State.commitBoundary, hc]

/-- What is recorded is no change of memory. -/
theorem State.Recorded.sameBytes {s t : State} {r : Rg} {ix : List Nat} {w : Word} (h : s.Recorded t r ix w) :
    s.sameBytes t := fun a => by rw [h.rest]; rfl

/-- Settles O15: the end of a commit that is rejected, and the guard of the boundary. -/
theorem commitBoundaryRejects : Obligations.CommitBoundaryRejects := by
  unfold Obligations.CommitBoundaryRejects
  intro s base r ix wf hb
  refine ⟨fun c hp hq hc => ?_, fun h => ?_⟩
  · have hend := State.commitEnd_recorded wf hb 3 c
    refine ⟨_, exec_commitBoundary_of_fails hb hp hq hc, ?_, ?_, ?_, hend.act, hend.stg, hend.pnd,
      hend.sameBytes⟩
    · rw [hend.word, getBits_endedWord_result]
    · rw [hend.word, getBits_endedWord_done]
    · rw [hend.word, getBits_endedWord_check]
  · rw [exec_commitBoundary_of_block hb, if_neg]
    rcases h with h | h <;> simp [h]

/-! ### The application of a PART commit, case by case (R483, R491, R537) -/

theorem State.applyPart_kills {s : State} {p : Nat} (hf : s.fp .partCellsFormed [p] = 0) (hw : s.formed p = true) :
    s.applyPart p = ((s.commitEnd .partCommitStatus [p] 2 0).kill p).takePending .partCommitStatus [p] := by
  simp [State.applyPart, hf, hw]

theorem State.applyPart_of_unformed {s : State} {p : Nat} (hf : s.fp .partCellsFormed [p] = 0) (hw : s.formed p = false) :
    s.applyPart p = (s.commitEnd .partCommitStatus [p] 2 0).takePending .partCommitStatus [p] := by
  simp [State.applyPart, hf, hw]

theorem State.applyPart_forms {s : State} {p : Nat} (hf : s.fp .partCellsFormed [p] ≠ 0) (hw : s.formed p = false) :
    s.applyPart p = ((s.takePending .partCommitStatus [p]).form p).commitEnd .partCommitStatus [p] 2 0 := by
  simp [State.applyPart, hf, hw]

theorem State.applyPart_moves {s : State} {p : Nat} (hf : s.fp .partCellsFormed [p] ≠ 0) (hw : s.formed p = true)
    (hrect : (s.takePending .partCommitStatus [p]).rect p ≠ s.rect p) :
    s.applyPart p = ((s.takePending .partCommitStatus [p]).moveBorder p (rectSites (s.rect p))).commitEnd
      .partCommitStatus [p] 2 0 := by
  simp [State.applyPart, hf, hw, hrect]

theorem State.applyPart_reroutes {s : State} {p : Nat} (hf : s.fp .partCellsFormed [p] ≠ 0) (hw : s.formed p = true)
    (hrect : (s.takePending .partCommitStatus [p]).rect p = s.rect p) :
    s.applyPart p = (((s.takePending .partCommitStatus [p]).setTree p).setSpill p).commitEnd .partCommitStatus [p] 2 0 := by
  simp [State.applyPart, hf, hw, hrect]

theorem State.commitSite_of_passes {s : State} {i : Nat} (h : s.siteChecks i = none) :
    s.commitSite i = ((s.takePending .siteCommitStatus [i]).setf .siteStateOfflineActive [i]
      ((s.takePending .siteCommitStatus [i]).fa .siteCtlOffline [i])).commitEnd .siteCommitStatus [i] 2 0 := by
  rw [State.commitSite, h]

/-- Settles O16: the boundary runs State.commitApply, whose branch for each block is what the statement spells out; a block
that stands once has no index, and a repeated one has one. -/
theorem commitBoundaryApplies : Obligations.CommitBoundaryApplies := by
  unfold Obligations.CommitBoundaryApplies
  intro s base r ix wf hb hp hq hc i taken ends off capped dark
  have run := exec_commitBoundary_of_passes hb hp hq hc
  have whole (hd : r.spec.dims = []) : ix = [] := ix_nil_of_blockAt hb hd
  have single (hi : ix = [i]) : ∃ j, ix = [j] := ⟨i, hi⟩
  refine ⟨fun a => ?copied, rfl, fun hr => ?bbox, fun hr => ?time, fun hr => ?power, fun hr => ?policy, fun hr => ?host,
    fun hr => ?flash, fun hr hi => ?hbm, fun hr hi => ?optic, fun hr => ?serve, fun hr hi => ?site, fun hr hi => ?part,
    fun u hu => ?ended⟩
  case copied => exact tabGet_tabReplace rwsReset s.regs.act s.regs.pnd (blkBase_le_blkEnd r ix) a
  case bbox =>
    subst hr
    exact run
  case time | power | policy | host | flash | serve =>
    subst hr
    obtain rfl := whole rfl
    exact run
  case hbm | optic =>
    subst hr
    obtain ⟨j, rfl⟩ := single hi
    exact run
  case site =>
    subst hr
    obtain ⟨j, rfl⟩ := single hi
    exact run.trans (congrArg _ (State.commitSite_of_passes hc))
  case part =>
    subst hr
    obtain ⟨j, rfl⟩ := single hi
    refine ⟨fun hf hw => ?_, fun hf hw => ?_, fun hf hw => ?_, fun hf hw hrect => ?_, fun hf hw hrect => ?_⟩
    · exact run.trans (congrArg _ (State.applyPart_kills hf hw))
    · exact run.trans (congrArg _ (State.applyPart_of_unformed hf hw))
    · exact run.trans (congrArg _ (State.applyPart_forms hf hw))
    · exact run.trans (congrArg _ (State.applyPart_moves hf hw hrect))
    · exact run.trans (congrArg _ (State.applyPart_reroutes hf hw hrect))
  case ended =>
    have hend := State.commitEnd_recorded hu hb 2 0
    refine ⟨?_, ?_, ?_, hend.act⟩
    · rw [hend.word, getBits_endedWord_result]
    · rw [hend.word, getBits_endedWord_done]
    · rw [hend.word]
      exact getBits_endedWord_check _ _ _

end Machine
end Sys2Proof
end

section
/-! SUPPORT. The links between the hub and the fabric dies, and the memory links (R28 to R30). -/

namespace Sys2Proof.Machine

/-! ### The commands of links, where their die or edge is one of the module's -/

theorem execD2dLinkTraining_of_powered {s : State} {die : Nat} (hd : die < 8) (hon : s.domainOn (16 + die) = true)
    (m0 m1 : Bool) (rep : Nat) : execD2dLinkTraining die m0 m1 rep s =
      .next (((s.setf .hubD2dUp [die] (bit01 (m0 || m1))).setf .hubD2dDegraded [die] (bit01 (m0 != m1))).setf
        .hubD2dRepaired [die] rep).hubResume := if_pos ⟨hd, hon⟩

theorem execD2dRetrainDone_of_down {s : State} {die : Nat} (hd : die < 8) (hdown : s.fv .hubD2dUp [die] = 0)
    (hon : s.domainOn (16 + die) = true) (m0 m1 : Bool) (rep : Nat) : execD2dRetrainDone die m0 m1 rep s =
      .next ((((s.bump .hubD2dRetrains [die] 1).setf .hubD2dUp [die] (bit01 (m0 || m1))).setf .hubD2dDegraded [die]
        (bit01 (m0 != m1))).setf .hubD2dRepaired [die] rep).hubResume := if_pos ⟨hd, hdown, hon⟩

theorem execD2dLinkDown_of_die {die : Nat} (hd : die < 8) (s : State) :
    execD2dLinkDown die s = .next ((s.setf .hubD2dUp [die] 0).setf .hubD2dWentDown [die] 1) := if_pos hd

theorem execMemLinkDown_of_edge {edge : Nat} (he : edge < 10) (s : State) :
    execMemLinkDown edge s = .next ((s.setf .hubEdgeMemUp [edge] 0).setf .hubEdgeMemWentDown [edge] 1) := if_pos he

theorem execMemLinkRetrainDone_of_edge {edge : Nat} (he : edge < 10) (s : State) :
    execMemLinkRetrainDone edge s = .next (s.setf .hubEdgeMemUp [edge] 1) := if_pos he

/-- Settles O17: each command by its guard. -/
theorem dieAndMemoryLinks : Obligations.DieAndMemoryLinks := by
  unfold Obligations.DieAndMemoryLinks
  intro s die edge rep m0 m1 hd he
  refine ⟨fun hon => ?_, ?_, fun hdown hon => ?_, ?_, ?_⟩
  · exact execD2dLinkTraining_of_powered hd hon m0 m1 rep
  · exact execD2dLinkDown_of_die hd s
  · exact execD2dRetrainDone_of_down hd hdown hon m0 m1 rep
  · exact execMemLinkDown_of_edge he s
  · exact execMemLinkRetrainDone_of_edge he s

end Sys2Proof.Machine
end

section
/-! SUPPORT. Namespace keys (R288), the sequence view (R259, R291), swap-out (R318, R433, R434) and zeroing (R317, R367). -/

namespace Sys2Proof.Machine

/-! ### Swap-out -/

theorem execSwapOut_of_still {s : State} {p : Nat} (h : s.linkUp = false ∨ (s.part p).swapping = []) :
    execSwapOut p s = .next s := by
  unfold execSwapOut
  split
  next hl hs =>
    rcases h with h | h
    · exact absurd (h.symm.trans hl) (by decide)
    · exact absurd (h.symm.trans hs) (by simp)
  next => rfl

theorem execSwapOut_of_waiting {s : State} {p pg slot : Nat} {rest : List (Nat × Nat)}
    (hs : (s.part p).swapping = (pg, slot) :: rest) (h : s.pageUp p pg = false ∨ s.swapTurn (p, slot) = false) :
    execSwapOut p s = .next s := by
  cases hl : s.linkUp with
  | false => exact execSwapOut_of_still (.inl hl)
  | true =>
    unfold execSwapOut
    rw [hl, hs]
    exact if_pos (by simpa using h)

/-- Bytes of a page that lies in HBM, as the swap path reads them; zeros elsewhere (R436). -/
def State.swapBytes (t : State) (p pg : Nat) : List Byte :=
  match t.place p (t.poolAddr p pg) with
  | .hbm m => (List.range 1024).flatMap (fun i => t.hbm.word (m + 64 * i))
  | _ => List.replicate 65536 0

theorem State.swapBytes_of_hbm {t : State} {p pg m : Nat} (h : t.place p (t.poolAddr p pg) = .hbm m) :
    t.swapBytes p pg = (List.range 1024).flatMap (fun i => t.hbm.word (m + 64 * i)) := by
  rw [State.swapBytes, h]

/-- The swap path moves its first page in turn: the page, its header, the records that end with it, and the reference. -/
theorem execSwapOut_of_turn {s : State} {p pg slot : Nat} {rest : List (Nat × Nat)} (hl : s.linkUp = true)
    (hs : (s.part p).swapping = (pg, slot) :: rest) (hup : s.pageUp p pg = true) (hturn : s.swapTurn (p, slot) = true)
    {bytes : List Byte} (hbytes : (s.recallPage p pg).swapBytes p pg = bytes) :
    execSwapOut p s =
      let t := s.recallPage p pg
      let base := t.fa .hostSwapBaseAddr [p]
      let u := t.emits (t.cipherWrites p base (65536 * slot) 4096 0 16 bytes)
      let u := u.emits (u.cipherWrites p base (u.headerOffset p slot) 128 0 1 (leBytes 128 (((t.part p).hdr pg).pack p)))
      let u := ((t.part p).swapFrames.filter (fun f => f.2.getLast? == some slot)).foldl (fun u f =>
        u.emits (u.cipherWrites p base (u.recordOffset p f.1) 1024 0 1 (frameRecord f.2))) u
      .next ((u.setPart p ({ (u.part p).dropRef (u.age p) pg with swapping := rest } : Part).prune).bump
        .serveSwapOut [p] 1) := by
  unfold execSwapOut
  rw [hl, hs, ← hbytes]
  exact if_neg (by simp [hup, hturn])

/-! ### Zeroing -/

theorem exec_pageZeroed_pool (s : State) (p : Nat) : exec (.pageZeroed true p) s = .next (s.poolZeroed p) := rfl

theorem exec_pageZeroed_die (s : State) (n : Nat) : exec (.pageZeroed false n) s = .next (s.zeroed n) := rfl

theorem State.poolZeroed_of_none {s : State} {p : Nat} (h : (s.part p).zeroQ = []) : s.poolZeroed p = s := by
  rw [State.poolZeroed, h]

/-- A released page that is placed in HBM waits for its die to leave self refresh (R357). -/
theorem State.poolZeroed_of_hbm {s : State} {p page m : Nat} {zs : List Nat} (hz : (s.part p).zeroQ = page :: zs)
    (hp : s.place p (s.poolAddr p page) = .hbm m) : s.poolZeroed p =
      if s.selfRefresh (m / 2 ^ 39 % 8) then s
      else
        let a := (s.recallPage p page).activateAll (pageTiles (m / 65536))
        let b := a.setHbm { a.hbm with cells := tabClear a.hbm.cells m (m + 65536)
                                       errs := tabClear a.hbm.errs (m / 64) (m / 64 + 1024) }
        b.setPart p { (b.part p).setHdr page PageHdr.reset with zeroQ := zs } := by
  rw [State.poolZeroed, hz]
  dsimp only
  rw [hp]

/-- A DIRTY page-tile waits for its die to leave self refresh (R357). -/
theorem State.zeroed_of_dirty {s : State} {n page : Nat} (h : s.hbm.dirty.find? (fun x => dieOfPage x == n) = some page) :
    s.zeroed n =
      if s.selfRefresh n then s
      else ((((s.activateAll (pageTiles page)).setHbm ((s.activateAll (pageTiles page)).hbm.zeroPage page)).dirtyCount
        page).scrubbed page).returnPage page := by
  rw [State.zeroed, h]

/-- Settles O45: each command by its guards. -/
theorem namespacesSequencesAndPages : Obligations.NamespacesSequencesAndPages := by
  unfold Obligations.NamespacesSequencesAndPages
  intro s p ns n pg slot m page w rest zs k q key held keyed marked gone sel t base page64 head ends
  refine ⟨fun hf hgo => ?_, fun hf hc => ?_, rfl, fun h => ?_, fun _ hs h => ?_, fun hl hs hup hturn hp => ?_, fun hz => ?_,
    fun hz hp => ⟨fun hr => ?_, fun hr a b ha hb => ?_⟩, fun hd => ⟨fun hr => ?_, fun hr => ?_⟩⟩
  · exact if_pos ⟨hf, hgo⟩
  · exact if_pos ⟨hf, hc⟩
  · exact execSwapOut_of_still h
  · exact execSwapOut_of_waiting hs h
  · exact execSwapOut_of_turn hl hs hup hturn (State.swapBytes_of_hbm hp)
  · rw [exec_pageZeroed_pool, State.poolZeroed_of_none hz]
  · rw [exec_pageZeroed_pool, State.poolZeroed_of_hbm hz hp, if_pos hr]
  · subst ha hb
    rw [exec_pageZeroed_pool, State.poolZeroed_of_hbm hz hp, if_neg (Bool.eq_false_iff.1 hr)]
  · rw [exec_pageZeroed_die, State.zeroed_of_dirty hd, if_pos hr]
  · rw [exec_pageZeroed_die, State.zeroed_of_dirty hd, if_neg (Bool.eq_false_iff.1 hr)]

end Sys2Proof.Machine
end

section
/-! SUPPORT. Plate loads, flips, section switches, drains and the stall watch (R107, R227 to R246): each command by its cases. -/

namespace Sys2Proof.Machine

/-! ### The start of a load (R242, R245) -/

theorem execPlateLoadStart_of_unwanted {s : State} {p : Nat} (h : s.loadWanted p = none) :
    execPlateLoadStart p s = .next s := by
  rw [execPlateLoadStart, h]

theorem execPlateLoadStart_of_wanted {s : State} {p ed n : Nat} {key : Nat × Nat} (h : s.loadWanted p = some (ed, n, key)) :
    execPlateLoadStart p s =
      if s.refused p ed n then .next (s.endLoadStep p key Status.plateDefect 3)
      else if !s.diesUp p then .next s
      else .next ((s.setPart p { s.part p with back := none, load := some ⟨ed, n, key, s.pnow p⟩ }).showPlates p) := by
  rw [execPlateLoadStart, h]

/-! ### The end of a load (R243 to R245) -/

/-- A load is given up: the refusal is recorded, and the step that the load was for ends. -/
def State.refuseLoad (s : State) (p : Nat) (l : Load) (f : Nat × Nat × Nat × Nat) (code : Nat) (detail : Word) : State :=
  (((s.setPart p { s.part p with load := none }).showPlates p).recordRefusal p l f).endLoadStep p l.step code detail

theorem execPlateLoadComplete_of_none {s : State} {p : Nat} (h : (s.part p).load = none) :
    execPlateLoadComplete p s = .next s := by
  rw [execPlateLoadComplete, h]

section
variable {s : State} {p : Nat} {l : Load} {e : Edition} (hl : (s.part p).load = some l)
  (he : s.resident l.edition = some e)
include hl he

theorem execPlateLoadComplete_of_dieDown (hd : s.diesUp p = false) : execPlateLoadComplete p s = .next s := by
  unfold execPlateLoadComplete
  simp only [hl, he]
  exact if_pos (by simp [hd])

/-- What a load comes to, by the words read and by the checks of the image. -/
theorem execPlateLoadComplete_of_diesUp (hd : s.diesUp p = true) {rd : Reader} (hrd : s.reader e (e.imageBase l.plate) = rd)
    {q : State × Option Nat}
    (hq : s.readImage p e (2 ^ 30) (imageWords rd (e.imageBase l.plate) (diesOf (s.rect p))) = q) :
    execPlateLoadComplete p s = match q.2, loadFailure rd (e.imageBase l.plate) (s.loadEnv p l e) with
      | some a, _ => .next (q.1.refuseLoad p l (4, 1, 0, 0) Status.hbmUncorrectable (BitVec.ofNat 64 (0x80000000000 + a)))
      | none, some f => .next (q.1.refuseLoad p l f Status.plateDefect 3)
      | none, none => .next (q.1.fillBack p rd l) := by
  subst hrd hq
  unfold execPlateLoadComplete
  simp only [hl, he]
  rw [if_neg (by simp [hd])]
  split
  next h => rw [h]; rfl
  next h =>
    rw [h]
    split
    next h => rw [h]; rfl
    next h => rw [h]
end

/-! ### The entry of a section (R227 to R229, R246) -/

theorem execSectionSwitch_of_none {s : State} {p : Nat} (h : s.entering p = none) : execSectionSwitch p s = .next s := by
  rw [execSectionSwitch, h]

theorem execSectionSwitch_of_entering {s : State} {p n sec : Nat} {x : Step} {pl : Plate}
    (h : s.entering p = some (x, n, sec)) (hf : (s.part p).front = some pl) :
    execSectionSwitch p s =
      if holds (some pl) x.edition n then
        .next ((s.dropUncarried p (carryOf pl sec)).fresh.enterSection p (Config.freeNat s.free % 1601))
      else .next s := by
  rw [execSectionSwitch, h, hf]

theorem execPlateFlip_of_none {s : State} {p : Nat} (h : s.entering p = none) (hf : s.flipFirst p = none) :
    execPlateFlip p s = .next s := by
  rw [execPlateFlip, h, hf]

theorem execPlateFlip_of_no_back {s : State} {p : Nat} (h : (s.part p).back = none) : execPlateFlip p s = .next s := by
  rw [execPlateFlip, h]
  cases s.entering p with
  | none => cases s.flipFirst p <;> rfl
  | some _ => rfl

theorem execPlateFlip_of_entering {s : State} {p n sec : Nat} {x : Step} {pl : Plate}
    (h : s.entering p = some (x, n, sec)) (hb : (s.part p).back = some pl) :
    execPlateFlip p s =
      let ticks := Config.freeNat s.free % 32001
      if holds (s.part p).front x.edition n || !holds (some pl) x.edition n then .next s
      else .next ((s.fresh.exchange p (carryOf pl sec) ticks).enterSection p ticks) := by
  rw [execPlateFlip, h, hb]

theorem execPlateFlip_of_first {s : State} {p n sec : Nat} {x : Step} {pl : Plate} (h : s.entering p = none)
    (hf : s.flipFirst p = some (x, n, sec)) (hb : (s.part p).back = some pl) :
    execPlateFlip p s =
      let ticks := Config.freeNat s.free % 32001
      if holds (s.part p).front x.edition n || !holds (some pl) x.edition n then .next s
      else .next (((s.fireFirst p (carryOf pl sec) x).fresh.exchange p (carryOf pl sec) ticks).enterSection p ticks) := by
  rw [execPlateFlip, h, hf, hb]

/-! ### Drains (R228) and the stall watch (R107) -/

theorem execSectionDrain_of_none {s : State} {p : Nat} (h : (s.part p).firing = none) :
    execSectionDrain p s = .next s := by
  rw [execSectionDrain, h]

/-- A section that has drained ends firing and closes its collectives; after the last row the step has drained (R228, R474). -/
def State.endSection (s : State) (p : Nat) (x : Step) : State :=
  let t := s.chargeUp p
  let t := ((t.sitesOf p).foldl (fun u i => if u.fv .siteStateWork [i] = 1 then u.work p i false else u) t).collClose p
    (x.row.getD 0)
  let y := (t.part p).firing.getD x
  let t := t.setPart p { t.part p with firing := some { y with
    drained := y.laterRows.isEmpty, ended := if y.laterRows.isEmpty then t.pnow p else y.ended } }
  t.setPhase p (t.betweenPhase p y)

theorem execSectionDrain_of_firing {s : State} {p : Nat} {x : Step} (h : (s.part p).firing = some x) :
    execSectionDrain p s =
      if s.phase p = 1 ∧ x.outcome.isNone = true ∧ s.drained p = true then .next (s.endSection p x) else .next s := by
  rw [execSectionDrain, h]
  rfl

theorem execStallWatchExpire_of_none {s : State} {p : Nat} (h : (s.part p).firing = none) :
    execStallWatchExpire p s = .next s := by
  rw [execStallWatchExpire, h]

/-- The step of a partition that makes no progress aborts, with a record of the stall at a site (R107, R108). -/
def State.abortStalled (s : State) (p : Nat) (x : Step) (site : Nat) : State :=
  let cause := s.fv .siteStateCause [site]
  (s.abortRun p Status.fabricStall (BitVec.ofNat 64 (site + cause * 2 ^ 16))).bbWriteAt (some p) 0x20 2
    (payloadOf [(0, 2, site), (2, 1, cause), (4, 2, x.entry.idx), (8, 8, (s.rv .siteStallTs [site]).toNat)]) (whereSite site)

theorem execStallWatchExpire_of_firing {s : State} {p : Nat} {x : Step} {pl : Plate} (h : (s.part p).firing = some x)
    (hf : (s.part p).front = some pl) :
    execStallWatchExpire p s =
      if s.watchArmed p && decide ((s.part p).progress + (if pl.stall = 0 then 2 ^ 24 else pl.stall) ≤ s.pnow p) then
        .next (s.abortStalled p x ((if x.outcome.isSome then x.stuck else s.firstStall p).getD 0))
      else .next s := by
  rw [execStallWatchExpire, h, hf]
  rfl

/-- Settles O46: each command by its cases, and each case by the guard that the statement names. -/
theorem plateLoadsAndFlips : Obligations.PlateLoadsAndFlips := by
  unfold Obligations.PlateLoadsAndFlips
  intro s p ed n sec key l e x pl rd q idle carry ticks flipped paid still y ended site cause limit
  refine ⟨fun h => ?_, fun h => ⟨fun hr => ?_, fun hr hd => ?_, fun hr hd => ?_⟩, fun h => ?_, fun hl he hd => ?_,
    fun hl he hd => ⟨fun a ha => ?_, fun f hq hf => ?_, fun hq hf => ?_⟩, fun h => ?_, fun h => ⟨fun hf hp => ?_, fun hf hp => ?_,
      fun hb hp hf => ?_, fun hb hp => ?_⟩, fun h hf => ?_, fun h hf hb => ⟨fun hp hn => ?_, fun hp => ?_⟩, fun h => ?_,
    fun h => ⟨?_, ?_⟩, fun h => ⟨fun hph ho hdr => ?_, fun hno => ?_, fun hf ha hlim => ?_, fun hf hno => ?_⟩⟩
  · exact execPlateLoadStart_of_unwanted h
  · exact (execPlateLoadStart_of_wanted h).trans (if_pos hr)
  · refine (execPlateLoadStart_of_wanted h).trans ?_
    rw [if_neg (Bool.eq_false_iff.1 hr), if_pos (by simp [hd])]
  · refine (execPlateLoadStart_of_wanted h).trans ?_
    rw [if_neg (Bool.eq_false_iff.1 hr), if_neg (by simp [hd])]
  · exact execPlateLoadComplete_of_none h
  · exact execPlateLoadComplete_of_dieDown hl he hd
  · refine (execPlateLoadComplete_of_diesUp hl he hd rfl (q := q) rfl).trans ?_
    rw [ha]
    rfl
  · refine (execPlateLoadComplete_of_diesUp hl he hd rfl (q := q) rfl).trans ?_
    rw [hq, hf]
    rfl
  · refine (execPlateLoadComplete_of_diesUp hl he hd rfl (q := q) rfl).trans ?_
    rw [hq, hf]
  · exact execSectionSwitch_of_none h
  · exact (execSectionSwitch_of_entering h hf).trans (if_pos hp)
  · exact (execSectionSwitch_of_entering h hf).trans (if_neg (Bool.eq_false_iff.1 hp))
  · exact (execPlateFlip_of_entering h hb).trans (if_neg (by simp [hp, hf]))
  · exact (execPlateFlip_of_entering h hb).trans (if_pos (by simpa using hp.symm))
  · exact execPlateFlip_of_none h hf
  · exact (execPlateFlip_of_first h hf hb).trans (if_neg (by simp [hp, hn]))
  · exact (execPlateFlip_of_first h hf hb).trans (if_pos (by simpa using hp.symm))
  · exact execPlateFlip_of_no_back h
  · exact execSectionDrain_of_none h
  · exact execStallWatchExpire_of_none h
  · exact (execSectionDrain_of_firing h).trans (if_pos ⟨hph, by simp [ho], hdr⟩)
  · refine (execSectionDrain_of_firing h).trans (if_neg ?_)
    rintro ⟨hph, ho, hdr⟩
    simp [hph, hdr, Option.isNone_iff_eq_none.1 ho] at hno
  · exact (execStallWatchExpire_of_firing h hf).trans (if_pos (Bool.and_eq_true_iff.2 ⟨ha, decide_eq_true hlim⟩))
  · refine (execStallWatchExpire_of_firing h hf).trans (if_neg ?_)
    rw [Bool.and_eq_true, decide_eq_true_eq, not_and_or, Nat.not_le, Bool.not_eq_true]
    exact hno

end Sys2Proof.Machine
end

section
/-! SUPPORT. Module time (R46, R47): every command but START_UP and ALL_POWER_LOST keeps what Keeps says, the clock with it. -/

namespace Sys2Proof.Machine

/-- Every command but a new start keeps the queue, the outputs made, the canonical form, the ratchets and module time. -/
theorem exec_keeps {c : Instr} (hstart : ∀ a b, c ≠ .startUp a b) (hlost : c ≠ .allPowerLost) (s : State) :
    KeepsOut s (exec c s) := by
  cases c with
  | startUp a b => exact absurd rfl (hstart a b)
  | allPowerLost => exact absurd rfl hlost
  | registerWrite => exact execRegisterWrite_keeps (.refl s) ..
  | commitGo base token => exact execCommitGo_keeps (.refl s) base token
  | commitCancel base => exact execCommitCancel_keeps (.refl s) base
  | commitBoundary base => exact execCommitBoundary_keeps (.refl s) base
  | d2dLinkTraining => exact execD2dLinkTraining_keeps (.refl s) ..
  | d2dLinkDown => exact execD2dLinkDown_keeps (.refl s) ..
  | d2dRetrainDone => exact execD2dRetrainDone_keeps (.refl s) ..
  | memLinkDown => exact execMemLinkDown_keeps (.refl s) ..
  | refLost => exact execRefLost_keeps (.refl s)
  | refRestored => exact execRefRestored_keeps (.refl s)
  | ppsInEdge => exact execPpsInEdge_keeps (.refl s)
  | timeExchangeTimer => exact execTimeExchangeTimer_keeps (.refl s) ..
  | timeReq => exact execTimeReq_keeps (.refl s) ..
  | timeRsp => exact execTimeRsp_keeps (.refl s) ..
  | snapAtWrite => exact execSnapAtWrite_keeps (.refl s) ..
  | snapshotArmReceive => exact execSnapshotArmReceive_keeps (.refl s) ..
  | snapshotLatch => exact execSnapshotLatch_keeps (.refl s) ..
  | operandArrival => exact execOperandArrival_keeps (.refl s) ..
  | endOfStreamFiring => exact execEndOfStreamFiring_keeps (.refl s) ..
  | nop => exact execNop_keeps (.refl s) ..
  | move => exact execMove_keeps (.refl s) ..
  | matrix => exact execMatrix_keeps (.refl s) ..
  | accZero => exact execAccZero_keeps (.refl s) ..
  | accRead => exact execAccRead_keeps (.refl s) ..
  | accAdd => exact execAccAdd_keeps (.refl s) ..
  | accLoad => exact execAccLoad_keeps (.refl s) ..
  | vadd => exact execVadd_keeps (.refl s) ..
  | vsub => exact execVsub_keeps (.refl s) ..
  | vmul => exact execVmul_keeps (.refl s) ..
  | vfma => exact execVfma_keeps (.refl s) ..
  | vmin => exact execVmin_keeps (.refl s) ..
  | vmax => exact execVmax_keeps (.refl s) ..
  | vcmp => exact execVcmp_keeps (.refl s) ..
  | vsel => exact execVsel_keeps (.refl s) ..
  | vexp2 => exact execVexp2_keeps (.refl s) ..
  | vlog2 => exact execVlog2_keeps (.refl s) ..
  | vrcp => exact execVrcp_keeps (.refl s) ..
  | vrsq => exact execVrsq_keeps (.refl s) ..
  | vabs => exact execVabs_keeps (.refl s) ..
  | vneg => exact execVneg_keeps (.refl s) ..
  | vmov => exact execVmov_keeps (.refl s) ..
  | redSum => exact execRedSum_keeps (.refl s) ..
  | redMax => exact execRedMax_keeps (.refl s) ..
  | redMin => exact execRedMin_keeps (.refl s) ..
  | redSumsq => exact execRedSumsq_keeps (.refl s) ..
  | pack => exact execPack_keeps (.refl s) ..
  | steer => exact execSteer_keeps (.refl s) ..
  | merge => exact execMerge_keeps (.refl s) ..
  | tagAction => exact execTagAction_keeps (.refl s) ..
  | tagSet => exact execTagSet_keeps (.refl s) ..
  | tagData => exact execTagData_keeps (.refl s) ..
  | send => exact execSend_keeps (.refl s) ..
  | sendEosAfter => exact execSendEosAfter_keeps (.refl s) ..
  | sendEosOnly => exact execSendEosOnly_keeps (.refl s) ..
  | syncWait => exact execSyncWait_keeps (.refl s) ..
  | syncSignal => exact execSyncSignal_keeps (.refl s) ..
  | semaphoreGrant => exact execSemaphoreGrant_keeps (.refl s) ..
  | claim => exact execClaim_keeps (.refl s) ..
  | arm => exact execArm_keeps (.refl s) ..
  | retire => exact execRetire_keeps (.refl s) ..
  | dispenserClaim => exact execDispenserClaim_keeps (.refl s) ..
  | dispenserArm => exact execDispenserArm_keeps (.refl s) ..
  | dispenserRetire => exact execDispenserRetire_keeps (.refl s) ..
  | routeSelect => exact execRouteSelect_keeps (.refl s) ..
  | routeDispatch => exact execRouteDispatch_keeps (.refl s) ..
  | append => exact execAppend_keeps (.refl s) ..
  | scoreRmax => exact execScoreRmax_keeps (.refl s) ..
  | scoreExpd => exact execScoreExpd_keeps (.refl s) ..
  | scoreRsum => exact execScoreRsum_keeps (.refl s) ..
  | scoreMerge => exact execScoreMerge_keeps (.refl s) ..
  | slotTransfer => exact execSlotTransfer_keeps (.refl s) ..
  | creditReturn => exact execCreditReturn_keeps (.refl s) ..
  | steerEntryArrival => exact execSteerEntryArrival_keeps (.refl s) ..
  | steerEntryEos => exact execSteerEntryEos_keeps (.refl s) ..
  | mergeEntryForward => exact execMergeEntryForward_keeps (.refl s) ..
  | queueTransfer => exact execQueueTransfer_keeps (.refl s) ..
  | bankGrant => exact execBankGrant_keeps (.refl s) ..
  | hatchReadOperand => exact execHatchReadOperand_keeps (.refl s) ..
  | hbmReadResponse => exact execHbmReadResponse_keeps (.refl s) ..
  | writeStreamOperand => exact execWriteStreamOperand_keeps (.refl s) ..
  | rearmWord => exact execRearmWord_keeps (.refl s) ..
  | muArmWrite => exact execMuArmWrite_keeps (.refl s) ..
  | appendArrival => exact execAppendArrival_keeps (.refl s) ..
  | stallWatchExpire => exact execStallWatchExpire_keeps (.refl s) ..
  | snpinv => exact execSnpinv_keeps (.refl s) ..
  | snpdata => exact execSnpdata_keeps (.refl s) ..
  | snpcur => exact execSnpcur_keeps (.refl s) ..
  | tailLineRead => exact execTailLineRead_keeps (.refl s) ..
  | ledgerEntryFetch => exact execLedgerEntryFetch_keeps (.refl s) ..
  | schedulerChoose => exact execSchedulerChoose_keeps (.refl s)
  | batchDelivery => exact execBatchDelivery_keeps (.refl s) ..
  | swapOut => exact execSwapOut_keeps (.refl s) ..
  | plateLoadStart => exact execPlateLoadStart_keeps (.refl s) ..
  | plateLoadComplete => exact execPlateLoadComplete_keeps (.refl s) ..
  | plateFlip => exact execPlateFlip_keeps (.refl s) ..
  | sectionSwitch => exact execSectionSwitch_keeps (.refl s) ..
  | sectionDrain => exact execSectionDrain_keeps (.refl s) ..
  | stepComplete => exact execStepComplete_keeps (.refl s) ..
  | openSeq => exact execOpen_keeps (.refl s) ..
  | park => exact execPark_keeps (.refl s) ..
  | resume => exact execResume_keeps (.refl s) ..
  | close => exact execClose_keeps (.refl s) ..
  | lookup => exact execLookup_keeps (.refl s) ..
  | sequenceReleaseComplete => exact execSequenceReleaseComplete_keeps (.refl s) ..
  | nskeyApply => exact execNskeyApply_keeps (.refl s) ..
  | nskeyInvalidationDone => exact execNskeyInvalidationDone_keeps (.refl s) ..
  | seqSelCapture => exact execSeqSelCapture_keeps (.refl s) ..
  | candidateListArrival => exact execCandidateListArrival_keeps (.refl s) ..
  | dispatchLayerDecide => exact execDispatchLayerDecide_keeps (.refl s) ..
  | dispatch => exact execDispatch_keeps (.refl s) ..
  | dispatchEnd => exact execDispatchEnd_keeps (.refl s) ..
  | scrubBurst => exact execScrubBurst_keeps (.refl s) ..
  | targetedRefresh => exact execTargetedRefresh_keeps (.refl s) ..
  | rowRemap => exact execRowRemap_keeps (.refl s) ..
  | pageZeroed => exact execPageZeroed_keeps (.refl s) ..
  | tagSelCapture => exact execTagSelCapture_keeps (.refl s) ..
  | install => exact execInstall_keeps (.refl s) ..
  | delete => exact execDelete_keeps (.refl s)
  | stage => exact execStage_keeps (.refl s) ..
  | evict => exact execEvict_keeps (.refl s)
  | setStage => exact execSetStage_keeps (.refl s) ..
  | setEvict => exact execSetEvict_keeps (.refl s)
  | repair => exact execRepair_keeps (.refl s) ..
  | cmdAck => exact execCmdAck_keeps (.refl s)
  | blockRelocation channel die block pf ef rs => exact execBlockRelocation_keeps (.refl s) channel die block pf ef rs
  | retentionScrub => exact execRetentionScrub_keeps (.refl s) ..
  | channelOutOfService => exact execChannelOutOfService_keeps (.refl s) ..
  | channelRebuildDone => exact execChannelRebuildDone_keeps (.refl s) ..
  | flashRetraining => exact execFlashRetraining_keeps (.refl s)
  | hostLinkTrained => exact execHostLinkTrained_keeps (.refl s) ..
  | linkLeavesL0 => exact execLinkLeavesL0_keeps (.refl s)
  | linkReturnsL0 => exact execLinkReturnsL0_keeps (.refl s)
  | hostPortReset => exact execHostPortReset_keeps (.refl s)
  | hostMemRead => exact execHostMemRead_keeps (.refl s) ..
  | hostMemWrite => exact execHostMemWrite_keeps (.refl s) ..
  | bringIn => exact execBringIn_keeps (.refl s) ..
  | ideFailure => exact execIdeFailure_keeps (.refl s) ..
  | doeDiscovery => exact execDoeDiscovery_keeps (.refl s) ..
  | tableAccess => exact execTableAccess_keeps (.refl s)
  | ideKm => exact execIdeKm_keeps (.refl s) ..
  | laserInputLost => exact execLaserInputLost_keeps (.refl s) ..
  | ringsLocked => exact execRingsLocked_keeps (.refl s) ..
  | portTrained => exact execPortTrained_keeps (.refl s) ..
  | portTrainTimeout => exact execPortTrainTimeout_keeps (.refl s) ..
  | portDownRetry => exact execPortDownRetry_keeps (.refl s) ..
  | wavelengthFail => exact execWavelengthFail_keeps (.refl s) ..
  | lossOfSignal => exact execLossOfSignal_keeps (.refl s) ..
  | flitReceive => exact execFlitReceive_keeps (.refl s) ..
  | ackTimer => exact execAckTimer_keeps (.refl s) ..
  | replayTimeout => exact execReplayTimeout_keeps (.refl s) ..
  | linkId => exact execLinkId_keeps (.refl s) ..
  | auditPeriod => exact execAuditPeriod_keeps (.refl s) ..
  | auditStart => exact execAuditStart_keeps (.refl s) ..
  | switchOut => exact execSwitchOut_keeps (.refl s) ..
  | auditDwellEnd => exact execAuditDwellEnd_keeps (.refl s) ..
  | testEnd => exact execTestEnd_keeps (.refl s) ..
  | switchBack => exact execSwitchBack_keeps (.refl s) ..
  | messageForward => exact execMessageForward_keeps (.refl s) ..
  | stepDesc => exact execStepDesc_keeps (.refl s) ..
  | stepData => exact execStepData_keeps (.refl s) ..
  | stepDone => exact execStepDone_keeps (.refl s) ..
  | hist => exact execHist_keeps (.refl s) ..
  | stepAbort => exact execStepAbort_keeps (.refl s) ..
  | rdReq => exact execRdReq_keeps (.refl s) ..
  | rdRsp => exact execRdRsp_keeps (.refl s) ..
  | wrReq => exact execWrReq_keeps (.refl s) ..
  | wrAck => exact execWrAck_keeps (.refl s) ..
  | bankWr => exact execBankWr_keeps (.refl s) ..
  | bankAck => exact execBankAck_keeps (.refl s) ..
  | atomAdd => exact execAtomAdd_keeps (.refl s) ..
  | atomMax => exact execAtomMax_keeps (.refl s) ..
  | atomMin => exact execAtomMin_keeps (.refl s) ..
  | atomAnd => exact execAtomAnd_keeps (.refl s) ..
  | atomOr => exact execAtomOr_keeps (.refl s) ..
  | atomSwap => exact execAtomSwap_keeps (.refl s) ..
  | atomCas => exact execAtomCas_keeps (.refl s) ..
  | atomFadd => exact execAtomFadd_keeps (.refl s) ..
  | atomRsp => exact execAtomRsp_keeps (.refl s) ..
  | collData => exact execCollData_keeps (.refl s) ..
  | collEnd => exact execCollEnd_keeps (.refl s) ..
  | partnerSilent => exact execPartnerSilent_keeps (.refl s) ..
  | fault => exact execFault_keeps (.refl s) ..
  | faultWindowClose => exact execFaultWindowClose_keeps (.refl s) ..
  | leadFaultWindowClose => exact execLeadFaultWindowClose_keeps (.refl s) ..
  | emittedEntryExpire => exact execEmittedEntryExpire_keeps (.refl s) ..
  | confirmationTimeout => exact execConfirmationTimeout_keeps (.refl s) ..
  | faultAck => exact execFaultAck_keeps (.refl s) ..
  | epochSet => exact execEpochSet_keeps (.refl s) ..
  | kill => exact execKill_keeps (.refl s) ..
  | controlInterval => exact execControlInterval_keeps (.refl s) ..
  | pwrBrakeNAssert => exact execPwrBrakeNAssert_keeps (.refl s)
  | pwrBrakeNRelease => exact execPwrBrakeNRelease_keeps (.refl s)
  | undervolt => exact execUndervolt_keeps (.refl s)
  | undervoltClear => exact execUndervoltClear_keeps (.refl s)
  | capdropClear => exact execCapdropClear_keeps (.refl s)
  | flowOkNRelease => exact execFlowOkNRelease_keeps (.refl s)
  | flowOkNRestored => exact execFlowOkNRestored_keeps (.refl s)
  | flowJunctionSample => exact execFlowJunctionSample_keeps (.refl s) ..
  | hot => exact execHot_keeps (.refl s)
  | hotClear => exact execHotClear_keeps (.refl s)
  | hardwareTrip => exact execHardwareTrip_keeps (.refl s) ..
  | controlledStop => exact execControlledStop_keeps (.refl s) ..
  | heartbeat ep seq => exact execHeartbeat_keeps (.refl s) ep seq
  | heartbeatLost => exact execHeartbeatLost_keeps (.refl s)
  | domainUsable => exact execDomainUsable_keeps (.refl s) ..
  | takeOwnership => exact execTakeOwnership_keeps (.refl s) ..
  | enrol => exact execEnrol_keeps (.refl s) ..
  | revoke => exact execRevoke_keeps (.refl s) ..
  | release => exact execRelease_keeps (.refl s) ..
  | svnCommit => exact execSvnCommit_keeps (.refl s) ..
  | trngHealthFail => exact execTrngHealthFail_keeps (.refl s)
  | debugSet => exact execDebugSet_keeps (.refl s) ..
  | debugUnlock => exact execDebugUnlock_keeps (.refl s) ..
  | debugLock => exact execDebugLock_keeps (.refl s) ..
  | debugAddrSelect => exact execDebugAddrSelect_keeps (.refl s) ..
  | blackBoxWrite => exact execBlackBoxWrite_keeps (.refl s)
  | overflow => exact execOverflow_keeps (.refl s)
  | blackBoxReadSelect => exact execBlackBoxReadSelect_keeps (.refl s) ..
  | clear => exact execClear_keeps (.refl s) ..
  | read => exact execRead_keeps (.refl s) ..
  | state => exact execState_keeps (.refl s) ..
  | regRead => exact execRegRead_keeps (.refl s) ..
  | regWrite => exact execRegWrite_keeps (.refl s) ..
  | setEndpointId => exact execSetEndpointId_keeps (.refl s) ..
  | getEndpointId => exact execGetEndpointId_keeps (.refl s) ..
  | getMctpVersionSupport => exact execGetMctpVersionSupport_keeps (.refl s) ..
  | getMessageTypeSupport => exact execGetMessageTypeSupport_keeps (.refl s) ..
  | getVendorDefinedMessageSupport => exact execGetVendorDefinedMessageSupport_keeps (.refl s) ..
  | i3cDynamicAddress => exact execI3cDynamicAddress_keeps (.refl s) ..
  | getSensorReading => exact execGetSensorReading_keeps (.refl s) ..
  | setEventReceiver => exact execSetEventReceiver_keeps (.refl s) ..
  | getCertificate => exact execGetCertificate_keeps (.refl s) ..
  | challenge => exact execChallenge_keeps (.refl s) ..
  | getMeasurements => exact execGetMeasurements_keeps (.refl s) ..
  | keyExchange => exact execKeyExchange_keeps (.refl s) ..
  | keyUpdate => exact execKeyUpdate_keeps (.refl s) ..
  | requestUpdate => exact execRequestUpdate_keeps (.refl s) ..
  | firmwareData => exact execFirmwareData_keeps (.refl s) ..
  | verifyComplete => exact execVerifyComplete_keeps (.refl s) ..
  | activateFirmware => exact execActivateFirmware_keeps (.refl s) ..
  | getFirmwareParameters => exact execGetFirmwareParameters_keeps (.refl s) ..
  | modResetNAssert => exact execModResetNAssert_keeps (.refl s)
  | mainInputStable => exact execMainInputStable_keeps (.refl s) ..
  | memLinkRetrainDone => exact execMemLinkRetrainDone_keeps (.refl s) ..
  | laserInputRestored => exact execLaserInputRestored_keeps (.refl s) ..
  | perBankRefresh => exact execPerBankRefresh_keeps (.refl s) ..
  | hbmWriteAcknowledge => exact execHbmWriteAcknowledge_keeps (.refl s) ..
  | referenceLocked => exact execReferenceLocked_keeps (.refl s)
  | spdmHeartbeat => exact execSpdmHeartbeat_keeps (.refl s) ..

theorem KeepsOut.runs_now {s : State} {o : Host.Outcome State Fault Refusal} (h : KeepsOut s o) :
    Runs o (fun t => t.now = s.now) := by
  cases h with
  | next h => exact ⟨_, rfl, h.clock⟩

/-- Settles O3: the laws of the commands include that the clock stands. -/
theorem noCommandChangesModuleTime : Obligations.NoCommandChangesModuleTime := by
  unfold Obligations.NoCommandChangesModuleTime
  intro c s hstart hlost
  exact (exec_keeps hstart hlost s).runs_now

end Sys2Proof.Machine
end

section
/-! SUPPORT. The time base: PPS latches (R59), references (R52, R72) and time exchanges with the parent (R54, R55, R57, R477). -/

namespace Sys2Proof.Machine

/-! ### PPS latches -/

/-- The PPS latch of one partition, stored in a state t from the partition times of s. -/
def State.latchPps (s t : State) (p : Nat) : State :=
  if s.formed p then t.setv .timePpsLatch [p] (BitVec.ofNat 64 (s.pnow p)) else t

theorem execPpsInEdge_eq (s : State) : execPpsInEdge s = .next ((List.range 32).foldl s.latchPps s) := rfl

theorem at_timePpsLatch (p : Nat) : Rg.at .timePpsLatch [p] = 0x11040 + 128 * p := by
  simp [Rg.at, Rg.spec]

theorem State.latchPps_wf (s : State) {t : State} (h : t.wf = true) (p : Nat) : (s.latchPps t p).wf = true := by
  unfold State.latchPps
  split
  · exact State.setv_wf h _ _ _
  · exact h

theorem State.latchPps_onlyRegs (s t : State) (p : Nat) : t.onlyRegs (s.latchPps t p) [(.timePpsLatch, [p])] := by
  unfold State.latchPps
  split
  · exact State.onlyRegs_setv t _ _ _
  · exact State.onlyRegs_refl t _

theorem State.rv_latchPps_same (s : State) {t : State} (h : t.wf = true) (p : Nat) :
    (s.latchPps t p).rv .timePpsLatch [p] =
      if s.formed p then BitVec.ofNat 64 (s.pnow p) else t.rv .timePpsLatch [p] := by
  unfold State.latchPps
  split
  · exact State.rv_setv_same h _ _ _
  · rfl

theorem State.rv_latchPps_ne (s t : State) {p q : Nat} (h : q ≠ p) :
    (s.latchPps t p).rv .timePpsLatch [q] = t.rv .timePpsLatch [q] := by
  unfold State.latchPps
  split
  · exact State.rv_setv_ne t _ (by rw [at_timePpsLatch, at_timePpsLatch]; omega)
  · rfl

theorem State.foldl_latchPps_onlyRegs (s t : State) (l : List Nat) :
    t.onlyRegs (l.foldl s.latchPps t) (l.map (fun p => (Rg.timePpsLatch, [p]))) := by
  induction l generalizing t with
  | nil => exact State.onlyRegs_refl t _
  | cons p l ih => exact (s.latchPps_onlyRegs t p).trans (ih _)

theorem State.rv_foldl_latchPps (s : State) {t : State} (h : t.wf = true) (l : List Nat) (q : Nat) :
    (l.foldl s.latchPps t).rv .timePpsLatch [q] =
      if q ∈ l ∧ s.formed q = true then BitVec.ofNat 64 (s.pnow q) else t.rv .timePpsLatch [q] := by
  induction l generalizing t with
  | nil => simp
  | cons p l ih =>
    rw [List.foldl_cons, ih (s.latchPps_wf h p)]
    by_cases hq : q = p
    · subst hq
      rw [State.rv_latchPps_same s h]
      cases s.formed q <;> simp
    · rw [State.rv_latchPps_ne s t hq]
      simp [hq]

/-- Settles O19: the latches are stored one after another, each of its own register. -/
theorem ppsLatchesPartitionTime : Obligations.PpsLatchesPartitionTime := by
  unfold Obligations.PpsLatchesPartitionTime
  intro s wf
  refine ⟨_, execPpsInEdge_eq s, fun p hp => ?_, s.foldl_latchPps_onlyRegs s _⟩
  rw [State.rv_foldl_latchPps s wf]
  simp [hp]

/-! ### References -/

/-- A time record leaves the active copies of the registers. -/
@[simp] theorem State.fa_timeRecord (s : State) (p : Option Nat) (event err : Nat) (f : Fld) (ix : List Nat) :
    (s.timeRecord p event err).fa f ix = s.fa f ix := by
  unfold State.timeRecord
  rw [State.bbWrite_class_zero]
  unfold State.bbPut
  split <;> rfl

@[simp] theorem State.fa_setf (s : State) (g : Fld) (jx : List Nat) (n : Nat) (f : Fld) (ix : List Nat) :
    (s.setf g jx n).fa f ix = s.fa f ix := rfl

/-- The module loses its reference: REF_LOST sets and LOCKED clears, with a record (R52). -/
def State.loseRef (s : State) : State :=
  ((s.setf .timeStatusRefLost [] 1).setf .timeStatusLocked [] 0).timeRecord none 1 0

@[simp] theorem State.fa_loseRef (s : State) (f : Fld) (ix : List Nat) : s.loseRef.fa f ix = s.fa f ix := by
  simp [State.loseRef]

theorem execRefLost_eq (s : State) : execRefLost s =
    if s.fa .timeRefAlt [] ≠ 0xFF ∧ s.fv .timeStatusInUse [] ≠ s.fa .timeRefAlt [] then
      .next ((((s.loseRef.setf .timeStatusRefSwitch [] 1).setf .timeStatusInUse [] (s.fa .timeRefAlt [])).setf
        .timeStatusHoldover [] 0).timeRecord none 2 0)
    else .next (((s.loseRef.setf .timeStatusHoldover [] 1).setf .timeStatusInUse [] 0xFF).timeRecord none 3 0) := by
  rw [← s.fa_loseRef]
  rfl

/-- The time base locks to a reference (R52, R72). -/
def State.lockRef (s : State) (src : Nat) : State :=
  ((s.setf .timeStatusInUse [] src).setf .timeStatusHoldover [] 0).setf .timeStatusLocked [] 1

theorem execRefRestored_eq (s : State) : execRefRestored s =
    .next (if s.fv .timeStatusHoldover [] = 1 then (s.lockRef (s.fa .timeRefSrc [])).timeRecord none 5 0
      else s.lockRef (s.fa .timeRefSrc [])) := rfl

/-- REFERENCE_LOCKED locks the reference in use where that is ALT and not locked yet, else the named source. -/
theorem execReferenceLocked_eq {s : State} {src : Nat}
    (h : (s.fa .timeRefAlt [] ≠ 0xFF ∧ s.fv .timeStatusInUse [] = s.fa .timeRefAlt [] ∧
          s.fv .timeStatusLocked [] = 0 ∧ src = s.fa .timeRefAlt []) ∨
        ((s.fa .timeRefAlt [] = 0xFF ∨ s.fv .timeStatusInUse [] ≠ s.fa .timeRefAlt [] ∨
          s.fv .timeStatusLocked [] ≠ 0) ∧ src = s.fa .timeRefSrc [])) :
    execReferenceLocked s =
      .next (if s.fv .timeStatusHoldover [] = 1 then (s.lockRef src).timeRecord none 5 0 else s.lockRef src) := by
  have hsrc : src = if s.fa .timeRefAlt [] ≠ 0xFF ∧ s.fv .timeStatusInUse [] = s.fa .timeRefAlt [] ∧
      s.fv .timeStatusLocked [] = 0 then s.fa .timeRefAlt [] else s.fa .timeRefSrc [] := by
    rcases h with ⟨halt, huse, hlock, h⟩ | ⟨hno, h⟩
    · rw [if_pos ⟨halt, huse, hlock⟩, h]
    · rw [if_neg (by tauto), h]
  rw [hsrc]
  rfl

/-- Settles O18: each command by its equation, and that module time stands by the law of all commands. -/
theorem referenceEventsKeepTime : Obligations.ReferenceEventsKeepTime := by
  unfold Obligations.ReferenceEventsKeepTime
  intro s
  have stands {c : Instr} (hstart : ∀ a b, c ≠ .startUp a b) (hlost : c ≠ .allPowerLost) :
      Runs (exec c s) (fun t => t.now = s.now) := noCommandChangesModuleTime c s hstart hlost
  refine ⟨fun halt huse => ?_, fun h => ?_, fun h => ?_, fun h => ?_, fun src h t ht => ?_, stands nofun nofun,
    stands nofun nofun, stands nofun nofun⟩
  · exact (execRefLost_eq s).trans (if_pos ⟨halt, huse⟩)
  · exact (execRefLost_eq s).trans (if_neg (by tauto))
  · exact (execRefRestored_eq s).trans (congrArg _ (if_neg h))
  · exact (execRefRestored_eq s).trans (congrArg _ (if_pos h))
  · subst ht
    exact execReferenceLocked_eq h

end Sys2Proof.Machine
end

section
/-! SUPPORT. Messages that R463 accepts or does not, and time exchanges with the parent (R54, R55, R57, R477, R500). -/

namespace Sys2Proof.Machine

/-! ### Received messages (R463) -/

theorem State.receive_of_accepted {s : State} {port typ p : Nat} {h : Hdr} {body : List Byte}
    (ha : (s.consume port typ body.length).accept h = .ok p) (f : State → Nat → State) :
    s.receive port typ h body f = f (s.consume port typ body.length) p := by
  simp only [State.receive, ha]

theorem State.receive_of_refused {s : State} {port typ : Nat} {h : Hdr} {body : List Byte}
    (ha : ∀ q, (s.consume port typ body.length).accept h ≠ .ok q) (f : State → Nat → State) :
    s.receive port typ h body f = (s.consume port typ body.length).discardMsg port := by
  unfold State.receive
  dsimp only
  split
  next q hq => exact absurd hq (ha q)
  next => rfl

/-! ### The exchange timer -/

/-- A module notes T1 and sends it to its parent (R54). -/
def State.requestTime (s : State) (p : Nat) : State :=
  (s.setTime p { (s.part p).time with t1 := some (s.pnow p) }).send p 0x03 (s.fv .partStatusParent [p]) false 0 s.txn
    (leBytes 8 (s.pnow p))

theorem execTimeExchangeTimer_of_idle {s : State} {p : Nat} (h : s.formed p = false ∨ s.isLead p = true) :
    execTimeExchangeTimer p s = .next s := by
  refine if_neg ?_
  rcases h with h | h <;> simp [h]

theorem execTimeExchangeTimer_of_member {s : State} {p : Nat} (hf : s.formed p = true) (hl : s.isLead p = false) :
    execTimeExchangeTimer p s =
      .next ((if (s.part p).time.t1.isSome then s.exchangeFailed p else s).requestTime p) := if_pos ⟨hf, hl⟩

theorem State.exchangeFailed_of_earlier {s : State} {p : Nat} (h : (s.part p).time.fails + 1 ≠ 16) :
    s.exchangeFailed p = s.setTime p { (s.part p).time with fails := (s.part p).time.fails + 1, t1 := none } := if_neg h

theorem State.exchangeFailed_of_sixteenth {s : State} {p : Nat} (h : (s.part p).time.fails + 1 = 16) :
    s.exchangeFailed p =
      ((s.setTime p { (s.part p).time with fails := (s.part p).time.fails + 1, t1 := none }).setf
        .timePsyncHoldover [p] 1).timeRecord (some p) 4 (s.fv .timePsyncOffsetErr [p]) := if_pos h

/-! ### The answer -/

/-- The offset error is shown, with OUT_OF_BOUND for one beyond 16 ticks after the first exchange (R53, R57). -/
def State.showError (t : State) (p : Nat) (err : Int) : State :=
  let u := t.setf .timePsyncOffsetErr [p] (satSigned 16 err)
  if t.fv .timePsyncSynced [p] = 1 ∧ (err > 16 ∨ err < -16) then u.setf .timePsyncOutOfBound [p] 1 else u

/-- An answer ends HOLDOVER, with a record (R57). -/
def State.endHoldover (t : State) (p : Nat) (err : Int) : State :=
  if t.fv .timePsyncHoldover [p] = 1 then
    ((t.showError p err).setf .timePsyncHoldover [p] 0).timeRecord (some p) 5 (satSigned 16 err)
  else t.showError p err

/-- The exchange is complete: its error is slewed away, and the first one is loaded into the offset (R54, R55). -/
def State.endExchange (t : State) (p : Nat) (err : Int) : State :=
  let u := t.endHoldover p err
  let y := (u.part p).time
  if t.fv .timePsyncSynced [p] = 1 then u.setTime p { y with slew := err, fails := 0, t1 := none }
  else
    (u.setTime p { y with offset := y.offset + BitVec.ofInt 64 err, slew := 0, fails := 0, t1 := none }).setf
      .timePsyncSynced [p] 1

theorem State.part_showError (t : State) (p : Nat) (err : Int) : (t.showError p err).part p = t.part p := by
  unfold State.showError
  dsimp only
  split <;> rfl

theorem State.showError_of_synced {t : State} {p : Nat} (h : t.fv .timePsyncSynced [p] = 1) (err : Int) :
    t.showError p err =
      if err > 16 ∨ err < -16 then (t.setf .timePsyncOffsetErr [p] (satSigned 16 err)).setf .timePsyncOutOfBound [p] 1
      else t.setf .timePsyncOffsetErr [p] (satSigned 16 err) := by
  simp only [State.showError, h, true_and]

theorem State.showError_of_first {t : State} {p : Nat} (h : t.fv .timePsyncSynced [p] ≠ 1) (err : Int) :
    t.showError p err = t.setf .timePsyncOffsetErr [p] (satSigned 16 err) := if_neg fun e => h e.1

theorem State.endHoldover_of_holdover {t : State} {p : Nat} (h : t.fv .timePsyncHoldover [p] = 1) (err : Int) :
    t.endHoldover p err =
      ((t.showError p err).setf .timePsyncHoldover [p] 0).timeRecord (some p) 5 (satSigned 16 err) := if_pos h

theorem State.endHoldover_of_none {t : State} {p : Nat} (h : t.fv .timePsyncHoldover [p] ≠ 1) (err : Int) :
    t.endHoldover p err = t.showError p err := if_neg h

theorem State.endExchange_of_synced {t : State} {p : Nat} (h : t.fv .timePsyncSynced [p] = 1) (err : Int) :
    t.endExchange p err =
      (t.endHoldover p err).setTime p
        { ((t.endHoldover p err).part p).time with slew := err, fails := 0, t1 := none } := if_pos h

theorem State.endExchange_of_first {t : State} {p : Nat} (h : t.fv .timePsyncSynced [p] ≠ 1) (err : Int) :
    t.endExchange p err =
      ((t.endHoldover p err).setTime p
        { ((t.endHoldover p err).part p).time with
          offset := ((t.endHoldover p err).part p).time.offset + BitVec.ofInt 64 err, slew := 0, fails := 0,
          t1 := none }).setf .timePsyncSynced [p] 1 := if_neg h

section
variable {s t : State} {port p : Nat} {h : Hdr} {body : List Byte} (ht : t = s.consume port 0x04 body.length)
  (ha : t.accept h = .ok p)
include ht ha

theorem execTimeRsp_of_lead (hl : t.isLead p = true) : execTimeRsp port h body s = .next (t.confirmAlive p h.src) := by
  subst ht
  rw [execTimeRsp, State.receive_of_accepted ha]
  exact congrArg _ (if_pos hl)

theorem execTimeRsp_of_stray (hl : t.isLead p = false) (h1 : (t.part p).time.t1 ≠ some (leAt body 0 8)) :
    execTimeRsp port h body s = .next t := by
  subst ht
  rw [execTimeRsp, State.receive_of_accepted ha]
  exact congrArg _ ((if_neg (by simp [hl])).trans (if_neg h1))

theorem execTimeRsp_of_answer (hl : t.isLead p = false) (h1 : (t.part p).time.t1 = some (leAt body 0 8)) {err : Int}
    (herr : err = offsetError (leAt body 0 8) (leAt body 8 8) (leAt body 16 8) (t.pnow p)
      (getBits (Config.portDelay (port % 128)) 31 16, getBits (Config.portDelay (port % 128)) 15 0)
      (getBits (t.rv .opticPeerPort (portIx (port % 128))) 47 32,
        getBits (t.rv .opticPeerPort (portIx (port % 128))) 31 16)) :
    execTimeRsp port h body s = .next (t.endExchange p err) := by
  subst ht herr
  rw [execTimeRsp, State.receive_of_accepted ha]
  exact congrArg _ ((if_neg (by simp [hl])).trans (if_pos h1))
end

/-- Settles O20: the timer and the answers by their cases. -/
theorem timeExchange : Obligations.TimeExchange := by
  unfold Obligations.TimeExchange
  intro s p port h body
  refine ⟨execTimeExchangeTimer_of_idle, fun hf hl => ⟨fun h1 => ?_, fun h1 t ht => ⟨fun h16 => ?_, fun h16 u hu => ?_⟩⟩,
    fun t ht => ⟨fun ha => ?_, fun ha => ?_⟩, fun t ht => ⟨fun ha => ?_, fun ha hl => ?_, fun ha hl h1 => ?_,
      fun ha hl h1 err herr shown hshown => ⟨fun hs u hu => ⟨fun hh => ?_, fun hh v hv => ?_⟩,
        fun hs => ⟨fun hh => ?_, fun hh v hv => ?_⟩⟩⟩⟩
  · refine (execTimeExchangeTimer_of_member hf hl).trans ?_
    rw [h1]
    rfl
  · refine (execTimeExchangeTimer_of_member hf hl).trans ?_
    rw [if_pos h1, State.exchangeFailed_of_earlier h16, ← ht]
    rfl
  · refine (execTimeExchangeTimer_of_member hf hl).trans ?_
    rw [if_pos h1, State.exchangeFailed_of_sixteenth h16, ← ht, ← hu]
    rfl
  · subst ht
    exact congrArg _ (State.receive_of_accepted ha _)
  · subst ht
    exact congrArg _ (State.receive_of_refused ha _)
  · subst ht
    exact congrArg _ (State.receive_of_refused ha _)
  · exact execTimeRsp_of_lead ht ha hl
  · exact execTimeRsp_of_stray ht ha hl h1
  · refine (execTimeRsp_of_answer ht ha hl h1 herr).trans ?_
    rw [State.endExchange_of_synced hs, State.endHoldover_of_none hh, State.part_showError,
      State.showError_of_synced hs, ← hshown, ← hu]
  · refine (execTimeRsp_of_answer ht ha hl h1 herr).trans ?_
    rw [State.endExchange_of_synced hs, State.endHoldover_of_holdover hh, State.showError_of_synced hs, ← hshown, ← hu, ← hv]
  · refine (execTimeRsp_of_answer ht ha hl h1 herr).trans ?_
    rw [State.endExchange_of_first hs, State.endHoldover_of_none hh, State.part_showError, State.showError_of_first hs,
      ← hshown]
  · refine (execTimeRsp_of_answer ht ha hl h1 herr).trans ?_
    rw [State.endExchange_of_first hs, State.endHoldover_of_holdover hh, State.showError_of_first hs, ← hshown, ← hv]

end Sys2Proof.Machine
end

section
/-! SUPPORT. The step messages between modules (R345, R468, R476): each meaning on a message that R463 accepts. -/

namespace Sys2Proof.Machine

/-- The step with a ledger index fires or is admitted. -/
def State.hasStep (t : State) (p idx : Nat) : Bool :=
  (t.part p).firing.any (fun x => x.entry.idx == idx) || (t.part p).admitted.any (fun x => x.entry.idx == idx)

theorem State.hasStep_iff {t : State} {p idx : Nat} : t.hasStep p idx = true ↔
    (t.part p).firing.any (fun x => x.entry.idx == idx) = true ∨
      (t.part p).admitted.any (fun x => x.entry.idx == idx) = true := Bool.or_eq_true_iff

theorem State.takeData_of_step {t : State} {p idx : Nat} (h : t.hasStep p idx = true) (off : Nat) (bs : List Byte) :
    t.takeData p idx off bs = t.onStep p idx (fun x => { x with batch := placeBytes x.batch off bs }) := if_pos h

/-- Bytes of a step that is not admitted yet are kept (R476, log 83). -/
theorem State.takeData_of_no_step {t : State} {p idx : Nat} (h : ¬ t.hasStep p idx = true) (off : Nat)
    (bs : List Byte) : t.takeData p idx off bs = t.setPart p { t.part p with
      early := tabSet (fun _ => []) (t.part p).early idx
        (placeBytes (tabGet (fun _ => []) (t.part p).early idx) off bs) } := if_neg h

section
variable {s t : State} {port p : Nat} {h : Hdr} {body : List Byte}

/-! ### Down the combining tree -/

theorem execStepDesc_of_stranger (ht : t = s.consume port 0x06 body.length) (ha : t.accept h = .ok p)
    (hp : t.fromParent p h.src = false) : execStepDesc port h body s = .next t := by
  subst ht
  rw [execStepDesc, State.receive_of_accepted ha]
  exact congrArg _ (if_pos (by simp [hp]))

theorem execStepDesc_of_parent (ht : t = s.consume port 0x06 body.length) (ha : t.accept h = .ok p)
    (hp : t.fromParent p h.src = true) : execStepDesc port h body s =
      .next ((if t.fv .timePsyncSynced [p] = 0 then t
        else (t.setPart p { t.part p with fetched := (t.part p).fetched ++
          [⟨leAt body 0 2 % 4096, BitVec.ofNat 2048 (leAt body 16 256), 0, 0⟩] }).memberAdmit p).passDown p 0x06 body) := by
  subst ht
  rw [execStepDesc, State.receive_of_accepted ha]
  exact congrArg _ (if_neg (by simp [hp]))

theorem execStepData_of_stranger (ht : t = s.consume port 0x07 body.length) (ha : t.accept h = .ok p)
    (hp : t.fromParent p h.src = false) : execStepData port h body s = .next t := by
  subst ht
  rw [execStepData, State.receive_of_accepted ha]
  exact congrArg _ (if_pos (by simp [hp]))

theorem execStepData_of_parent (ht : t = s.consume port 0x07 body.length) (ha : t.accept h = .ok p)
    (hp : t.fromParent p h.src = true) : execStepData port h body s =
      .next ((if t.fv .timePsyncSynced [p] = 0 then t
        else t.takeData p (leAt body 0 2 % 4096) (leAt body 4 4) (body.drop 8)).passDown p 0x07 body) := by
  subst ht
  rw [execStepData, State.receive_of_accepted ha]
  exact congrArg _ (if_neg (by simp [hp]))

/-! ### Up to the lead -/

theorem execStepDone_of_member (ht : t = s.consume port 0x08 body.length) (ha : t.accept h = .ok p)
    (hl : t.isLead p = false) : execStepDone port h body s = .next t := by
  subst ht
  rw [execStepDone, State.receive_of_accepted ha]
  exact congrArg _ (if_neg (by simp [hl]))

section
variable {idx code : Nat} {detail : Word} (hi : idx = leAt body 0 2 % 4096) (hc : code = leAt body 2 2)
  (hd : detail = BitVec.ofNat 64 (leAt body 8 8))
include hi hc hd

/-- The lead takes the part of a share that ran to its end, or of a step that it does not have (R476). -/
theorem execStepDone_of_share (ht : t = s.consume port 0x08 body.length) (ha : t.accept h = .ok p)
    (hl : t.isLead p = true) (hs : ranToEnd (code, detail) = true ∨ ¬ t.hasStep p idx = true) :
    execStepDone port h body s = .next (t.onStep p idx (fun x => x.addShare h.src h.fin body)) := by
  have hno : ¬ (t.hasStep p idx && !ranToEnd (code, detail)) = true := by
    rcases hs with hs | hs <;> simp [hs]
  subst ht hi hc hd
  rw [execStepDone, State.receive_of_accepted ha]
  exact congrArg _ ((if_pos hl).trans (if_neg hno))

/-- A share that did not run to its end aborts the step on every module (R476, log 86). -/
theorem execStepDone_of_failed_share (ht : t = s.consume port 0x08 body.length) (ha : t.accept h = .ok p)
    (hl : t.isLead p = true) (hr : ranToEnd (code, detail) = false) (hs : t.hasStep p idx = true) {u : State}
    (hu : u = (t.onStep p idx (fun x => x.addShare h.src h.fin body)).abortEntry p idx code detail) :
    execStepDone port h body s = .next (if u.spans p then u.sendAbort p idx code detail else u) := by
  have hyes : (t.hasStep p idx && !ranToEnd (code, detail)) = true := by simp [hs, hr]
  subst ht hi hc hd hu
  rw [execStepDone, State.receive_of_accepted ha]
  exact congrArg _ ((if_pos hl).trans (if_pos hyes))

/-- An abort ends the step with its index, and the lead passes it on to every module (R468, R476). -/
theorem execStepAbort_of_step (ht : t = s.consume port 0x0A body.length) (ha : t.accept h = .ok p)
    (hs : t.hasStep p idx = true) {u : State} (hu : u = t.abortEntry p idx code detail) :
    execStepAbort port h body s = .next (if t.isLead p then u.sendAbort p idx code detail else u) := by
  subst ht hi hc hd hu
  rw [execStepAbort, State.receive_of_accepted ha]
  exact congrArg _ (if_pos hs)
end

theorem execStepAbort_of_no_step (ht : t = s.consume port 0x0A body.length) (ha : t.accept h = .ok p)
    (hs : ¬ t.hasStep p (leAt body 0 2 % 4096) = true) : execStepAbort port h body s = .next t := by
  subst ht
  rw [execStepAbort, State.receive_of_accepted ha]
  exact congrArg _ (if_neg hs)

theorem execHist_of_member (ht : t = s.consume port 0x09 body.length) (ha : t.accept h = .ok p)
    (hl : t.isLead p = false) : execHist port h body s = .next t := by
  subst ht
  rw [execHist, State.receive_of_accepted ha]
  exact congrArg _ (if_neg (by simp [hl]))

theorem execHist_of_lead (ht : t = s.consume port 0x09 body.length) (ha : t.accept h = .ok p)
    (hl : t.isLead p = true) : execHist port h body s =
      let u := t.onStep p (leAt body 0 2 % 4096) (fun x => (List.range 512).foldl
        (fun (y : Step) e => y.addEntry (512 * leAt body 2 2 + e) (leAt body (4 + 8 * e) 8) (t.free + 3 * e))
        { x with layers := max x.layers (leAt body 2 2 + 1) })
      .next { u with free := u.free + 1536 } := by
  subst ht
  rw [execHist, State.receive_of_accepted ha]
  exact congrArg _ (if_pos hl)
end

/-- Settles O44: each message by its cases. -/
theorem stepMessages : Obligations.StepMessages := by
  unfold Obligations.StepMessages
  intro s port p h body at_ entry idx code detail names shared counted
  have named {t : State} : names t ↔ t.hasStep p idx = true := State.hasStep_iff.symm
  refine ⟨fun ha => ⟨fun hp => ?_, fun hp => ⟨fun h0 => ?_, fun h0 => ?_⟩⟩,
    fun ha => ⟨fun hp => ?_, fun hp => ⟨fun h0 => ?_, fun h0 => ⟨fun hn => ?_, fun hn => ?_⟩⟩⟩,
    fun ha => ⟨fun hl => ?_, fun hl => ⟨fun hno => ?_, fun hr hn t ht => ?_⟩⟩, fun ha => ⟨fun hl => ?_, fun hl => ?_⟩,
    fun ha => ⟨fun hn => ?_, fun hn t ht => ⟨fun hl => ?_, fun hl => ?_⟩⟩, fun n c hc ha => ?_⟩
  · exact execStepDesc_of_stranger rfl ha hp
  · exact (execStepDesc_of_parent rfl ha hp).trans (by rw [if_pos h0])
  · exact (execStepDesc_of_parent rfl ha hp).trans (by rw [if_neg h0])
  · exact execStepData_of_stranger rfl ha hp
  · exact (execStepData_of_parent rfl ha hp).trans (by rw [if_pos h0])
  · exact (execStepData_of_parent rfl ha hp).trans (by rw [if_neg h0, State.takeData_of_step (named.1 hn)])
  · exact (execStepData_of_parent rfl ha hp).trans (by rw [if_neg h0, State.takeData_of_no_step (hn ∘ named.2)])
  · exact execStepDone_of_member rfl ha hl
  · exact execStepDone_of_share rfl rfl rfl rfl ha hl (hno.imp_right (· ∘ named.2))
  · exact execStepDone_of_failed_share rfl rfl rfl rfl ha hl hr (named.1 hn) ht
  · exact execHist_of_lead rfl ha hl
  · exact execHist_of_member rfl ha hl
  · exact execStepAbort_of_no_step rfl ha (hn ∘ named.2)
  · exact (execStepAbort_of_step rfl rfl rfl rfl ha (named.1 hn) ht).trans (congrArg _ (if_pos hl))
  · exact (execStepAbort_of_step rfl rfl rfl rfl ha (named.1 hn) ht).trans (congrArg _ (if_neg (Bool.eq_false_iff.1 hl)))
  · simp only [List.mem_cons, List.not_mem_nil, or_false, Prod.mk.injEq] at hc
    rcases hc with ⟨rfl, rfl⟩ | ⟨rfl, rfl⟩ | ⟨rfl, rfl⟩ | ⟨rfl, rfl⟩ | ⟨rfl, rfl⟩ <;>
      exact congrArg _ (State.receive_of_refused ha _)

end Sys2Proof.Machine
end

section
/-! SUPPORT. Scrub bursts (R373), row refreshes (R374), spare rows (R375) and the tag window (R366, R379): each command by its
guards. -/

namespace Sys2Proof.Machine

/-! ### Scrub bursts -/

/-- What a scrub burst makes of the tile at an address whose number in its stack is t: a FREE or DIRTY page is skipped, the
codewords of any other are checked and written back corrected (R373). -/
def State.scrubTile (s : State) (t a : Nat) : State :=
  if t < 2 ^ 25 ∧ tagKind (s.hbm.tag (a / 65536)) < 2 then s
  else
    let owner := if t < 2 ^ 25 ∧ tagKind (s.hbm.tag (a / 65536)) = 2 then some (s.hbm.tag (a / 65536) % 32) else none
    let u := ((s.activate a).checkWords owner 3 (tileLines a)).1
    u.setHbm (u.hbm.mend a)

theorem execScrubBurst_of_selfRefresh {s : State} {die : Nat} (h : s.selfRefresh (die % 8) = true) (stack : Nat) :
    execScrubBurst die stack s = .next s := if_pos h

section
variable {s : State} {die stack k t : Nat} (h : s.selfRefresh (die % 8) = false) (hk : k = 4 * (die % 8) + stack % 4)
  (ht : t = tabGet (fun _ => 0) s.hbm.scrubAt k)
include h hk ht

/-- Within a pass a burst moves on to the next tile. -/
theorem execScrubBurst_of_pass {u : State} (hu : u = s.scrubTile t (tileOf (die % 8) (stack % 4) t))
    (hlast : t + 1 ≠ 2 ^ 25 + 2 ^ 14) : execScrubBurst die stack s =
      .next (u.setHbm { u.hbm with scrubAt := tabSet (fun _ => 0) u.hbm.scrubAt k (t + 1) }) := by
  subst hu ht hk
  refine (if_neg (Bool.eq_false_iff.1 h)).trans ?_
  simp only [decide_eq_false hlast]
  rfl

/-- The last tile ends the pass: the module time is recorded, and the counts of corrections start again (R373, R375). -/
theorem execScrubBurst_of_pass_end {u : State} (hu : u = s.scrubTile t (tileOf (die % 8) (stack % 4) t))
    (hlast : t + 1 = 2 ^ 25 + 2 ^ 14) : execScrubBurst die stack s =
      let v := u.setHbm { u.hbm with
        scrubAt := tabSet (fun _ => 0) u.hbm.scrubAt k 0
        fixes := u.hbm.fixes.filter (fun e => stackOf (e.1 * 4096) != [die % 8, stack % 4]) }
      .next (v.setv .hbmScrubPass [die % 8, stack % 4] v.now) := by
  subst hu ht hk
  refine (if_neg (Bool.eq_false_iff.1 h)).trans ?_
  simp only [decide_eq_true hlast]
  rfl
end

/-! ### Refreshes of rows -/

theorem execTargetedRefresh_of_still {s : State} {row : Nat} (h : s.selfRefresh (dieOfRow row) = true ∨
    (tabGet (fun _ => 0) s.hbm.acts row < s.fa .hbmRdistCtlThreshold [dieOfRow row] ∧
      s.hbm.due.any (fun e => e.1 == row) = false)) : execTargetedRefresh row s = .next s := by
  refine if_pos ?_
  rcases h with h | ⟨hlow, hdue⟩
  · exact .inr h
  · exact .inl ⟨hlow, by rw [hdue]; rfl⟩

theorem execTargetedRefresh_of_due {s : State} {row : Nat} (hr : s.selfRefresh (dieOfRow row) = false)
    (h : s.fa .hbmRdistCtlThreshold [dieOfRow row] ≤ tabGet (fun _ => 0) s.hbm.acts row ∨
      s.hbm.due.any (fun e => e.1 == row) = true) : execTargetedRefresh row s = .next (s.refreshNear row) := by
  refine if_neg ?_
  rintro (⟨hlow, hdue⟩ | hself)
  · rcases h with h | h
    · omega
    · simp [h] at hdue
  · rw [hr] at hself
    exact absurd hself (by decide)

/-! ### Spare rows -/

/-- The number of a row's stack in the module. -/
def stackNumber (row : Nat) : Nat := 4 * (stackOf (row * 4096)).getD 0 0 + (stackOf (row * 4096)).getD 1 0

/-- The place of a row's bank in the table of used spares. -/
def spareKey (row : Nat) : Nat := (stackNumber row * 32 + channelOfRow row) * 1024 + Config.bankOf row % 1024

/-- A row is copied corrected to the next spare of its bank, and its counts start again (R375). -/
def State.useSpare (s : State) (row : Nat) : State :=
  let t := s.activate (row * 4096)
  t.setHbm { t.hbm.mend (row * 4096) with
    spares := tabSet (fun _ => 0) t.hbm.spares (spareKey row) (tabGet (fun _ => 0) s.hbm.spares (spareKey row) + 1)
    fixes := tabSet (fun _ => 0) t.hbm.fixes row 0
    acts := tabSet (fun _ => 0) t.hbm.acts row 0
    due := t.hbm.due.filter (fun e => e.1 != row) }

/-- The MEMORY record of a bank without a spare left (R375). -/
def State.sparesOutRecord (s : State) (row : Nat) : State :=
  s.bbWrite none 0x31 3 (payloadOf [(0, 1, stackNumber row), (1, 1, channelOfRow row), (2, 1, Config.bankOf row % 1024 % 256)])

/-- SPARES_OUT of a row's stack is set, with an interrupt where the bit is new (R375, R583). -/
def State.setSparesOut (t : State) (row : Nat) : State :=
  let ix := stackOf (row * 4096)
  let u := t.setf .hbmStackStatusSparesOut ix 1
  if t.fv .hbmStackStatusSparesOut ix == 1 then u else u.hbmVector .hbmStackStatusSparesOut ix

theorem State.setSparesOut_of_set {t : State} {row : Nat}
    (h : t.fv .hbmStackStatusSparesOut (stackOf (row * 4096)) = 1) :
    t.setSparesOut row = t.setf .hbmStackStatusSparesOut (stackOf (row * 4096)) 1 := if_pos (beq_iff_eq.2 h)

theorem State.setSparesOut_of_new {t : State} {row : Nat}
    (h : t.fv .hbmStackStatusSparesOut (stackOf (row * 4096)) ≠ 1) :
    t.setSparesOut row = (t.setf .hbmStackStatusSparesOut (stackOf (row * 4096)) 1).hbmVector .hbmStackStatusSparesOut
      (stackOf (row * 4096)) := if_neg (mt beq_iff_eq.1 h)

/-- A worn row of a die that is not in self refresh is remapped while its bank has a spare. -/
theorem remap_not_refused {s : State} {row : Nat} (hr : s.selfRefresh (dieOfRow row) = false)
    (hw : 8 ≤ tabGet (fun _ => 0) s.hbm.fixes row) (hn : tabGet (fun _ => 0) s.hbm.spares (spareKey row) < 32) :
    ¬ (tabGet (fun _ => 0) s.hbm.fixes row < 8 ∨ tabGet (fun _ => 0) s.hbm.spares (spareKey row) ≥ 32 ∨
      s.selfRefresh (dieOfRow row) = true) := by
  rw [hr]
  rintro (h | h | h)
  · exact absurd hw (Nat.not_le.2 h)
  · exact absurd hn (Nat.not_lt.2 h)
  · exact absurd h (by decide)

section
variable {s : State} {die stack channel place row : Nat} (hrow : row = rowAt (die % 8) (stack % 4) (channel % 32) place)
include hrow

theorem execRowRemap_of_still (h : s.selfRefresh (dieOfRow row) = true ∨ tabGet (fun _ => 0) s.hbm.fixes row < 8 ∨
    32 ≤ tabGet (fun _ => 0) s.hbm.spares (spareKey row)) : execRowRemap die stack channel place s = .next s := by
  subst hrow
  refine if_pos ?_
  rcases h with h | h | h
  · exact .inr (.inr h)
  · exact .inl h
  · exact .inr (.inl h)

section
variable (hr : s.selfRefresh (dieOfRow row) = false) (hw : 8 ≤ tabGet (fun _ => 0) s.hbm.fixes row)
include hr hw

/-- A worn row of a bank with more than one spare left takes one. -/
theorem execRowRemap_of_spare (hn : tabGet (fun _ => 0) s.hbm.spares (spareKey row) < 31) :
    execRowRemap die stack channel place s = .next (s.useSpare row) := by
  subst hrow
  exact (if_neg (remap_not_refused hr hw (by omega))).trans (if_pos (Nat.succ_lt_succ hn))

/-- The last spare of a bank sets SPARES_OUT with a record. -/
theorem execRowRemap_of_last_spare (hn : tabGet (fun _ => 0) s.hbm.spares (spareKey row) = 31) :
    execRowRemap die stack channel place s = .next (((s.useSpare row).setSparesOut row).sparesOutRecord row) := by
  subst hrow
  refine (if_neg (remap_not_refused hr hw (by omega))).trans (if_neg ?_)
  exact Nat.not_lt.2 (Nat.le_of_eq (congrArg (· + 1) hn.symm))
end
end

/-! ### The tag window -/

theorem execTagSelCapture_of_missed {s : State} {die m : Nat} (h : s.missed (Rg.hbmTagSel.at [die % 8]) = some m)
    (w : Word) : execTagSelCapture die w s = .next (s.noteMiss (Rg.hbmTagSel.at [die % 8]) m) := by
  simp only [execTagSelCapture, h]

theorem execTagSelCapture_of_reached {s : State} {die : Nat} (h : s.missed (Rg.hbmTagSel.at [die % 8]) = none)
    {w : Word} {t : State} (ht : t = s.setf .hbmTagSelPage [die % 8] (w.toNat % 2 ^ 23)) :
    execTagSelCapture die w s =
      .next (t.setf .hbmTagDataTag [die % 8] (t.shownTag ((die % 8) * 2 ^ 23 + w.toNat % 2 ^ 23))) := by
  subst ht
  simp only [execTagSelCapture, h]

/-- Settles O55: each command by its guards. -/
theorem memoryMaintenance : Obligations.MemoryMaintenance := by
  unfold Obligations.MemoryMaintenance
  intro s die stack channel place row miss rows w k at_ t a tag owner checked scrubbed moved ended d ix near clear bank
    number key n worn open_ used out record remap page window
  have hscrub : scrubbed = s.scrubTile t a := rfl
  have hused : s.useSpare row = used := rfl
  refine ⟨fun hr => ?_, fun hr => ⟨fun hlast => ?_, fun hlast => ?_⟩, fun h => ?_, fun hr h => ?_, rfl,
    fun hrow => ⟨fun h => ?_, fun hr hw => ⟨fun hn => ?_, fun hn hout => ?_, fun hn hout => ?_⟩⟩, fun hm => ?_, fun hm => ?_⟩
  · exact execScrubBurst_of_selfRefresh hr stack
  · exact execScrubBurst_of_pass hr rfl rfl hscrub hlast
  · exact execScrubBurst_of_pass_end hr rfl rfl hscrub hlast
  · exact execTargetedRefresh_of_still h
  · exact execTargetedRefresh_of_due hr h
  · exact execRowRemap_of_still hrow h
  · exact execRowRemap_of_spare hrow hr hw hn
  · refine (execRowRemap_of_last_spare hrow hr hw hn).trans ?_
    rw [hused, State.setSparesOut_of_set hout]
    rfl
  · refine (execRowRemap_of_last_spare hrow hr hw hn).trans ?_
    rw [hused, State.setSparesOut_of_new hout]
    rfl
  · exact execTagSelCapture_of_missed hm w
  · exact execTagSelCapture_of_reached hm rfl

end Sys2Proof.Machine
end

section
/-! SUPPORT. Firings of strokes (R84, R90, R115 to R160): what a firing does around its family's effect, case by case, and the
requests to dispenser words (R152 to R154). -/

namespace Sys2Proof.Machine

/-! ### A firing around its effect -/

theorem State.fire_of_unmatched {s : State} {site kind : Nat} (h : s.matched site kind = none)
    (effect : State → Firing → Option (State × Sends)) : s.fire site kind effect = s := by
  rw [State.fire, h]

section
variable {s : State} {site kind : Nat} {f : Firing} (h : s.matched site kind = some f)
  {effect : State → Firing → Option (State × Sends)}
include h

/-- An effect that cannot take place leaves the stroke waiting. -/
theorem State.fire_of_waiting (he : effect (s.consumed f) f = none) : s.fire site kind effect = s.outputFull site := by
  simp only [State.fire, h, he]

/-- An effect that takes place ends the firing where its outputs have their credits. -/
theorem State.fire_of_effect {r : State × Sends} (he : effect (s.consumed f) f = some r) :
    s.fire site kind effect = if s.roomFor site r.2 then r.1.fired f r.2 else s.outputFull site := by
  simp only [State.fire, h, he]
end

/-- The commands of a family fire the strokes of a kind with an effect that always takes place. -/
def FiresWith (c : Nat → Instr) (kind : Nat) (effect : State → Firing → State × Sends) : Prop :=
  ∀ (s : State) (site : Nat), (s.matched site kind = none → exec (c site) s = .next s) ∧
    ∀ f, s.matched site kind = some f →
      let r := effect (s.consumed f) f
      (s.roomFor site r.2 = true → exec (c site) s = .next (r.1.fired f r.2)) ∧
      (s.roomFor site r.2 = false → exec (c site) s = .next (s.outputFull site))

/-- The two facts that a stroke needs are its arm in exec and what its effect answers; both hold by definition where the effect
has no branch. -/
theorem firesWith_of_effect {c : Nat → Instr} {kind : Nat} (eff : State → Firing → Option (State × Sends))
    {effect : State → Firing → State × Sends}
    (hc : ∀ site s, exec (c site) s = .next (s.fire site kind eff) := by intros; rfl)
    (he : ∀ t f, eff t f = some (effect t f) := by intros; rfl) : FiresWith c kind effect := by
  intro s site
  rw [hc]
  refine ⟨fun h => ?_, fun f h => ⟨fun hr => ?_, fun hr => ?_⟩⟩
  · rw [State.fire_of_unmatched h]
  · rw [State.fire_of_effect h (he _ f), if_pos hr]
  · rw [State.fire_of_effect h (he _ f), if_neg (Bool.eq_false_iff.1 hr)]

/-! ### Requests to dispenser words -/

/-- The operation that a stroke asks of a dispenser word. -/
def Firing.dispenserOp (f : Firing) (kind x : Nat) : AtomOp :=
  ⟨kind, 16 * f.w.low 31 16, x, 0, 1, f.site, f.w.low 34 33, 0, f.outTag, f.w.low 32 32 == 1, 0⟩

/-- Four dispenser words lie in a word of the banks. -/
theorem Firing.dispenserOp_bank (f : Firing) (kind x : Nat) :
    (f.dispenserOp kind x).addr / 64 % 16 = f.w.low 31 16 / 4 % 16 :=
  congrArg (· % 16) (Nat.mul_div_mul_left _ 4 (by decide : 0 < 16))

section
variable {t : State} {f : Firing} {m bank : Nat} (h : t.dispenserSite f = some m)
  (hb : bank = f.w.low 31 16 / 4 % 16)
include h hb

theorem State.dispenserRequest_of_room (hq : ((t.site m).mu.atomQueue bank).length < 16) (kind x : Nat) :
    t.dispenserRequest f kind x = some (t.setMu m { (t.site m).mu with
      atoms := tabSet (fun _ => []) (t.site m).mu.atoms bank
        ((t.site m).mu.atomQueue bank ++ [f.dispenserOp kind x]) }, []) := by
  rw [hb, ← f.dispenserOp_bank kind x] at hq ⊢
  simp only [State.dispenserRequest, h]
  exact congrArg (Option.map _) (if_pos hq)

theorem State.dispenserRequest_of_full (hq : 16 ≤ ((t.site m).mu.atomQueue bank).length) (kind x : Nat) :
    t.dispenserRequest f kind x = none := by
  rw [hb, ← f.dispenserOp_bank kind x] at hq
  simp only [State.dispenserRequest, h]
  exact congrArg (Option.map _) (if_neg (Nat.not_lt.2 hq))
end

theorem State.dispenserRequest_of_no_site {t : State} {f : Firing} (h : t.dispenserSite f = none) (kind x : Nat) :
    t.dispenserRequest f kind x = some (t, []) := by
  rw [State.dispenserRequest, h]

/-- A stroke without outputs needs no credits. -/
theorem State.roomFor_nil (s : State) (site : Nat) : s.roomFor site [] = true :=
  List.all_eq_true.2 fun _ _ => decide_eq_true (Nat.zero_le _)

/-- The commands of a family put a request to a dispenser word in the queue of the word's bank, where it has room. -/
def AsksDispenser (c : Nat → Instr) (kind opKind : Nat) (x : Firing → Nat) : Prop :=
  ∀ (s : State) (site : Nat), (s.matched site kind = none → exec (c site) s = .next s) ∧
    ∀ f, s.matched site kind = some f →
      let t := s.consumed f
      let op := f.dispenserOp opKind (x f)
      (t.dispenserSite f = none → exec (c site) s = .next (t.fired f [])) ∧
      (∀ m, t.dispenserSite f = some m →
        let q := (t.site m).mu.atomQueue (f.w.low 31 16 / 4 % 16)
        (q.length < 16 → exec (c site) s = .next ((t.setMu m { (t.site m).mu with
          atoms := tabSet (fun _ => []) (t.site m).mu.atoms (f.w.low 31 16 / 4 % 16) (q ++ [op]) }).fired f [])) ∧
        (16 ≤ q.length → exec (c site) s = .next (s.outputFull site)))

theorem asksDispenser_of_effect {c : Nat → Instr} {kind opKind : Nat} {x : Firing → Nat}
    (hc : ∀ site s,
      exec (c site) s = .next (s.fire site kind (fun t f => t.dispenserRequest f opKind (x f))) := by intros; rfl) :
    AsksDispenser c kind opKind x := by
  intro s site
  rw [hc]
  refine ⟨fun h => ?_, fun f h => ⟨fun hn => ?_, fun m hm => ⟨fun hq => ?_, fun hq => ?_⟩⟩⟩
  · rw [State.fire_of_unmatched h]
  · rw [State.fire_of_effect h (State.dispenserRequest_of_no_site hn _ _), if_pos (s.roomFor_nil site)]
  · rw [State.fire_of_effect h (State.dispenserRequest_of_room hm rfl hq _ _), if_pos (s.roomFor_nil site)]
  · rw [State.fire_of_waiting h (State.dispenserRequest_of_full hm rfl hq _ _)]

/-! ### The effects that branch -/

/-- SYNC WAIT: the unit waits in S0 where the semaphore cannot give the count (R151). -/
theorem effSyncWait_eq (t : State) (f : Firing) : effSyncWait t f = some (match f.w.syncMu f.site with
    | none => (t, [])
    | some m =>
      let r := t.semWait m (f.w.low 35 30) (opposite (f.w.low 37 36)) (f.w.low 29 24 + 1)
      (if r.2 then r.1 else r.1.setCu f.site { (r.1.site f.site).cu with waiting := some (m, f.w.low 35 30) }, [])) := by
  rw [effSyncWait]
  cases f.w.syncMu f.site with
  | none => rfl
  | some m => exact (apply_ite (fun u => some (u, [])) _ _ _).symm

/-- SYNC SIGNAL adds the count to the semaphore of the memory unit that it names (R151). -/
theorem effSyncSignal_eq (t : State) (f : Firing) : effSyncSignal t f = some (match f.w.syncMu f.site with
    | none => t
    | some m => t.semSignal f.part m (f.w.low 35 30) (f.w.low 29 24 + 1), []) := by
  rw [effSyncSignal]
  cases f.w.syncMu f.site <;> rfl

/-- The scale of an FP8 page, taken out of the values of an append's operand (R297, R310). -/
def unscaleFp8 (scale : Nat) (v : Num) : Num :=
  match v with
  | .fin n m e => .fin n m (e + 127 - Int.ofNat scale)
  | x => x

/-- APPEND: header and operand in the page's format, with the scale of an FP8 page taken out (R158, R310). -/
theorem effAppend_eq (t : State) (f : Firing) : effAppend t f =
    let c := (t.site f.site).cu
    let slot := tagIter f.outTag % 16384
    let hdr := slot + f.w.low 38 31 * 2 ^ 16 + (f.w.low 30 24 + 128 * f.w.low 39 39) * 2 ^ 24 + f.w.low 23 16 * 2 ^ 32
    let kept := tabGet (fun _ => 0) c.kvFmts slot
    let fmt := if kept = 0 then 1 else kept
    let scale := tabGet (fun _ => 0) c.kvScales (2 * f.w.low 38 31 + f.w.low 39 39)
    let l := (t.srcLanes f f.w.srcA f.w.fmtA 0).map ofFp32
    let l := if fmt = 3 ∨ fmt = 4 then l.map (unscaleFp8 scale) else l
    some (t, (dstPorts f.w.dst).map (fun p => (p, outOperand f.outTag
      (BitVec.ofNat 512 hdr :: encodeOperand fmt (List.replicate 64 rne) true 0 l)))) := by
  simp only [effAppend, Bool.or_eq_true, decide_eq_true_eq]
  rfl

/-- Settles O47: each stroke by the effect of its row; the requests of CLAIM, ARM and RETIRE by the room in the queue of
their bank. -/
theorem strokesFireWithTheirEffect : Obligations.StrokesFireWithTheirEffect := by
  unfold Obligations.StrokesFireWithTheirEffect
  intro fires asks cu lanesA bin un red copy bank
  rw [show fires = FiresWith from rfl, show asks = AsksDispenser from rfl]
  exact ⟨⟨firesWith_of_effect effNop, firesWith_of_effect effMove, firesWith_of_effect effMatrix,
      firesWith_of_effect effAccZero, firesWith_of_effect effAccRead, firesWith_of_effect effAccAdd,
      firesWith_of_effect effAccLoad⟩,
    ⟨firesWith_of_effect effVadd, firesWith_of_effect effVsub, firesWith_of_effect effVmul,
      firesWith_of_effect effVfma, firesWith_of_effect effVmin, firesWith_of_effect effVmax,
      firesWith_of_effect effVcmp, firesWith_of_effect effVsel, firesWith_of_effect effVexp2,
      firesWith_of_effect effVlog2, firesWith_of_effect effVrcp, firesWith_of_effect effVrsq,
      firesWith_of_effect effVabs, firesWith_of_effect effVneg, firesWith_of_effect effVmov⟩,
    ⟨firesWith_of_effect effRedSum, firesWith_of_effect effRedMax, firesWith_of_effect effRedMin,
      firesWith_of_effect effRedSumsq, firesWith_of_effect effPack⟩,
    ⟨firesWith_of_effect effSteer, firesWith_of_effect effMerge, firesWith_of_effect effTagAction,
      firesWith_of_effect effTagSet, firesWith_of_effect effTagData, firesWith_of_effect effSend,
      firesWith_of_effect effSendEosAfter, firesWith_of_effect effSendEosOnly⟩,
    ⟨firesWith_of_effect effSyncWait (he := effSyncWait_eq),
      firesWith_of_effect effSyncSignal (he := effSyncSignal_eq), asksDispenser_of_effect, asksDispenser_of_effect,
      asksDispenser_of_effect, firesWith_of_effect effRouteSelect, firesWith_of_effect effRouteDispatch,
      firesWith_of_effect effAppend (he := effAppend_eq)⟩,
    firesWith_of_effect effScoreRmax, firesWith_of_effect effScoreExpd, firesWith_of_effect effScoreRsum,
    firesWith_of_effect effScoreMerge⟩

end Sys2Proof.Machine
end

section
/-! SUPPORT. The switch unit's commands (R82, R86, R89 to R100, R147, R161), case by case: links and credits, arrivals and
end-of-stream firings, steering and merging entries. -/

namespace Sys2Proof.Machine

/-! ### Links (R90 to R94) -/

/-- The first slot of a port in rotation with a transfer and a credit: its key, the source and the transfer. -/
def Site.nextSlot (x : Site) (port : Nat) : Option (Nat × SlotSrc × Xfer) :=
  let turn := tabGet (fun _ => 0) x.su.turn port
  ((List.range 8).filterMap (fun j => (x.waiting (slotKey port ((turn + j) % 8))).map (fun w =>
    (slotKey port ((turn + j) % 8), w)))).find? (fun r => decide (x.su.credit r.1 > 0))

/-- A transfer leaves its source for an output slot. -/
def Site.leave (x : Site) (k : Nat) : SlotSrc → Su
  | .input j => x.takeBranch j k
  | .entry j => x.su.setEntry j { x.su.entry j with outq := (x.su.entry j).outq.filter (fun q => q.1 != k) }

/-- A transfer leaves on an output slot: its credit is spent, the rotation moves on, and the entry that it came from
settles. -/
def State.leaveSlot (s : State) (site port k : Nat) (src : SlotSrc) : State :=
  let u := (s.site site).leave k src
  let t := (s.setSu site { u.setCredit k (u.credit k - 1) with
    turn := tabSet (fun _ => 0) u.turn port ((k % 8 + 1) % 8) }).bump .siteSuXfer [site, port] 1
  match src with
  | .input _ => t
  | .entry j => t.steerSettle site j

theorem execSlotTransfer_of_unused {s : State} {site : Nat} (h : s.worksFor site = none) (port : Nat) :
    execSlotTransfer site port s = .next s := by
  rw [execSlotTransfer, h]

section
variable {s : State} {site p port : Nat} (hw : s.worksFor site = some p)
include hw

theorem execSlotTransfer_of_still (h : 4 < port ∨ s.portOpen p site port = false ∨ (s.site site).nextSlot port = none) :
    execSlotTransfer site port s = .next s := by
  rcases or_assoc.2 h with h | h
  · simp only [execSlotTransfer, hw, if_pos h]
  · simp only [Site.nextSlot] at h
    simp only [execSlotTransfer, hw, h, ite_self]

variable {k : Nat} {src : SlotSrc} {f : Xfer} (hopen : s.portOpen p site port = true)
  (hn : (s.site site).nextSlot port = some (k, src, f)) {t : State} (ht : t = s.leaveSlot site port k src)
include hopen hn ht

theorem execSlotTransfer_of_local (h4 : port = 4) : execSlotTransfer site port s =
    .next (t.setSu site ((t.site site).su.setOutFifo (k % 8) ((t.site site).su.outFifo (k % 8) ++ [f]))) := by
  subst ht
  simp only [Site.nextSlot] at hn
  simp only [execSlotTransfer, hw, hn]
  refine (if_neg (by simp [hopen, h4.le])).trans ((if_pos h4).trans ?_)
  cases src <;> rfl

theorem execSlotTransfer_of_neighbour {m : Nat} (h4 : port < 4) (hm : neighbour site port = some m) :
    execSlotTransfer site port s = .next (t.setSu m ((t.site m).su.push (slotKey (opposite port) (k % 8)) [f])) := by
  subst ht
  simp only [Site.nextSlot] at hn
  simp only [execSlotTransfer, hw, hn, hm]
  refine (if_neg (by simp [hopen, h4.le])).trans ((if_neg h4.ne).trans ?_)
  cases src <;> rfl
end

/-! ### Credits (R90) -/

/-- One place that a receiver owes to its sender is paid. -/
def State.payOwed (s : State) (site k : Nat) : State :=
  s.setSu site { (s.site site).su with
    owed := tabSet (fun _ => 0) (s.site site).su.owed k (tabGet (fun _ => 0) (s.site site).su.owed k - 1) }

/-- A sending end gains a credit. -/
def State.giveCredit (s : State) (site k : Nat) : State :=
  s.setSu site ((s.site site).su.setCredit k ((s.site site).su.credit k + 1))

/-- The hatch engines of a site send what a new credit lets them send. -/
def State.pumpEngines (s : State) (site : Nat) : State :=
  (List.range 4).foldl (fun v j => match v.hatch site j with
    | some h => if h.d.mode = 0 then (v.sendReady h).endPass h else if h.d.mode = 2 then v.queueSend h else v
    | none => v) s

section
variable {s : State} {site port slot k n : Nat} (hk : k = slotKey port (slot % 8))
  (hn : n = tabGet (fun _ => 0) (s.site site).su.owed k)
include hk hn

theorem execCreditReturn_of_still (h : n = 0 ∨ 5 < port) : execCreditReturn site port slot s = .next s := by
  subst hk hn
  exact if_pos h

/-- A credit goes to the sender at the other end of the slot. -/
theorem execCreditReturn_of_owed (h : 0 < n) (h5 : port ≤ 5) {t : State} (ht : t = s.payOwed site k) :
    execCreditReturn site port slot s =
      if port < 4 then match neighbour site port with
        | some m => .next (t.giveCredit m (slotKey (opposite port) (slot % 8)))
        | none => .next t
      else if port = 4 then
        let v := (t.giveCredit site (slotKey 5 (slot % 8))).pumpEngines site
        .next (match v.worksFor site with
          | some q => v.dispPump q
          | none => v)
      else .next (t.giveCredit site (slotKey 4 (slot % 8))) := by
  subst hk hn ht
  exact if_neg (by omega)
end

/-! ### Arrivals at a compute unit (R82) -/

theorem execOperandArrival_of_unused {s : State} {site : Nat} (h : s.worksFor site = none) (slot : Nat) :
    execOperandArrival site slot s = .next s := by
  simp only [execOperandArrival, h]

section
variable {s : State} {site slot l port : Nat} (hl : l = slot % 8) (hp : port = (s.site site).front.cuPort l)
include hl hp

theorem execOperandArrival_of_still (h : isMu site = true ∨ headOperand ((s.site site).su.outFifo l) = none ∨
    s.matchFree site port = 0) : execOperandArrival site slot s = .next s := by
  subst hl hp
  unfold execOperandArrival
  dsimp only
  split
  next o rest _ ho =>
    rw [if_pos]
    rw [ho] at h
    simpa using h
  next => rfl

theorem execOperandArrival_of_room {p : Nat} (hw : s.worksFor site = some p) (hmu : isMu site = false) {o : Operand}
    {rest : List Xfer} (ho : headOperand ((s.site site).su.outFifo l) = some (o, rest)) (hf : 0 < s.matchFree site port) :
    execOperandArrival site slot s =
      .next ((s.setSu site ((s.site site).su.take l rest)).deliverTo site port o) := by
  subst hl hp
  simp only [execOperandArrival, hw, ho]
  exact if_neg (by simp [hmu, hf.ne'])
end

/-! ### End-of-stream firings (R86, R129, R147, R161) -/

/-- The compute unit after an end-of-stream firing took a marker of the entry's context off each of its ports. -/
def Cu.endEntry (c : Cu) (e i : Nat) : Cu :=
  { c with
    stores := (trigPorts e).foldl (fun l q =>
      l.set q (removeFirst (fun o => o.eos && tagCtx o.tag == trigCtx e) (l.getD q []))) c.stores
    ended := if c.ended.contains i then c.ended else c.ended ++ [i] }

/-- The end of an end-of-stream firing of an entry e that leaves the compute unit as c: what waits of the context goes, the
marker is delivered at a response port, the outputs leave, and a token is spent. -/
def State.firedEos (s : State) (c : Cu) (e : Nat) (f : Firing) (out : Sends) (resp : Option Nat) : State :=
  let t := (s.setCu f.site c).flushPorts f.part f.site (trigCtx e) f.w (trigPorts e)
  let t := match resp with
    | some q => t.deliverTo f.site q (marker f.outTag)
    | none => t
  let t := ((t.sendOut f.site out).firingTrace f true).progress f.part f.site
  t.setPart f.part { t.part f.part with tokens := (t.part f.part).tokens - 1 }

theorem execEndOfStreamFiring_of_still {s : State} {site : Nat}
    (h : s.mayFire site = none ∨ ∀ a b, (s.site site).cu.choose (s.site site).front ≠ some (a, true, b)) :
    execEndOfStreamFiring site s = .next s := by
  unfold execEndOfStreamFiring
  split
  · rfl
  next p hm =>
    dsimp only
    split
    next i tag hc =>
      rcases h with h | h
      · exact absurd (hm.symm.trans h) (by simp)
      · exact absurd hc (h i tag)
    next => rfl

section
variable {s : State} {site p i tag e : Nat} {w : Stroke} {x : Site} (hx : x = s.site site)
  (hm : s.mayFire site = some p) (hc : x.cu.choose x.front = some (i, true, tag))
  (he : e = tabGet (fun _ => 0) x.front.trig i) (hw : w = (tabGet (fun _ => 0) x.front.strokes (trigStroke e)).toNat)
include hx hm hc he hw

/-- A MERGE counts an input of its group, and at the last one sends the marker of the highest input iteration (R147). -/
theorem execEndOfStreamFiring_of_merge (hop : w.opcode = 0x61) {c : Cu} (hcu : c = x.cu.endEntry e i) {g : Nat × Nat}
    (hg : g = c.merge.getD (w.low 39 38) (0, 0)) {last : Bool} (hlast : last = decide (g.1 + 1 > w.low 37 36)) {sent : Nat}
    (hsent : sent = w.outTag (mkTag (tagCtx tag) (max g.2 (tagIter tag))) (tabGet (fun _ => 0) x.cu.issue i)) {out : Sends}
    (hout : out = if last then (dstPorts w.dst).map (fun q => (q, marker sent)) else []) :
    execEndOfStreamFiring site s = .next (if s.roomFor site out then
      s.firedEos { c with merge := c.merge.set (w.low 39 38) (if last then (0, 0) else (g.1 + 1, max g.2 (tagIter tag))) }
        e ⟨site, p, i, w, tag, sent, []⟩ out none
      else s.outputFull site) := by
  subst hx
  simp only [execEndOfStreamFiring, hm, hc, ← he, ← hw, hop]
  subst hout hsent hlast hg hcu
  rw [if_neg (by simp), apply_ite Host.Outcome.next]
  rfl

section
variable {sent : Nat} (hsent : sent = w.outTag tag (tabGet (fun _ => 0) x.cu.issue i)) {out : Sends}
  (hout : out = w.eosPorts.map (fun q => (q, marker sent)))
include hsent hout

/-- A CLAIM delivers its marker at the response port, once its match store has a free entry (R161). -/
theorem execEndOfStreamFiring_of_claim (hop : w.opcode = 0xA0) :
    execEndOfStreamFiring site s = .next (if s.matchFree site (w.low 34 33) = 0 then s.outputFull site
      else if s.roomFor site out then
        s.firedEos (x.cu.endEntry e i) e ⟨site, p, i, w, tag, sent, []⟩ out (some (w.low 34 33))
      else s.outputFull site) := by
  subst hx
  simp only [execEndOfStreamFiring, hm, hc, ← he, ← hw, hop, Nat.reduceEqDiff, if_false, if_true, true_and]
  subst hout hsent
  rw [apply_ite Host.Outcome.next, apply_ite Host.Outcome.next]
  rfl

/-- Any other stroke sends its markers under its output tag (R161). -/
theorem execEndOfStreamFiring_of_stroke (h1 : w.opcode ≠ 0x61) (h2 : w.opcode ≠ 0xA0) :
    execEndOfStreamFiring site s = .next (if s.roomFor site out then
        s.firedEos (x.cu.endEntry e i) e ⟨site, p, i, w, tag, sent, []⟩ out none
      else s.outputFull site) := by
  subst hx
  simp only [execEndOfStreamFiring, hm, hc, ← he, ← hw, if_neg h1, h2, false_and, if_false]
  subst hout hsent
  rw [apply_ite Host.Outcome.next]
  rfl
end
end

/-! ### Steering entries (R96 to R99) -/

section
variable {s : State} {site n input : Nat}

theorem exec_steerEntry_of_unused (h : s.worksFor site = none) :
    execSteerEntryArrival site n input s = .next s ∧ execSteerEntryEos site n input s = .next s := by
  simp only [execSteerEntryArrival, execSteerEntryEos, h, and_self]

variable {e : Nat} (he : e = tabGet (fun _ => 0) (s.site site).front.steer n)
include he

/-- An entry of another type, an input that names no slot, and an empty slot. -/
theorem exec_steerEntry_of_still
    (h : ∀ d, steerType e ≠ some 0 ∨ steerIn e (input % 2) ≠ some d ∨ (s.site site).su.head d = none) :
    execSteerEntryArrival site n input s = .next s ∧ execSteerEntryEos site n input s = .next s := by
  unfold execSteerEntryArrival execSteerEntryEos
  simp only [← he]
  split
  next k _ ht hk =>
    have hh := ((h k).resolve_left (absurd ht)).resolve_left (absurd hk)
    simp only [hh, and_self]
  next => exact ⟨rfl, rfl⟩

variable {p k arr : Nat} {f : Xfer} (hw : s.worksFor site = some p) (ht : steerType e = some 0)
  (hk : steerIn e (input % 2) = some k) (hh : (s.site site).su.head k = some (arr, f))
include hw ht hk hh

/-- What reaches an input of a steering entry that is no marker. -/
theorem execSteerEntryArrival_of_head : execSteerEntryArrival site n input s =
    if f.eos then .next s
    else if input % 2 = 0 then .next ((s.setSu site ((s.site site).su.token e n k f)).steerSettle site n)
    else if ((s.site site).su.entry n).held then .next (s.steerSettle site n)
    else
      let r := (s.site site).su.dataArrives e n k f
      let t := (s.setSu site r.1).steerSettle site n
      .next (if r.2 then t.orphan p site else t) := by
  simp only [execSteerEntryArrival, ← he, hw, ht, hk, hh]

/-- An item of a steering entry waits at the other input for a partner of a context. -/
def SteerItem.awaits (side ctx : Nat) (j : SteerItem) : Bool := j.input != side && tagCtx j.x.tag == ctx

/-- A steering entry after a marker on one of its inputs (R99): what waits there for this context goes, and with a marker on
each input one marker leaves on every route. -/
def SteerState.marked (y : SteerState) (side : Nat) (f : Xfer) : SteerState :=
  let ctx := tagCtx f.tag
  let ends := y.ends ++ [(side, f.tag)]
  let both := ends.any (fun j => j.1 == 0 && tagCtx j.2 == ctx) && ends.any (fun j => j.1 == 1 && tagCtx j.2 == ctx)
  let dataTag := match ends.find? (fun j => j.1 == 1 && tagCtx j.2 == ctx) with
    | some j => j.2
    | none => f.tag
  { y with
    items := y.items.filter (fun j => !j.awaits side ctx)
    passing :=
      if decide (side = 0) && (y.items.filter (·.awaits side ctx)).any (fun j => !j.x.last) then some (1, 0) else y.passing
    ends := if both then ends.filter (fun j => tagCtx j.2 != ctx) else ends
    pairs := if both then y.pairs ++ [(15, ⟨dataTag, true, true, 0, 0⟩)] else y.pairs }

/-- What reaches an input of a steering entry that is a marker. -/
theorem execSteerEntryEos_of_head : execSteerEntryEos site n input s =
    if f.eos then
      let y := (s.site site).su.entry n
      let t := s.setSu site (((s.site site).su.popHead k).setEntry n (y.marked (input % 2) f))
      .next ((if input % 2 = 0 then (y.items.filter (·.awaits (input % 2) (tagCtx f.tag))).foldl
        (fun v _ => v.orphan p site) t else t).steerSettle site n)
    else .next (s.steerSettle site n) := by
  simp only [execSteerEntryEos, ← he, hw, ht, hk, hh]
  cases f.eos <;> rfl
end

/-! ### Merging entries (R100) -/

section
variable {s : State} {site n : Nat}

theorem execMergeEntryForward_of_unused (h : s.worksFor site = none) :
    execMergeEntryForward site n s = .next (s.steerSettle site n) := by
  simp only [execMergeEntryForward, h]

variable {e : Nat} (he : e = tabGet (fun _ => 0) (s.site site).front.steer n)
include he

theorem execMergeEntryForward_of_other (h : steerType e = none ∨ steerType e = some 0) :
    execMergeEntryForward site n s = .next (s.steerSettle site n) := by
  unfold execMergeEntryForward
  simp only [← he]
  split
  next typ _ ht =>
    rcases h with h | h
    · exact absurd (ht.symm.trans h) (by simp)
    · exact if_pos (Option.some.inj (ht.symm.trans h))
  next => rfl

variable {p typ : Nat} (hw : s.worksFor site = some p) (ht : steerType e = some typ) (h0 : typ ≠ 0)
  {u : Su} (hu : u = if typ = 1 then ((s.steerSettle site n).site site).su
    else ((s.steerSettle site n).site site).su.takeHeads e n)
include hw ht h0 hu

theorem execMergeEntryForward_of_waiting
    (h : (u.entry n).passing.isSome = true ∨ (u.entry n).pairs ≠ [] ∨ u.mergeNext e n typ = none) :
    execMergeEntryForward site n s = .next ((s.steerSettle site n).setSu site u) := by
  simp only [execMergeEntryForward, ← he, hw, ht, if_neg h0, ← hu]
  split
  · rfl
  next hno =>
    have hn : u.mergeNext e n typ = none := by
      rcases h with h | h | h
      · exact absurd (.inl h) hno
      · exact absurd (.inr (by simpa using h)) hno
      · exact h
    rw [hn]

/-- The head that a merging entry takes next: a marker ends its input, and the last one sends the entry's marker; an operand
passes from its slot, or leaves the reserve. -/
theorem execMergeEntryForward_of_next {i arr : Nat} {f : Xfer} (hp : (u.entry n).passing = none) (hq : (u.entry n).pairs = [])
    (hn : u.mergeNext e n typ = some (i, arr, f)) {t : State} (hst : t = (s.steerSettle site n).setSu site u) {v : Su}
    (hv : v = u.takeHead e n typ i) :
    execMergeEntryForward site n s =
      if f.eos then
        let ends := (v.entry n).ends ++ [(i, f.tag)]
        let all := (mergeInputs e).all (fun j => ends.any (fun d => d.1 == j.1))
        .next ((t.setSu site (v.setEntry n { v.entry n with
          ends := if all then [] else ends
          pairs := if all then [(1, mergeMarker ends)] else [] })).steerSettle site n)
      else if typ = 1 then
        .next ((t.setSu site (u.setEntry n { u.entry n with passing := some (i, 1) })).steerSettle site n)
      else .next ((t.setSu site (v.setEntry n { v.entry n with pairs := [(1 + 16 * (i + 1), f)] })).steerSettle site n) := by
  subst hv hst
  simp only [execMergeEntryForward, ← he, hw, ht, if_neg h0, ← hu, hn]
  exact if_neg (by simp [hp, hq])
end

/-- Settles O49: each command by its cases, and each case by the guards that the statement names. -/
theorem switchUnitMovesTransfers : Obligations.SwitchUnitMovesTransfers := by
  unfold Obligations.SwitchUnitMovesTransfers
  intro s p site port slot n i k m input src f o rest mode tag arr x turn pick away sent left key owed paid give pumped e w
    issue cu g last high joined markers fires se calm side arrived y mine lost closing both dataTag after mu stored taken
    ends all
  have hleft : left = s.leaveSlot site port k src := by cases src <;> rfl
  refine ⟨fun hw => ⟨?_, ?_, ?_, ?_, ?_⟩,
    fun hw => ⟨fun h => ?_, fun h4 hopen hn => ⟨fun h => ?_, fun h hm => ?_⟩, fun h => ?_, fun hmu ho hf => ?_,
      fun h => ?_,
      fun ht hk hh => ⟨fun he => ⟨?_, ?_⟩, fun he => ⟨?_, fun hi => ?_, fun hi hheld => ?_, fun hi hheld => ?_⟩⟩,
      fun h => ?_, fun ht h0 => ⟨fun h => ?_, fun hp hq hn => ⟨fun he => ?_, fun he h1 => ?_, fun he h1 => ?_⟩⟩⟩,
    fun h => ?_, fun ho => ⟨fun h4 hm => ?_, fun h4 hm => ?_, fun h4 => ?_, fun h5 => ?_⟩,
    fun h => ?_, fun hm hc => ⟨fun hop => ?_, fun hop => ?_, fun h1 h2 => ?_⟩⟩
  · exact execSlotTransfer_of_unused hw port
  · exact execOperandArrival_of_unused hw slot
  · exact (exec_steerEntry_of_unused hw).1
  · exact (exec_steerEntry_of_unused hw).2
  · exact execMergeEntryForward_of_unused hw
  · exact execSlotTransfer_of_still hw h
  · exact execSlotTransfer_of_local hw hopen hn hleft h
  · exact execSlotTransfer_of_neighbour hw hopen hn hleft h hm
  · exact execOperandArrival_of_still rfl rfl h
  · exact execOperandArrival_of_room rfl rfl hw hmu ho hf
  · exact exec_steerEntry_of_still rfl h
  · exact (execSteerEntryArrival_of_head rfl hw ht hk hh).trans (if_pos he)
  · exact (execSteerEntryEos_of_head rfl hw ht hk hh).trans (if_pos he)
  · exact (execSteerEntryEos_of_head rfl hw ht hk hh).trans (if_neg (Bool.eq_false_iff.1 he))
  · refine (execSteerEntryArrival_of_head rfl hw ht hk hh).trans ?_
    rw [if_neg (Bool.eq_false_iff.1 he), if_pos hi]
  · refine (execSteerEntryArrival_of_head rfl hw ht hk hh).trans ?_
    rw [if_neg (Bool.eq_false_iff.1 he), if_neg (by omega), if_pos hheld]
  · refine (execSteerEntryArrival_of_head rfl hw ht hk hh).trans ?_
    rw [if_neg (Bool.eq_false_iff.1 he), if_neg (by omega), if_neg (Bool.eq_false_iff.1 hheld)]
  · exact execMergeEntryForward_of_other rfl h
  · exact execMergeEntryForward_of_waiting rfl hw ht h0 rfl h
  · exact (execMergeEntryForward_of_next rfl hw ht h0 rfl hp hq hn rfl rfl).trans (if_pos he)
  · refine (execMergeEntryForward_of_next rfl hw ht h0 rfl hp hq hn rfl rfl).trans ?_
    rw [if_neg (Bool.eq_false_iff.1 he), if_pos h1]
  · refine (execMergeEntryForward_of_next rfl hw ht h0 rfl hp hq hn rfl rfl).trans ?_
    rw [if_neg (Bool.eq_false_iff.1 he), if_neg h1]
  · exact execCreditReturn_of_still rfl rfl h
  · refine (execCreditReturn_of_owed rfl rfl ho (by omega) rfl).trans ?_
    rw [if_pos h4, hm]
    rfl
  · refine (execCreditReturn_of_owed rfl rfl ho (by omega) rfl).trans ?_
    rw [if_pos h4, hm]
    rfl
  · refine (execCreditReturn_of_owed rfl rfl ho (by omega) rfl).trans ?_
    rw [if_neg (by omega), if_pos h4]
    rfl
  · refine (execCreditReturn_of_owed rfl rfl ho (by omega) rfl).trans ?_
    rw [if_neg (by omega), if_neg (by omega)]
    rfl
  · exact execEndOfStreamFiring_of_still h
  · exact execEndOfStreamFiring_of_merge rfl hm hc rfl rfl hop rfl rfl rfl rfl rfl
  · exact execEndOfStreamFiring_of_claim rfl hm hc rfl rfl rfl rfl hop
  · exact execEndOfStreamFiring_of_stroke rfl hm hc rfl rfl rfl rfl h1 h2

end Sys2Proof.Machine
end

section
/-! SUPPORT. The memory unit's commands (R101 to R104, R192 to R214, R304, R308 to R311, R585), case by case: semaphores,
appends, bank grants, re-arming, READ and WRITE streams and queues. -/

namespace Sys2Proof.Machine

/-! ### Semaphores (R213) -/

theorem execSemaphoreGrant_of_unused {s : State} {site : Nat} (h : s.worksFor site = none) (sem : Nat) :
    execSemaphoreGrant site sem s = .next s := by
  simp only [execSemaphoreGrant, h]

section
variable {s : State} {site sem k : Nat} (hk : k = sem % 64)
include hk

theorem execSemaphoreGrant_of_no_waiter (h : (s.site site).mu.queue k = []) : execSemaphoreGrant site sem s = .next s := by
  subst hk
  simp only [execSemaphoreGrant, h]
  cases s.worksFor site <;> rfl

/-- The waiter at the head of the queue is granted once the value covers it: a compute unit below number 4, else an engine. -/
theorem execSemaphoreGrant_of_waiter {p who n : Nat} {q : List (Nat × Nat)} (hw : s.worksFor site = some p)
    (hq : (s.site site).mu.queue k = (who, n) :: q) {t : State} (ht : t = s.setMu site {
      (s.site site).mu.setSem k ((s.site site).mu.sem k - n) with
        waiters := tabSet (fun _ => []) (s.site site).mu.waiters k q }) :
    execSemaphoreGrant site sem s =
      if (s.site site).mu.sem k < n then .next s
      else if who < 4 then match neighbour site who with
        | some c => .next (t.setCu c { (t.site c).cu with waiting := none })
        | none => .next t
      else .next (t.setEngine site (who - 4) { t.engine site (who - 4) with
        waited := (t.engine site (who - 4)).waited + 1, waiting := false }) := by
  subst hk ht
  cases hc : neighbour site who <;> simp only [execSemaphoreGrant, hw, hq, hc]
end

/-! ### Appends (R308, R311) -/

theorem execHbmWriteAcknowledge_append (site : Nat) (s : State) : execHbmWriteAcknowledge site 4 s =
    match s.worksFor site, (s.site site).mu.appends with
    | some p, w :: t => if s.linked p site 1 w.addr then .next (s.appendLanded p site w t) else .next s
    | _, _ => .next s := rfl

/-- The append unit takes an operand from its slot; its stream is open up to the marker. -/
def State.takeAppend (s : State) (p site : Nat) (o : Operand) (rest : List Xfer) : State :=
  let t := ((s.setSu site ((s.site site).su.take 7 rest)).muWake p site).progressBy p site (xfersOf o).length
  t.setMu site { (t.site site).mu with appending := !o.eos }

theorem execAppendArrival_of_unused {s : State} {site : Nat} (h : s.worksFor site = none) :
    execAppendArrival site s = .next s := by
  simp only [execAppendArrival, h]

theorem execAppendArrival_of_still {s : State} {p site : Nat} (hw : s.worksFor site = some p)
    (h : headOperand ((s.site site).su.outFifo 7) = none ∨ isMu site = false ∨ s.isAppendSite p site = false ∨
      (s.site site).mu.appends ≠ []) : execAppendArrival site s = .next s := by
  simp only [execAppendArrival, hw]
  split
  next q o rest hq ho =>
    cases hq
    refine if_pos ?_
    rw [ho] at h
    simpa [or_assoc] using h
  next => rfl

section
variable {s t : State} {p site : Nat} {o : Operand} {rest : List Xfer} (hw : s.worksFor site = some p)
  (ho : headOperand ((s.site site).su.outFifo 7) = some (o, rest)) (hmu : isMu site = true)
  (hsite : s.isAppendSite p site = true) (hap : (s.site site).mu.appends = []) (ht : t = s.takeAppend p site o rest)
include hw ho hmu hsite hap ht

theorem execAppendArrival_of_marker (he : o.eos = true) : execAppendArrival site s = .next (t.muRest p site) := by
  subst ht
  simp only [execAppendArrival, hw, ho]
  exact (if_neg (by simp [hmu, hsite, hap])).trans (if_pos he)

section
variable (he : o.eos = false)
include he

theorem execAppendArrival_of_no_step (hf : (t.part p).firing = none) : execAppendArrival site s = .next t := by
  simp only [ht, State.takeAppend] at hf ⊢
  simp only [execAppendArrival, hw, ho, hf]
  exact (if_neg (by simp [hmu, hsite, hap])).trans (if_neg (Bool.eq_false_iff.1 he))

variable {x : Step} (hf : (t.part p).firing = some x)
include hf

theorem execAppendArrival_of_no_edition (hx : t.resident x.edition = none) : execAppendArrival site s = .next t := by
  simp only [ht, State.takeAppend] at hf hx ⊢
  simp only [execAppendArrival, hw, ho, hf, hx]
  exact (if_neg (by simp [hmu, hsite, hap])).trans (if_neg (Bool.eq_false_iff.1 he))

variable {ed : Edition} (hx : t.resident x.edition = some ed) {hd : Nat} (hhd : hd = (o.words.getD 0 0).toNat)
include hx hhd

theorem execAppendArrival_of_no_record (hr : recOf x (hd % 2 ^ 14) = none) : execAppendArrival site s =
    .next ((t.bump .serveAppendDefects [p] 1).orphan p site) := by
  simp only [ht, State.takeAppend] at hf hx ⊢
  simp only [execAppendArrival, hw, ho, hf, hx, ← hhd, hr]
  exact (if_neg (by simp [hmu, hsite, hap])).trans (if_neg (Bool.eq_false_iff.1 he))

/-- An operand of a record: discarded with the record or without a page, a defect outside the edition's geometry or where its
place is taken, else written into the page of its layer (R309 to R311). -/
theorem execAppendArrival_of_record {r : Rec} {off : Nat} (hr : recOf x (hd % 2 ^ 14) = some (r, off)) {page : Option Nat}
    (hpage : (t.framePages p r.seq (r.pos + off))[hd / 2 ^ 16 % 256]? = page) : execAppendArrival site s =
      let layer := hd / 2 ^ 16 % 256
      let head := hd / 2 ^ 24 % 128
      let kv := hd / 2 ^ 31 % 2
      let chunk := hd / 2 ^ 32 % 256
      let key := appendKey (hd % 2 ^ 14) layer kv (head * ed.chunks + chunk)
      if r.excluded then .next (t.bump .serveAppendDiscards [p] 1)
      else if layer ≥ ed.layers ∨ head ≥ ed.heads ∨ chunk ≥ ed.chunks then
        .next ((t.bump .serveAppendDefects [p] 1).orphan p site)
      else if x.appended.contains key then .next ((t.bump .serveAppendDefects [p] 1).orphan p site)
      else match page with
        | none => .next (t.bump .serveAppendDiscards [p] 1)
        | some pg =>
          let hdr := tabGet (fun _ => PageHdr.reset) (t.part p).pages pg
          let row := ((r.pos + off) % 32 * ed.heads + head) * ed.chunks + chunk
          let ws := t.appendWrites p pg hdr.fmt kv row ed.kvSlots key (o.words.drop 1)
          let u := t.setPart p { t.part p with
            pages := tabSet (fun _ => PageHdr.reset) (t.part p).pages pg { hdr with age := t.pnow p / 2 ^ 24 % 2 ^ 16 }
            firing := some { x with appended := x.appended ++ [key] } }
          .next (u.setMu site { (u.site site).mu with appends := ws }) := by
  simp only [ht, State.takeAppend] at hf hx hpage ⊢
  simp only [execAppendArrival, hw, ho, hf, hx, ← hhd, hr, hpage]
  refine (if_neg (by simp [hmu, hsite, hap])).trans ((if_neg (Bool.eq_false_iff.1 he)).trans ?_)
  cases page <;> rfl
end
end

/-! ### Bank grants (R193 to R197, R222) -/

theorem execBankGrant_of_still {s : State} {site b bank : Nat} (hb : b = bank % 16)
    (h : s.ownerOf site = none ∨ s.bankOrder site b = []) : execBankGrant site bank s = .next s := by
  subst hb
  rw [execBankGrant]
  rcases h with h | h
  · rw [h]
  · rw [h]
    cases s.ownerOf site <;> rfl

/-- The end of a grant: every read of the word is served, streams go on, and strict requests that wait are counted. -/
def State.endGrant (t : State) (p site b who word : Nat) : State :=
  ((t.serveWord p site word).bankSettle site).strictWaits p site b who

/-- The bank performs the write that a request asks for; a read is served with every other read of its word. -/
def State.grantRequest (t : State) (p site : Nat) (actor : Nat × Nat) : State :=
  match (t.site site).mu.reqs.find? (fun r => r.who == actor.1 && r.word == actor.2 && r.wdata.isSome) with
  | some r => t.bankWrite p site r
  | none => t

section
variable {s : State} {site b bank p who : Nat} {actor : Nat × Nat} {t : State} (hb : b = bank % 16)
  (hp : s.ownerOf site = some p) (hw : (s.bankOrder site b).head? = some who) (ha : actor = s.bankActor site b who)
  (ht : t = s.setMu site { (s.site site).mu with last := tabSet (fun _ => 9) (s.site site).mu.last b who })
include hb hp hw ha ht

theorem execBankGrant_of_atom (h8 : actor.1 = 8) : execBankGrant site bank s =
    .next (((t.nextAtom site b (fun _ => true)).pumpHeld site).endGrant p site b who actor.2) := by
  subst hb ha ht
  simp only [execBankGrant, hp, hw, State.bankGrant]
  rw [if_pos h8]
  rfl

theorem execBankGrant_of_request (h8 : actor.1 ≠ 8) : execBankGrant site bank s =
    .next ((t.grantRequest p site actor).endGrant p site b who actor.2) := by
  subst hb ha ht
  simp only [execBankGrant, hp, hw, State.bankGrant]
  rw [if_neg h8]
  rfl
end

theorem State.atomTurn_eq (s : State) (site b kind : Nat) : s.atomTurn site b kind =
    match s.ownerOf site, (s.site site).mu.atomQueue b with
    | some p, op :: _ => if (s.bankOrder site b).head? = some 8 ∧ op.kind = kind then s.bankGrant p site b 8 else s
    | _, _ => s := by
  rw [State.atomTurn]
  cases s.ownerOf site <;> cases (s.site site).mu.atomQueue b <;> rfl

/-! ### The engines of a memory unit -/

/-- An engine's handle names its place. -/
theorem State.hatch_place {s : State} {site e : Nat} {h : Hatch} (hh : s.hatch site e = some h) :
    h.site = site ∧ h.eng = e := by
  unfold State.hatch at hh
  split at hh
  · dsimp only at hh
    split at hh
    · cases hh
      exact ⟨rfl, rfl⟩
    · cases hh
  · cases hh

/-- An engine that runs no descriptor answers nothing. -/
theorem exec_engine_of_idle {s : State} {site e : Nat} (h : s.hatch site e = none) :
    execRearmWord site e s = .next s ∧ execHatchReadOperand site e s = .next s ∧
      execHbmReadResponse site e s = .next s ∧ execWriteStreamOperand site e s = .next s ∧
      execQueueTransfer site e s = .next s ∧
      (e ≠ 4 → execHbmWriteAcknowledge site e s = .next s) ∧
      (s.missed (Rg.siteMuArm.at [site, e]) = none → ∀ w, execMuArmWrite site e w s = .next s) := by
  refine ⟨?_, ?_, ?_, ?_, ?_, fun h4 => ?_, fun hm w => ?_⟩
  · rw [execRearmWord, h]
  · rw [execHatchReadOperand, h]
  · rw [execHbmReadResponse, h]
  · rw [execWriteStreamOperand, h]
  · rw [execQueueTransfer, h]
  · rw [execHbmWriteAcknowledge, if_neg h4, h]
  · rw [execMuArmWrite, hm, h]

theorem execMuArmWrite_of_missed {s : State} {site e d : Nat} (h : s.missed (Rg.siteMuArm.at [site, e]) = some d)
    (w : Word) : execMuArmWrite site e w s = .next (s.noteMiss (Rg.siteMuArm.at [site, e]) d) := by
  rw [execMuArmWrite, h]

section
variable {s : State} {site e : Nat} {h : Hatch} (hh : s.hatch site e = some h)
include hh

/-! ### Re-arming (R209, R223) -/

section
variable {x : Engine} (hx : x = s.engine site e)
include hx

/-- A host write starts a pass of a persistent descriptor, or waits behind a word that stands on the slot already. -/
theorem execMuArmWrite_of_hatch (hm : s.missed (Rg.siteMuArm.at [site, e]) = none) (w : Word) :
    execMuArmWrite site e w s =
      let stood := (headOperand ((s.site site).su.outFifo (entryArmSlot x.entry))).isSome && !x.armQ.contains none
      .next (if (entryArm x.entry && h.d.persist) = false then s
        else if x.arm = none then s.rearm h (some (w.toNat % 2 ^ 38))
        else s.setEngine site e { x with
          armQ := x.armQ ++ (if stood then [none] else []) ++ [some (w.toNat % 2 ^ 38)] }) := by
  subst hx
  simp only [execMuArmWrite, hm, hh, apply_ite Host.Outcome.next]
  refine if_congr ?_ rfl (if_congr Option.isNone_iff_eq_none rfl rfl)
  rw [← Bool.not_and, Bool.and_comm, Bool.not_eq_true']

theorem execRearmWord_of_still (hno : headOperand ((s.site site).su.outFifo (entryArmSlot x.entry)) = none ∨
    (entryArm x.entry && h.d.persist) = false ∨ x.arm ≠ none) : execRearmWord site e s = .next s := by
  subst hx
  simp only [execRearmWord, hh]
  split
  next o rest ho =>
    refine if_neg ?_
    rw [ho] at hno
    rintro hyes
    simp only [Bool.and_eq_true, Option.isNone_iff_eq_none] at hyes
    simp [hyes] at hno
  next => rfl

theorem execRearmWord_of_word {o : Operand} {rest : List Xfer}
    (ho : headOperand ((s.site site).su.outFifo (entryArmSlot x.entry)) = some (o, rest))
    (ha : (entryArm x.entry && h.d.persist) = true) (hn : x.arm = none) : execRearmWord site e s =
      .next (((s.setSu site ((s.site site).su.take (entryArmSlot x.entry) rest)).progressBy h.part site
        (xfersOf o).length).rearm h (if o.eos then none else some ((o.words.getD 0 0).toNat % 2 ^ 38))) := by
  subst hx
  simp only [execRearmWord, hh, ho]
  exact if_pos (by rw [hn, Bool.and_comm h.d.persist, ha]; rfl)
end

/-! ### READ streams: the issue of reads (R204 to R209, R304, R585) -/

theorem execHatchReadOperand_of_other (hm : h.d.mode ≠ 0) : execHatchReadOperand site e s = .next s := by
  simp only [execHatchReadOperand, hh]
  exact if_pos hm

/-- A finished operand enters the read buffer, which sends what it can. -/
def State.bufferOp (s : State) (h : Hatch) (r : ReadReq) : State := ((s.queueRead h r).sendReady h).endPass h

section
variable (hm : h.d.mode = 0) {t : State} (ht : t = s.sendReady h)
include hm ht

theorem execHatchReadOperand_of_end (hpos : passTotal h.cs ≤ (t.engine site e).pos) :
    execHatchReadOperand site e s = .next (t.endPass h) := by
  subst ht
  simp only [execHatchReadOperand, hh]
  rw [if_neg (not_not.2 hm), if_pos hpos]

variable {k : Nat} (hk : k = (t.engine site e).before + (t.engine site e).pos)
  (hpos : (t.engine site e).pos < passTotal h.cs) {u : State}
include hk hpos

/-- The engine waits for the semaphore of the position's iteration (R214). -/
theorem execHatchReadOperand_of_syncing (hs : t.syncWait h k = (u, false)) : execHatchReadOperand site e s = .next u := by
  subst ht hk
  simp only [execHatchReadOperand, hh, hs]
  rw [if_neg (not_not.2 hm), if_neg (Nat.not_le.2 hpos)]

/-- The next operand by the SPACE of the stream: banks, KV pages, or lines of HBM or of a window. -/
theorem execHatchReadOperand_of_synced (hs : t.syncWait h k = (u, true)) {x : Engine} (hx : x = u.engine site e)
    {addr : Nat} (ha : addr = nestAddr h.d x.base (nestIx h.cs x.pos)) {edge : Bool}
    (hedge : edge = wholeMargin h.d h.shape (nestIx h.cs x.pos)) :
    execHatchReadOperand site e s = .next (
      if h.d.space = 0 then u.bankRead h k addr edge
      else if h.d.space = 3 then u.kvRead h k addr edge
      else if edge then u.bufferOp h (marginOp h k 0)
      else if mayRequest x (64 * h.d.len) = false then u
      else
        let n := max 1 (mergeRun h x addr 64 0)
        if h.d.space = 2 then u.remoteRead h k addr n
        else u.queueRead h ⟨addr * 64, 64 * (n * h.d.len), none, runOps h k n, none⟩) := by
  subst ht hk hx ha hedge
  simp only [execHatchReadOperand, hh, hs, apply_ite Host.Outcome.next]
  refine (if_neg (not_not.2 hm)).trans ((if_neg (Nat.not_le.2 hpos)).trans ?_)
  simp only [Bool.not_eq_eq_eq_not, Bool.not_true]
  rfl
end

/-! ### READ streams: the answers of memory (R304, R305, R372, R475) -/

theorem execHbmReadResponse_of_queue (hm : h.d.mode = 2) : execHbmReadResponse site e s = .next (s.spillBack h) := by
  simp only [execHbmReadResponse, hh]
  exact if_pos hm

theorem execHbmReadResponse_of_write (hm : h.d.mode = 1) : execHbmReadResponse site e s = .next s := by
  simp only [execHbmReadResponse, hh]
  rw [if_neg (by omega), if_pos hm]

section
variable (h1 : h.d.mode ≠ 1) (h2 : h.d.mode ≠ 2) {isOut : ReadReq → Bool}
  (hout : isOut = fun r => r.data.isNone && r.txn.isNone)
include h1 h2 hout

theorem execHbmReadResponse_of_no_read (hr : (s.engine site e).reads.find? isOut = none) :
    execHbmReadResponse site e s = .next ((s.sendReady h).endPass h) := by
  subst hout
  simp only [execHbmReadResponse, hh, if_neg h2, if_neg h1, hr]

variable {r : ReadReq} (hr : (s.engine site e).reads.find? isOut = some r)
include hr

theorem execHbmReadResponse_of_page (h3 : h.d.space = 3) :
    execHbmReadResponse site e s = .next (s.kvBack h isOut r.addr) := by
  subst hout
  simp only [execHbmReadResponse, hh, if_neg h2, if_neg h1, hr, if_pos h3]

variable (h3 : h.d.space ≠ 3)
include h3

theorem execHbmReadResponse_of_collective {l : Nat} (hl : s.place h.part r.addr = .coll l) :
    execHbmReadResponse site e s =
      .next (match (List.range (r.len / 64)).mapM (fun i => s.collRead h.part (l + 64 * i)) with
        | some d => s.readBack h isOut (r.len / 64) 0 d
        | none => s) := by
  subst hout
  simp only [execHbmReadResponse, hh, if_neg h2, if_neg h1, hr, if_neg h3, hl]
  cases List.mapM (fun i => s.collRead h.part (l + 64 * i)) (List.range (r.len / 64)) <;> rfl

theorem execHbmReadResponse_of_memory (hl : ∀ l, s.place h.part r.addr ≠ .coll l) :
    execHbmReadResponse site e s =
      let a := s.readPart h.part site 0 (r.len / 64) r.addr
      .next (if s.reachable h.part site (r.len / 64) r.addr = false then s
        else match a.2.ue with
          | some c => a.1.ueAbort h.part c
          | none => a.1.readBack h isOut (r.len / 64) 0 (bytesWords (r.len / 64) a.2.data)) := by
  subst hout
  simp only [execHbmReadResponse, hh, if_neg h2, if_neg h1, hr, if_neg h3]
  cases hp : s.place h.part r.addr with
  | coll l => exact absurd hp (hl l)
  | _ =>
    cases s.reachable h.part site (r.len / 64) r.addr with
    | false => rfl
    | true => cases (s.readPart h.part site 0 (r.len / 64) r.addr).2.ue <;> rfl
end

/-! ### WRITE streams (R210, R214) -/

section
variable {t : State} {x : Engine} {slot : Nat} (ht : t = s.remoteMore h) (hx : x = t.engine site e)
  (hslot : slot = h.d.port - 4)
include ht hx hslot

theorem execWriteStreamOperand_of_still (hno : headOperand ((t.site site).su.outFifo slot) = none ∨ h.d.mode ≠ 1 ∨
    x.bank ≠ none ∨ x.ended = true) : execWriteStreamOperand site e s = .next t := by
  subst ht hx hslot
  simp only [execWriteStreamOperand, hh]
  split
  next => rfl
  next o rest ho =>
    refine if_pos ?_
    rw [ho] at hno
    simpa [Option.isSome_iff_ne_none] using hno

/-- The stream takes an operand from its slot. -/
def State.takeOperand (t : State) (p site slot : Nat) (o : Operand) (rest : List Xfer) : State :=
  (t.setSu site ((t.site site).su.take slot rest)).progressBy p site (xfersOf o).length

/-- An operand of another length than the stream's is a mismatch (R126, R210). -/
def State.checkLength (t : State) (p site slot len : Nat) (o : Operand) : State :=
  if o.words.length = len then t
  else (t.trace p site 1 0x18 (slot % 4 * 2 ^ 14 + bit01 (decide (len < o.words.length)) * 2 ^ 16)).plateDefect p site 4

variable {o : Operand} {rest : List Xfer} (ho : headOperand ((t.site site).su.outFifo slot) = some (o, rest))
  (hm : h.d.mode = 1) (hb : x.bank = none) (hend : x.ended = false)
include ho hm hb hend

/-- An operand of another context is an orphan. -/
theorem execWriteStreamOperand_of_stranger (hctx : tagCtx o.tag ≠ h.d.context) : execWriteStreamOperand site e s =
    .next ((t.takeOperand h.part site slot o rest).orphan h.part site) := by
  subst ht hx hslot
  simp only [execWriteStreamOperand, hh, ho]
  exact (if_neg (by simp [hm, hb, hend])).trans (if_pos hctx)

section
variable (hctx : tagCtx o.tag = h.d.context)
include hctx

theorem execWriteStreamOperand_of_marker (he : o.eos = true) : execWriteStreamOperand site e s =
    .next (((t.takeOperand h.part site slot o rest).setEngine site e { x with ended := true }).endWrite h) := by
  subst ht hx hslot
  simp only [execWriteStreamOperand, hh, ho]
  exact (if_neg (by simp [hm, hb, hend])).trans ((if_neg (not_not.2 hctx)).trans (if_pos he))

variable (he : o.eos = false) {pos : Nat} (hpos : pos = writePos x.low (tagIter o.tag))
include he hpos

/-- A position beyond the nest is an orphan; a persistent stream holds it for its next pass. -/
theorem execWriteStreamOperand_of_beyond (hlast : x.before + passTotal h.cs ≤ pos) : execWriteStreamOperand site e s =
    .next (if h.d.persist && decide (0 < passTotal h.cs) then t
      else (t.takeOperand h.part site slot o rest).orphan h.part site) := by
  subst ht hx hslot hpos
  simp only [execWriteStreamOperand, hh, ho]
  refine (if_neg (by simp [hm, hb, hend])).trans ((if_neg (not_not.2 hctx)).trans ((if_neg (by simp [he])).trans
    ((if_pos hlast).trans (apply_ite Host.Outcome.next _ _ _).symm)))

variable (hlast : pos < x.before + passTotal h.cs) {u : State}
include hlast

/-- The stream waits for the semaphore of the position's iteration (R214). -/
theorem execWriteStreamOperand_of_syncing (hs : t.syncWait h pos = (u, false)) :
    execWriteStreamOperand site e s = .next u := by
  subst ht hx hslot hpos
  simp only [execWriteStreamOperand, hh, ho, hs]
  exact (if_neg (by simp [hm, hb, hend])).trans ((if_neg (not_not.2 hctx)).trans ((if_neg (by simp [he])).trans
    (if_neg (Nat.not_le.2 hlast))))

/-- The operand is stored at its position, or waits where its SPACE holds it back. -/
theorem execWriteStreamOperand_of_synced (hs : t.syncWait h pos = (u, true)) : execWriteStreamOperand site e s =
    .next (match u.storeOp h pos (nestAddr h.d x.base (nestIx h.cs (pos - x.before))) (fitWords h.d.len o.words) with
      | none => u
      | some v => (v.takeOperand h.part site slot o rest).checkLength h.part site slot h.d.len o) := by
  simp only [execWriteStreamOperand, hh, ← ht, ← hx, ← hslot, ho, ← hpos, hs]
  refine (if_neg (by simp [hm, hb, hend])).trans ((if_neg (not_not.2 hctx)).trans ((if_neg (by simp [he])).trans
    ((if_neg (Nat.not_le.2 hlast)).trans ?_)))
  cases u.storeOp h pos (nestAddr h.d x.base (nestIx h.cs (pos - x.before))) (fitWords h.d.len o.words) <;> rfl
end
end

/-! ### Acknowledgements (R228) -/

section
variable (h4 : e ≠ 4) {x : Engine} (hx : x = s.engine site e)
include h4 hx

theorem execHbmWriteAcknowledge_of_none (hp : x.posted.find? (fun w => w.kind == 0) = none) :
    execHbmWriteAcknowledge site e s = .next s := by
  subst hx
  simp only [execHbmWriteAcknowledge, if_neg h4, hh, hp]

/-- HBM takes the oldest write of the engine once the memory links and the page-tiles let it. -/
theorem execHbmWriteAcknowledge_of_posted {w : PostedWrite} (hp : x.posted.find? (fun w => w.kind == 0) = some w)
    {left : List PostedWrite} (hleft : left = x.posted.erase w) {t : State}
    (ht : t = ((s.setEngine site e { x with posted := left }).writePart h.part site w.addr
      (leBytes (64 * w.data.length) (wordsNat w.data))).1) :
    execHbmWriteAcknowledge site e s = .next (
      if s.reachable h.part site w.data.length w.addr = false then s
      else if h.d.mode = 2 then (t.progressBy h.part site 0).queueSend h
      else ((if left.any (fun v => v.pos == w.pos) then t else t.storedAt h w.pos).progressBy h.part site 0).endWrite h) := by
  subst ht hleft hx
  simp only [execHbmWriteAcknowledge, if_neg h4, hh, hp]
  rw [apply_ite Host.Outcome.next, apply_ite Host.Outcome.next]
  cases s.reachable h.part site w.data.length w.addr <;> rfl
end

/-! ### Queues (R101 to R104, R211) -/

theorem execQueueTransfer_of_other (hm : h.d.mode ≠ 2) : execQueueTransfer site e s = .next s := by
  simp only [execQueueTransfer, hh]
  exact if_pos hm

section
variable (hm : h.d.mode = 2) {t : State} (ht : t = s.queueSend h)
include hm ht

theorem execQueueTransfer_of_ended (hg : t.hatch site e = none) : execQueueTransfer site e s = .next t := by
  subst ht
  simp only [execQueueTransfer, hh, hg]
  exact if_neg (not_not.2 hm)

theorem execQueueTransfer_of_next {g : Hatch} (hg : t.hatch site e = some g) :
    execQueueTransfer site e s = .next (if g.d.mode = 2 then t.queueTake g else t) := by
  subst ht
  simp only [execQueueTransfer, hh, hg]
  exact (if_neg (not_not.2 hm)).trans (apply_ite Host.Outcome.next _ _ _).symm
end
end

/-- A descriptor's innermost count is at least one. -/
theorem Desc.counts_pos (d : Desc) : 0 < d.counts.getD 0 1 := Nat.succ_pos _

section
variable {t : State} {g : Hatch} {site e slot : Nat} {x : Engine} (hplace : g.site = site ∧ g.eng = e)
  (hslot : slot = g.d.port - 4) (hx : x = t.engine site e)
include hplace hslot hx

theorem State.queueTake_of_still (h : (t.site site).su.outFifo slot = [] ∨ x.ended = true) : t.queueTake g = t := by
  obtain ⟨rfl, rfl⟩ := hplace
  subst hslot hx
  unfold State.queueTake
  dsimp only
  split
  next => rfl
  next f rest hf =>
    rw [hf] at h
    exact if_pos (by simpa using h)

variable {f : Xfer} {rest : List Xfer} (hf : (t.site site).su.outFifo slot = f :: rest) (hend : x.ended = false)
  {u : State} (hu : u = (t.setSu site ((t.site site).su.take slot rest)).progress g.part site)
  {y : Engine} (hy : y = { u.engine site e with ended := x.ended || f.eos })
include hf hend hu hy

/-- With nothing held and a credit the transfer passes straight on. -/
theorem State.queueTake_of_credit (hring : x.ring = []) (hext : x.ext = []) (hb : x.bank = none)
    (hc : 0 < (t.site site).su.credit (slotKey 5 slot)) : t.queueTake g =
      (((u.setEngine site e y).enterSu site slot [f]).progress g.part site).endQueue g := by
  obtain ⟨rfl, rfl⟩ := hplace
  subst hslot hx hy hu
  simp only [State.queueTake, hf]
  exact (if_neg (by simp [hend])).trans (if_pos (by simp [hring, hext, hb, hc]))

/-- While the bank ring has room it takes the transfer, one write at a time. -/
theorem State.queueTake_of_ring
    (hheld : x.ring ≠ [] ∨ x.bank ≠ none ∨ (t.site site).su.credit (slotKey 5 slot) = 0) (hext : x.ext = [])
    (hroom : x.ring.length < g.d.counts.getD 0 1) {a : Nat} (ha : a = g.d.base + x.pos % g.d.counts.getD 0 1) {v : State}
    (hv : v = u.setEngine site e { y with
      bank := some ⟨true, bit01 f.last, ⟨f.tag, f.eos, f.mark, []⟩, [(a, some f.data)]⟩, pos := x.pos + 1 }) :
    t.queueTake g =
      if x.bank ≠ none then t
      else ((v.setMu site { (v.site site).mu with reqs := (v.site site).mu.reqs ++ bankReqs g [(a, some f.data)] }).bump
        .siteQgrow [site] 1).grantAlone g.part site (a % 16) (4 + e) := by
  obtain ⟨rfl, rfl⟩ := hplace
  subst hv ha hslot hx hy hu
  simp only [State.queueTake, hf]
  refine (if_neg (by simp [hend])).trans ((if_neg ?_).trans ((if_pos (by simpa [hext] using hroom)).trans ?_))
  · simp only [Bool.and_eq_true, List.isEmpty_iff, Option.isNone_iff_eq_none, decide_eq_true_eq]
    rintro ⟨⟨⟨hr, -⟩, hb⟩, hc⟩
    rcases hheld with h | h | h
    · exact h hr
    · exact h hb
    · omega
  · simp only [Option.isSome_iff_ne_none]

/-- Behind spilled transfers and beside a full ring it is spilled, while the extension has room. -/
theorem State.queueTake_of_spill (hfull : x.ext ≠ [] ∨ g.d.counts.getD 0 1 ≤ x.ring.length) : t.queueTake g =
    if x.ext.length < g.d.extension ∧ (t.extAddr g 0).isSome then (u.setEngine site e y).spillWrite g f else t := by
  obtain ⟨rfl, rfl⟩ := hplace
  subst hslot hx hy hu
  have hheld : (t.engine g.site g.eng).ext ≠ [] ∨ (t.engine g.site g.eng).ring ≠ [] :=
    hfull.imp_right fun hlen hnil => absurd hlen (by rw [hnil]; exact Nat.not_le.2 g.d.counts_pos)
  simp only [State.queueTake, hf]
  refine (if_neg (by simp [hend])).trans ((if_neg ?_).trans ((if_neg ?_).trans ?_))
  · simp only [Bool.and_eq_true, List.isEmpty_iff]
    rintro ⟨⟨⟨hr, he⟩, -⟩, -⟩
    exact hheld.elim (absurd he) (absurd hr)
  · simp only [Bool.and_eq_true, List.isEmpty_iff, decide_eq_true_eq]
    rintro ⟨he, hlt⟩
    exact hfull.elim (absurd he) (Nat.not_le.2 hlt)
  · simp only [Bool.and_eq_true, decide_eq_true_eq]
end

/-! ### READ streams: banks and KV pages -/

section
variable {s : State} {h : Hatch} {site e : Nat} {x : Engine} (hplace : h.site = site ∧ h.eng = e) (hx : x = s.engine site e)
include hplace hx

theorem State.bankRead_of_waiting (hno : x.bank ≠ none ∨ s.roomAt h h.d.len = false) (k addr : Nat) (edge : Bool) :
    s.bankRead h k addr edge = s := by
  obtain ⟨rfl, rfl⟩ := hplace
  subst hx
  refine if_pos ?_
  simpa [Option.isSome_iff_ne_none] using hno

/-- With room a margin is sent at once; any other operand asks its banks for its words. -/
theorem State.bankRead_of_room (hb : x.bank = none) (hr : s.roomAt h h.d.len = true) (k addr : Nat) (edge : Bool) :
    s.bankRead h k addr edge =
      let o : Operand := ⟨streamTag h.d k, false, 0, marginWords h.d.fmt h.d.mkind h.d.mconst h.d.mtx⟩
      let ws := (List.range h.d.len).map (fun j => (addr + j, (none : Option Line)))
      let u := s.setEngine site e { x with
        pos := x.pos + 1, bank := some ⟨false, k, ⟨streamTag h.d k, false, 0, []⟩, ws⟩ }
      if edge then (((s.setEngine site e { x with pos := x.pos + 1 }).deliverOp h o).afterSend h).endPass h
      else u.setMu site { (u.site site).mu with reqs := (u.site site).mu.reqs ++ bankReqs h ws } := by
  obtain ⟨rfl, rfl⟩ := hplace
  subst hx
  exact if_neg (by simp [hb, hr])

/-- By what stands at the place of the KV space: a margin, mask words, or a page whose words are asked for once they are
written. -/
theorem State.kvRead_eq (k addr : Nat) (edge : Bool) : s.kvRead h k addr edge =
    match s.kvPlace h.part addr with
    | .margin mark => s.bufferOp h (marginOp h k mark)
    | .mask l => s.bufferOp h (if edge then marginOp h k 16 else readyOp k 4 16 (boundWords h 16 l))
    | .wait fmt => if edge then s.bufferOp h (marginOp h k (kvMark fmt)) else s
    | .page fmt _ _ _ _ =>
      let len := 64 * (pageWords fmt + bit01 (decide (3 ≤ fmt)))
      if edge then s.bufferOp h (marginOp h k (kvMark fmt))
      else if mayRequest x len then s.queueRead h ⟨addr, len, none, [(k, len / 64, kvMark fmt)], none⟩
      else s := by
  obtain ⟨rfl, rfl⟩ := hplace
  subst hx
  rfl
end

/-- Settles O50: each command by its cases, and each case by the guards that the statement names. -/
theorem memoryUnitStreamsAndGrants : Obligations.MemoryUnitStreamsAndGrants := by
  unfold Obligations.MemoryUnitStreamsAndGrants
  intro s p site e bank sem who n c q h g o rest f r pw w ap x ed rw off pg miss word m g0 granted eng b actor turn granting
    ready y sync waited z ix addr k edge buffered ws asked blank run isOut got slot more ew taken pos total may place left
    posted sent v qslot moved v1 at1 rung armed stood opens unit hd layer head kv chunk bad key hdr written
  refine ⟨fun hw => ⟨?_, ?_, ?_⟩,
    fun hw => ⟨fun hq => ?_,
      fun hq => ⟨fun hn => ?_, fun hn => ⟨fun hwho hc => ?_, fun hwho hc => ?_, fun hwho => ?_⟩⟩,
      fun ha => ?_, fun ha => ?_, fun hno => ?_,
      fun ho hmu hsite hap => ⟨fun he => ?_, fun he hf => ?_,
        fun he hf => ⟨fun hx => ?_, fun hx => ⟨fun hr => ?_,
          fun hr => ⟨fun hex => ?_, fun hex hout => ?_, fun hex hl hhd hc => ?_⟩⟩⟩⟩⟩,
    fun hno => ?_, fun hp hwho => ⟨fun h8 => ?_, fun h8 => ?_⟩, ?_, fun hmiss => ?_, fun hh => ?_, fun hh => ?_⟩
  · exact execSemaphoreGrant_of_unused hw sem
  · exact execAppendArrival_of_unused hw
  · exact (execHbmWriteAcknowledge_append site s).trans (by rw [hw])
  · exact execSemaphoreGrant_of_no_waiter rfl hq
  · exact (execSemaphoreGrant_of_waiter rfl hw hq rfl).trans (if_pos hn)
  · refine (execSemaphoreGrant_of_waiter rfl hw hq rfl).trans ?_
    rw [if_neg (Nat.not_lt.2 hn), if_pos hwho, hc]
  · refine (execSemaphoreGrant_of_waiter rfl hw hq rfl).trans ?_
    rw [if_neg (Nat.not_lt.2 hn), if_pos hwho, hc]
  · exact (execSemaphoreGrant_of_waiter rfl hw hq rfl).trans
      ((if_neg (Nat.not_lt.2 hn)).trans (if_neg (Nat.not_lt.2 hwho)))
  · exact (execHbmWriteAcknowledge_append site s).trans (by rw [hw, ha])
  · refine (execHbmWriteAcknowledge_append site s).trans ?_
    rw [hw, ha]
    exact (apply_ite Host.Outcome.next _ _ _).symm
  · exact execAppendArrival_of_still hw hno
  · exact execAppendArrival_of_marker hw ho hmu hsite hap rfl he
  · exact execAppendArrival_of_no_step hw ho hmu hsite hap rfl he hf
  · exact execAppendArrival_of_no_edition hw ho hmu hsite hap rfl he hf hx
  · exact execAppendArrival_of_no_record hw ho hmu hsite hap rfl he hf hx rfl hr
  · exact (execAppendArrival_of_record hw ho hmu hsite hap rfl he hf hx rfl hr rfl).trans (if_pos hex)
  · exact (execAppendArrival_of_record hw ho hmu hsite hap rfl he hf hx rfl hr rfl).trans
      ((if_neg (Bool.eq_false_iff.1 hex)).trans (if_pos hout))
  · have hfit := fun page hpage =>
      (execAppendArrival_of_record (page := page) hw ho hmu hsite hap rfl he hf hx rfl hr hpage).trans
        ((if_neg (Bool.eq_false_iff.1 hex)).trans (if_neg (by rintro (h | h | h) <;> omega)))
    refine ⟨fun hk => ?_, fun hk hpg => ?_, fun hk hpg => ?_⟩
    · exact (hfit _ rfl).trans (if_pos hk)
    · exact (hfit _ hpg).trans (if_neg (Bool.eq_false_iff.1 hk))
    · exact (hfit _ hpg).trans (if_neg (Bool.eq_false_iff.1 hk))
  · exact execBankGrant_of_still rfl hno
  · exact execBankGrant_of_atom rfl hp hwho rfl rfl h8
  · exact execBankGrant_of_request rfl hp hwho rfl rfl h8
  · exact ⟨congrArg _ (s.atomTurn_eq site b 8), congrArg _ (s.atomTurn_eq site b 9),
      congrArg _ (s.atomTurn_eq site b 10)⟩
  · exact execMuArmWrite_of_missed hmiss word
  · obtain ⟨hrearm, hread, hresponse, hwrite, hqueue, hack, harm⟩ := exec_engine_of_idle hh
    exact ⟨hrearm, hread, hresponse, hwrite, hqueue, hack, fun hm => harm hm word⟩
  · refine ⟨fun hm => ?_, fun hno => ?_, fun ho ha hn => ?_,
      fun hm => ?_, fun hm => ⟨fun hpos => ?_, fun hpos hs => ?_, fun hpos hs => ?_⟩,
      fun hm => ?_, fun hm => ?_,
      fun h1 h2 => ⟨fun hr => ?_, fun hr => ⟨fun h3 => ?_, fun l h3 hl => ?_, fun h3 hl => ?_⟩⟩,
      fun hno => ?_,
      fun ho hm hb hend => ⟨fun hctx => ?_, fun hctx he => ?_,
        fun hctx he => ⟨fun hpos => ?_, fun hpos hs => ?_, fun hpos hs => ?_⟩⟩,
      fun h4 => ⟨fun hp => ?_, fun hp => ?_⟩,
      fun hm => ?_, fun hm => ⟨fun hg => ?_, fun hg => ⟨fun hno => ?_,
        fun hg2 hf hend => ⟨fun hring hext hb hc => ?_, fun hheld hext hroom => ?_, fun hfull => ?_⟩⟩⟩⟩
    · exact execMuArmWrite_of_hatch hh rfl hm word
    · exact execRearmWord_of_still hh rfl hno
    · exact execRearmWord_of_word hh rfl ho ha hn
    · exact execHatchReadOperand_of_other hh hm
    · exact execHatchReadOperand_of_end hh hm rfl hpos
    · exact execHatchReadOperand_of_syncing hh hm rfl rfl hpos (Prod.ext rfl hs)
    · have hnext := execHatchReadOperand_of_synced hh hm rfl rfl hpos (u := waited) (Prod.ext rfl hs) (x := z) rfl
        (addr := addr) rfl (edge := edge) rfl
      have hplace := State.hatch_place hh
      refine ⟨fun h0 hno => ?_, fun h0 hb hr => ?_, fun h3 => ?_, fun h0 h3 => ?_⟩
      · exact hnext.trans (congrArg _ ((if_pos h0).trans (State.bankRead_of_waiting hplace rfl hno k addr edge)))
      · exact hnext.trans (congrArg _ ((if_pos h0).trans (State.bankRead_of_room hplace rfl hb hr k addr edge)))
      · exact hnext.trans (congrArg _ ((if_neg (by omega)).trans ((if_pos h3).trans
          (State.kvRead_eq hplace rfl k addr edge))))
      · exact hnext.trans (congrArg _ ((if_neg h0).trans (if_neg h3)))
    · exact execHbmReadResponse_of_queue hh hm
    · exact execHbmReadResponse_of_write hh hm
    · exact execHbmReadResponse_of_no_read hh h1 h2 rfl hr
    · exact execHbmReadResponse_of_page hh h1 h2 rfl hr h3
    · exact execHbmReadResponse_of_collective hh h1 h2 rfl hr h3 hl
    · exact execHbmReadResponse_of_memory hh h1 h2 rfl hr h3 hl
    · exact execWriteStreamOperand_of_still hh rfl rfl rfl hno
    · exact execWriteStreamOperand_of_stranger hh rfl rfl rfl ho hm hb hend hctx
    · exact execWriteStreamOperand_of_marker hh rfl rfl rfl ho hm hb hend hctx he
    · exact execWriteStreamOperand_of_beyond hh rfl rfl rfl ho hm hb hend hctx he rfl hpos
    · exact execWriteStreamOperand_of_syncing hh rfl rfl rfl ho hm hb hend hctx he rfl hpos (Prod.ext rfl hs)
    · exact execWriteStreamOperand_of_synced hh rfl rfl rfl ho hm hb hend hctx he rfl hpos (Prod.ext rfl hs)
    · exact execHbmWriteAcknowledge_of_none hh h4 rfl hp
    · exact execHbmWriteAcknowledge_of_posted hh h4 rfl hp rfl rfl
    · exact execQueueTransfer_of_other hh hm
    · exact execQueueTransfer_of_ended hh hm rfl hg
    · refine (execQueueTransfer_of_next hh hm rfl hg).trans (congrArg _ ?_)
      rcases hno with h2 | hno
      · exact if_neg h2
      · exact ite_eq_right_iff.2 fun _ => State.queueTake_of_still (State.hatch_place hg) rfl rfl hno
    · refine (execQueueTransfer_of_next hh hm rfl hg).trans (congrArg _ ((if_pos hg2).trans ?_))
      exact State.queueTake_of_credit (State.hatch_place hg) rfl rfl hf hend rfl rfl hring hext hb hc
    · refine (execQueueTransfer_of_next hh hm rfl hg).trans (congrArg _ ((if_pos hg2).trans ?_))
      exact State.queueTake_of_ring (State.hatch_place hg) rfl rfl hf hend rfl rfl hheld hext hroom rfl rfl
    · refine (execQueueTransfer_of_next hh hm rfl hg).trans (congrArg _ ((if_pos hg2).trans ?_))
      exact State.queueTake_of_spill (State.hatch_place hg) rfl rfl hf hend rfl rfl hfull

end Sys2Proof.Machine
end

section
/-! SUPPORT. The numeric formats and the exact arithmetic (R165 to R173): every code decodes to a value that rounds back to
it in every rounding mode, the sign bit of a code is the sign of its value, and exact sums and products do not depend on
the order of their terms. -/

namespace Sys2Proof

/-! ### The finite values of a format (R165) -/

/-- The exponent of the last place of a format's subnormals. -/
def Fmt.minExp (f : Fmt) : Int := 1 - Int.ofNat f.bias - Int.ofNat f.mbits

/-- A format holds the magnitude m times 2 ^ e under a code without sign. -/
structure Fmt.Holds (f : Fmt) (m : Nat) (e : Int) (code : Nat) : Prop where
  minExp_le : f.minExp ≤ e
  lt_two_pow : m < 2 ^ (f.mbits + 1)
  /-- A mantissa without the leading bit stands at the subnormal exponent only. -/
  normal_or : 2 ^ f.mbits ≤ m ∨ e = f.minExp
  code_eq : code = if m < 2 ^ f.mbits then m else (e - f.minExp).toNat * 2 ^ f.mbits + m
  code_le : code ≤ f.maxCode

/-- The exponent that rounding picks for a held value is the value's own. -/
theorem Fmt.Holds.roundExp {f : Fmt} {m code : Nat} {e : Int} (h : f.Holds m e code) (h0 : m ≠ 0) :
    max f.minExp (Int.ofNat (Nat.log2 m) + e - Int.ofNat f.mbits) = e := by
  have hlog : Nat.log2 m < f.mbits + 1 := (Nat.log2_lt h0).2 h.lt_two_pow
  have hlow := h.minExp_le
  simp only [Int.ofNat_eq_natCast]
  rcases h.normal_or with hn | he
  · have hlog' : f.mbits ≤ Nat.log2 m := (Nat.le_log2 h0).2 hn
    omega
  · omega

/-- A held value is rounded without a shift, so it keeps its code whatever the rounding mode. -/
theorem Fmt.Holds.round_eq {f : Fmt} {m code : Nat} {e : Int} (h : f.Holds m e code) (r : Rnd) (sat neg : Bool) :
    f.round r sat neg m e = f.sign neg + code := by
  have hcode := h.code_eq
  by_cases h0 : m = 0
  · simp [Fmt.round, hcode, h0]
  have hexp := h.roundExp h0
  unfold Fmt.minExp at hcode hexp
  simp only [Fmt.round, if_neg h0, hexp, natOf, le_refl, if_true, sub_self, Int.toNat_zero, pow_zero, mul_one, ← hcode,
    if_pos h.code_le]

/-! ### What a code decodes to (R165 to R167) -/

/-- A code is its sign bit and its magnitude. -/
theorem Fmt.sign_add_magnitude {f : Fmt} {c : Nat} (hc : c < 2 ^ f.width) :
    f.sign (c.testBit (f.ebits + f.mbits)) + c % 2 ^ (f.ebits + f.mbits) = c := by
  have hsplit : c % 2 ^ f.width = c % 2 ^ (f.ebits + f.mbits) +
      2 ^ (f.ebits + f.mbits) * (c.testBit (f.ebits + f.mbits)).toNat := by
    rw [Fmt.width, Nat.add_assoc, Nat.add_comm 1, Nat.mod_pow_succ, Nat.toNat_testBit]
  rw [Nat.mod_eq_of_lt hc] at hsplit
  cases hs : c.testBit (f.ebits + f.mbits) <;> simp [Fmt.sign, hs] at hsplit ⊢ <;> omega

/-- Only the top exponent of an IEEE format decodes to an infinity, with mantissa zero. -/
theorem Fmt.decode_inf {f : Fmt} {c : Nat} {neg : Bool} (h : f.decode c = .inf neg) :
    neg = c.testBit (f.ebits + f.mbits) ∧
      c % 2 ^ (f.ebits + f.mbits) = (2 ^ f.ebits - 1) * 2 ^ f.mbits := by
  simp only [Fmt.decode] at h
  split_ifs at h with htop hman
  · injection h with hneg
    have hex := (Bool.and_eq_true_iff.1 htop).2
    have hdiv := Nat.div_add_mod' (c % 2 ^ (f.ebits + f.mbits)) (2 ^ f.mbits)
    rw [beq_iff_eq.1 hex, hman] at hdiv
    exact ⟨hneg.symm, hdiv.symm⟩

/-- A magnitude outside the codes of infinity and NaN is at most the largest finite code. -/
theorem Fmt.magnitude_le_maxCode {f : Fmt} {a : Nat} (ha : a < 2 ^ (f.ebits + f.mbits))
    (hieee : ¬(f.ieee && a / 2 ^ f.mbits == 2 ^ f.ebits - 1) = true)
    (htop : ¬(f.topNan && a == 2 ^ (f.ebits + f.mbits) - 1) = true) : a ≤ f.maxCode := by
  unfold Fmt.maxCode
  split_ifs with hi ht
  · have hex : a / 2 ^ f.mbits < 2 ^ f.ebits := Nat.div_lt_of_lt_mul (by rwa [← pow_add, add_comm])
    have hne : a / 2 ^ f.mbits ≠ 2 ^ f.ebits - 1 := by simpa [hi] using hieee
    have hlt : a < (2 ^ f.ebits - 1) * 2 ^ f.mbits := (Nat.div_lt_iff_lt_mul (by positivity)).1 (by omega)
    omega
  · have hne : a ≠ 2 ^ (f.ebits + f.mbits) - 1 := by simpa [ht] using htop
    omega
  · omega

/-- A code that decodes to a finite value is the code under which its format holds that value. -/
theorem Fmt.decode_fin {f : Fmt} {c m : Nat} {neg : Bool} {e : Int} (h : f.decode c = .fin neg m e) :
    neg = c.testBit (f.ebits + f.mbits) ∧ f.Holds m e (c % 2 ^ (f.ebits + f.mbits)) := by
  have ha : c % 2 ^ (f.ebits + f.mbits) < 2 ^ (f.ebits + f.mbits) := Nat.mod_lt _ (by positivity)
  simp only [Fmt.decode] at h
  generalize c % 2 ^ (f.ebits + f.mbits) = a at ha h ⊢
  have hmax := Fmt.magnitude_le_maxCode ha
  have hman : a % 2 ^ f.mbits < 2 ^ f.mbits := Nat.mod_lt _ (by positivity)
  have hdiv := Nat.div_add_mod' a (2 ^ f.mbits)
  generalize a / 2 ^ f.mbits = ex at h hmax hdiv
  generalize a % 2 ^ f.mbits = man at h hman hdiv
  split_ifs at h with htop hinf hnan hex
  · obtain ⟨rfl, rfl, rfl⟩ := Num.fin.inj h
    refine ⟨rfl, le_rfl, by omega, .inr rfl, ?_, hmax htop hnan⟩
    rw [if_pos hman, ← hdiv, hex, Nat.zero_mul, Nat.zero_add]
  · obtain ⟨rfl, rfl, rfl⟩ := Num.fin.inj h
    have hdist : Int.ofNat ex - Int.ofNat f.bias - Int.ofNat f.mbits - f.minExp = Int.ofNat ex - 1 := by
      unfold Fmt.minExp
      ring
    have hexp : (Int.ofNat ex - 1).toNat + 1 = ex := by simp only [Int.ofNat_eq_natCast]; omega
    refine ⟨rfl, ?_, by omega, .inl (by omega), ?_, hmax htop hnan⟩
    · rw [← sub_nonneg, hdist, Int.ofNat_eq_natCast]
      omega
    · rw [if_neg (by omega), hdist, ← Nat.add_assoc, ← Nat.succ_mul, Nat.succ_eq_add_one, hexp, hdiv]

/-- Exact results are kept exactly in every format and rounding mode: a finite value rounds to the code it came from. -/
theorem Fmt.round_of_decode {f : Fmt} {c m : Nat} {neg : Bool} {e : Int} (hc : c < 2 ^ f.width)
    (h : f.decode c = .fin neg m e) (r : Rnd) (sat : Bool) : f.round r sat neg m e = c := by
  obtain ⟨rfl, hheld⟩ := Fmt.decode_fin h
  rw [hheld.round_eq, Fmt.sign_add_magnitude hc]

/-! ### The sign bit (R166) -/

/-- A code with its sign bit inverted. -/
def Fmt.flipSign (f : Fmt) (c : Nat) : Nat := c ^^^ 2 ^ (f.ebits + f.mbits)

theorem Fmt.flipSign_lt {f : Fmt} {c : Nat} (hc : c < 2 ^ f.width) : f.flipSign c < 2 ^ f.width :=
  Nat.xor_lt_two_pow hc (Nat.pow_lt_pow_right (by decide) (by unfold Fmt.width; omega))

/-- Inverting the sign bit negates the value. -/
theorem Fmt.decode_flipSign (f : Fmt) (c : Nat) : f.decode (f.flipSign c) = numNeg (f.decode c) := by
  have hmag : f.flipSign c % 2 ^ (f.ebits + f.mbits) = c % 2 ^ (f.ebits + f.mbits) := by
    rw [Fmt.flipSign, Nat.xor_mod_two_pow, Nat.mod_self, Nat.xor_zero]
  have hsign : (f.flipSign c).testBit (f.ebits + f.mbits) = !c.testBit (f.ebits + f.mbits) := by
    rw [Fmt.flipSign, Nat.testBit_xor, Nat.testBit_two_pow_self, Bool.xor_true]
  simp only [Fmt.decode, hmag, hsign]
  split_ifs <;> rfl

@[simp] theorem numNeg_numNeg (n : Num) : numNeg (numNeg n) = n := by
  cases n <;> simp [numNeg]

@[simp] theorem numNeg_eq_nan {n : Num} : numNeg n = .nan ↔ n = .nan := by
  cases n <;> simp [numNeg]

/-! ### FP32 codes -/

/-- Rounding the value of an FP32 code that is no NaN gives the code back. -/
theorem toFp32_ofFp32 {a : Nat} (ha : a < 2 ^ 32) (hnan : ofFp32 a ≠ .nan) : toFp32 (ofFp32 a) = a := by
  cases h : ofFp32 a with
  | nan => exact absurd h hnan
  | inf neg =>
    obtain ⟨rfl, hmag⟩ := Fmt.decode_inf h
    have hsplit := Fmt.sign_add_magnitude (f := fp32) ha
    rwa [hmag] at hsplit
  | fin neg m e => exact Fmt.round_of_decode (f := fp32) ha h rne false

/-- The negated value of an FP32 code that is no NaN rounds to a code of exactly that value. -/
theorem ofFp32_toFp32_numNeg {a : Nat} (ha : a < 2 ^ 32) (hnan : ofFp32 a ≠ .nan) :
    ofFp32 (toFp32 (numNeg (ofFp32 a))) = numNeg (ofFp32 a) := by
  have hflip : ofFp32 (fp32.flipSign a) = numNeg (ofFp32 a) := fp32.decode_flipSign a
  have hnan' : ofFp32 (fp32.flipSign a) ≠ .nan := by rwa [hflip, Ne, numNeg_eq_nan]
  rw [← hflip, toFp32_ofFp32 (Fmt.flipSign_lt (f := fp32) ha) hnan']

/-! ### Exact sums and products (R172, R173) -/

theorem lowExp_perm {l k : List Num} (h : l.Perm k) (d : Int) : lowExp l d = lowExp k d := by
  refine h.foldl_eq' (fun x _ y _ z => ?_) d
  cases x <;> cases y <;> simp only [min_right_comm]

/-- An exact sum does not depend on the order of its terms. -/
theorem numSum_perm {l k : List Num} (h : l.Perm k) : numSum l = numSum k := by
  simp only [numSum, h.any_eq, h.isEmpty_eq, h.all_eq, lowExp_perm h]
  rw [h.foldl_eq' (init := 0) fun x _ y _ z => by cases x <;> cases y <;> simp only [add_right_comm]]

/-- An exact product does not depend on the order of its factors. -/
theorem numMul_comm (x y : Num) : numMul x y = numMul y x := by
  cases x <;> cases y <;> simp only [numMul, bne_comm, Nat.mul_comm, add_comm]

/-- Settles O48: an FP32 code that is no NaN holds its own value, and exact sums and products are symmetric. -/
theorem roundingIsExactOnItsOwnValues : Obligations.RoundingIsExactOnItsOwnValues := by
  unfold Obligations.RoundingIsExactOnItsOwnValues
  refine ⟨fun a ha hnan => ⟨toFp32_ofFp32 ha hnan, ?_⟩, fun a b => ⟨?_, ?_⟩⟩
  · rw [ofFp32_toFp32_numNeg ha hnan, numNeg_numNeg, toFp32_ofFp32 ha hnan]
  · rw [numSum_perm (.swap _ _ _)]
  · rw [numMul_comm]

end Sys2Proof
end

section
/-! SUPPORT. The atomic requests of other modules (R219, R220, R463, R464, R466): acceptance, the queue of the home bank, the grant of
a request that finds its bank free, and the operation on its word. -/

namespace Sys2Proof.Machine

/-! ### Requests of R463 -/

section
variable {s t : State} {port typ rsp p : Nat} {h : Hdr} {body : List Byte}

theorem State.receiveReq_of_accepted (ht : t = s.consume port typ body.length) (ha : t.accept h = .ok p)
    (f : State → Nat → State) : s.receiveReq port typ rsp h body f = f t p := by
  subst ht
  simp only [State.receiveReq, ha]

theorem State.receiveReq_of_stale (ht : t = s.consume port typ body.length) (ha : t.accept h = .stale p)
    (f : State → Nat → State) : s.receiveReq port typ rsp h body f = t.send p rsp h.src false 5 h.txn [] := by
  subst ht
  simp only [State.receiveReq, ha]

theorem State.receiveReq_of_bad (ht : t = s.consume port typ body.length) (ha : t.accept h = .bad)
    (f : State → Nat → State) : s.receiveReq port typ rsp h body f = t.discardMsg port := by
  subst ht
  simp only [State.receiveReq, ha]
end

/-! ### Operations on words (R219) -/

/-- The word that an atomic operation leaves, in 64-bit arithmetic; the sum of FADD is its FP32 code. -/
def atomResultWord (kind old x y : Nat) : BitVec 64 :=
  let was := BitVec.ofNat 64 old
  let arg := BitVec.ofNat 64 x
  match kind with
  | 0 => was + arg
  | 1 => if was ≤ arg then arg else was
  | 2 => if was ≤ arg then was else arg
  | 3 => was &&& arg
  | 4 => was ||| arg
  | 5 => arg
  | 6 => if was = BitVec.ofNat 64 y then arg else was
  | _ => BitVec.ofNat 64 (toFp32 (numSum [ofFp32 old, ofFp32 (x % 2 ^ 32)]))

theorem ofNat64_mod (n : Nat) : BitVec.ofNat 64 (n % 2 ^ 64) = BitVec.ofNat 64 n :=
  BitVec.eq_of_toNat_eq (by rw [BitVec.toNat_ofNat, BitVec.toNat_ofNat, Nat.mod_mod])

/-- The model's result of an operation, on a word of at most 64 bits, is this word. -/
theorem ofNat_atomResult {old : Nat} (h : old < 2 ^ 64) (kind x y : Nat) :
    BitVec.ofNat 64 (atomResult kind old x y) = atomResultWord kind old x y := by
  have hle : BitVec.ofNat 64 old ≤ BitVec.ofNat 64 x ↔ old ≤ x % 2 ^ 64 := by
    rw [BitVec.le_def, BitVec.toNat_ofNat, BitVec.toNat_ofNat, Nat.mod_eq_of_lt h]
  have heq : BitVec.ofNat 64 old = BitVec.ofNat 64 y ↔ old = y % 2 ^ 64 := by
    rw [← BitVec.toNat_inj, BitVec.toNat_ofNat, BitVec.toNat_ofNat, Nat.mod_eq_of_lt h]
  match kind with
  | 0 => exact (ofNat64_mod _).trans (BitVec.ofNat_add _ _)
  | 1 => simp only [atomResult, atomResultWord, hle, max_def, apply_ite (BitVec.ofNat 64), ofNat64_mod]
  | 2 => simp only [atomResult, atomResultWord, hle, min_def, apply_ite (BitVec.ofNat 64), ofNat64_mod]
  | 3 => exact BitVec.ofNat_and.trans (congrArg _ (ofNat64_mod x))
  | 4 => exact BitVec.ofNat_or.trans (congrArg _ (ofNat64_mod x))
  | 5 => exact ofNat64_mod x
  | 6 => simp only [atomResult, atomResultWord, heq, apply_ite (BitVec.ofNat 64), ofNat64_mod]
  | _ + 7 => rfl

theorem lineGet_lt (l : Line) (off bits : Nat) : lineGet l off bits < 2 ^ bits :=
  Nat.mod_lt _ (Nat.two_pow_pos bits)

/-- A line takes only the bits of the word that it has room for. -/
theorem linePut_toNat_ofNat {bits : Nat} (h : bits ≤ 64) (l : Line) (off n : Nat) :
    linePut l off bits (BitVec.ofNat 64 n).toNat = linePut l off bits n := by
  rw [linePut, linePut, BitVec.toNat_ofNat, Nat.mod_mod_of_dvd _ (pow_dvd_pow 2 h)]

/-- What an operation stores in its line (R219). -/
theorem linePut_atomResult {bits : Nat} (h : bits ≤ 64) (kind x y : Nat) (l : Line) (off : Nat) :
    linePut l off bits (atomResult kind (lineGet l off bits) x y) =
      linePut l off bits (atomResultWord kind (lineGet l off bits) x y).toNat := by
  have hold : lineGet l off bits < 2 ^ 64 := (lineGet_lt l off bits).trans_le (Nat.pow_le_pow_right (by decide) h)
  rw [← ofNat_atomResult hold, linePut_toNat_ofNat h]

/-! ### The atomic unit (R194, R195, R220) -/

section
variable {s t : State} {p site w : Nat} {op : AtomOp}

/-- The bits of a word that an operation of another module works on (R219). -/
def AtomOp.width (op : AtomOp) : Nat := if op.kind = 7 then 32 else 64

/-- Where in its line those bits begin: the word is aligned to its size. -/
def AtomOp.offset (op : AtomOp) : Nat := op.addr % 64 * 8 / op.width * op.width

theorem AtomOp.width_le (op : AtomOp) : op.width ≤ 64 := by
  unfold AtomOp.width
  split <;> decide

/-- An operation of R219 that another module asks for. -/
def AtomOp.Remote (op : AtomOp) : Prop := op.kind < 8 ∧ op.dest = 2

theorem State.atomAnswer_of_remote (hr : op.Remote) (status old : Nat) : s.atomAnswer op status old =
    s.send op.a 0x17 op.b false status op.c (if status = 0 then leBytes 8 old else []) :=
  if_pos hr.2

theorem State.answerBlocked_of_remote (hr : op.Remote) : s.answerBlocked op = false := by
  simp [State.answerBlocked, hr.2]

/-- A bank that is closed to the atomic unit keeps its word (R195). -/
theorem State.doAtom_of_closed (hr : op.Remote) (hw : w = op.addr / 64) (hm : s.atomicMay site w = false) :
    s.doAtom p site op = (s.ownerMiss p site).send op.a 0x17 op.b false 2 op.c [] := by
  subst hw
  have hkind := hr.1
  simp only [State.doAtom, hm]
  exact (if_neg (by omega)).trans ((if_pos rfl).trans (State.atomAnswer_of_remote hr 2 0))

/-- An open bank stores the result and answers with the old value (R219, R464). -/
theorem State.doAtom_of_open (hr : op.Remote) (hw : w = op.addr / 64) (hm : s.atomicMay site w = true) {line : Line}
    (hl : line = (s.site site).mu.word w) {old : Nat} (ho : old = lineGet line op.offset op.width) :
    s.doAtom p site op = ((s.setMu site ((s.site site).mu.setWord w (linePut line op.offset op.width
      (atomResultWord op.kind old op.x op.y).toNat))).progress p site).send op.a 0x17 op.b false 0 op.c (leBytes 8 old) := by
  subst hw hl ho
  have hkind := hr.1
  rw [← linePut_atomResult op.width_le]
  simp only [State.doAtom, hm]
  exact (if_neg (by omega)).trans ((if_neg (by decide)).trans ((if_pos hkind).trans (State.atomAnswer_of_remote hr 0 _)))

/-- The queue of a bank holds other operations (R220). -/
def State.setAtoms (s : State) (site b : Nat) (q : List AtomOp) : State :=
  s.setMu site { (s.site site).mu with atoms := tabSet (fun _ => []) (s.site site).mu.atoms b q }

/-- The bank's turn falls on a requester (R194). -/
def State.turnTo (s : State) (site b who : Nat) : State :=
  s.setMu site { (s.site site).mu with last := tabSet (fun _ => 9) (s.site site).mu.last b who }

@[simp] theorem State.atomFor_turnTo (b who : Nat) : (s.turnTo site b who).atomFor site = s.atomFor site := rfl

theorem State.queueAtom_of_room (hq : ((s.site site).mu.atomQueue (op.addr / 64 % 16)).length < 16) : s.queueAtom site op =
    some (s.setAtoms site (op.addr / 64 % 16) ((s.site site).mu.atomQueue (op.addr / 64 % 16) ++ [op])) := if_pos hq

theorem State.queueAtom_of_full (hq : 16 ≤ ((s.site site).mu.atomQueue (op.addr / 64 % 16)).length) :
    s.queueAtom site op = none := if_neg (Nat.not_lt.2 hq)

theorem State.nextAtom_of_remote {b : Nat} {q : List AtomOp} (hf : s.atomFor site = some p)
    (hq : (s.site site).mu.atomQueue b = op :: q) (hr : op.Remote) :
    s.nextAtom site b (fun _ => true) = (s.setAtoms site b q).doAtom p site op := by
  simp only [State.nextAtom, hf, hq, State.answerBlocked_of_remote hr]
  rfl

theorem State.bankWants_of_remote {b : Nat} {q : List AtomOp} (hf : s.atomFor site = some p)
    (hq : (s.site site).mu.atomQueue b = op :: q) (hr : op.Remote) (hw : w = op.addr / 64) :
    s.bankWants site b 8 = some (w, true) := by
  simp [State.bankWants, hf, hq, State.answerBlocked_of_remote hr, hw]

theorem State.bankGrant_of_write {b : Nat} (hwant : s.bankWants site b 8 = some (w, true)) : s.bankGrant p site b 8 =
    (((s.turnTo site b 8).nextAtom site b (fun _ => true)).pumpHeld site).endGrant p site b 8 w := by
  simp only [State.bankGrant, State.bankActor, hwant, if_true]
  rfl

theorem State.grantAlone_of_others {b who : Nat}
    (h : s.bankOrder site b ≠ [who] ∨ 1 < ((s.site site).mu.atomQueue b).length) : s.grantAlone p site b who = s :=
  if_neg (by rintro ⟨hone, hlen⟩; rcases h with h | h <;> [exact h hone; omega])

/-- A remote operation that finds its bank free is performed in the same stage (R194, log 178). -/
theorem State.grantAlone_of_remote {b : Nat} (ho : s.bankOrder site b = [8]) (hq : (s.site site).mu.atomQueue b = [op])
    (hr : op.Remote) (hw : w = op.addr / 64) (ht : t = s.turnTo site b 8) (hqt : (t.site site).mu.atomQueue b = [op])
    (hf : t.atomFor site = some p) {u : State} (hu : u = t.setAtoms site b []) : s.grantAlone p site b 8 =
      ((u.doAtom p site op).pumpHeld site).endGrant p site b 8 w := by
  subst ht hu
  have hfs : s.atomFor site = some p := (State.atomFor_turnTo b 8).symm.trans hf
  refine (if_pos ⟨ho, by rw [hq]; rfl⟩).trans ?_
  rw [State.bankGrant_of_write (State.bankWants_of_remote hfs hq hr hw), State.nextAtom_of_remote hf hqt hr]
end

/-! ### Atomic requests (R463, R464, R466) -/

/-- The operation that the body of an ATOM_REQ asks for. -/
def atomRequest (k p : Nat) (h : Hdr) (body : List Byte) : AtomOp :=
  ⟨k, bitsOf (leAt body 0 8) 19 0 % 786432, leAt body 16 8, leAt body 24 8, 2, p, h.src, h.txn, 0, false, 0⟩

/-- An accepted request joins the queue of its bank, or is refused by status. -/
def State.takeAtom (t : State) (k p : Nat) (h : Hdr) (body : List Byte) : State :=
  let a := leAt body 0 8
  let site := bitsOf a 32 20
  let op := atomRequest k p h body
  if !a.testBit 63 then t.send p 0x17 h.src false 4 h.txn []
  else if !t.ownMu p site then t.send p 0x17 h.src false 2 h.txn []
  else match t.queueAtom site op with
    | some u => u.grantAlone p site (op.addr / 64 % 16) 8
    | none => t

/-- The eight commands of ATOM_REQ are one meaning each, by their operation. -/
theorem exec_atomic {k port : Nat} {h : Hdr} {body : List Byte} {c : Instr}
    (hc : ([Instr.atomAdd port h body, .atomMax port h body, .atomMin port h body, .atomAnd port h body,
      .atomOr port h body, .atomSwap port h body, .atomCas port h body, .atomFadd port h body])[k]? = some c) (s : State) :
    k < 8 ∧ exec c s = .next (s.atomReq k port h body) := by
  refine ⟨(List.getElem?_eq_some_iff.1 hc).1, ?_⟩
  match k, hc with
  | 0, rfl | 1, rfl | 2, rfl | 3, rfl | 4, rfl | 5, rfl | 6, rfl | 7, rfl => rfl

section
variable {s t : State} {k port p a site b : Nat} {h : Hdr} {body : List Byte} {op : AtomOp}

theorem State.atomReq_of_other (hk : leAt body 8 1 ≠ k) : s.atomReq k port h body = s := if_pos (.inl hk)

theorem State.atomReq_of_full (ha : a = leAt body 0 8)
    (hq : 16 ≤ ((s.site (bitsOf a 32 20)).mu.atomQueue (bitsOf a 19 0 % 786432 / 64 % 16)).length) :
    s.atomReq k port h body = s := by
  subst ha
  exact if_pos (.inr hq)

theorem State.atomReq_of_room (hk : leAt body 8 1 = k) (ha : a = leAt body 0 8)
    (hq : ((s.site (bitsOf a 32 20)).mu.atomQueue (bitsOf a 19 0 % 786432 / 64 % 16)).length < 16) :
    s.atomReq k port h body = s.receiveReq port 0x16 0x17 h body (fun t p => t.takeAtom k p h body) := by
  subst ha
  exact if_neg (by rintro (h | h) <;> [exact h hk; exact absurd hq (Nat.not_lt.2 h)])

theorem State.takeAtom_of_partition (hb : (leAt body 0 8).testBit 63 = false) :
    t.takeAtom k p h body = t.send p 0x17 h.src false 4 h.txn [] := if_pos (by rw [hb]; rfl)

section
variable (ha : a = leAt body 0 8) (hb : a.testBit 63 = true) (hsite : site = bitsOf a 32 20)
include ha hb hsite

theorem State.takeAtom_of_foreign (ho : t.ownMu p site = false) :
    t.takeAtom k p h body = t.send p 0x17 h.src false 2 h.txn [] := by
  subst hsite ha
  exact (if_neg (by simp [hb])).trans (if_pos (by rw [ho]; rfl))

variable (ho : t.ownMu p site = true) (hop : op = atomRequest k p h body) (hbank : b = op.addr / 64 % 16)
include ho hop hbank

theorem State.takeAtom_of_full (hq : 16 ≤ ((t.site site).mu.atomQueue b).length) : t.takeAtom k p h body = t := by
  subst hbank hop hsite ha
  simp [State.takeAtom, hb, ho, State.queueAtom_of_full hq]

theorem State.takeAtom_of_room (hq : ((t.site site).mu.atomQueue b).length < 16) {u : State}
    (hu : u = t.setAtoms site b ((t.site site).mu.atomQueue b ++ [op])) :
    t.takeAtom k p h body = u.grantAlone p site b 8 := by
  subst hu hbank hop hsite ha
  simp [State.takeAtom, hb, ho, State.queueAtom_of_room hq]
end
end

/-- Settles O51: a request that is accepted, owned and alone at its bank is performed in the same stage; every other one waits or is
refused. -/
theorem atomicsActOnTheirWord : Obligations.AtomicsActOnTheirWord := by
  unfold Obligations.AtomicsActOnTheirWord
  intro s port p k h body c hc a site addr w op t m queued turn popped line bits off old x y was new stored settled
  obtain ⟨hk8, hexec⟩ := exec_atomic hc s
  have hop : op = atomRequest k p h body := rfl
  have hremote : op.Remote := ⟨hk8, rfl⟩
  rw [hexec]
  refine ⟨fun hk => ?_, fun hk => ⟨fun hq => ?_, fun hq => ?_⟩⟩
  · rw [State.atomReq_of_other hk]
  · rw [State.atomReq_of_full rfl hq]
  rw [State.atomReq_of_room hk rfl hq]
  refine ⟨fun hacc => ?_, fun hacc => ?_, fun hacc => ?_⟩
  · rw [State.receiveReq_of_stale rfl hacc]
  · rw [State.receiveReq_of_bad rfl hacc]
  rw [State.receiveReq_of_accepted rfl hacc]
  refine ⟨fun hb => ?_, fun hb ho => ?_, fun hb ho hfull => ?_, fun hb ho hroom => ?_⟩
  · rw [State.takeAtom_of_partition hb]
  · rw [State.takeAtom_of_foreign rfl hb rfl ho]
  · rw [State.takeAtom_of_full rfl hb rfl ho hop rfl hfull]
  rw [State.takeAtom_of_room (b := w % 16) rfl hb (site := site) rfl ho hop rfl hroom (u := queued) rfl]
  refine ⟨fun hothers => ?_, fun halone hone hturn hfor => ?_⟩
  · rw [State.grantAlone_of_others hothers]
  have hto : turn = queued.turnTo site (w % 16) 8 := rfl
  have hpop : popped = turn.setAtoms site (w % 16) [] := rfl
  have hgrant : queued.grantAlone p site (w % 16) 8 = settled (popped.doAtom p site op) :=
    State.grantAlone_of_remote halone hone hremote rfl hto hturn hfor hpop
  rw [hgrant]
  refine ⟨fun hmay => ?_, fun hmay => ?_⟩
  · exact congrArg (Host.Outcome.next ∘ settled) (State.doAtom_of_open hremote rfl hmay rfl rfl)
  · exact congrArg (Host.Outcome.next ∘ settled) (State.doAtom_of_closed hremote rfl hmay)

end Sys2Proof.Machine
end

section
/-! SUPPORT. The messages of remote memory, remote bank writes and collectives (R217, R364, R372, R463 to R466, R474), each on a message
that R463 accepts and on one that it does not. -/

namespace Sys2Proof.Machine

/-! ### Requests that keep their receive buffers (R217, R463) -/

section
variable {s t : State} {port typ rsp p : Nat} {h : Hdr} {body : List Byte} (ht : t = s.countRx port)
include ht

theorem State.receiveKept_of_accepted (ha : t.accept h = .ok p) (f : State → Nat → State) :
    s.receiveKept port typ rsp h body f = f t p := by
  subst ht
  simp only [State.receiveKept, ha]

theorem State.receiveKept_of_stale (ha : t.accept h = .stale p) (f : State → Nat → State) :
    s.receiveKept port typ rsp h body f = (t.freeRx port typ body.length).send p rsp h.src false 5 h.txn [] := by
  subst ht
  simp only [State.receiveKept, ha]

theorem State.receiveKept_of_bad (ha : t.accept h = .bad) (f : State → Nat → State) :
    s.receiveKept port typ rsp h body f = (t.freeRx port typ body.length).discardMsg port := by
  subst ht
  simp only [State.receiveKept, ha]
end

/-! ### Reads and writes of partition memory (R364, R372, R465) -/

/-- Only a message that R463 accepts can have to wait. -/
theorem State.mustWait_of_refused {s : State} {h : Hdr} (ha : ∀ q, s.accept h ≠ .ok q) (port a n : Nat) :
    s.mustWait port h a n = false := by
  unfold State.mustWait
  split
  next q hq => exact absurd hq (ha q)
  next => rfl

/-- An accepted RD_REQ reads the banks of a memory unit, or partition memory as a hub path, and answers. -/
def State.answerRead (t : State) (p : Nat) (h : Hdr) (body : List Byte) : State :=
  let a := leAt body 0 8
  let n := leAt body 8 2 / 64
  let site := bitsOf a 32 20
  let r := t.readPart p 0x1FFF 0 n (a % 2 ^ 44)
  if a.testBit 63 then
    if t.ownMu p site then t.send p 0x11 h.src false 0 h.txn (t.muBytes site (bitsOf a 19 6) n)
    else t.send p 0x11 h.src false 2 h.txn []
  else if r.2.ue ≠ none then r.1.send p 0x11 h.src false 1 h.txn []
  else if r.2.denied ≠ none then r.1.send p 0x11 h.src false 2 h.txn []
  else r.1.send p 0x11 h.src false 0 h.txn r.2.data

/-- An accepted WR_REQ writes partition memory as a hub path and answers. -/
def State.answerWrite (t : State) (p : Nat) (h : Hdr) (body : List Byte) : State :=
  let r := t.writePart p 0x1FFF (leAt body 0 8 % 2 ^ 44) (body.drop 8)
  r.1.send p 0x13 h.src false (if r.2 then 0 else 2) h.txn []

section
variable {s t : State} {port p : Nat} {h : Hdr} {body : List Byte}

theorem execRdReq_of_waiting (hw : s.mustWait port h (leAt body 0 8) (leAt body 8 2 / 64) = true) :
    execRdReq port h body s = .next (s.holdMsg port 0x10 h body) := congrArg _ (if_pos hw)

theorem execRdReq_of_served (hw : s.mustWait port h (leAt body 0 8) (leAt body 8 2 / 64) = false) :
    execRdReq port h body s =
      .next (s.receiveReq port 0x10 0x11 h body (fun t p => t.answerRead p h body)) := by
  refine congrArg _ ((if_neg (Bool.eq_false_iff.1 hw)).trans (congrArg _ (funext₂ fun t p => ?_)))
  refine if_congr Iff.rfl rfl ?_
  generalize t.readPart p 0x1FFF 0 (leAt body 8 2 / 64) (leAt body 0 8 % 2 ^ 44) = r
  cases hue : r.2.ue <;> cases hden : r.2.denied <;> simp [hue, hden]

theorem execWrReq_of_waiting (hw : s.mustWait port h (leAt body 0 8) ((body.length - 8) / 64) = true) :
    execWrReq port h body s = .next (s.holdMsg port 0x12 h body) := congrArg _ (if_pos hw)

theorem execWrReq_of_served (hw : s.mustWait port h (leAt body 0 8) ((body.length - 8) / 64) = false) :
    execWrReq port h body s =
      .next (s.receiveReq port 0x12 0x13 h body (fun t p => t.answerWrite p h body)) :=
  congrArg _ (if_neg (Bool.eq_false_iff.1 hw))
end

/-! ### Responses (R464 to R466) -/

/-- A response takes its request out of the list, and has its effect where one stands there. -/
def State.respond (t : State) (p typ : Nat) (h : Hdr) (effect : State → Request → State) : State :=
  let u := t.takeReq p typ h.src h.txn
  match u.2 with
  | none => u.1
  | some r => effect u.1 r

/-- The words of each operand of a read that a response answers: those of its request, or of an operand of the stream. -/
def State.readSize (u : State) (r : Request) (x : Hatch) (txn : Nat) : Nat :=
  match (u.engine r.site r.engine).reads.find? (fun q => q.txn == some txn) with
  | some q => q.len / 64
  | none => x.d.len

/-- The data of a read reach the hatch that asked, for all its operands; zeros where the read failed (R208, R464). -/
def State.deliverRead (u : State) (r : Request) (h : Hdr) (body : List Byte) : State :=
  match u.hatch r.site r.engine with
  | none => u
  | some x =>
    let n := u.readSize r x h.txn
    u.readBack x (fun q => q.txn == some h.txn) n 0
      (bytesWords n (if h.status = 0 then body else List.replicate (64 * n) 0))

section
variable {s t : State} {port p typ : Nat} {h : Hdr} {body : List Byte} {r : Request}

theorem State.respond_of_no_request (hr : (t.takeReq p typ h.src h.txn).2 = none) (effect : State → Request → State) :
    t.respond p typ h effect = (t.takeReq p typ h.src h.txn).1 := by
  simp only [State.respond, hr]

theorem State.respond_of_request (hr : (t.takeReq p typ h.src h.txn).2 = some r) (effect : State → Request → State) :
    t.respond p typ h effect = effect (t.takeReq p typ h.src h.txn).1 r := by
  simp only [State.respond, hr]

theorem State.respond_eq (t : State) (p typ : Nat) (h : Hdr) (effect : State → Request → State) :
    t.respond p typ h effect = match t.takeReq p typ h.src h.txn with
      | (u, none) => u
      | (u, some r) => effect u r := by
  rw [State.respond]
  generalize t.takeReq p typ h.src h.txn = q
  obtain ⟨u, _ | r⟩ := q <;> rfl

theorem execRdRsp_of_accepted (ht : t = s.consume port 0x11 body.length) (ha : t.accept h = .ok p) :
    execRdRsp port h body s = .next (t.respond p 0x10 h
      (fun u r => (u.statusEffect p r.site h.status r.info h.src).deliverRead r h body)) := by
  subst ht
  rw [execRdRsp, State.receive_of_accepted ha]
  exact congrArg _ (State.respond_eq _ _ _ _ _).symm

theorem execWrAck_of_accepted (ht : t = s.consume port 0x13 body.length) (ha : t.accept h = .ok p) :
    execWrAck port h body s = .next (t.respond p 0x12 h
      (fun u r => (u.statusEffect p r.site h.status 0 h.src).acceptWrite r)) := by
  subst ht
  rw [execWrAck, State.receive_of_accepted ha]
  exact congrArg _ (State.respond_eq _ _ _ _ _).symm

theorem execAtomRsp_of_accepted (ht : t = s.consume port 0x17 body.length) (ha : t.accept h = .ok p) :
    execAtomRsp port h body s = .next (t.respond p 0x16 h
      (fun u r => (u.statusEffect p r.site h.status 0 h.src).acceptWrite r)) := by
  subst ht
  rw [execAtomRsp, State.receive_of_accepted ha]
  exact congrArg _ (State.respond_eq _ _ _ _ _).symm

theorem State.deliverRead_of_no_engine {u : State} (hh : u.hatch r.site r.engine = none) : u.deliverRead r h body = u := by
  simp only [State.deliverRead, hh]

theorem State.deliverRead_of_engine {u : State} {x : Hatch} (hh : u.hatch r.site r.engine = some x) {n : Nat}
    (hn : n = u.readSize r x h.txn) : u.deliverRead r h body = u.readBack x (fun q => q.txn == some h.txn) n 0
      (bytesWords n (if h.status = 0 then body else List.replicate (64 * n) 0)) := by
  subst hn
  simp only [State.deliverRead, hh]

end

/-! ### Remote bank writes (R215 to R217, R465) -/

/-- A word that lies in a receive window of a memory unit of the partition. -/
def State.inWindow (t : State) (p site : Nat) (w : Nat × Line) : Bool :=
  t.ownMu p site && (t.windowOf site w.1).isSome

/-- The credit rules for the words that lie outside every receive window (R217). -/
def State.refuseWords (t : State) (p site src : Nat) (lost : List (Nat × Line)) : State :=
  lost.foldl (fun v _ => v.creditOutside p site src) t

section
variable {s t : State} {port p site : Nat} {h : Hdr} {body : List Byte}

section
variable {words good lost : List (Nat × Line)} (ht : t = s.countRx port) (ha : t.accept h = .ok p)
  (hsite : site = bitsOf (leAt body 0 8) 32 20)
  (hwords : words = bankWords (bitsOf (leAt body 0 8) 19 6) 64 (body.drop 8))
  (hgood : good = words.filter (t.inWindow p site)) (hlost : lost = words.filter (fun w => !t.inWindow p site w))
include ht ha hsite hwords hgood hlost

theorem execBankWr_of_outside (hnone : good = []) : execBankWr port h body s =
    .next (((t.refuseWords p site h.src lost).freeRx port 0x14 body.length).bankAck p h.src 3 h.txn site 0 0 0) := by
  subst hsite hwords hlost hgood ht
  rw [execBankWr, State.receiveKept_of_accepted rfl ha]
  simp only
  split
  next => rfl
  next hw => exact absurd (hw.symm.trans hnone) (List.cons_ne_nil _ _)

theorem execBankWr_of_inside {w : Nat × Line} {rest : List (Nat × Line)} (hcons : good = w :: rest) :
    execBankWr port h body s = .next ((t.refuseWords p site h.src lost).holdWords p site ⟨port, body.length, p, h.src,
      h.txn, (t.windowOf site w.1).getD 0, good.length, good.length, if lost = [] then 0 else 3, good⟩) := by
  subst hsite hwords hlost hgood ht
  rw [execBankWr, State.receiveKept_of_accepted rfl ha]
  simp only
  split
  next hw => exact absurd (hw.symm.trans hcons) (List.cons_ne_nil _ _).symm
  next hw =>
    obtain ⟨rfl, -⟩ := List.cons.inj (hw.symm.trans hcons)
    simp only [List.isEmpty_iff]
    rfl
end

/-- A BANK_ACK takes its request out of the list and accepts its words; OUTSIDE names the receiving site (R464, R465). -/
def State.bankAcked (t : State) (p : Nat) (h : Hdr) (body : List Byte) : State :=
  t.respond p 0x14 h (fun u r =>
    (u.statusEffect p (if h.status = 3 then leAt body 0 2 else r.site) h.status 0 (t.coord p)).acceptWrite r)

/-- Credits come back to the remote window that writes the receiver's window, and the streams of that window go on (R216). -/
def State.returnCredits (u : State) (p src : Nat) (body : List Byte) : State :=
  let credits := leAt body 8 4
  if credits = 0 then u
  else match u.senderWindow p src (leAt body 0 2) (leAt body 2 1) with
    | none => u
    | some (i, n) =>
      let m := (u.site i).mu
      (List.range 4).foldl (fun v e => match v.hatch i e with
        | some x => if x.d.window = n then v.remoteMore x else v
        | none => v) (u.setMu i { m with credits := m.credits.set n (m.credits.getD n 0 + credits) })

theorem execBankAck_of_accepted (ht : t = s.consume port 0x15 body.length) (ha : t.accept h = .ok p) :
    execBankAck port h body s = .next ((t.bankAcked p h body).returnCredits p h.src body) := by
  subst ht
  rw [execBankAck, State.receive_of_accepted ha, State.bankAcked, State.respond_eq]
  rfl

theorem State.returnCredits_of_none {u : State} {src : Nat} (hno : leAt body 8 4 = 0 ∨
    u.senderWindow p src (leAt body 0 2) (leAt body 2 1) = none) : u.returnCredits p src body = u := by
  rcases hno with hno | hno
  · exact if_pos hno
  · simp only [State.returnCredits, hno, ite_self]

theorem State.returnCredits_of_window {u : State} {src i n credits : Nat} (hc : credits = leAt body 8 4) (h0 : credits ≠ 0)
    (hw : u.senderWindow p src (leAt body 0 2) (leAt body 2 1) = some (i, n)) : u.returnCredits p src body =
      (List.range 4).foldl (fun v e => match v.hatch i e with
        | some x => if x.d.window = n then v.remoteMore x else v
        | none => v) (u.setMu i { (u.site i).mu with
          credits := (u.site i).mu.credits.set n ((u.site i).mu.credits.getD n 0 + credits) }) := by
  subst hc
  simp only [State.returnCredits, hw]
  exact if_neg h0
end

/-! ### Collectives (R474) -/

/-- A child's word enters the node; a GATHER word that comes again is an orphan at the partition's lowest site. -/
def State.addWord (u : State) (p key : Nat) (e : Nat × Line) : State :=
  let c := (u.coll p key).add e.1 e.2
  if c.2 then u.setColl p c.1
  else (u.setColl p c.1).orphan p ((((u.setColl p c.1).sitesOf p).head?).getD 0)

/-- The words of a result that a member keeps (R474). -/
def keepWords (op n r : Nat) (ws : List (Nat × Line)) (result : Tab Line) : Tab Line :=
  ws.foldl (fun b e => if collKeeps op n r e.1 then tabIns b e.1 e.2 else b) result

section
variable {s t : State} {port p key r : Nat} {h : Hdr} {body : List Byte} {ms : List Nat}
  (hkey : key = leAt body 0 8 % 2 ^ 36) (ha : t.accept h = .ok p)
include hkey ha

section
variable {ws : List (Nat × Line)} (ht : t = s.consume port 0x21 body.length)
  (hws : ws = collBody (keyRef key) (leAt body 12 4) 64 (body.drop 16))
include ht hws

theorem execCollData_of_up (hup : leAt body 8 1 % 2 = 0) :
    execCollData port h body s = .next (ws.foldl (fun u e => u.addWord p key e) t) := by
  subst hkey ht hws
  rw [execCollData, State.receive_of_accepted ha]
  exact congrArg _ (if_pos hup)

theorem execCollData_of_down (hdown : leAt body 8 1 % 2 = 1) (hms : ms = t.collMembers p (keyRef key).gmask)
    (hr : r = t.collRank p (keyRef key).gmask) : execCollData port h body s =
      .next ((collChildren ms r).foldl (fun v m => v.sendColl p key m 1 ws false) (t.setColl p { t.coll p key with
        result := keepWords (keyRef key).op ms.length r ws (t.coll p key).result })) := by
  subst hkey hms hr ht hws
  rw [execCollData, State.receive_of_accepted ha]
  exact congrArg _ (if_neg (by omega))
end

section
variable (ht : t = s.consume port 0x22 body.length)
include ht

theorem execCollEnd_of_up (hup : leAt body 8 1 % 2 = 0) {ends : List Nat} (hends : ends = (t.coll p key).ends) :
    execCollEnd port h body s = .next ((t.setColl p { t.coll p key with
      ends := if ends.contains h.src then ends else ends ++ [h.src] }).collSettle p key) := by
  subst hkey ht hends
  rw [execCollEnd, State.receive_of_accepted ha]
  exact congrArg _ (if_pos hup)

theorem execCollEnd_of_down (hdown : leAt body 8 1 % 2 = 1) (hms : ms = t.collMembers p (keyRef key).gmask)
    (hr : r = t.collRank p (keyRef key).gmask) : execCollEnd port h body s =
      .next ((collChildren ms r).foldl (fun v m => v.sendColl p key m 1 [] true)
        ((t.setColl p { t.coll p key with down := true }).dropRound p key)) := by
  subst hkey hms hr ht
  rw [execCollEnd, State.receive_of_accepted ha]
  exact congrArg _ (if_neg (by omega))
end
end

/-! ### Messages that R463 does not accept -/

/-- A read or write request that R463 does not accept does not wait, and is answered or discarded at once. -/
theorem exec_of_receiveReq {s : State} {port : Nat} {h : Hdr} {body : List Byte} {c : Nat × Nat × Instr}
    (hc : c ∈ [(0x10, 0x11, Instr.rdReq port h body), (0x12, 0x13, .wrReq port h body)]) (hs : ∀ q, s.accept h ≠ .ok q) :
    ∃ f, exec c.2.2 s = .next (s.receiveReq port c.1 c.2.1 h body f) := by
  rcases List.mem_pair.1 hc with rfl | rfl
  · exact ⟨_, execRdReq_of_served (State.mustWait_of_refused hs _ _ _)⟩
  · exact ⟨_, execWrReq_of_served (State.mustWait_of_refused hs _ _ _)⟩

/-- The meaning of a message that is no request of R463 is a reception: it runs only where R463 accepts the message. -/
theorem exec_of_receive {port : Nat} {h : Hdr} {body : List Byte} {c : Nat × Instr}
    (hc : c ∈ [(6, Instr.stepDesc port h body), (7, .stepData port h body), (8, .stepDone port h body),
      (9, .hist port h body), (10, .stepAbort port h body), (0x11, .rdRsp port h body), (0x13, .wrAck port h body),
      (0x15, .bankAck port h body), (0x17, .atomRsp port h body), (0x21, .collData port h body),
      (0x22, .collEnd port h body)]) (s : State) :
    ∃ f, exec c.2 s = .next (s.receive port c.1 h body f) := by
  simp only [List.mem_cons, List.not_mem_nil, or_false] at hc
  rcases hc with rfl | rfl | rfl | rfl | rfl | rfl | rfl | rfl | rfl | rfl | rfl <;> exact ⟨_, rfl⟩

/-- Settles O52: each message by its cases, and a message that R463 does not accept by its kind. -/
theorem remoteMemoryAndCollectiveMessages : Obligations.RemoteMemoryAndCollectiveMessages := by
  unfold Obligations.RemoteMemoryAndCollectiveMessages
  intro s port p h body r hatch i n w rest at_ a site lines rd wr taken rdone size data t14 f14 words inside lost refused
    good acked credits credited key members rank cw node keep end_
  refine ⟨fun hw => ?_, fun hw ha => ⟨fun hb => ?_, fun hb => ?_⟩,
    fun ha => ⟨fun hr => ?_, fun hr => ⟨fun hh => ?_, fun hh => ?_⟩⟩, fun hw => ?_, fun hw ha => ?_,
    fun ha => ⟨fun hr => ?_, fun hr => ?_⟩, fun ha => ⟨fun hg => ?_, fun hg => ?_⟩,
    fun ha => ⟨fun hno => ?_, fun h0 hw => ?_⟩, fun ha => ⟨fun hr => ?_, fun hr => ?_⟩,
    fun ha => ⟨fun hup => ?_, fun hdown => ?_⟩, fun ha => ⟨fun hup => ?_, fun hdown => ?_⟩,
    fun c hc hs => ⟨fun ha => ?_, fun ha => ?_⟩, fun ha => ?_, fun ha => ?_, fun c hc ha => ?_⟩
  · exact execRdReq_of_waiting hw
  · refine (execRdReq_of_served hw).trans (congrArg _ ((State.receiveReq_of_accepted rfl ha _).trans ?_))
    exact if_pos hb
  · refine (execRdReq_of_served hw).trans (congrArg _ ((State.receiveReq_of_accepted rfl ha _).trans ?_))
    exact if_neg (Bool.eq_false_iff.1 hb)
  · exact (execRdRsp_of_accepted rfl ha).trans (congrArg _ (State.respond_of_no_request hr _))
  · exact (execRdRsp_of_accepted rfl ha).trans (congrArg _ ((State.respond_of_request hr _).trans
      (State.deliverRead_of_no_engine hh)))
  · exact (execRdRsp_of_accepted rfl ha).trans (congrArg _ ((State.respond_of_request hr _).trans
      (State.deliverRead_of_engine hh rfl)))
  · exact execWrReq_of_waiting hw
  · exact (execWrReq_of_served hw).trans (congrArg _ (State.receiveReq_of_accepted rfl ha _))
  · exact (execWrAck_of_accepted rfl ha).trans (congrArg _ (State.respond_of_no_request hr _))
  · exact (execWrAck_of_accepted rfl ha).trans (congrArg _ (State.respond_of_request hr _))
  · exact execBankWr_of_outside rfl ha rfl rfl rfl rfl hg
  · exact execBankWr_of_inside rfl ha rfl rfl rfl rfl hg
  · exact (execBankAck_of_accepted rfl ha).trans (congrArg _ (State.returnCredits_of_none hno))
  · exact (execBankAck_of_accepted rfl ha).trans (congrArg _ (State.returnCredits_of_window rfl h0 hw))
  · exact (execAtomRsp_of_accepted rfl ha).trans (congrArg _ (State.respond_of_no_request hr _))
  · exact (execAtomRsp_of_accepted rfl ha).trans (congrArg _ (State.respond_of_request hr _))
  · exact execCollData_of_up rfl ha rfl rfl hup
  · exact execCollData_of_down rfl ha rfl rfl hdown rfl rfl
  · exact execCollEnd_of_up rfl ha rfl hup rfl
  · exact execCollEnd_of_down rfl ha rfl hdown rfl rfl
  · obtain ⟨f, hf⟩ := exec_of_receiveReq hc hs
    exact hf.trans (congrArg _ (State.receiveReq_of_stale rfl ha f))
  · obtain ⟨f, hf⟩ := exec_of_receiveReq hc hs
    exact hf.trans (congrArg _ (State.receiveReq_of_bad rfl ha f))
  · exact congrArg _ (State.receiveKept_of_stale rfl ha _)
  · exact congrArg _ (State.receiveKept_of_bad rfl ha _)
  · obtain ⟨f, hf⟩ := exec_of_receive hc s
    exact hf.trans (congrArg _ (State.receive_of_refused ha f))

end Sys2Proof.Machine
end

section
/-! SUPPORT. Snoops of tail lines and the ledger engine (R261, R271, R418, R420, R421, R423, R484). -/

namespace Sys2Proof.Machine

/-! ### Snoops -/

theorem execSnpinv_of_stranger {s : State} {addr : Nat} (ho : s.tailOwner addr = none) :
    execSnpinv addr s = .next (s.emit (.snoopRsp (addr / 64 * 64) false)) := by
  simp only [execSnpinv, ho]

theorem execSnpinv_of_owner {s t : State} {addr p : Nat} (ho : s.tailOwner addr = some p)
    (ht : t = s.emit (.snoopRsp (addr / 64 * 64) false)) :
    execSnpinv addr s = .next ((t.setPart p { t.part p with tail := none }).wakeLedger p) := by
  subst ht
  simp only [execSnpinv, ho]

theorem State.keepSnoop_of_stranger {s : State} {addr : Nat} (ho : s.tailOwner addr = none) :
    s.keepSnoop addr = s.emit (.snoopRsp (addr / 64 * 64) false) := by
  simp only [State.keepSnoop, ho]

theorem State.keepSnoop_of_owner {s : State} {addr p : Nat} (ho : s.tailOwner addr = some p) :
    s.keepSnoop addr = s.emit (.snoopRsp (addr / 64 * 64) (s.part p).tail.isSome) := by
  simp only [State.keepSnoop, ho]

/-! ### The ledger engine -/

theorem execTailLineRead_of_awake {s : State} {p : Nat} (he : s.enabled p = true) (hl : s.isLead p = true)
    (hu : s.linkUp = true) (ha : (s.part p).awake = true) (tail : Nat) : execTailLineRead p tail s =
      .next ((s.emit (.hostRead (s.fa .hostTailAddrAddr [p]) 64 true)).setPart p { s.part p with
        tail := some (tail % 4096), awake := false
        fetchTo := if tail % 4096 = s.ledgerNext p then none else some (tail % 4096) }) :=
  if_pos (by rw [he, hl, hu, ha]; rfl)

theorem execLedgerEntryFetch_of_still {s : State} {p : Nat}
    (h : s.enabled p = false ∨ s.linkUp = false ∨ s.isLead p = false ∨ (s.part p).fetchTo = none)
    (r : Option (BitVec 2048)) : execLedgerEntryFetch p r s = .next s := by
  unfold execLedgerEntryFetch
  dsimp only
  split
  next => rfl
  next to_ hto =>
    refine if_neg ?_
    rcases h with h | h | h | h
    · simp [h]
    · simp [h]
    · simp [h]
    · exact absurd (hto.symm.trans h) nofun

/-- The entry that a fetch makes of what the host's ledger held at an index (R271, R423, log 82). -/
def fetchedEntry (n lap : Nat) : Option (BitVec 2048) → Entry
  | none => ⟨n, 0, Status.entryInvalid, invalidDetail 0xFFFF 1⟩
  | some w => match fetchCheck ⟨n, w, 0, 0⟩ lap with
    | some r => ⟨n, w, Status.entryInvalid, invalidDetail 0xFFFF r⟩
    | none => ⟨n, w, 0, 0⟩

theorem fetchedEntry_of_good {n lap : Nat} {w : BitVec 2048} (hc : fetchCheck ⟨n, w, 0, 0⟩ lap = none) :
    fetchedEntry n lap (some w) = ⟨n, w, 0, 0⟩ := by
  simp only [fetchedEntry, hc]

theorem fetchedEntry_of_refused {n lap r : Nat} {w : BitVec 2048} (hc : fetchCheck ⟨n, w, 0, 0⟩ lap = some r) :
    fetchedEntry n lap (some w) = ⟨n, w, Status.entryInvalid, invalidDetail 0xFFFF r⟩ := by
  simp only [fetchedEntry, hc]

/-- NEXT moves on to an index, with LAP where it returns to 0 (R261). -/
def State.passEntry (t : State) (p n lap : Nat) : State :=
  let u := t.setf .serveLedgerStateNext [p] n
  if n = 0 then u.setf .serveLedgerStateLap [p] (1 - lap) else u

/-- An entry joins the fetched ones; the last one of a fetch ends it, and a pending wake is then served (R421). -/
def State.keepEntry (t : State) (p : Nat) (last : Bool) (to_ : Nat) (e : Entry) : State :=
  t.setPart p { t.part p with
    fetched := (t.part p).fetched ++ [e], fetchTo := if last then none else some to_
    awake := (t.part p).awake || (last && (t.part p).wake), wake := (t.part p).wake && !last }

section
variable {s : State} {p n lap to_ : Nat} {rd : Out} (he : s.enabled p = true) (hu : s.linkUp = true) (hl : s.isLead p = true)
  (hf : (s.part p).fetchTo = some to_) (hn : n = s.ledgerNext p) (hlap : lap = s.fv .serveLedgerStateLap [p])
  (hrd : rd = .hostRead (s.fa .hostLedgerBaseAddr [p] + 256 * n) 256 false)
include he hu hl hf hn hlap hrd

theorem execLedgerEntryFetch_of_read (w : BitVec 2048) : execLedgerEntryFetch p (some w) s =
    .next (((s.emit rd).passEntry p ((n + 1) % 4096) lap).keepEntry p (decide ((n + 1) % 4096 = to_)) to_
      (fetchedEntry n lap (some w))) := by
  subst hn hlap hrd
  unfold execLedgerEntryFetch
  simp only [hf, he, hu, hl]
  rfl

/-- Two read errors (R423). -/
theorem execLedgerEntryFetch_of_errors : execLedgerEntryFetch p none s =
    .next ((((s.emits [rd, rd]).linkErr .hostLinkErrReadFail).passEntry p ((n + 1) % 4096) lap).keepEntry p
      (decide ((n + 1) % 4096 = to_)) to_ (fetchedEntry n lap none)) := by
  subst hn hlap hrd
  unfold execLedgerEntryFetch
  simp only [hf, he, hu, hl]
  rfl
end

/-- Settles O40: a snoop by the owner of its line, a fetch by its guard and by what the host's ledger held. -/
theorem tailLinesAndLedgerFetch : Obligations.TailLinesAndLedgerFetch := by
  unfold Obligations.TailLinesAndLedgerFetch
  intro s p addr tail to_ w line x gone dropped n lap rd adv keep
  have keep_eq (t : State) (e : Entry) :
      t.keepEntry p (decide ((n + 1) % 4096 = to_)) to_ e = keep t e := by
    simp only [State.keepEntry, decide_eq_true_eq, keep]
  refine ⟨fun ho => ⟨?_, ?_, ?_⟩, fun ho => ⟨?_, ?_, ?_⟩, fun he hl hu ha => ?_, fun h r => ?_,
    fun he hu hl hf => ⟨?_, fun hc => ?_, fun r hc => ?_⟩⟩
  · exact execSnpinv_of_stranger ho
  · exact congrArg _ (State.keepSnoop_of_stranger ho)
  · exact congrArg _ (State.keepSnoop_of_stranger ho)
  · exact congrArg _ (State.keepSnoop_of_owner ho)
  · exact congrArg _ (State.keepSnoop_of_owner ho)
  · exact execSnpinv_of_owner ho rfl
  · exact execTailLineRead_of_awake he hl hu ha tail
  · exact execLedgerEntryFetch_of_still h r
  · exact (execLedgerEntryFetch_of_errors he hu hl hf rfl rfl rfl).trans (congrArg _ (keep_eq _ _))
  · refine (execLedgerEntryFetch_of_read he hu hl hf rfl rfl rfl w).trans ?_
    rw [fetchedEntry_of_good hc]
    exact congrArg _ (keep_eq _ _)
  · refine (execLedgerEntryFetch_of_read he hu hl hf rfl rfl rfl w).trans ?_
    rw [fetchedEntry_of_refused hc]
    exact congrArg _ (keep_eq _ _)

end Sys2Proof.Machine
end

section
/-! SUPPORT. The operations of a CONTROL entry (R260, R268 to R270, R285, R433): the operation in turn, what its meaning leaves, and each
of the five by its cases. -/

namespace Sys2Proof.Machine

/-! ### What the pool and the directory leave of a partition -/

theorem State.part_setPart (s : State) (p : Nat) (q : Part) : (s.setPart p q).part p = q := by
  unfold State.part State.setPart tabSet
  dsimp only
  split
  next hq => exact (tabGet_tabDel_same _ _ _).trans hq.symm
  next => exact tabGet_tabIns_same _ _ _ _

theorem State.part_of_parts {s t : State} (h : t.parts = s.parts) (p : Nat) : t.part p = s.part p :=
  congrArg (fun l => tabGet (fun _ => Part.reset) l p) h

@[simp] theorem State.part_setSeq (s : State) (p n : Nat) (x : Seq) : (s.setSeq n x).part p = s.part p :=
  State.part_of_parts rfl p

@[simp] theorem State.part_setBlocks (s : State) (p : Nat) (x : Tab Nat) : (s.setBlocks x).part p = s.part p :=
  State.part_of_parts rfl p

@[simp] theorem State.part_setBlock (s : State) (p seq b : Nat) (swapped : Bool) (f : Nat) :
    (s.setBlock seq b swapped f).part p = s.part p := by rw [State.setBlock, State.part_setBlocks]

@[simp] theorem State.part_putDir (s : State) (p k : Nat) (e : Option DirEntry) : (s.putDir k e).part p = s.part p :=
  State.part_of_parts rfl p

@[simp] theorem State.part_bump (s : State) (p : Nat) (r : Rg) (ix : List Nat) (k : Nat) :
    (s.bump r ix k).part p = s.part p := State.part_of_parts rfl p

@[simp] theorem State.part_emit (s : State) (p : Nat) (o : Out) : (s.emit o).part p = s.part p := State.part_of_parts rfl p

theorem Part.admitted_takeRef (age : Nat) (q : Part) (pg : Nat) : (q.takeRef age pg).admitted = q.admitted := rfl

theorem Part.admitted_dropRef (age : Nat) (q : Part) (pg : Nat) : (q.dropRef age pg).admitted = q.admitted := by
  unfold Part.dropRef
  dsimp only
  split <;> rfl

@[simp] theorem Part.admitted_prune (q : Part) : q.prune.admitted = q.admitted := rfl
@[simp] theorem Part.admitted_freeRecords (q : Part) (rs : List Nat) : (q.freeRecords rs).admitted = q.admitted := rfl

theorem Part.admitted_foldl {f : Part → Nat → Part} (hf : ∀ q pg, (f q pg).admitted = q.admitted) (l : List Nat) (q : Part) :
    (l.foldl f q).admitted = q.admitted :=
  List.foldlRecOn (motive := fun r => r.admitted = q.admitted) l f rfl fun r hr pg _ => (hf r pg).trans hr

@[simp] theorem State.admitted_takeFrame (s : State) (p f : Nat) :
    ((s.takeFrame p f).part p).admitted = (s.part p).admitted := by
  rw [State.takeFrame, State.part_setPart, Part.admitted_foldl (Part.admitted_takeRef _)]

@[simp] theorem State.admitted_dropFrame (s : State) (p f : Nat) :
    ((s.dropFrame p f).part p).admitted = (s.part p).admitted := by
  rw [State.dropFrame, State.part_setPart, Part.admitted_prune, Part.admitted_foldl (Part.admitted_dropRef _)]

theorem State.admitted_foldl_dropFrame (s : State) (p : Nat) (l : List (Nat × Nat)) :
    ((l.foldl (fun u b => u.dropFrame p b.2) s).part p).admitted = (s.part p).admitted :=
  List.foldlRecOn (motive := fun t : State => (t.part p).admitted = (s.part p).admitted) l _ rfl
    fun t ht b _ => (t.admitted_dropFrame p b.2).trans ht

theorem State.admitted_releaseSeq (s : State) (p seq : Nat) :
    ((s.releaseSeq p seq).part p).admitted = (s.part p).admitted := by
  simp only [State.releaseSeq, State.part_setBlocks, State.part_setPart, Part.admitted_freeRecords, Part.admitted_prune,
    Part.admitted_foldl (Part.admitted_dropRef _), State.admitted_foldl_dropFrame]

theorem State.admitted_lookupWalk (s : State) (p seq ns key : Nat) (toks : List Nat) (n b h : Nat) :
    ((s.lookupWalk p seq ns key toks n b h).1.part p).admitted = (s.part p).admitted := by
  induction n generalizing s b h with
  | zero => rfl
  | succ n ih =>
    simp only [State.lookupWalk]
    split
    next => simp only [State.part_bump]
    next => simp only [ih, State.part_bump, State.part_setBlock, State.admitted_takeFrame, State.part_putDir]

/-! ### The operation in turn -/

/-- Nothing fires, and the admitted entry is a CONTROL entry without an outcome whose next operation is this word, of this code. -/
structure State.AtOp (s : State) (p code w : Nat) (x : Step) : Prop where
  idle : (s.part p).firing = none
  admitted : (s.part p).admitted = some x
  control : x.entry.kind = 1
  going : x.outcome = none
  more : x.results.length < x.entry.opCount
  word : x.entry.op x.results.length = w
  code : opCode w = code

/-- A result is appended, and operations behind it that are not admitted follow with BAD_OP (R268, R269). -/
def Step.afterOp (x : Step) (now : Nat) (r : Nat × Nat) : Step := (x.result r.1 r.2 now).skipBad now 8

/-- What follows the meaning of an operation: its result, where it has one and the entry still goes on. -/
def State.endOp (t : State) (p now : Nat) : Option (Nat × Nat) → State
  | none => t
  | some r => match (t.part p).admitted with
    | some y => if y.outcome.isSome then t else t.setAdmitted p (y.afterOp now r)
    | none => t

theorem State.endOp_none (t : State) (p now : Nat) : t.endOp p now none = t := rfl

theorem State.endOp_of_admitted {t : State} {p : Nat} {x : Step} (ha : (t.part p).admitted = some x) (ho : x.outcome = none)
    (now : Nat) (r : Nat × Nat) : t.endOp p now (some r) = t.setAdmitted p (x.afterOp now r) := by
  simp [State.endOp, ha, ho]

section
variable {s : State} {p code : Nat} (f : State → Step → Nat → State × Option (Nat × Nat))

theorem State.control_of_no_entry (h : (s.part p).firing.isSome = true ∨ (s.part p).admitted = none) :
    s.control p code f = s := by
  unfold State.control
  split
  next x hf ha =>
    rcases h with h | h
    · rw [hf] at h
      exact absurd h nofun
    · exact absurd (ha.symm.trans h) nofun
  next => rfl

theorem State.control_of_other {x : Step} (hf : (s.part p).firing = none) (ha : (s.part p).admitted = some x)
    (h : x.entry.kind ≠ 1 ∨ x.outcome.isSome = true ∨ x.entry.opCount ≤ x.results.length ∨
      opCode (x.entry.op x.results.length) ≠ code) : s.control p code f = s := by
  simp only [State.control, hf, ha]
  refine if_neg ?_
  rintro ⟨hk, ho, hn, hc⟩
  rcases h with h | h | h | h
  · exact h hk
  · rw [Option.isNone_iff_eq_none.1 ho] at h
    exact absurd h nofun
  · omega
  · exact h hc

variable {w : Nat} {x : Step} (h : s.AtOp p code w x)
include h

theorem State.control_of_out_of_range (hin : s.inRange p (opSeq w) = false) :
    s.control p code f = s.setAdmitted p (x.afterOp (s.pnow p) (2, 0)) := by
  obtain ⟨hf, ha, hk, ho, hn, rfl, hc⟩ := h
  simp only [State.control, hf, ha]
  exact (if_pos ⟨hk, Option.isNone_iff_eq_none.2 ho, hn, hc⟩).trans (if_pos hin)

/-- A command runs the operation in turn. -/
theorem State.control_of_op {f : State → Step → Nat → State × Option (Nat × Nat)} {o : Host.Outcome State Fault Refusal}
    (hx : o = .next (s.control p code f)) (hin : s.inRange p (opSeq w) = true) {t : State} {v : Option (Nat × Nat)}
    (hr : f s x w = (t, v)) : o = .next (t.endOp p (s.pnow p) v) := by
  obtain ⟨hf, ha, hk, ho, hn, rfl, hc⟩ := h
  refine hx.trans (congrArg _ ?_)
  simp only [State.control, hf, ha]
  refine (if_pos ⟨hk, Option.isNone_iff_eq_none.2 ho, hn, hc⟩).trans ((if_neg (Bool.ne_false_iff.2 hin)).trans ?_)
  rw [hr]
  cases v with
  | none => rfl
  | some v =>
    unfold State.endOp
    dsimp only
    cases (t.part p).admitted <;> rfl

/-- An operation that waits has no result yet. -/
theorem State.control_of_wait {f : State → Step → Nat → State × Option (Nat × Nat)} {o : Host.Outcome State Fault Refusal}
    (hx : o = .next (s.control p code f)) (hin : s.inRange p (opSeq w) = true) {t : State} (hr : f s x w = (t, none)) :
    o = .next t := State.control_of_op h hx hin hr
end

/-- The five commands that run an operation, with its code. -/
def controlCommands (p : Nat) (blobs : Option (List (List Byte))) (tk : Option (List Nat)) : List (Nat × Instr) :=
  [(1, .openSeq p), (2, .park p), (3, .resume p blobs), (4, .close p), (5, .lookup p tk)]

theorem exec_of_controlCommands {p : Nat} {blobs : Option (List (List Byte))} {tk : Option (List Nat)} {e : Nat × Instr}
    (he : e ∈ controlCommands p blobs tk) (s : State) : ∃ f, exec e.2 s = .next (s.control p e.1 f) := by
  simp only [controlCommands, List.mem_cons, List.not_mem_nil, or_false] at he
  rcases he with rfl | rfl | rfl | rfl | rfl <;> exact ⟨_, rfl⟩

theorem execSequenceReleaseComplete_of_closed {s : State} {seq : Nat} (hq : (s.seqOf seq).state = 5) :
    execSequenceReleaseComplete seq s = .next (s.setSeq seq Seq.reset) := congrArg _ (if_pos hq)

theorem execSequenceReleaseComplete_of_other {s : State} {seq : Nat} (hq : (s.seqOf seq).state ≠ 5) :
    execSequenceReleaseComplete seq s = .next s := congrArg _ (if_neg hq)

/-! ### OPEN, PARK and CLOSE -/

section
variable {s : State} {p w seq : Nat} {x : Step} {q : Seq} (hin : s.inRange p seq = true) (hseq : seq = opSeq w)
  (hq : q = s.seqOf seq)
include hin hseq hq

theorem execOpen_of_used (h : s.AtOp p 1 w x) (hst : q.state ≠ 0) :
    execOpen p s = .next (s.endOp p (s.pnow p) (some (1, 0))) := by
  subst hq hseq
  exact State.control_of_op h rfl hin (if_pos hst)

theorem execOpen_of_free (h : s.AtOp p 1 w x) (hst : q.state = 0) : execOpen p s =
    .next ((s.setSeq seq ⟨chainSeed (opArg0 w) (opArg1 w % 8192), 0, opArg0 w, 0, (s.nsKey p (opNs w)).isSome,
      opArg1 w % 8192, opPgroup w, opNs w, p, 1⟩).endOp p (s.pnow p) (some (0, 0))) := by
  subst hq hseq
  exact State.control_of_op h rfl hin (if_neg (not_not.2 hst))

theorem execPark_of_other (h : s.AtOp p 2 w x) (hst : q.state ≠ 1) :
    execPark p s = .next (s.endOp p (s.pnow p) (some (1, 0))) := by
  subst hq hseq
  exact State.control_of_op h rfl hin (if_pos hst)

theorem execPark_of_active (h : s.AtOp p 2 w x) (hst : q.state = 1) :
    execPark p s = .next ((s.setSeq seq { q with state := 2 }).endOp p (s.pnow p) (some (0, 0))) := by
  subst hq hseq
  exact State.control_of_op h rfl hin (if_neg (not_not.2 hst))

theorem execClose_of_closed (h : s.AtOp p 4 w x) (hst : q.state = 0 ∨ q.state = 5) :
    execClose p s = .next (s.endOp p (s.pnow p) (some (1, 0))) := by
  subst hq hseq
  exact State.control_of_op h rfl hin (if_pos hst)

theorem execClose_of_open (h : s.AtOp p 4 w x) (h0 : q.state ≠ 0) (h5 : q.state ≠ 5) : execClose p s =
    .next (((s.releaseSeq p seq).setSeq seq { q with state := 5 }).endOp p (s.pnow p) (some (0, 0))) := by
  subst hq hseq
  exact State.control_of_op h rfl hin (if_neg (not_or.2 ⟨h0, h5⟩))
end

/-! ### RESUME -/

/-- The pages that swapped frames need. -/
def State.swapNeed (s : State) (p : Nat) (bs : List (Nat × Nat)) : Nat :=
  (bs.map (fun b => (tabGet (fun _ => []) (s.part p).swapFrames b.2).length)).foldl (· + ·) 0

/-- A swap-in whose pages are gathered: it waits for the dies and its turn, or reads the host's slots and fills the pages (R433 to R435,
logs 182, 199). -/
def State.swapIn (v : State) (p seq need len : Nat) (bs : List (Nat × Nat)) (blobs : Option (List (List Byte))) :
    State × Option (Nat × Nat) :=
  if v.diesUp p = false ∨ v.swapTurn (p, 2 ^ 32 + seq) = false then (v, none)
  else
    let rd := v.emits (v.resumeReads p bs)
    match blobs with
    | none => ((rd.emits (rd.resumeReads p bs)).linkErr .hostLinkErrReadFail, some (4, 0))
    | some l =>
      let u := (rd.resumeBlocks p seq len bs l).bump .serveSwapIn [p] need
      (u.setSeq seq { u.seqOf seq with state := 1 }, some (0, 0))

/-- What a RESUME makes of the pool's answer (R270, R316). -/
def State.resumeWith (p : Nat) (x : Step) (seq need len : Nat) (bs : List (Nat × Nat)) (blobs : Option (List (List Byte)))
    (g : State × Gather) : State × Option (Nat × Nat) :=
  match g.2 with
  | .wait again => (g.1.setAdmitted p { x with
      reclaim := again, gather := 1, gatherAt := if x.gather = 1 then x.gatherAt else g.1.pnow p }, none)
  | .got => ((g.1.endGather p x).swapAsk (p, 2 ^ 32 + seq)).swapIn p seq need len bs blobs
  | _ => (g.1.endGather p x, some (4, 0))

section
variable {v : State} {p seq need len : Nat} {bs : List (Nat × Nat)}

theorem State.swapIn_of_waiting (h : v.diesUp p = false ∨ v.swapTurn (p, 2 ^ 32 + seq) = false)
    (blobs : Option (List (List Byte))) : v.swapIn p seq need len bs blobs = (v, none) := if_pos h

section
variable (hd : v.diesUp p = true) (ht : v.swapTurn (p, 2 ^ 32 + seq) = true) {rd : State}
  (hrd : rd = v.emits (v.resumeReads p bs))
include hd ht hrd

theorem State.swapIn_of_errors : v.swapIn p seq need len bs none =
    ((rd.emits (rd.resumeReads p bs)).linkErr .hostLinkErrReadFail, some (4, 0)) := by
  subst hrd
  exact if_neg (not_or.2 ⟨Bool.ne_false_iff.2 hd, Bool.ne_false_iff.2 ht⟩)

theorem State.swapIn_of_read {u : State} {l : List (List Byte)}
    (hu : u = (rd.resumeBlocks p seq len bs l).bump .serveSwapIn [p] need) : v.swapIn p seq need len bs (some l) =
    (u.setSeq seq { u.seqOf seq with state := 1 }, some (0, 0)) := by
  subst hrd hu
  exact if_neg (not_or.2 ⟨Bool.ne_false_iff.2 hd, Bool.ne_false_iff.2 ht⟩)
end
end

section
variable {p seq need len : Nat} {x : Step} {bs : List (Nat × Nat)} {blobs : Option (List (List Byte))} {g : State × Gather}

theorem State.resumeWith_of_wait {again : Bool} (hg : g.2 = .wait again) : State.resumeWith p x seq need len bs blobs g =
    (g.1.setAdmitted p { x with
      reclaim := again, gather := 1, gatherAt := if x.gather = 1 then x.gatherAt else g.1.pnow p }, none) := by
  simp only [State.resumeWith, hg]

theorem State.resumeWith_of_failure (hg : g.2 = .fails ∨ ∃ a, g.2 = .ue a) :
    State.resumeWith p x seq need len bs blobs g = (g.1.endGather p x, some (4, 0)) := by
  rcases hg with hg | ⟨a, hg⟩ <;> simp only [State.resumeWith, hg]

theorem State.resumeWith_of_got (hg : g.2 = .got) {v : State}
    (hv : v = (g.1.endGather p x).swapAsk (p, 2 ^ 32 + seq)) :
    State.resumeWith p x seq need len bs blobs g = v.swapIn p seq need len bs blobs := by
  subst hv
  simp only [State.resumeWith, hg]
end

section
variable {s : State} {p w seq : Nat} {x : Step} {q : Seq} (h : s.AtOp p 3 w x) (hin : s.inRange p seq = true)
  (hseq : seq = opSeq w) (hq : q = s.seqOf seq) {blobs : Option (List (List Byte))}
include h hin hseq hq

theorem execResume_of_parked (hst : q.state = 2) :
    execResume p blobs s = .next ((s.setSeq seq { q with state := 1 }).endOp p (s.pnow p) (some (0, 0))) := by
  subst hq hseq
  exact State.control_of_op h rfl hin (if_pos hst)

theorem execResume_of_other (h2 : q.state ≠ 2) (h3 : q.state ≠ 3) :
    execResume p blobs s = .next (s.endOp p (s.pnow p) (some (1, 0))) := by
  subst hq hseq
  exact State.control_of_op h rfl hin ((if_neg h2).trans (if_pos h3))

variable (hst : q.state = 3)
include hst

/-- A sequence whose swap-out still runs is not brought back yet. -/
theorem execResume_of_swapping (hsw : (s.part p).swapping ≠ []) : execResume p blobs s = .next s := by
  subst hq hseq
  refine State.control_of_wait h rfl hin ((if_neg (by simp [hst])).trans
    ((if_neg (not_not.2 hst)).trans (if_pos ?_)))
  simp [hsw]

variable (hsw : (s.part p).swapping = []) {bs : List (Nat × Nat)} (hbs : bs = s.blockList seq true) {need : Nat}
  (hneed : need = s.swapNeed p bs)
include hsw hbs hneed

theorem execResume_of_no_pages (hr : x.reclaim = false) (hc : s.canGather p need s.gatherFuel false = false) :
    execResume p blobs s = .next (s.endOp p (s.pnow p) (some (4, 0))) := by
  subst hq hneed hbs hseq
  refine State.control_of_op h rfl hin ((if_neg (by simp [hst])).trans ((if_neg (not_not.2 hst)).trans
    ((if_neg (by simp [hsw])).trans (if_pos ?_))))
  rw [hr]
  exact congrArg (!·) hc

variable (hc : x.reclaim = true ∨ s.canGather p need s.gatherFuel false = true)
include hc

theorem execResume_of_link_down (hu : s.linkUp = false) : execResume p blobs s = .next s := by
  have hno : ¬ (!x.reclaim && !s.canGather p need s.gatherFuel false) = true := by rcases hc with hc | hc <;> simp [hc]
  subst hq hneed hbs hseq
  exact State.control_of_wait h rfl hin ((if_neg (by simp [hst])).trans ((if_neg (not_not.2 hst)).trans
    ((if_neg (by simp [hsw])).trans ((if_neg hno).trans (if_pos hu)))))

theorem execResume_of_link_up (hu : s.linkUp = true) {t : State} {v : Option (Nat × Nat)}
    (hr : State.resumeWith p x seq need q.length bs blobs (s.gather p need false s.gatherFuel x.reclaim) = (t, v)) :
    execResume p blobs s = .next (t.endOp p (s.pnow p) v) := by
  have hno : ¬ (!x.reclaim && !s.canGather p need s.gatherFuel false) = true := by rcases hc with hc | hc <;> simp [hc]
  subst hq hneed hbs hseq
  exact State.control_of_op h rfl hin ((if_neg (by simp [hst])).trans ((if_neg (not_not.2 hst)).trans
    ((if_neg (by simp [hsw])).trans ((if_neg hno).trans ((if_neg (Bool.ne_false_iff.2 hu)).trans hr)))))
end

/-! ### LOOKUP -/

/-- What a LOOKUP makes of the token IDs read (R285, R288, R423): none ends the entry, and a namespace that is being cleared holds no
block (log 94). -/
def State.lookupWith (t : State) (p : Nat) (x : Step) (w : Nat) (q : Seq) (tk : Option (List Nat)) :
    State × Option (Nat × Nat) :=
  match tk, t.nsKey p q.ns with
  | none, _ => (((t.emit (.hostRead (opArg1 w) (4 * opArg0 w) false)).linkErr .hostLinkErrReadFail).failAdmitted p x
      Status.entryInvalid (invalidDetail 0xFFFF 1), none)
  | some _, none => (t, some (3, 0))
  | some toks, some key =>
    let n := min 1024 ((opArg0 w - 1) / 32)
    if (t.fv .serveNskeyStateClearing [p]).testBit q.ns then
      (if n = 0 then t else t.bump .servePfxMiss [] 1, some (0, 0))
    else
      let r := t.lookupWalk p (opSeq w) q.ns key toks n 0 q.chain
      (r.1.setSeq (opSeq w) { r.1.seqOf (opSeq w) with length := 32 * r.2.1, chain := r.2.2 }, some (0, 32 * r.2.1))

section
variable {t : State} {p w : Nat} {x : Step} {q : Seq} {toks : List Nat}

theorem State.lookupWith_of_errors (t : State) (p : Nat) (x : Step) (w : Nat) (q : Seq) : t.lookupWith p x w q none =
    (((t.emit (.hostRead (opArg1 w) (4 * opArg0 w) false)).linkErr .hostLinkErrReadFail).failAdmitted p x
      Status.entryInvalid (invalidDetail 0xFFFF 1), none) := rfl

theorem State.lookupWith_of_no_key (hk : t.nsKey p q.ns = none) : t.lookupWith p x w q (some toks) = (t, some (3, 0)) := by
  simp only [State.lookupWith, hk]

section
variable {key n : Nat} (hk : t.nsKey p q.ns = some key) (hn : n = min 1024 ((opArg0 w - 1) / 32))
include hk hn

theorem State.lookupWith_of_clearing (hc : (t.fv .serveNskeyStateClearing [p]).testBit q.ns = true) :
    t.lookupWith p x w q (some toks) = (if n = 0 then t else t.bump .servePfxMiss [] 1, some (0, 0)) := by
  subst hn
  simp only [State.lookupWith, hk, hc, if_true]

theorem State.lookupWith_of_walk (hc : (t.fv .serveNskeyStateClearing [p]).testBit q.ns = false) {seq : Nat}
    (hseq : seq = opSeq w) {r : State × Nat × Nat} (hr : r = t.lookupWalk p seq q.ns key toks n 0 q.chain) :
    t.lookupWith p x w q (some toks) = (r.1.setSeq seq { r.1.seqOf seq with length := 32 * r.2.1, chain := r.2.2 },
      some (0, 32 * r.2.1)) := by
  subst hr hn hseq
  simp only [State.lookupWith, hk, hc, Bool.false_eq_true, if_false]
end
end

section
variable {s : State} {p w seq : Nat} {x : Step} {q : Seq} (h : s.AtOp p 5 w x) (hin : s.inRange p seq = true)
  (hseq : seq = opSeq w) (hq : q = s.seqOf seq) {tk : Option (List Nat)}
include h hin hseq hq

theorem execLookup_of_inactive (hst : q.state ≠ 1) :
    execLookup p tk s = .next (s.endOp p (s.pnow p) (some (1, 0))) := by
  subst hq hseq
  exact State.control_of_op h rfl hin (if_pos hst)

variable (hst : q.state = 1)
include hst

theorem execLookup_of_unshared (hpfx : q.pfx = false) :
    execLookup p tk s = .next (s.endOp p (s.pnow p) (some (3, 0))) := by
  subst hq hseq
  exact State.control_of_op h rfl hin ((if_neg (not_not.2 hst)).trans (if_pos hpfx))

variable (hpfx : q.pfx = true)
include hpfx

theorem execLookup_of_begun (hlen : q.length ≠ 0) : execLookup p tk s = .next (s.endOp p (s.pnow p) (some (1, 0))) := by
  subst hq hseq
  exact State.control_of_op h rfl hin ((if_neg (not_not.2 hst)).trans
    ((if_neg (Bool.ne_false_iff.2 hpfx)).trans (if_pos hlen)))

variable (hlen : q.length = 0)
include hlen

theorem execLookup_of_link_down (hu : s.linkUp = false) : execLookup p tk s = .next s := by
  subst hq hseq
  exact State.control_of_wait h rfl hin ((if_neg (not_not.2 hst)).trans
    ((if_neg (Bool.ne_false_iff.2 hpfx)).trans ((if_neg (not_not.2 hlen)).trans (if_pos hu))))

theorem execLookup_of_link_up (hu : s.linkUp = true) {t : State} {v : Option (Nat × Nat)}
    (hr : (s.emit (.hostRead (opArg1 w) (4 * opArg0 w) false)).lookupWith p x w q tk = (t, v)) :
    execLookup p tk s = .next (t.endOp p (s.pnow p) v) := by
  subst hq hseq
  exact State.control_of_op h rfl hin ((if_neg (not_not.2 hst)).trans
    ((if_neg (Bool.ne_false_iff.2 hpfx)).trans ((if_neg (not_not.2 hlen)).trans
      ((if_neg (Bool.ne_false_iff.2 hu)).trans hr))))
end

/-- Settles O42: each command by the operation in turn, and each operation by its cases. -/
theorem controlOperations : Obligations.ControlOperations := by
  unfold Obligations.ControlOperations
  intro s p key x blobs tk toks l w seq q now next after settled cmds blocks asked found bs need g v rd filled
  have settled_eq (t : State) (c n : Nat) : .next (t.endOp p now (some (c, n))) = settled t c n := by
    simp only [State.endOp, settled]
    cases (t.part p).admitted <;> rfl
  refine ⟨fun e he hno => ?_, execSequenceReleaseComplete_of_closed, execSequenceReleaseComplete_of_other,
    fun hf ha => ⟨fun e he hno => ?_, fun hk ho hn => ⟨fun e he hin hc => ?_, fun hin => ?_⟩⟩⟩
  · obtain ⟨f, hx⟩ := exec_of_controlCommands he s
    exact hx.trans (congrArg _ (State.control_of_no_entry f hno))
  · obtain ⟨f, hx⟩ := exec_of_controlCommands he s
    exact hx.trans (congrArg _ (State.control_of_other f hf ha hno))
  · obtain ⟨f, hx⟩ := exec_of_controlCommands he s
    exact hx.trans (congrArg _ (State.control_of_out_of_range f ⟨hf, ha, hk, ho, hn, rfl, hc⟩ hin))
  have at_ {c : Nat} (hc : opCode w = c) : s.AtOp p c w x := ⟨hf, ha, hk, ho, hn, rfl, hc⟩
  have after_eq {o : Host.Outcome State Fault Refusal} {t : State} {c n : Nat} (hx : o = .next (t.endOp p now (some (c, n))))
      (ht : (t.part p).admitted = (s.part p).admitted) : o = after t c n :=
    hx.trans (congrArg _ (State.endOp_of_admitted (ht.trans ha) ho now (c, n)))
  refine ⟨fun hc => ⟨fun hst => ?_, fun hst => ?_⟩, fun hc => ⟨fun hst => ?_, fun hst => ?_⟩,
    fun hc => ⟨fun hst => ?_, fun h2 h3 => ?_, fun hst => ⟨fun hsw => ?_, fun hsw => ⟨fun hr hno => ?_, fun hgo =>
      ⟨fun hu => ?_, fun hu => ⟨fun again hg => ?_, fun hg => ?_, fun hg => ⟨fun hw => ?_, fun hd ht => ⟨?_, ?_⟩⟩⟩⟩⟩⟩⟩,
    fun hc => ⟨fun hst => ?_, fun h0 h5 => ?_⟩,
    fun hc => ⟨fun hst => ?_, fun hst => ⟨fun hpfx => ?_, fun hpfx => ⟨fun hlen => ?_, fun hlen => ⟨fun hu => ?_, fun hu =>
      ⟨?_, fun hkey => ?_, fun hkey => ⟨fun hcl => ?_, fun hcl => ?_⟩⟩⟩⟩⟩⟩⟩
  · exact after_eq (execOpen_of_used hin rfl rfl (at_ hc) hst) rfl
  · exact after_eq (execOpen_of_free hin rfl rfl (at_ hc) hst) (by rw [State.part_setSeq])
  · exact after_eq (execPark_of_other hin rfl rfl (at_ hc) hst) rfl
  · exact after_eq (execPark_of_active hin rfl rfl (at_ hc) hst) (by rw [State.part_setSeq])
  · exact after_eq (execResume_of_parked (at_ hc) hin rfl rfl hst) (by rw [State.part_setSeq])
  · exact after_eq (execResume_of_other (at_ hc) hin rfl rfl h2 h3) rfl
  · exact execResume_of_swapping (at_ hc) hin rfl rfl hst hsw
  · exact after_eq (execResume_of_no_pages (at_ hc) hin rfl rfl hst hsw rfl rfl hr hno) rfl
  · exact execResume_of_link_down (at_ hc) hin rfl rfl hst hsw rfl rfl hgo hu
  · exact (execResume_of_link_up (at_ hc) hin rfl rfl hst hsw rfl rfl hgo hu (State.resumeWith_of_wait hg)).trans
      (congrArg _ (State.endOp_none _ p now))
  · exact (execResume_of_link_up (at_ hc) hin rfl rfl hst hsw rfl rfl hgo hu (State.resumeWith_of_failure hg)).trans
      (settled_eq _ 4 0)
  · exact (execResume_of_link_up (at_ hc) hin rfl rfl hst hsw rfl rfl hgo hu
      ((State.resumeWith_of_got hg rfl).trans (State.swapIn_of_waiting hw blobs))).trans
      (congrArg _ (State.endOp_none v p now))
  · exact (execResume_of_link_up (at_ hc) hin rfl rfl hst hsw rfl rfl hgo hu
      ((State.resumeWith_of_got hg rfl).trans (State.swapIn_of_errors hd ht rfl))).trans (settled_eq _ 4 0)
  · exact (execResume_of_link_up (at_ hc) hin rfl rfl hst hsw rfl rfl hgo hu
      ((State.resumeWith_of_got hg rfl).trans (State.swapIn_of_read hd ht rfl rfl))).trans (settled_eq _ 0 0)
  · exact after_eq (execClose_of_closed hin rfl rfl (at_ hc) hst) rfl
  · exact after_eq (execClose_of_open hin rfl rfl (at_ hc) h0 h5) (by rw [State.part_setSeq, State.admitted_releaseSeq])
  · exact after_eq (execLookup_of_inactive (at_ hc) hin rfl rfl hst) rfl
  · exact after_eq (execLookup_of_unshared (at_ hc) hin rfl rfl hst hpfx) rfl
  · exact after_eq (execLookup_of_begun (at_ hc) hin rfl rfl hst hpfx hlen) rfl
  · exact execLookup_of_link_down (at_ hc) hin rfl rfl hst hpfx hlen hu
  · exact (execLookup_of_link_up (at_ hc) hin rfl rfl hst hpfx hlen hu (asked.lookupWith_of_errors p x w q)).trans
      (congrArg _ (State.endOp_none _ p now))
  · exact after_eq (execLookup_of_link_up (at_ hc) hin rfl rfl hst hpfx hlen hu
      (State.lookupWith_of_no_key (t := asked) hkey)) rfl
  · refine after_eq (execLookup_of_link_up (at_ hc) hin rfl rfl hst hpfx hlen hu
      (State.lookupWith_of_clearing (t := asked) hkey rfl hcl)) ?_
    split <;> simp only [State.part_bump, asked, State.part_emit]
  · exact after_eq (execLookup_of_link_up (at_ hc) hin rfl rfl hst hpfx hlen hu
      (State.lookupWith_of_walk (t := asked) hkey rfl hcl rfl rfl)) (by rw [State.part_setSeq, State.admitted_lookupWalk, State.part_emit])

end Sys2Proof.Machine
end

section
/-! SUPPORT. The scheduler's choice (R280, R516), the delivery of a batch (R22, R271, R273, R316, R437) and the completion of an
entry (R274, R276). -/

namespace Sys2Proof.Machine

/-! ### The scheduler -/

/-- The first ready partition with a positive deficit, upward from the one after the last choice (R280). -/
def State.choice (t : State) (ready : List Nat) : Option Nat :=
  ((List.range 32).map (fun i => (t.fv .serveSchedStateLast [] + 1 + i) % 32)).find?
    (fun p => ready.contains p && decide (0 < (t.part p).deficit))

theorem execSchedulerChoose_of_parked {s : State} (h : 2 ≤ s.powerState) : execSchedulerChoose s = .next s := if_pos h

section
variable {s t : State} (h : s.powerState < 2) (ht : t = s.scheduleRounds s.readySet)
include h ht

theorem execSchedulerChoose_of_none (hc : t.choice s.readySet = none) : execSchedulerChoose s = .next t := by
  subst ht
  rw [State.choice] at hc
  refine (if_neg (Nat.not_le.2 h)).trans ?_
  simp only [hc]

theorem execSchedulerChoose_of_choice {p : Nat} (hc : t.choice s.readySet = some p) :
    execSchedulerChoose s = .next ((t.setf .serveSchedStateLast [] p).admitNext p) := by
  subst ht
  rw [State.choice] at hc
  refine (if_neg (Nat.not_le.2 h)).trans ?_
  simp only [hc]
end

/-! ### The delivery -/

theorem State.memberAdmit_of_lead {s : State} {p : Nat} (h : s.isLead p = true) : s.memberAdmit p = s :=
  if_pos (by rw [h]; rfl)

/-- A STEP without an outcome may be delivered: its batch is here, its plate is in front, and its edition is resident. -/
def State.MayDeliver (s : State) (p : Nat) (x : Step) (e : Edition) : Prop :=
  x.outcome = none ∧ x.entry.kind = 0 ∧ s.powerState < 2 ∧ (s.isLead p = true ∨ batchHere x = true) ∧
    s.plateReady p x = true ∧ s.resident x.edition = some e

theorem State.toDeliver_of_idle {s : State} {p : Nat} (hf : (s.part p).firing = none) :
    s.toDeliver p = (s.part p).admitted := by
  simp only [State.toDeliver, hf]

theorem State.toDeliver_of_entered {s : State} {p : Nat} {x : Step} (hf : (s.part p).firing = some x)
    (hd : x.delivered = false) : s.toDeliver p = some x := by
  simp [State.toDeliver, hf, hd]

theorem State.delivering_of_idle {s : State} {p : Nat} (hf : (s.part p).firing = none) (f : State → State) :
    s.delivering p f = f s := by
  simp only [State.delivering, hf]

theorem execBatchDelivery_of_may {s : State} {p : Nat} {x : Step} {e : Edition} (hx : s.toDeliver p = some x)
    (hm : s.MayDeliver p x e) (batch : Option (List Byte)) : execBatchDelivery p batch s =
      .next ((s.delivering p (fun t => t.deliverBatch p e x batch)).memberAdmit p) := by
  obtain ⟨ho, hk, hp, hb, hr, he⟩ := hm
  have hno : ¬ (x.outcome.isSome || x.entry.kind != 0 || decide (s.powerState ≥ 2) ||
      (!s.isLead p && !batchHere x) || !s.plateReady p x) = true := by
    have hp' : ¬ 2 ≤ s.powerState := Nat.not_le.2 hp
    rcases hb with hb | hb <;> simp [ho, hk, hp', hb, hr]
  unfold execBatchDelivery
  simp only [hx, if_neg hno, he]

theorem execBatchDelivery_of_idle {s : State} {p : Nat} {x : Step} {e : Edition} (hf : (s.part p).firing = none)
    (ha : (s.part p).admitted = some x) (hm : s.MayDeliver p x e) (batch : Option (List Byte)) :
    execBatchDelivery p batch s = .next ((s.deliverBatch p e x batch).memberAdmit p) := by
  rw [execBatchDelivery_of_may ((State.toDeliver_of_idle hf).trans ha) hm, State.delivering_of_idle hf]

section
variable {s : State} {p : Nat} {e : Edition} {x : Step} {batch : Option (List Byte)}

/-- While the host link is out of L0 the lead reads no batch (R437, log 162). -/
theorem State.deliverBatch_of_down (hu : s.linkUp = false) (hl : s.isLead p = true) (hc : x.checked = false) :
    s.deliverBatch p e x batch = s := if_pos ⟨hu, hl, hc⟩

section
variable (hgo : s.linkUp = true ∨ s.isLead p = false ∨ x.checked = true) {t : State}
  (ht : t = (if x.checked then s else s.checkBatch p e x (if s.isLead p then batch else some x.batch)).gatherRecords p e
    (x.entry.seqCount + 1))
include hgo ht

theorem State.deliverBatch_eq : s.deliverBatch p e x batch =
    match (t.part p).admitted with
    | some y => if t.gathered p y then t.deliver p y else t
    | none => t := by
  have hno : ¬ (s.linkUp = false ∧ s.isLead p = true ∧ x.checked = false) := by
    rintro ⟨hu, hl, hc⟩
    rcases hgo with h | h | h
    · exact absurd (hu.symm.trans h) nofun
    · exact absurd (h.symm.trans hl) nofun
    · exact absurd (hc.symm.trans h) nofun
  subst ht
  exact if_neg hno

theorem State.deliverBatch_of_gathered {z : Step} (hz : (t.part p).admitted = some z) (hg : t.gathered p z = true) :
    s.deliverBatch p e x batch = t.deliver p z := by
  rw [State.deliverBatch_eq hgo ht, hz]
  exact if_pos hg

/-- A step whose pages are not all gathered stays where it stood. -/
theorem State.deliverBatch_of_gathering (hg : ∀ z, (t.part p).admitted = some z → t.gathered p z = false) :
    s.deliverBatch p e x batch = t := by
  rw [State.deliverBatch_eq hgo ht]
  cases hz : (t.part p).admitted with
  | none => rfl
  | some z => exact if_neg (Bool.eq_false_iff.1 (hg z hz))
end
end

/-! ### The completion -/

section
variable {s : State} {p : Nat} {x : Step}

theorem execStepComplete_of_firing (hf : (s.part p).firing = some x) (hr : s.roomToComplete p x = true)
    (hc : s.canComplete p x = true) {u : State}
    (hu : u = if x.outcome.isSome then (s.countGather p x).haltFabric p else s) : execStepComplete p s =
      .next (((((u.setPart p { u.part p with firing := none }).endRounds p x.entry.idx).setPhase p 0).finish p x
        x.ended).memberAdmit p) := by
  subst hu
  simp only [execStepComplete, hf, hr, hc, Bool.and_self, if_true]

theorem execStepComplete_of_waiting (hf : (s.part p).firing = some x)
    (h : s.roomToComplete p x = false ∨ s.canComplete p x = false) : execStepComplete p s = .next s := by
  have hno : (s.roomToComplete p x && s.canComplete p x) = false := by
    rcases h with h | h <;> simp [h]
  simp only [execStepComplete, hf, hno, Bool.false_eq_true, if_false]

section
variable (hf : (s.part p).firing = none) (ha : (s.part p).admitted = some x)
include hf ha

theorem execStepComplete_of_admitted (hr : s.roomToComplete p x = true)
    (hd : x.outcome.isSome = true ∨ (x.entry.kind = 1 ∧ x.entry.opCount ≤ x.results.length)) {u : State}
    (hu : u = s.countGather p x) : execStepComplete p s =
      .next (((u.setPart p { u.part p with admitted := none }).finish p x x.ended).memberAdmit p) := by
  have hgo : (s.roomToComplete p x &&
      (x.outcome.isSome || (x.entry.kind == 1 && decide (x.entry.opCount ≤ x.results.length)))) = true := by
    rcases hd with hd | ⟨hk, hn⟩
    · simp [hr, hd]
    · simp [hr, hk, hn]
  subst hu
  simp only [execStepComplete, hf, ha, hgo, if_true]

theorem execStepComplete_of_no_room (hr : s.roomToComplete p x = false) : execStepComplete p s = .next s := by
  simp only [execStepComplete, hf, ha, hr, Bool.false_and, Bool.false_eq_true, if_false]
end
end

/-- Settles O43: the choice, the delivery and the completion by their cases. -/
theorem schedulerDeliveryAndCompletion : Obligations.SchedulerDeliveryAndCompletion := by
  unfold Obligations.SchedulerDeliveryAndCompletion
  intro s p last x y e batch ready t order pick here got may halted
  refine ⟨fun hp => ⟨fun hc => ?_, fun hc => ?_⟩, fun hp => ?_,
    fun hf ha hm => ⟨fun hu hl hc => ?_, fun hgo => ⟨fun z hz hg => ?_, fun hg => ?_⟩⟩,
    fun hf hd hm => ?_, fun hf => ⟨fun hr hc => ?_, fun h => ?_⟩, fun hf ha => ⟨fun hr hd u hu => ?_, fun hr => ?_⟩⟩
  · exact execSchedulerChoose_of_choice hp rfl hc
  · exact execSchedulerChoose_of_none hp rfl hc
  · exact execSchedulerChoose_of_parked hp
  · refine (execBatchDelivery_of_idle hf ha hm batch).trans ?_
    rw [State.deliverBatch_of_down hu hl hc, State.memberAdmit_of_lead hl]
  · refine (execBatchDelivery_of_idle hf ha hm batch).trans ?_
    rw [State.deliverBatch_of_gathered hgo rfl hz hg]
  · refine (execBatchDelivery_of_idle hf ha hm batch).trans ?_
    rw [State.deliverBatch_of_gathering hgo rfl hg]
  · exact execBatchDelivery_of_may (State.toDeliver_of_entered hf hd) hm batch
  · exact execStepComplete_of_firing hf hr hc rfl
  · exact execStepComplete_of_waiting hf h
  · exact execStepComplete_of_admitted hf ha hr hd hu
  · exact execStepComplete_of_no_room hf ha hr

end Sys2Proof.Machine
end

section
/-! SUPPORT. The expert dispatcher's books (R332, R335 to R337): what a choice needs to be served, what it uses of a replica, and the
invariant that both passes of a layer keep. -/

namespace Sys2Proof.Machine

/-! ### Replicas -/

theorem DecideEnv.mem_order (v : DecideEnv) (e turn r : Nat) :
    r ∈ v.order e turn ↔ r < 8 ∧ (replicaOf (v.entry e) r).valid = true := by
  simp only [DecideEnv.order, List.mem_filter, List.mem_map, List.mem_range]
  refine and_congr_left fun _ => ⟨?_, fun hr => ⟨(r + 8 - turn % 8) % 8, ?_, ?_⟩⟩
  · rintro ⟨i, -, rfl⟩
    exact Nat.mod_lt _ (by decide)
  · exact Nat.mod_lt _ (by decide)
  · omega

/-- The replicas of an expert that is placed are all members (R348). -/
theorem DecideEnv.member_of_placed {v : DecideEnv} {e turn r : Nat} (hp : v.unplaced e = false)
    (hr : r ∈ v.order e turn) : v.members.contains (replicaOf (v.entry e) r).module_ = true := by
  have hr0 : r ∈ v.order e 0 := (v.mem_order e 0 r).2 ((v.mem_order e turn r).1 hr)
  have hall := List.any_eq_false.1 (Bool.or_eq_false_iff.1 hp).2 r hr0
  simpa using hall

/-- The expert is one of the layer, granted to the slot's privilege group, with members only for replicas (R332, R348). -/
def DecideEnv.Serves (v : DecideEnv) (slot e : Nat) : Prop :=
  e < v.nexp ∧ v.granted slot e = true ∧ v.unplaced e = false

/-- No replica is used more often than its limit. -/
def DecideEnv.Within (v : DecideEnv) (limit : Replica → Nat) (used : Tab Nat) : Prop :=
  ∀ e r, r < 8 → tabGet (fun _ => 0) used (8 * e + r) ≤ limit (replicaOf (v.entry e) r)

theorem DecideEnv.within_empty (v : DecideEnv) (limit : Replica → Nat) : v.Within limit [] :=
  fun _ _ _ => Nat.zero_le _

theorem DecideEnv.Within.use {v : DecideEnv} {limit : Replica → Nat} {used : Tab Nat} (h : v.Within limit used) {e r : Nat}
    (hr : r < 8) (hfree : tabGet (fun _ => 0) used (8 * e + r) < limit (replicaOf (v.entry e) r)) :
    v.Within limit (tabSet (fun _ => 0) used (8 * e + r) (tabGet (fun _ => 0) used (8 * e + r) + 1)) := by
  intro e' r' hr'
  by_cases hk : 8 * e' + r' = 8 * e + r
  · obtain ⟨rfl, rfl⟩ : e' = e ∧ r' = r := by omega
    rw [tabSet, if_neg (Nat.succ_ne_zero _), tabGet_tabIns_same]
    exact hfree
  · rw [tabGet_tabSet_ne _ _ _ hk]
    exact h e' r' hr'

/-! ### A choice that a replica takes (R335 to R337) -/

/-- A replica has capacity left in a pass. -/
def Books.free (b : Books) (v : DecideEnv) (pass e r : Nat) : Bool :=
  decide (tabGet (fun _ => 0) (if pass = 0 then b.mainUsed else b.deferUsed) (8 * e + r) <
    if pass = 0 then (replicaOf (v.entry e) r).cap else (replicaOf (v.entry e) r).deferCap)

/-- One use of a replica: the turn moves on behind it. -/
def Books.use (b : Books) (v : DecideEnv) (pass e r : Nat) : Books :=
  let used := if pass = 0 then b.mainUsed else b.deferUsed
  let used := tabSet (fun _ => 0) used (8 * e + r) (tabGet (fun _ => 0) used (8 * e + r) + 1)
  let b := { b with turn := tabSet (fun _ => 0) b.turn e (((v.order e ((r + 1) % 8)).head?).getD r) }
  if pass = 0 then { b with mainUsed := used } else { b with deferUsed := used }

/-- The choice is accepted at its replica, or dropped where the token has one of the pass at the same place (R337). -/
def Books.place (b : Books) (v : DecideEnv) (pass slot e score r : Nat) : Books :=
  let x := replicaOf (v.entry e) r
  if b.accepted.any (fun c => c.slot == slot && c.pass == pass && c.module_ == x.module_ && c.lslot == x.lslot) then
    { b.drop e with clashes := b.clashes + 1 }
  else { b.count e (if pass = 0 then countMain else countDeferOk) with
    accepted := b.accepted ++ [⟨slot, pass, e, score, x.module_, x.lslot⟩] }

theorem Books.accept_eq (b : Books) (v : DecideEnv) (pass slot e score : Nat) :
    b.accept v pass slot e score = ((v.order e (tabGet (fun _ => 0) b.turn e)).find? (b.free v pass e)).map
      (fun r => (b.use v pass e r).place v pass slot e score r) := by
  unfold Books.accept
  extract_lets turn used free
  have hfree : free = b.free v pass e := rfl
  rw [← hfree]
  split
  next hf => rw [hf]; rfl
  next r hf => rw [hf]; exact (apply_ite some _ _ _).symm

/-! ### The invariant -/

/-- The books of a layer are sound: capacities hold, every accepted choice and every one that waits for the deferred pass may
be served, and no two are at one place. -/
structure Books.Sound (v : DecideEnv) (b : Books) : Prop where
  main : v.Within Replica.cap b.mainUsed
  deferred : v.Within Replica.deferCap b.deferUsed
  served : ∀ c ∈ b.accepted, v.Serves c.slot c.expert ∧ c.pass ≤ 1 ∧ v.members.contains c.module_ = true
  later : ∀ c ∈ b.later, v.Serves c.1 c.2.1
  apart : b.accepted.Pairwise (fun c d => ¬ (c.slot = d.slot ∧ c.pass = d.pass ∧ c.module_ = d.module_ ∧ c.lslot = d.lslot))

theorem Books.sound_empty (v : DecideEnv) : Books.empty.Sound v :=
  ⟨v.within_empty _, v.within_empty _, nofun, nofun, .nil⟩

section
variable {v : DecideEnv} {b : Books} (h : b.Sound v)
include h

/-- Counts, turns, lost slots and sites with a bad index have no part in the invariant. -/
theorem Books.Sound.of_fields (turn : Tab Nat) (lost bad : List Nat) (hist : Tab Nat)
    (examined filtered dropped unplaced clashes : Nat) : Books.Sound v ⟨b.mainUsed, b.deferUsed, turn, b.accepted, b.later,
      lost, bad, hist, examined, filtered, dropped, unplaced, clashes⟩ :=
  ⟨h.main, h.deferred, h.served, h.later, h.apart⟩

theorem Books.Sound.count (e one : Nat) : (b.count e one).Sound v := h.of_fields ..

theorem Books.Sound.drop (e : Nat) : (b.drop e).Sound v := (h.count e countDropped).of_fields ..

theorem Books.Sound.use {pass e r : Nat} (hr : r < 8) (hf : b.free v pass e r = true) : (b.use v pass e r).Sound v := by
  have hlt := of_decide_eq_true hf
  unfold Books.use
  split
  next hp =>
    simp only [hp, if_true] at hlt
    exact ⟨h.main.use hr hlt, h.deferred, h.served, h.later, h.apart⟩
  next hp =>
    simp only [hp, if_false] at hlt
    exact ⟨h.main, h.deferred.use hr hlt, h.served, h.later, h.apart⟩

theorem Books.Sound.place {pass slot e r : Nat} (hs : v.Serves slot e) (hp : pass ≤ 1)
    (hm : v.members.contains (replicaOf (v.entry e) r).module_ = true) (score : Nat) :
    (b.place v pass slot e score r).Sound v := by
  unfold Books.place
  dsimp only
  split
  next => exact (h.drop e).of_fields ..
  next hany =>
    have hn := h.count e (if pass = 0 then countMain else countDeferOk)
    refine ⟨hn.main, hn.deferred, fun c hc => ?_, hn.later, List.pairwise_append.2 ⟨h.apart, List.pairwise_singleton .., ?_⟩⟩
    · rcases List.mem_append.1 hc with hc | hc
      · exact h.served c hc
      · obtain rfl := List.mem_singleton.1 hc
        exact ⟨hs, hp, hm⟩
    · intro c hc d hd hsame
      obtain rfl := List.mem_singleton.1 hd
      exact hany (List.any_eq_true.2 ⟨c, hc, by simpa [and_assoc] using hsame⟩)

theorem Books.Sound.accept {pass slot e score : Nat} {d : Books} (hs : v.Serves slot e) (hp : pass ≤ 1)
    (hd : b.accept v pass slot e score = some d) : d.Sound v := by
  rw [Books.accept_eq] at hd
  obtain ⟨r, hr, rfl⟩ := Option.map_eq_some_iff.1 hd
  have hmem := List.mem_of_find?_eq_some hr
  have hused := h.use ((v.mem_order _ _ r).1 hmem).1 (List.find?_some hr)
  exact hused.place hs hp (DecideEnv.member_of_placed hs.2.2 hmem) score

/-- A choice that finds no capacity in the main pass waits for the deferred one. -/
theorem Books.Sound.defer {slot e : Nat} (hs : v.Serves slot e) (score : Nat) :
    ({ b with later := b.later ++ [(slot, e, score)] } : Books).Sound v := by
  refine ⟨h.main, h.deferred, h.served, fun c hc => ?_, h.apart⟩
  rcases List.mem_append.1 hc with hc | hc
  · exact h.later c hc
  · obtain rfl := List.mem_singleton.1 hc
    exact hs

theorem Books.Sound.candidate (slot site : Nat) (c : Nat × Nat) : (Books.candidate v slot site b c).Sound v := by
  have hb : ({ b with examined := b.examined + 1 } : Books).Sound v := h.of_fields ..
  unfold Books.candidate
  dsimp only
  split
  next => exact hb.of_fields ..
  next hn =>
  split
  next => exact (hb.count c.1 countFiltered).of_fields ..
  next hg =>
  split
  next => exact (hb.drop c.1).of_fields ..
  next hu =>
  have hs : v.Serves slot c.1 := ⟨Nat.lt_of_not_le hn, by simpa using hg, by simpa using hu⟩
  split
  next d hd => exact hb.accept hs (Nat.zero_le 1) hd
  next =>
  split
  next =>
    split
    next => exact hb.defer hs c.2
    next => exact hb.drop c.1
  next => exact hb.drop c.1

theorem Books.Sound.second {c : Nat × Nat × Nat} (hs : v.Serves c.1 c.2.1) : (Books.second v b c).Sound v := by
  unfold Books.second
  split
  next d hd => exact h.accept hs (Nat.le_refl 1) hd
  next => exact (h.drop c.2.1).of_fields ..
end

/-- Both passes of a layer keep the books sound. -/
theorem decideLayer_sound (v : DecideEnv) (lists : List (Nat × Nat × List (Nat × Nat))) : (decideLayer v lists).Sound v := by
  have hmain : (lists.foldl (fun a l => l.2.2.foldl (Books.candidate v l.1 l.2.1) a) Books.empty).Sound v :=
    List.foldlRecOn (motive := Books.Sound v) lists _ (Books.sound_empty v) fun _ ha l _ =>
      List.foldlRecOn (motive := Books.Sound v) l.2.2 _ ha fun _ hb c _ => hb.candidate l.1 l.2.1 c
  exact List.foldlRecOn (motive := Books.Sound v) _ _ (hmain.of_fields ..) fun _ hb c hc =>
    hb.second (hmain.later c hc)

/-- Settles O54: the books of a layer are sound after both passes. -/
theorem dispatcherKeepsCapacityAndGrants : Obligations.DispatcherKeepsCapacityAndGrants := by
  unfold Obligations.DispatcherKeepsCapacityAndGrants
  intro v lists b
  have h : b.Sound v := decideLayer_sound v lists
  refine ⟨fun e r hr => ⟨h.main e r hr, h.deferred e r hr⟩, fun c hc => ?_, h.apart⟩
  obtain ⟨⟨hn, hg, hu⟩, hp, hm⟩ := h.served c hc
  exact ⟨hn, hg, hu, hp, hm⟩

end Sys2Proof.Machine
end

section
/-! SUPPORT. The expert dispatcher's commands (R333 to R348, R469, R470): a candidate list by what stands in its slot, a layer's
decision by what its table holds, and the messages of the fabric by whether a step takes them. -/

namespace Sys2Proof.Machine

/-! ### Candidate lists (R333, R334, R348) -/

/-- The dispatcher holds a site's slot: the site is no dispatch site, a layer is still sent, or the input has ended. -/
def State.holdsSlot (s : State) (p site : Nat) : Bool :=
  !(s.frontDispatch p).any (fun i => i.2 == site) || (s.part p).disp.sending || s.layerEnded p ||
    (s.part p).disp.ended.contains site

/-- The operand at the head of the slot is taken. -/
def State.takeList (s : State) (p site : Nat) (o : Operand) (rest : List Xfer) : State :=
  ((s.setSu site ((s.site site).su.take 6 rest)).muWake p site).progressBy p site (xfersOf o).length

/-- The slot belongs to a record of the step that is not excluded. -/
def State.servesSlot (t : State) (p slot : Nat) : Bool :=
  match (t.part p).firing with
  | some x => (match recOf x slot with
    | some (r, _) => !r.excluded
    | none => false)
  | none => false

/-- The candidates that are kept of a list, ordered by score: none of an excluded record, and no empty entry. -/
def State.keptCandidates (t : State) (p : Nat) (o : Operand) : List (Nat × Nat) :=
  (if t.servesSlot p (tagIter o.tag) then (listEntries o.words).filter (fun c => c.1 != 0xFFFFFFFF) else []).foldl
    (fun a c => candInsert c a) []

theorem execCandidateListArrival_of_idle {s : State} {site : Nat}
    (h : s.worksFor site = none ∨ headOperand ((s.site site).su.outFifo 6) = none) :
    execCandidateListArrival site s = .next s := by
  unfold execCandidateListArrival
  split
  next p o rest hw ho => exact (h.elim (fun h => nomatch h.symm.trans hw) (fun h => nomatch h.symm.trans ho))
  next => rfl

section
variable {s t : State} {p site : Nat} {o : Operand} {rest : List Xfer} (hw : s.worksFor site = some p)
  (ho : headOperand ((s.site site).su.outFifo 6) = some (o, rest))
include hw ho

theorem execCandidateListArrival_of_held (hh : s.holdsSlot p site = true) : execCandidateListArrival site s = .next s := by
  simp only [execCandidateListArrival, hw, ho]
  exact if_pos hh

section
variable (hh : s.holdsSlot p site = false) (ht : t = s.takeList p site o rest)
include hh ht

theorem execCandidateListArrival_of_end (he : o.eos = true) : execCandidateListArrival site s =
    .next ((t.setPart p { t.part p with
      disp := { (s.part p).disp with ended := (s.part p).disp.ended ++ [site] } }).takeTurn p) := by
  subst ht
  simp only [execCandidateListArrival, hw, ho]
  exact (if_neg (Bool.eq_false_iff.1 hh)).trans (if_pos he)

theorem execCandidateListArrival_of_second (he : o.eos = false)
    (hl : (s.part p).disp.lists.any (fun l => l.1 == tagIter o.tag) = true) : execCandidateListArrival site s =
    .next (((t.bump .serveDispDefects [p] 1).plateDefect p site 5).muRest p site) := by
  subst ht
  simp only [execCandidateListArrival, hw, ho]
  exact (if_neg (Bool.eq_false_iff.1 hh)).trans ((if_neg (Bool.eq_false_iff.1 he)).trans (if_pos hl))

theorem execCandidateListArrival_of_first (he : o.eos = false)
    (hl : (s.part p).disp.lists.any (fun l => l.1 == tagIter o.tag) = false) : execCandidateListArrival site s =
    .next (t.setPart p { t.part p with disp := { (s.part p).disp with
      lists := (s.part p).disp.lists ++ [(tagIter o.tag, site, t.keptCandidates p o)] } }) := by
  subst ht
  simp only [execCandidateListArrival, hw, ho]
  exact (if_neg (Bool.eq_false_iff.1 hh)).trans ((if_neg (Bool.eq_false_iff.1 he)).trans (if_neg (Bool.eq_false_iff.1 hl)))
end
end

/-! ### A layer's decision (R330, R334 to R348) -/

/-- The lists of a layer in ascending slot order. -/
def Disp.inOrder (d : Disp) : List (Nat × Nat × List (Nat × Nat)) := d.lists.foldl (fun a l => insertSlot l a) []

/-- The records of a layer that the dispatcher reads of a table on this module: the header and the named entries. -/
def State.layerRecords (s : State) (p : Nat) (row : RLayer) : List Nat :=
  if s.fa .serveExpertTblEnable [p] == 1 && s.tableHere p then
    tableRecords (s.tableAddr p) (s.part p).disp.layer
      (((s.part p).disp.inOrder.flatMap (fun l => l.2.2.map (·.1))).dedup.filter (fun i => decide (i < row.experts)))
  else []

/-- The records are read; the first that is uncorrectable is kept. -/
def State.readRecords (s : State) (p : Nat) (recs : List Nat) : State × Option Nat :=
  recs.foldl (fun (a : State × Option Nat) l =>
    let q := a.1.readPart p 0x1FFF 0 2 l
    (q.1, a.2.or q.2.ue)) (s, none)

/-- The table of a layer: that of this module as it reads after the records, or what another module's holds. -/
def State.layerTable (s read : State) (p mode : Nat) (entries : List Nat) (row : RLayer) : Option Placement :=
  if s.fa .serveExpertTblEnable [p] == 1 && s.tableHere p then
    some (read.localTable p (s.part p).disp.layer row.experts)
  else if s.fa .serveExpertTblEnable [p] == 1 then some ⟨bitOf mode 0, entries⟩ else none

/-- What the table of a layer, the members and the slots' privilege groups decide of the lists. -/
def State.layerBooks (read : State) (p : Nat) (x : Step) (row : RLayer) (table : Option Placement)
    (lists : List (Nat × Nat × List (Nat × Nat))) : Books :=
  decideLayer ⟨row.experts, table, read.members p, read.slotGroups x (lists.map (·.1))⟩ lists

/-- The books are entered, and the sites of bad candidates reported. -/
def State.enterBooks (read : State) (p layer : Nat) (b : Books) : State :=
  b.bad.foldl (fun u i => u.plateDefect p i 5) (read.bookLayer p layer b)

/-- The sites are owed their streams, and the ends of a pass in which nothing leaves are sent. -/
def State.oweLayer (t : State) (p : Nat) (x : Step) (row : RLayer) (late : Bool)
    (lists : List (Nat × Nat × List (Nat × Nat))) (b : Books) : State :=
  let owed := (t.frontDispatch p).flatMap (fun i => (siteStreams row (t.coord p) x.entry.tokenCount
    ((lists.filter (fun l => l.2.1 == i.2)).map (·.1)) late b.accepted).map (fun o => (i.2, 6, o)))
  let n0 := dueOf row (t.coord p) 0 (lists.map (·.1)) b.accepted
  let n1 := if late then dueOf row (t.coord p) 1 (lists.map (·.1)) b.accepted else 0
  let dd := (t.part p).disp
  let v := t.setPart p { t.part p with disp := { dd with
    lists := [], ended := [], layer := dd.layer + 1, turn := 0, owed := dd.owed ++ owed
    due := tabSet (fun _ => 0) (tabSet (fun _ => 0) dd.due (dispKey row.layer 0) n0) (dispKey row.layer 1) n1 } }
  let v0 := if n0 = 0 then v.sendEnds p row.layer 0 else v
  (if n1 = 0 then v0.sendEnds p row.layer 1 else v0).dispPump p

/-- The table is in the deferring mode. -/
def defersIn : Option Placement → Bool
  | some t => t.deferred
  | none => false

section
variable {s : State} {p mode : Nat} {entries : List Nat}

theorem execDispatchLayerDecide_of_idle
    (h : (s.part p).firing = none ∨ (s.firingNow p && s.layerEnded p && s.dispTurn p) = false) :
    execDispatchLayerDecide p mode entries s = .next s := by
  unfold execDispatchLayerDecide
  split
  next x hx hgo => exact h.elim (fun h => nomatch h.symm.trans hx) (fun h => nomatch h.symm.trans hgo)
  next => rfl

variable {x : Step} (hx : (s.part p).firing = some x) (hf : s.firingNow p = true) (hl : s.layerEnded p = true)
  (ht : s.dispTurn p = true)
include hx hf hl ht

theorem execDispatchLayerDecide_of_absent_edition (he : s.resident x.edition = none) :
    execDispatchLayerDecide p mode entries s = .next s := by
  simp only [execDispatchLayerDecide, hx, hf, hl, ht, Bool.and_self, he]

variable {e : Edition} (he : s.resident x.edition = some e)
include he

theorem execDispatchLayerDecide_of_beyond (hd : e.rlayers ≤ (s.part p).disp.layer) :
    execDispatchLayerDecide p mode entries s = .next ((s.frontDispatch p).foldl (fun u i => u.muRest p i.2)
      (s.setPart p { s.part p with disp := { (s.part p).disp with lists := [], ended := [], turn := 0 } })) := by
  simp only [execDispatchLayerDecide, hx, hf, hl, ht, Bool.and_self, he]
  exact if_pos hd

variable {row : RLayer} {recs : List Nat} (hd : (s.part p).disp.layer < e.rlayers)
  (hrow : row = e.rlayer (s.part p).disp.layer) (hrecs : recs = s.layerRecords p row)
include hd hrow hrecs

theorem execDispatchLayerDecide_of_record_out (hout : recs.any (fun a => (s.absent p 2 a).isSome) = true) :
    execDispatchLayerDecide p mode entries s = .next s := by
  subst hrow hrecs
  simp only [execDispatchLayerDecide, hx, hf, hl, ht, Bool.and_self, he]
  exact (if_neg (Nat.not_le_of_lt hd)).trans (if_pos hout)

variable (hin : recs.any (fun a => (s.absent p 2 a).isSome) = false)
include hin

theorem execDispatchLayerDecide_of_read_error {a : Nat} (hue : (s.readRecords p recs).2 = some a) :
    execDispatchLayerDecide p mode entries s =
      .next ((s.readRecords p recs).1.abortRun p Status.hbmUncorrectable (BitVec.ofNat 64 a)) := by
  subst hrow hrecs
  simp only [execDispatchLayerDecide, hx, hf, hl, ht, Bool.and_self, he]
  refine (if_neg (Nat.not_le_of_lt hd)).trans ((if_neg (Bool.eq_false_iff.1 hin)).trans ?_)
  split
  next a' ha' => rw [← Option.some.inj (hue.symm.trans ha')]; rfl
  next hno => exact nomatch hue.symm.trans hno

variable {read t : State} {table : Option Placement} {b : Books} (hue : (s.readRecords p recs).2 = none)
  (hread : read = (s.readRecords p recs).1) (htable : table = s.layerTable read p mode entries row)
  (hb : b = read.layerBooks p x row table (s.part p).disp.inOrder)
  (hbooked : t = read.enterBooks p (s.part p).disp.layer b)
include hue hread htable hb hbooked

theorem execDispatchLayerDecide_of_read : execDispatchLayerDecide p mode entries s =
    if t.firingNow p = false then .next t
    else .next (t.oweLayer p x row (defersIn table) (s.part p).disp.inOrder b) := by
  subst hbooked hb htable hread hrow hrecs
  simp only [execDispatchLayerDecide, hx, hf, hl, ht, Bool.and_self, he]
  refine (if_neg (Nat.not_le_of_lt hd)).trans ((if_neg (Bool.eq_false_iff.1 hin)).trans ?_)
  split
  next a ha => exact nomatch hue.symm.trans ha
  next => rfl
end

/-! ### Messages of the fabric (R469, R470) -/

/-- A message of the fabric waits where the step has not begun, and is received otherwise. -/
def State.fabricMessage (s : State) (port : Nat) (h : Hdr) (body : List Byte) (f : State → Nat → State) :
    Host.Outcome State Fault Refusal :=
  match s.accept h with
  | .ok p => if s.fabricWaits p then .next s else .next (s.receive port 0x20 h body f)
  | _ => .next (s.receive port 0x20 h body (fun t _ => t))

/-- A message for the firing step and one of its layers acts in the layer's context; any other is discarded. -/
def State.forLayer (t : State) (p port : Nat) (body : List Byte) (act : Nat → State) : State :=
  match t.dispCtx p (leAt body 1 1) (leAt body 0 1), t.firingNow p with
  | some ctx, true => act ctx
  | _, _ => t.discardMsg port

/-- The chunk is delivered at the dispatch sites that its mask names; stray bits are counted. -/
def State.deliverChunk (t : State) (p port : Nat) (body : List Byte) (ctx : Nat) : State :=
  let good := (t.frontDispatch p).filter (fun i => t.slotFiveFree i.2)
  let stray := (List.range 8).filter (fun i =>
    bitsOf (leAt body 8 8) (8 * i + 7) (8 * i) != 0 && !good.any (fun g => g.1 == i))
  (good.foldl (fun w i => w.deliverPair p ctx body i)
    (stray.foldl (fun w _ => (w.discardMsg port).warn p) t)).dispPump p

/-- The sender's end is held; that of the last member closes the sites' streams. -/
def State.holdEnd (t : State) (p src : Nat) (body : List Byte) (ctx : Nat) : State :=
  let d := (t.part p).disp
  let key := dispKey (leAt body 1 1) (leAt body 0 1)
  let held := tabGet (fun _ => []) d.ends key
  let ends := if held.contains src then held else held ++ [src]
  let marks := if (t.members p).all (fun m => ends.contains m) then
    ((t.frontDispatch p).filter (fun i => t.slotFiveFree i.2)).map (fun i => (i.2, 5, marker (mkTag ctx
      (tabGet (fun _ => 0) d.pairs (pairKey i.2 (leAt body 1 1) (leAt body 0 1)))))) else []
  (marks.foldl (fun (w : State) m => w.muWake p m.1) (t.setPart p { t.part p with disp := { d with
    ends := tabSet (fun _ => []) d.ends key ends, owed := d.owed ++ marks } })).dispPump p

section
variable {s t : State} {port p q : Nat} {h : Hdr} {body : List Byte}

theorem State.fabricMessage_of_refused (ha : ∀ k, s.accept h ≠ .ok k) (f : State → Nat → State) :
    s.fabricMessage port h body f = .next (s.receive port 0x20 h body (fun t _ => t)) := by
  unfold State.fabricMessage
  split
  next k hk => exact absurd hk (ha k)
  next => rfl

theorem State.fabricMessage_of_waiting (ha : s.accept h = .ok q) (hw : s.fabricWaits q = true)
    (f : State → Nat → State) : s.fabricMessage port h body f = .next s := by
  simp only [State.fabricMessage, ha]
  exact if_pos hw

theorem State.fabricMessage_of_taken (ha : s.accept h = .ok q) (hw : s.fabricWaits q = false)
    (f : State → Nat → State) : s.fabricMessage port h body f = .next (s.receive port 0x20 h body f) := by
  simp only [State.fabricMessage, ha]
  exact if_neg (Bool.eq_false_iff.1 hw)

theorem State.forLayer_of_none
    (hno : t.firingNow p = false ∨ t.dispCtx p (leAt body 1 1) (leAt body 0 1) = none) (act : Nat → State) :
    t.forLayer p port body act = t.discardMsg port := by
  unfold State.forLayer
  split
  next ctx hctx hf => exact hno.elim (fun h => nomatch h.symm.trans hf) (fun h => nomatch h.symm.trans hctx)
  next => rfl

theorem State.forLayer_of_layer {ctx : Nat} (hf : t.firingNow p = true)
    (hctx : t.dispCtx p (leAt body 1 1) (leAt body 0 1) = some ctx) (act : Nat → State) :
    t.forLayer p port body act = act ctx := by
  simp only [State.forLayer, hf, hctx]

theorem execDispatch_eq (s : State) : execDispatch port h body s =
    s.fabricMessage port h body (fun t p => t.forLayer p port body (t.deliverChunk p port body)) := rfl

theorem execDispatchEnd_eq (s : State) : execDispatchEnd port h body s =
    s.fabricMessage port h body (fun t p => let u := t.endCame p h.src (leAt body 1 1) (leAt body 0 1)
      u.forLayer p port body (u.holdEnd p h.src body)) := rfl

/-- Both messages of the fabric are received alike, DISPATCH_END after what it answers at its sender. -/
theorem exec_of_fabricMessage {c : Instr × (State → State)} (hc : c ∈ [(Instr.dispatch port h body, id),
    (.dispatchEnd port h body, fun u => u.endCame p h.src (leAt body 1 1) (leAt body 0 1))]) (s : State) :
    ∃ f, exec c.1 s = s.fabricMessage port h body f ∧ ∀ t, ∃ act, f t p = (c.2 t).forLayer p port body act := by
  rcases List.mem_pair.1 hc with rfl | rfl
  · exact ⟨_, execDispatch_eq s, fun t => ⟨_, rfl⟩⟩
  · exact ⟨_, execDispatchEnd_eq s, fun t => ⟨_, rfl⟩⟩
end

/-- Settles O53: each command by its cases; both messages of the fabric by one lemma where a step does not take them. -/
theorem expertDispatcherCommands : Obligations.ExpertDispatcherCommands := by
  unfold Obligations.ExpertDispatcherCommands
  intro s p q site port mode entries o rest x e h body ctx d took slot served list holds row lists slots on here named recs
    rd table b late t dd owed n0 n1 due v v0 v1 got came good stray key gd ends marks
  refine ⟨fun hi => ?_, fun hw ho => ⟨fun hh => ?_, fun hh he => ?_, fun hh he hl => ?_, fun hh he hl => ?_⟩,
    fun hi => ?_, fun hx hf hl ht => ⟨fun he => ?_, fun he => ⟨fun hd => ?_, fun hd hout => ?_,
      fun hd hin => ⟨fun a hue => ?_, fun hue hend => ?_, fun hue hgo => ?_⟩⟩⟩,
    fun c hc => ⟨fun ha => ?_, fun ha hw => ?_, fun ha hw => ⟨fun hg => ?_, fun hg hno => ?_⟩⟩,
    fun ha hw hg => ⟨fun hf hctx => ?_, fun hf hctx => ?_⟩⟩
  · exact execCandidateListArrival_of_idle hi
  · exact execCandidateListArrival_of_held hw ho hh
  · exact execCandidateListArrival_of_end hw ho hh rfl he
  · exact execCandidateListArrival_of_second hw ho hh rfl he hl
  · exact execCandidateListArrival_of_first hw ho hh rfl he hl
  · exact execDispatchLayerDecide_of_idle hi
  · exact execDispatchLayerDecide_of_absent_edition hx hf hl ht he
  · exact execDispatchLayerDecide_of_beyond hx hf hl ht he hd
  · exact execDispatchLayerDecide_of_record_out hx hf hl ht he hd rfl rfl hout
  · exact execDispatchLayerDecide_of_read_error hx hf hl ht he hd rfl rfl hin hue
  · exact (execDispatchLayerDecide_of_read hx hf hl ht he hd rfl rfl hin hue rfl rfl rfl rfl).trans (if_pos hend)
  · exact (execDispatchLayerDecide_of_read hx hf hl ht he hd rfl rfl hin hue rfl rfl rfl rfl).trans
      (if_neg (Bool.eq_false_iff.not_left.2 hgo))
  · obtain ⟨f, hexec, -⟩ := exec_of_fabricMessage hc s
    exact hexec.trans (State.fabricMessage_of_refused ha f)
  · obtain ⟨f, hexec, -⟩ := exec_of_fabricMessage hc s
    exact hexec.trans (State.fabricMessage_of_waiting ha hw f)
  · obtain ⟨f, hexec, -⟩ := exec_of_fabricMessage hc s
    exact (hexec.trans (State.fabricMessage_of_taken ha hw f)).trans (congrArg _ (State.receive_of_refused hg f))
  · obtain ⟨f, hexec, hf⟩ := exec_of_fabricMessage hc s
    obtain ⟨act, hact⟩ := hf got
    exact (hexec.trans (State.fabricMessage_of_taken ha hw f)).trans (congrArg _
      ((State.receive_of_accepted hg f).trans (hact.trans (State.forLayer_of_none hno act))))
  · exact (State.fabricMessage_of_taken ha hw _).trans (congrArg _
      ((State.receive_of_accepted hg _).trans (State.forLayer_of_layer hf hctx _)))
  · exact (State.fabricMessage_of_taken ha hw _).trans (congrArg _
      ((State.receive_of_accepted hg _).trans (State.forLayer_of_layer hf hctx _)))

end Sys2Proof.Machine
end

section
/-! SUPPORT. What the hub's accesses for a partition leave of HBM (R364, R365, R370, R463, R465): messages and records touch
nothing of it, reads keep its bytes and owner tags, writes and the recalls before them touch only pages whose tag lets the
partition write, and a line that was written reads back. -/

namespace Sys2Proof.Machine

variable (s : State)

/-! ### Messages, records and interrupts leave HBM alone -/

theorem State.ite_hbm {c : Prop} [Decidable c] {t u : State} {x : Hbm} (ht : t.hbm = x) (hu : u.hbm = x) :
    (if c then t else u).hbm = x := by
  split
  · exact ht
  · exact hu

@[simp] theorem State.msix_hbm (v : Nat) : (s.msix v).hbm = s.hbm := by
  unfold State.msix
  split
  · rfl
  · split <;> rfl

@[simp] theorem State.alert_hbm (f : Fld) : (s.alert f).hbm = s.hbm := by
  simp only [State.alert]
  split <;> rfl

@[simp] theorem State.bbPut_hbm (p : Option Nat) (typ cls payload : Nat) : (s.bbPut p typ cls payload).hbm = s.hbm := by
  unfold State.bbPut
  split <;> rfl

@[simp] theorem State.pump_hbm (q : Nat) : (s.pump q).hbm = s.hbm := by
  simp only [State.pump]
  split
  · split <;> rfl
  · rfl

@[simp] theorem State.sendVia_hbm (q : Nat) (m : Msg) : (s.sendVia q m).hbm = s.hbm := by
  unfold State.sendVia
  split
  · rfl
  · exact State.pump_hbm _ q

@[simp] theorem State.send_hbm (p typ dst : Nat) (fin : Bool) (status txn : Nat) (body : List Byte) :
    (s.send p typ dst fin status txn body).hbm = s.hbm := by
  simp only [State.send]
  split
  · rfl
  · split
    · exact State.sendVia_hbm s _ _
    · rfl

@[simp] theorem State.holdMsg_hbm (q typ : Nat) (h : Hdr) (body : List Byte) : (s.holdMsg q typ h body).hbm = s.hbm := rfl

@[simp] theorem State.discardMsg_hbm (q : Nat) : (s.discardMsg q).hbm = s.hbm := rfl

@[simp] theorem State.consume_hbm (q typ body : Nat) : (s.consume q typ body).hbm = s.hbm := by
  unfold State.consume State.countRx State.freeRx
  split <;> rfl

@[simp] theorem State.emitFault_hbm (p : Nat) (k : FaultKey) (confirm ts count : Nat) :
    (s.emitFault p k confirm ts count).hbm = s.hbm := by
  simp only [State.emitFault, State.emit_hbm, State.bbPut_hbm]
  split <;> simp

@[simp] theorem State.forwardFault_hbm (p : Nat) (k : FaultKey) (count ts : Nat) :
    (s.forwardFault p k count ts).hbm = s.hbm := by
  simp only [State.forwardFault]
  split
  · simp only [State.bump_hbm, State.send_hbm]
    split <;> simp
  · split <;> simp

@[simp] theorem State.confirmReq_hbm (p m : Nat) : (s.confirmReq p m).hbm = s.hbm := State.send_hbm s ..

/-- A fault report changes the partition's table and sends messages (R497, R499). -/
@[simp] theorem State.faultIn_hbm (p : Nat) (k : FaultKey) (count ts : Nat) : (s.faultIn p k count ts).hbm = s.hbm := by
  simp only [State.faultIn]
  split
  · split <;> simp
  · split
    · split
      · split <;> simp
      · simp
    · split <;> simp

@[simp] theorem State.bbWriteAt_hbm (p : Option Nat) (typ cls payload loc : Nat) :
    (s.bbWriteAt p typ cls payload loc).hbm = s.hbm := by
  simp only [State.bbWriteAt]
  split
  · split <;> simp
  · simp

@[simp] theorem State.bbWrite_hbm (p : Option Nat) (typ cls payload : Nat) : (s.bbWrite p typ cls payload).hbm = s.hbm :=
  State.bbWriteAt_hbm s ..

@[simp] theorem State.hbmEvent_hbm (was : Bool) (f : Fld) (ix : List Nat) : (s.hbmEvent was f ix).hbm = s.hbm := by
  unfold State.hbmEvent State.hbmVector
  split
  · rfl
  · split <;> simp

@[simp] theorem State.touchAge_hbm (p tile : Nat) : (s.touchAge p tile).hbm = s.hbm := by
  unfold State.touchAge
  split
  · split <;> rfl
  · rfl

/-- A refused access of a hub path, site 0x1FFF, is counted, logged and recorded (R365). -/
theorem State.tagFault_hub_hbm {site : Nat} (hs : site = 0x1FFF) (p a : Nat) (write : Bool) :
    (s.tagFault p site a write).hbm = s.hbm := by
  simp only [State.tagFault, if_pos hs, State.bbWriteAt_hbm, State.hbmEvent_hbm]
  exact State.ite_hbm (State.bump_hbm ..) (State.setv_hbm ..)

variable {s}

/-! ### Reads keep the bytes and the owner tags -/

/-- HBM holds the same bytes and owner tags; its counts, its caches and its error symbols may differ. -/
structure State.SameContents (s t : State) : Prop where
  cells : t.hbm.cells = s.hbm.cells
  tags : t.hbm.tags = s.hbm.tags

theorem State.SameContents.of_hbm {t : State} (h : t.hbm = s.hbm) : s.SameContents t := ⟨by rw [h], by rw [h]⟩

theorem State.SameContents.trans {t u : State} (h : s.SameContents t) (k : t.SameContents u) : s.SameContents u :=
  ⟨k.cells.trans h.cells, k.tags.trans h.tags⟩

theorem State.SameContents.setHbm {x : Hbm} (hc : x.cells = s.hbm.cells) (ht : x.tags = s.hbm.tags) :
    s.SameContents (s.setHbm x) := ⟨hc, ht⟩

theorem State.SameContents.foldl {α : Type} {f : State → α → State} (hf : ∀ (u : State) x, u.SameContents (f u x))
    (l : List α) (s : State) : s.SameContents (l.foldl f s) := by
  induction l generalizing s with
  | nil => exact .of_hbm rfl
  | cons x l ih => exact (hf s x).trans (ih _)

theorem State.refreshNear_contents (s : State) (row : Nat) : s.SameContents (s.refreshNear row) := by
  constructor <;> simp only [State.refreshNear, State.bump_hbm, State.setHbm_hbm, Hbm.refreshed]

/-- The activation of a row, with the targeted refreshes that it brings, moves counts only (R374). -/
theorem State.activate_contents (s : State) (a : Nat) : s.SameContents (s.activate a) :=
  (State.SameContents.foldl (fun u _ => State.refreshNear_contents u _) _ s).trans (.setHbm rfl rfl)

theorem State.logUe_contents (s : State) (p : Option Nat) (src a : Nat) : s.SameContents (s.logUe p src a) := by
  unfold State.logUe
  extract_lets ix counted was logged told cw seen
  have hsame : told.hbm = s.hbm :=
    (State.hbmEvent_hbm ..).trans (State.ite_hbm (State.bump_hbm ..) ((State.setv_hbm ..).trans (State.setv_hbm ..)))
  split
  · exact .of_hbm hsame
  · refine .trans (.of_hbm hsame) (.trans ?_ (.of_hbm (State.bbWrite_hbm ..)))
    exact .setHbm rfl rfl

theorem State.checkWords_contents (p : Option Nat) (src : Nat) (l : List Nat) (s : State) :
    s.SameContents (s.checkWords p src l).1 := by
  induction l generalizing s with
  | nil => exact .of_hbm rfl
  | cons c l ih =>
    unfold State.checkWords
    split
    · exact ih s
    · exact ⟨(ih _).cells, (ih _).tags⟩
    · exact (State.logUe_contents s p src c).trans (ih _)

theorem State.keepTile_contents (s : State) (a : Nat) (bs : List Byte) : s.SameContents (s.keepTile a bs) := .setHbm rfl rfl

theorem State.bump_contents (s : State) (r : Rg) (ix : List Nat) (k : Nat) : s.SameContents (s.bump r ix k) :=
  .of_hbm (State.bump_hbm ..)

/-- A read of a SHARED page fills the tile cache at most (R376, R377). -/
theorem State.sharedRead_contents (s : State) (p src a : Nat) (first : Bool) :
    s.SameContents (s.sharedRead p src a first).1 := by
  have miss : ∀ l, s.SameContents (((s.checkWords (some p) src l).1.bump .hbmTcMisses [a / 2 ^ 39 % 8] 1).activate a) :=
    fun l => ((State.checkWords_contents _ _ l s).trans (State.bump_contents _ ..)).trans (State.activate_contents _ a)
  simp only [State.sharedRead]
  split
  · split
    · exact miss _
    · exact State.checkWords_contents _ _ _ s
  · split
    · exact .of_hbm rfl
    · split
      · exact (State.keepTile_contents s a _).trans (State.bump_contents _ ..)
      · split
        · exact (miss _).trans (State.keepTile_contents _ a _)
        · exact miss _

theorem State.readLine_contents (s : State) (p src a : Nat) (first : Bool) :
    s.SameContents (s.readLine p src a first).1 := by
  simp only [State.readLine]
  split
  · split
    · exact State.sharedRead_contents s ..
    · have hcheck := State.checkWords_contents (some p) src (s.hbm.codewords a (first || a % 4096 == 0)) s
      split
      · exact hcheck.trans (State.activate_contents _ a)
      · exact hcheck
  · exact .of_hbm rfl

theorem State.readLines_contents (p src : Nat) (first : Bool) (n a : Nat) (s : State) :
    s.SameContents (s.readLines p src first n a).1 := by
  induction n generalizing s first a with
  | zero => exact .of_hbm rfl
  | succ n ih =>
    unfold State.readLines
    refine .trans ?_ (ih ..)
    split
    · exact (State.SameContents.of_hbm (State.touchAge_hbm s _ _)).trans (State.readLine_contents ..)
    · exact .of_hbm rfl
    · exact .of_hbm rfl

/-- A hub path reads: a refused read is one tag fault, and no site is charged (R365). -/
theorem State.readPart_hub_contents (s : State) (p src n a : Nat) : s.SameContents (s.readPart p 0x1FFF src n a).1 := by
  have hread := State.readLines_contents p src true n a s
  simp only [State.readPart, show decide (0x1FFF < 6144) = false from rfl, Bool.and_false, Bool.false_eq_true, if_false]
  split
  · exact hread.trans (.of_hbm (State.tagFault_hub_hbm _ rfl ..))
  · exact hread

theorem State.answerRead_contents (s : State) (p : Nat) (h : Hdr) (body : List Byte) :
    s.SameContents (s.answerRead p h body) := by
  have hread := State.readPart_hub_contents s p 0 (leAt body 8 2 / 64) (leAt body 0 8 % 2 ^ 44)
  simp only [State.answerRead]
  split
  · split <;> exact .of_hbm (State.send_hbm ..)
  · split
    · exact hread.trans (.of_hbm (State.send_hbm ..))
    · split <;> exact hread.trans (.of_hbm (State.send_hbm ..))

/-! ### Writes touch only pages that the partition may write -/

theorem Hbm.tag_congr {h g : Hbm} (ht : g.tags = h.tags) (page : Nat) : g.tag page = h.tag page := by
  rw [Hbm.tag, ht, Hbm.tag]

/-- The owner tags stand, and so does every byte of a page-tile whose tag does not let the partition write. -/
structure State.Respects (p : Nat) (s t : State) : Prop where
  tags : t.hbm.tags = s.hbm.tags
  bytes : ∀ x, tagAllows (s.hbm.tag (x / 65536)) p true = false → t.hbm.byte x = s.hbm.byte x

theorem State.SameContents.respects {t : State} (h : s.SameContents t) (p : Nat) : State.Respects p s t :=
  ⟨h.tags, fun x _ => by rw [Hbm.byte, h.cells, Hbm.byte]⟩

theorem State.Respects.of_hbm {t : State} (h : t.hbm = s.hbm) (p : Nat) : State.Respects p s t :=
  (State.SameContents.of_hbm h).respects p

theorem State.Respects.trans {p : Nat} {t u : State} (h : State.Respects p s t) (k : State.Respects p t u) :
    State.Respects p s u :=
  ⟨k.tags.trans h.tags, fun x hx => (k.bytes x (by rwa [Hbm.tag_congr h.tags])).trans (h.bytes x hx)⟩

/-- A codeword's write leaves the bytes of every other page-tile (R370). -/
theorem Hbm.byte_putLine_of_other_page (h : Hbm) {m x : Nat} (bs : List Byte) (hx : x / 65536 ≠ m / 65536) :
    (h.putLine m bs).byte x = h.byte x :=
  putBytes_outside _ _ _ _ (by simp; omega)

theorem State.writeLine_respects {p m : Nat} (hm : tagAllows (s.hbm.tag (m / 65536)) p true = true) (bs : List Byte)
    (first : Bool) : State.Respects p s (s.writeLine m bs first) := by
  have put : ∀ t : State, s.SameContents t → State.Respects p s (t.setHbm (t.hbm.putLine m bs)) := fun t ht =>
    ⟨ht.tags, fun x hx => (Hbm.byte_putLine_of_other_page _ bs (fun e => by rw [e, hm] at hx; cases hx)).trans
      ((ht.respects p).bytes x hx)⟩
  unfold State.writeLine
  split
  · exact put _ (State.activate_contents s m)
  · exact put _ (.of_hbm rfl)

/-- What the host writes back of a line goes to the line's partition (R431). -/
theorem State.takeBack_respects (s : State) (line : Nat) : State.Respects (line / 2 ^ 38) s (s.takeBack line) := by
  simp only [State.takeBack]
  split
  · split
    next hm => exact (State.Respects.of_hbm s.fresh_hbm _).trans (State.writeLine_respects (s := s.fresh) hm _ _)
    next => exact .of_hbm s.fresh_hbm _
  · exact .of_hbm s.fresh_hbm _

theorem State.takeBacks_respects {p : Nat} (l : List Nat) (hl : ∀ x ∈ l, x / 2 ^ 38 = p) (s : State) :
    State.Respects p s (l.foldl State.takeBack s) := by
  induction l generalizing s with
  | nil => exact .of_hbm rfl p
  | cons x l ih =>
    obtain ⟨hx, hl⟩ := List.forall_mem_cons.1 hl
    exact (hx ▸ State.takeBack_respects s x).trans (ih hl _)

/-- A recall of lines of one partition. -/
theorem State.recall_respects {p : Nat} {f : Nat → Bool} (hf : ∀ l, f l = true → l / 2 ^ 38 = p) (s : State) :
    State.Respects p s (s.recall f) := by
  simp only [State.recall]
  refine .trans ?_ (State.takeBacks_respects _ (fun x hx => hf x (List.mem_filter.1 hx).2) _)
  exact .of_hbm (by simp) p

/-- An address that leads to HBM lies below the end of the partition's range. -/
theorem State.lt_of_place_hbm {p a m : Nat} (h : s.place p a = .hbm m) : a < 2 ^ 44 := by
  by_contra hge
  rw [State.place, if_pos (Nat.le_of_not_lt hge)] at h
  cases h

/-- The line of an address of the partition's range is one of the partition's lines (R416). -/
theorem hdmLine_div {a : Nat} (ha : a < 2 ^ 44) (p : Nat) : hdmLine p a / 2 ^ 38 = p := by
  unfold hdmLine
  omega

/-- Before a line is written its copy in the host is recalled, and its page's age is set (R429, R431). -/
def State.readyLine (s : State) (p a : Nat) : State := (s.recall (fun l => l == hdmLine p a)).touchAge p (a / 65536)

theorem State.readyLine_respects {p a : Nat} (ha : a < 2 ^ 44) (s : State) : State.Respects p s (s.readyLine p a) :=
  (State.recall_respects (fun _ hl => by rw [eq_of_beq hl, hdmLine_div ha]) s).trans (.of_hbm (State.touchAge_hbm ..) p)

theorem State.readyLine_keeps (s : State) (p a : Nat) : Keeps s (s.readyLine p a) :=
  State.touchAge_keeps (State.recall_keeps (.refl s) _) p _

theorem State.writeLines_respects (p : Nat) (first : Bool) (n a : Nat) (bs : List Byte) (s : State) :
    State.Respects p s (s.writeLines p first n a bs).1 := by
  induction n generalizing s first a bs with
  | zero => exact .of_hbm rfl p
  | succ n ih =>
    unfold State.writeLines
    refine .trans ?_ (ih ..)
    split
    next m _ hm =>
      have hready := State.readyLine_respects (p := p) (State.lt_of_place_hbm hm) s
      dsimp only
      split
      next ht => exact hready.trans (State.writeLine_respects ht _ _)
      next => exact hready
    next => exact .of_hbm rfl p

/-- A hub path writes: a refused write is one tag fault, and no site is charged (R365). -/
theorem State.writePart_hub_hbm (s : State) (p a : Nat) (bs : List Byte) :
    (s.writePart p 0x1FFF a bs).1.hbm = (s.writeLines p true ((bs.length + 63) / 64) a bs).1.hbm := by
  simp only [State.writePart, show decide (0x1FFF < 6144) = false from rfl, Bool.and_false, Bool.false_eq_true, if_false]
  split
  · exact State.tagFault_hub_hbm _ rfl ..
  · rfl

theorem State.answerWrite_respects (s : State) (p : Nat) (h : Hdr) (body : List Byte) :
    State.Respects p s (s.answerWrite p h body) :=
  (State.writeLines_respects p true _ _ _ s).trans (.of_hbm ((State.send_hbm ..).trans (State.writePart_hub_hbm s ..)) p)

/-! ### A line that was written reads back -/

/-- The symbols of a codeword that is written whole are the code's (R370). -/
theorem Hbm.flaws_putLine (h : Hbm) (m : Nat) (bs : List Byte) : (h.putLine m bs).flaws m = [] := by
  unfold Hbm.flaws Hbm.putLine tabSet
  rw [if_pos rfl]
  exact tabGet_tabDel_same _ _ _

theorem Hbm.byte_putLine {h : Hbm} (w : Memory.wf h.cells = true) {m : Nat} (hm : m % 64 = 0) {bs : List Byte}
    (hl : bs.length = 64) {i : Nat} (hi : i < 64) : (h.putLine m bs).byte (m + i) = bs.getD i 0 := by
  have hline : (bs ++ List.replicate 64 0).take 64 = bs := List.take_left' hl
  have hbase : m / 64 * 64 = m := by omega
  have hput := putBytes_inside w m bs i (by omega)
  simpa [Hbm.byte, Hbm.putLine, hline, hbase, List.getD, hl, hi] using hput

theorem State.wf_cells {s : State} (w : s.wf = true) : Memory.wf s.hbm.cells = true := (Bool.and_eq_true_iff.1 w).1

/-- One line at a mapped address of a page that the partition owns is written after the recall of its copy. -/
theorem State.writeLines_granted {p a m : Nat} (hv : s.variantOffset p a = none) (hp : s.place p a = .hbm m)
    (ht : tagAllows (s.hbm.tag (m / 65536)) p true = true) (bs : List Byte) :
    s.writeLines p true 1 a bs = ((s.readyLine p a).writeLine m (bs.take 64) true, none, false) := by
  have htag := Hbm.tag_congr (State.readyLine_respects (p := p) (State.lt_of_place_hbm hp) s).tags (m / 65536)
  have hgrant : tagAllows ((s.readyLine p a).hbm.tag (m / 65536)) p true = true := by rwa [htag]
  unfold State.readyLine at hgrant ⊢
  simpa [State.writeLines, hv, hp] using hgrant

theorem State.writePart_granted (w : s.wf = true) {p a m : Nat} {bs : List Byte} (hv : s.variantOffset p a = none)
    (hp : s.place p a = .hbm m) (hm : m % 64 = 0) (hl : bs.length = 64)
    (ht : tagAllows (s.hbm.tag (m / 65536)) p true = true) :
    (s.writePart p 0x1FFF a bs).2 = true ∧
      (∀ i < 64, (s.writePart p 0x1FFF a bs).1.hbm.byte (m + i) = bs.getD i 0) ∧
      (s.writePart p 0x1FFF a bs).1.hbm.flaws m = [] := by
  have hone : s.writeLines p true ((bs.length + 63) / 64) a bs =
      ((s.readyLine p a).writeLine m bs true, none, false) := by
    rw [hl, State.writeLines_granted hv hp ht, List.take_of_length_le (Nat.le_of_eq hl)]
  have hhbm : (s.writePart p 0x1FFF a bs).1.hbm = ((s.readyLine p a).activate m).hbm.putLine m bs := by
    rw [State.writePart_hub_hbm, hone]
    rfl
  have hcells := State.wf_cells ((State.activate_keeps (State.readyLine_keeps s p a) m).wf w)
  refine ⟨congrArg (fun r : State × Option Nat × Bool => r.2.1.isNone) hone, fun i hi => ?_, ?_⟩
  · rw [hhbm, Hbm.byte_putLine hcells hm hl hi]
  · rw [hhbm, Hbm.flaws_putLine]

/-! ### Requests of other modules (R463, R465) -/

theorem State.lt_of_partOfTag {tag p : Nat} (h : s.partOfTag tag = some p) : p < 32 := by
  unfold State.partOfTag firstBelow at h
  exact List.mem_range.1 (List.mem_of_find?_eq_some h)

/-- The checks of R463 read the active registers, ACTIVE and EPOCH of the module's partitions. -/
theorem State.accept_congr {t : State} (hact : t.regs.act = s.regs.act)
    (hv : ∀ p < 32, t.fv .partStatusActive [p] = s.fv .partStatusActive [p] ∧ t.epoch p = s.epoch p) (h : Hdr) :
    t.accept h = s.accept h := by
  have hra : ∀ r ix, t.ra r ix = s.ra r ix := fun r ix => by rw [State.ra, hact, State.ra]
  have hformed : ∀ p, t.formed p = s.formed p := fun p => by
    by_cases hp : p < 32
    · simp only [State.formed, (hv p hp).1]
    · simp only [State.formed, decide_eq_false hp, Bool.false_and]
  have htag : t.partOfTag h.ptag = s.partOfTag h.ptag := by
    simp only [State.partOfTag, hformed, State.ptag, State.fa, hra]
  rw [State.accept, State.accept, htag]
  cases hp : s.partOfTag h.ptag with
  | none => rfl
  | some p =>
    have hcoord : t.coord p = s.coord p := by rw [State.coord, State.fa, hra, State.coord, State.fa]
    have hmember : t.isMember p h.src = s.isMember p h.src := by rw [State.isMember, hra, State.isMember]
    simp only
    rw [hcoord, hmember, (hv p (State.lt_of_partOfTag hp)).2]

/-- The count of messages received leaves every register above MSG_RX of the last engine. -/
theorem State.rv_countRx {q : Nat} {r : Rg} {ix : List Nat} (hr : Rg.at .opticMsgRx [15] < r.at ix) :
    (s.countRx q).rv r ix = s.rv r ix := by
  unfold State.countRx
  split
  next hq =>
    refine State.rv_setv_ne s _ ?_
    simp [Rg.at, Rg.spec] at hr ⊢
    omega
  next => rfl

/-- Taking a message from its port changes nothing that the checks of R463 read. -/
theorem State.accept_consume (s : State) (q typ body : Nat) (h : Hdr) : (s.consume q typ body).accept h = s.accept h := by
  have hfree : (s.freeRx q typ body).regs = s.regs := by
    unfold State.freeRx
    split <;> rfl
  have hrv : ∀ r ix, (s.freeRx q typ body).rv r ix = s.rv r ix := fun r ix => by rw [State.rv, hfree, State.rv]
  refine State.accept_congr ?_ (fun p _ => ⟨?_, ?_⟩) h
  · rw [← hfree]
    unfold State.consume State.countRx
    split <;> rfl
  · rw [State.fv, State.consume, State.rv_countRx (by simp [Rg.at, Rg.spec]; omega), hrv, State.fv]
  · rw [State.epoch, State.fv, State.consume, State.rv_countRx (by simp [Rg.at, Rg.spec]; omega), hrv, State.epoch, State.fv]

/-- A request that R463 does not accept is answered or discarded, and its meaning does not run. -/
theorem State.receiveReq_refused_hbm {h : Hdr} (ha : ∀ p, s.accept h ≠ .ok p) (port typ rsp : Nat) (body : List Byte)
    (f : State → Nat → State) : (s.receiveReq port typ rsp h body f).hbm = s.hbm := by
  have hcons := State.accept_consume s port typ body.length h
  cases hs : s.accept h with
  | ok p => exact absurd hs (ha p)
  | stale p => rw [State.receiveReq_of_stale rfl (hcons.trans hs), State.send_hbm, State.consume_hbm]
  | bad => rw [State.receiveReq_of_bad rfl (hcons.trans hs), State.discardMsg_hbm, State.consume_hbm]

section
variable {t : State} {port : Nat} {h : Hdr} {body : List Byte}

theorem execRdReq_contents (he : execRdReq port h body s = .next t) : s.SameContents t := by
  cases hw : s.mustWait port h (leAt body 0 8) (leAt body 8 2 / 64) with
  | true =>
    cases (execRdReq_of_waiting hw).symm.trans he
    exact .of_hbm (State.holdMsg_hbm ..)
  | false =>
    cases (execRdReq_of_served hw).symm.trans he
    by_cases ha : ∃ p, s.accept h = .ok p
    · obtain ⟨p, ha⟩ := ha
      rw [State.receiveReq_of_accepted rfl ((State.accept_consume ..).trans ha)]
      exact (State.SameContents.of_hbm (State.consume_hbm s ..)).trans (State.answerRead_contents _ p h body)
    · exact .of_hbm (State.receiveReq_refused_hbm (not_exists.1 ha) ..)

theorem execWrReq_refused_hbm (he : execWrReq port h body s = .next t) (ha : ∀ p, s.accept h ≠ .ok p) : t.hbm = s.hbm := by
  cases (execWrReq_of_served (State.mustWait_of_refused ha ..)).symm.trans he
  exact State.receiveReq_refused_hbm ha ..

theorem execWrReq_respects {p : Nat} (he : execWrReq port h body s = .next t) (ha : s.accept h = .ok p) :
    State.Respects p s t := by
  cases hw : s.mustWait port h (leAt body 0 8) ((body.length - 8) / 64) with
  | true =>
    cases (execWrReq_of_waiting hw).symm.trans he
    exact .of_hbm (State.holdMsg_hbm ..) p
  | false =>
    cases (execWrReq_of_served hw).symm.trans he
    rw [State.receiveReq_of_accepted rfl ((State.accept_consume ..).trans ha)]
    exact (State.Respects.of_hbm (State.consume_hbm s ..) p).trans (State.answerWrite_respects _ p h body)
end

/-- Settles O60: a read keeps the contents of HBM, a write respects the tags, and a granted line's codeword is the one
written. -/
theorem remoteRequestsRespectOwnership : Obligations.RemoteRequestsRespectOwnership := by
  unfold Obligations.RemoteRequestsRespectOwnership
  intro s t port p a m x h body bs w
  refine ⟨fun he => ?_, fun he => ⟨?_, fun ha => ?_, fun ha hx => ?_⟩, fun hv hp hm hl ht => ?_⟩
  · obtain ⟨hcells, htags⟩ := execRdReq_contents he
    exact ⟨hcells, htags⟩
  · by_cases ha : ∃ q, s.accept h = .ok q
    · obtain ⟨q, ha⟩ := ha
      exact (execWrReq_respects he ha).tags
    · rw [execWrReq_refused_hbm he (not_exists.1 ha)]
  · rw [execWrReq_refused_hbm he ha]
  · exact (execWrReq_respects he ha).bytes x hx
  · exact State.writePart_granted w hv hp hm hl ht

end Sys2Proof.Machine
end

section
/-! SUPPORT. The edition library (R382, R388 to R391, R397, R399 to R409): a command at the front of its class by its checks,
a running one by its end, and the upkeep of blocks and channels by what stands in them. -/

namespace Sys2Proof.Machine

variable {s t : State} {c : FlashCmd}

/-! ### Starting a command (R399) -/

/-- A legal command of an operation stands at the front of its class. -/
def State.Starts (s : State) (op : Nat) (c : FlashCmd) : Prop :=
  s.flashFront (op == 1 || op == 2) = some c ∧ c.op = op ∧ c.legal = true

/-- No legal command of an operation stands at the front of its class. -/
def State.StartsNone (s : State) (op : Nat) : Prop :=
  ∀ d, s.flashFront (op == 1 || op == 2) = some d → ¬ (d.op = op ∧ d.legal = true)

/-- A command has completed, and the illegal ones that then stand at the front. -/
def State.completed (t : State) (c : FlashCmd) (code detail : Nat) : State := (t.flashDone c code detail).flashSweep 16

/-- A command has started and runs. -/
def State.goesOn (t : State) (c : FlashCmd) : State := t.setFlash { t.flash with running := t.flash.running ++ [c] }

/-- What the first event of a command leaves: its result, or the command that runs. -/
def FlashCmd.started (c : FlashCmd) (r : State × Option (Nat × Nat)) : State :=
  match r.2 with
  | some v => r.1.completed c v.1 v.2
  | none => r.1.goesOn c

@[simp] theorem FlashCmd.started_result (t : State) (v : Nat × Nat) : c.started (t, some v) = t.completed c v.1 v.2 := rfl

@[simp] theorem FlashCmd.started_running (t : State) : c.started (t, none) = t.goesOn c := rfl

/-- A command starts from the state whose queue no longer holds it. -/
theorem State.flashStart_of_starts {op : Nat} (h : s.Starts op c) (ht : s.flashTake c = t)
    (f : State → FlashCmd → State × Option (Nat × Nat)) : s.flashStart op f = c.started (f t c) := by
  obtain ⟨hfront, hop⟩ := h
  simp only [State.flashStart, hfront, if_pos hop, ht]
  rfl

theorem State.flashStart_of_none {op : Nat} (h : s.StartsNone op) (f : State → FlashCmd → State × Option (Nat × Nat)) :
    s.flashStart op f = s := by
  unfold State.flashStart
  split
  next d hd => exact if_neg (h d hd)
  next => rfl

/-! ### INSTALL (R401) -/

/-- The slot that a new edition takes: a free one, or number 1,024 while it replaces its older copy (log 121). -/
def State.newSlot (t : State) (id : Nat) : Nat :=
  if (t.slotOf id).isSome then 1024 else (firstBelow 1024 (fun n => (t.flash.slot n).state == 0)).getD 1024

theorem execInstall_of_running (hr : s.flash.running.find? (fun x => x.op == 1) = some c) (pkg : Option (List Byte))
    (c0 : Nat) : execInstall pkg c0 s = .next (s.flashEnd c (fun t => t.installFinish pkg)) := by
  simp only [execInstall, hr]

section
variable (hr : s.flash.running.find? (fun x => x.op == 1) = none)
include hr

theorem execInstall_of_none (h : s.StartsNone 1) (pkg : Option (List Byte)) (c0 : Nat) :
    execInstall pkg c0 s = .next s := by
  simp only [execInstall, hr, State.flashStart_of_none h]

variable (h : s.Starts 1 c) (ht : s.flashTake c = t)
include h ht

theorem execInstall_of_failed_read (c0 : Nat) : execInstall none c0 s = .next (t.completed c FlashCode.hostRead 0) := by
  simp only [execInstall, hr, State.flashStart_of_starts h ht, FlashCmd.started_result]

theorem execInstall_of_refused {bs : List Byte} {v : Nat × Nat} (hi : t.installRefused c bs = some v) (c0 : Nat) :
    execInstall (some bs) c0 s = .next (t.completed c v.1 v.2) := by
  simp only [execInstall, hr, State.flashStart_of_starts h ht, hi, FlashCmd.started_result]

theorem execInstall_of_accepted {bs : List Byte} (hi : t.installRefused c bs = none) {c0 : Nat} {e : Edition}
    (he : packageEdition (bs.take (leAt bs 20 4)) c0 = e) : execInstall (some bs) c0 s =
      .next (((t.setUsed (t.flash.used + e.space)).setSlot (t.newSlot e.id) e).goesOn c) := by
  simp only [execInstall, hr, State.flashStart_of_starts h ht, hi, he, FlashCmd.started_running, State.newSlot]
end

/-! ### DELETE (R397) -/

theorem execDelete_of_none (h : s.StartsNone 2) : execDelete s = .next s := by
  simp only [execDelete, State.flashStart_of_none h]

section
variable (h : s.Starts 2 c) (ht : s.flashTake c = t) {n : Nat}
include h ht

theorem execDelete_of_absent (hi : t.installed c.edition = none) :
    execDelete s = .next (t.completed c FlashCode.notInstalled 0) := by
  simp only [execDelete, State.flashStart_of_starts h ht, hi, FlashCmd.started_result]

theorem execDelete_of_busy (hi : t.installed c.edition = some n) (hs : (t.flash.slot n).state ≠ 2) :
    execDelete s = .next (t.completed c FlashCode.busy 0) := by
  simp only [execDelete, State.flashStart_of_starts h ht, hi, if_pos hs, FlashCmd.started_result]

theorem execDelete_of_stored (hi : t.installed c.edition = some n) (hs : (t.flash.slot n).state = 2) : execDelete s =
    .next ((((t.setUsed (t.flash.used - (t.flash.slot n).space)).setSlot n Edition.reset).eraseUnused).completed c 0 0) := by
  simp only [execDelete, State.flashStart_of_starts h ht, hi, if_neg (not_not.2 hs), FlashCmd.started_result]
end

/-! ### STAGE (R403) -/

theorem execStage_of_running (hr : s.flash.running.find? (fun x => x.op == 3) = some c) (r : FlashRead) :
    execStage r s = .next (if s.stageWaits c then s else s.flashEnd c (fun t => t.stageFinish c r)) := by
  simp only [execStage, hr]

section
variable (hr : s.flash.running.find? (fun x => x.op == 3) = none) (r : FlashRead)
include hr

theorem execStage_of_none (h : s.StartsNone 3) : execStage r s = .next s := by
  simp only [execStage, hr, State.flashStart_of_none h]

variable (h : s.Starts 3 c) (ht : s.flashTake c = t)
include h ht

theorem execStage_of_absent (hi : t.installed c.edition = none) :
    execStage r s = .next (t.completed c FlashCode.notInstalled 0) := by
  simp only [execStage, hr, State.flashStart_of_starts h ht, hi, FlashCmd.started_result]

variable {n : Nat} {e : Edition} (hi : t.installed c.edition = some n) (he : t.flash.slot n = e)
include hi he

theorem execStage_of_resident (hs : e.state = 4) : execStage r s = .next (t.completed c 0 0) := by
  simp only [execStage, hr, State.flashStart_of_starts h ht, hi, he, if_pos hs, FlashCmd.started_result]

variable (hs : e.state ≠ 4)
include hs

theorem execStage_of_degraded (hd : e.degraded = true) : execStage r s =
    .next (t.completed c FlashCode.editionLost ((t.deadStripe e (List.range e.stripes)).getD 0)) := by
  simp only [execStage, hr, State.flashStart_of_starts h ht, hi, he, if_neg hs, if_pos hd, FlashCmd.started_result]

variable (hd : ¬ e.degraded = true)
include hd

theorem execStage_of_full (hn : 64 ≤ t.fv .flashLibStateResident []) :
    execStage r s = .next (t.completed c FlashCode.limit 0) := by
  simp only [execStage, hr, State.flashStart_of_starts h ht, hi, he, if_neg hs, if_neg hd, if_pos hn,
    FlashCmd.started_result]

variable (hn : ¬ 64 ≤ t.fv .flashLibStateResident [])
include hn

theorem execStage_of_bad_record (hp : ¬ (t.deadStripe e e.plateStripes).isSome = true) {d : Nat}
    (hf : e.recordFailure (t.contentByte e) = some d) : execStage r s = .next (t.completed c FlashCode.recordBad d) := by
  simp only [execStage, hr, State.flashStart_of_starts h ht, hi, he, if_neg hs, if_neg hd, if_neg hn, if_neg hp, hf,
    FlashCmd.started_result]

-- The images of the PLATE extents cannot be read, or the records pass (log 117).
variable (hp : (if (t.deadStripe e e.plateStripes).isSome then none else e.recordFailure (t.contentByte e)) = none)
include hp

theorem execStage_of_no_pages {v : Nat × Nat} (hl : t.reserve e 8 0 = .error v) :
    execStage r s = .next (t.completed c v.1 v.2) := by
  simp only [execStage, hr, State.flashStart_of_starts h ht, hi, he, if_neg hs, if_neg hd, if_neg hn, hp, hl,
    FlashCmd.started_result]

theorem execStage_of_reserved {l : List (Nat × Nat)} (hl : t.reserve e 8 0 = .ok l) : execStage r s = .next ((t.setSlot n
    { e with state := 3, pages := l.foldl (fun u q => tabSet (fun _ => 2 ^ 26) u q.1 q.2) [] }).goesOn c) := by
  simp only [execStage, hr, State.flashStart_of_starts h ht, hi, he, if_neg hs, if_neg hd, if_neg hn, hp, hl,
    FlashCmd.started_running]
end

/-! ### EVICT (R399, R406) -/

/-- What an EVICT at the front of its class comes to: only a RESIDENT edition that nothing uses leaves HBM. -/
def State.evictStart (t : State) (c : FlashCmd) : State × Option (Nat × Nat) :=
  match t.installed c.edition with
  | none => (t, some (FlashCode.notInstalled, 0))
  | some n =>
    if (t.flash.slot n).state ≠ 4 then (t, some (0, 0))
    else if t.editionUsed c.edition then (t, some (FlashCode.busy, 0))
    else (t.unstage n, some (0, 0))

section
variable {v : State} (hv : s.abandonAhead 8 = v)
include hv

/-- The result FIFO had no room for all that the EVICT overtakes. -/
theorem execEvict_of_overtaken (ho : v.flash.overtaken ≠ none) : execEvict s = .next v := by
  simp only [execEvict, hv, if_pos (Option.isSome_iff_ne_none.2 ho)]

variable (ho : v.flash.overtaken = none)
include ho

theorem execEvict_of_staging {g : FlashCmd} {n : Nat} (hg : v.evictRunning = some (g, c)) (hn : v.stagingSlot = some n) :
    execEvict s = .next (if v.flashRoom 1 then
      (((v.flashTake c).unstage n).flashDone g FlashCode.abandoned 0).completed c 0 0 else v) := by
  simp only [execEvict, hv, ho, hg, hn, Option.isSome_none, Bool.false_eq_true, if_false, State.completed, ← apply_ite]

variable (hn : v.evictRunning = none ∨ v.stagingSlot = none)
include hn

theorem execEvict_of_not_staging : execEvict s = .next (v.flashStart 4 State.evictStart) := by
  simp only [execEvict, hv, ho, Option.isSome_none, Bool.false_eq_true, if_false]
  split
  next hg hm => exact (hn.elim (fun h => nomatch h.symm.trans hg) (fun h => nomatch h.symm.trans hm))
  next => rfl

theorem execEvict_of_none (h : v.StartsNone 4) : execEvict s = .next v := by
  rw [execEvict_of_not_staging hv ho hn, State.flashStart_of_none h]

theorem execEvict_of_starts (h : v.Starts 4 c) {code detail : Nat}
    (he : (v.flashTake c).evictStart c = (t, some (code, detail))) : execEvict s = .next (t.completed c code detail) := by
  rw [execEvict_of_not_staging hv ho hn, State.flashStart_of_starts h rfl, he, FlashCmd.started_result]
end

theorem State.evictStart_of_absent (hi : t.installed c.edition = none) :
    t.evictStart c = (t, some (FlashCode.notInstalled, 0)) := by
  simp only [State.evictStart, hi]

section
variable {n : Nat} (hi : t.installed c.edition = some n)
include hi

theorem State.evictStart_of_not_resident (hs : (t.flash.slot n).state ≠ 4) : t.evictStart c = (t, some (0, 0)) := by
  simp only [State.evictStart, hi, if_pos hs]

variable (hs : (t.flash.slot n).state = 4)
include hs

theorem State.evictStart_of_used (hu : t.editionUsed c.edition = true) :
    t.evictStart c = (t, some (FlashCode.busy, 0)) := by
  simp only [State.evictStart, hi, if_neg (not_not.2 hs), if_pos hu]

theorem State.evictStart_of_unused (hu : ¬ t.editionUsed c.edition = true) :
    t.evictStart c = (t.unstage n, some (0, 0)) := by
  simp only [State.evictStart, hi, if_neg (not_not.2 hs), if_neg hu]
end

/-! ### SET_STAGE and SET_EVICT (R408) -/

theorem execSetStage_of_waiting (hw : s.setWaits = true) (r : FlashRead) : execSetStage r s = .next s := by
  simp only [execSetStage, if_pos hw]

theorem execSetStage_of_none (h : s.StartsNone 5) (r : FlashRead) : execSetStage r s = .next s := by
  simp only [execSetStage, State.flashStart_of_none h, ite_self]

section
variable (hw : ¬ s.setWaits = true) (h : s.Starts 5 c) (ht : s.flashTake c = t) (r : FlashRead) {n : Nat}
include hw h ht

theorem execSetStage_of_absent (hi : t.installed c.edition = none) :
    execSetStage r s = .next (t.completed c FlashCode.notInstalled 0) := by
  simp only [execSetStage, if_neg hw, State.flashStart_of_starts h ht, hi, FlashCmd.started_result]

theorem execSetStage_of_not_resident (hi : t.installed c.edition = some n) (hs : (t.flash.slot n).state ≠ 4) :
    execSetStage r s = .next (t.completed c FlashCode.notResident 0) := by
  simp only [execSetStage, if_neg hw, State.flashStart_of_starts h ht, hi, if_pos hs, FlashCmd.started_result]

theorem execSetStage_of_resident (hi : t.installed c.edition = some n) (hs : (t.flash.slot n).state = 4)
    {u : State × Nat × Nat} (hu : t.stageSet n c.stipple r = u) :
    execSetStage r s = .next (u.1.completed c u.2.1 u.2.2) := by
  simp only [execSetStage, if_neg hw, State.flashStart_of_starts h ht, hi, if_neg (not_not.2 hs), hu,
    FlashCmd.started_result]
end

theorem execSetEvict_of_none (h : s.StartsNone 6) : execSetEvict s = .next s := by
  simp only [execSetEvict, State.flashStart_of_none h]

section
variable (h : s.Starts 6 c) (ht : s.flashTake c = t)
include h ht

theorem execSetEvict_of_absent (hi : t.installed c.edition = none) :
    execSetEvict s = .next (t.completed c FlashCode.notInstalled 0) := by
  simp only [execSetEvict, State.flashStart_of_starts h ht, hi, FlashCmd.started_result]

variable {n : Nat} {e : Edition} (hi : t.installed c.edition = some n) (he : t.flash.slot n = e)
include hi he

theorem execSetEvict_of_not_resident (hs : e.state ≠ 4) :
    execSetEvict s = .next (t.completed c FlashCode.notResident 0) := by
  simp only [execSetEvict, State.flashStart_of_starts h ht, hi, he, if_pos hs, FlashCmd.started_result]

variable (hs : e.state = 4)
include hs

theorem execSetEvict_of_named (hu : t.setNamed c.edition c.stipple = true) :
    execSetEvict s = .next (t.completed c FlashCode.busy 0) := by
  simp only [execSetEvict, State.flashStart_of_starts h ht, hi, he, if_neg (not_not.2 hs), if_pos hu,
    FlashCmd.started_result]

theorem execSetEvict_of_unnamed (hu : ¬ t.setNamed c.edition c.stipple = true) :
    execSetEvict s = .next (((t.dirtyAll (tabGet (fun _ => []) e.sets c.stipple)).setSlot n
      { e with sets := tabSet (fun _ => []) e.sets c.stipple [] }).completed c 0 0) := by
  simp only [execSetEvict, State.flashStart_of_starts h ht, hi, he, if_neg (not_not.2 hs), if_neg hu,
    FlashCmd.started_result]
end

/-! ### REPAIR (R409) -/

theorem execRepair_of_waiting (hw : s.repairWaits = true) (r : FlashRead) : execRepair r s = .next s := by
  simp only [execRepair, if_pos hw]

theorem execRepair_of_none (h : s.StartsNone 7) (r : FlashRead) : execRepair r s = .next s := by
  simp only [execRepair, State.flashStart_of_none h, ite_self]

/-- The edition whose resident page-tile moved to page q: an edition page, or one of a set's. -/
def Edition.repaired (f : Edition) (place : Option (Nat × Nat)) (ep q : Nat) : Edition :=
  match place with
  | some (k, i) => { f with sets := tabSet (fun _ => []) f.sets k ((tabGet (fun _ => []) f.sets k).set i q) }
  | none => { f with pages := tabSet (fun _ => 2 ^ 26) f.pages ep q }

section
variable (hw : ¬ s.repairWaits = true) (h : s.Starts 7 c) (ht : s.flashTake c = t) {page : Nat}
  (hp : c.arg0.toNat / 65536 = page) (r : FlashRead)
include hw h ht hp

theorem execRepair_of_absent (hi : t.residentTile page = none) :
    execRepair r s = .next (t.completed c FlashCode.notResident 0) := by
  simp only [execRepair, if_neg hw, State.flashStart_of_starts h ht, hp, hi, FlashCmd.started_result]

variable {n shard view ep : Nat} {place : Option (Nat × Nat)} (hi : t.residentTile page = some (n, shard, view, place, ep))
  {j : State} {dead : Option Nat} (hj : (t.readShards n [shardNo shard] r).judge n [shard / 8] = (j, dead))
include hi hj

theorem execRepair_of_lost {k : Nat} (hd : dead = some k) :
    execRepair r s = .next (j.completed c FlashCode.editionLost k) := by
  simp only [execRepair, if_neg hw, State.flashStart_of_starts h ht, hp, hi, hj, hd, FlashCmd.started_result]

variable (hd : dead = none)
include hd

theorem execRepair_of_no_page (hq : ∀ q, j.takeFree (dieOfPage page) 1 ≠ some [q]) :
    execRepair r s = .next (j.completed c FlashCode.noSpace (dieOfPage page)) := by
  simp only [execRepair, if_neg hw, State.flashStart_of_starts h ht, hp, hi, hj, hd, FlashCmd.started_result]

theorem execRepair_of_moved {q : Nat} (hq : j.takeFree (dieOfPage page) 1 = some [q]) {lib u : State}
    (hl : j.countRebuilds (j.flash.slot n) [shard] = lib)
    (hu : lib.fillPage q view (lib.tileBytes (j.flash.slot n) shard) = u) :
    execRepair r s =
      .next (((u.setSlot n ((u.flash.slot n).repaired place ep q)).setTag page (2 ^ 14)).completed c 0 0) := by
  simp only [execRepair, if_neg hw, State.flashStart_of_starts h ht, hp, hi, hj, hd, hq, hl, hu, FlashCmd.started_result]
  rfl
end

/-! ### CMD_ACK (R399) -/

theorem execCmdAck_of_missed {miss : Nat} (hm : s.missed (Rg.flashCmdAck.at []) = some miss) :
    execCmdAck s = .next (s.noteMiss (Rg.flashCmdAck.at []) miss) := by
  simp only [execCmdAck, hm]

theorem execCmdAck_of_powered (hm : s.missed (Rg.flashCmdAck.at []) = none) :
    execCmdAck s = .next ((s.setFlash { s.flash with results := s.flash.results.drop 1 }).flashSweep 16) := by
  simp only [execCmdAck, hm]

/-! ### Blocks and channels (R388 to R391) -/

theorem bit01_not_isEmpty {α : Type} (l : List α) [Decidable (l = [])] :
    bit01 (!l.isEmpty) = if l = [] then 0 else 1 := by
  cases l <;> simp [bit01]

section
variable {channel die block b : Nat} {program erase failed : Bool}
  (hb : channel % 64 * 2 ^ 15 + die % 8 * 2 ^ 12 + block % 2 ^ 12 = b) (hf : (program || erase) = failed)
  (rs : List (Nat × FlashRead))
include hb hf

theorem execBlockRelocation_of_kept (hr : s.relocates b failed = false) :
    execBlockRelocation channel die block program erase rs s = .next s := by
  simp only [execBlockRelocation, hb, hf, hr, Bool.false_eq_true, if_false]

variable (hr : s.relocates b failed = true) {held : List (Nat × Nat)} (hh : s.heldBy b = held)
include hr hh

theorem execBlockRelocation_of_no_block (hd : s.freshBlock (channel % 64) = none) :
    execBlockRelocation channel die block program erase rs s =
      .next (if held = [] then s.eraseBlock b failed else s) := by
  simp only [execBlockRelocation, hb, hf, hr, hh, hd, if_true, List.isEmpty_iff]

/-- The block's shards are read edition by edition, and then moved (R388, R390). -/
theorem execBlockRelocation_of_block {dest : Nat} (hd : s.freshBlock (channel % 64) = some dest) {read : State}
    (hread : ((held.map (fun x => x.1)).eraseDups).foldl (fun u i =>
      u.readAndJudge i ((held.filter (fun x => x.1 == i)).map (fun x => x.2)) (findings rs i)) s = read) :
    execBlockRelocation channel die block program erase rs s =
      .next (((held.foldl (fun u x => u.moveShard dest x.1 x.2) read).eraseBlock b failed).bump .flashRelocations []
        (if held = [] then 0 else 1)) := by
  simp only [execBlockRelocation, hb, hf, hr, hh, hd, if_true, hread, bit01_not_isEmpty]
end

section
variable {channel ch : Nat} (hc : channel % 64 = ch)
include hc

theorem execChannelOutOfService_of_serving (hf : ¬ s.flash.failed.contains ch = true) :
    execChannelOutOfService channel s =
      .next ((s.setFlash { s.flash with failed := s.flash.failed ++ [ch] }).channelDown ch) := by
  simp only [execChannelOutOfService, hc, if_neg hf]

theorem execChannelOutOfService_of_failed (hf : s.flash.failed.contains ch = true) :
    execChannelOutOfService channel s = .next s := by
  simp only [execChannelOutOfService, hc, if_pos hf]

theorem execChannelRebuildDone_of_none (h : s.libraryUp = false ∨ s.flash.rebuilding.contains ch = false) :
    execChannelRebuildDone channel s = .next s := by
  simp only [execChannelRebuildDone, hc, Bool.and_eq_false_iff.2 h, Bool.false_eq_true, if_false]

theorem execChannelRebuildDone_of_rebuilding (hu : s.libraryUp = true) (hr : s.flash.rebuilding.contains ch = true)
    {rebuilt : State} (hrb : (s.flash.slots.map (fun e => e.1)).foldl (fun u i => u.rebuildEdition ch i) s = rebuilt) :
    execChannelRebuildDone channel s = .next (((rebuilt.setFlash { rebuilt.flash with
      rebuilding := rebuilt.flash.rebuilding.filter (fun x => x != ch) }).showChannel ch).bbWrite none 0x41 0
        (payloadOf [(0, 1, ch), (1, 1, 2)])) := by
  simp only [execChannelRebuildDone, hc, hu, hr, Bool.and_self, if_true, hrb]
end

/-- Settles O56: each command by its checks in turn, each event of the upkeep by what it finds. -/
theorem flashLibraryCommands : Obligations.FlashLibraryCommands := by
  unfold Obligations.FlashLibraryCommands
  intro s c g pkg bs c0 n r l channel die block dest miss programFailed eraseFailed rs view shard ep old q place
    at_ ends goesOn front idle e m new home named dead staged wrote set v vt ve page judged taken f lib fill fe put
    ch b failed relocate held read moved slots rebuilt back
  refine ⟨fun hr => execInstall_of_running hr pkg c0, fun hr h => execInstall_of_none hr h pkg c0,
    fun hr h => ⟨execInstall_of_failed_read hr h rfl c0, fun a b hi => execInstall_of_refused hr h rfl hi c0,
      fun hi => execInstall_of_accepted hr h rfl hi rfl⟩,
    execDelete_of_none,
    fun h => ⟨execDelete_of_absent h rfl, execDelete_of_busy h rfl, execDelete_of_stored h rfl⟩,
    fun hr => execStage_of_running hr r, fun hr => execStage_of_none hr r,
    fun hr h => ⟨execStage_of_absent hr r h rfl, fun hi => execStage_of_resident hr r h rfl hi rfl,
      fun hi hs => ⟨execStage_of_degraded hr r h rfl hi rfl hs,
        fun hd => execStage_of_full hr r h rfl hi rfl hs (Bool.eq_false_iff.1 hd), fun hd hn => ?stageChecks⟩⟩,
    execEvict_of_overtaken rfl,
    fun ho => ⟨execEvict_of_staging rfl ho, fun hn => ?evict⟩,
    fun h => h.elim (execSetStage_of_waiting · r) (execSetStage_of_none · r),
    fun hw h => ?setStage,
    execSetEvict_of_none,
    fun h => ⟨execSetEvict_of_absent h rfl, fun hi => execSetEvict_of_not_resident h rfl hi rfl,
      fun hi => execSetEvict_of_named h rfl hi rfl,
      fun hi hs hu => execSetEvict_of_unnamed h rfl hi rfl hs (Bool.eq_false_iff.1 hu)⟩,
    fun h => h.elim (execRepair_of_waiting · r) (execRepair_of_none · r),
    fun hw h => ?repair,
    execCmdAck_of_missed, execCmdAck_of_powered,
    execBlockRelocation_of_kept rfl rfl rs,
    fun hr => ⟨execBlockRelocation_of_no_block rfl rfl rs hr rfl,
      fun hd => execBlockRelocation_of_block rfl rfl rs hr rfl hd rfl⟩,
    rfl,
    fun hf => execChannelOutOfService_of_serving rfl (Bool.eq_false_iff.1 hf), execChannelOutOfService_of_failed rfl,
    execChannelRebuildDone_of_none rfl,
    fun hu hr => execChannelRebuildDone_of_rebuilding rfl hu hr rfl,
    rfl⟩
  case stageChecks =>
    have hd := Bool.eq_false_iff.1 hd
    have hn := Nat.not_le.2 hn
    refine ⟨fun d hp hf => execStage_of_bad_record hr r h rfl hi rfl hs hd hn (Bool.eq_false_iff.1 hp) hf, fun hp => ?_⟩
    have hp : (if dead then none else e.recordFailure (at_.contentByte e)) = none :=
      hp.elim (fun h => if_pos h) (fun h => by rw [h, ite_self])
    exact ⟨fun a b => execStage_of_no_pages hr r h rfl hi rfl hs hd hn hp,
      execStage_of_reserved hr r h rfl hi rfl hs hd hn hp⟩
  case evict =>
    refine ⟨execEvict_of_none rfl ho hn, fun hf hop hl => ?_⟩
    have start {t code detail} := execEvict_of_starts (t := t) (code := code) (detail := detail) rfl ho hn ⟨hf, hop, hl⟩
    exact ⟨fun hi => start (State.evictStart_of_absent hi), fun hi hs => start (State.evictStart_of_not_resident hi hs),
      fun hi hs hu => start (State.evictStart_of_used hi hs hu),
      fun hi hs hu => start (State.evictStart_of_unused hi hs (Bool.eq_false_iff.1 hu))⟩
  case setStage =>
    have hw := Bool.eq_false_iff.1 hw
    exact ⟨execSetStage_of_absent hw h rfl r, execSetStage_of_not_resident hw h rfl r,
      fun hi hs => execSetStage_of_resident hw h rfl r hi hs rfl⟩
  case repair =>
    have hw := Bool.eq_false_iff.1 hw
    exact ⟨execRepair_of_absent hw h rfl rfl r, fun hi => ⟨fun hd => execRepair_of_lost hw h rfl rfl r hi rfl hd,
      fun hd hq => execRepair_of_no_page hw h rfl rfl r hi rfl hd fun q => hq q,
      fun hd hq => execRepair_of_moved hw h rfl rfl r hi rfl hd hq rfl rfl⟩⟩

end Sys2Proof.Machine
end

section
/-! SUPPORT. The host link (R413, R437, R438, R440, R441, R527): training by width, rate and flits, L0 by whether the link is up,
a failed stream, the keys of a stream by the session they come in, and the DOE mailbox. -/

namespace Sys2Proof.Machine

/-! ### Training and L0 -/

/-- The link trained at a width and a rate, in L0 (R413). -/
def State.trainedAt (s : State) (width speed : Nat) (lopt : Bool) : State :=
  (((s.setf .hostLinkStatusWidth [] width).setf .hostLinkStatusSpeed [] (min speed 6)).setf
    .hostLinkStatusLopt [] (bit01 lopt)).setf .hostLinkStatusUp [] 1

/-- The host has enumerated the device and programmed its MSI-X table (log 125). -/
def State.enumerated (t : State) (cfg : HostConfig) : State :=
  t.setHost { t.host with hdmBase := cfg.base, msixOn := cfg.msixOn, masked := cfg.masked, msixTable := cfg.table }

section
variable {width speed : Nat} {flit256 : Bool} (lopt : Bool) (cfg : HostConfig) (s : State)

theorem execHostLinkTrained_of_supported (hw : 8 ≤ width) (hs : 5 ≤ speed) :
    execHostLinkTrained width speed true lopt cfg s =
      .next (((s.trainedAt (if width < 16 then 8 else 16) speed lopt).endIde.enumerated cfg).inL0) :=
  if_neg (not_or.2 ⟨hw.not_gt, not_or.2 ⟨hs.not_gt, Bool.noConfusion⟩⟩)

theorem execHostLinkTrained_of_full (hw : 16 ≤ width) (hs : 5 ≤ speed) :
    execHostLinkTrained width speed true lopt cfg s =
      .next (((s.trainedAt 16 speed lopt).endIde.enumerated cfg).inL0) := by
  rw [execHostLinkTrained_of_supported lopt cfg s (by omega) hs, if_neg (by omega)]

theorem execHostLinkTrained_of_half (hw : 8 ≤ width) (h16 : width < 16) (hs : 5 ≤ speed) :
    execHostLinkTrained width speed true lopt cfg s =
      .next (((s.trainedAt 8 speed lopt).endIde.enumerated cfg).inL0) := by
  rw [execHostLinkTrained_of_supported lopt cfg s hw hs, if_pos h16]

theorem execHostLinkTrained_of_unsupported (h : width < 8 ∨ speed < 5 ∨ flit256 = false) :
    execHostLinkTrained width speed flit256 lopt cfg s = .next (s.linkErr .hostLinkErrNarrow) := if_pos h
end

theorem execLinkLeavesL0_of_up {s : State} (hu : s.linkUp = true) : execLinkLeavesL0 s = .next s.linkDown :=
  congrArg _ (if_pos hu)

theorem execLinkReturnsL0_of_trained {s : State} (hu : s.linkUp = false) (hw : s.fv .hostLinkStatusWidth [] ≠ 0) :
    execLinkReturnsL0 s = .next (s.setf .hostLinkStatusUp [] 1).inL0 :=
  if_neg (not_or.2 ⟨Bool.eq_false_iff.1 hu, hw⟩)

/-! ### Integrity and the DOE mailbox -/

/-- The keys of a stream take the place of those it had (R440). -/
def State.keyStream (s : State) (k : Nat) (key : List Byte) : State :=
  s.setHost { s.host with ideKeys := s.host.ideKeys.filter (fun e => e.1 != k) ++ [(k, key)] }

/-- The state of a stream, CXL.io (0) or CXL.cachemem (1), in HOST.LINK_STATUS (R440). -/
def State.setStream (s : State) (k active : Nat) : State :=
  if k = 0 then s.setf .hostLinkStatusIdeIo [] active else s.setf .hostLinkStatusIdeCm [] active

theorem State.setStream_io (s : State) (active : Nat) : s.setStream 0 active = s.setf .hostLinkStatusIdeIo [] active := rfl

theorem State.setStream_cm (s : State) (active : Nat) : s.setStream 1 active = s.setf .hostLinkStatusIdeCm [] active := rfl

theorem State.ideKeys_endIde (s : State) : s.endIde.host.ideKeys = [] := rfl

/-- The recorded failure ends its stream, and the link goes down where it was up (R440, log 128). -/
theorem execIdeFailure_eq (stream : Nat) (s : State) {t : State}
    (ht : t = ((s.linkErr .hostLinkErrIdeFail).bbWrite none 0x51 7 (payloadOf [(0, 1, stream % 2)])).setStream (stream % 2) 0) :
    execIdeFailure stream s = .next (if t.linkUp then t.linkDown else t) := by
  subst ht
  rfl

section
variable {session stream : Nat} {key : List Byte} {s : State}

theorem execIdeKm_of_no_session (ho : s.mgmt.sessions.any (fun x => x.1 == session && x.2.2 == 2) = false) (go : Bool) :
    execIdeKm session stream key go s = .next s :=
  if_neg (Bool.eq_false_iff.1 ho)

theorem execIdeKm_of_session (ho : s.mgmt.sessions.any (fun x => x.1 == session && x.2.2 == 2) = true) (go : Bool) :
    execIdeKm session stream key go s =
      .next ((if go then (s.keyStream (stream % 2) key).setStream (stream % 2) 1 else s.keyStream (stream % 2) key).emit
        (.spdm 2 0x7E (leBytes 1 (stream % 2)))) :=
  if_pos ho

/-- With `go` the stream of the keys becomes active. -/
theorem execIdeKm_of_stream (ho : s.mgmt.sessions.any (fun x => x.1 == session && x.2.2 == 2) = true) {k : Nat} {t : State}
    (hk : stream % 2 = k) (ht : (s.keyStream (stream % 2) key).setStream k 1 = t) :
    execIdeKm session stream key true s = .next (t.emit (.spdm 2 0x7E (leBytes 1 k))) := by
  subst hk ht
  exact execIdeKm_of_session ho true
end

theorem execDoeDiscovery_of_up {s : State} (hu : s.linkUp = true) (index : Nat) {e : Nat × Nat}
    (he : e = doeProtocols.getD index (0xFFFF, 0xFF)) :
    execDoeDiscovery index s = .next (s.emit (.doe (leBytes 2 e.1 ++ leBytes 1 e.2 ++
      leBytes 1 (if index + 1 < doeProtocols.length then index + 1 else 0)))) := by
  subst he
  exact if_pos hu

theorem execTableAccess_of_up {s : State} (hu : s.linkUp = true) :
    execTableAccess s = .next (s.emit (.doe ([0, 0, 0xFF, 0xFF] ++ s.cdat))) := if_pos hu

/-- Settles O39: training by what the link supports, L0 by whether the link is up, keys by their session and their stream. -/
theorem hostLinkEvents : Obligations.HostLinkEvents := by
  unfold Obligations.HostLinkEvents
  intro s width speed stream session index lopt cfg key at_ trained up off₀ off fail dead keyed e
  refine ⟨fun hs => ⟨fun hw => ?full, fun hw h16 => ?half⟩, fun h => ?narrow, ?flits, fun hu => ?leaves,
    fun hu hw => ?returns, rfl, s.ideKeys_endIde, ?failure, fun ho go => ?noSession,
    fun ho => ⟨?keyed, fun hk => ?ioActive, fun hk => ?cmActive⟩, fun hu => ⟨?discovery, ?table⟩⟩
  case full => exact execHostLinkTrained_of_full lopt cfg s hw hs
  case half => exact execHostLinkTrained_of_half lopt cfg s hw h16 hs
  case narrow => exact execHostLinkTrained_of_unsupported lopt cfg s (h.imp_right .inl)
  case flits => exact execHostLinkTrained_of_unsupported lopt cfg s (.inr (.inr rfl))
  case leaves => exact execLinkLeavesL0_of_up hu
  case returns => exact execLinkReturnsL0_of_trained hu hw
  case failure => exact execIdeFailure_eq stream s rfl
  case noSession => exact execIdeKm_of_no_session ho go
  case keyed => exact execIdeKm_of_session ho false
  case ioActive => exact execIdeKm_of_stream ho hk (State.setStream_io _ 1)
  case cmActive => exact execIdeKm_of_stream ho hk (State.setStream_cm _ 1)
  case discovery => exact execDoeDiscovery_of_up hu index rfl
  case table => exact execTableAccess_of_up hu

end Sys2Proof.Machine
end

section
/-! SUPPORT. What every step keeps: each command and the tick of an empty queue keep what Holds says. -/

namespace Sys2Proof.Machine

/-- The step of an empty queue is a tick. -/
theorem step_nil {s : State} (h : s.pending = []) : step s = .next s.tick := by
  unfold step
  rw [h]

/-- Otherwise it is the command at the front, on the state with the queue's rest. -/
theorem step_cons {s : State} {c : Instr} {q : List Instr} (h : s.pending = c :: q) :
    step s = exec c (s.setPending q) := by
  unfold step
  rw [h]

/-- Every command, a new start included, answers a next state and keeps the queue, the outputs, the canonical form and the
ratchets. -/
theorem exec_holds (c : Instr) (s : State) : HoldsOut s (exec c s) := by
  by_cases hlost : c = .allPowerLost
  · subst hlost
    exact execAllPowerLost_holds s
  by_cases hstart : ∃ a b, c = .startUp a b
  · obtain ⟨a, b, rfl⟩ := hstart
    exact execStartUp_holds s a b
  exact (exec_keeps (fun a b h => hstart ⟨a, b, h⟩) hlost s).holds

theorem HoldsOut.of_next {s t : State} (h : HoldsOut s (.next t)) : Holds s t := by
  cases h with
  | next h => exact h

theorem HoldsOut.exists_next {s : State} {o : Host.Outcome State Fault Refusal} (h : HoldsOut s o) : ∃ t, o = .next t := by
  cases h with
  | next => exact ⟨_, rfl⟩

/-- What a step reaches: from an empty queue a state that holds what the state held, else one that holds what the state
with the queue's rest held. -/
theorem step_holds {s t : State} (h : step s = .next t) : Holds (s.setPending s.pending.tail) t := by
  cases hq : s.pending with
  | nil =>
    rw [step_nil hq] at h
    cases h
    have hs : s.setPending [] = s := by rw [← hq]; rfl
    exact hs.symm ▸ s.tick_holds.1
  | cons c q =>
    rw [step_cons hq] at h
    exact (h ▸ exec_holds c (s.setPending q)).of_next

/-- Settles O1, by the definition of a step. -/
theorem stepRunsTheFrontCommand : Obligations.StepRunsTheFrontCommand := by
  unfold Obligations.StepRunsTheFrontCommand
  intro c s q
  exact step_cons rfl

/-- Settles O2, by what a tick keeps. -/
theorem emptyQueueTicks : Obligations.EmptyQueueTicks := by
  unfold Obligations.EmptyQueueTicks
  intro s hq
  obtain ⟨hkeep, hnow⟩ := s.tick_holds
  exact ⟨s.tick, step_nil hq, hkeep.pend.trans hq, hnow⟩

/-- Settles O5: taking a command off the queue touches neither memory nor registers, and every command keeps both canonical. -/
theorem canonicalFormIsKept : Obligations.CanonicalFormIsKept := by
  unfold Obligations.CanonicalFormIsKept
  intro s t hwf h
  exact (step_holds h).wf hwf

/-- Settles O6: no command touches the queue's rest, and every one only appends outputs. -/
theorem stepTakesExactlyTheFrontCommand : Obligations.StepTakesExactlyTheFrontCommand := by
  unfold Obligations.StepTakesExactlyTheFrontCommand
  intro s t h
  exact ⟨(step_holds h).pend, (step_holds h).outs⟩

/-- Settles O7: every command's outcome is a next state. -/
theorem noCommandStops : Obligations.NoCommandStops := by
  unfold Obligations.NoCommandStops
  intro c s
  exact (exec_holds c s).exists_next

/-- Settles O8: every command and every tick keeps the fuses, NONCE and the boot count or raises them. -/
theorem fusesAndCountersNeverGoBack : Obligations.FusesAndCountersNeverGoBack := by
  unfold Obligations.FusesAndCountersNeverGoBack
  intro s t h
  exact (step_holds h).ratchets

end Sys2Proof.Machine
end

section
/-! SUPPORT. Brake and park causes (R511, R514 to R516, R520 to R522): how one arises and how one clears, by the module's
state and by the causes that are held beside it; heartbeats. -/

namespace Sys2Proof.Machine

/-! ### A cause arises -/

/-- A brake cause and its event are set, and nothing else happens yet (R514). -/
def State.causeSet (s : State) (cause : Nat) (event : Fld) : State :=
  (s.setf .powerPwrStatusBrakeCauses [] (s.fv .powerPwrStatusBrakeCauses [] ||| 2 ^ cause)).powerEvent event

theorem State.raiseBrake_of_run {s : State} (h : s.powerState = 0) (cause : Nat) (event : Fld) :
    s.raiseBrake cause event =
      ((s.causeSet cause event).brake.bump .powerBrakes [] 1).enterPower 1 (if cause = 4 then 6 else 5) := by
  unfold State.raiseBrake
  rw [if_neg (by omega), if_pos h]
  rfl

theorem State.raiseBrake_of_brakeOrPark {s : State} (h : s.powerState = 1 ∨ s.powerState = 2) (cause : Nat) (event : Fld) :
    s.raiseBrake cause event = s.causeSet cause event := by
  unfold State.raiseBrake
  rw [if_neg (by omega), if_neg (by omega)]
  rfl

/-- Settles O22: each of the four commands raises its cause, which brakes in RUN alone. -/
theorem brakeCausesArise : Obligations.BrakeCausesArise := by
  unfold Obligations.BrakeCausesArise
  intro s cause flow
  refine ⟨fun h => ⟨?_, ?_, ?_, ?_⟩, fun h => ⟨?_, ?_, ?_, ?_⟩⟩
  · exact congrArg _ (State.raiseBrake_of_run h 0 _)
  · exact congrArg _ (State.raiseBrake_of_run h 1 _)
  · exact congrArg _ (State.raiseBrake_of_run (s := flow) h 3 _)
  · exact congrArg _ (State.raiseBrake_of_run h 4 _)
  · exact congrArg _ (State.raiseBrake_of_brakeOrPark h 0 _)
  · exact congrArg _ (State.raiseBrake_of_brakeOrPark h 1 _)
  · exact congrArg _ (State.raiseBrake_of_brakeOrPark (s := flow) h 3 _)
  · exact congrArg _ (State.raiseBrake_of_brakeOrPark h 4 _)

/-! ### A cause clears -/

/-- What is left of a mask without one of its bits is zero where that bit is the whole mask. -/
theorem sub_two_pow_eq_zero_iff {c i : Nat} (h : c.testBit i = true) : c - 2 ^ i = 0 ↔ c = 2 ^ i := by
  have := Nat.ge_two_pow_of_testBit h
  omega

section
variable {s : State} {i : Nat}

/-- The brake cause is cleared in BRAKE_CAUSES (R514). -/
def State.causeCleared (s : State) (i : Nat) : State :=
  s.setf .powerPwrStatusBrakeCauses [] (s.fv .powerPwrStatusBrakeCauses [] - 2 ^ i)

/-- The module leaves BRAKE for RUN: the pacer leaves zero rate, and L climbs where it lies below its target (R514). -/
def State.leaveBrake (t : State) : State :=
  (t.endZeroRate.setf .powerPwrStatusClimbing [] (bit01 (decide (t.power.limit < t.limitTarget)))).enterPower 0 0

theorem State.clearBrake_of_not_held (h : (s.fv .powerPwrStatusBrakeCauses []).testBit i = false) : s.clearBrake i = s :=
  if_neg (Bool.eq_false_iff.1 h)

theorem State.clearBrake_of_last (h : (s.fv .powerPwrStatusBrakeCauses []).testBit i = true) (hb : s.powerState = 1)
    (hc : s.fv .powerPwrStatusBrakeCauses [] = 2 ^ i) : s.clearBrake i = (s.causeCleared i).leaveBrake :=
  (if_pos h).trans (if_pos ⟨hb, (sub_two_pow_eq_zero_iff h).2 hc⟩)

theorem State.clearBrake_of_others (h : (s.fv .powerPwrStatusBrakeCauses []).testBit i = true)
    (ho : s.powerState ≠ 1 ∨ s.fv .powerPwrStatusBrakeCauses [] ≠ 2 ^ i) : s.clearBrake i = s.causeCleared i :=
  (if_pos h).trans (if_neg (by rw [sub_two_pow_eq_zero_iff h, not_and_or]; exact ho))

/-- The park cause is cleared in PARK_CAUSES (R514). -/
def State.parkCauseCleared (s : State) (i : Nat) : State :=
  s.setf .powerPwrStatusParkCauses [] (s.fv .powerPwrStatusParkCauses [] - 2 ^ i)

theorem State.clearPark_of_not_held (h : (s.fv .powerPwrStatusParkCauses []).testBit i = false) : s.clearPark i = s :=
  if_neg (Bool.eq_false_iff.1 h)

theorem State.clearPark_of_others (h : (s.fv .powerPwrStatusParkCauses []).testBit i = true)
    (ho : s.powerState ≠ 2 ∨ s.fv .powerPwrStatusParkCauses [] ≠ 2 ^ i) : s.clearPark i = s.parkCauseCleared i :=
  (if_pos h).trans (if_neg (by rw [sub_two_pow_eq_zero_iff h, not_and_or]; exact ho))

theorem State.clearPark_of_last (h : (s.fv .powerPwrStatusParkCauses []).testBit i = true) (hp : s.powerState = 2)
    (hc : s.fv .powerPwrStatusParkCauses [] = 2 ^ i) {u : State} (hu : u = s.parkCauseCleared i) :
    s.clearPark i =
      if u.fv .powerPwrStatusBrakeCauses [] = 0 then u.unpark.enterPower 0 0
      else (u.unpark.brake.bump .powerBrakes [] 1).enterPower 1 (if u.fv .powerPwrStatusBrakeCauses [] = 16 then 6 else 5) := by
  subst hu
  exact (if_pos h).trans (if_pos ⟨hp, (sub_two_pow_eq_zero_iff h).2 hc⟩)
end

/-- Every release but that of FLOW_OK_N clears its brake cause alone. -/
theorem exec_release {e : Nat × Instr} (he : e ∈ [(0, Instr.pwrBrakeNRelease), (1, .undervoltClear), (2, .capdropClear),
    (3, .flowOkNRestored), (4, .hotClear)]) (h3 : e.1 ≠ 3) (s : State) : exec e.2 s = .next (s.clearBrake e.1) := by
  simp only [List.mem_cons, List.not_mem_nil, or_false] at he
  obtain rfl | rfl | rfl | rfl | rfl := he
  · rfl
  · rfl
  · rfl
  · exact absurd rfl h3
  · rfl

/-- The release of FLOW_OK_N clears FLOW as brake cause, then as park cause. -/
theorem exec_flowRestored {e : Nat × Instr} (he : e ∈ [(0, Instr.pwrBrakeNRelease), (1, .undervoltClear), (2, .capdropClear),
    (3, .flowOkNRestored), (4, .hotClear)]) (h3 : e.1 = 3) (s : State) :
    exec e.2 s = .next ((s.clearBrake 3).clearPark 1) := by
  simp only [List.mem_cons, List.not_mem_nil, or_false] at he
  obtain rfl | rfl | rfl | rfl | rfl := he
  · exact absurd h3 (by decide)
  · exact absurd h3 (by decide)
  · exact absurd h3 (by decide)
  · rfl
  · exact absurd h3 (by decide)

/-- Settles O24: a release by whether its cause is held, and is the last one; after FLOW's the park cause in the same way. -/
theorem brakeCausesClear : Obligations.BrakeCausesClear := by
  unfold Obligations.BrakeCausesClear
  rintro s ⟨i, cmd⟩ he _ rfl _ rfl _ rfl
  refine ⟨fun h3 => ⟨fun hheld hb hc => ?_, fun hheld ho => ?_, fun hnot => ?_⟩, fun h3 t ht => ?_, fun hz => ?_⟩
  · exact (exec_release he h3 s).trans (congrArg _ (State.clearBrake_of_last hheld hb hc))
  · exact (exec_release he h3 s).trans (congrArg _ (State.clearBrake_of_others hheld ho))
  · exact (exec_release he h3 s).trans (congrArg _ (State.clearBrake_of_not_held hnot))
  · have hcleared : s.clearBrake 3 = t := by
      obtain rfl : i = 3 := h3
      obtain ⟨hheld, hb, hc, rfl⟩ | ⟨hheld, ho, rfl⟩ | ⟨hnot, rfl⟩ := ht
      · exact State.clearBrake_of_last hheld hb hc
      · exact State.clearBrake_of_others hheld ho
      · exact State.clearBrake_of_not_held hnot
    rintro _ rfl u hu
    have hexec := exec_flowRestored he h3 s
    rw [hcleared] at hexec
    refine ⟨fun hnot => ?_, fun hheld ho => ?_, ?_⟩
    · exact hexec.trans (congrArg _ (State.clearPark_of_not_held hnot))
    · exact hexec.trans (congrArg _ ((State.clearPark_of_others hheld ho).trans hu.symm))
    · rintro hheld hp hc _ rfl
      have hlast := hexec.trans (congrArg _ (State.clearPark_of_last hheld hp hc hu))
      exact ⟨fun hzero => hlast.trans (congrArg _ (if_pos hzero)), fun hheldBrake => hlast.trans (congrArg _ (if_neg hheldBrake))⟩
  · exact if_neg (Bool.eq_false_iff.1 hz)

/-! ### Heartbeats and samples under FLOW -/

section
variable {s : State}

/-- The time of a heartbeat is kept (R520). -/
def State.heard (s : State) : State := s.setPower { s.power with hbAt := s.now.toNat }

/-- The answer to a heartbeat: PWR_STATUS and SUPPLY (R520). -/
def State.answerHeartbeat (t : State) (ep : Nat) : State :=
  t.vendorRsp ep 0x01 0 (leBytes 8 (t.rv .powerPwrStatus []).toNat ++ leBytes 8 (t.rv .powerSupply []).toNat)

/-- A lost heartbeat has come back: HB_LOST clears with a record, and CAP is judged again (R513, R520). -/
def State.heartbeatFound (s : State) : State :=
  let t := s.setf .powerPwrStatusHbLost [] 0
  (t.powerRecord t.powerState t.powerState 0).checkParkCap

theorem execHeartbeat_of_up (h : s.mgmtUp = true) (ep seq : Nat) :
    execHeartbeat ep seq s =
      .next ((if s.fv .powerPwrStatusHbLost [] = 1 then s.heard.heartbeatFound else s.heard).answerHeartbeat ep) :=
  if_neg (by simp [h])

theorem execHeartbeatLost_of_running (hl : s.fv .powerPwrStatusHbLost [] = 0) (hp : s.powerState < 3) {t : State}
    (ht : t = (s.setf .powerPwrStatusHbLost [] 1).powerEvent .powerEventsHbLost) :
    execHeartbeatLost s = .next (t.powerRecord t.powerState t.powerState 5).checkParkCap := by
  subst ht
  exact if_neg (by omega)
end

/-- Settles O26: a heartbeat by whether one was lost, a sample by whether FLOW brakes and a junction has risen. -/
theorem heartbeatAndFlowSamples : Obligations.HeartbeatAndFlowSamples := by
  unfold Obligations.HeartbeatAndFlowSamples
  intro s ep seq temps kept answer found lost rise flow
  refine ⟨fun hup => ⟨fun hl => ?_, fun hl => ?_⟩, fun hl hp => ?_, fun h => ?_, fun h => ?_⟩
  · exact (execHeartbeat_of_up hup ep seq).trans (by rw [if_neg (by omega)]; rfl)
  · exact (execHeartbeat_of_up hup ep seq).trans (by rw [if_pos hl]; rfl)
  · exact execHeartbeatLost_of_running hl hp rfl
  · exact if_pos h
  · exact if_neg (not_and_or.2 (h.imp Bool.eq_false_iff.1 Bool.eq_false_iff.1))

end Sys2Proof.Machine
end

section
/-! SUPPORT. The end of a run and the start of the next (R517, R518, R530, R556, R571 to R576): stop, trip and reset by the
module's state, the loss of power by what the writer holds, a start-up by what the two banks pass. -/

namespace Sys2Proof.Machine

/-! ### Stop, trip and reset -/

section
variable {s : State}

theorem execControlledStop_of_off (h : s.rv .powerDomainOn [] = 0) (trigger : Nat) : execControlledStop trigger s = .next s :=
  if_pos (.inr h)

/-- A partition's end and the domains' end, under the state that the module enters (R517, R518). -/
def State.endRun (s : State) (st upTo : Nat) : State :=
  (s.setf .powerPwrStatusState [] st).loseParts.switchOffAll (List.range upTo)

theorem execControlledStop_of_running (hp : s.powerState < 3) (hon : s.rv .powerDomainOn [] ≠ 0) {trigger : Nat} {t off : State}
    (ht : t = ((s.endRun 3 41).bbWrite none 0x11 5 (payloadOf [(0, 2, s.power.vMin), (2, 1, trigger % 2)])).drainBBox)
    (hoff : off = (t.setBBox t.bbox.save).switchOffAll [41]) :
    execControlledStop trigger s = .next ((off.setMgmt { off.mgmt with cause := 2 }).platformEvent 1 3) := by
  subst ht hoff
  exact if_neg (not_or.2 ⟨by omega, hon⟩)

/-- The junction that tripped, among the measured ones (R518). -/
def State.tripSeen (t : State) (source junction : Nat) : State :=
  t.setPower { t.power with
    temps := (t.power.temps ++ List.replicate 9 0).take 9 |>.set source junction, tripCleared := false }

theorem execHardwareTrip_of_outside (hp : s.powerState ≠ 4) {source junction : Nat} {t : State}
    (ht : t = (((s.endRun 4 42).bbWrite none 0x12 6 (payloadOf [(0, 1, source), (1, 1, junction)])).drainBBox).tripSeen
      source junction) :
    execHardwareTrip source junction s = .next ((t.setMgmt { t.mgmt with cause := 3 }).platformEvent 1 4) := by
  subst ht
  exact if_neg hp

theorem execModResetNAssert_of_outside (hp : s.powerState ≠ 4) {cut : State}
    (hc : cut = s.loseParts.switchOffAll (List.range 42)) :
    execModResetNAssert s = .next ((cut.setPower { cut.power with inReset := true, tripCleared := false }).setMgmt
      { cut.mgmt with cause := 1 }) := by
  subst hc
  refine congrArg _ ((if_neg hp).trans ?_)
  rw [beq_false_of_ne hp, Bool.false_and]
  rfl

theorem execModResetNAssert_of_trip (hp : s.powerState = 4) {cut : State}
    (hc : cut = s.loseParts.switchOffAll (List.range 42)) :
    execModResetNAssert s = .next (cut.setPower { cut.power with
      inReset := true, tripCleared := cut.power.temps.all (fun c => decide (c < 90)) }) := by
  subst hc
  refine congrArg _ ((if_pos hp).trans ?_)
  rw [beq_iff_eq.2 hp, Bool.true_and]
end

/-- Settles O27: each ending by the state of the module that it meets. -/
theorem stopTripAndResetEndTheRun : Obligations.StopTripAndResetEndTheRun := by
  unfold Obligations.StopTripAndResetEndTheRun
  intro s trigger source junction drop cut cool stopped off tripped seen
  refine ⟨fun hp hon => ?stop, fun hoff => ?stopOff, fun hp => ?trip, fun hp => ?reset, fun hp => ?resetInTrip⟩
  case stop => exact execControlledStop_of_running hp hon rfl rfl
  case stopOff => exact execControlledStop_of_off hoff trigger
  case trip => exact execHardwareTrip_of_outside hp rfl
  case reset => exact execModResetNAssert_of_outside hp rfl
  case resetInTrip => exact execModResetNAssert_of_trip hp rfl

/-! ### Loss of all power -/

/-- What storage keeps of a state whose power has ended, with a black box x (R556). -/
def State.powerLost (s : State) (x : BBox) : State :=
  { State.reset with
    pending := s.pending, out := s.out, free := s.free, bbox := x.powerOff, flash := s.flash.powerOff,
    sealUnit := { s.sealUnit with swapKeys := [], trngFail := false }, mgmt := { s.mgmt.keep with cause := 0 } }

theorem execAllPowerLost_of_idle {s : State} (h : s.bbReady = false ∨ s.bbox.queue = []) :
    execAllPowerLost s = .next (s.powerLost s.bbox) := by
  unfold execAllPowerLost
  obtain h | h := h
  · rw [h]; rfl
  · rw [h]; cases s.bbReady <;> rfl

theorem execAllPowerLost_of_writing {s : State} {e : Line × Bool} {q : List (Line × Bool)} (hr : s.bbReady = true)
    (hq : s.bbox.queue = e :: q) : execAllPowerLost s = .next (s.powerLost (s.bbox.write e.1 e.2)) := by
  unfold execAllPowerLost
  rw [hr, hq]
  rfl

/-! ### Start-up -/

/-- The state in which a start-up checks the firmware: identity shown, black box mounted, cause of the reset shown (R573). -/
def State.started (s : State) : State :=
  ((s.restart.setf .hubIdEnterprise [] Config.enterprise.toNat).setf .hubIdStepping [] 0xB1).mountBBox.setf
    .hubBootResetCause [] s.mgmt.cause

/-- With no update cut short the firmware store stands (R578, R580). -/
theorem State.started_mgmt {s : State} (h : s.mgmt.update = none) :
    s.started.mgmt = { s.mgmt.keep with update := none, verified := false } := by
  change s.restart.mgmt = _
  simp only [State.restart, h, Option.isSome_none, Bool.false_eq_true, if_false]

/-- The end of a start-up with the firmware chosen, in recovery where none passed (R573). -/
def State.boot (t : State) (runB dead : Bool) : State :=
  let u := t.setMgmt { t.mgmt with runB := runB, pendingBank := false }
  ((((u.setf .hubBootBank [] (bit01 runB)).setf .hubBootFallback [] 0).showFw dead).bootRecord dead).setStage
    (if dead then 5 else 2)

/-- A start-up on bank A, with no update and no activated bank waiting: by what the two banks pass (R530, R573). -/
theorem execStartUp_of_bankA {s : State} (hs : s.canStart = true) (hu : s.mgmt.update = none) (hr : s.mgmt.runB = false)
    (hp : s.mgmt.pendingBank = false) (a b : BankCheck) :
    execStartUp a b s = .next (
      if s.started.bankOk s.mgmt.bankA a then s.started.boot false false
      else if s.started.bankOk s.mgmt.bankB b then (s.started.fwFailed s.mgmt.bankA a).boot true false
      else ((s.started.fwFailed s.mgmt.bankA a).fwFailed s.mgmt.bankB b).boot false true) := by
  unfold execStartUp
  rw [if_neg (by simp [hs])]
  extract_lets +onlyGivenNames t₀ t₁ t₂ m pick first f g ok1 ok2 t₃ t₄ run
  have hm : m = { s.mgmt.keep with update := none, verified := false } := State.started_mgmt hu
  have hmp : m.pendingBank = false := by rw [hm]; exact hp
  have hfirst : first = false := by simp [first, hm, Mgmt.keep, hp, hr]
  have hf : f = (s.mgmt.bankA, a) := by simp [f, pick, hfirst, hm, Mgmt.keep]
  have hg : g = (s.mgmt.bankB, b) := by simp [g, pick, hfirst, hm, Mgmt.keep]
  have h1 : s.started.bankOk s.mgmt.bankA a = ok1 := by simp only [ok1, hf]; rfl
  have h2 : s.started.bankOk s.mgmt.bankB b = ok2 := by simp only [ok2, hg]; rfl
  have hrun : run = (!ok1 && ok2) := by
    have hmr : m.runB = false := by rw [hm]; exact hr
    cases h : ok1 <;> cases h' : ok2 <;> simp [run, h, h', hfirst, hmr]
  have h₄ : t₄ = if ok1 then s.started else if ok2 then s.started.fwFailed s.mgmt.bankA a
      else (s.started.fwFailed s.mgmt.bankA a).fwFailed s.mgmt.bankB b := by
    have ht : t₂ = s.started := rfl
    simp only [t₄, t₃, hf, hg, ht]
    clear_value ok1 ok2
    cases ok1 <;> cases ok2 <;> simp
  rw [h1, h2]
  clear_value t₄ run m ok1 ok2
  subst h₄ hrun
  rw [hmp]
  cases ok1 <;> cases ok2 <;> simp only [State.boot, Bool.not_false, Bool.not_true, Bool.and_self, Bool.and_false,
    Bool.and_true, Bool.false_eq_true, if_false, if_true] <;> rfl

/-- Settles O29: the writer's queue decides what the loss of power leaves, the two banks how a start-up ends. -/
theorem lossOfPowerAndStartUp : Obligations.LossOfPowerAndStartUp := by
  unfold Obligations.LossOfPowerAndStartUp
  intro s a b kept ids up good bad₀ bad
  refine ⟨fun h => execAllPowerLost_of_idle h, fun e q hr hq => execAllPowerLost_of_writing hr hq,
    fun hs hu hr hp => ?_⟩
  have hstart := execStartUp_of_bankA hs hu hr hp a b
  refine ⟨fun ha => ?_, fun ha hb => ?_⟩
  · rw [show s.started.bankOk s.mgmt.bankA a = true from ha] at hstart
    exact hstart
  · rw [show s.started.bankOk s.mgmt.bankA a = false from ha, show s.started.bankOk s.mgmt.bankB b = false from hb] at hstart
    exact hstart

end Sys2Proof.Machine
end

section
/-! SUPPORT. Management (R529, R530, R567, R568, R578, R579): what each message does where it is served, and that elsewhere it
does nothing. -/

namespace Sys2Proof.Machine

/-! ### MCTP control and PLDM monitoring -/

section
variable {s : State} {ep : Nat}

theorem execSetEndpointId_i3c (h : s.controlUp 0 = true) (eid : Nat) :
    execSetEndpointId 0 eid s =
      .next ((s.setMgmt { s.mgmt with eidI3c := some eid }).controlRsp 0 1 ([0] ++ leBytes 1 eid)) :=
  if_pos ⟨h, by decide⟩

theorem execSetEndpointId_cxl (h : s.controlUp 1 = true) (eid : Nat) :
    execSetEndpointId 1 eid s =
      .next ((s.setMgmt { s.mgmt with eidCxl := some eid }).controlRsp 1 1 ([0] ++ leBytes 1 eid)) :=
  if_pos ⟨h, by decide⟩

theorem execGetEndpointId_of_served (h : s.controlUp ep = true) (hep : ep < 2) :
    execGetEndpointId ep s = .next (s.controlRsp ep 2 (leBytes 1 ((s.mgmt.eid ep).getD 0))) := if_pos ⟨h, hep⟩

theorem execGetMctpVersionSupport_of_served (h : s.controlUp ep = true) (hep : ep < 2) :
    execGetMctpVersionSupport ep s = .next (s.controlRsp ep 4 (leBytes 4 (Config.freeNat s.free))).fresh := if_pos ⟨h, hep⟩

theorem execGetMessageTypeSupport_of_served (h : s.controlUp ep = true) (hep : ep < 2) :
    execGetMessageTypeSupport ep s =
      .next (s.controlRsp ep 5 (if s.stage = 5 then [3, 0x00, 0x01, 0x7F] else [4, 0x00, 0x01, 0x05, 0x7F])) :=
  if_pos ⟨h, hep⟩

theorem execGetVendorDefinedMessageSupport_of_served (h : s.controlUp ep = true) (hep : ep < 2) :
    execGetVendorDefinedMessageSupport ep s = .next (s.controlRsp ep 6 ([1] ++ leBytes 4 Config.enterprise.toNat)) :=
  if_pos ⟨h, hep⟩

/-- No MCTP control message has an effect on an endpoint that is not served (log 159). -/
theorem exec_control_of_unserved (h : s.controlUp ep = false) (eid : Nat) :
    ∀ c ∈ [Instr.setEndpointId ep eid, .getEndpointId ep, .getMctpVersionSupport ep, .getMessageTypeSupport ep,
      .getVendorDefinedMessageSupport ep], exec c s = .next s := by
  have hno : ¬ (s.controlUp ep = true ∧ ep < 2) := fun hc => by simp [h] at hc
  simp only [List.forall_mem_cons]
  exact ⟨if_neg hno, if_neg hno, if_neg hno, if_neg hno, if_neg hno, by simp⟩
end

/-- Settles O32: each message by whether its endpoint is served, and which one it is. -/
theorem managementControlMessages : Obligations.ManagementControlMessages := by
  unfold Obligations.ManagementControlMessages
  intro s ep eid addr n m
  refine ⟨fun h => ⟨?setI3c, ?getI3c⟩, fun h => ⟨?setCxl, ?getCxl⟩,
    fun hep h => ⟨?version, fun hst => ?types, fun hst => ?typesInRecovery, ?vendor⟩, fun h => ?unserved, rfl,
    fun h => ⟨?sensor, ?receiver⟩⟩
  case setI3c => exact execSetEndpointId_i3c h eid
  case getI3c => exact execGetEndpointId_of_served h (by decide)
  case setCxl => exact execSetEndpointId_cxl h eid
  case getCxl => exact execGetEndpointId_of_served h (by decide)
  case version => exact execGetMctpVersionSupport_of_served h hep
  case types => exact (execGetMessageTypeSupport_of_served h hep).trans (by rw [if_neg hst])
  case typesInRecovery => exact (execGetMessageTypeSupport_of_served h hep).trans (by rw [if_pos hst])
  case vendor => exact execGetVendorDefinedMessageSupport_of_served h hep
  case unserved => exact exec_control_of_unserved h eid
  case sensor => exact if_pos h
  case receiver => exact if_pos h

/-! ### Attestation -/

section
variable {s : State} {ep : Nat}

theorem execGetCertificate_of_on (h : s.spdmOn ep = true) (off len : Nat) :
    execGetCertificate ep off len s = .next (s.spdmRsp ep 0x82 ((s.certChain.drop off).take len)) := if_pos h

theorem execChallenge_of_on (h : s.spdmOn ep = true) (nonce : List Byte) :
    execChallenge ep nonce s = .next (s.spdmRsp ep 0x83 nonce) := if_pos h

/-- What a request of measurements asks for, by its index (R529). -/
def State.measured (s : State) (index : Nat) : List Byte :=
  if index = 0xFF then s.measurements.flatten
  else if index = 0 then [BitVec.ofNat 8 s.measurements.length] else s.measurements.getD (index - 1) []

theorem State.measured_one (s : State) {index : Nat} (h1 : 1 ≤ index) (h7 : index ≤ 7) :
    s.measured index = s.measurements.getD (index - 1) [] := by
  rw [State.measured, if_neg (by omega), if_neg (by omega)]

theorem execGetMeasurements_of_on (h : s.spdmOn ep = true) (index : Nat) (nonce : List Byte) :
    execGetMeasurements ep index nonce s = .next (s.spdmRsp ep 0xE0 (s.measured index ++ nonce)) := if_pos h

theorem execSpdmHeartbeat_of_open (h : s.spdmOn ep = true) {session : Nat}
    (ho : s.mgmt.sessions.any (fun e => e.1 = session) = true) :
    execSpdmHeartbeat ep session s = .next (s.spdmRsp ep 0xE8 (leBytes 2 session)) := if_pos ⟨h, ho⟩

theorem execKeyUpdate_of_open (h : s.spdmOn ep = true) {session : Nat}
    (ho : s.mgmt.sessions.any (fun e => e.1 = session) = true) {t : State}
    (ht : t = s.setMgmt { s.mgmt with sessions := s.mgmt.sessions.map (fun e =>
      if e.1 = session then (e.1, e.2.1 + 1, e.2.2) else e) }) :
    execKeyUpdate ep session s = .next (t.spdmRsp ep 0xE9 (leBytes 2 session)) := by
  subst ht
  exact if_pos ⟨h, ho⟩

/-- No SPDM message has an effect on an endpoint on which SPDM is not answered (log 159). -/
theorem exec_spdm_of_off (h : s.spdmOn ep = false) (off len index session : Nat) (nonce : List Byte) :
    ∀ c ∈ [Instr.getCertificate ep off len, .challenge ep nonce, .getMeasurements ep index nonce, .spdmHeartbeat ep session,
      .keyUpdate ep session], exec c s = .next s := by
  have hno : ¬ s.spdmOn ep = true := Bool.eq_false_iff.1 h
  simp only [List.forall_mem_cons]
  exact ⟨if_neg hno, if_neg hno, if_neg hno, if_neg (fun hc => hno hc.1), if_neg (fun hc => hno hc.1), by simp⟩
end

section
variable {s : State} {r : SessionReq}

theorem execKeyExchange_of_free (h : s.spdmOn r.endpoint = true) {i : Nat}
    (hi : firstBelow 4 (fun i => s.mgmt.sessions.all (fun e => e.1 ≠ i)) = some i) {t : State}
    (ht : t = s.setMgmt { s.mgmt with sessions := s.mgmt.sessions ++ [(i, 0, r.endpoint)] }) :
    execKeyExchange r s =
      .next (t.spdmRsp r.endpoint 0xE4 (leBytes 2 i ++ leBytes 64 (Config.trng s.free) ++ r.exchange)).fresh := by
  subst ht
  unfold execKeyExchange
  rw [if_pos h, hi]
  rfl

theorem execKeyExchange_of_full (h : s.spdmOn r.endpoint = true)
    (hi : firstBelow 4 (fun i => s.mgmt.sessions.all (fun e => e.1 ≠ i)) = none) :
    execKeyExchange r s = .next (s.spdmRsp r.endpoint 0x7F []) := by
  unfold execKeyExchange
  rw [if_pos h, hi]
end

/-- Settles O33: each request by whether SPDM is answered on its endpoint; measurements by their index, an exchange by whether
a session number is free. -/
theorem attestationMessages : Obligations.AttestationMessages := by
  unfold Obligations.AttestationMessages
  intro s ep off len index session nonce r
  refine ⟨fun h => ⟨?certificate, ?challenge, ?all, ?count, fun h1 h7 => ?one, fun ho => ⟨?heartbeat, fun t ht => ?update⟩⟩,
    fun h => ?off, fun h => ⟨fun i hi t ht => ?free, fun hi => ?full⟩⟩
  case certificate => exact execGetCertificate_of_on h off len
  case challenge => exact execChallenge_of_on h nonce
  case all => exact execGetMeasurements_of_on h 0xFF nonce
  case count => exact execGetMeasurements_of_on h 0 nonce
  case one => exact (execGetMeasurements_of_on h index nonce).trans (by rw [s.measured_one h1 h7]; rfl)
  case heartbeat => exact execSpdmHeartbeat_of_open h ho
  case update => exact execKeyUpdate_of_open h ho ht
  case off => exact exec_spdm_of_off h off len index session nonce
  case free => exact execKeyExchange_of_free h hi ht
  case full => exact execKeyExchange_of_full h hi

/-! ### Firmware update -/

/-- A record of no partition, kept or lost, leaves the management state. -/
@[simp] theorem State.bbWrite_none_mgmt (s : State) (typ cls payload : Nat) :
    (s.bbWrite none typ cls payload).mgmt = s.mgmt := by
  change (s.bbPut none typ cls payload).mgmt = s.mgmt
  unfold State.bbPut
  split <;> rfl

section
variable {s : State} {ep : Nat}

theorem execRequestUpdate_of_unserved (h : s.controlUp ep = false) : execRequestUpdate ep s = .next s := if_pos h

theorem execRequestUpdate_of_served (h : s.controlUp ep = true) :
    execRequestUpdate ep s =
      if s.mgmt.update.isSome then .next (s.pldmRsp ep 0x10 0x81 [])
      else .next ((s.setMgmt { s.mgmt with update := some [], agent := ep, verified := false }).pldmRsp ep 0x10 0 []).requestData :=
  if_neg (by simp [h])

theorem execGetFirmwareParameters_of_unserved (h : s.controlUp ep = false) : execGetFirmwareParameters ep s = .next s :=
  if_neg (by simp [h])

/-- The answer to GetFirmwareParameters with the active release and the pending one (R578). -/
def firmwareParameters (a b : List Byte) : List Byte :=
  leBytes 4 0 ++ leBytes 2 2 ++ leBytes 1 1 ++ leBytes 1 a.length ++ leBytes 1 1 ++ leBytes 1 b.length ++ a ++ b ++
    componentEntry 1 a b ++ componentEntry 2 a b

theorem execGetFirmwareParameters_of_served (h : s.controlUp ep = true) :
    execGetFirmwareParameters ep s = .next (s.pldmRsp ep 0x02 0 (firmwareParameters (releaseText s.bank.release)
      (if s.mgmt.pendingBank then releaseText (if s.mgmt.runB then s.mgmt.bankA else s.mgmt.bankB).release else []))) :=
  if_pos h
end

section
variable {s : State} {data u : List Byte}

theorem execFirmwareData_of_none (h : s.mgmt.update = none) : execFirmwareData data s = .next s := by
  rw [execFirmwareData, h]

theorem execFirmwareData_of_open (h : s.mgmt.update = some u) :
    execFirmwareData data s =
      .next (if 4096 ≤ data.length then (s.setMgmt { s.mgmt with update := some (u ++ data.take 4096) }).requestData
        else s.setMgmt { s.mgmt with update := some (u ++ data.take 4096) }) := by
  rw [execFirmwareData, h]

/-- A full transfer has been appended, and the next one is asked for behind it (R579). -/
theorem State.requestData_of_full (s : State) (u : List Byte) (h : 4096 ≤ data.length) :
    (s.setMgmt { s.mgmt with update := some (u ++ data.take 4096) }).requestData =
      (s.setMgmt { s.mgmt with update := some (u ++ data.take 4096) }).emit
        (.mctp s.mgmt.agent 1 (leBytes 1 0x15 ++ leBytes 4 (u.length + 4096) ++ leBytes 4 4096)) := by
  have hl : (u ++ data.take 4096).length = u.length + 4096 := by simp [h]
  rw [← hl]
  rfl

variable {ep svn1 svn2 : Nat} {rel : Nat × Nat × Nat} {c : BankCheck}

theorem execVerifyComplete_of_none (h : s.mgmt.update = none) : execVerifyComplete ep rel svn1 svn2 c s = .next s := by
  rw [execVerifyComplete, h]

/-- The boot firmware, then the runtime firmware of an update, as R530 judges them; the second with the size of the store. -/
def State.bootPasses (s : State) (c : BankCheck) (svn1 : Nat) : Bool :=
  s.signedOk c.boot && decide (s.sealUnit.fused ≤ svn1)
def State.runPasses (s : State) (c : BankCheck) (svn2 : Nat) (u : List Byte) : Bool :=
  s.signedOk c.run && decide (s.sealUnit.fused ≤ svn2) && decide (u.length ≤ 24 * 2 ^ 20)

/-- A failed verification: the record of the component that fails first, and the update closed (R530, R579). -/
def State.updateFailed (s : State) (ep component : Nat) (sig : Bool) (svn : Nat) : State :=
  ((s.bbWrite none 0x02 8 (payloadOf [(0, 1, component), (1, 1, bit01 sig), (2, 1, svn)])).setMgmt
    { s.mgmt with update := none, verified := false }).pldmRsp ep 0x17 1 []

/-- The bank that an update fills (R578). -/
def updateBank (u : List Byte) (rel : Nat × Nat × Nat) (svn1 svn2 : Nat) : FwBank :=
  ⟨true, rel, svn1, svn2, sha384 (u.take (4 * 2 ^ 20)), sha384 (u.drop (4 * 2 ^ 20))⟩

theorem execVerifyComplete_of_open (h : s.mgmt.update = some u) :
    execVerifyComplete ep rel svn1 svn2 c s = .next (
      if s.bootPasses c svn1 then
        if s.runPasses c svn2 u then
          (s.setMgmt (if s.mgmt.runB then { s.mgmt with verified := true, bankA := updateBank u rel svn1 svn2 }
            else { s.mgmt with verified := true, bankB := updateBank u rel svn1 svn2 })).pldmRsp ep 0x17 0 []
        else s.updateFailed ep 2 (s.signedOk c.run) svn2
      else s.updateFailed ep 1 (s.signedOk c.boot) svn1) := by
  unfold execVerifyComplete
  rw [h]
  have hone : (s.signedOk c.boot && decide (s.sealUnit.fused ≤ svn1)) = s.bootPasses c svn1 := rfl
  have htwo : (s.signedOk c.run && decide (s.sealUnit.fused ≤ svn2) && decide (u.length ≤ bootBytes + runBytes)) =
      s.runPasses c svn2 u := rfl
  simp only [hone, htwo]
  unfold State.updateFailed
  cases s.bootPasses c svn1
  · simp
  · cases s.runPasses c svn2 u
    · simp
    · rfl

section
variable (h : s.mgmt.update = some u)
include h

theorem execVerifyComplete_of_passed (h1 : s.bootPasses c svn1 = true) (h2 : s.runPasses c svn2 u = true) :
    execVerifyComplete ep rel svn1 svn2 c s =
      .next ((s.setMgmt (if s.mgmt.runB then { s.mgmt with verified := true, bankA := updateBank u rel svn1 svn2 }
        else { s.mgmt with verified := true, bankB := updateBank u rel svn1 svn2 })).pldmRsp ep 0x17 0 []) := by
  rw [execVerifyComplete_of_open h, if_pos h1, if_pos h2]

theorem execVerifyComplete_of_boot_fails (h1 : s.bootPasses c svn1 = false) :
    execVerifyComplete ep rel svn1 svn2 c s = .next (s.updateFailed ep 1 (s.signedOk c.boot) svn1) := by
  rw [execVerifyComplete_of_open h, if_neg (by simp [h1])]

theorem execVerifyComplete_of_run_fails (h1 : s.bootPasses c svn1 = true) (h2 : s.runPasses c svn2 u = false) :
    execVerifyComplete ep rel svn1 svn2 c s = .next (s.updateFailed ep 2 (s.signedOk c.run) svn2) := by
  rw [execVerifyComplete_of_open h, if_pos h1, if_neg (by simp [h2])]
end
end

/-- Settles O34: a request by whether an update is open, data by their length, a verification by the component that fails. -/
theorem firmwareUpdateMessages : Obligations.FirmwareUpdateMessages := by
  unfold Obligations.FirmwareUpdateMessages
  intro s ep svn1 svn2 data u rel c good one two ask params
  refine ⟨fun h => ⟨fun hn => ?opened, fun ho => ?refused, fun hp => ?pending, fun hp => ?active⟩,
    fun h => ⟨execRequestUpdate_of_unserved h, execGetFirmwareParameters_of_unserved h⟩,
    fun hn => ⟨execFirmwareData_of_none hn, execVerifyComplete_of_none hn⟩,
    fun ho => ⟨fun hl => ?part, fun hl => ?full, fun h1 h2 hr => ?fillsB, fun h1 h2 hr => ?fillsA, fun h1 => ?failsBoot,
      fun h1 h2 => ?failsRun⟩⟩
  case opened => exact (execRequestUpdate_of_served h).trans (by rw [hn]; rfl)
  case refused => exact (execRequestUpdate_of_served h).trans (by rw [ho]; rfl)
  case pending => exact (execGetFirmwareParameters_of_served h).trans (by rw [if_pos hp]; rfl)
  case active => exact (execGetFirmwareParameters_of_served h).trans (by rw [if_neg (by simp [hp])]; rfl)
  case part => exact (execFirmwareData_of_open ho).trans (by rw [if_neg (by omega)])
  case full => exact (execFirmwareData_of_open ho).trans (by rw [if_pos hl, s.requestData_of_full u hl])
  case fillsB => exact (execVerifyComplete_of_passed ho h1 h2).trans (by rw [hr]; rfl)
  case fillsA => exact (execVerifyComplete_of_passed ho h1 h2).trans (by rw [hr]; rfl)
  case failsBoot => exact execVerifyComplete_of_boot_fails ho h1
  case failsRun => exact execVerifyComplete_of_run_fails ho h1 h2

end Sys2Proof.Machine
end

section
/-! SUPPORT. The seal unit, debug access and the black box (R531 to R533, R542, R547 to R561): a command of the seal unit by the
result of its check, debug by what is stored and unlocked, a clear by its result. -/

namespace Sys2Proof.Machine

/-! ### SEAL commands -/

section
variable {s : State} {via : Option Nat} {b : List Byte}

/-- The state in which a SEAL command runs: SEAL.CMD reads its block, a message brings it (R533, log 192). -/
def State.sealRead (s : State) (via : Option Nat) : State :=
  match via with
  | none => s.emit (.hostRead (s.fv .sealCmdAddrAddr []) 208 false)
  | some _ => s

/-- A SEAL command runs, from SEAL.CMD or from a message that is served. -/
def State.sealServed (s : State) (via : Option Nat) : Prop :=
  ∀ ep, via = some ep → s.mgmtUp = true ∧ s.fv .sealCmdStatusBusy [] = 0

/-- The check of a matching operation decides: with 0 the effect, else the result alone (R533). -/
theorem State.sealCommand_of_match (hs : s.sealServed via) {op : Nat} (hop : leAt b 0 1 = op) (token : Nat)
    (check : List Byte → Nat) (act : List Byte → Seal → Seal) :
    s.sealCommand via token op (some b) check act =
      (if check b = 0 then (s.sealRead via).setSeal (act b s.sealUnit) else s.sealRead via).sealDone via token op
        (blockArg b) (check b) := by
  subst hop
  cases via with
  | none =>
    unfold State.sealCommand State.sealRun
    simp only [ne_eq, not_true_eq_false, if_false]
    rfl
  | some ep =>
    obtain ⟨hup, hidle⟩ := hs ep rfl
    unfold State.sealCommand State.sealRun
    simp only [hup, hidle, Bool.true_eq_false, if_false, ne_eq, not_true_eq_false, Nat.zero_ne_one]
    rfl

theorem State.sealCommand_of_not_ready {ep : Nat} (h : s.mgmtUp = false) (token op : Nat) (block : Option (List Byte))
    (check : List Byte → Nat) (act : List Byte → Seal → Seal) :
    s.sealCommand (some ep) token op block check act = s.vendorRsp ep 0x30 4 [] := if_pos h

theorem State.sealCommand_of_busy {ep : Nat} (h : s.mgmtUp = true) (hb : s.fv .sealCmdStatusBusy [] = 1) (token op : Nat)
    (block : Option (List Byte)) (check : List Byte → Nat) (act : List Byte → Seal → Seal) :
    s.sealCommand (some ep) token op block check act = s.vendorRsp ep 0x30 3 [] :=
  (if_neg (by simp [h])).trans (if_pos hb)

/-- Each of the five messages is a SEAL command of its operation. -/
theorem exec_seal {token : Nat} {c : Instr} (hc : c ∈ [Instr.svnCommit via token (some b), .takeOwnership via token (some b),
    .enrol via token (some b), .revoke via token (some b), .release via token (some b)]) (s : State) :
    ∃ op check act, exec c s = .next (s.sealCommand via token op (some b) check act) := by
  simp only [List.mem_cons, List.not_mem_nil, or_false] at hc
  obtain rfl | rfl | rfl | rfl | rfl := hc <;> exact ⟨_, _, _, rfl⟩
end

/-- The result of the owner's signature and nonce: NOT_OWNED, BAD_SIG, STALE_NONCE or OK (R532). -/
theorem Seal.signed_eq (u : Seal) (b : List Byte) :
    u.signed b = match u.owner with
      | none => 5
      | some k => if ecdsaVerify k (b.take 112) ((b.drop 112).take 96) then
          (if leAt b 8 8 = u.nonce then 0 else 3) else 2 := by
  unfold Seal.signed Seal.checkBlock
  cases u.owner with
  | none => rfl
  | some k => by_cases hv : ecdsaVerify k (b.take 112) ((b.drop 112).take 96) = true <;> simp [hv]

theorem Seal.signed_of_owned {u : Seal} (h : u.owner.isSome = true) (b : List Byte) : u.signed b = u.checkBlock b :=
  if_neg (by simpa [Option.isNone_iff_eq_none, Option.isSome_iff_ne_none] using h)

section
variable {s : State} {via : Option Nat} {b : List Byte} (hs : s.sealServed via) (token : Nat)
include hs

/-- The end of a SEAL command of an operation by its result (R533). -/
def State.sealEnds (s : State) (via : Option Nat) (token op : Nat) (b : List Byte) (res : Nat) (v : Seal) : State :=
  (if res = 0 then (s.sealRead via).setSeal v else s.sealRead via).sealDone via token op (blockArg b) res

theorem execTakeOwnership_of_match (hop : leAt b 0 1 = 1) :
    execTakeOwnership via token (some b) s = .next (s.sealEnds via token 1 b
      (if s.sealUnit.owner.isSome then 4 else if onCurve (blockKey b) then 0 else 7)
      { s.sealUnit with owner := some (blockKey b) }) := by
  refine congrArg _ ((State.sealCommand_of_match hs hop token _ _).trans ?_)
  unfold State.sealEnds
  cases onCurve (blockKey b) <;> rfl

theorem execEnrol_of_match (hop : leAt b 0 1 = 2) {slot : Nat}
    (hslot : slot = if s.sealUnit.signed b ≠ 0 then s.sealUnit.signed b else if 15 < blockArg b then 1 else 0) :
    execEnrol via token (some b) s = .next (s.sealEnds via token 2 b
      (if slot ≠ 0 then slot else if (s.sealUnit.pubs.getD (blockArg b) none).isSome then 6
        else if onCurve (blockKey b) then 0 else 7)
      { s.sealUnit with
        pubs := s.sealUnit.pubs.set (blockArg b) (some ⟨blockKey b, keyId (blockKey b)⟩)
        nonce := s.sealUnit.nonce + 1 }) := by
  subst hslot
  refine congrArg _ ((State.sealCommand_of_match hs hop token _ _).trans ?_)
  by_cases hsig : s.sealUnit.signed b = 0
  · by_cases harg : 15 < blockArg b
    · simp [State.sealEnds, hsig, harg]
    · cases onCurve (blockKey b) <;> simp [State.sealEnds, hsig, harg, Seal.spend]
  · simp [State.sealEnds, hsig]

theorem execRevoke_of_match (hop : leAt b 0 1 = 3) :
    execRevoke via token (some b) s = .next (s.sealEnds via token 3 b
      (if s.sealUnit.signed b ≠ 0 then s.sealUnit.signed b else if 15 < blockArg b then 1 else 0)
      { s.sealUnit with pubs := s.sealUnit.pubs.set (blockArg b) none, nonce := s.sealUnit.nonce + 1 }) :=
  congrArg _ (State.sealCommand_of_match hs hop token _ _)

theorem execRelease_of_match (hop : leAt b 0 1 = 4) :
    execRelease via token (some b) s = .next (s.sealEnds via token 4 b (s.sealUnit.signed b)
      { s.sealUnit with owner := none, pubs := List.replicate 16 none, nonce := s.sealUnit.nonce + 1 }) :=
  congrArg _ (State.sealCommand_of_match hs hop token _ _)

theorem execSvnCommit_of_match (hop : leAt b 0 1 = 5) :
    execSvnCommit via token (some b) s = .next (s.sealEnds via token 5 b
      (if s.sealUnit.owner.isSome ∧ s.sealUnit.signed b ≠ 0 then s.sealUnit.signed b
        else if s.svns.1 < blockArg b ∨ s.svns.2 < blockArg b then 8 else 0)
      { s.sealUnit with
        fused := max s.sealUnit.fused (blockArg b)
        nonce := if s.sealUnit.owner.isSome then s.sealUnit.nonce + 1 else s.sealUnit.nonce }) := by
  refine congrArg _ ((State.sealCommand_of_match hs hop token _ _).trans ?_)
  unfold State.sealEnds
  cases ho : s.sealUnit.owner.isSome with
  | false => simp
  | true => simp [Seal.signed_of_owned ho, Seal.spend]
end

/-- Settles O35: a message by whether it is served, then a matching operation by the result of its check. -/
theorem sealCommandsComplete : Obligations.SealCommandsComplete := by
  unfold Obligations.SealCommandsComplete
  intro s via token b u at_ n key done take signed slot enrol svn all
  have hsigned : u.signed b = signed := Seal.signed_eq u b
  refine ⟨?messages, fun hs => ⟨fun _ hop => ?svnCommit, fun hop => ?take, fun hop => ?enrol, fun hop => ?revoke,
    fun hop => ?release⟩⟩
  case messages =>
    rintro ep c rfl hc
    obtain ⟨op, check, act, he⟩ := exec_seal hc s
    exact ⟨fun hup => he.trans (congrArg _ (State.sealCommand_of_not_ready hup ..)),
      fun hup hbusy => he.trans (congrArg _ (State.sealCommand_of_busy hup hbusy ..))⟩
  case svnCommit => exact (execSvnCommit_of_match hs token hop).trans (by rw [hsigned]; rfl)
  case take => exact execTakeOwnership_of_match hs token hop
  case enrol => exact execEnrol_of_match hs token hop (by rw [hsigned])
  case revoke => exact (execRevoke_of_match hs token hop).trans (by rw [hsigned]; rfl)
  case release => exact (execRelease_of_match hs token hop).trans (by rw [hsigned]; rfl)

/-! ### Debug access -/

section
variable {s : State} {p : Nat} (hf : s.formed p = true)
include hf

theorem execDebugSet_of_none (h : (s.part p).dbg.stored = none) :
    execDebugSet p s =
      .next ((s.setDebug p { (s.part p).dbg with stored := some (s.part p).dbg.written }).showDebug p) := by
  unfold execDebugSet
  rw [if_pos hf]
  simp only [h]

theorem execDebugSet_of_stored {c : BitVec 128} (h : (s.part p).dbg.stored = some c) :
    execDebugSet p s = .next (s.setf .partDbgStateRefused [p] 1) := by
  unfold execDebugSet
  rw [if_pos hf]
  simp only [h]

theorem execDebugUnlock_of_none (h : (s.part p).dbg.stored = none) :
    execDebugUnlock p s = .next (s.setf .partDbgStateRefused [p] 1) := by
  unfold execDebugUnlock
  rw [if_pos hf]
  simp only [h]

section
variable {c : BitVec 128} (h : (s.part p).dbg.stored = some c)
include h

theorem execDebugUnlock_of_stored :
    execDebugUnlock p s = .next (
      if s.fa .sealPolicyDebugEn [] = 0 ∨ 8 ≤ (s.part p).dbg.fails then s.setf .partDbgStateRefused [p] 1
      else if c = (s.part p).dbg.written then (s.setDebug p { (s.part p).dbg with unlocked := true }).showDebug p
      else if 7 ≤ (s.part p).dbg.fails then
        (s.setDebug p { (s.part p).dbg with fails := (s.part p).dbg.fails + 1 }).lockDebug p
      else (s.setDebug p { (s.part p).dbg with fails := (s.part p).dbg.fails + 1 }).showDebug p) := by
  unfold execDebugUnlock
  rw [if_pos hf]
  simp only [h, apply_ite Host.Outcome.next]

theorem execDebugUnlock_of_refused (hno : s.fa .sealPolicyDebugEn [] = 0 ∨ 8 ≤ (s.part p).dbg.fails) :
    execDebugUnlock p s = .next (s.setf .partDbgStateRefused [p] 1) := by
  rw [execDebugUnlock_of_stored hf h, if_pos hno]

variable (hen : s.fa .sealPolicyDebugEn [] ≠ 0)
include hen

theorem execDebugUnlock_of_match (hfew : (s.part p).dbg.fails < 8) (hm : c = (s.part p).dbg.written) :
    execDebugUnlock p s = .next ((s.setDebug p { (s.part p).dbg with unlocked := true }).showDebug p) := by
  rw [execDebugUnlock_of_stored hf h, if_neg (by omega), if_pos hm]

theorem execDebugUnlock_of_failure (hfew : (s.part p).dbg.fails < 7) (hm : c ≠ (s.part p).dbg.written) :
    execDebugUnlock p s =
      .next ((s.setDebug p { (s.part p).dbg with fails := (s.part p).dbg.fails + 1 }).showDebug p) := by
  rw [execDebugUnlock_of_stored hf h, if_neg (by omega), if_neg hm, if_neg (by omega)]

theorem execDebugUnlock_of_last_failure (hlast : (s.part p).dbg.fails = 7) (hm : c ≠ (s.part p).dbg.written) :
    execDebugUnlock p s =
      .next ((s.setDebug p { (s.part p).dbg with fails := (s.part p).dbg.fails + 1 }).lockDebug p) := by
  rw [execDebugUnlock_of_stored hf h, if_neg (by omega), if_neg hm, if_pos (by omega)]
end

theorem execDebugLock_of_formed : execDebugLock p s = .next (s.lockDebug p) := if_pos hf

/-- The selection that a write of DBG_ADDR stores (R542). -/
def State.debugSelected (s : State) (p : Nat) (w : Word) : State :=
  s.setv .partDbgAddr [p] (w &&& (rangeMask 63 62 ||| rangeMask 44 32 ||| rangeMask 13 0))

theorem execDebugAddrSelect_of_formed (w : Word) :
    execDebugAddrSelect p w s = .next (
      if (s.part p).dbg.unlocked = false then (s.debugSelected p w).showWord p 0
      else if s.ownerOf (getBits w 44 32) ≠ some p then
        ((s.debugSelected p w).setf .partDbgStateOutside [p] 1).showWord p 0
      else if getBits w 63 62 = 0 ∧ isMu (getBits w 44 32) = true ∧ getBits w 13 0 < 12288 then
        (s.debugSelected p w).debugBank p (getBits w 44 32) (getBits w 13 0)
      else (s.debugSelected p w).showWord p ((s.site (getBits w 44 32)).debugWord (getBits w 63 62) (getBits w 13 0))) := by
  have hp : ¬ 32 ≤ p := fun h => by simp [State.formed, h.not_gt] at hf
  unfold execDebugAddrSelect
  rw [if_neg hp]
  simp only [hf, apply_ite Host.Outcome.next]
  cases (s.part p).dbg.unlocked <;> rfl

section
variable {w : Word}

theorem execDebugAddrSelect_of_locked (hu : (s.part p).dbg.unlocked = false) :
    execDebugAddrSelect p w s = .next ((s.debugSelected p w).showWord p 0) := by
  rw [execDebugAddrSelect_of_formed hf, if_pos hu]

theorem execDebugAddrSelect_of_outside (hu : (s.part p).dbg.unlocked = true) (ho : s.ownerOf (getBits w 44 32) ≠ some p) :
    execDebugAddrSelect p w s = .next (((s.debugSelected p w).setf .partDbgStateOutside [p] 1).showWord p 0) := by
  rw [execDebugAddrSelect_of_formed hf, if_neg (by simp [hu]), if_pos ho]

variable (hu : (s.part p).dbg.unlocked = true) (ho : s.ownerOf (getBits w 44 32) = some p)
include hu ho

theorem execDebugAddrSelect_of_bank (hb : getBits w 63 62 = 0 ∧ isMu (getBits w 44 32) = true ∧ getBits w 13 0 < 12288) :
    execDebugAddrSelect p w s = .next ((s.debugSelected p w).debugBank p (getBits w 44 32) (getBits w 13 0)) := by
  rw [execDebugAddrSelect_of_formed hf, if_neg (by simp [hu]), if_neg (not_not_intro ho), if_pos hb]

theorem execDebugAddrSelect_of_word (hb : ¬ (getBits w 63 62 = 0 ∧ isMu (getBits w 44 32) = true ∧ getBits w 13 0 < 12288)) :
    execDebugAddrSelect p w s = .next ((s.debugSelected p w).showWord p
      ((s.site (getBits w 44 32)).debugWord (getBits w 63 62) (getBits w 13 0))) := by
  rw [execDebugAddrSelect_of_formed hf, if_neg (by simp [hu]), if_neg (not_not_intro ho), if_neg hb]
end
end

/-- Settles O36: a credential by what is stored and how often it failed, a selection by the lock, the owner of the site and
the space. -/
theorem debugAccess : Obligations.DebugAccess := by
  unfold Obligations.DebugAccess
  intro s p w c d refused sel reads bank
  refine ⟨fun hf => ⟨fun hn => ⟨?set, ?noCredential⟩, fun hc => ⟨?setAgain, fun hno => ?refusedUnlock,
    fun hen hfew => ⟨fun hm => ?matches_, ?mismatch⟩⟩, ?lock, fun hu ho hb => ?bank, fun hu ho hb => ?word,
    fun hu ho => ?outside, fun hu => ?locked⟩, rfl⟩
  case set => exact execDebugSet_of_none hf hn
  case noCredential => exact execDebugUnlock_of_none hf hn
  case setAgain => exact execDebugSet_of_stored hf hc
  case refusedUnlock => exact execDebugUnlock_of_refused hf hc hno
  case matches_ => exact execDebugUnlock_of_match hf hc hen hfew hm
  case mismatch =>
    rintro hm t rfl
    exact ⟨fun h => execDebugUnlock_of_failure hf hc hen h hm, fun h => execDebugUnlock_of_last_failure hf hc hen h hm⟩
  case lock => exact execDebugLock_of_formed hf
  case bank => exact execDebugAddrSelect_of_bank hf hu ho hb
  case word => exact execDebugAddrSelect_of_word hf hu ho hb
  case outside => exact execDebugAddrSelect_of_outside hf hu ho
  case locked => exact execDebugAddrSelect_of_locked hf hu

/-! ### The black box -/

section
variable {s : State}

theorem execBlackBoxWrite_of_waiting {e : Line × Bool} {q : List (Line × Bool)} (hr : s.bbReady = true)
    (hq : s.bbox.queue = e :: q) :
    execBlackBoxWrite s = .next (s.setBBox ({ s.bbox with queue := q }.write e.1 e.2)).showBBox := by
  unfold execBlackBoxWrite
  rw [hr, hq]

theorem execBlackBoxWrite_of_idle (h : s.bbReady = false ∨ s.bbox.queue = []) : execBlackBoxWrite s = .next s := by
  unfold execBlackBoxWrite
  obtain h | h := h
  · rw [h]
  · rw [h]; cases s.bbReady <;> rfl

theorem execRead_of_ready {ep area start count : Nat} (hr : s.bbReady = true) :
    execRead ep area start count s = .next (
      if count = 0 ∨ 16 < count ∨ 1 < area then s.vendorRsp ep 0x10 1 []
      else s.vendorRsp ep 0x10 0 ((List.range count).flatMap (fun i =>
        leBytes 8 (s.readSlot (area == 1) (start + i)).2.toNat ++
          leBytes 64 (s.readSlot (area == 1) (start + i)).1.toNat))) := by
  unfold execRead
  rw [if_neg (by simp [hr]), apply_ite Host.Outcome.next]

theorem execOverflow_of_lost (hq : s.bbox.queue.length < 512) (hl : s.bbox.lostNow ≠ 0) :
    execOverflow s =
      .next ((s.setBBox { s.bbox with lostNow := 0 }).bbPut none 0x07 0 (payloadOf [(0, 8, s.bbox.lostNow)])) :=
  if_pos ⟨hq, hl⟩

/-- What a clear whose result is not OK leaves in CLR_STATUS, after it has read its block unless the result is BUSY (R561). -/
def State.clearRefused (s : State) (token : Nat) (block : Option (List Byte)) : State :=
  let t := if s.clearResult block = 10 then s else s.blockRead (s.fv .bboxClrAddrAddr []) block
  ((t.setf .bboxClrStatusBusy [] 0).setf .bboxBbStateClearing [] 0).clearDone token (s.clearResult block)

/-- The argument and the operation that the record of a clear names (R553, log 155). -/
def clearArg : Option (List Byte) → Nat
  | some b => leAt b 4 1
  | none => 0
def State.clearOp (s : State) (block : Option (List Byte)) : Nat :=
  match block with
  | some b => if s.clearResult block = 10 then 0x40 else leAt b 0 1
  | none => 0x40

theorem execClear_of_refused {block : Option (List Byte)} (h : s.clearResult block ≠ 0) (token : Nat) :
    execClear token block s =
      .next ((s.clearRefused token block).sealRecord (s.clearOp block) (clearArg block) (s.clearResult block)) := by
  unfold execClear
  simp only [h, if_false]
  cases block <;> rfl
end

/-- Settles O37: the writer by READY and its queue, READ by READY and its bounds, a clear by its result. -/
theorem blackBoxCommands : Obligations.BlackBoxCommands := by
  unfold Obligations.BlackBoxCommands
  intro s e q w ep area start count token block rd st₀ st₁ st arg op
  refine ⟨fun hr => ⟨fun hq => ?writes, ?select, fun h1 h16 ha => ?reads, fun hbad => ?badRead⟩, fun hr => ?notReady,
    fun hq hl => ?overflow, rfl, fun hres => ?refused, fun h => ?idle⟩
  case writes => exact execBlackBoxWrite_of_waiting hr hq
  case select =>
    rintro r rfl
    exact if_pos hr
  case reads => exact (execRead_of_ready hr).trans (congrArg _ (if_neg (by omega)))
  case badRead => exact (execRead_of_ready hr).trans (congrArg _ (if_pos hbad))
  case notReady => exact if_pos hr
  case overflow => exact execOverflow_of_lost hq hl
  case refused =>
    have hclear := execClear_of_refused hres token
    cases block <;> exact hclear
  case idle => exact execBlackBoxWrite_of_idle h

end Sys2Proof.Machine
end

section
/-! SUPPORT. Optical ports (R444 to R480): an event by the state of the port it meets, a failed wavelength by what it carries, a
flit by its intactness and its sequence number, an audit by its phase, a forwarded message by its route. -/

namespace Sys2Proof.Machine

theorem State.portUp_iff {s : State} {q : Nat} : s.portUp q = true ↔ s.portState q = 3 ∨ s.portState q = 4 := by
  simp [State.portUp]

/-! ### Lasers and training -/

section
variable {s : State} {engine port healthy : Nat}

/-- The LOST bit of an input and its record (R446). -/
def State.laserLost (s : State) (engine : Nat) (b : Bool) : State :=
  (if b then (s.setf .opticEngStatusLaserBOk [engine] 0).setf .opticEngStatusLaserBLost [engine] 1
    else (s.setf .opticEngStatusLaserAOk [engine] 0).setf .opticEngStatusLaserALost [engine] 1).bbWrite none 0x50 1
      (payloadOf [(0, 1, 8 * engine), (1, 1, if b then 2 else 1)])

/-- Every port of an engine without light goes DOWN (R446). -/
def State.engineDark (s : State) (engine : Nat) : State :=
  (List.range 8).foldl (fun u i =>
    if u.portState (8 * engine + i) = 6 then u
    else (u.losePort (8 * engine + i)).enterPort (8 * engine + i) 6) s

theorem execLaserInputLost_of_engine (h : engine < 16) (b : Bool) :
    execLaserInputLost engine b s =
      .next (if (s.laserLost engine b).laserOk engine then s.laserLost engine b
        else (s.laserLost engine b).engineDark engine) := by
  rw [apply_ite Host.Outcome.next]
  exact if_pos h

/-- The wavelengths among nine that a training finds healthy. -/
def healthyCount (healthy : Nat) : Nat := ((List.range 9).filter (fun w => healthy.testBit w)).length

/-- A port leaves TRAIN with a lane map: kept flits are sent again, waiting messages leave (R467). -/
def State.trainedWith (s : State) (port : Nat) (m : Word) (spareUsed st : Nat) : State :=
  ((((s.setv .opticLaneMap (portIx port) m).setf .opticPortStateSpareUsed (portIx port) spareUsed).enterPort port st).replay
    port).pump port

/-- The lane map of a training (R445): all eight lanes, or the four of a half-rate port. -/
def trainedMap (full : Bool) (healthy : Nat) : Word := if full then mapLanes healthy else mapHalf healthy

theorem execPortTrained_of_enough (hp : port < 128) (hs : s.portState port = 2) (h4 : 4 ≤ healthyCount healthy)
    (h : healthyCount healthy < 8 ∨ (s.port port).linkId = true) {full : Bool} (hf : full = decide (8 ≤ healthyCount healthy)) :
    execPortTrained port healthy s = .next (s.trainedWith port (trainedMap full healthy)
      (bit01 (full && decide (waveLane (trainedMap full healthy) 8 ≠ none))) (if full then 3 else 4)) := by
  subst hf
  exact if_pos ⟨hp, hs, h4, h⟩

theorem execPortTrained_of_full (hp : port < 128) (hs : s.portState port = 2) (hn : 8 ≤ healthyCount healthy)
    (hl : (s.port port).linkId = true) :
    execPortTrained port healthy s = .next (s.trainedWith port (mapLanes healthy)
      (bit01 (decide (waveLane (mapLanes healthy) 8 ≠ none))) 3) := by
  rw [execPortTrained_of_enough hp hs (by omega) (.inr hl) (decide_eq_true hn).symm, trainedMap, if_pos rfl, if_pos rfl,
    Bool.true_and]

theorem execPortTrained_of_half (hp : port < 128) (hs : s.portState port = 2) (h4 : 4 ≤ healthyCount healthy)
    (hn : healthyCount healthy < 8) :
    execPortTrained port healthy s = .next (s.trainedWith port (mapHalf healthy) 0 4) := by
  rw [execPortTrained_of_enough hp hs h4 (.inl hn) (decide_eq_false hn.not_ge).symm, trainedMap, if_neg Bool.false_ne_true,
    if_neg Bool.false_ne_true, Bool.false_and]
  rfl

/-- With eight wavelengths a port waits in TRAIN for the partner's LINK_ID (R467). -/
theorem execPortTrained_of_waiting (hn : 8 ≤ healthyCount healthy) (hl : (s.port port).linkId = false) :
    execPortTrained port healthy s = .next s := by
  refine if_neg ?_
  rintro ⟨-, -, -, hfew | hid⟩
  · exact absurd hn (Nat.not_le.2 hfew)
  · simp [hl] at hid
end

/-! ### Wavelengths that fail -/

section
variable {s : State} {port wave : Nat} (hp : port < 128) (hw : wave < 9) (hup : s.portUp port = true)
include hp hw hup

/-- The port's audit has ended (R472). -/
def State.auditEnded (s : State) (port : Nat) : State := s.setPort port { s.port port with audit := none }

/-- The lane map of a port without a wavelength that failed (R445). -/
def State.failedMap (s : State) (port wave : Nat) : Word := failWave (s.rv .opticLaneMap (portIx port)) wave

theorem execWavelengthFail_of_spare (hsp : getBits (s.rv .opticLaneMap (portIx port)) 35 32 = wave) :
    execWavelengthFail port wave s =
      .next ((s.auditEnded port).setv .opticLaneMap (portIx port) (putBits (s.failedMap port wave) 35 32 0xF)) := by
  unfold execWavelengthFail
  rw [if_pos ⟨hp, hw, State.portUp_iff.1 hup⟩]
  exact if_pos hsp

variable (hsp : getBits (s.rv .opticLaneMap (portIx port)) 35 32 ≠ wave)
include hsp

theorem execWavelengthFail_of_no_lane (hl : waveLane (s.rv .opticLaneMap (portIx port)) wave = none) :
    execWavelengthFail port wave s =
      .next ((s.auditEnded port).setv .opticLaneMap (portIx port) (s.failedMap port wave)) := by
  unfold execWavelengthFail
  rw [if_pos ⟨hp, hw, State.portUp_iff.1 hup⟩]
  simp only [hsp, hl, if_false]
  rfl

theorem execWavelengthFail_of_lane {l : Nat} (hl : waveLane (s.rv .opticLaneMap (portIx port)) wave = some l) :
    execWavelengthFail port wave s = .next ((s.auditEnded port).laneFails port wave l (s.port port).audit) := by
  unfold execWavelengthFail
  rw [if_pos ⟨hp, hw, State.portUp_iff.1 hup⟩]
  simp only [hsp, hl, if_false]
  rfl
end

/-- Settles O57: each event by the state of its port; a failed wavelength by whether it is the spare, carries a lane, and
finds a spare. -/
theorem opticalPortsMoveByTheTable : Obligations.OpticalPortsMoveByTheTable := by
  unfold Obligations.OpticalPortsMoveByTheTable
  intro s engine port wave healthy l b lost dark n ix up half m sp a t spare
  refine ⟨fun he => ?lost, fun he => ?restored, fun hp => ⟨fun hs => ?locked, fun hs => ⟨fun hn hl => ?full, fun hn hl => ?waiting,
    fun h4 hn => ?half, ?timeout⟩, fun hs hl hen => ?retry, fun hup => ⟨?signal, fun hk => ?replay, fun hw hsp => ?spare,
      fun hw hsp hl => ?noLane, fun hw hsp hl => ⟨fun hs hfree => ?taken, fun hno => ?retrains⟩⟩⟩⟩
  case lost => exact execLaserInputLost_of_engine he b
  case restored => exact if_pos he
  case locked => exact if_pos ⟨hp, hs⟩
  case full => exact execPortTrained_of_full hp hs hn hl
  case waiting => exact execPortTrained_of_waiting hn hl
  case half => exact execPortTrained_of_half hp hs h4 hn
  case timeout => exact if_pos ⟨hp, hs⟩
  case retry => exact if_pos ⟨hp, hs, hl, hen⟩
  case signal => exact if_pos ⟨hp, hup⟩
  case replay => exact if_pos ⟨hp, hup, hk⟩
  case spare => exact execWavelengthFail_of_spare hp hw hup hsp
  case noLane => exact execWavelengthFail_of_no_lane hp hw hup hsp hl
  case taken => exact (execWavelengthFail_of_lane hp hw hup hsp hl).trans (congrArg _ (if_pos ⟨hs, hfree⟩))
  case retrains =>
    refine (execWavelengthFail_of_lane hp hw hup hsp hl).trans (congrArg _ (if_neg ?_))
    rintro ⟨hs, hfree⟩
    obtain hhalf | hnone := hno
    · exact absurd (hs.symm.trans hhalf) (by decide)
    · exact hfree hnone

/-! ### Flits -/

section
variable {s : State} {port : Nat} {flit : List Byte} {cws : List Nat}

/-- A flit has been read: its codewords are counted, and a wrong CRC (R449). -/
def State.flitRead (s : State) (port : Nat) (flit : List Byte) (cws : List Nat) : State :=
  let t := (s.setPort port ((s.port port).codewords cws).1).countFec port ((s.port port).codewords cws).2.1
  if decide (crc32c (flit.take 252) ≠ leAt flit 252 4) = true then t.bump .opticCrcErr (portIx port) 1 else t

/-- A flit is damaged: by a codeword that it touches, or by its CRC (R449, log 198). -/
def State.flitDamaged (s : State) (port : Nat) (flit : List Byte) (cws : List Nat) : Bool :=
  ((s.port port).codewords cws).2.2 || decide (crc32c (flit.take 252) ≠ leAt flit 252 4)

/-- The port asks for replay in an idle flit (R453). -/
def State.askReplay (t : State) (port : Nat) : State := (t.setPort port { t.port port with naking := true }).sendIdle port

/-- The port's receiver after a data flit that it takes: the message bytes enter the buffer of their channel (R451, R452). -/
def Port.takeFlit (x : Port) (flit : List Byte) : Port :=
  let vc := bitsOf (leAt flit 0 8) 37 36
  let f := flitFill 64 ((flit.drop 8).take 244) (x.rxLeft.getD vc 0) 0
  { x with
    rxSeq := (x.rxSeq + 1) % 4096, naking := false, unacked := x.unacked + 1
    rx := if f.1 = 0 then x.rx else x.rx.set vc (x.rx.getD vc [] ++ [f.1])
    freed := if f.1 = 0 then x.freed.set vc ((x.freed.getD vc 0 + 1) % 256) else x.freed
    rxLeft := x.rxLeft.set vc f.2 }

/-- A data flit is taken, the 64th unacknowledged one with an acknowledgement (R452). -/
def State.takeFlit (t : State) (port : Nat) (flit : List Byte) : State :=
  let u := t.setPort port ((t.port port).takeFlit flit)
  if 64 ≤ (t.port port).unacked + 1 then u.sendIdle port else u

variable (hp : port < 128) (hup : s.portUp port = true) {t : State} (ht : t = s.flitRead port flit cws)
include hp hup ht

theorem execFlitReceive_eq :
    execFlitReceive port flit cws s = .next (
      if s.flitDamaged port flit cws = true then
        if bitOf (leAt flit 0 8) 38 = true ∨ (t.port port).naking = true then t else t.askReplay port
      else if bitOf (leAt flit 0 8) 38 = true then t.takeAck port (leAt flit 0 8)
      else if bitsOf (leAt flit 0 8) 63 52 = ((t.port port).rxSeq + 1) % 4096 then
        (t.takeFlit port flit).takeAck port (leAt flit 0 8)
      else if (t.port port).naking = true then t.takeAck port (leAt flit 0 8)
      else (t.askReplay port).takeAck port (leAt flit 0 8)) := by
  subst ht
  simp only [apply_ite Host.Outcome.next, State.flitDamaged, Bool.or_eq_true]
  exact if_pos ⟨hp, hup⟩

theorem execFlitReceive_of_damaged (hd : s.flitDamaged port flit cws = true) (hi : bitOf (leAt flit 0 8) 38 = false)
    (hk : (t.port port).naking = false) : execFlitReceive port flit cws s = .next (t.askReplay port) := by
  rw [execFlitReceive_eq hp hup ht, if_pos hd, if_neg (by simp [hi, hk])]

theorem execFlitReceive_of_damaged_again (hd : s.flitDamaged port flit cws = true)
    (h : bitOf (leAt flit 0 8) 38 = true ∨ (t.port port).naking = true) : execFlitReceive port flit cws s = .next t := by
  rw [execFlitReceive_eq hp hup ht, if_pos hd, if_pos h]

variable (hd : s.flitDamaged port flit cws = false)
include hd

theorem execFlitReceive_of_idle (hi : bitOf (leAt flit 0 8) 38 = true) :
    execFlitReceive port flit cws s = .next (t.takeAck port (leAt flit 0 8)) := by
  rw [execFlitReceive_eq hp hup ht, if_neg (by simp [hd]), if_pos hi]

variable (hi : bitOf (leAt flit 0 8) 38 = false)
include hi

theorem execFlitReceive_of_next (hn : bitsOf (leAt flit 0 8) 63 52 = ((t.port port).rxSeq + 1) % 4096) :
    execFlitReceive port flit cws s = .next ((t.takeFlit port flit).takeAck port (leAt flit 0 8)) := by
  rw [execFlitReceive_eq hp hup ht, if_neg (by simp [hd]), if_neg (by simp [hi]), if_pos hn]

variable (hn : bitsOf (leAt flit 0 8) 63 52 ≠ ((t.port port).rxSeq + 1) % 4096)
include hn

theorem execFlitReceive_of_gap (hk : (t.port port).naking = false) :
    execFlitReceive port flit cws s = .next ((t.askReplay port).takeAck port (leAt flit 0 8)) := by
  rw [execFlitReceive_eq hp hup ht, if_neg (by simp [hd]), if_neg (by simp [hi]), if_neg hn, if_neg (by simp [hk])]

theorem execFlitReceive_of_gap_again (hk : (t.port port).naking = true) :
    execFlitReceive port flit cws s = .next (t.takeAck port (leAt flit 0 8)) := by
  rw [execFlitReceive_eq hp hup ht, if_neg (by simp [hd]), if_neg (by simp [hi]), if_neg hn, if_pos hk]
end

/-! ### The wavelength audit -/

section
variable {s : State} {port wave : Nat}

theorem execAuditPeriod_of_idle (hp : port < 128) (hs : s.portState port = 3)
    (hen : s.fa .opticPortCtlAuditEn (portIx port) = 1) {x : Port} (hx : x = s.port port) (hstop : x.auditStop = false)
    (ha : x.audit.all (fun b => b.2 == 0) = true) (hsp : getBits (s.rv .opticLaneMap (portIx port)) 35 32 ≠ 0xF) {w : Nat}
    (hw : nextWave (s.rv .opticLaneMap (portIx port)) x.auditNext = some w) :
    execAuditPeriod port s = .next ((s.setPort port { x with audit := some (w, 0), auditNext := (w + 1) % 9 }).sendLink
      port 0x02 (auditBody w 0 0)) := by
  subst hx
  refine (if_pos ⟨hp, hs, hen, hstop, ha, hsp⟩).trans ?_
  rw [hw]

theorem execAuditDwellEnd_of_receiver {w : Nat} (h : (s.port port).auditRx = some w) (bits errs : Nat) :
    execAuditDwellEnd port bits errs s =
      .next (((s.bump .opticPrbsBits (portIx port) bits).bump .opticPrbsErr (portIx port ++ [w]) errs).sendLink port 0x02
        (auditBody w 2 (if errs * 100000 < 24 * bits then 0 else 1))) := by
  rw [execAuditDwellEnd, h]

variable {t : State} (ht : t = s.consume port 0x02 3) (hp : port < 128)
include ht hp

theorem execSwitchOut_of_started (ha : (t.port port).audit = some (wave, 0)) {l : Nat}
    (hl : waveLane (t.rv .opticLaneMap (portIx port)) wave = some l) {m : Word} (hm : m = t.rv .opticLaneMap (portIx port)) :
    execSwitchOut port wave s =
      .next (((t.setPort port { t.port port with audit := some (wave, 1) }).setv .opticLaneMap (portIx port)
        (putBits (setLane m l (getBits m 35 32)) 35 32 0xF)).setf .opticPortStateSpareUsed (portIx port) 1) := by
  subst ht hm
  unfold execSwitchOut
  simp only [if_pos (And.intro hp ha), hl]

theorem execTestEnd_of_pass (ha : (t.port port).audit = some (wave, 1)) {l : Nat}
    (hl : waveLane (t.rv .opticLaneMap (portIx port)) 8 = some l) :
    execTestEnd port wave 0 s =
      .next (((t.setPort port { t.port port with audit := some (wave, 2) }).setv .opticLaneMap (portIx port)
        (setLane (t.rv .opticLaneMap (portIx port)) l wave)).sendLink port 0x02 (auditBody wave 3 0)) := by
  subst ht
  unfold execTestEnd
  simp only [if_pos (And.intro hp ha), hl, if_true]

/-- A failed wavelength is marked, and the audit of its port stops (R472). -/
def State.auditStopped (t : State) (port wave : Nat) : State :=
  ((t.setPort port { t.port port with audit := none, auditStop := true }).setv .opticLaneMap (portIx port)
    (failWave (t.rv .opticLaneMap (portIx port)) wave)).setf .opticPortStateAuditFail (portIx port) 1

theorem execTestEnd_of_failure (ha : (t.port port).audit = some (wave, 1)) :
    execTestEnd port wave 1 s = .next (((t.auditStopped port wave).alert .hubAlertLink).bbWrite none 0x50 1
      (payloadOf [(0, 1, port), (1, 1, 3), (2, 1, wave)])) := by
  subst ht
  exact if_pos ⟨hp, ha⟩

theorem execSwitchBack_of_transmitter (ha : (t.port port).audit = some (wave, 2)) :
    execSwitchBack port wave s =
      .next (((t.setPort port { t.port port with audit := none }).setv .opticLaneMap (portIx port)
        (putBits (t.rv .opticLaneMap (portIx port)) 35 32 8)).setf .opticPortStateSpareUsed (portIx port) 0) := by
  subst ht
  exact if_pos ⟨hp, ha⟩

theorem execSwitchBack_of_receiver (ha : (t.port port).audit = none) (hr : (t.port port).auditRx = some wave) :
    execSwitchBack port wave s =
      .next ((t.setPort port { t.port port with auditRx := none }).sendLink port 0x02 (auditBody wave 3 0)) := by
  subst ht
  exact (if_neg (fun h => by simp [ha] at h)).trans (if_pos ⟨hp, hr⟩)
end

/-! ### Forwarding -/

section
variable {s : State} {port typ : Nat} {h : Hdr} {body : List Byte} {t : State}
  (ht : t = s.consume port typ body.length)
include ht

theorem execMessageForward_of_stranger (hp : t.partOfTag h.ptag = none) :
    execMessageForward port typ h body s = .next (t.discardMsg port) := by
  subst ht
  rw [execMessageForward, hp]

variable {p : Nat} (hp : t.partOfTag h.ptag = some p)
include hp

theorem execMessageForward_of_own (hd : h.dst = t.coord p) :
    execMessageForward port typ h body s = .next (t.discardMsg port) := by
  subst ht
  unfold execMessageForward
  simp only [hp, if_pos hd]

variable (hd : h.dst ≠ t.coord p)
include hd

theorem execMessageForward_of_no_route (hr : t.route p h.dst = none) :
    execMessageForward port typ h body s = .next (t.discardMsg port) := by
  subst ht
  unfold execMessageForward
  simp only [hp, if_neg hd, hr]

theorem execMessageForward_of_route {q : Nat} (hr : t.route p h.dst = some q) :
    execMessageForward port typ h body s =
      .next ((t.bump .opticMsgForward [port % 128 / 8] 1).sendOn q ⟨typ, h, body⟩) := by
  subst ht
  unfold execMessageForward
  simp only [hp, if_neg hd, hr]
end

/-- Settles O58: a flit by its damage, its kind and its number; an audit by its phase; a message by its partition and route. -/
theorem flitsAuditsAndForwarding : Obligations.FlitsAuditsAndForwarding := by
  unfold Obligations.FlitsAuditsAndForwarding
  intro s port wave l bits errs w q p typ flit cws h body ix hdr cw damaged wrong read seen
  have hseen : seen = s.flitRead port flit cws := rfl
  have hdam : s.flitDamaged port flit cws = (damaged || wrong) := rfl
  clear_value seen
  intro x vc f y nak got came id a m t z n counted stop fwd
  refine ⟨fun hp hup => ⟨fun hd hi hn => ?damaged, fun hd hno => ?damagedAgain, fun hd hi => ?idle, fun hd hi =>
      ⟨fun hn => ?next, fun hn hk => ?gapAgain, fun hn hk => ?gap⟩, ?ack⟩, fun hp => ?linkId,
    fun hp hs hen => ⟨fun hst ha hsp hw => ?period, fun hw => ?start⟩, fun hp ha hl => ?out, fun ha => ?dwell,
    fun hp ha => ⟨fun hl => ?passed, ?failed⟩, fun hp => ⟨fun ha => ?back, fun ha hr => ?confirm⟩, fun hn => ?stranger,
    fun hp hd => ?own, fun hp hd => ⟨fun hr => ?noRoute, fun hr => ?route⟩⟩
  case damaged => exact execFlitReceive_of_damaged hp hup hseen (hdam.trans hd) hi hn
  case damagedAgain => exact execFlitReceive_of_damaged_again hp hup hseen (hdam.trans hd) hno
  case idle => exact execFlitReceive_of_idle hp hup hseen (hdam.trans hd) hi
  case next => exact execFlitReceive_of_next hp hup hseen (hdam.trans hd) hi hn
  case gapAgain => exact execFlitReceive_of_gap_again hp hup hseen (hdam.trans hd) hi hn hk
  case gap => exact execFlitReceive_of_gap hp hup hseen (hdam.trans hd) hi hn hk
  case ack => exact if_pos ⟨hp, hup⟩
  case linkId => exact if_pos hp
  case period => exact execAuditPeriod_of_idle hp hs hen rfl hst ha hsp hw
  case start => exact if_pos ⟨hp, hw, hs, hen⟩
  case out => exact execSwitchOut_of_started rfl hp ha hl rfl
  case dwell => exact execAuditDwellEnd_of_receiver ha bits errs
  case passed => exact execTestEnd_of_pass rfl hp ha hl
  case failed => exact execTestEnd_of_failure rfl hp ha
  case back => exact execSwitchBack_of_transmitter rfl hp ha
  case confirm => exact execSwitchBack_of_receiver rfl hp ha hr
  case stranger => exact execMessageForward_of_stranger rfl hn
  case own => exact execMessageForward_of_own rfl hp hd
  case noRoute => exact execMessageForward_of_no_route rfl hp hd hr
  case route => exact execMessageForward_of_route rfl hp hd hr

end Sys2Proof.Machine
end

section
/-! SUPPORT. The power controller's registers: what events and records leave alone, the limit and the supplies in a brake
(R509 to R516). -/

namespace Sys2Proof.Machine

/-! ### What events and records leave alone -/

/-- The registers that an event of the power controller and a record of the black box write: POWER.EVENTS, HUB.ALERT and LOST. -/
def noteAddrs : List Nat := [Rg.at .powerEvents [], Rg.at .hubAlert [], Rg.at .bboxLost []]

/-- What a state keeps of another where only events, outputs and records have come: all but the outputs, the black box, the host
port and the three registers of `noteAddrs`. -/
structure State.Noted (s t : State) : Prop where
  act : t.regs.act = s.regs.act
  val : ∀ r ix, Rg.at r ix ∉ noteAddrs → t.rv r ix = s.rv r ix
  wf : s.wf = true → t.wf = true
  rest : t = { s with regs := t.regs, out := t.out, bbox := t.bbox, host := t.host }

namespace State.Noted
variable {s t u : State}

theorem refl (s : State) : s.Noted s := ⟨rfl, fun _ _ _ => rfl, id, rfl⟩

theorem trans (h : s.Noted t) (k : t.Noted u) : s.Noted u where
  act := k.act.trans h.act
  val r ix hr := (k.val r ix hr).trans (h.val r ix hr)
  wf w := k.wf (h.wf w)
  rest := by rw [k.rest, h.rest]

theorem power (h : s.Noted t) : t.power = s.power := by rw [h.rest]

theorem now (h : s.Noted t) : t.now = s.now := by rw [h.rest]

theorem part (h : s.Noted t) (p : Nat) : t.part p = s.part p := by rw [h.rest]; rfl

theorem fa (h : s.Noted t) (f : Fld) (ix : List Nat) : t.fa f ix = s.fa f ix := by
  unfold State.fa State.ra
  rw [h.act]

theorem fv (h : s.Noted t) (f : Fld) (ix : List Nat) (hf : f.reg.at ix ∉ noteAddrs) : t.fv f ix = s.fv f ix := by
  unfold State.fv
  rw [h.val _ _ hf]

theorem powerState (h : s.Noted t) : t.powerState = s.powerState := h.fv .powerPwrStatusState [] (by decide)

theorem domainOn (h : s.Noted t) (d : Nat) : t.domainOn d = s.domainOn d := by
  unfold State.domainOn
  rw [h.val _ _ (by decide)]

theorem supplyOf (h : s.Noted t) (d : Nat) : t.supplyOf d = s.supplyOf d := by
  unfold State.supplyOf
  rw [h.val _ _ (by decide), h.val _ _ (by decide)]
end State.Noted

section
variable (s : State)

theorem State.setv_noted {r : Rg} {ix : List Nat} (h : r.at ix ∈ noteAddrs) (w : Word) : s.Noted (s.setv r ix w) where
  act := rfl
  val _ _ hq := State.rv_setv_ne s w (fun e => hq (e ▸ h))
  wf k := State.setv_wf k r ix w
  rest := rfl

theorem State.emit_noted (o : Out) : s.Noted (s.emit o) := ⟨rfl, fun _ _ _ => rfl, id, rfl⟩

theorem State.setHost_noted (x : HostPort) : s.Noted (s.setHost x) := ⟨rfl, fun _ _ _ => rfl, id, rfl⟩

theorem State.setBBox_noted (x : BBox) : s.Noted (s.setBBox x) := ⟨rfl, fun _ _ _ => rfl, id, rfl⟩

theorem State.msix_noted (v : Nat) : s.Noted (s.msix v) := by
  unfold State.msix
  split
  · exact s.emit_noted _
  · split
    · exact .refl s
    · exact s.setHost_noted _

theorem State.alert_noted {f : Fld} (h : f.reg.at [] ∈ noteAddrs) : s.Noted (s.alert f) := by
  have hset : s.Noted (s.setf f [] 1) := s.setv_noted h _
  unfold State.alert
  dsimp only
  split
  · exact hset.trans (State.emit_noted _ _)
  · exact hset

/-- A bit of POWER.EVENTS, its alert and its vector (R524). -/
theorem State.powerEvent_noted {f : Fld} (h : f.reg.at [] ∈ noteAddrs) : s.Noted (s.powerEvent f) :=
  ((s.setv_noted h _).trans (State.alert_noted _ (by decide))).trans (State.msix_noted _ 33)

theorem State.platformEvent_noted (sensor value : Nat) : s.Noted (s.platformEvent sensor value) := by
  unfold State.platformEvent
  split
  · exact s.emit_noted _
  · exact .refl s

theorem State.bbPut_noted (p : Option Nat) (typ cls payload : Nat) : s.Noted (s.bbPut p typ cls payload) := by
  unfold State.bbPut
  split
  · exact s.setBBox_noted _
  · exact (s.setv_noted (by decide) _).trans (State.setBBox_noted _ _)

/-- A record of no partition makes no fault report, whatever its class. -/
theorem State.bbWrite_none (typ cls payload : Nat) : s.bbWrite none typ cls payload = s.bbPut none typ cls payload := rfl

theorem State.bbWrite_none_noted (typ cls payload : Nat) : s.Noted (s.bbWrite none typ cls payload) := by
  rw [State.bbWrite_none]
  exact s.bbPut_noted _ _ _ _

theorem State.powerRecord_noted (old new cls : Nat) : s.Noted (s.powerRecord old new cls) := by
  unfold State.powerRecord
  exact s.bbWrite_none_noted _ _ _

/-- Entering a module state sets STATE; the record and the event are all that comes beside it (R514, R553). -/
theorem State.enterPower_noted (st cls : Nat) : (s.setf .powerPwrStatusState [] st).Noted (s.enterPower st cls) :=
  (State.powerRecord_noted _ _ _ _).trans (State.platformEvent_noted _ _ _)
end

/-! ### The supplies -/

section
variable (s : State)

/-- The registers of the supply codes. -/
def supplyRegs : List (Rg × List Nat) := [(.powerDomainV0, []), (.powerDomainV1, [])]

theorem State.setSupply_onlyRegs (d code : Nat) : s.onlyRegs (s.setSupply d code) supplyRegs := by
  unfold State.setSupply
  split
  · exact (s.onlyRegs_setv _ _ _).mono (by simp [supplyRegs])
  · exact (s.onlyRegs_setv _ _ _).mono (by simp [supplyRegs])

variable {s}

theorem State.onlyRegs.rv {t : State} {l : List (Rg × List Nat)} (h : s.onlyRegs t l) (r : Rg) (ix : List Nat)
    (hr : r.at ix ∉ l.map (fun x => x.1.at x.2)) : t.rv r ix = s.rv r ix := h.2 _ hr

theorem State.onlyRegs.fv {t : State} {l : List (Rg × List Nat)} (h : s.onlyRegs t l) (f : Fld) (ix : List Nat)
    (hf : f.reg.at ix ∉ l.map (fun x => x.1.at x.2)) : t.fv f ix = s.fv f ix := by
  unfold State.fv
  rw [h.rv _ _ hf]

theorem State.onlyRegs.power {t : State} {l : List (Rg × List Nat)} (h : s.onlyRegs t l) : t.power = s.power := by
  rw [h.1]
  rfl

theorem State.onlyRegs.fa {t : State} {l : List (Rg × List Nat)} (h : s.onlyRegs t l) (f : Fld) (ix : List Nat) :
    t.fa f ix = s.fa f ix := by
  rw [h.1]
  rfl

theorem State.onlyRegs.domainOn {t : State} (h : s.onlyRegs t supplyRegs) (d : Nat) : t.domainOn d = s.domainOn d := by
  unfold State.domainOn
  rw [h.rv _ _ (by decide)]

/-- A byte of a word read back after it has been set. -/
theorem getBits_putBits_byte (w : Word) (k n : Nat) (hk : k < 8) :
    getBits (putBits w (8 * k + 7) (8 * k) n) (8 * k + 7) (8 * k) = n % 256 := by
  have h := getBits_putBits_same w (8 * k + 7) (8 * k) n (by omega) (by omega)
  rwa [show 8 * k + 7 + 1 - 8 * k = 8 by omega] at h

/-- A byte of a word after another one has been set. -/
theorem getBits_putBits_byte_ne (w : Word) {k j : Nat} (n : Nat) (hk : k < 8) (h : j ≠ k) :
    getBits (putBits w (8 * k + 7) (8 * k) n) (8 * j + 7) (8 * j) = getBits w (8 * j + 7) (8 * j) :=
  getBits_putBits_disjoint _ _ _ _ _ _ (by omega) (by omega) (by omega)

theorem State.supplyOf_setSupply (h : s.wf = true) {d : Nat} (hd : d < 16) (code e : Nat) (he : e < 16) :
    (s.setSupply d code).supplyOf e = if e = d then code % 256 else s.supplyOf e := by
  have hne : Rg.at .powerDomainV1 [] ≠ Rg.at .powerDomainV0 [] := by decide
  unfold State.supplyOf State.setSupply
  by_cases hlow : d < 8 <;> by_cases helow : e < 8
  · rw [if_pos hlow, if_pos helow, if_pos helow, State.rv_setv_same h]
    by_cases heq : e = d
    · rw [if_pos heq, heq, getBits_putBits_byte _ _ _ hlow]
    · rw [if_neg heq, getBits_putBits_byte_ne _ _ hlow heq]
  · rw [if_pos hlow, if_neg helow, if_neg helow, State.rv_setv_ne _ _ hne, if_neg (by omega)]
  · rw [if_neg hlow, if_pos helow, if_pos helow, State.rv_setv_ne _ _ hne.symm, if_neg (by omega)]
  · rw [if_neg hlow, if_neg helow, if_neg helow, State.rv_setv_same h]
    by_cases heq : e = d
    · rw [if_pos heq, heq, getBits_putBits_byte _ _ _ (by omega)]
    · rw [if_neg heq, getBits_putBits_byte_ne _ _ (by omega) (by omega)]

/-- Every powered domain of a list takes a supply code of its own. -/
def State.takeSupplies (s : State) (code : Nat → Nat) (l : List Nat) : State :=
  l.foldl (fun t d => if t.domainOn d then t.setSupply d (code d) else t) s

theorem State.setSupply_wf (h : s.wf = true) (d code : Nat) : (s.setSupply d code).wf = true := by
  unfold State.setSupply
  split
  · exact State.setv_wf h _ _ _
  · exact State.setv_wf h _ _ _

theorem State.takeSupplies_onlyRegs (code : Nat → Nat) (l : List Nat) : s.onlyRegs (s.takeSupplies code l) supplyRegs := by
  induction l generalizing s with
  | nil => exact s.onlyRegs_refl _
  | cons d l ih =>
    rw [State.takeSupplies, List.foldl_cons]
    split
    · exact ((s.setSupply_onlyRegs d (code d)).trans ih).mono (by simp)
    · exact ih

theorem State.takeSupplies_wf (h : s.wf = true) (code : Nat → Nat) (l : List Nat) : (s.takeSupplies code l).wf = true := by
  induction l generalizing s with
  | nil => exact h
  | cons d l ih =>
    rw [State.takeSupplies, List.foldl_cons]
    split
    · exact ih (State.setSupply_wf h _ _)
    · exact ih h

theorem State.supplyOf_takeSupplies (h : s.wf = true) (code : Nat → Nat) {l : List Nat} (hl : ∀ d ∈ l, d < 16) {e : Nat}
    (he : e < 16) :
    (s.takeSupplies code l).supplyOf e = if e ∈ l ∧ s.domainOn e = true then code e % 256 else s.supplyOf e := by
  induction l generalizing s with
  | nil => exact (if_neg (fun c => List.not_mem_nil c.1)).symm
  | cons d l ih =>
    have hd : d < 16 := hl d List.mem_cons_self
    have hl : ∀ d ∈ l, d < 16 := fun x hx => hl x (List.mem_cons_of_mem _ hx)
    rw [State.takeSupplies, List.foldl_cons]
    split
    next hon =>
      refine (ih (State.setSupply_wf h _ _) hl).trans ?_
      rw [(s.setSupply_onlyRegs d (code d)).domainOn, State.supplyOf_setSupply h hd _ _ he]
      by_cases heq : e = d
      · subst heq
        simp [hon]
      · simp [heq]
    next hoff =>
      refine (ih h hl).trans ?_
      by_cases heq : e = d
      · subst heq
        simp [hoff]
      · simp [heq]

theorem State.setSupplies_eq (s : State) (code : Nat) : s.setSupplies code = s.takeSupplies (fun _ => code) (List.range 16) := rfl

theorem State.lowSupply_lt (s : State) : s.lowSupply < 256 := by
  unfold State.lowSupply
  omega
end

/-! ### The brake -/

section
variable {s : State}

/-- L after the brake (R513, R515). -/
def State.brakeLimit (s : State) : Nat :=
  if s.fv .powerPwrStatusHbLost [] = 1 ∧ 10 * s.fa .powerBrakeCfgSafeCap [] < s.brakeLevel then
    min s.brakeLevel s.power.limit
  else s.brakeLevel

theorem State.brakeTarget_lt_iff : s.brakeTarget < s.brakeLevel ↔
    s.fv .powerPwrStatusHbLost [] = 1 ∧ 10 * s.fa .powerBrakeCfgSafeCap [] < s.brakeLevel := by
  unfold State.brakeTarget
  split <;> simp_all

/-- The power controller with the limit of the brake and no ramp. -/
def State.brakePower (s : State) : Power := { s.power with ramp := none, limit := s.brakeLimit }

/-- The limit of the brake is in force and shown, and L no longer climbs; the supplies are as they were. -/
def State.limited (s : State) : State :=
  ((s.setPower s.brakePower).setf .powerPwrStatusLimitNow [] (s.brakeLimit / 10)).setf
    .powerPwrStatusClimbing [] 0

theorem State.brake_eq (s : State) : s.brake = s.limited.setSupplies s.lowSupply := by
  have hl : (if s.brakeTarget < s.brakeLevel then min s.brakeLevel s.power.limit else s.brakeLevel) = s.brakeLimit := by
    simp only [State.brakeTarget_lt_iff, State.brakeLimit]
  unfold State.limited State.brakePower
  rw [← hl]
  rfl

theorem State.limited_wf (h : s.wf = true) : s.limited.wf = true :=
  State.setf_wf (State.setf_wf (s := s.setPower _) h _ _ _) _ _ _

theorem State.limited_limitNow (h : s.wf = true) :
    s.limited.fv .powerPwrStatusLimitNow [] = s.brakeLimit / 10 % 1024 := by
  have hp : (s.setPower s.brakePower).wf = true := h
  rw [State.limited, State.fv_setf_disjoint (State.setf_wf hp _ _ _) (by rfl) [] 0 (by decide) (by decide) (by decide)]
  exact State.fv_setf_same hp _ _ _ (by decide) (by decide)

theorem State.limited_climbing (h : s.wf = true) : s.limited.fv .powerPwrStatusClimbing [] = 0 := by
  have hp : (s.setPower s.brakePower).wf = true := h
  exact State.fv_setf_same (State.setf_wf hp _ _ _) _ _ _ (by decide) (by decide)

theorem State.limited_brakeCauses (h : s.wf = true) :
    s.limited.fv .powerPwrStatusBrakeCauses [] = s.fv .powerPwrStatusBrakeCauses [] := by
  have hp : (s.setPower s.brakePower).wf = true := h
  rw [State.limited, State.fv_setf_disjoint (State.setf_wf hp _ _ _) (by rfl) [] 0 (by decide) (by decide) (by decide),
    State.fv_setf_disjoint hp (by rfl) [] _ (by decide) (by decide) (by decide)]
  rfl

theorem State.limited_rv {r : Rg} {ix : List Nat} (hr : r.at ix ≠ Rg.at .powerPwrStatus []) :
    s.limited.rv r ix = s.rv r ix := by
  unfold State.limited State.setf
  rw [State.rv_setv_ne _ _ hr, State.rv_setv_ne _ _ hr]
  rfl

theorem State.limited_supplyOf (d : Nat) : s.limited.supplyOf d = s.supplyOf d := by
  unfold State.supplyOf
  rw [State.limited_rv (by decide), State.limited_rv (by decide)]

theorem State.limited_domainOn (d : Nat) : s.limited.domainOn d = s.domainOn d := by
  unfold State.domainOn
  rw [State.limited_rv (by decide)]

theorem State.brake_onlyRegs : s.limited.onlyRegs s.brake supplyRegs := by
  rw [State.brake_eq, State.setSupplies_eq]
  exact State.takeSupplies_onlyRegs _ _

theorem State.brake_wf (h : s.wf = true) : s.brake.wf = true := by
  rw [State.brake_eq, State.setSupplies_eq]
  exact State.takeSupplies_wf (State.limited_wf h) _ _

theorem State.brake_supplyOf (h : s.wf = true) {d : Nat} (hd : d < 16) :
    s.brake.supplyOf d = if s.domainOn d = true then s.lowSupply else s.supplyOf d := by
  rw [State.brake_eq, State.setSupplies_eq,
    State.supplyOf_takeSupplies (State.limited_wf h) _ (fun _ => List.mem_range.1) hd, State.limited_domainOn,
    State.limited_supplyOf, Nat.mod_eq_of_lt s.lowSupply_lt]
  simp [hd]

/-- The brake counted, and the module in state BRAKE. -/
theorem State.braked_noted (s : State) (cls : Nat) :
    ((s.brake.bump .powerBrakes [] 1).setf .powerPwrStatusState [] 1).Noted ((s.brake.bump .powerBrakes [] 1).enterPower 1 cls) :=
  State.enterPower_noted _ _ _
end

theorem State.causeSet_noted (s : State) (cause : Nat) {event : Fld} (h : event.reg.at [] ∈ noteAddrs) :
    (s.setf .powerPwrStatusBrakeCauses [] (s.fv .powerPwrStatusBrakeCauses [] ||| 2 ^ cause)).Noted (s.causeSet cause event) :=
  State.powerEvent_noted _ h

/-- Settles O23: the cause is set, then the limit, then the supplies; the count and the state are beside them. -/
theorem brakeSetsLimitAndSupplies : Obligations.BrakeSetsLimitAndSupplies := by
  unfold Obligations.BrakeSetsLimitAndSupplies
  intro s hwf hrun
  have hexec : exec .pwrBrakeNAssert s =
      .next (((s.causeSet 0 .powerEventsPin).brake.bump .powerBrakes [] 1).enterPower 1 5) :=
    congrArg Host.Outcome.next (State.raiseBrake_of_run hrun 0 .powerEventsPin)
  refine ⟨_, hexec, ?_⟩
  clear hexec
  -- the cause is set
  have hset := s.causeSet_noted 0 (event := .powerEventsPin) (by decide)
  have hwf' := hset.wf (State.setf_wf hwf _ _ _)
  have hcauses : (s.causeSet 0 .powerEventsPin).fv .powerPwrStatusBrakeCauses [] =
      (s.fv .powerPwrStatusBrakeCauses [] ||| 1) % 32 := by
    rw [hset.fv _ _ (by decide)]
    exact State.fv_setf_same hwf _ _ _ (by decide) (by decide)
  have hlost : (s.causeSet 0 .powerEventsPin).fv .powerPwrStatusHbLost [] = s.fv .powerPwrStatusHbLost [] := by
    rw [hset.fv _ _ (by decide)]
    rw [State.fv_setf_disjoint hwf (by rfl) [] _ (by decide) (by decide) (by decide)]
  have hbrakes : (s.causeSet 0 .powerEventsPin).rv .powerBrakes [] = s.rv .powerBrakes [] :=
    (hset.val _ _ (by decide)).trans (State.rv_setv_ne _ _ (by decide))
  have hsupply (d : Nat) : (s.causeSet 0 .powerEventsPin).supplyOf d = s.supplyOf d := by
    rw [hset.supplyOf]
    unfold State.supplyOf State.setf
    rw [State.rv_setv_ne _ _ (by decide), State.rv_setv_ne _ _ (by decide)]
  have hon (d : Nat) : (s.causeSet 0 .powerEventsPin).domainOn d = s.domainOn d := by
    rw [hset.domainOn]
    unfold State.domainOn State.setf
    rw [State.rv_setv_ne _ _ (by decide)]
  have hlow : (s.causeSet 0 .powerEventsPin).lowSupply = min 20 (s.fa .powerFabricVmaxCode []) := by
    rw [State.lowSupply, hset.fa]
    rfl
  have hlimit : (s.causeSet 0 .powerEventsPin).brakeLimit =
      if s.fv .powerPwrStatusHbLost [] = 1 ∧ 10 * s.fa .powerBrakeCfgSafeCap [] < 10 * s.fa .powerBrakeCfgBrakeLevel [] then
        min (10 * s.fa .powerBrakeCfgBrakeLevel []) s.power.limit
      else 10 * s.fa .powerBrakeCfgBrakeLevel [] := by
    unfold State.brakeLimit State.brakeLevel
    rw [hlost, hset.fa, hset.fa, hset.power]
    rfl
  generalize s.causeSet 0 .powerEventsPin = u at *
  -- the brake, its count, the state
  have hb : u.limited.onlyRegs u.brake supplyRegs := State.brake_onlyRegs
  have hbwf := State.brake_wf hwf'
  have hcwf : (u.brake.bump .powerBrakes [] 1).wf = true := State.setv_wf hbwf _ _ _
  have hn := u.braked_noted 5
  have hfield {f : Fld} (hf : f.reg = .powerPwrStatus) (hd : f.hi < 61) :
      ((u.brake.bump .powerBrakes [] 1).setf .powerPwrStatusState [] 1).fv f [] = u.limited.fv f [] := by
    rw [State.fv_setf_disjoint hcwf hf _ _ (by decide) (by decide) (Or.inl hd), State.fv, State.bump,
      State.rv_setv_ne _ _ (by rw [hf]; decide)]
    exact hb.fv f [] (by rw [hf]; decide)
  refine ⟨?_, ?_, ?_, ?_, ?_, ?_, ?_, fun d hd => ?_⟩
  · rw [← hlimit]
    exact (congrArg Power.limit (hn.power.trans hb.power))
  · exact (congrArg Power.ramp (hn.power.trans hb.power))
  · rw [← hlimit]
    exact ((hn.fv _ _ (by decide)).trans (hfield rfl (by decide))).trans (State.limited_limitNow hwf')
  · exact ((hn.fv _ _ (by decide)).trans (hfield rfl (by decide))).trans (State.limited_climbing hwf')
  · exact hn.powerState.trans (State.fv_setf_same hcwf _ _ _ (by decide) (by decide))
  · refine ((hn.fv _ _ (by decide)).trans (hfield rfl (by decide))).trans ?_
    rw [State.limited_brakeCauses hwf', hcauses]
  · rw [hn.val .powerBrakes [] (by decide), State.setf, State.rv_setv_ne _ _ (by decide), State.bump_same hbwf, hb.rv _ _ (by decide),
      State.limited_rv (by decide), hbrakes]
  · rw [hn.supplyOf]
    refine Eq.trans ?_ ((State.brake_supplyOf hwf' hd).trans ?_)
    · unfold State.supplyOf State.setf State.bump
      rw [State.rv_setv_ne _ _ (by decide), State.rv_setv_ne _ _ (by decide), State.rv_setv_ne _ _ (by decide),
        State.rv_setv_ne _ _ (by decide)]
    · rw [hon, hsupply, hlow]
end Sys2Proof.Machine
end

section
/-! SUPPORT. A control interval (R510 to R512, R522): the registers that each of its parts writes, the limit, and the tokens that
the pacer gives. -/

namespace Sys2Proof.Machine

/-! ### The registers that an operation writes -/

/-- At most the words at some addresses differ; the active copy of settings and the partitions stay. -/
structure State.Touches (l : List Nat) (s t : State) : Prop where
  act : t.regs.act = s.regs.act
  parts : t.parts = s.parts
  val : ∀ r ix, Rg.at r ix ∉ l → t.rv r ix = s.rv r ix

namespace State.Touches
variable {s t u : State} {l m : List Nat}

theorem refl (s : State) : s.Touches l s := ⟨rfl, rfl, fun _ _ _ => rfl⟩

theorem trans (h : s.Touches l t) (k : t.Touches m u) : s.Touches (l ++ m) u where
  act := k.act.trans h.act
  parts := k.parts.trans h.parts
  val r ix hr := by
    rw [List.mem_append, not_or] at hr
    exact (k.val r ix hr.2).trans (h.val r ix hr.1)

theorem mono (h : s.Touches l t) (hl : ∀ a ∈ l, a ∈ m) : s.Touches m t :=
  ⟨h.act, h.parts, fun r ix hr => h.val r ix (fun c => hr (hl _ c))⟩

/-- Two changes within the same addresses. -/
theorem append (h : s.Touches l t) (k : t.Touches l u) : s.Touches l u :=
  (h.trans k).mono (by simp)

theorem fv (h : s.Touches l t) (f : Fld) (ix : List Nat) (hf : f.reg.at ix ∉ l) : t.fv f ix = s.fv f ix := by
  unfold State.fv
  rw [h.val _ _ hf]

theorem fa (h : s.Touches l t) (f : Fld) (ix : List Nat) : t.fa f ix = s.fa f ix := by
  unfold State.fa State.ra
  rw [h.act]

theorem part (h : s.Touches l t) (p : Nat) : t.part p = s.part p := State.part_of_parts h.parts p

theorem foldl {α : Type} {f : State → α → State} {xs : List α} (h : ∀ x ∈ xs, ∀ u : State, u.Touches l (f u x)) (s : State) :
    s.Touches l (xs.foldl f s) := by
  induction xs generalizing s with
  | nil => exact .refl s
  | cons x xs ih =>
    exact (h x List.mem_cons_self s).append (ih (fun y hy => h y (List.mem_cons_of_mem _ hy)) _)
end State.Touches

section
variable (s : State)

theorem State.setv_touches {r : Rg} {ix : List Nat} {l : List Nat} (h : r.at ix ∈ l) (w : Word) : s.Touches l (s.setv r ix w) :=
  ⟨rfl, rfl, fun _ _ hq => State.rv_setv_ne s w (fun e => hq (e ▸ h))⟩

theorem State.setPower_touches (x : Power) (l : List Nat) : s.Touches l (s.setPower x) := ⟨rfl, rfl, fun _ _ _ => rfl⟩

variable {s}

theorem State.Noted.touches {t : State} (h : s.Noted t) : s.Touches noteAddrs t :=
  ⟨h.act, by rw [h.rest], h.val⟩

theorem State.onlyRegs.touches {t : State} {l : List (Rg × List Nat)} (h : s.onlyRegs t l) :
    s.Touches (l.map (fun x => x.1.at x.2)) t :=
  ⟨by rw [h.1]; rfl, by rw [h.1]; rfl, fun r ix hr => h.2 _ hr⟩

/-! ### The measurement -/

/-- The registers of the stacks' temperatures. -/
def stackAddrs : List Nat := (List.range 32).map (fun i => Rg.at .hbmStackStatus [i / 4, i % 4])

/-- The registers that a measurement shows. -/
def measureAddrs : List Nat := [Rg.at .powerSupply [], Rg.at .powerTemp0 [], Rg.at .powerTemp1 []] ++ stackAddrs

variable (s)

theorem State.stackTemps_touches (l : List Nat) : s.Touches stackAddrs (s.stackTemps l) := by
  refine .foldl (fun i hi u => ?_) s
  have hmem : Rg.at .hbmStackStatus [i / 4, i % 4] ∈ stackAddrs := List.mem_map_of_mem hi
  split
  · exact (u.setv_touches hmem _).append (State.setv_touches _ hmem _)
  · exact .refl u

/-- What every step of a fold leaves, the fold leaves. -/
theorem State.foldl_stays {α β : Type} {f : State → α → State} {xs : List α} (g : State → β)
    (h : ∀ x ∈ xs, ∀ u, g (f u x) = g u) : g (xs.foldl f s) = g s := by
  induction xs generalizing s with
  | nil => rfl
  | cons x xs ih =>
    exact (ih (f s x) (fun y hy => h y (List.mem_cons_of_mem _ hy))).trans (h x List.mem_cons_self s)

theorem State.stackTemps_power (l : List Nat) : (s.stackTemps l).power = s.power := by
  refine State.foldl_stays s State.power (fun i _ u => ?_)
  split <;> rfl

/-- The word of SUPPLY after a measurement (R510). -/
def supplyWord (m : PowerSample) : Word := putBits (putBits (putBits 0 63 48 m.vIn) 47 32 m.iIn) 15 0 m.pIn

/-- The power controller after a measurement. -/
def State.measuredPower (m : PowerSample) : Power :=
  { s.power with temps := (m.dies ++ List.replicate 8 0).take 8 ++ [m.hub], vMin := min s.power.vMin m.vIn }

theorem State.measure_power (m : PowerSample) : (s.measure m).power = s.measuredPower m := by
  unfold State.measure State.measuredPower
  simp only [State.setPower_power, State.stackTemps_power]
  rfl

theorem State.measure_touches (m : PowerSample) : s.Touches measureAddrs (s.measure m) := by
  refine .append ?_ (State.setPower_touches _ _ _)
  refine .append ?_ ((State.stackTemps_touches _ _).mono fun a ha => List.mem_append_right _ ha)
  exact ((s.setv_touches (by decide) _).append (State.setv_touches _ (by decide) _)).append (State.setv_touches _ (by decide) _)

theorem supply_not_stack : Rg.at .powerSupply [] ∉ stackAddrs := by decide

theorem State.measure_supply {s : State} (h : s.wf = true) (m : PowerSample) : (s.measure m).rv .powerSupply [] = (supplyWord m) := by
  have hset : (s.setv .powerSupply [] (supplyWord m)).rv .powerSupply [] = (supplyWord m) := State.rv_setv_same h _ _ _
  refine Eq.trans ?_ hset
  refine ((State.stackTemps_touches _ _).val _ _ supply_not_stack).trans ?_
  rw [State.rv_setv_ne _ _ (q := .powerSupply) (jx := []) (by decide), State.rv_setv_ne _ _ (q := .powerSupply) (jx := []) (by decide)]
  rfl
end

/-! ### The limit and the supplies -/

section
variable {s : State}

/-- With the cap at or above PARK_BELOW, the heartbeat there and the cause not held, CAP parks nothing (R514). -/
theorem State.checkParkCap_of_quiet (hcap : s.fa .powerBrakeCfgParkBelow [] ≤ s.fa .powerCapLimit [])
    (hlost : s.fv .powerPwrStatusHbLost [] = 0) (hpark : (s.fv .powerPwrStatusParkCauses []).testBit 0 = false) :
    s.checkParkCap = s := by
  unfold State.checkParkCap
  dsimp only
  rw [if_neg (by omega)]
  exact State.clearPark_of_not_held hpark

/-- L after an interval in RUN without a ramp (R511). -/
def State.nextLimit (s : State) : Nat := toward s.power.limit (10 * s.fa .powerCapLimit []) 40

theorem State.limitTarget_of_heard (hlost : s.fv .powerPwrStatusHbLost [] = 0) :
    s.limitTarget = 10 * s.fa .powerCapLimit [] := by
  unfold State.limitTarget
  dsimp only
  rw [if_neg (by omega)]

theorem State.stepLimit_of_run (hrun : s.powerState = 0) (hramp : s.power.ramp = none)
    (hlost : s.fv .powerPwrStatusHbLost [] = 0) :
    s.stepLimit = if s.nextLimit = 10 * s.fa .powerCapLimit [] then
      (s.setLimit s.nextLimit).setf .powerPwrStatusClimbing [] 0 else s.setLimit s.nextLimit := by
  unfold State.stepLimit
  rw [if_neg (by omega), if_pos hrun, hramp]
  dsimp only
  rw [State.limitTarget_of_heard hlost]
  rfl

theorem State.setLimit_touches (s : State) (l : Nat) : s.Touches [Rg.at .powerPwrStatus []] (s.setLimit l) :=
  (s.setPower_touches _ _).append (State.setv_touches _ (by decide) _)

theorem State.stepLimit_touches (hrun : s.powerState = 0) (hramp : s.power.ramp = none)
    (hlost : s.fv .powerPwrStatusHbLost [] = 0) : s.Touches [Rg.at .powerPwrStatus []] s.stepLimit := by
  rw [State.stepLimit_of_run hrun hramp hlost]
  split
  · exact (s.setLimit_touches _).append (State.setv_touches _ (by decide) _)
  · exact s.setLimit_touches _

theorem State.stepLimit_power (hrun : s.powerState = 0) (hramp : s.power.ramp = none)
    (hlost : s.fv .powerPwrStatusHbLost [] = 0) : s.stepLimit.power = { s.power with limit := s.nextLimit } := by
  rw [State.stepLimit_of_run hrun hramp hlost]
  split <;> rfl

/-- The addresses of the supply codes. -/
def supplyAddrs : List Nat := supplyRegs.map (fun x => x.1.at x.2)

theorem State.nextSupplies_touches (s : State) (aim : Nat) : s.Touches supplyAddrs (s.nextSupplies aim) := by
  unfold State.nextSupplies
  split
  · exact .refl s
  · exact (State.takeSupplies_onlyRegs (fun d => s.nextSupply d aim) (List.range 16)).touches.append (State.setPower_touches _ _ _)

/-- The supplies of an interval leave the limit, the throttled dies and the measured temperatures. -/
theorem State.nextSupplies_power (s : State) (aim : Nat) : (s.nextSupplies aim).power.limit = s.power.limit ∧
    (s.nextSupplies aim).power.throttled = s.power.throttled ∧ (s.nextSupplies aim).power.temps = s.power.temps := by
  have h := (State.takeSupplies_onlyRegs (s := s) (fun d => s.nextSupply d aim) (List.range 16)).power
  unfold State.nextSupplies
  split
  · exact ⟨rfl, rfl, rfl⟩
  · exact ⟨(congrArg Power.limit h :), (congrArg Power.throttled h :), (congrArg Power.temps h :)⟩
end

/-! ### The pacer -/

section
variable (s : State)

theorem State.part_setPart_ne {p q : Nat} (x : Part) (h : q ≠ p) : (s.setPart p x).part q = s.part q :=
  tabGet_tabSet_ne _ _ _ h

/-- The end of zero rate leaves of the power controller all but the zero rate. -/
theorem State.endZeroRate_power : s.endZeroRate.power = { s.power with zeroRate := false } := by
  unfold State.endZeroRate
  split
  · refine State.foldl_stays _ State.power (fun p _ u => ?_)
    split <;> rfl
  next hz => rw [← Bool.eq_false_iff.2 hz]

theorem State.endZeroRate_regs : s.endZeroRate.regs = s.regs := by
  unfold State.endZeroRate
  split
  · refine State.foldl_stays _ State.regs (fun p _ u => ?_)
    split <;> rfl
  · rfl

/-- The end of zero rate starts the stall watches anew: of a partition the firing step and the tokens stay (R107, R512). -/
theorem State.endZeroRate_part {β : Type} (g : Part → β) (hg : ∀ x w, g { x with progress := w } = g x) (p : Nat) :
    g (s.endZeroRate.part p) = g (s.part p) := by
  unfold State.endZeroRate
  split
  · refine State.foldl_stays _ (fun u => g (u.part p)) (fun q _ u => ?_)
    dsimp only
    split
    · by_cases hq : p = q
      · subst hq
        rw [State.part_setPart, hg]
      · rw [State.part_setPart_ne _ _ hq]
    · rfl
  · rfl

variable {s}

/-- The pacer gives tokens to the partitions with work alone (R512). -/
theorem State.refill_part {p : Nat} (hp : s.paceParts.contains p = false) (n : Nat) : (s.refill n).part p = s.part p := by
  refine State.foldl_stays s (fun u => u.part p) (fun q hq u => State.part_setPart_ne _ _ (fun e => ?_))
  subst e
  rw [List.contains_iff_mem.2 hq] at hp
  exact absurd hp (by decide)

theorem State.refill_regs (n : Nat) : (s.refill n).regs = s.regs :=
  State.foldl_stays s State.regs (fun _ _ _ => rfl)

theorem State.refill_power (n : Nat) : (s.refill n).power = s.power :=
  State.foldl_stays s State.power (fun _ _ _ => rfl)

/-- The partitions with work are known by PART_STATUS and the firing steps. -/
theorem State.paceParts_congr {t : State} (hst : ∀ p, p < 32 → t.rv .partStatus [p] = s.rv .partStatus [p])
    (hf : ∀ p, (t.part p).firing = (s.part p).firing) : t.paceParts = s.paceParts := by
  unfold State.paceParts
  refine List.filter_congr (fun p hp => ?_)
  rw [hf, State.formed, State.formed, State.fv, State.fv]
  rw [show Fld.partStatusActive.reg = .partStatus from rfl, hst p (List.mem_range.1 hp)]
end

/-! ### The interval -/

section
variable (s : State) (m : PowerSample)

/-- The measured state with the dies that are throttled, and those that cool, after the measurement (R510, R522). -/
def State.judged : State :=
  let t := (s.setPower { s.power with boundary := true }).measure m
  let old := s.power.throttled
  let th := throttle old m.dies
  t.setPower { t.power with throttled := th, cooling := (List.range 8).filter (fun k =>
    !th.contains k && (old.contains k || s.power.cooling.contains k)) }

/-- The events of a measurement: a die newly throttled, and the limit exceeded. -/
def State.sampleEvents : State :=
  let t := if (throttle s.power.throttled m.dies).any (fun k => !s.power.throttled.contains k) then
    (s.judged m).powerEvent .powerEventsThrottle else s.judged m
  if m.exceeded then t.powerEvent .powerEventsOverLimit else t

/-- The pacer stands at zero rate in BRAKE where it is given no firing, and leaves it otherwise (R512). -/
def State.rated (n : Nat) : State :=
  if decide (s.powerState = 1) && n == 0 then s.setPower { s.power with zeroRate := true } else s.endZeroRate

theorem execControlInterval_of_running {s : State} (h : s.powerState < 3) {t : State}
    (ht : t = (s.sampleEvents m).checkParkCap.stepLimit.nextSupplies m.supply) :
    execControlInterval m s = .next ((t.rated (t.grant m.refill)).refill (t.grant m.refill)) := by
  subst ht
  exact if_neg (by omega)

theorem State.sampleEvents_noted : (s.judged m).Noted (s.sampleEvents m) := by
  have hthrottled : (s.judged m).Noted (if (throttle s.power.throttled m.dies).any (fun k => !s.power.throttled.contains k) then
      (s.judged m).powerEvent .powerEventsThrottle else s.judged m) := by
    split
    · exact State.powerEvent_noted _ (by decide)
    · exact .refl _
  unfold State.sampleEvents
  dsimp only
  split
  · exact hthrottled.trans (State.powerEvent_noted _ (by decide))
  · exact hthrottled

theorem State.judged_touches : s.Touches measureAddrs (s.judged m) :=
  ((s.setPower_touches _ _).append (State.measure_touches _ m)).append (State.setPower_touches _ _ _)

theorem State.judged_supply {s : State} (h : s.wf = true) : (s.judged m).rv .powerSupply [] = supplyWord m :=
  State.measure_supply (s := s.setPower { s.power with boundary := true }) h m

/-- A measurement leaves the limit and its ramp, and keeps the junctions and the throttled dies. -/
theorem State.judged_power : (s.judged m).power.limit = s.power.limit ∧ (s.judged m).power.ramp = s.power.ramp ∧
    (s.judged m).power.throttled = throttle s.power.throttled m.dies ∧
    (s.judged m).power.temps = (m.dies ++ List.replicate 8 0).take 8 ++ [m.hub] := by
  have h := State.measure_power (s.setPower { s.power with boundary := true }) m
  exact ⟨(congrArg Power.limit h :), (congrArg Power.ramp h :), rfl, (congrArg Power.temps h :)⟩

theorem State.rated_power (n : Nat) : ∃ z, (s.rated n).power = { s.power with zeroRate := z } := by
  unfold State.rated
  split
  · exact ⟨true, rfl⟩
  · exact ⟨false, s.endZeroRate_power⟩

theorem State.rated_regs (n : Nat) : (s.rated n).regs = s.regs := by
  unfold State.rated
  split
  · rfl
  · exact s.endZeroRate_regs

theorem State.rated_part {β : Type} (g : Part → β) (hg : ∀ x w, g { x with progress := w } = g x) (n p : Nat) :
    g ((s.rated n).part p) = g (s.part p) := by
  unfold State.rated
  split
  · rfl
  · exact s.endZeroRate_part g hg p
end

/-- The registers that a control interval in RUN writes. -/
def intervalAddrs : List Nat := measureAddrs ++ noteAddrs ++ [Rg.at .powerPwrStatus []] ++ supplyAddrs

theorem partStatus_not_interval : ∀ p, p < 32 → Rg.at .partStatus [p] ∉ intervalAddrs := by decide

theorem getBits_supplyWord (m : PowerSample) : getBits (supplyWord m) 63 48 = m.vIn % 2 ^ 16 ∧
    getBits (supplyWord m) 47 32 = m.iIn % 2 ^ 16 ∧ getBits (supplyWord m) 15 0 = m.pIn % 2 ^ 16 := by
  unfold supplyWord
  refine ⟨?_, ?_, ?_⟩
  · rw [getBits_putBits_disjoint _ _ _ _ _ _ (by decide) (by decide) (by decide),
      getBits_putBits_disjoint _ _ _ _ _ _ (by decide) (by decide) (by decide)]
    exact getBits_putBits_same _ _ _ _ (by decide) (by decide)
  · rw [getBits_putBits_disjoint _ _ _ _ _ _ (by decide) (by decide) (by decide)]
    exact getBits_putBits_same _ _ _ _ (by decide) (by decide)
  · exact getBits_putBits_same _ _ _ _ (by decide) (by decide)

/-- Settles O25: the measurement, the limit, the supplies and the pacer each leave what the others have shown. -/
theorem controlIntervalMeasuresAndLimits : Obligations.ControlIntervalMeasuresAndLimits := by
  unfold Obligations.ControlIntervalMeasuresAndLimits
  intro s m hwf hrun hramp hlost hpark hcap
  have hnow := exec_keeps (c := .controlInterval m) (by simp) (by simp) s
  have hexec : exec (.controlInterval m) s = _ := execControlInterval_of_running m (by omega) rfl
  rw [hexec] at hnow ⊢
  refine ⟨_, rfl, ?_⟩
  clear hexec
  -- the measurement and its events
  obtain ⟨hlimit, hnoramp, hthrottled, htemps⟩ := s.judged_power m
  have hsampled := s.judged_touches m
  have hevents := s.sampleEvents_noted m
  have hseen := hsampled.trans hevents.touches
  have hword := (hevents.val .powerSupply [] (by decide)).trans (State.judged_supply m hwf)
  rw [← hevents.power] at hlimit hnoramp hthrottled htemps
  have hquiet : (s.sampleEvents m).checkParkCap = s.sampleEvents m := State.checkParkCap_of_quiet
    (by rw [hseen.fa, hseen.fa]; exact hcap) ((hseen.fv _ _ (by decide)).trans hlost)
    (by rw [hseen.fv _ _ (by decide)]; exact hpark)
  rw [hquiet] at hnow ⊢
  have hrun' : (s.sampleEvents m).powerState = 0 := (hseen.fv _ _ (by decide)).trans hrun
  have hlost' : (s.sampleEvents m).fv .powerPwrStatusHbLost [] = 0 := (hseen.fv _ _ (by decide)).trans hlost
  generalize s.sampleEvents m = u at *
  -- the limit and the supplies
  have hstep := State.stepLimit_touches hrun' (hnoramp.trans hramp) hlost'
  have hsteppower := State.stepLimit_power hrun' (hnoramp.trans hramp) hlost'
  obtain ⟨hl, ht, hj⟩ := u.stepLimit.nextSupplies_power m.supply
  have hafter := hstep.trans (u.stepLimit.nextSupplies_touches m.supply)
  rw [hsteppower] at hl ht hj
  generalize u.stepLimit.nextSupplies m.supply = v at *
  have hregs : ((v.rated (v.grant m.refill)).refill (v.grant m.refill)).regs = v.regs :=
    (State.refill_regs _).trans (v.rated_regs _)
  obtain ⟨z, hz⟩ := v.rated_power (v.grant m.refill)
  have hpower := (State.refill_power (s := v.rated (v.grant m.refill)) (v.grant m.refill)).trans hz
  have hsupply : ((v.rated (v.grant m.refill)).refill (v.grant m.refill)).rv .powerSupply [] = supplyWord m := by
    unfold State.rv
    rw [hregs]
    exact (hafter.val .powerSupply [] (by decide)).trans hword
  obtain ⟨hv, hi, hp⟩ := getBits_supplyWord m
  refine ⟨?_, ?_, ?_, ?_, ?_, ?_, fun p hp => ?_, ?_⟩
  · exact (congrArg (getBits · 63 48) hsupply).trans hv
  · exact (congrArg (getBits · 47 32) hsupply).trans hi
  · exact (congrArg (getBits · 15 0) hsupply).trans hp
  · rw [hpower, hl, State.nextLimit, hlimit, hseen.fa]
  · rw [hpower, ht, hthrottled]
  · rw [hpower, hj, htemps]
  · -- a partition without work
    have hpace : (v.rated (v.grant m.refill)).paceParts = s.paceParts := by
      refine State.paceParts_congr (fun q hq => ?_) (fun q => ?_)
      · unfold State.rv
        rw [v.rated_regs]
        exact (hseen.trans hafter).val .partStatus [q] (fun c => partStatus_not_interval q hq (by
          simpa [intervalAddrs, List.append_assoc] using c))
      · rw [v.rated_part Part.firing (fun _ _ => rfl), (hseen.trans hafter).part]
    rw [State.refill_part (by rw [hpace]; exact hp), v.rated_part Part.tokens (fun _ _ => rfl), (hseen.trans hafter).part]
  · cases hnow with
    | next h => exact h.clock
end Sys2Proof.Machine
end

section
/-! SUPPORT. The end of partitions and domains (R508, R517, R518, R571): what a domain that is switched off leaves of the state, and
what no partition outlives. -/

namespace Sys2Proof.Machine

/-! ### Switching domains off -/

/-- The words that say which domains are on and which partitions are formed. -/
def runAddrs : List Nat := Rg.at .powerDomainOn [] :: (List.range 32).map (fun p => Rg.at .partStatus [p])

theorem domainOn_mem_runAddrs : Rg.at .powerDomainOn [] ∈ runAddrs := List.mem_cons_self

theorem partStatus_mem_runAddrs {p : Nat} (h : p < 32) : Rg.at .partStatus [p] ∈ runAddrs :=
  List.mem_cons_of_mem _ (List.mem_map_of_mem (List.mem_range.2 h))

/-- Between two states the domains of a list, and no others, are switched off: partitions, their tables, the seal unit and the
firmware store stay, and the library is as its power leaves it (R397, R508). -/
structure State.Off (ds : List Nat) (s t : State) : Prop where
  on : ∀ e, t.domainOn e = (s.domainOn e && !ds.contains e)
  status : ∀ p, p < 32 → t.rv .partStatus [p] = s.rv .partStatus [p]
  wf : s.wf = true → t.wf = true
  flash : t.flash = if s.domainOn 41 && ds.contains 41 then s.flash.powerOff else s.flash
  seqs : t.seqs = s.seqs
  blocks : t.blocks = s.blocks
  dir : t.dir = s.dir
  sealUnit : t.sealUnit = s.sealUnit
  mgmt : t.mgmt = s.mgmt

theorem State.Off.trans {ds es : List Nat} {s t u : State} (h : s.Off ds t) (k : t.Off es u) : s.Off (ds ++ es) u where
  on e := by
    rw [k.on, h.on]
    simp [Bool.and_assoc]
  status p hp := (k.status p hp).trans (h.status p hp)
  wf w := k.wf (h.wf w)
  flash := by
    rw [k.flash, h.flash, h.on]
    cases s.domainOn 41 <;> cases hd : ds.contains 41 <;> simp_all
  seqs := k.seqs.trans h.seqs
  blocks := k.blocks.trans h.blocks
  dir := k.dir.trans h.dir
  sealUnit := k.sealUnit.trans h.sealUnit
  mgmt := k.mgmt.trans h.mgmt

/-- Nothing of what `Off` speaks of changes, and no domain is switched off. -/
theorem State.Off.of_same {s t : State} (hv : ∀ r ix, Rg.at r ix ∈ runAddrs → t.rv r ix = s.rv r ix)
    (hw : s.wf = true → t.wf = true) (hf : t.flash = s.flash) (hq : t.seqs = s.seqs) (hb : t.blocks = s.blocks)
    (hd : t.dir = s.dir) (hs : t.sealUnit = s.sealUnit) (hm : t.mgmt = s.mgmt) : s.Off [] t where
  on e := by
    unfold State.domainOn
    rw [hv _ _ domainOn_mem_runAddrs]
    simp
  status p hp := hv _ _ (partStatus_mem_runAddrs hp)
  wf := hw
  flash := by simp [hf]
  seqs := hq
  blocks := hb
  dir := hd
  sealUnit := hs
  mgmt := hm

section
variable (s : State)

theorem State.off_refl : s.Off [] s := .of_same (fun _ _ _ => rfl) id rfl rfl rfl rfl rfl rfl

theorem State.setv_off {r : Rg} {ix : List Nat} (h : r.at ix ∉ runAddrs) (w : Word) : s.Off [] (s.setv r ix w) :=
  .of_same (fun _ _ hq => State.rv_setv_ne s w (fun e => h (e ▸ hq))) (fun k => State.setv_wf k r ix w) rfl rfl rfl rfl rfl rfl

theorem State.setBBox_off (x : BBox) : s.Off [] (s.setBBox x) := .of_same (fun _ _ _ => rfl) id rfl rfl rfl rfl rfl rfl

theorem State.setPower_off (x : Power) : s.Off [] (s.setPower x) := .of_same (fun _ _ _ => rfl) id rfl rfl rfl rfl rfl rfl

theorem State.setPart_off (p : Nat) (x : Part) : s.Off [] (s.setPart p x) :=
  .of_same (fun _ _ _ => rfl) id rfl rfl rfl rfl rfl rfl

theorem noteAddrs_not_run : ∀ a ∈ runAddrs, a ∉ noteAddrs := by decide

variable {s}

theorem State.Noted.off {t : State} (h : s.Noted t) : s.Off [] t := by
  refine .of_same (fun r ix hr => h.val r ix (noteAddrs_not_run _ hr)) h.wf ?_ ?_ ?_ ?_ ?_ ?_ <;> rw [h.rest]

theorem State.Off.foldl {α : Type} {f : State → α → State} {xs : List α} (h : ∀ x ∈ xs, ∀ u : State, u.Off [] (f u x))
    (s : State) : s.Off [] (xs.foldl f s) := by
  induction xs generalizing s with
  | nil => exact s.off_refl
  | cons x xs ih => exact (h x List.mem_cons_self s).trans (ih (fun y hy => h y (List.mem_cons_of_mem _ hy)) _)

variable (s)

theorem State.showBBox_off : s.Off [] s.showBBox :=
  (((s.setv_off (by decide) _).trans (State.setv_off _ (by decide) _)).trans (State.setv_off _ (by decide) _)).trans
    (State.setv_off _ (by decide) _)

theorem State.drainBBox_off : s.Off [] s.drainBBox := (s.setBBox_off _).trans (State.showBBox_off _)

theorem hubD2d_not_run : ∀ k, k < 8 → Rg.at .hubD2d [k] ∉ runAddrs := by decide

theorem hubEdge_not_run : ∀ n, n < 10 → Rg.at .hubEdge [n] ∉ runAddrs := by decide

theorem edgesOf_lt {k n : Nat} (h : n ∈ edgesOf k) : n < 10 := List.mem_range.1 (List.mem_of_mem_filter h)

theorem State.setHbm_loseDie_off (k : Nat) : s.Off [] (s.setHbm (s.hbm.loseDie k)) := by
  refine .of_same (fun _ _ _ => rfl) (fun w => ?_) rfl rfl rfl rfl rfl rfl
  simp only [State.wf, Bool.and_eq_true] at w ⊢
  exact ⟨Hbm.loseDie_wf k w.1, w.2⟩

/-- The contents of every domain but the library's are outside what `Off` speaks of (R508). -/
theorem State.loseContents_off {d : Nat} (hd : d < 41) : s.Off [] (s.loseContents d) := by
  unfold State.loseContents
  split
  · exact .of_same (fun _ _ _ => rfl) id rfl rfl rfl rfl rfl rfl
  split
  · -- the periphery of a die: its HBM, its link and its edges
    have hk : d - 16 < 8 := by omega
    dsimp only
    refine State.Off.trans (ds := []) ?_ (.foldl (fun n hn u => ?_) _)
    · split
      · exact ((s.setHbm_loseDie_off _).trans (State.setv_off _ (hubD2d_not_run _ hk) _)).trans
          (State.setv_off _ (hubD2d_not_run _ hk) _)
      · exact s.setHbm_loseDie_off _
    · split
      · exact (u.setv_off (hubEdge_not_run _ (edgesOf_lt hn)) _).trans (State.setv_off _ (hubEdge_not_run _ (edgesOf_lt hn)) _)
      · exact u.off_refl
  split
  · exact .of_same (fun _ _ _ => rfl) id rfl rfl rfl rfl rfl rfl
  · rw [if_pos (by omega)]
    refine .trans (ds := []) (t := { s.setHost HostPort.reset with hubWait := [] })
      (.of_same (fun _ _ _ => rfl) id rfl rfl rfl rfl rfl rfl) (.foldl (fun p _ u => u.setPart_off _ _) _)

theorem partStatus_ne_domainOn : ∀ p, p < 32 → Rg.at .partStatus [p] ≠ Rg.at .powerDomainOn [] := by decide

theorem run_not_switched : ∀ a ∈ runAddrs, domainOfAddr a = none := by decide

/-- A domain's registers return to their reset values; none of them says what `Off` speaks of (R27). -/
theorem State.resetWhere_off (d : Nat) : s.Off [] (s.resetWhere (fun a => domainOfAddr a == some d)) := by
  refine .of_same (fun r ix hr => ?_) ((State.resetWhere_keeps (.refl s) _).wf) rfl rfl rfl rfl rfl rfl
  refine (tabGet_filter valReset s.regs.val (fun a => !(domainOfAddr a == some d)) _).trans ?_
  rw [run_not_switched _ hr]
  rfl

/-- The bit of a domain goes to 0 and no other with it. -/
theorem State.domainOn_clear (h : s.wf = true) {d : Nat} (hd : d < 64) (e : Nat) :
    (s.setv .powerDomainOn [] (putBits (s.rv .powerDomainOn []) d d 0)).domainOn e = (s.domainOn e && !([d].contains e)) := by
  unfold State.domainOn
  rw [State.rv_setv_same h, ← BitVec.getLsbD, ← BitVec.getLsbD, putBits_getLsbD _ _ _ _ _ hd le_rfl]
  by_cases he : e = d
  · subst he
    simp
  · rw [if_neg (by omega)]
    simp [he]

theorem State.clearDomain_off (h : s.wf = true) {d : Nat} (hd : d < 41) :
    s.Off [d] (s.setv .powerDomainOn [] (putBits (s.rv .powerDomainOn []) d d 0)) where
  on := s.domainOn_clear h (by omega)
  status p hp := State.rv_setv_ne _ _ (partStatus_ne_domainOn p hp)
  wf w := State.setv_wf w _ _ _
  flash := (if_neg (by simp; omega)).symm
  seqs := rfl
  blocks := rfl
  dir := rfl
  sealUnit := rfl
  mgmt := rfl

theorem State.setSupply_off (d code : Nat) : s.Off [] (s.setSupply d code) := by
  unfold State.setSupply
  split
  · exact s.setv_off (by decide) _
  · exact s.setv_off (by decide) _

/-- A domain that is off stays off. -/
theorem State.off_of_not_on {d : Nat} (h : s.domainOn d = false) : s.Off [d] s where
  on e := by
    by_cases he : e = d
    · subst he
      simp [h]
    · simp [he]
  status _ _ := rfl
  wf := id
  flash := by
    by_cases hd : d = 41
    · subst hd
      simp [h]
    · exact (if_neg (by simp; omega)).symm
  seqs := rfl
  blocks := rfl
  dir := rfl
  sealUnit := rfl
  mgmt := rfl

/-- The library's domain goes off: its contents are what the power leaves (R397). -/
theorem State.libraryOff_off (h : s.wf = true) (hon : s.domainOn 41 = true) : s.Off [41] (s.switchOff 41) := by
  have hreset := s.resetWhere_off 41
  have hclear := State.domainOn_clear (s.resetWhere (fun a => domainOfAddr a == some 41)) (hreset.wf h) (d := 41) (by decide)
  have heq : s.switchOff 41 = ((s.resetWhere (fun a => domainOfAddr a == some 41)).setv .powerDomainOn []
      (putBits ((s.resetWhere (fun a => domainOfAddr a == some 41)).rv .powerDomainOn []) 41 41 0)).setFlash s.flash.powerOff :=
    if_pos hon
  rw [heq]
  exact {
    on := fun e => (hclear e).trans (by rw [hreset.on]; simp)
    status := fun p hp => (State.rv_setv_ne _ _ (partStatus_ne_domainOn p hp)).trans (hreset.status p hp)
    wf := fun w => State.setv_wf (hreset.wf w) _ _ _
    flash := (if_pos (by simp [hon])).symm
    seqs := rfl
    blocks := rfl
    dir := rfl
    sealUnit := rfl
    mgmt := rfl }

theorem State.switchOff_off (h : s.wf = true) {d : Nat} (hd : d < 42) : s.Off [d] (s.switchOff d) := by
  by_cases hon : s.domainOn d = true
  · by_cases hlib : d = 41
    · subst hlib
      exact s.libraryOff_off h hon
    · have hlose := (s.loseContents_off (d := d) (by omega)).trans (State.resetWhere_off _ d)
      have hall := hlose.trans (State.clearDomain_off _ (hlose.wf h) (d := d) (by omega))
      rw [State.switchOff, if_pos hon]
      dsimp only
      split
      · exact hall.trans (State.setSupply_off _ d 0)
      · exact hall
  · rw [State.switchOff, if_neg hon]
    exact s.off_of_not_on (Bool.eq_false_iff.2 hon)

theorem State.switchOffAll_off (h : s.wf = true) {ds : List Nat} (hd : ∀ d ∈ ds, d < 42) : s.Off ds (s.switchOffAll ds) := by
  induction ds generalizing s with
  | nil => exact s.off_refl
  | cons d ds ih =>
    have hfirst := s.switchOff_off h (hd d List.mem_cons_self)
    exact hfirst.trans (ih _ (hfirst.wf h) (fun e he => hd e (List.mem_cons_of_mem _ he)))
end

/-! ### The end of every partition -/

section
variable (s : State)

/-- One partition's registers at its end (R517, R518). -/
def State.endPart (u : State) (p : Nat) : State :=
  (((u.setf .partStatusActive [p] 0).setv .partKillState [p] 0).setv .partPlateState [p] 0).setv .partPlateEdition [p] 0

theorem State.endPart_wf {u : State} (h : u.wf = true) (p : Nat) : (u.endPart p).wf = true :=
  State.setv_wf (State.setv_wf (State.setv_wf (State.setf_wf h _ _ _) _ _ _) _ _ _) _ _ _

@[simp] theorem State.endPart_flash (u : State) (p : Nat) : (u.endPart p).flash = u.flash := by simp [State.endPart]

@[simp] theorem State.endPart_sealUnit (u : State) (p : Nat) : (u.endPart p).sealUnit = u.sealUnit := by simp [State.endPart]

@[simp] theorem State.endPart_mgmt (u : State) (p : Nat) : (u.endPart p).mgmt = u.mgmt := by simp [State.endPart]

theorem endPart_ne_status (p q : Nat) : Rg.at .partStatus [p] ≠ Rg.at .partKillState [q] ∧
    Rg.at .partStatus [p] ≠ Rg.at .partPlateState [q] ∧ Rg.at .partStatus [p] ≠ Rg.at .partPlateEdition [q] := by
  simp only [Rg.at, Rg.spec, List.zipWith_cons_cons, List.zipWith_nil_left, List.foldl_cons, List.foldl_nil]
  omega

theorem status_ne_status {p q : Nat} (h : p ≠ q) : Rg.at .partStatus [p] ≠ Rg.at .partStatus [q] := by
  simp only [Rg.at, Rg.spec, List.zipWith_cons_cons, List.zipWith_nil_left, List.foldl_cons, List.foldl_nil]
  omega

theorem State.endPart_status {u : State} (h : u.wf = true) (p q : Nat) :
    (u.endPart q).fv .partStatusActive [p] = if p = q then 0 else u.fv .partStatusActive [p] := by
  obtain ⟨hkill, hplate, hedition⟩ := endPart_ne_status p q
  have hset : (u.endPart q).fv .partStatusActive [p] = (u.setf .partStatusActive [q] 0).fv .partStatusActive [p] := by
    unfold State.fv State.endPart
    rw [State.rv_setv_ne _ _ hedition, State.rv_setv_ne _ _ hplate, State.rv_setv_ne _ _ hkill]
  rw [hset]
  split
  next heq => subst heq; exact State.fv_setf_same h _ _ _ (by decide) (by decide)
  next hne => exact State.fv_setf_ne _ _ (status_ne_status hne)

/-- Every partition of a list is unformed after its end, and one that was not formed stays so. -/
theorem State.endParts_status {u : State} (h : u.wf = true) {l : List Nat} {p : Nat}
    (hp : p ∈ l ∨ u.fv .partStatusActive [p] = 0) : (l.foldl State.endPart u).fv .partStatusActive [p] = 0 := by
  induction l generalizing u with
  | nil => exact hp.resolve_left List.not_mem_nil
  | cons q l ih =>
    rw [List.foldl_cons]
    refine ih (u.endPart_wf h q) ?_
    rw [State.endPart_status h]
    by_cases hq : p = q
    · exact .inr (if_pos hq)
    · rw [if_neg hq]
      exact hp.imp_left fun hm => (List.mem_cons.1 hm).resolve_left hq

theorem domainOn_not_part : ∀ q, q < 32 → Rg.at .powerDomainOn [] ≠ Rg.at .partStatus [q] ∧
    Rg.at .powerDomainOn [] ≠ Rg.at .partKillState [q] ∧ Rg.at .powerDomainOn [] ≠ Rg.at .partPlateState [q] ∧
    Rg.at .powerDomainOn [] ≠ Rg.at .partPlateEdition [q] := by decide

theorem State.endParts_domains {l : List Nat} (hl : ∀ q ∈ l, q < 32) :
    (l.foldl State.endPart s).rv .powerDomainOn [] = s.rv .powerDomainOn [] := by
  refine State.foldl_stays s (fun u => u.rv .powerDomainOn []) (fun q hq u => ?_)
  obtain ⟨hstatus, hkill, hplate, hedition⟩ := domainOn_not_part q (hl q hq)
  unfold State.endPart State.setf
  rw [State.rv_setv_ne _ _ hedition, State.rv_setv_ne _ _ hplate, State.rv_setv_ne _ _ hkill, State.rv_setv_ne _ _ hstatus]

/-- What the end of every partition leaves: no partition, sequence, block, directory entry or swap key; domains, the library,
the firmware store and the rest of the seal unit as they were. -/
structure State.NoPartition (s t : State) : Prop where
  formed : ∀ p, t.formed p = false
  on : ∀ d, t.domainOn d = s.domainOn d
  wf : t.wf = true
  flash : t.flash = s.flash
  seqs : t.seqs = []
  blocks : t.blocks = []
  dir : t.dir = []
  sealUnit : t.sealUnit = { s.sealUnit with swapKeys := [] }
  mgmt : t.mgmt = s.mgmt

/-- What is lost beside the partitions' registers (R517, R539, R577). -/
def State.loseTables (t : State) : State :=
  let ps : Tab Part := t.parts.map (fun (e : Nat × Part) => (e.1, { Part.reset with faultQ := e.2.faultQ }))
  let u := { t with parts := ps.filter (fun e => e.2 != Part.reset), seqs := [], blocks := [], dir := [], hubWait := [],
                    hubMsgs := [], hubOut := [], swapPath := [] }
  u.setSeal { u.sealUnit with swapKeys := [] }

theorem State.loseParts_eq : s.loseParts = ((List.range 32).foldl State.endPart s).loseTables := rfl

theorem State.loseParts_noPartition (h : s.wf = true) : s.NoPartition s.loseParts := by
  have hwf := (State.loseParts_keeps (.refl s)).wf h
  have hactive (p : Nat) (hp : p < 32) := State.endParts_status h (l := List.range 32) (p := p) (.inl (List.mem_range.2 hp))
  have hdomains := s.endParts_domains (l := List.range 32) (fun q => List.mem_range.1)
  have hflash := State.foldl_stays s State.flash (f := State.endPart) (xs := List.range 32) (fun p _ u => u.endPart_flash p)
  have hseal := State.foldl_stays s State.sealUnit (f := State.endPart) (xs := List.range 32) (fun p _ u => u.endPart_sealUnit p)
  have hmgmt := State.foldl_stays s State.mgmt (f := State.endPart) (xs := List.range 32) (fun p _ u => u.endPart_mgmt p)
  rw [State.loseParts_eq] at hwf ⊢
  generalize (List.range 32).foldl State.endPart s = u at *
  exact {
    formed := fun p => by
      by_cases hp : p < 32
      · have hz : u.loseTables.fv .partStatusActive [p] = 0 := hactive p hp
        simp [State.formed, hz]
      · simp [State.formed, hp]
    on := fun d => by
      have hv : u.loseTables.rv .powerDomainOn [] = s.rv .powerDomainOn [] := hdomains
      unfold State.domainOn
      rw [hv]
    wf := hwf
    flash := hflash
    seqs := rfl
    blocks := rfl
    dir := rfl
    sealUnit := by rw [← hseal]; rfl
    mgmt := hmgmt }
end

/-! ### Stop, trip and reset -/

/-- What no partition outlives, and what stays of the library, the seal unit and the firmware store (R517, R518, R571). -/
structure State.Ended (s t : State) : Prop where
  formed : ∀ p, t.formed p = false
  on : ∀ d, d < 42 → t.domainOn d = false
  flash : t.flash = if s.domainOn 41 then s.flash.powerOff else s.flash
  seqs : t.seqs = []
  blocks : t.blocks = []
  dir : t.dir = []
  sealUnit : t.sealUnit = { s.sealUnit with swapKeys := [] }
  update : t.mgmt.update = s.mgmt.update
  bankA : t.mgmt.bankA = s.mgmt.bankA
  bankB : t.mgmt.bankB = s.mgmt.bankB
  runB : t.mgmt.runB = s.mgmt.runB
  pendingBank : t.mgmt.pendingBank = s.mgmt.pendingBank

section
variable {s t u : State}

theorem State.formed_of_status (h : ∀ p, p < 32 → u.rv .partStatus [p] = t.rv .partStatus [p]) (p : Nat) :
    u.formed p = t.formed p := by
  unfold State.formed State.fv
  by_cases hp : p < 32
  · rw [h p hp]
  · simp [hp]

/-- Partitions lost, then every domain off. -/
theorem State.NoPartition.ended {ds : List Nat} (h : s.NoPartition t) (k : t.Off ds u) (hd : ∀ d, d < 42 → ds.contains d = true) :
    s.Ended u where
  formed p := (State.formed_of_status k.status p).trans (h.formed p)
  on d hlt := by rw [k.on, hd d hlt, Bool.not_true, Bool.and_false]
  flash := by rw [k.flash, hd 41 (by decide), Bool.and_true, h.on, h.flash]
  seqs := k.seqs.trans h.seqs
  blocks := k.blocks.trans h.blocks
  dir := k.dir.trans h.dir
  sealUnit := k.sealUnit.trans h.sealUnit
  update := by rw [k.mgmt, h.mgmt]
  bankA := by rw [k.mgmt, h.mgmt]
  bankB := by rw [k.mgmt, h.mgmt]
  runB := by rw [k.mgmt, h.mgmt]
  pendingBank := by rw [k.mgmt, h.mgmt]

/-- What touches no domain any more keeps the end. -/
theorem State.Ended.off (h : s.Ended t) (k : t.Off [] u) : s.Ended u where
  formed p := (State.formed_of_status k.status p).trans (h.formed p)
  on d hlt := by rw [k.on, h.on d hlt, Bool.false_and]
  flash := by rw [k.flash, h.on 41 (by decide), Bool.false_and, if_neg Bool.false_ne_true, h.flash]
  seqs := k.seqs.trans h.seqs
  blocks := k.blocks.trans h.blocks
  dir := k.dir.trans h.dir
  sealUnit := k.sealUnit.trans h.sealUnit
  update := by rw [k.mgmt, h.update]
  bankA := by rw [k.mgmt, h.bankA]
  bankB := by rw [k.mgmt, h.bankB]
  runB := by rw [k.mgmt, h.runB]
  pendingBank := by rw [k.mgmt, h.pendingBank]

/-- The cause of the next start-up is beside what the end leaves. -/
theorem State.Ended.setCause (h : s.Ended t) (c : Nat) : s.Ended (t.setMgmt { t.mgmt with cause := c }) where
  formed := h.formed
  on := h.on
  flash := h.flash
  seqs := h.seqs
  blocks := h.blocks
  dir := h.dir
  sealUnit := h.sealUnit
  update := h.update
  bankA := h.bankA
  bankB := h.bankB
  runB := h.runB
  pendingBank := h.pendingBank

/-- A state entered beforehand is not what the end of partitions speaks of. -/
theorem State.NoPartition.of_state {st : Nat} (h : (s.setf .powerPwrStatusState [] st).NoPartition t) : s.NoPartition t where
  formed := h.formed
  on d := by
    rw [h.on]
    unfold State.domainOn State.setf
    rw [State.rv_setv_ne _ _ (by decide)]
  wf := h.wf
  flash := h.flash
  seqs := h.seqs
  blocks := h.blocks
  dir := h.dir
  sealUnit := h.sealUnit
  mgmt := h.mgmt

variable (s)

theorem State.loseParts_under_state (h : s.wf = true) (st : Nat) :
    s.NoPartition (s.setf .powerPwrStatusState [] st).loseParts :=
  (State.loseParts_noPartition _ (State.setf_wf h _ _ _)).of_state

theorem State.stop_ended (h : s.wf = true) (trigger : Nat) {t off : State}
    (ht : t = ((s.endRun 3 41).bbWrite none 0x11 5 (payloadOf [(0, 2, s.power.vMin), (2, 1, trigger % 2)])).drainBBox)
    (hoff : off = (t.setBBox t.bbox.save).switchOffAll [41]) :
    s.Ended ((off.setMgmt { off.mgmt with cause := 2 }).platformEvent 1 3) := by
  have hlost := s.loseParts_under_state h 3
  have hcut := State.switchOffAll_off _ hlost.wf (ds := List.range 41) (fun d hd => by have := List.mem_range.1 hd; omega)
  have hsaved := ((hcut.trans (State.bbWrite_none_noted _ 0x11 5
    (payloadOf [(0, 2, s.power.vMin), (2, 1, trigger % 2)])).off).trans (State.drainBBox_off _)).trans
    (State.setBBox_off _ t.bbox.save)
  subst ht hoff
  have hall := hsaved.trans (State.switchOffAll_off _ (hsaved.wf hlost.wf) (ds := [41]) (by decide))
  exact ((hlost.ended hall (by decide)).setCause 2).off (State.platformEvent_noted _ 1 3).off

theorem State.tripSeen_off (source junction : Nat) : s.Off [] (s.tripSeen source junction) := s.setPower_off _

theorem State.trip_ended (h : s.wf = true) (source junction : Nat) {t : State}
    (ht : t = (((s.endRun 4 42).bbWrite none 0x12 6 (payloadOf [(0, 1, source), (1, 1, junction)])).drainBBox).tripSeen
      source junction) : s.Ended ((t.setMgmt { t.mgmt with cause := 3 }).platformEvent 1 4) := by
  have hlost := s.loseParts_under_state h 4
  have hcut := State.switchOffAll_off _ hlost.wf (ds := List.range 42) (fun d => List.mem_range.1)
  have hall := ((hcut.trans (State.bbWrite_none_noted _ 0x12 6 (payloadOf [(0, 1, source), (1, 1, junction)])).off).trans
    (State.drainBBox_off _)).trans (State.tripSeen_off _ source junction)
  subst ht
  exact ((hlost.ended hall (by decide)).setCause 3).off (State.platformEvent_noted _ 1 4).off

theorem State.cut_ended (h : s.wf = true) : s.Ended (s.loseParts.switchOffAll (List.range 42)) := by
  have hlost := s.loseParts_noPartition h
  exact hlost.ended (State.switchOffAll_off _ hlost.wf (fun d => List.mem_range.1)) (by decide)
end

/-- Settles O28: each ending loses the partitions and then every domain; records, events and the cause come beside that. -/
theorem nothingOfAPartitionOutlivesItsDomains : Obligations.NothingOfAPartitionOutlivesItsDomains := by
  unfold Obligations.NothingOfAPartitionOutlivesItsDomains
  intro s trigger source junction hwf left
  have hleft (t : State) (h : s.Ended t) : left t := by
    refine ⟨h.formed, h.seqs, h.blocks, h.dir, (congrArg Seal.swapKeys h.sealUnit :), h.on, h.flash, ?_,
      (congrArg Seal.fused h.sealUnit :), (congrArg Seal.primaryRevoked h.sealUnit :), fun hu =>
        ⟨h.update.trans hu, h.bankA, h.bankB, h.runB, h.pendingBank⟩⟩
    rw [h.flash]
    split <;> rfl
  refine ⟨fun hp hon => ?stop, fun hp => ?trip, ?reset⟩
  case stop => exact ⟨_, execControlledStop_of_running hp hon rfl rfl, hleft _ (s.stop_ended hwf trigger rfl rfl)⟩
  case trip => exact ⟨_, execHardwareTrip_of_outside hp rfl, hleft _ (s.trip_ended hwf source junction rfl)⟩
  case reset =>
    have hcut := s.cut_ended hwf
    by_cases hp : s.powerState = 4
    · exact ⟨_, execModResetNAssert_of_trip hp rfl, hleft _ (hcut.off (State.setPower_off _ _))⟩
    · exact ⟨_, execModResetNAssert_of_outside hp rfl, hleft _ ((hcut.off (State.setPower_off _ _)).setCause 1)⟩

end Sys2Proof.Machine
end

section
/-! SUPPORT. An accepted clear of the black box (R547 to R551, R561): the slots that it writes, and what it shows. -/

namespace Sys2Proof.Machine

/-! ### Slots of the MRAM -/

/-- A table's entry read back after it has been set. -/
theorem tabGet_tabSet_self {α : Type} [DecidableEq α] (d : Nat → α) (t : Tab α) (k : Nat) (v : α) :
    tabGet d (tabSet d t k v) k = v := by
  unfold tabSet
  split
  next h => rw [tabGet_tabDel_same, h]
  next => exact tabGet_tabIns_same d t k v

/-- Bits below a bit vector's width do not see that it is cut. -/
theorem bitsOf_toNat_ofNat (n : Nat) {k hi lo : Nat} (h : hi < k) : bitsOf (BitVec.ofNat k n).toNat hi lo = bitsOf n hi lo := by
  unfold bitsOf
  rw [BitVec.toNat_ofNat]
  refine Nat.eq_of_testBit_eq (fun i => ?_)
  simp only [Nat.testBit_mod_two_pow, Nat.testBit_shiftRight]
  by_cases hi' : i < hi + 1 - lo
  · have : lo + i < k := by omega
    simp [this]
  · simp [hi']

/-- SEQ stands in bits 175 to 128 of a record (R551). -/
theorem recSeq_bbRecord (ts wall seq boot typ cls flags payload : Nat) :
    recSeq (bbRecord ts wall seq boot typ cls flags payload) = seq % 2 ^ 48 := by
  have h480 (c : Nat) : c * 2 ^ 480 = c * 2 ^ 304 * 2 ^ 176 := by rw [Nat.mul_assoc, ← Nat.pow_add]
  unfold recSeq bbRecord
  dsimp only
  rw [bitsOf_toNat_ofNat _ (by decide), h480]
  generalize crc32c _ * 2 ^ 304 = crc
  unfold bitsOf
  rw [Nat.shiftRight_eq_div_pow]
  have hts := Nat.mod_lt ts (y := 2 ^ 64) (by decide)
  have hwall := Nat.mod_lt wall (y := 2 ^ 64) (by decide)
  have hseq := Nat.mod_lt seq (y := 2 ^ 48) (by decide)
  generalize ts % 2 ^ 64 = a at *
  generalize wall % 2 ^ 64 = b at *
  generalize seq % 2 ^ 48 = q at *
  generalize boot % 2 ^ 16 = c, typ % 256 = d, cls % 256 = e, flags % 256 = f, payload % 2 ^ 256 = p
  omega

/-- A slot of a black box's MRAM. -/
def BBox.slot (b : BBox) (i : Nat) : Line := tabGet (fun _ => 0) b.mram i

section
variable (b : BBox) (r : Line)

/-- The save of HEAD_SEQ touches slots 0 and 1 of the control block alone (R550). -/
theorem BBox.slot_save {i : Nat} (hi : 2 ≤ i) : b.save.slot i = b.slot i := by
  have hne : i ≠ bit01 b.saveB := by
    cases b.saveB
    · exact Nat.ne_of_gt (Nat.lt_of_lt_of_le Nat.zero_lt_two hi)
    · exact Nat.ne_of_gt (Nat.lt_of_lt_of_le Nat.one_lt_two hi)
  unfold BBox.slot BBox.save
  generalize ctlSlot _ = w
  exact tabGet_tabSet_ne _ _ _ hne

theorem BBox.save_cleared : b.save.cleared = b.cleared := by
  cases b
  rfl

theorem BBox.save_ffCount : b.save.ffCount = b.ffCount := by
  cases b
  rfl

/-- The ring slot of a record. -/
def ringSlot (r : Line) : Nat := ringBase + recSeq r % ringSlots

theorem ringSlot_ge (r : Line) : 4160 ≤ ringSlot r := Nat.le_add_right _ _

/-- The writer's state once a record that is no first fault stands in its ring slot (R548). -/
def BBox.ringWritten : BBox :=
  { b with mram := tabSet (fun _ => 0) b.mram (ringSlot r) r, head := max b.head (recSeq r + 1) }

theorem BBox.ringWritten_cleared : (b.ringWritten r).cleared = b.cleared := by
  cases b
  rfl

theorem BBox.ringWritten_ffCount : (b.ringWritten r).ffCount = b.ffCount := by
  cases b
  rfl

theorem BBox.write_ring : b.write r false = if (recSeq r + 1) % 256 = 0 then (b.ringWritten r).save else b.ringWritten r := rfl

theorem BBox.slot_write {i : Nat} (hi : 2 ≤ i) : (b.write r false).slot i = if i = ringSlot r then r else b.slot i := by
  have hring : (b.ringWritten r).slot i = if i = ringSlot r then r else b.slot i := by
    split
    next heq => subst heq; exact tabGet_tabSet_self _ _ _ _
    next hne => exact tabGet_tabSet_ne _ _ _ hne
  rw [BBox.write_ring]
  split
  · rw [BBox.slot_save _ hi, hring]
  · exact hring

theorem BBox.write_cleared : (b.write r false).cleared = b.cleared := by
  rw [BBox.write_ring]
  split
  · rw [BBox.save_cleared, BBox.ringWritten_cleared]
  · exact b.ringWritten_cleared r

theorem BBox.write_ffCount : (b.write r false).ffCount = b.ffCount := by
  rw [BBox.write_ring]
  split
  · rw [BBox.save_ffCount, BBox.ringWritten_ffCount]
  · exact b.ringWritten_ffCount r

/-- The clear state touches slot 2 of the control block alone (R547, R561). -/
theorem BBox.slot_saveClear (area : Bool) (i : Nat) : (b.saveClear area).slot i =
    if i = 2 then ctlSlot (b.cleared % 2 ^ 48 + (if area then b.cleared else bitsOf (b.slot 2).toNat 95 48) * 2 ^ 48)
    else b.slot i := by
  unfold BBox.saveClear BBox.slot
  dsimp only
  generalize ctlSlot _ = w
  split
  next heq => subst heq; exact tabGet_tabSet_self _ _ _ _
  next hne => exact tabGet_tabSet_ne _ _ _ hne

theorem BBox.saveClear_cleared (area : Bool) : (b.saveClear area).cleared = b.cleared := by
  cases b
  rfl

theorem BBox.saveClear_ffCount (area : Bool) : (b.saveClear area).ffCount = b.ffCount := by
  cases b
  rfl
end

/-! ### The clear -/

section
variable (s : State)

/-- The state in which an accepted clear has read its block and shown its result (R561, R562). -/
def State.clearServed (token : Nat) (b : List Byte) : State :=
  (((s.blockRead (s.fv .bboxClrAddrAddr []) (some b)).setf .bboxClrStatusBusy [] 0).setf .bboxBbStateClearing [] 0).clearDone
    token 0

/-- The CLEARED record (R553). -/
def State.clearRecord (arg : Nat) : Line :=
  bbRecord s.now.toNat 0 s.bbox.nextSeq s.bbox.boots 0x06 0 0 (payloadOf [(0, 1, arg), (8, 6, s.bbox.nextSeq - 1)])

/-- The black box with the CLEARED record written and, where the argument says so, the first faults cleared (R561). -/
def BBox.clearWritten (b : BBox) (r : Line) (arg : Nat) : BBox :=
  let c := { b with nextSeq := b.nextSeq + 1, cleared := b.nextSeq }.write r false
  if arg = 1 then { c with ffCount := 0 } else c

theorem execClear_of_accepted {b : List Byte} (h : s.clearResult (some b) = 0) (ho : s.sealUnit.owner = none) (token : Nat)
    {u : State} (hu : u = s.clearServed token b) : execClear token (some b) s =
      .next (((u.setBBox ((u.bbox.clearWritten (u.clearRecord (leAt b 4 1)) (leAt b 4 1)).saveClear (leAt b 4 1 == 1))).showBBox).sealRecord
        0x40 (leAt b 4 1) 0) := by
  subst hu
  unfold execClear
  rw [h]
  extract_lets res arg op t0 t1 x r c0 c1 c2 t2 u t3
  have ht0 : t0 = s.blockRead (s.fv .bboxClrAddrAddr []) (some b) := if_neg (by decide)
  clear_value t0
  subst ht0
  rw [if_pos rfl]
  have ht3 : t3 = t2 := if_neg (by rw [show t2.sealUnit.owner = none from ho]; decide)
  rw [ht3]
  rfl
end

theorem State.bbPut_bbox (s : State) (p : Option Nat) (typ cls payload : Nat) :
    (s.bbPut p typ cls payload).bbox.mram = s.bbox.mram ∧ (s.bbPut p typ cls payload).bbox.cleared = s.bbox.cleared ∧
      (s.bbPut p typ cls payload).bbox.ffCount = s.bbox.ffCount := by
  unfold State.bbPut
  split
  · exact ⟨rfl, rfl, rfl⟩
  · exact ⟨rfl, rfl, rfl⟩

@[simp] theorem State.bbPut_sealUnit (s : State) (p : Option Nat) (typ cls payload : Nat) :
    (s.bbPut p typ cls payload).sealUnit = s.sealUnit := by rw [(s.bbPut_noted p typ cls payload).rest]

theorem BBox.clearWritten_cleared (b : BBox) (r : Line) (arg : Nat) : (b.clearWritten r arg).cleared = b.nextSeq := by
  have h := BBox.write_cleared { b with nextSeq := b.nextSeq + 1, cleared := b.nextSeq } r
  unfold BBox.clearWritten
  dsimp only
  split
  · exact h
  · exact h

theorem BBox.clearWritten_ffCount (b : BBox) (r : Line) (arg : Nat) :
    (b.clearWritten r arg).ffCount = if arg = 1 then 0 else b.ffCount := by
  have h := BBox.write_ffCount { b with nextSeq := b.nextSeq + 1, cleared := b.nextSeq } r
  unfold BBox.clearWritten
  dsimp only
  split
  · rfl
  · exact h

theorem BBox.slot_clearWritten (b : BBox) (r : Line) (arg : Nat) {i : Nat} (hi : 2 ≤ i) :
    (b.clearWritten r arg).slot i = if i = ringSlot r then r else b.slot i := by
  have h := BBox.slot_write { b with nextSeq := b.nextSeq + 1, cleared := b.nextSeq } r hi
  unfold BBox.clearWritten
  dsimp only
  split
  · exact h
  · exact h

/-- A clear of the argument 0 or 1 with nonce and signature zero, on a module without an owner, is accepted (R561). -/
theorem State.clearResult_zero {s : State} {b : List Byte} (hr : s.bbReady = true) (hp : s.powerState < 3)
    (ho : s.sealUnit.owner = none) (hop : leAt b 0 1 = 0x40) (harg : leAt b 4 1 ≤ 1) (hn : leAt b 8 8 = 0)
    (hz : ((b.drop 112).take 96).all (· == 0) = true) : s.clearResult (some b) = 0 := by
  unfold State.clearResult Seal.checkBlock
  rw [if_neg (by rw [hr]; simp; omega), ho]
  dsimp only
  rw [if_neg (by omega), if_pos ⟨hn, hz⟩]

/-- Settles O38: the CLEARED record is written, then the clear state; what the clear shows and records beside them touches no
slot. -/
theorem clearMovesTheOldestRecord : Obligations.ClearMovesTheOldestRecord := by
  unfold Obligations.ClearMovesTheOldestRecord
  intro s token b hr hp ho hop harg hn hz
  have hres := State.clearResult_zero hr hp ho hop harg hn hz
  refine ⟨_, execClear_of_accepted s hres ho token rfl, ?_⟩
  have hbox : (s.clearServed token b).bbox = s.bbox := rfl
  have hunit : (s.clearServed token b).sealUnit = s.sealUnit := rfl
  generalize s.clearServed token b = u at *
  have hseq : recSeq (u.clearRecord (leAt b 4 1)) = s.bbox.nextSeq % 2 ^ 48 := by rw [State.clearRecord, recSeq_bbRecord, hbox]
  generalize u.clearRecord (leAt b 4 1) = r at *
  have hring : ringSlot r = ringBase + s.bbox.nextSeq % 2 ^ 48 % ringSlots := by rw [ringSlot, hseq]
  have hcw (i : Nat) (hi : 2 ≤ i) := u.bbox.slot_clearWritten r (leAt b 4 1) hi
  have hclear := u.bbox.clearWritten_cleared r (leAt b 4 1)
  have hcount := u.bbox.clearWritten_ffCount r (leAt b 4 1)
  generalize u.bbox.clearWritten r (leAt b 4 1) = w at *
  -- what is shown and recorded after the clear
  have hshown : ((u.setBBox (w.saveClear (leAt b 4 1 == 1))).showBBox).bbox = w.saveClear (leAt b 4 1 == 1) := rfl
  have hkept : ((u.setBBox (w.saveClear (leAt b 4 1 == 1))).showBBox).sealUnit = u.sealUnit := rfl
  generalize (u.setBBox (w.saveClear (leAt b 4 1 == 1))).showBBox = v at *
  obtain ⟨hmram, hcleared, hff⟩ := v.bbPut_bbox none 0x05 0 (payloadOf [(0, 1, 0x40), (1, 1, leAt b 4 1), (2, 1, 0)])
  have hslot (i : Nat) : (v.sealRecord 0x40 (leAt b 4 1) 0).slot i = (w.saveClear (leAt b 4 1 == 1)).slot i := by
    unfold State.slot BBox.slot State.sealRecord
    rw [hmram, hshown]
  have hbase : ringSlot r ≠ 2 := by have := ringSlot_ge r; omega
  refine ⟨?_, ?_, ?_, ?_, ?_, fun i h64 hne => ?_⟩
  · rw [State.sealRecord, hcleared, hshown, BBox.saveClear_cleared, hclear, hbox]
  · rw [State.sealRecord, hff, hshown, BBox.saveClear_ffCount, hcount, hbox]
  · rw [State.sealRecord, State.bbPut_sealUnit, hkept, hunit]
  · rw [← hring, hslot, BBox.slot_saveClear, if_neg hbase, hcw _ (by have := ringSlot_ge r; omega), if_pos rfl, hseq]
  · rw [hslot, BBox.slot_saveClear, if_pos rfl, hcw 2 le_rfl, if_neg hbase.symm, hclear, hbox]
    simp only [beq_iff_eq]
    rfl
  · rw [hslot, BBox.slot_saveClear, if_neg (by omega), hcw i (by omega), if_neg (by rw [hring]; exact hne), hbox]
    rfl

end Sys2Proof.Machine
end

section
/-! SUPPORT. The main input (R573): what each domain that becomes usable brings, and that it touches neither the domains that are
on nor STAGE. -/

namespace Sys2Proof.Machine

/-! ### Domains that go on -/

/-- The words of DOMAIN_ON and of BOOT. -/
def upAddrs : List Nat := [Rg.at .powerDomainOn [], Rg.at .hubBoot []]

/-- Between two states the domains of a list, and no others, are switched on, and STAGE stands. -/
structure State.Up (ds : List Nat) (s t : State) : Prop where
  wf : s.wf = true → t.wf = true
  on : ∀ e, t.domainOn e = (s.domainOn e || ds.contains e)
  stage : t.fv .hubBootStage [] = s.fv .hubBootStage []

section
variable {s t u : State} {ds es : List Nat}

theorem State.Up.trans (h : s.Up ds t) (k : t.Up es u) : s.Up (ds ++ es) u where
  wf w := k.wf (h.wf w)
  on e := by
    rw [k.on, h.on]
    simp [Bool.or_assoc]
  stage := k.stage.trans h.stage

/-- Neither word changes. -/
theorem State.Up.of_same (hw : s.wf = true → t.wf = true) (hv : ∀ r ix, Rg.at r ix ∈ upAddrs → t.rv r ix = s.rv r ix) :
    s.Up [] t where
  wf := hw
  on e := by
    unfold State.domainOn
    rw [hv _ _ (by decide)]
    simp
  stage := by
    unfold State.fv
    rw [hv _ _ (by decide)]

theorem State.Noted.up (h : s.Noted t) : s.Up [] t :=
  .of_same h.wf (fun r ix hr => h.val r ix ((by decide : ∀ a ∈ upAddrs, a ∉ noteAddrs) _ hr))

theorem State.Up.foldl {α : Type} {f : State → α → State} {xs : List α} (h : ∀ x ∈ xs, ∀ u : State, u.Up [] (f u x))
    (s : State) : s.Up [] (xs.foldl f s) := by
  induction xs generalizing s with
  | nil => exact .of_same id (fun _ _ _ => rfl)
  | cons x xs ih => exact (h x List.mem_cons_self s).trans (ih (fun y hy => h y (List.mem_cons_of_mem _ hy)) _)

variable (s)

theorem State.up_refl : s.Up [] s := .of_same id (fun _ _ _ => rfl)

theorem State.setv_up {r : Rg} {ix : List Nat} (h : r.at ix ∉ upAddrs) (w : Word) : s.Up [] (s.setv r ix w) :=
  .of_same (fun k => State.setv_wf k r ix w) (fun _ _ hq => State.rv_setv_ne s w (fun e => h (e ▸ hq)))

theorem State.setFlash_up (x : Flash) : s.Up [] (s.setFlash x) := .of_same id (fun _ _ _ => rfl)

theorem State.setPort_up (q : Nat) (x : Port) : s.Up [] (s.setPort q x) := .of_same id (fun _ _ _ => rfl)

theorem State.setSeal_up (x : Seal) : s.Up [] (s.setSeal x) := .of_same id (fun _ _ _ => rfl)

variable {s}

/-- The bit of a domain goes to 1 and no other with it. -/
theorem State.setDomain_up (h : s.wf = true) {d : Nat} (hd : d < 64) :
    s.Up [d] (s.setv .powerDomainOn [] (putBits (s.rv .powerDomainOn []) d d 1)) where
  wf w := State.setv_wf w _ _ _
  on e := by
    unfold State.domainOn
    rw [State.rv_setv_same h, ← BitVec.getLsbD, ← BitVec.getLsbD, putBits_getLsbD _ _ _ _ _ hd le_rfl]
    by_cases he : e = d
    · subst he
      simp
    · rw [if_neg (by omega)]
      simp [he]
  stage := by
    unfold State.fv
    rw [State.rv_setv_ne _ _ (by decide)]
end

/-! ### What a domain brings -/

section
variable (s : State)

theorem hubEdge_not_up : ∀ n, n < 10 → Rg.at .hubEdge [n] ∉ upAddrs := by decide

theorem State.testEdges_up (die : Nat) (codes : List Nat) : s.Up [] (s.testEdges die codes) := by
  refine .foldl (fun e he u => u.setv_up (hubEdge_not_up _ (edgesOf_lt (k := die) ?_)) _) s
  exact List.fst_mem_of_mem_zipIdx he

theorem State.setSupply_up (d code : Nat) : s.Up [] (s.setSupply d code) := by
  unfold State.setSupply
  split
  · exact s.setv_up (by decide) _
  · exact s.setv_up (by decide) _

theorem stackStatus_not_up : ∀ k, k < 8 → ∀ i, i < 4 → Rg.at .hbmStackStatus [k, i] ∉ upAddrs := by decide

/-- HBM_FAIL of a die stands beside STAGE in BOOT (R574). -/
theorem State.setHbmFail_up {s : State} (h : s.wf = true) {k : Nat} (hk : k < 8) :
    s.Up [] (s.setv .hubBoot [] (putBits (s.rv .hubBoot []) (40 + k) (40 + k) 1)) where
  wf w := State.setv_wf w _ _ _
  on e := by
    unfold State.domainOn
    rw [State.rv_setv_ne _ _ (by decide)]
    simp
  stage := by
    unfold State.fv Fld.get
    rw [State.rv_setv_same h, getBits_putBits_disjoint _ _ _ _ _ _ (by omega) le_rfl (.inr _)]
    change 40 + k < 60
    omega

theorem State.trainDie_up {s : State} (h : s.wf = true) {k : Nat} (hk : k < 8) (codes : List Nat) : s.Up [] (s.trainDie k codes) := by
  have htrain : s.Up [] ((List.range 4).foldl (fun u i =>
      (u.setf .hbmStackStatusTrained [k, i] (bit01 (codes.getD i 0 != 0))).setf .hbmStackStatusSlow [k, i]
        (bit01 (codes.getD i 0 == 2))) s) :=
    .foldl (fun i hi u => (u.setv_up (stackStatus_not_up k hk i (List.mem_range.1 hi)) _).trans
      (State.setv_up _ (stackStatus_not_up k hk i (List.mem_range.1 hi)) _)) s
  unfold State.trainDie
  dsimp only
  split
  · exact htrain.trans (State.setHbmFail_up (htrain.wf h) hk)
  · exact htrain

theorem portState_not_up : ∀ q, q < 128 → Rg.at .opticPortState (portIx q) ∉ upAddrs := by decide

theorem State.enterLock_up {q : Nat} (hq : q < 128) : s.Up [] (s.enterPort q 1) := by
  unfold State.enterPort
  dsimp only
  rw [if_neg (by omega : ¬ (1 = 6)), if_neg (by omega)]
  exact ((s.setv_up (portState_not_up q hq) _).trans (State.setv_up _ (portState_not_up q hq) _)).trans (State.setPort_up _ _ _)

theorem State.showLibrary_up : s.Up [] s.showLibrary :=
  ((s.setv_up (by decide) _).trans (State.setv_up _ (by decide) _)).trans (State.setv_up _ (by decide) _)

theorem chStatus_not_up : ∀ c, c < 64 → Rg.at .flashChStatus [c] ∉ upAddrs := by decide

theorem State.showChannel_up {c : Nat} (hc : c < 64) : s.Up [] (s.showChannel c) :=
  (s.setv_up (by decide) _).trans (State.setv_up _ (chStatus_not_up c hc) _)

theorem State.channelDown_up {c : Nat} (hc : c < 64) : s.Up [] (s.channelDown c) := by
  have hshow := (s.setFlash_up { s.flash with rebuilding :=
    if (s.flash.rebuilding.contains c) then s.flash.rebuilding else s.flash.rebuilding ++ [c] }).trans (State.showChannel_up _ hc)
  unfold State.channelDown
  dsimp only
  split
  · exact hshow
  · exact hshow.trans (State.bbWrite_none_noted _ _ _ _).up

theorem State.mountChannel_up {c : Nat} (hc : c < 64) (dies : Nat) : s.Up [] (s.mountChannel c dies) := by
  have hdies := s.setFlash_up { s.flash with dies := tabSet (fun _ => 0) s.flash.dies c (dies % 256) }
  unfold State.mountChannel
  dsimp only
  split
  · exact (hdies.trans (State.setFlash_up _ _)).trans (State.channelDown_up _ hc)
  · exact hdies.trans (State.showChannel_up _ hc)

theorem State.flashDone_up (c : FlashCmd) (code detail : Nat) : s.Up [] (s.flashDone c code detail) :=
  (s.setFlash_up _).trans ((State.alert_noted _ (by decide)).trans (State.msix_noted _ _)).up

theorem State.flashSweep_up (n : Nat) : s.Up [] (s.flashSweep n) := by
  induction n generalizing s with
  | zero => exact s.up_refl
  | succ n ih =>
    have hone (c : FlashCmd) : s.Up [] (((s.flashTake c).flashDone c FlashCode.badOp 0).flashSweep n) :=
      ((s.setFlash_up _).trans (State.flashDone_up _ c _ _)).trans (ih _)
    unfold State.flashSweep
    split
    · split
      · exact hone _
      · split
        · split
          · exact hone _
          · exact s.up_refl
        · exact s.up_refl
    · split
      · exact hone _
      · exact s.up_refl
    · exact s.up_refl

theorem State.mountLibrary_up (dies : List Nat) : s.Up [] (s.mountLibrary dies) := by
  refine .trans (ds := []) (es := []) ?_ (State.flashSweep_up _ 16)
  refine .trans (ds := []) (es := []) ?_ (State.setv_up _ (by decide) _)
  refine .trans (ds := []) (es := []) ?_ (State.showLibrary_up _)
  exact (s.setFlash_up _).trans (.foldl (fun c hc u => u.mountChannel_up (List.mem_range.1 hc) _) _)

/-- A domain that becomes usable goes on, and what it brings leaves the other domains and STAGE (R508). -/
theorem State.domainUsable_up {s : State} (h : s.wf = true) {d : Nat} (hd : d < 42) (codes : List Nat) :
    s.Up [d] (s.domainUsable d codes) := by
  have hset := State.setDomain_up h (d := d) (by omega)
  have hwf := hset.wf h
  unfold State.domainUsable
  dsimp only
  split
  · exact hset.trans ((State.testEdges_up _ _ _).trans (State.setSupply_up _ _ _))
  split
  · exact hset.trans (State.trainDie_up hwf (by omega) _)
  split
  · refine hset.trans (.foldl (fun i hi u => ?_) _)
    have hi8 := List.mem_range.1 hi
    split
    · exact u.enterLock_up (by omega)
    · exact u.up_refl
  split
  · exact hset
  · exact hset.trans (State.mountLibrary_up _ _)

/-- Domains that become usable in turn. -/
theorem State.domainsUsable_up {s : State} (h : s.wf = true) {l : List Nat} (g : Nat → Nat) (hg : ∀ k ∈ l, g k < 42)
    (codes : Nat → List Nat) : s.Up (l.map g) (l.foldl (fun u k => u.domainUsable (g k) (codes k)) s) := by
  induction l generalizing s with
  | nil => exact s.up_refl
  | cons k l ih =>
    have hfirst := State.domainUsable_up h (hg k List.mem_cons_self) (codes k)
    exact hfirst.trans (ih (hfirst.wf h) (fun j hj => hg j (List.mem_cons_of_mem _ hj)))
end

/-! ### The stage -/

section
variable {s : State}

/-- STAGE changes with its alert and its event beside it (R568, R582). -/
theorem State.setStage_noted {n : Nat} (h : s.fv .hubBootStage [] ≠ n) : (s.setf .hubBootStage [] n).Noted (s.setStage n) := by
  unfold State.setStage
  rw [if_neg h]
  exact (State.alert_noted _ (by decide)).trans (State.platformEvent_noted _ _ _)

theorem State.setStage_stage (h : s.wf = true) {n : Nat} (hn : s.fv .hubBootStage [] ≠ n) :
    (s.setStage n).fv .hubBootStage [] = n % 16 :=
  ((State.setStage_noted hn).fv _ _ (by decide)).trans (State.fv_setf_same h _ _ _ (by decide) (by decide))

theorem State.setStage_rv {n : Nat} (hn : s.fv .hubBootStage [] ≠ n) {r : Rg} {ix : List Nat} (hr : r.at ix ∉ noteAddrs)
    (hb : r.at ix ≠ Rg.at .hubBoot []) : (s.setStage n).rv r ix = s.rv r ix :=
  ((State.setStage_noted hn).val _ _ hr).trans (State.rv_setv_ne _ _ hb)
end

/-! ### The main input -/

section
variable (s : State) (training edgeFail dies : List Nat)

/-- Steps 6, 7 and 9 of start-up: the library, the host port, the dies with their stacks, the edges, the half-dies, the engines
(R573). -/
def State.powered : State :=
  let t := (s.domainUsable 41 dies).domainUsable 40 []
  let t := (List.range 8).foldl (fun u k => u.domainUsable (16 + k) ((training.drop (4 * k)).take 4)) t
  let t := (List.range 10).foldl (fun u n =>
    (u.setf .hubEdgeMemUp [n] 1).setf .hubEdgeSwFail [n] (edgeFail.getD n 0 % 2 ^ linksOf n)) t
  let t := (List.range 16).foldl (fun u d => u.domainUsable d []) t
  (List.range 16).foldl (fun u e => u.domainUsable (24 + e) []) t

/-- The health test of the TRNG shown (R527). -/
def State.healthTested (ok : Bool) : State :=
  (s.setSeal { s.sealUnit with trngFail := !ok }).setf .sealStatusTrngFail [] (bit01 (!ok))

theorem execMainInputStable_of_mgmt {s : State} (hr : s.power.inReset = false) (hp : s.powerState < 3)
    (hs : s.fv .hubBootStage [] = 2) (ok : Bool) {t : State}
    (ht : t = (((s.setAll .powerDomainEn [] allDomains).setStage 3).powered training edgeFail dies).healthTested ok) :
    execMainInputStable training edgeFail dies ok s =
      if ok then .next ((t.setf .hubBootReadyMs [] t.bootMs).setStage 4) else .next t := by
  subst ht
  unfold execMainInputStable
  rw [if_neg (by rw [hr]; simp; omega), if_neg (by omega), if_neg (by omega)]
  rfl

/-- The domains that start-up switches on, in its order. -/
def poweredDomains : List Nat :=
  [41] ++ [40] ++ (List.range 8).map (16 + ·) ++ (List.range 16).map (fun d => d) ++ (List.range 16).map (24 + ·)

theorem State.powered_up {s : State} (h : s.wf = true) : s.Up poweredDomains (s.powered training edgeFail dies) := by
  have hstore := State.domainUsable_up h (d := 41) (by decide) dies
  have hhost := hstore.trans (State.domainUsable_up (hstore.wf h) (d := 40) (by decide) [])
  have hstacks := hhost.trans (State.domainsUsable_up (hhost.wf h) (l := List.range 8) (16 + ·)
    (fun k hk => by have := List.mem_range.1 hk; omega) (fun k => (training.drop (4 * k)).take 4))
  have hedges := hstacks.trans (State.Up.foldl (xs := List.range 10) (f := fun u n =>
      (u.setf .hubEdgeMemUp [n] 1).setf .hubEdgeSwFail [n] (edgeFail.getD n 0 % 2 ^ linksOf n))
    (fun n hn u => (u.setv_up (hubEdge_not_up n (List.mem_range.1 hn)) _).trans
      (State.setv_up _ (hubEdge_not_up n (List.mem_range.1 hn)) _)) _)
  have hhalves := hedges.trans (State.domainsUsable_up (hedges.wf h) (l := List.range 16) (fun d => d)
    (fun k hk => by have := List.mem_range.1 hk; omega) (fun _ => []))
  have hports := hhalves.trans (State.domainsUsable_up (hhalves.wf h) (l := List.range 16) (24 + ·)
    (fun k hk => by have := List.mem_range.1 hk; omega) (fun _ => []))
  rw [List.append_nil] at hports
  exact hports

theorem poweredDomains_all : ∀ d, d < 42 → poweredDomains.contains d = true := by decide

/-- A health test touches neither the domains nor STAGE. -/
theorem State.healthTested_up (ok : Bool) : s.Up [] (s.healthTested ok) :=
  (s.setSeal_up _).trans (State.setv_up _ (by decide) _)

theorem State.healthTested_fail {s : State} (h : s.wf = true) (ok : Bool) :
    (s.healthTested ok).fv .sealStatusTrngFail [] = bit01 (!ok) := by
  refine (State.fv_setf_same (s := s.setSeal { s.sealUnit with trngFail := !ok }) h _ _ _ (by decide) (by decide)).trans ?_
  cases ok <;> rfl
end

/-- Settles O31: STAGE 3, the 42 domains, the health test; with the test passed STAGE 4. -/
theorem mainInputBringsTheModuleToReady : Obligations.MainInputBringsTheModuleToReady := by
  unfold Obligations.MainInputBringsTheModuleToReady
  intro s training edgeFail dies hwf hreset hp hstage
  -- the state at stage POWERING
  have hall : (s.setAll .powerDomainEn [] allDomains).wf = true := (State.setAll_keeps (.refl s) _ _ _).wf hwf
  have hne : (s.setAll .powerDomainEn [] allDomains).fv .hubBootStage [] ≠ 3 := by
    have : (s.setAll .powerDomainEn [] allDomains).fv .hubBootStage [] = 2 := hstage
    omega
  have hpowering : ((s.setAll .powerDomainEn [] allDomains).setStage 3).wf = true :=
    (State.setStage_noted hne).wf (State.setf_wf hall _ _ _)
  have hthree := State.setStage_stage hall hne
  have hexec (ok : Bool) := execMainInputStable_of_mgmt training edgeFail dies hreset hp hstage ok rfl
  generalize (s.setAll .powerDomainEn [] allDomains).setStage 3 = u at *
  -- the domains and the health test
  have hup (ok : Bool) := (State.powered_up training edgeFail dies hpowering).trans
    ((u.powered training edgeFail dies).healthTested_up ok)
  have hon (ok : Bool) (d : Nat) (hd : d < 42) : ((u.powered training edgeFail dies).healthTested ok).domainOn d = true := by
    rw [(hup ok).on, List.append_nil, poweredDomains_all d hd, Bool.or_true]
  have htested (ok : Bool) := (hup ok).wf hpowering
  have hfail (ok : Bool) := State.healthTested_fail ((State.powered_up training edgeFail dies hpowering).wf hpowering) ok
  refine ⟨?passed, ?failed⟩
  case failed => exact ⟨_, hexec false, hon false, (hup false).stage.trans hthree, hfail false⟩
  case passed =>
    refine ⟨_, hexec true, ?_⟩
    have hw := htested true
    have hd := hon true
    have hf := hfail true
    have hst := (hup true).stage.trans hthree
    generalize (u.powered training edgeFail dies).healthTested true = v at *
    have hready : (v.setf .hubBootReadyMs [] v.bootMs).fv .hubBootStage [] ≠ 4 := by
      rw [State.fv_setf_disjoint hw (by rfl) [] _ (by decide) (by decide) (by decide), hst]
      decide
    refine ⟨fun d hlt => ?_, State.setStage_stage (State.setf_wf hw _ _ _) hready, ?_⟩
    · rw [← hd d hlt]
      unfold State.domainOn
      rw [State.setStage_rv hready (by decide) (by decide), State.setf, State.rv_setv_ne _ _ (by decide)]
    · refine Eq.trans ?_ hf
      unfold State.fv
      rw [State.setStage_rv hready (by decide) (by decide), State.setf, State.rv_setv_ne _ _ (by decide)]

end Sys2Proof.Machine
end
